-- ==== Sys2Proof/Word.lean ====
section
/-!
DEFINITION. The plain data of the model: words, cache lines, and the sparse table that holds every
numbered family of registers, lines or units.
-/
namespace Sys2Proof

/-- A 64-bit register value. -/
abbrev Word := BitVec 64
/-- One byte. -/
abbrev Byte := BitVec 8
/-- The 64 bytes of a cache line; byte `i` is bits `[8*i+7 : 8*i]` (R161, R199 MASK). -/
abbrev Line := BitVec 512
/-- One bit per byte of a line (R199 MASK). -/
abbrev LineMask := BitVec 64
/-- A 56-bit physical address (R21). -/
abbrev Pa := BitVec 56
/-- A local address, PA[46:0] (R21). -/
abbrev La := BitVec 47

/-- A sparse table: keys strictly rising, no entry equal to the default of its table. -/
abbrev Tab (α : Type) := List (Nat × α)

/-- Reads key `k` of a table whose unlisted keys hold `d`. -/
def tabGet {α : Type} (d : α) : Tab α → Nat → α
  | [], _ => d
  | (j, v) :: t, k => if j = k then v else tabGet d t k

/-- Puts `v` at key `k` of a table in its place in the order. -/
def tabPut {α : Type} : Tab α → Nat → α → Tab α
  | [], k, v => [(k, v)]
  | (j, w) :: t, k, v => if k < j then (k, v) :: (j, w) :: t else if k = j then (k, v) :: t else (j, w) :: tabPut t k v

/-- Writes `v` at key `k` and keeps the canonical form: a value equal to the default removes the entry. -/
def tabSet {α : Type} [DecidableEq α] (d : α) (t : Tab α) (k : Nat) (v : α) : Tab α :=
  if v = d then t.filter fun p => p.1 != k else tabPut t k v

/-- Every key of `t` is above `lo` and rising, and no value is the default. -/
def tabWfFrom {α : Type} [DecidableEq α] (d : α) : Option Nat → Tab α → Bool
  | _, [] => true
  | lo, (j, v) :: t =>
    (match lo with | none => true | some l => decide (l < j)) && decide (v ≠ d) && tabWfFrom d (some j) t

/-- The canonical form of a table. -/
def tabWf {α : Type} [DecidableEq α] (d : α) (t : Tab α) : Bool := tabWfFrom d none t

/-- The keys of a table. -/
def tabKeys {α : Type} (t : Tab α) : List Nat := t.map Prod.fst

/-- A bit of a natural number read as a Bool. -/
abbrev bitOf (n i : Nat) : Bool := n.testBit i

/-- Bits `[hi:lo]` of a word as a natural number. -/
abbrev fld {w : Nat} (v : BitVec w) (hi lo : Nat) : Nat := (v.toNat >>> lo) % 2 ^ (hi - lo + 1)

/-- `v` with bits `[hi:lo]` replaced by the low bits of `x`. -/
def putFld {w : Nat} (v : BitVec w) (hi lo : Nat) (x : Nat) : BitVec w :=
  let m : BitVec w := BitVec.ofNat w ((2 ^ (hi - lo + 1) - 1) <<< lo)
  (v &&& ~~~m) ||| (BitVec.ofNat w (x <<< lo) &&& m)

/-- 1 for true, 0 for false. -/
abbrev b2n (b : Bool) : Nat := if b then 1 else 0

/-- Byte `i` of a little-endian value. -/
abbrev byteAt {w : Nat} (v : BitVec w) (i : Nat) : Byte := BitVec.ofNat 8 (v.toNat >>> (8 * i))

/-- The little-endian value of a list of bytes, first byte least significant. -/
def leNat : List Byte → Nat
  | [] => 0
  | b :: t => b.toNat + 256 * leNat t

/-- The `n` little-endian bytes of a value. -/
def leBytes (n : Nat) (v : Nat) : List Byte := (List.range n).map fun i => BitVec.ofNat 8 (v >>> (8 * i))

end Sys2Proof
end

