-- ==== Sys2Proof/Syntax/Names.lean ====
section
/-!
DEFINITION. The names that the commands use: units of the package, the operand forms of the cores'
instructions, mesh flits (R199) and Graop packets (R306).
-/
namespace Sys2Proof

/-- A hart: T-core hart `n` (hart ID `n`) or S-core `n` (hart ID `256 + n`), R5, R20. -/
inductive HartId where
  | t (n : Fin 192)
  | s (n : Fin 48)
  deriving DecidableEq, Repr

/-- Privilege modes of R41. -/
inductive Mode where
  | m | hs | u | vs | vu
  deriving DecidableEq, Repr

/-- Who performs an access (R28, R31): a hart in a mode, an engine, a root port, Rennet, another
package, or debug system bus access (R490). -/
inductive Master where
  | hart (h : HartId) (md : Mode)
  | engine (e : Fin 2)
  | root (i : Fin 6)
  | rennet
  | remote (pkg : Fin 512)
  | sba
  deriving DecidableEq, Repr

/-- Size of a scalar access. -/
inductive AccSize where
  | b1 | b2 | b4 | b8
  deriving DecidableEq, Repr

/-- An agent on the mesh: stop coordinates and the agent code at the stop (R17, R200). -/
structure Node where
  x : Fin 32
  y : Fin 10
  sub : Fin 8
  deriving DecidableEq, Repr

/-- Coherence states of R164. -/
inductive Moesi where
  | m | o | e | s | i
  deriving DecidableEq, Repr

/-- Flit opcodes of R201; `unused` stands for every other code. -/
inductive MsgOp where
  | lineRead | lineOwn | linePromote | lineClaim | maskFill | cleanKeep | cleanDrop | discardLine
  | prefetchRead | prefetchOwn
  | readNc | writeNc | atomicNc
  | returnDirty | returnClean
  | probeShare | probeTake | probeKill | probeClean
  | dataGrant | grant | probeAck | probeData | grantAck | writeDone | readReturn | dropped | errorReply
  | returnAck
  | memRead | memWrite | memWriteMasked
  | event
  | unused
  deriving DecidableEq, Repr

/-- AMO functions of the A extension and Zacas (R41); the mesh carries them in STS (R199). -/
inductive AmoFn where
  | swap | add | xor | and | or | min | max | minu | maxu | cas
  deriving DecidableEq, Repr

/-- One mesh flit (R198, R199).  `gst` is the line state a grant or an answer names, `who` the coherence
agent that a probe acts for, `fn` and `size` the AMO function and access size, `fwd` says that a
forwarded DataGrant is on its way or, in an answer, that the holder missed. -/
structure Flit where
  op : MsgOp
  src : Node
  dst : Node
  addr : La
  tag : BitVec 10
  mask : LineMask
  data : Option Line
  poison : Bool
  token : Bool
  sts : BitVec 8
  vc : Fin 8
  rid : Fin 128
  rpkg : Fin 512
  gst : Moesi
  who : Nat
  fn : AmoFn
  size : Nat
  fwd : Bool
  ewa : Bool
  tmo : Nat
  deriving DecidableEq, Repr

/-- What a router's check of a received flit finds (R202). -/
inductive FlitErr where
  | none | corrected | header | payload
  deriving DecidableEq, Repr

/-- Router ports of R195: L, E, W, S, N. -/
inductive Port where
  | l | e | w | s | n
  deriving DecidableEq, Repr

/-- Graop packet opcodes of R307. -/
inductive PktOp where
  | rdNc | wrNc | atomNc | blkRd | blkWr | rdData | wrAck | atomData | errResp
  | routeAdv | routeWithdraw | linkNotice
  | unused
  deriving DecidableEq, Repr

/-- One Graop packet (R306).  `data` and `mask` are its data units laid over the line of ADDR. -/
structure Pkt where
  op : PktOp
  dpkg : Fin 512
  spkg : Fin 512
  vc : Fin 8
  poison : Bool
  glink : Fin 8
  gtag : Fin 4096
  sts : BitVec 8
  size : Nat
  hop : Nat
  addr : La
  data : Line
  mask : LineMask
  fn : AmoFn
  deriving DecidableEq, Repr

/-- One range of package IDs named by a RouteAdv or RouteWithdraw unit (R321). -/
structure RouteUnit where
  first : Fin 512
  last : Fin 512
  hops : Fin 512
  deriving DecidableEq, Repr

/-- A second operand: a register or an immediate already sign- or zero-extended to 64 bits. -/
inductive Src where
  | reg (r : Fin 32)
  | imm (v : Word)
  deriving DecidableEq, Repr

/-- Integer operations of RV64I, M, Zba, Zbb, Zbs and Zicond (R41). -/
inductive IntOp where
  | add | sub | sll | slt | sltu | xor | srl | sra | or | and
  | addw | subw | sllw | srlw | sraw
  | lui | auipc
  | mul | mulh | mulhsu | mulhu | div | divu | rem | remu
  | mulw | divw | divuw | remw | remuw
  | adduw | sh1add | sh2add | sh3add | sh1adduw | sh2adduw | sh3adduw | slliuw
  | andn | orn | xnor | clz | ctz | cpop | clzw | ctzw | cpopw
  | max | maxu | min | minu | sextb | sexth | zexth | rol | ror | rolw | rorw | orcb | rev8
  | bclr | bext | binv | bset
  | czeroeqz | czeronez
  deriving DecidableEq, Repr

/-- Scalar floating-point formats of F and D, and the integer forms of their conversions. -/
inductive FpFmt where
  | s | d
  deriving DecidableEq, Repr

/-- Integer operand widths of the conversions. -/
inductive FpInt where
  | w | wu | l | lu
  deriving DecidableEq, Repr

/-- Scalar floating-point operations of F and D (R41, R81). -/
inductive FpOp where
  | add (f : FpFmt) | sub (f : FpFmt) | mul (f : FpFmt) | div (f : FpFmt) | sqrt (f : FpFmt)
  | madd (f : FpFmt) | msub (f : FpFmt) | nmsub (f : FpFmt) | nmadd (f : FpFmt)
  | sgnj (f : FpFmt) | sgnjn (f : FpFmt) | sgnjx (f : FpFmt)
  | min (f : FpFmt) | max (f : FpFmt)
  | eq (f : FpFmt) | lt (f : FpFmt) | le (f : FpFmt) | cls (f : FpFmt)
  | cvtToInt (f : FpFmt) (i : FpInt) | cvtFromInt (f : FpFmt) (i : FpInt)
  | cvtSD | cvtDS
  | mvToX (f : FpFmt) | mvFromX (f : FpFmt)
  deriving DecidableEq, Repr

/-- Source operand of a vector arithmetic instruction. -/
inductive VSrc where
  | v (r : Fin 32) | x (r : Fin 32) | i (imm : BitVec 5) | f (r : Fin 32)
  deriving DecidableEq, Repr

/-- Vector arithmetic operations (R81 to R84). -/
inductive VArith where
  | add | sub | rsub | and | or | xor | sll | srl | sra
  | minu | min | maxu | max
  | mul | mulh | mulhu | mulhsu | macc | nmsac | madd | nmsub
  | divu | div | remu | rem
  | merge | mv
  | adc | sbc | madc | msbc
  | saddu | sadd | ssubu | ssub | aaddu | aadd | asubu | asub | smul | ssrl | ssra
  | mseq | msne | msltu | mslt | msleu | msle | msgtu | msgt
  | waddu | wadd | wsubu | wsub | wadduw | waddw | wsubuw | wsubw
  | wmulu | wmul | wmulsu | wmaccu | wmacc | wmaccsu | wmaccus
  | nsrl | nsra | nclipu | nclip
  | zext2 | zext4 | zext8 | sext2 | sext4 | sext8
  | slideup | slidedown | slide1up | slide1down | gather | gatherei16 | compress
  | redsum | redand | redor | redxor | redminu | redmin | redmaxu | redmax | wredsumu | wredsum
  | mand | mnand | mandn | mxor | mor | mnor | morn | mxnor
  | cpop | first | msbf | msif | msof | iota | id
  | mvxs | mvsx | mvfs | mvsf | mvnr (n : Fin 9)
  | fadd | fsub | frsub | fmul | fdiv | frdiv | fsqrt | fmin | fmax
  | fmacc | fnmacc | fmsac | fnmsac | fmadd | fnmadd | fmsub | fnmsub
  | fsgnj | fsgnjn | fsgnjx | mfeq | mfne | mflt | mfle | mfgt | mfge | fclass | fmerge | fmv
  | fredosum | fredusum | fredmin | fredmax
  | fcvtxuf | fcvtxf | fcvtfxu | fcvtfx
  | fwadd | fwsub | fwmul | fwaddw | fwsubw | fwmacc | fwnmacc | fwmsac | fwnmsac
  | fwcvtff | fncvtff | fwcvtfxu | fwcvtfx | fwcvtxuf | fwcvtxf | fncvtxuf | fncvtxf | fncvtfxu | fncvtfx | fncvtrod
  | fwredosum | fwredusum | frsqrt7 | frec7
  | fslide1up | fslide1down
  | fcvtrtzxuf | fcvtrtzxf | fwcvtrtzxuf | fwcvtrtzxf | fncvtrtzxuf | fncvtrtzxf
  deriving DecidableEq, Repr

/-- Vector addressing: unit stride, fault-only-first, whole registers, mask, strided, indexed (R85, R86). -/
inductive VAddr where
  | unit | faultFirst | whole (n : Fin 9) | mask | strided (rs2 : Fin 32) | indexed (vs2 : Fin 32)
  deriving DecidableEq, Repr

/-- A vector instruction. `nf` is the number of fields of a segment access, 1 to 8. -/
inductive VInstr where
  | arith (op : VArith) (vd vs2 : Fin 32) (src : VSrc) (masked : Bool)
  | load (ad : VAddr) (eew : AccSize) (nf : Fin 9) (vd : Fin 32) (rs1 : Fin 32) (masked : Bool)
  | store (ad : VAddr) (eew : AccSize) (nf : Fin 9) (vs3 : Fin 32) (rs1 : Fin 32) (masked : Bool)
  deriving DecidableEq, Repr

/-- Forms of the vector configuration instructions (R81). -/
inductive VCfg where
  | vsetvli (rd rs1 : Fin 32) (vtype : BitVec 11)
  | vsetivli (rd : Fin 32) (avl : BitVec 5) (vtype : BitVec 10)
  | vsetvl (rd rs1 rs2 : Fin 32)
  deriving DecidableEq, Repr

/-- Scalar loads of RV64I, F and D. -/
inductive LdKind where
  | lb | lh | lw | ld | lbu | lhu | lwu | flw | fld
  deriving DecidableEq, Repr

/-- Scalar stores of RV64I, F and D. -/
inductive StKind where
  | sb | sh | sw | sd | fsw | fsd
  deriving DecidableEq, Repr

/-- Whether an access is a hypervisor virtual-machine access (R268). -/
inductive Virt where
  | no | hlv | hlvx
  deriving DecidableEq, Repr

/-- A predecessor or successor set of a FENCE (R134). -/
structure FSet where
  i : Bool
  o : Bool
  r : Bool
  w : Bool
  deriving DecidableEq, Repr

/-- CSR instruction forms. -/
inductive CsrOp where
  | rw | rs | rc
  deriving DecidableEq, Repr

/-- Return instructions. -/
inductive XretKind where
  | mret | sret
  deriving DecidableEq, Repr

/-- Control transfers (R71, R72, R81). -/
inductive CtKind where
  | beq | bne | blt | bge | bltu | bgeu | jal | jalr
  deriving DecidableEq, Repr

/-- Prefetch hints (R183). -/
inductive PfKind where
  | r | w | i
  deriving DecidableEq, Repr

/-- An IMSIC file: machine level, supervisor level, or guest file 1 to 7 (R380). -/
inductive ImFileKind where
  | mach | sup | guest (g : Fin 8)
  deriving DecidableEq, Repr

/-- How a link recovery ends (R305). -/
inductive RecEnd where
  | full | lowHalf | highHalf | failed
  deriving DecidableEq, Repr

/-- What Rennet accesses (R444): one target per rule of Rind. -/
inductive RennetTarget where
  | mem (a : Pa) (write : Bool) (v : Line)
  | reg (a : La) (size : AccSize) (v : Word) (write : Bool)
  | instPage (a : La) (write : Bool)
  | wheel (stop : Fin 320) (out : Port) (slot : Fin 64) (owner : Option (Fin 128))
  | route (entry : Fin 512) (v : Bool) (group : Fin 8) (hops : Fin 512)
  | poolChannel (c : Fin 64) (inst : Fin 64)
  | rail (insideWindow : Bool) (deviceRailOff : Bool) (protection : Bool)
  | clockTcore (h : Fin 192) (mhz : Nat)
  | clockMesh (mhz : Nat)
  | thermal (disable : Bool) (celsius : Nat)
  | budget (n : Nat)
  | flushSequencer
  | flash (activeSlot : Bool) (certChain : Bool) (lowerCounter : Bool)
  | identity (readSeed : Bool) (level : Fin 4)
  deriving DecidableEq, Repr

/-- Why package retention ends (R456). -/
inductive WakeCause where
  | timer | gpio | pcie | i3c | debug
  deriving DecidableEq, Repr

/-- Kinds of core-fatal error (R499 cause 0x10). -/
inductive CoreFatal where
  | regFile | rename | l2Tag | vectorFetch
  deriving DecidableEq, Repr

/-- Kinds of package-fatal error (R499 cause 0x11). -/
inductive PkgFatal where
  | l3Tag | snoopFilter | tracker
  deriving DecidableEq, Repr

/-- What a debug abstract command accesses (R489). -/
inductive AbsCmd where
  | readReg (n : Fin 65536)
  | writeReg (n : Fin 65536) (v : Word)
  | readMem (virt : Bool) (a : Word) (size : AccSize)
  | writeMem (virt : Bool) (a : Word) (size : AccSize) (v : Word)
  | progbuf
  deriving DecidableEq, Repr

/-- A debug token (R484) as its fields, with what the checks of the identity block find. -/
structure DbgToken where
  magicOk : Bool
  level : Fin 4
  inst : Nat
  confirm : BitVec 8
  zerosOk : Bool
  uidOk : Bool
  nonceOk : Bool
  keyOk : Bool
  sigOk : Bool
  deriving DecidableEq, Repr

/-- What the verification of a staged image finds (R474, R475). -/
structure ImageInfo where
  headerOk : Bool
  sigOk : Bool
  hashOk : Bool
  keyOk : Bool
  svn : Nat
  keyslot : Nat
  version : BitVec 32
  length : Nat
  deriving DecidableEq, Repr

/-- Requesters of the IOMMU (R288). -/
inductive IoReq where
  | pcie (ctl : Fin 3) (rid : BitVec 16) (pasid : Option (BitVec 20))
  | channel (c : Fin 32)
  deriving DecidableEq, Repr

/-- Outcome that the environment gives a PCIe request (R525). -/
inductive PcieCpl where
  | data (v : Line) | ur | ca | crs | absent
  deriving DecidableEq, Repr

/-- A load or store that acts before it is the hart's next instruction (R89, R90, R92, R98): how many instructions it lies ahead on the path that fetch follows,
its address in the program, the bytes it accesses, and the addresses in the program of the older stores whose own address is not yet known. -/
structure Ahead where
  n : Fin 384
  pc : Word
  va : Word
  bytes : Fin 33
  stores : List Word
  deriving DecidableEq, Repr

/-- What a STORE row stands for: the hart's next instruction, of 4 bytes or compressed, or an instruction further on (R90, R92). -/
inductive StForm where
  | now (c : Bool) | ahead (a : Ahead)
  deriving DecidableEq, Repr

/-- A drain of a hart's store buffer: whether two stores drain in the cycle, and the piece of the oldest store (R92, R139). -/
structure Drain where
  hart : HartId
  two : Bool
  piece : Fin 64
  deriving DecidableEq, Repr

/-- The instruction that raises an exception: of 4 bytes, compressed, or a word given (R46, R100). -/
inductive Faulting where
  | four | two | word (w : BitVec 32)
  deriving DecidableEq, Repr

/-- What an instruction on a wrong path does to the return stack as it is fetched (R72, R98). -/
inductive RasOp where
  | pop | push (a : Word)
  deriving DecidableEq, Repr

end Sys2Proof
end

