-- ==== Sys2Proof/Syntax.lean ====
section
/-!
DEFINITION. The commands of the package: one constructor per row of spec/opcode_table.json, in the
table's order.  What the spec leaves to the world outside (a CRC result, a sensor value, the outcome of
training, a signature) is an operand of the row that learns it.
-/
namespace Sys2Proof

inductive Instr where
  /-- REGISTER_WRITE (R11). -/
  | registerWrite (who : Master) (a : La) (size : AccSize) (v : Word)
  /-- PMA_COMMIT (R30). -/
  | pmaCommit (who : Master) (v : BitVec 32)
  /-- PMA_COMMIT_DONE (R38). -/
  | pmaCommitDone
  /-- PMA_LOCK (R34). -/
  | pmaLock (who : Master) (v : BitVec 32)
  /-- INTEGER_INSTRUCTION (R81). -/
  | integerInstruction (h : HartId) (op : IntOp) (rd rs1 : Fin 32) (src : Src) (c : Bool)
  /-- FP_INSTRUCTION (R81). -/
  | fpInstruction (h : HartId) (op : FpOp) (rd rs1 rs2 rs3 : Fin 32) (rm : Fin 8)
  /-- VECTOR_INSTRUCTION (R83). -/
  | vectorInstruction (h : HartId) (i : VInstr)
  /-- VECTOR_CONFIG (R81). -/
  | vectorConfig (h : HartId) (i : VCfg)
  /-- LOAD (R89). -/
  | load (h : HartId) (k : LdKind) (virt : Virt) (rd rs1 : Fin 32) (imm : BitVec 12) (ahead : Option Ahead) (c : Bool)
  /-- STORE (R92). -/
  | store (h : HartId) (k : StKind) (virt : Virt) (rs2 rs1 : Fin 32) (imm : BitVec 12) (c : StForm)
  /-- STORE_DRAIN (R92). -/
  | storeDrain (d : Drain)
  /-- STREAM_END_TIMEOUT (R180). -/
  | streamEndTimeout (h : HartId) (k : Fin 8)
  /-- AMO (R140). -/
  | amo (h : HartId) (fn : AmoFn) (size : AccSize) (rd rs2 rs1 : Fin 32)
  /-- LR (R141). -/
  | lr (h : HartId) (size : AccSize) (rd rs1 : Fin 32)
  /-- SC (R142). -/
  | sc (h : HartId) (size : AccSize) (rd rs2 rs1 : Fin 32)
  /-- AMOCAS (R530). -/
  | amocas (h : HartId) (bytes : Nat) (rd rs2 rs1 : Fin 32)
  /-- LR_DEFERRAL_EXPIRY (R144). -/
  | lrDeferralExpiry (h : HartId)
  /-- XPLD (R48). -/
  | xpld (h : HartId) (rd rs1 : Fin 32) (imm : BitVec 12)
  /-- XPST (R48). -/
  | xpst (h : HartId) (rs2 rs1 : Fin 32) (imm : BitVec 12)
  /-- FENCE (R149). -/
  | fence (h : HartId) (pred succ : FSet)
  /-- FENCE_TSO (R149). -/
  | fenceTso (h : HartId)
  /-- FENCE_WAIT_END (R149). -/
  | fenceWaitEnd (h : HartId)
  /-- XFENCE_P (R56). -/
  | xfenceP (h : HartId)
  /-- FENCE_I (R96). -/
  | fenceI (h : HartId)
  /-- CBO_CLEAN (R187). -/
  | cboClean (h : HartId) (rs1 : Fin 32)
  /-- CBO_FLUSH (R187). -/
  | cboFlush (h : HartId) (rs1 : Fin 32)
  /-- CBO_INVAL (R187). -/
  | cboInval (h : HartId) (rs1 : Fin 32)
  /-- CBO_ZERO (R187). -/
  | cboZero (h : HartId) (rs1 : Fin 32)
  /-- PREFETCH_HINT (R183). -/
  | prefetchHint (h : HartId) (k : PfKind) (rs1 : Fin 32) (imm : BitVec 12)
  /-- CSR_WRITE (R81). -/
  | csrWrite (h : HartId) (op : CsrOp) (csr : BitVec 12) (rd : Fin 32) (src : Src) (writes : Bool)
  /-- WFI (R125). -/
  | wfi (h : HartId)
  /-- XRET (R124). -/
  | xret (h : HartId) (k : XretKind)
  /-- ECALL (R100). -/
  | ecall (h : HartId)
  /-- EBREAK (R100). -/
  | ebreak (h : HartId) (c : Bool)
  /-- PAUSE (R119). -/
  | pause (h : HartId)
  /-- CONTROL_TRANSFER_RESOLVE (R75). -/
  | controlTransferResolve (h : HartId) (k : CtKind) (rd rs1 rs2 : Fin 32) (imm : BitVec 21) (wrong : List RasOp) (c : Bool)
  /-- EXCEPTION_TAKE (R100). -/
  | exceptionTake (h : HartId) (cause : Fin 64) (tval : Word) (c : Faulting)
  /-- INTERRUPT_TAKE (R101). -/
  | interruptTake (h : HartId)
  /-- MDP_CLEAR (R90). -/
  | mdpClear (h : HartId)
  /-- XPRED_BAR_1 (R51). -/
  | xpredBar1 (h : HartId)
  /-- XPRED_BAR_0 (R52). -/
  | xpredBar0 (h : HartId)
  /-- XPRED_FLUSH (R53). -/
  | xpredFlush (h : HartId)
  /-- XWAY_CLEAN (R54). -/
  | xwayClean (h : HartId) (rs1 : Fin 32)
  /-- XWAY_CINV (R54). -/
  | xwayCinv (h : HartId) (rs1 : Fin 32)
  /-- XBR_DRAIN (R55). -/
  | xbrDrain (h : HartId)
  /-- XMOULD_MODE_SET (R128). -/
  | xmouldModeSet (h : HartId)
  /-- MOULD_ENTRY (R128). -/
  | mouldEntry (h : HartId)
  /-- XMOULD_MODE_CLEAR (R131). -/
  | xmouldModeClear (h : HartId)
  /-- SCORE_TRAP_ENTRY (R121). -/
  | scoreTrapEntry (h : HartId) (cause : Option (Fin 64)) (tval : Word) (vectorFault : Bool)
  /-- LATE_ARRIVAL_TAKEOVER (R123). -/
  | lateArrivalTakeover (h : HartId)
  /-- UNCACHED_TIMEOUT (R153). -/
  | uncachedTimeout (who : Master) (tag : Nat)
  /-- EWA_ENDPOINT_FAILURE (R155). -/
  | ewaEndpointFailure (stop : Node) (req : Node) (a : Pa) (sts : BitVec 8)
  /-- LINE_READ (R165). -/
  | lineRead (f : Flit)
  /-- LINE_OWN (R165). -/
  | lineOwn (f : Flit)
  /-- LINE_PROMOTE (R165). -/
  | linePromote (f : Flit)
  /-- LINE_CLAIM (R165). -/
  | lineClaim (f : Flit)
  /-- MASK_FILL (R181). -/
  | maskFill (f : Flit)
  /-- CLEAN_KEEP (R187). -/
  | cleanKeep (f : Flit)
  /-- CLEAN_DROP (R187). -/
  | cleanDrop (f : Flit)
  /-- DISCARD_LINE (R187). -/
  | discardLine (f : Flit)
  /-- PREFETCH_READ (R184). -/
  | prefetchRead (f : Flit)
  /-- PREFETCH_OWN (R184). -/
  | prefetchOwn (f : Flit)
  /-- READ_NC (R169). -/
  | readNc (f : Flit)
  /-- WRITE_NC (R169). -/
  | writeNc (f : Flit)
  /-- ATOMIC_NC (R169). -/
  | atomicNc (f : Flit)
  /-- RETURN_DIRTY (R163). -/
  | returnDirty (f : Flit)
  /-- RETURN_CLEAN (R165). -/
  | returnClean (f : Flit)
  /-- PROBE_SHARE (R166). -/
  | probeShare (f : Flit)
  /-- PROBE_TAKE (R166). -/
  | probeTake (f : Flit)
  /-- PROBE_KILL (R166). -/
  | probeKill (f : Flit)
  /-- PROBE_CLEAN (R166). -/
  | probeClean (f : Flit)
  /-- DATA_GRANT (R166). -/
  | dataGrant (f : Flit)
  /-- GRANT (R166). -/
  | grant (f : Flit)
  /-- PROBE_ACK (R167). -/
  | probeAck (f : Flit)
  /-- PROBE_DATA (R167). -/
  | probeData (f : Flit)
  /-- GRANT_ACK (R167). -/
  | grantAck (f : Flit)
  /-- WRITE_DONE (R145). -/
  | writeDone (f : Flit)
  /-- READ_RETURN (R147). -/
  | readReturn (f : Flit)
  /-- DROPPED (R184). -/
  | dropped (f : Flit)
  /-- ERROR_REPLY (R202). -/
  | errorReply (f : Flit)
  /-- RETURN_ACK (R194). -/
  | returnAck (f : Flit)
  /-- HOME_TRANSACTION_OPEN (R167). -/
  | homeTransactionOpen (a : La)
  /-- VICTIM_ENTRY_FREED (R178). -/
  | victimEntryFreed (a : La) (ok : Bool)
  /-- VICTIM_WRITE_ISSUE (R177). -/
  | victimWriteIssue (a : La)
  /-- FLIT_ROUTE (R206). -/
  | flitRoute (stop : Fin 320) (out : Port) (err : FlitErr)
  /-- CREDIT_RETURN (R211). -/
  | creditReturn (stop : Fin 320) (out : Port) (vc : Fin 8) (nxt : Port)
  /-- MESH_WHEEL_RESERVE (R437). -/
  | meshWheelReserve (n : Fin 32)
  /-- MESH_WHEEL_RELEASE (R221). -/
  | meshWheelRelease (n : Fin 32)
  /-- WHEEL_RELEASE_SLOTS_FREE (R221). -/
  | wheelReleaseSlotsFree (rid : Fin 128)
  /-- MESH_WHEEL_QUERY (R437). -/
  | meshWheelQuery (n : Fin 32)
  /-- MEM_READ (R239). -/
  | memRead (ch : Fin 48) (f : Flit)
  /-- MEM_WRITE (R237). -/
  | memWrite (ch : Fin 48) (f : Flit)
  /-- MEM_WRITE_MASKED (R237). -/
  | memWriteMasked (ch : Fin 48) (f : Flit)
  /-- CHANNEL_LINE_ACCESS (R240). -/
  | channelLineAccess (ch : Fin 48)
  /-- WRITE_PHASE_TIMEOUT (R241). -/
  | writePhaseTimeout (ch : Fin 48)
  /-- READ_BURST_RETURN (R250). -/
  | readBurstReturn (ch : Fin 48) (crcOk : Bool) (flips : BitVec 576) (aerr : BitVec 32)
  /-- WRITE_CRC_RESULT (R249). -/
  | writeCrcResult (ch : Fin 48) (ok : Bool)
  /-- SHORT_RETRAIN_DONE (R251). -/
  | shortRetrainDone (ch : Fin 48) (ok : Bool) (ns : Nat)
  /-- ROW_IDLE_CLOSE (R242). -/
  | rowIdleClose (ch : Fin 48) (bank : Fin 16)
  /-- REFRESH_DUE (R245). -/
  | refreshDue (ch : Fin 48) (bank : Fin 16)
  /-- DEVICE_TEMP_READ (R245). -/
  | deviceTempRead (ch : Fin 48) (temp : BitVec 8)
  /-- WRITE_TIMING_CHECK (R247). -/
  | writeTimingCheck (ch : Fin 48)
  /-- SCRUB_READ (R254). -/
  | scrubRead (ch : Fin 48)
  /-- PAGE_THRESHOLD (R256). -/
  | pageThreshold (ch : Fin 48)
  /-- MC_INJ_ARM (R263). -/
  | mcInjArm (who : Master) (ch : Fin 48) (v : BitVec 32)
  /-- MEM_TRAIN (R246). -/
  | memTrain (n : Fin 32) (ok : BitVec 48)
  /-- MEM_CHANNEL_STATUS (R434). -/
  | memChannelStatus (n : Fin 32)
  /-- MEM_SCRUB_SET (R254). -/
  | memScrubSet (n : Fin 32)
  /-- MEM_PAGE_RETIRE (R438). -/
  | memPageRetire (n : Fin 32)
  /-- MEM_RETIRE_LIST (R441). -/
  | memRetireList (n : Fin 32)
  /-- WALK_PTE_READ_DONE (R272). -/
  | walkPteReadDone (h : HartId) (k : Nat) (err : Bool)
  /-- AD_UPDATE (R276). -/
  | adUpdate (h : HartId) (k : Nat)
  /-- SFENCE_VMA (R282). -/
  | sfenceVma (h : HartId) (rs1 rs2 : Fin 32)
  /-- HFENCE_VVMA (R282). -/
  | hfenceVvma (h : HartId) (rs1 rs2 : Fin 32)
  /-- HFENCE_GVMA (R282). -/
  | hfenceGvma (h : HartId) (rs1 rs2 : Fin 32)
  /-- IOMMU_TRANSLATE (R289). -/
  | iommuTranslate (e : Fin 2) (r : IoReq) (iova : Word) (write : Bool) (size : Nat)
  /-- IOTINVAL_VMA (R292). -/
  | iotinvalVma (e : Fin 2) (addr : Option Word) (gscid : Option (BitVec 16)) (pscid : Option (BitVec 20))
  /-- IOTINVAL_GVMA (R292). -/
  | iotinvalGvma (e : Fin 2) (addr : Option Word) (gscid : Option (BitVec 16)) (pscid : Option (BitVec 20))
  /-- IODIR_INVAL_DDT (R292). -/
  | iodirInvalDdt (e : Fin 2) (did : Option (BitVec 24))
  /-- IODIR_INVAL_PDT (R292). -/
  | iodirInvalPdt (e : Fin 2) (did : BitVec 24) (pid : BitVec 20)
  /-- IOFENCE_C (R293). -/
  | iofenceC (e : Fin 2) (av pr pw wsi : Bool) (addr : Pa) (data : BitVec 32)
  /-- IOFENCE_C_COMPLETE (R293). -/
  | iofenceCComplete (e : Fin 2)
  /-- LINK_FRAME_SEND (R303). -/
  | linkFrameSend (l : Fin 8)
  /-- DATA_FRAME (R304). -/
  | dataFrame (l : Fin 8) (seq ack : Fin 4096) (nak crcErr : Bool) (symErrs : Fin 225) (cvc : Fin 8 × Fin 8) (ccnt : Fin 256 × Fin 256) (pkts : List (Pkt × Fin 16))
  /-- IDLE_FRAME (R303). -/
  | idleFrame (l : Fin 8) (ack : Fin 4096) (nak : Bool) (cvc0 : Fin 8) (ccnt0 : Fin 256) (cvc1 : Fin 8) (ccnt1 : Fin 256)
  /-- SYNC_FRAME (R329). -/
  | syncFrame (l : Fin 8) (sent peerSent peerArrived : Word)
  /-- TRAIN_FRAME (R303). -/
  | trainFrame (l : Fin 8)
  /-- HELLO_FRAME (R316). -/
  | helloFrame (l : Fin 8) (pkg : Fin 512) (nbrLink : Fin 8)
  /-- SYNC_SEND (R329). -/
  | syncSend (l : Fin 8)
  /-- FRAME_LOCK_LOST (R305). -/
  | frameLockLost (l : Fin 8)
  /-- LINK_RECOVERY_DONE (R305). -/
  | linkRecoveryDone (l : Fin 8) (how : RecEnd)
  /-- LINK_DOWN (R305). -/
  | linkDown (l : Fin 8)
  /-- LINK_REMOVE_FROM_GROUP (R331). -/
  | linkRemoveFromGroup (l : Fin 8)
  /-- LINK_RETRY (R333). -/
  | linkRetry (l : Fin 8) (trained : Bool) (nbr : Fin 512)
  /-- FABRIC_BRINGUP_TIMEOUT (R317). -/
  | fabricBringupTimeout
  /-- RD_NC (R324). -/
  | rdNc (l : Fin 8) (p : Pkt)
  /-- WR_NC (R324). -/
  | wrNc (l : Fin 8) (p : Pkt)
  /-- ATOM_NC (R324). -/
  | atomNc (l : Fin 8) (p : Pkt)
  /-- BLK_RD (R324). -/
  | blkRd (l : Fin 8) (p : Pkt)
  /-- BLK_WR (R324). -/
  | blkWr (l : Fin 8) (p : Pkt)
  /-- RD_DATA (R308). -/
  | rdData (l : Fin 8) (p : Pkt)
  /-- WR_ACK (R308). -/
  | wrAck (l : Fin 8) (p : Pkt)
  /-- ATOM_DATA (R308). -/
  | atomData (l : Fin 8) (p : Pkt)
  /-- ERR_RESP (R308). -/
  | errResp (l : Fin 8) (p : Pkt)
  /-- ROUTE_ADV (R321). -/
  | routeAdv (l : Fin 8) (us : List RouteUnit)
  /-- ROUTE_WITHDRAW (R321). -/
  | routeWithdraw (l : Fin 8) (us : List RouteUnit)
  /-- LINK_NOTICE (R333). -/
  | linkNotice (l : Fin 8)
  /-- TAG_ENTRY_TIMEOUT (R332). -/
  | tagEntryTimeout (l : Fin 8) (k : Fin 4096)
  /-- GL_INJ_ARM (R336). -/
  | glInjArm (who : Master) (l : Fin 8) (v : BitVec 32)
  /-- FABRIC_ROUTE_QUERY (R337). -/
  | fabricRouteQuery (n : Fin 32)
  /-- FABRIC_LINK_STATUS (R337). -/
  | fabricLinkStatus (n : Fin 32)
  /-- FABRIC_LINK_DISABLE (R333). -/
  | fabricLinkDisable (n : Fin 32)
  /-- FABRIC_LINK_DISABLE_DRAINED (R333). -/
  | fabricLinkDisableDrained (l : Fin 8)
  /-- FABRIC_LINK_ENABLE (R333). -/
  | fabricLinkEnable (n : Fin 32) (trained : Bool) (nbr : Fin 512)
  /-- FABRIC_INBOUND_SET (R325). -/
  | fabricInboundSet (n : Fin 32)
  /-- FABRIC_TIME_STATUS (R330). -/
  | fabricTimeStatus (n : Fin 32)
  /-- DE_CMD_START (R357). -/
  | deCmdStart (who : Master) (c : Fin 64)
  /-- DE_CMD_ABORT (R365). -/
  | deCmdAbort (who : Master) (c : Fin 64)
  /-- DE_CMD_CLEAR (R357). -/
  | deCmdClear (who : Master) (c : Fin 64)
  /-- DE_CMD_DROPSH (R346). -/
  | deCmdDropsh (who : Master) (c : Fin 64)
  /-- SH_CTL_VALID_SET (R352). -/
  | shCtlValidSet (who : Master) (c : Fin 64) (v : BitVec 32)
  /-- ENGINE_ISSUE (R339). -/
  | engineIssue (e : Fin 2)
  /-- CHANNEL_SET_LOAD (R352). -/
  | channelSetLoad (c : Fin 64)
  /-- DESCRIPTOR_FETCH_RETURN (R353). -/
  | descriptorFetchReturn (c : Fin 64) (desc : Line) (sts : BitVec 8) (timeout : Bool)
  /-- IN_CTL_RESET (R375). -/
  | inCtlReset (who : Master) (i : Fin 64)
  /-- INSTANCE_RESET_DRAIN_DONE (R375). -/
  | instanceResetDrainDone (i : Fin 64)
  /-- IN_DENIED_READ (R371). -/
  | inDeniedRead (who : Master) (i : Fin 64)
  /-- INSTANCE_CREATE (R436). -/
  | instanceCreate (n : Fin 32)
  /-- INSTANCE_DESTROY (R368). -/
  | instanceDestroy (n : Fin 32)
  /-- INSTANCE_RESET (R375). -/
  | instanceReset (n : Fin 32)
  /-- INSTANCE_QUERY (R368). -/
  | instanceQuery (n : Fin 32)
  /-- WIRED_INPUT_CHANGE (R382). -/
  | wiredInputChange (src : Fin 1024) (level : Bool)
  /-- APLIC_SOURCECFG_WRITE (R381). -/
  | aplicSourcecfgWrite (who : Master) (sdom : Bool) (src : Fin 1024) (v : BitVec 32)
  /-- APLIC_MSI_SEND (R531). -/
  | aplicMsiSend (src : Fin 1024)
  /-- IMSIC_SETEIPNUM (R383). -/
  | imsicSeteipnum (h : HartId) (f : ImFileKind) (v : BitVec 32)
  /-- IMSIC_TOPEI_CLAIM (R397). -/
  | imsicTopeiClaim (h : HartId) (f : ImFileKind)
  /-- MACHINE_TIMER_MATCH (R386). -/
  | machineTimerMatch (h : HartId)
  /-- GPIO_EDGE (R389). -/
  | gpioEdge (pin : Fin 16) (level : Bool)
  /-- EVSW_PULSE (R394). -/
  | evswPulse (who : Master) (v : BitVec 32)
  /-- TICK_GENERATOR_PULSE (R394). -/
  | tickGeneratorPulse (j : Fin 8)
  /-- EVENT_FLIT (R388). -/
  | eventFlit (stop : Fin 320) (line : Fin 256)
  /-- CORE_COUNTER_WRAP (R402). -/
  | coreCounterWrap (h : HartId) (k : Fin 32)
  /-- BANK_COUNTER_WRAP (R413). -/
  | bankCounterWrap (stop : Fin 320) (b : Fin 3) (k : Fin 4) (gain : Nat)
  /-- PM_BANK_CLR (R407). -/
  | pmBankClr (who : Master) (stop : Fin 320) (b : Fin 3)
  /-- BANDWIDTH_WINDOW_END (R414). -/
  | bandwidthWindowEnd (stop : Fin 320) (b : Fin 3)
  /-- PM_BWMAX_READ (R414). -/
  | pmBwmaxRead (who : Master) (stop : Fin 320) (b : Fin 3)
  /-- LADLE_ENABLE (R417). -/
  | ladleEnable (who : Master) (v : BitVec 32)
  /-- LADLE_SNAP (R418). -/
  | ladleSnap (who : Master)
  /-- LADLE_PERIOD_TRIGGER (R416). -/
  | ladlePeriodTrigger
  /-- LADLE_LATCH (R419). -/
  | ladleLatch (stop : Fin 320)
  /-- LADLE_SNAPSHOT_DONE (R420). -/
  | ladleSnapshotDone
  /-- MB_DOORBELL (R428). -/
  | mbDoorbell (who : Master) (n : Fin 32) (v : BitVec 32)
  /-- MB_STATUS_ACK (R428). -/
  | mbStatusAck (who : Master) (n : Fin 32)
  /-- MB_COMMAND_COMPLETE (R428). -/
  | mbCommandComplete (n : Fin 32)
  /-- I3C_PRIVATE_TRANSFER (R425). -/
  | i3cPrivateTransfer (off : BitVec 16) (write : Bool) (data : List Byte)
  /-- RENNET_INFO (R434). -/
  | rennetInfo (n : Fin 32)
  /-- MAILBOX_ASSIGN (R435). -/
  | mailboxAssign (n : Fin 32)
  /-- NOTICE_READ (R440). -/
  | noticeRead (n : Fin 32)
  /-- CACHE_WAYGROUP_SET (R191). -/
  | cacheWaygroupSet (n : Fin 32)
  /-- WAYGROUP_SCAN_DONE (R191). -/
  | waygroupScanDone (o : Fin 6) (g : Fin 4)
  /-- POWER_LIMIT_SET (R459). -/
  | powerLimitSet (n : Fin 32)
  /-- POWER_FREQ_SET (R457). -/
  | powerFreqSet (n : Fin 32)
  /-- POWER_MESH_FREQ_SET (R196). -/
  | powerMeshFreqSet (n : Fin 32)
  /-- POWER_STATUS (R461). -/
  | powerStatus (n : Fin 32)
  /-- POWER_DOMAIN_SET (R449). -/
  | powerDomainSet (n : Fin 32)
  /-- BRINE_STATUS (R462). -/
  | brineStatus (n : Fin 32)
  /-- BRINE_JOURNAL_STORE (R472). -/
  | brineJournalStore (n : Fin 32)
  /-- BRINE_JOURNAL_LOAD (R471). -/
  | brineJournalLoad (n : Fin 32)
  /-- ATTEST_QUOTE (R481). -/
  | attestQuote (n : Fin 32) (sig : List Byte)
  /-- CERT_CHAIN_READ (R480). -/
  | certChainRead (n : Fin 32) (chain : List Byte)
  /-- DEBUG_LEVEL_SET (R483). -/
  | debugLevelSet (n : Fin 32) (tok : DbgToken)
  /-- FW_STAGE (R439). -/
  | fwStage (n : Fin 32) (img : ImageInfo)
  /-- FW_COMMIT (R439). -/
  | fwCommit (n : Fin 32)
  /-- ERROR_LOG_READ (R500). -/
  | errorLogRead (n : Fin 32)
  /-- RENNET_ACCESS (R444). -/
  | rennetAccess (t : RennetTarget)
  /-- RIND_HEARTBEAT (R446). -/
  | rindHeartbeat
  /-- HEARTBEAT_TIMEOUT (R446). -/
  | heartbeatTimeout
  /-- LOCKSTEP_MISMATCH (R446). -/
  | lockstepMismatch
  /-- RENNET_RESTART_DONE (R447). -/
  | rennetRestartDone
  /-- ERROR_RECORD_COPY (R500). -/
  | errorRecordCopy (t : Fin 8) (k : Fin 64)
  /-- ES_RECORD_FREE (R498). -/
  | esRecordFree (who : Master) (t : Fin 8) (k : Fin 64)
  /-- CORE_FATAL_ERROR (R505). -/
  | coreFatalError (h : HartId) (cause : CoreFatal) (bad : List La)
  /-- PKG_FATAL_ERROR (R506). -/
  | pkgFatalError (sl : Fin 192) (cause : PkgFatal)
  /-- IDLE_C2_ENTRY (R451). -/
  | idleC2Entry (h : HartId)
  /-- IDLE_C3_ENTRY (R451). -/
  | idleC3Entry (h : HartId)
  /-- POWER_DOMAIN_OFF (R192). -/
  | powerDomainOff (h : HartId)
  /-- HART_WAKE (R452). -/
  | hartWake (h : HartId)
  /-- PACKAGE_RETENTION_ENTRY (R456). -/
  | packageRetentionEntry
  /-- PACKAGE_RETENTION_EXIT (R456). -/
  | packageRetentionExit (why : WakeCause)
  /-- POWER_SAMPLE (R459). -/
  | powerSample (slow fast : Nat)
  /-- THERMAL_SAMPLE (R460). -/
  | thermalSample (t : Fin 8) (hottest : Int)
  /-- HOLDUP_ENERGY_READ (R466). -/
  | holdupEnergyRead (mj : BitVec 32)
  /-- HOLDUP_READING_STALE (R466). -/
  | holdupReadingStale
  /-- TOKEN_REFILL (R462). -/
  | tokenRefill (agent : Nat)
  /-- PFAIL_N_FALL (R468). -/
  | pfailNFall
  /-- POWER_FAIL_FLUSH (R468). -/
  | powerFailFlush
  /-- LIFE_LEDGER_SAMPLE (R508). -/
  | lifeLedgerSample (t : Fin 8)
  /-- LIFE_LEDGER_SAVE (R508). -/
  | lifeLedgerSave
  /-- AGING_MONITOR_READ (R509). -/
  | agingMonitorRead (t : Fin 8) (mon : Fin 16) (steps : Nat) (windowLeft : Bool)
  /-- DBG_AUTH_SUBMIT (R487). -/
  | dbgAuthSubmit (tok : DbgToken)
  /-- TOKEN_CHECK_DONE (R484). -/
  | tokenCheckDone
  /-- DBG_WAKE (R487). -/
  | dbgWake
  /-- DM_HALT_REQUEST (R491). -/
  | dmHaltRequest (h : HartId)
  /-- DM_RESUME_REQUEST (R491). -/
  | dmResumeRequest (h : HartId)
  /-- DM_ABSTRACT_COMMAND (R489). -/
  | dmAbstractCommand (h : HartId) (cmd : AbsCmd)
  /-- SYSTEM_BUS_ACCESS (R490). -/
  | systemBusAccess (a : Pa) (size : AccSize) (write : Bool) (v : Word)
  /-- COLD_RESET (R520). -/
  | coldReset (hostAccepted : Bool)
  /-- WARM_RESET (R513). -/
  | warmReset (ns : Nat)
  /-- HART_RESET (R516). -/
  | hartReset (who : Master) (h : HartId) (v : Word)
  /-- HART_SELF_TEST_DONE (R516). -/
  | hartSelfTestDone (h : HartId) (pass : Bool)
  /-- FIRST_HOST_INSTRUCTION (R522). -/
  | firstHostInstruction
  /-- PCIE_MEMORY_READ (R523). -/
  | pcieMemoryRead (i : Fin 6) (rid : BitVec 16) (pasid : Option (BitVec 20)) (iova : Word) (bytes : Nat)
  /-- PCIE_MEMORY_WRITE (R523). -/
  | pcieMemoryWrite (i : Fin 6) (rid : BitVec 16) (pasid : Option (BitVec 20)) (iova : Word) (mask : LineMask) (data : Line) (poison : Bool)
  /-- PCIE_ATOMIC_OP (R523). -/
  | pcieAtomicOp (i : Fin 6) (rid : BitVec 16) (pasid : Option (BitVec 20)) (iova : Word) (fn : AmoFn) (bytes : Nat) (operand compare : Word)
  /-- PCIE_MSI_WRITE (R384). -/
  | pcieMsiWrite (i : Fin 6) (rid : BitVec 16) (iova : Word) (data : BitVec 32)
  /-- PCIE_COMPLETION (R525). -/
  | pcieCompletion (i : Fin 6) (tag : Nat) (cpl : PcieCpl)
  /-- PCIE_LINK_EVENT (R381). -/
  | pcieLinkEvent (i : Fin 6) (level : Bool)
  /-- SUPERVISOR_TIMER_MATCH (R386). -/
  | supervisorTimerMatch (h : HartId)
  deriving DecidableEq, Repr

end Sys2Proof
end

