-- ==== Sys2Proof/Decode.lean ====
section
/-!
DEFINITION. Decoding by the table's bits, and the encodings of Xexy (R44 to R46).  No row of spec/opcode_table.json gives bits, so no word spells a
command by the table; the rules R44 and R45 do give the words of the Xexy instructions.
-/
namespace Sys2Proof

/-- The command that a word spells by the table's bits: none, for every width and word. -/
def decodeTableWord (_nbits _w : Nat) : Option Instr := none

/-! ### Xexy words (R44 to R46) -/

/-- The custom-0 major opcode (R44). -/
def xexyOpcode : BitVec 7 := 0b000_1011
/-- Whether a 32-bit word is one of Xexy's. -/
def isXexy (w : BitVec 32) : Bool := w.extractLsb' 0 7 == xexyOpcode

/-- A register field at bit `lo`. -/
def xexyReg (w : BitVec 32) (lo : Nat) : Fin 32 := (w.extractLsb' lo 5).toFin

/-- The instruction of a control-group function code, with the fields that R45 requires to be zero (R45, R46). -/
def decodeControl (h : HartId) (code : BitVec 12) (rs1 rd : Fin 32) : Option Instr :=
  if rd ≠ 0 then none else
  match code with
  | 0x010#12 => some (.xwayClean h rs1)
  | 0x011#12 => some (.xwayCinv h rs1)
  | _ =>
    if rs1 ≠ 0 then none else
    match code with
    | 0x000#12 => some (.xpredBar0 h)
    | 0x001#12 => some (.xpredBar1 h)
    | 0x002#12 => some (.xpredFlush h)
    | 0x020#12 => some (.xbrDrain h)
    | 0x030#12 => some (.xfenceP h)
    | _ => none

/-- The Xexy instruction that a word spells on hart `h`: none for a word of another opcode, and for the reserved funct3, the unlisted codes and the nonzero fields
of R46, which raise an illegal-instruction exception. -/
def decodeXexy (h : HartId) (w : BitVec 32) : Option Instr :=
  if !(isXexy w) then none else
  match w.extractLsb' 12 3 with
  | 0#3 => some (.xpld h (xexyReg w 7) (xexyReg w 15) (w.extractLsb' 20 12))
  | 1#3 => some (.xpst h (xexyReg w 20) (xexyReg w 15) (w.extractLsb' 25 7 ++ w.extractLsb' 7 5))
  | 2#3 => decodeControl h (w.extractLsb' 20 12) (xexyReg w 15) (xexyReg w 7)
  | _ => none

/-- A word of I-type (R44). -/
def xexyI (f3 : BitVec 3) (imm : BitVec 12) (rs1 rd : Fin 32) : BitVec 32 :=
  imm ++ (BitVec.ofFin rs1 : BitVec 5) ++ f3 ++ (BitVec.ofFin rd : BitVec 5) ++ xexyOpcode
/-- A word of S-type (R44). -/
def xexyS (f3 : BitVec 3) (imm : BitVec 12) (rs2 rs1 : Fin 32) : BitVec 32 :=
  imm.extractLsb' 5 7 ++ (BitVec.ofFin rs2 : BitVec 5) ++ (BitVec.ofFin rs1 : BitVec 5) ++ f3 ++ imm.extractLsb' 0 5 ++ xexyOpcode

/-- The word of a Xexy instruction, and none for a command that is none (R44, R45). -/
def encodeXexy : Instr → Option (BitVec 32)
  | .xpld _ rd rs1 imm => some (xexyI 0 imm rs1 rd)
  | .xpst _ rs2 rs1 imm => some (xexyS 1 imm rs2 rs1)
  | .xpredBar0 _ => some (xexyI 2 0x000 0 0)
  | .xpredBar1 _ => some (xexyI 2 0x001 0 0)
  | .xpredFlush _ => some (xexyI 2 0x002 0 0)
  | .xwayClean _ rs1 => some (xexyI 2 0x010 rs1 0)
  | .xwayCinv _ rs1 => some (xexyI 2 0x011 rs1 0)
  | .xbrDrain _ => some (xexyI 2 0x020 0 0)
  | .xfenceP _ => some (xexyI 2 0x030 0 0)
  | _ => none

/-- Whether a word is one of Xexy's that R46 makes illegal. -/
def illegalXexy (h : HartId) (w : BitVec 32) : Bool := isXexy w && (decodeXexy h w).isNone

end Sys2Proof
end

