-- ==== Sys2Proof/Config.lean ====
section
/-!
DEFINITION. What the spec leaves open: the free values, which have no body, and the constants of the SN8
(R5, R7, R66, R147) that several chapters use.
-/
namespace Sys2Proof.Config

/-- Free 64-bit values: one for each count of `State.free` (log entry 1). -/
opaque freeWord : Nat → Word
/-- Free lines. -/
opaque freeLine : Nat → Line
/-- Free natural numbers: measured quantities that the spec leaves to the part. -/
opaque freeNat : Nat → Nat

/-- The vector length that a vector configuration instruction chooses for an AVL above VLMAX and below twice VLMAX, counted from the least that the vector
extension allows (log entry 9). -/
opaque vlPick (avl vlmax : Nat) : Nat

/-- How a T-core's prediction tables are indexed: the base counters and the main target buffer by address, a tagged table and its tags by address and history, the
indirect target predictor by address and history (R66, R70; log entry 26). -/
opaque baseIndex (pc : Word) : Nat
opaque mainIndex (pc : Word) : Nat
opaque histIndex (table : Nat) (pc : Word) (hist : List Bool) : Nat
opaque histTag (table : Nat) (pc : Word) (hist : List Bool) : Nat
opaque itpIndex (pc : Word) (hist : List Bool) : Nat

/-- The SECDED check bits of a flit's header (R199), whose code the spec does not give (log entry 159). -/
opaque flitCheck : BitVec 183 → BitVec 9

/-- The first value and the last exclusive-or of a Graop frame's CRC-32 (R301), which the spec does not give (log entry 179). -/
opaque crcFirst : BitVec 32
opaque crcLast : BitVec 32

/-- The contents of the boot ROM (R24), which the spec does not list (log entry 4). -/
opaque bootRom : Nat → Byte

/-- Store-buffer entries of a T-core (R66) and of an S-core (R114). -/
abbrev sbT : Nat := 128
abbrev sbS : Nat := 8
/-- FWVER of the factory firmware and RULEVER of the rule ROM, which Exyosol assigns (R434, R444). -/
opaque fwVersion : BitVec 32
opaque ruleVersion : BitVec 32

/-- The regulator current limit in ROM, as a T-core frequency in MHz (R457, R461). -/
opaque currentLimit : Nat
/-- The aging monitor of a T-core, by its index in the tile (R509). -/
opaque monitorOf : Nat → Nat

/-- The package UID, fixed at manufacture (R481), and the nonce that the identity block draws at the boot of a number (R479). -/
opaque packageUid : BitVec 128
opaque bootNonce : Nat → BitVec 256
/-- M1: the SHA3-512 of the Rind rule set; M2 and M3: those of the bodies of the Rennet firmware (target 0) and of the host image (target 1), an image
written by FW_STAGE or the factory's (R479). -/
opaque ruleHash : BitVec 512
opaque bodyHash : Nat → Option ImageInfo → BitVec 512
/-- SVN of the factory images by target, and KEYSLOT of the factory firmware (R474), which Exyosol assigns. -/
opaque factorySvn : Nat → Nat
opaque factoryKeyslot : Nat

/-- Entries of the uncached write trackers (R147). -/
abbrev trackT : Nat := 128
abbrev trackS : Nat := 8
/-- Requests of one L2 or shared level outstanding to the mesh (R66, R147). -/
abbrev reqTags : Nat := 64
/-- Nanoseconds of one T-core cycle and of one S-core cycle are fractions; deferrals and stream limits in core
cycles are counted on the hart's own `clock`. -/
abbrev deferT : Nat := 128
abbrev deferS : Nat := 64

end Sys2Proof.Config
end

