-- ==== Sys2Proof/Machine/State.lean ====
section
/-!
DEFINITION. The state of one SN8 package as plain data, and its value right after reset.
Every structure names the chapter's rules that give its fields.  A table (`Tab`) lists only the units
whose value differs from its default; the default is the reset value.
-/
namespace Sys2Proof.Machine

/-! ### Memories -/

/-- The byte memories: strictly rising addresses, no entry equal to the unlisted value `0`
(log entry 2).  DRAM is keyed by local address (R24), TCMs by `hart index * 0x2_0000 + offset`
(R103, R105), the shared SRAM and the mailbox pages by offset (R24, R424). -/
structure Mems where
  dram : List Host.Cell
  tcm : List Host.Cell
  sram : List Host.Cell
  mbox : List Host.Cell
  tcmErr : Tab Nat            -- 8-byte TCM word -> bad bits: 1 corrected, 2 or more not (R107)
  deriving DecidableEq, Repr

/-! ### PMA table and package registers (R28 to R40) -/

structure PmaEntry where
  base : BitVec 35
  limit : BitVec 35
  tmo : BitVec 14
  held : Bool
  remote : Bool
  ewa : Bool
  c : Bool
  io : Bool
  valid : Bool
  deriving DecidableEq, Repr

def PmaEntry.empty : PmaEntry :=
  { base := 0, limit := 0, tmo := 0, held := false, remote := false, ewa := false, c := false, io := false, valid := false }

structure Pma where
  entries : Tab PmaEntry      -- as committed (R37)
  masters : Tab PmaEntry      -- the copies of masters that a commit has not reached yet (R38)
  base : BitVec 35            -- staging (R35)
  limit : BitVec 35
  attr : BitVec 32            -- staging (R36)
  lock : Bool                 -- MS_PMA_CTL (R34)
  err : BitVec 4
  busy : Bool
  index : BitVec 5
  pkgId : BitVec 9            -- MS_PKG_ID (R32)
  dramTop : BitVec 47         -- MS_DRAM_TOP (R33)
  deriving DecidableEq, Repr

/-! ### Harts -/

/-- Kinds of target a hart's access has (R29, R135, R140). -/
inductive Region where
  | tcm | cached | c0 | io | remote
  deriving DecidableEq, Repr

/-- Bytes of a store that are performed together: a piece of R139, or the bytes of one line for a target without a cache. What the PMA entry gave when the
store was checked goes with them (R38, R40). -/
structure SbPart where
  pa : Nat
  size : Nat
  off : Nat                   -- place of its first byte in the store
  region : Region
  ewa : Bool
  tmo : Nat
  held : Bool
  deriving DecidableEq, Repr

/-- One store-buffer entry: a scalar store, XPST, a unit-stride vector micro-op or an element (R92, R114). `parts` are those not yet drained. -/
structure SbEntry where
  parts : List SbPart
  data : Line                 -- byte `i` of the store in byte `i`
  seq : Nat
  zero : Bool                 -- CBO.ZERO (R187)
  retired : Bool
  deriving DecidableEq, Repr

/-- A piece of a load that has been read before the hart's next instruction has executed (R89, R90): the place of its instruction in the count of
instructions, the instruction's address, the bytes and their value. `lost` says that the line has left the L1 D-cache since (R91). -/
structure EarlyLoad where
  seq : Nat
  pc : Word
  pa : Nat
  size : Nat
  value : Nat
  fwd : Bool                  -- forwarded from the store buffer
  lost : Bool
  deriving DecidableEq, Repr

/-- One entry of the uncached write tracker (R147, R148). -/
structure UWrite where
  tag : Nat
  pa : Nat
  size : Nat
  stop : Nat                  -- target stop, or 1000 + package for a remote target
  remote : Bool
  ewa : Bool
  deadline : Nat
  seq : Nat                   -- place of its instruction in the count of instructions
  deriving DecidableEq, Repr

/-- What an outstanding access that holds up its instruction does when it ends. -/
inductive UDest where
  | x (r total : Nat) (signed : Bool)
  | f (r total : Nat)
  | pair (r : Nat)            -- XPLD: 16 bytes into r and r + 1
  | velem (vd k bytes nf regs : Nat) (ff : Bool) -- element k of nf fields, each field `regs` registers after the one before, of a
                              -- fault-only-first load or not (R86, R87)
  | amo (r bytes : Nat)
  | maint                     -- a cache maintenance operation (R188, R54, R55)
  | dbg (o size : Nat) (ok : Bool)   -- memory read of an abstract command of debug module `o` (R489); not `ok` once a part has failed
  | fail (cause : Nat) (va : Word)   -- another part has failed: the instruction traps when the last part ends (R153)
  deriving DecidableEq, Repr

/-- An access whose instruction has not retired: uncached reads and atomics (R89, R147) and maintenance. -/
structure ULoad where
  tag : Nat
  pa : Nat
  size : Nat
  off : Nat                   -- where its bytes lie in the value being assembled
  va : Word
  dest : UDest
  stop : Nat
  remote : Bool
  len : Nat                   -- bytes by which pc advances when the instruction retires
  deadline : Nat
  wait : Option Flit          -- the request, while it has not been sent (R54, R218)
  deriving DecidableEq, Repr

/-- LR reservation (R141) and its snoop deferral (R144). -/
structure Resv where
  block : Nat
  pa : Nat
  size : Nat
  deferring : Bool
  deriving DecidableEq, Repr

/-- A fence that waits (R149): whether it waits for older writes, for cacheable ones too, and for EWA = 1 writes only until they are issued; whether reads
follow it; and the cycles that it takes (R151, R152). -/
structure FenceWait where
  writes : Bool
  cached : Bool
  posted : Bool
  reads : Bool
  cost : Nat
  deriving DecidableEq, Repr

inductive Idle where
  | run | c1 | c2 | c3
  deriving DecidableEq, Repr

/-- An entry of a tagged table of the direction predictor (R70): its tag and a two-bit counter. -/
structure TageEntry where
  tag : Nat
  ctr : Fin 4
  deriving DecidableEq, Repr

/-- An entry of the loop predictor (R70): the branch, the trip count last seen, the iterations of the run in progress, and how often the count has come again. -/
structure LoopEntry where
  pc : Word
  trip : Nat
  count : Nat
  same : Nat
  deriving DecidableEq, Repr

/-- Prediction state (R66, R70 to R74, R90). -/
structure Pred where
  base : Tab (Fin 4)          -- index -> two-bit counter; 1, weakly not taken, where none is listed
  tagged : Tab (Option TageEntry)     -- table * 2048 + index
  loops : List LoopEntry      -- newest first, at most 64
  hist : List Bool            -- global history, newest first, at most 260
  l0 : List (Word × Word)     -- L0 target buffer, newest first, at most 64: pc, target
  main : Tab (List (Word × Word))     -- main target buffer: set -> up to 8 entries, newest first
  itp : Tab (Option Word)     -- indirect target predictor: index -> target
  ras : Tab Word              -- return stack: slot -> return address
  rasTop : Nat                -- slot of the next push
  rasLen : Nat                -- valid entries, at most 64
  mdp : List (Word × Word)    -- memory-dependence predictor: load address, store address; newest first
  deriving DecidableEq, Repr

def Pred.empty : Pred :=
  { base := [], tagged := [], loops := [], hist := [], l0 := [], main := [], itp := [], ras := [], rasTop := 0, rasLen := 0, mdp := [] }

/-- A line in an L1 cache or in an S-core share (R103, R161): its way, and for a D-cache whether it is dirty (R164). Its data is that of the line in the L2 or the
shared level, which holds the newest value at any time (log entry 6). -/
structure L1Line where
  line : Nat
  way : Fin 16
  dirty : Bool
  deriving DecidableEq, Repr

/-- An uncached access whose timer has expired and whose response has not come (R153). -/
structure LateTag where
  tag : Nat
  pa : Nat
  deriving DecidableEq, Repr

/-- A training entry of a stride prefetcher (R182): key, last address or line, stride, accesses that confirm it,
degree, and prefetched lines used by demand. -/
structure PfEntry where
  key : Nat
  last : Nat
  stride : Int
  count : Nat
  deg : Nat
  used : Nat
  deriving DecidableEq, Repr

/-- Translation regimes (R270). -/
inductive Regime where
  | single | vs | g
  deriving DecidableEq, Repr

/-- A leaf translation (R270). `vpn` is the address shifted right by 12; `level` gives the size (R266). -/
structure TlbEntry where
  regime : Regime
  vpn : Nat
  level : Nat
  ppn : Nat
  gppn : Nat                  -- guest physical page of a combined entry
  r : Bool
  w : Bool
  x : Bool
  mv : Bool                   -- readable with vsstatus.MXR: R or X of the VS stage, and R of the G stage
  mh : Bool                   -- readable with mstatus.MXR: R or X of each stage
  u : Bool
  g : Bool
  a : Bool
  d : Bool
  asid : Nat
  vmid : Nat
  deriving DecidableEq, Repr

/-- A non-leaf PTE held by a walk cache (R269). -/
structure WalkEntry where
  regime : Regime
  level : Nat
  vpn : Nat
  ppn : Nat
  asid : Nat
  vmid : Nat
  deriving DecidableEq, Repr

/-- Kinds of access a translation serves. -/
inductive Acc where
  | fetch | load | store
  deriving DecidableEq, Repr

/-- The answer to a walker's request: the 8 bytes of the PTE, or an error (R273, R274, R276). -/
structure PteAns where
  value : Nat
  poison : Bool
  err : Bool
  deriving DecidableEq, Repr

/-- A page-table walk in progress (R272). `outer` holds the VS-stage level while a G-stage walk
translates the address of a VS-stage PTE; `vleaf` the VS-stage leaf while the final address is translated. -/
structure Walk where
  id : Nat
  va : Word
  acc : Acc
  eff : Mode                  -- mode whose permissions apply
  sum : Bool
  mxr : Bool
  hlvx : Bool                 -- HLVX: execute permission in place of read
  live : Bool                 -- its instruction has not been squashed (R275)
  stage : Regime
  level : Nat
  top : Nat
  ptea : Nat                  -- physical address of the PTE to read
  gpa : Nat                   -- address under G-stage translation
  outer : Option Nat
  vleaf : Option (Word × Nat)
  asid : Nat
  vmid : Nat
  upd : Option Word           -- a PTE that waits for its A or D update, as read (R276)
  adw : Bool                  -- the G-stage walk serves the A or D write of a VS-stage PTE (R277)
  got : Option PteAns         -- what the home slice has answered, in C = 0 memory
  deriving DecidableEq, Repr

/-- A walker's request to the home slice in C = 0 memory that has no answer yet; its walker, numbered `walk`, is not free before (R273, R276). -/
structure WalkReq where
  tag : Nat
  pa : Nat
  walk : Nat
  deadline : Nat
  deriving DecidableEq, Repr

/-- A walk fault held with its instruction (R275, R279, R280). -/
structure WalkFault where
  va : Word
  acc : Acc
  cause : Nat
  xwfd : Word
  tval2 : Word
  tinst : Word
  deriving DecidableEq, Repr

/-- One hart: architectural state (R41, R43, R57 to R62), its load and store unit (R92 to R94, R114),
prediction, translation caches, idle state (R451, R453), reset and debug state (R515, R491). -/
structure Hart where
  x : Tab Word
  f : Tab Word
  v : Tab (BitVec 256)
  pc : Word
  mode : Mode
  csr : Tab Word
  seq : Nat
  clock : Nat
  ready : Tab Nat             -- register -> cycle at which its result is available (R80, R113)
  sb : List SbEntry           -- oldest first
  early : List EarlyLoad      -- load queue: loads read ahead of program order, in the order of reading, at most 192
  track : List UWrite
  uload : List ULoad
  late : List LateTag
  begun : Bool                -- the instruction at pc has begun an access that an interrupt waits for (R101, R118, R122)
  dl1 : List L1Line           -- L1 D-cache or D share
  il1 : List L1Line           -- L1 I-cache or I share
  dtree : Tab Nat             -- pseudo-LRU trees of the D side: set -> bits (R161)
  itree : Tab Nat
  dfill : List Nat            -- fill buffers: lines awaited by the D side, at most 32, and by the I side, at most 16 (R66)
  ifill : List Nat
  uacc : Line                 -- bytes of an uncached load received so far (R139)
  resv : Option Resv
  fence : Option FenceWait
  wfences : List Nat          -- T-core: places of fences behind which younger writes still wait for older ones (R149, R151)
  idle : Idle
  since : Nat
  pred : Pred
  itlb : List TlbEntry        -- L1 I-TLB, L1 D-TLB, and the L2 TLB with that of large pages, newest first (R269)
  dtlb : List TlbEntry
  tlb : List TlbEntry
  wcache : List WalkEntry     -- walk caches (R269)
  gcache : List TlbEntry      -- GPA cache (R269)
  walks : List Walk
  wreqs : List WalkReq
  pfL1 : List PfEntry         -- L1 D stride prefetcher, by instruction address, newest first (R182)
  pfL2 : List PfEntry         -- L2 stride prefetcher, by page, newest first (R182)
  wfaults : List WalkFault
  held : Bool                 -- PW_HRST (R515)
  fatal : Bool
  rstBusy : Bool
  rvec : Word
  stopped : Bool              -- stopped by a reset, a flush or a trip (R460, R468, R513)
  halted : Bool
  haltReq : Bool
  stepAt : Option (Nat × Word) -- dcsr.step: instruction count and pc at the resume (R489)
  haltGroup : Nat
  setResetHalt : Bool
  haveReset : Bool
  entry : Option Nat          -- interrupt whose S-core entry is in c1 to c3 (R121, R123)
  tol : BitVec 16             -- PW_LTOL (R453)
  maxc : BitVec 2
  ceil : Nat                  -- ceiling of POWER_FREQ_SET in MHz (R457)
  deriving DecidableEq, Repr

/-! ### Caches and coherence (R161 to R194) -/

/-- A line in a caching agent: an L2 with its L1 copies, or a shared level with its shares. -/
structure CLine where
  st : Moesi
  data : Line
  mask : LineMask             -- bytes that hold data (R180)
  streaming : Bool
  poison : Bool
  token : Bool
  way : Fin 16
  owner : Nat                 -- core of the cluster that R104 records
  pref : Bool                 -- prefetched and not yet used (R184)
  deriving DecidableEq, Repr

def CLine.invalid : CLine :=
  { st := .i, data := 0, mask := BitVec.allOnes 64, streaming := false, poison := false, token := false, way := 0,
    owner := 0, pref := false }

/-- A line of an L3 slice (R161, R163, R174). -/
structure L3Line where
  valid : Bool
  dirty : Bool
  data : Line
  poison : Bool
  token : Bool
  rrpv : Fin 4
  way : Fin 16
  deriving DecidableEq, Repr

def L3Line.invalid : L3Line :=
  { valid := false, dirty := false, data := 0, poison := false, token := false, rrpv := 0, way := 0 }

/-- A snoop-filter entry (R172). `coarse` holds the 51-bit vector while the entry is in coarse form. -/
structure SfEntry where
  holders : List Nat
  owner : Option Nat
  coarse : Option (BitVec 51)
  way : Fin 24
  deriving DecidableEq, Repr

def SfEntry.empty : SfEntry := { holders := [], owner := none, coarse := none, way := 0 }

/-- A victim-buffer entry (R177). -/
structure VbEntry where
  la : Nat
  data : Line
  mask : LineMask
  poison : Bool
  token : Bool
  issued : Bool
  txn : Bool                  -- the line's open transaction waits for the acknowledgement of this write (R167, R188)
  deriving DecidableEq, Repr

/-- A coherent request of an agent that is outstanding (R147, R165). -/
structure Mshr where
  op : MsgOp                  -- `errorReply` once the home has answered it with an error
  tag : Nat
  got : Bool                  -- the data that a holder forwards has come (R166)
  core : Option Nat           -- core for which it went in the guaranteed class (R129, R218)
  deriving DecidableEq, Repr

/-- An entry of an agent's write-back buffer (R161, R194). -/
structure WbEntry where
  agent : Nat
  la : Nat
  st : Moesi
  data : Line
  mask : LineMask
  poison : Bool
  token : Bool
  deriving DecidableEq, Repr

/-- A home transaction (R167): the request served, the answers and memory accesses awaited, whether the
requester's GrantAck is awaited, and the data and token collected so far. -/
structure Txn where
  req : Flit
  waits : List Nat
  mem : Nat
  ack : Bool
  data : Option Line
  mask : LineMask             -- bytes of `data` that hold data (R181)
  dirty : Bool
  poison : Bool
  token : Bool
  fwd : Bool
  done : Bool                 -- the request has been answered
  way : Option (Fin 24)       -- snoop-filter way kept for the line (R173)
  seen : List Nat             -- agents whose answers said that they hold the line (R172)
  c1 : Bool                   -- C and HELD of the line's region as the transaction opened (R38, R169)
  held : Bool
  deriving DecidableEq, Repr

/-- A streaming-store detector entry (R180): the line being written and the bytes of it written so far, the direction of the run, the
lines wholly written, and the core cycle of the last store to the run. Entries are kept newest first. -/
structure Stream where
  agent : Nat
  slot : Nat
  cur : Nat
  mask : LineMask
  up : Option Bool
  count : Nat
  since : Nat
  deriving DecidableEq, Repr

structure Coh where
  l2 : Tab CLine              -- agent * 2^41 + line
  l3 : Tab L3Line             -- line
  sf : Tab SfEntry            -- line
  vb : List VbEntry
  wb : List WbEntry
  txn : Tab (Option Txn)      -- line
  waitq : List Flit           -- requests in trackers, in arrival order
  mshr : Tab (Option Mshr)    -- agent * 2^41 + line -> request outstanding
  fills : List Flit           -- data grants that wait in fill buffers for room in the agent (R147)
  streams : List Stream
  wayOff : Tab (BitVec 4)     -- C-tile ordinal -> way groups closed to allocation (R191)
  wayDown : Tab (BitVec 4)    -- C-tile ordinal -> way groups switched off
  pfctl : Tab (BitVec 32)     -- SL_PFCTL of T-core h, as the difference from its reset value (R186)
  noAlloc : Tab Bool          -- agents whose L2 has stopped allocating (R192)
  tree : Tab Nat              -- pseudo-LRU trees: agent * 2048 + set -> bits (R161)
  deriving DecidableEq, Repr

/-! ### Mesh (R195 to R224) -/

inductive WheelForm where
  | path | fan | gather | zero
  deriving DecidableEq, Repr

/-- A reservation (R215) and its binding (R219). -/
structure Reservation where
  form : WheelForm
  vc : Nat
  k : Nat
  src : Nat                   -- source stop
  dst : Nat
  owner : Option Nat          -- instance, or none for the host
  agent : Nat
  bound : Nat
  inject : Bool
  releaseAt : Option Nat      -- mesh cycle at which step 3 of R221 is due
  deriving DecidableEq, Repr

/-- A write that a stop has acknowledged with EWA = 1 and tracks to its endpoint (R155): the stop, the address, the requester and its package and tag, and
the end of its time. -/
structure EwaWrite where
  stop : Node
  la : Nat
  req : Node
  rpkg : Nat
  tag : Nat
  deadline : Nat
  deriving DecidableEq, Repr

structure Mesh where
  inject : Tab (List (Nat × Flit))  -- stop -> flits waiting at its L input, each with its order of arrival
  bufs : Tab (List (Nat × Flit))    -- (stop * 5 + input port) * 8 + VC
  stamp : Nat                 -- order given to the next arrival at a buffer (R214, R220)
  used : Tab Nat              -- credits in use: ((stop * 5 + output port) * 8 + VC) * 8 + next output
  ret : Tab Nat               -- credit returns in flight, same key
  wheel : Tab Nat             -- (stop * 5 + output port) * 64 + slot -> RID + 1
  resv : Tab (Option Reservation)
  pair : Tab Nat              -- stop * 128 + GQ RID -> GR RID + 1 (R219)
  rr : Tab Nat                -- round-robin pointers
  arrived : List Flit         -- delivered to their agents
  slotBase : Tab Nat          -- tile -> phase of its slot counter (R213)
  cycle : Nat                 -- mesh cycles since cold reset
  ahead : Nat                 -- of these, cycles of the nanosecond in progress
  sentAt : Tab Nat            -- stop * 5 + output port -> mesh cycle after the one in which it last sent a flit (R214)
  orphans : List Nat          -- orders of arrival of the flits that wait as orphans (R221)
  ewa : List EwaWrite         -- writes that a stop has acknowledged and its endpoint has not (R155)
  deriving DecidableEq, Repr

/-! ### GDDR6 memory (R225 to R264) -/

inductive ChState where
  | untrained | training | online | shortRetrain | selfRefresh | offline | off
  deriving DecidableEq, Repr

inductive MemKind where
  | read | write | masked | scrub | repair
  deriving DecidableEq, Repr

/-- One request of a channel (R238). -/
structure MemReq where
  kind : MemKind
  la : Nat                    -- local address of the line
  bank : Nat
  row : Nat
  line : Nat
  data : Line
  mask : LineMask
  poison : Bool
  guar : Bool
  src : Node
  tag : BitVec 10
  at_ : Nat
  inj : Nat                   -- KIND of the injection that applies to this write, 0 for none (R263)
  deriving DecidableEq, Repr

/-- How a line in the array differs from the codeword of its data and place (R233 to R235): the bytes that are wrong, 64 of data and 8 of check, with what is wrong
in them; the poison mark, which inverts the check bytes; and the address with which the check bytes were computed, as a difference. -/
structure LineMark where
  err : BitVec 576
  poison : Bool
  aerr : BitVec 32
  deriving DecidableEq, Repr

def LineMark.clean : LineMark := { err := 0, poison := false, aerr := 0 }

structure Chan where
  st : ChState
  staging : List MemReq
  gstaging : List MemReq
  bankq : List MemReq         -- bank queues, in the order of entry
  reading : List MemReq       -- accesses whose read bursts are outstanding: reads, and writes that read their data or check line first (R237)
  repairq : List MemReq       -- repair and mark writes for which the bank queue has had no room (R234, R255)
  retry : List (Nat × Nat)    -- bursts that await their write CRC: line, burst (R249)
  clc : List (Nat × Bool)     -- check-line cache: check line id, dirty; newest first (R236)
  open_ : Tab Nat             -- bank -> open row + 1
  lastBank : Nat
  hits : Tab Nat              -- bank -> row hits served ahead of an older miss (R240)
  writePhase : Bool
  wDone : Nat
  pages : List (Nat × Nat)    -- page counters, newest first (R255)
  report : Option Nat         -- page whose counter reached 8
  corrected : Nat
  replays : Nat
  retrains : Nat
  lastRetrain : Nat
  trainFail : Nat
  streak : Nat                -- consecutive CRC failures of the oldest read
  wstreak : Nat               -- consecutive CRC failures of the oldest unconfirmed write burst
  replayAt : List Nat         -- times of the last 64 replays, newest first (R251)
  retrainEnd : Option Nat
  justRetrained : Bool
  issued : Nat
  confirmed : Nat
  injCtl : BitVec 32
  injLine : BitVec 64
  temp : BitVec 8
  hot : Bool
  postponed : Tab Nat         -- bank -> refreshes postponed
  pulled : Tab Nat            -- bank -> refreshes pulled forward
  refreshes : Nat
  refAt : Nat                 -- bank whose refresh is due next in the rotation (R245)
  scrubAt : Nat               -- next data line to scrub, counted over the channel
  scrubBusy : Bool
  deriving DecidableEq, Repr

def Chan.reset : Chan :=
  { st := .untrained, staging := [], gstaging := [], bankq := [], reading := [], repairq := [], retry := [], clc := [], open_ := [],
    lastBank := 15, hits := [], writePhase := false, wDone := 0, pages := [], report := none, corrected := 0, replays := 0,
    retrains := 0, lastRetrain := 0, trainFail := 0, streak := 0, wstreak := 0, replayAt := [], retrainEnd := none,
    justRetrained := false, issued := 0, confirmed := 0, injCtl := 0, injLine := 0, temp := 0, hot := false, postponed := [],
    pulled := [], refreshes := 0, refAt := 0, scrubAt := 0, scrubBusy := false }

/-- A retired page (R256, R441). -/
structure Retired where
  ch : Nat
  bank : Nat
  row : Nat
  cause : Nat
  deriving DecidableEq, Repr

structure Dram where
  marks : Tab LineMark        -- local line -> what its check bytes hold
  chans : Tab Chan
  map : BitVec 32             -- MC_MAP (R230)
  scrubHours : Nat
  retired : List Retired      -- boot-flash journal, in order of retirement
  deriving DecidableEq, Repr

/-! ### IOMMU (R286 to R297) -/

/-- An IOTLB entry (R289). -/
structure IoTlb where
  gscid : Nat
  pscid : Nat
  vpn : Nat
  level : Nat
  ppn : Nat
  r : Bool
  w : Bool
  first : Bool                -- first-stage or combined entry
  second : Bool               -- second-stage or combined entry
  g : Bool
  gvpn : Nat
  deriving DecidableEq, Repr

/-- An inbound access translated and not yet performed (R293). -/
structure InAcc where
  tag : Nat
  write : Bool
  stale : Bool                -- an invalidation has removed the entry it used
  pa : Nat
  deadline : Nat              -- end of its time (R153)
  deriving DecidableEq, Repr

structure IoFence where
  av : Bool
  pw : Bool
  addr : Nat
  data : BitVec 32
  waits : List Nat
  deriving DecidableEq, Repr

/-- A line that a walk has read: its data, and whether it was poisoned or answered with another error (R274, R290). -/
structure IoLine where
  data : Line
  poison : Bool
  err : Bool
  deriving DecidableEq, Repr

/-- What a walk waits for: a line, or the compare-and-swap of an A/D update (R290). -/
inductive IoNeed where
  | read (la : Nat)
  | cas (pa : Nat) (old new : Word)
  deriving DecidableEq, Repr

/-- A walker at work on one translation: for an access, or for the debug request (R289, R296). `restart` says that an invalidation has come since its request. -/
structure IoWalker where
  tag : Nat
  req : Option IoReq
  iova : Word
  write : Bool
  guar : Bool
  reads : List (Nat × IoLine)
  asked : IoNeed
  restart : Bool
  deriving DecidableEq, Repr

/-- A refused access: the cause of the IOMMU specification, iotval2, and for a walk fault the xwfd layout of R59. -/
structure IoFault where
  cause : Nat
  iotval2 : Word
  walk : Option Word
  quiet : Bool                -- the device context disables its report
  deriving DecidableEq, Repr

/-- The outcome of a walk that no IOTLB entry holds, kept for the access that waits for it: its physical address, or its fault. -/
structure IoHeld where
  req : IoReq
  iova : Word
  write : Bool
  res : Nat ⊕ IoFault
  deriving DecidableEq, Repr

structure Iommu where
  ddtp : Word
  cqb : Word
  cqh : BitVec 32
  cqt : BitVec 32
  cqcsr : BitVec 32
  fqb : Word
  fqh : BitVec 32
  fqt : BitVec 32
  fqcsr : BitVec 32
  ipsr : BitVec 32
  fctl : BitVec 32
  icvec : Word
  other : Tab Word            -- HPM, debug and MSI configuration registers by offset
  dcache : List (Nat × BitVec 512)
  pcache : List (Nat × BitVec 128)
  iotlb : List IoTlb
  insts : Tab (Option (BitVec 512))  -- on-chip table of instance contexts (R436)
  inflight : List InAcc
  fence : Option IoFence
  wcache : List (Nat × Word)  -- non-leaf PTEs by address (R289)
  walkers : List IoWalker     -- at most 16, 4 of them for guaranteed-class requests (R289, R296)
  held : List IoHeld
  fqWait : List Line          -- fault records to be written, the first of them on its way (R295)
  deriving DecidableEq, Repr

def Iommu.reset : Iommu :=
  { ddtp := 0, cqb := 0, cqh := 0, cqt := 0, cqcsr := 0, fqb := 0, fqh := 0, fqt := 0, fqcsr := 0, ipsr := 0, fctl := 0,
    icvec := 0, other := [], dcache := [], pcache := [], iotlb := [], insts := [], inflight := [], fence := none,
    wcache := [], walkers := [], held := [], fqWait := [] }

/-! ### Graop fabric (R298 to R338) -/

inductive LinkState where
  | off | training | up | recovery | down | held | domainOff
  deriving DecidableEq, Repr

structure Frame where
  seq : Nat
  pkts : List Pkt
  deriving DecidableEq, Repr

structure Link where
  st : LinkState
  width : BitVec 2
  group : Option (Fin 8)      -- group while the link is a member
  nbr : BitVec 9
  nbrLink : Nat
  syncpar : Bool
  dateline : Bool
  txSeq : Nat
  retry : List Frame          -- oldest first, at most 128 (R304)
  replay : List Frame
  rxNext : Nat
  nak : Bool
  queue : List Pkt            -- packets waiting to leave
  rx : Tab Nat                -- VC -> packets in the receive buffer
  rxQ : List Pkt              -- requests waiting in the receive buffer
  credUsed : Tab Nat          -- VC -> credits in use at the transmitter
  credSeen : Tab Nat          -- VC -> cumulative count last seen
  credRet : Tab Nat           -- VC -> cumulative count of credits returned
  sent : Nat
  acked : Nat
  corrected : Nat
  bad : Nat
  replays : Nat
  recoveries : Nat
  downs : Nat
  cause : Nat
  streak : Nat                -- times in a row that the expected frame was bad (R305)
  replayAt : List Nat         -- times of the latest replays, newest first, at most 257 (R305)
  recFails : Nat
  downAt : Nat
  disabling : Bool
  inj : BitVec 32
  syncSent : Word             -- last SYNC received: its send value and arrival time (R329)
  syncArr : Word
  deriving DecidableEq, Repr

def Link.reset : Link :=
  { st := .off, width := 0, group := none, nbr := 0, nbrLink := 0, syncpar := false, dateline := false, txSeq := 0, retry := [],
    replay := [], rxNext := 0, nak := false, queue := [], rx := [], rxQ := [], credUsed := [], credSeen := [], credRet := [],
    sent := 0, acked := 0, corrected := 0, bad := 0, replays := 0, recoveries := 0, downs := 0, cause := 0, streak := 0,
    replayAt := [], recFails := 0, downAt := 0, disabling := false, inj := 0, syncSent := 0, syncArr := 0 }

structure Route where
  v : Bool
  group : Fin 8
  hops : Nat
  deriving DecidableEq, Repr

def Route.none : Route := { v := false, group := 0, hops := 0 }

/-- A tag-table entry (R318). -/
structure TagEntry where
  link : Nat
  idx : Nat
  node : Node
  tag : BitVec 10
  freeAt : Nat
  op : PktOp
  dpkg : Nat
  la : Nat                    -- its address, which selects the member link (R320)
  via : Route                 -- route by which the request left (R159)
  deriving DecidableEq, Repr

/-- A home-table entry (R318). -/
structure HomeEntry where
  spkg : Nat
  glink : Nat
  gtag : Nat
  link : Nat
  tag : Nat
  op : PktOp
  deriving DecidableEq, Repr

inductive TimeState where
  | locked | slewing | holding | root
  deriving DecidableEq, Repr

structure Graop where
  links : Tab Link
  routes : Tab Route
  tags : List TagEntry
  homes : List HomeEntry
  inbound : BitVec 512        -- 1: refused (the complement of ALLOW, R325)
  timeState : TimeState
  root : Nat
  rootHops : Nat
  offset : Int
  rate : Int                  -- in 0.001 ppm (R434)
  refuse : Bool               -- inbound requests are refused (R512)
  deriving DecidableEq, Repr

/-! ### Transfer engines and instances (R339 to R377) -/

inductive DmaState where
  | idle | armed | run | drain | complete | aborted | error
  deriving DecidableEq, Repr

/-- The registers of one set (R344, R345, R349). -/
structure DmaSet where
  ctl : BitVec 32
  src : Word
  dst : Word
  len : BitVec 32
  rows : BitVec 16
  sstride : BitVec 32
  dstride : BitVec 32
  next : Word
  deriving DecidableEq, Repr

def DmaSet.reset : DmaSet :=
  { ctl := 0x0010_0000, src := 0, dst := 0, len := 0, rows := 0, sstride := 0, dstride := 0, next := 0 }

/-- A request of a channel that is outstanding (R339, R363). `pos` is the byte of the set at which it starts; `set_` is the set's number, or 0 for a read
that an instance reset has abandoned (R375). -/
structure DmaReq where
  tag : Nat
  write : Bool
  va : Word                   -- address before translation
  pos : Nat
  bytes : Nat
  set_ : Nat
  deadline : Nat
  desc : Bool
  deriving DecidableEq, Repr

/-- Read data that waits to be written (R341). -/
structure DmaWr where
  pos : Nat
  data : List Byte
  poison : Bool
  deriving DecidableEq, Repr

structure Dma where
  act : DmaSet
  sh : DmaSet
  shValid : Bool
  cfg : BitVec 32
  st : DmaState
  aborting : Bool
  code : BitVec 8
  dsc : Bool
  trigPend : Bool
  trigOvr : Bool
  loads : BitVec 8
  remain : BitVec 16
  faddr : Word
  setNo : Nat
  pos : Nat                   -- bytes of the set already requested
  ending : Option (Nat × Bool)  -- the chain ends once every write is acknowledged: code (0: COMPLETE) and DSC (R352)
  out : List DmaReq
  wr : List DmaWr
  evs : List (Nat × Bool)     -- sets not yet complete, oldest first: number, EVDONE
  desc : Option (Line × BitVec 8)   -- held descriptor and the error of its fetch
  inst : Option (Fin 64)
  deriving DecidableEq, Repr

def Dma.reset : Dma :=
  { act := .reset, sh := .reset, shValid := false, cfg := 0, st := .idle, aborting := false, code := 0, dsc := false,
    trigPend := false, trigOvr := false, loads := 0, remain := 0, faddr := 0, setNo := 0, pos := 0, ending := none, out := [],
    wr := [], evs := [], desc := none, inst := none }

structure Window where
  base : Nat
  limit : Nat
  r : Bool
  w : Bool
  deriving DecidableEq, Repr

inductive InstState where
  | none | active | draining
  deriving DecidableEq, Repr

structure Instance where
  st : InstState
  wins : List Window
  bw : Nat
  first : Nat
  last : Nat
  slots : List Nat            -- channel of slot 0, 1, ...
  rstDone : Bool
  faults : BitVec 7
  inFault : BitVec 32
  inFaddr : Word
  denied : BitVec 16
  ridq : Nat
  ridr : Nat
  bound : Nat
  destroying : Bool
  resetReq : Bool
  deriving DecidableEq, Repr

def Instance.reset : Instance :=
  { st := .none, wins := [], bw := 0, first := 0, last := 0, slots := [], rstDone := false, faults := 0, inFault := 0,
    inFaddr := 0, denied := 0, ridq := 0, ridr := 0, bound := 0, destroying := false, resetReq := false }

structure Engines where
  chans : Tab Dma
  insts : Tab Instance
  rot : Tab Nat               -- engine -> channel served last (R339)
  deriving DecidableEq, Repr

/-! ### Interrupts and event lines (R378 to R397) -/

inductive SrcMode where
  | inactive | detached | edge1 | edge0 | level1 | level0
  deriving DecidableEq, Repr

structure Source where
  mode : SrcMode
  deleg : Bool
  ip : Bool
  ie : Bool
  target : BitVec 32
  level : Bool
  deriving DecidableEq, Repr

def Source.reset : Source :=
  { mode := .inactive, deleg := false, ip := false, ie := false, target := 0, level := false }

/-- An IMSIC file (R380). -/
structure ImFile where
  deliv : Word
  thresh : BitVec 11
  eip : BitVec 2048
  eie : BitVec 2048
  deriving DecidableEq, Repr

def ImFile.reset : ImFile := { deliv := 0, thresh := 0, eip := 0, eie := 0 }

structure Irq where
  src : Tab Source
  ieM : Bool                  -- domaincfg.IE of the machine domain
  ieS : Bool
  msiM : BitVec 32            -- genmsi of the machine domain, as last written (R378)
  msiS : BitVec 32
  imsic : Tab ImFile          -- hart index * 9 + file (0 machine, 1 supervisor, 1 + g guest)
  mtimecmp : Tab Word         -- complement of MS_MTIMECMP (R387)
  evsrc : Tab (BitVec 32)     -- MS_EVSRC (R395)
  evsnk : Tab (BitVec 32)     -- MS_EVSNK (R396)
  evtick : Tab Word           -- MS_EVTICK (R394)
  gates : Tab Bool            -- stop * 16 + gate (R410)
  gpioIn : BitVec 16
  gpioOut : Tab Nat           -- pulses put out on pin g (R390)
  events : List (Nat × Nat)   -- pulses that an Event flit has brought to a stop and its sinks have not taken: stop, line (R388)
  deriving DecidableEq, Repr

/-! ### Counters and Ladle (R398 to R423) -/

structure Latched where
  cnt : List (BitVec 48)
  fix0 : BitVec 64
  fix1 : BitVec 64
  ev : List (BitVec 16)
  ovf : BitVec 4
  late : Bool
  off : Bool                  -- the agent's power domain was off at the latch
  deriving DecidableEq, Repr

structure Bank where
  freeze : Bool
  filtSrc : BitVec 32
  filtCls : BitVec 8          -- complement of VCMASK
  filtBase : Word
  filtMask : Word
  evsel : Tab (BitVec 32)
  cnt : Tab (BitVec 48)
  ovf : BitVec 4
  window : BitVec 16
  bwCur : Nat                 -- bytes of the window in progress
  bwLast : BitVec 48
  bwMax : BitVec 48
  latch : Option Latched
  deriving DecidableEq, Repr

def Bank.reset : Bank :=
  { freeze := false, filtSrc := 0, filtCls := 0, filtBase := 0, filtMask := 0, evsel := [], cnt := [], ovf := 0, window := 0,
    bwCur := 0, bwLast := 0, bwMax := 0, latch := none }

structure Ladle where
  en : Bool
  trigev : Bool
  lead : BitVec 8
  log2sz : BitVec 5
  base : Word
  head : Nat
  tail : BitVec 30
  period : BitVec 32
  dropring : BitVec 16
  dropbusy : BitVec 16
  seq : BitVec 16
  err : BitVec 4
  collect : Bool
  armed : Bool
  t : Nat
  cause : Nat
  late : Bool
  tok : List Nat              -- budget, free, held in caches, held in victim buffers at the latch (R421)
  deriving DecidableEq, Repr

structure Perf where
  banks : Tab Bank            -- stop * 3 + bank
  ladle : Ladle
  deriving DecidableEq, Repr

/-! ### Rennet, mailboxes and Rind (R424 to R448) -/

inductive MbState where
  | idle | busy | done | down
  deriving DecidableEq, Repr

structure Mbox where
  st : MbState
  lost : Bool
  result : BitVec 16
  seq : BitVec 16
  irq : Bool
  valid : Bool                -- MB_OWNER (R426)
  closing : Bool              -- its instance is destroyed: VALID clears when the BUSY command completes (R435)
  sideband : Bool
  inst : BitVec 8
  cls : BitVec 9
  first : Nat
  last : Nat
  order : Nat                 -- number of the accepted doorbell
  ran : Option (BitVec 16)    -- the command has run with this status and awaits completion
  grant : Option (Nat × Nat × Bool)  -- buffer grant: address, length, Rennet may write (R444)
  deriving DecidableEq, Repr

def Mbox.reset : Mbox :=
  { st := .idle, lost := false, result := 0, seq := 0, irq := false, valid := false, closing := false, sideband := false, inst := 0xFF, cls := 0,
    first := 0, last := 0, order := 0, ran := none, grant := none }

structure Notice where
  code : Nat
  detail : BitVec 32
  time : Nat
  deriving DecidableEq, Repr

/-- Work of Rennet that goes on after its command has started: it ends by an event, and a Rennet reset does not undo it (R447). -/
inductive Unfinished where
  | destroy (i : Fin 64)
  | reset (i : Fin 64)
  | release (rid : Fin 128)
  | linkDisable (l : Fin 8)
  | waygroup
  | token
  deriving DecidableEq, Repr

/-- A copy of an error record in Rennet's log (R500). -/
structure LogRec where
  index : Nat
  tile : Nat
  cls : Nat
  hdr : Word
  addr : Word
  req : Word
  detail : Word
  time : Word
  deriving DecidableEq, Repr

/-- The flush record (R468, R471). -/
structure FlushRec where
  valid : Bool
  complete : Bool
  consumed : Bool
  t0 : Nat
  lines : Nat
  duration : Nat
  energy : Nat
  map : BitVec 32
  popDens : Nat
  popClam : Bool
  deriving DecidableEq, Repr

structure Rennet where
  mbox : Tab Mbox
  doorbells : Nat
  notices : List Notice
  lostn : Nat
  restarts : Nat
  violations : Nat
  resets : List Nat           -- times of the Rennet resets of the last hour (R446)
  fenced : Bool
  up : Bool                   -- firmware serves
  lastBeat : Nat
  started : Bool              -- the first host instruction has been fetched (R522)
  unfinished : List (Unfinished × Option (Fin 32))   -- with the mailbox whose command waits for it
  slots : Tab (Option ImageInfo)     -- target * 2 + slot -> image written by FW_STAGE; none: the factory image (R476, R477)
  actSlot : Tab Nat           -- target -> active slot, as the journal records it (R476)
  staged : Tab Bool           -- target -> the spare slot holds a verified staged image (R439)
  commit : Tab Bool           -- target -> the spare slot becomes active at the next cold reset (R439)
  active : Tab (Option ImageInfo)    -- target -> running image; none: the factory image
  hostOk : Bool               -- Rennet has accepted a host image (R479)
  raiseOtp : Bool             -- FW_COMMIT has been made: counters rise at host start (R478)
  jrnlGen : Nat               -- Brine journal (R472)
  jrnl : List Byte
  outcome : Nat               -- outcome of the last flush record (R471)
  log : List LogRec           -- oldest first, at most 16,384
  logNext : Nat
  journal : List LogRec       -- records of class 2 or higher in the boot flash, oldest first, at most 1,024 (R500)
  logCopied : List (Nat × Nat × Nat) -- bank records already copied: tile, record, order
  flush : FlushRec
  bootKind : Nat
  console : List Nat          -- causes reported on the UART console
  waitAssign : List (Fin 32)  -- MAILBOX_ASSIGN commands that wait for their target (R430)
  deriving DecidableEq, Repr

/-! ### Power, thermal control and Brine (R449 to R473, R507 to R509) -/

/-- A tile's life ledger: A and H in tenths of a second, and its two limits (R508). -/
structure Ledger where
  a : Nat
  h : Nat
  lim1 : Bool
  lim2 : Bool
  deriving DecidableEq, Repr

def Ledger.reset : Ledger := { a := 0, h := 0, lim1 := false, lim2 := false }

structure Power where
  limitW : Nat
  meshMhz : Nat
  slowW : Nat                 -- 1 s and 10 ms averages of package power (R459)
  fastW : Nat
  cut : Nat                   -- MHz by which the power limit lowers T-cores
  thermCut : Nat              -- MHz by which TCTL lowers T-cores
  throttle : BitVec 32        -- R461
  pcieOff : BitVec 6
  engOff : BitVec 2
  portOff : BitVec 24
  sensor : Tab Int            -- tile -> hottest sensor, above 25 C (log entry 65)
  hwthr : Bool
  trip : Bool
  tripAt : Int                -- threshold of THERMTRIP_N (R444 rule 9, R460)
  tctl : Int
  ledger : Tab Ledger
  ledgerSaved : Tab Ledger    -- as the boot-flash journal holds it
  agingCut : Tab Nat          -- tile * 16 + monitor -> MHz lowered (R509)
  agingMv : Tab Nat           -- tile -> mV raised
  margin : Tab Nat            -- tile * 16 + monitor -> steps lost
  retention : Bool
  pfail : Option Nat          -- time at which PFAIL_N fell
  coreOff : List Nat          -- harts whose domain is off
  deriving DecidableEq, Repr

structure Brine where
  budget : Nat
  pool : Nat
  allow : Tab Nat             -- allowances: agents 0-203, slices at 204 + n (R462)
  cutPend : Nat               -- tokens still to be retired (R467)
  energy : Nat
  readAt : Option Nat
  fallback : Nat
  deriving DecidableEq, Repr

/-! ### Security and debug (R474 to R493) -/

structure Sec where
  level : Fin 4
  inst : Nat                  -- instance named at Tenant
  dbgmax : Fin 4
  seedErased : Bool
  eraseIntent : Bool
  rsvn : Nat
  hsvn : Nat
  keymin : Nat
  authErr : Bool
  toks : List (DbgToken × Option (Fin 32))  -- tokens waiting for or under check, in arrival order, with the mailbox that waits
  cmderr : Tab Nat            -- debug module -> error of its last abstract command (R486, R489)
  dmdata : Tab Word           -- debug module -> value that its last abstract command read
  sberror : Nat               -- error and data of the last system bus access (R490)
  sbdata : Word
  sbBusy : Option Nat         -- deadline of a system bus access that awaits its answer (R490)
  boot : Nat                  -- DBG_STATUS.BOOT
  nonce : Nat                 -- number of the boot's BOOTNONCE
  deriving DecidableEq, Repr

/-! ### Errors (R494 to R510) -/

structure ErrRec where
  v : Bool
  addrv : Bool
  reqv : Bool
  cls : Nat
  typ : Nat
  unit : Nat
  sub : Nat
  cause : Nat
  count : Nat
  pa : Nat
  pkg : Nat
  sx : Nat
  sy : Nat
  ssub : Nat
  tag : Nat
  detail : Word
  time : Nat
  ras : Bool                  -- raises the RAS interrupt (R499)
  order : Nat
  deriving DecidableEq, Repr

def ErrRec.empty : ErrRec :=
  { v := false, addrv := false, reqv := false, cls := 0, typ := 0, unit := 0, sub := 0, cause := 0, count := 0, pa := 0, pkg := 0,
    sx := 0, sy := 0, ssub := 0, tag := 0, detail := 0, time := 0, ras := false, order := 0 }

structure ErrBank where
  recs : Tab ErrRec
  lost : BitVec 16
  ceCount : BitVec 32
  wrap : Bool
  thresh : BitVec 32
  deriving DecidableEq, Repr

def ErrBank.reset : ErrBank := { recs := [], lost := 0, ceCount := 0, wrap := false, thresh := 0x1000 }

structure Errs where
  banks : Tab ErrBank         -- tile
  orders : Nat
  deriving DecidableEq, Repr

/-! ### Platform (boot flash configuration, R226, R230, R315, R459, R460, R466, R521, R524) -/

inductive Topology where
  | single | chain | ring | tree
  deriving DecidableEq, Repr

inductive Bifurcation where
  | x16x8 | x8x3 | x4x6
  deriving DecidableEq, Repr

/-- What stands at the site of a memory port (R226): the devices of the platform configuration, nothing, or devices of another density, placement or speed grade, or
with timings past those of R225. -/
inductive Site where
  | asConfigured
  | absent
  | other (dens : BitVec 4) (clam : Bool) (grade : BitVec 8) (slow : Bool)
  deriving DecidableEq, Repr

structure Platform where
  sites : Tab Site            -- memory port -> its devices
  trainOk : BitVec 48         -- channels on which full training succeeds (R246)
  dens : BitVec 4
  clam : Bool
  rate : BitVec 8
  chxor : BitVec 2
  bkxor : BitVec 2
  savedOk : BitVec 48         -- channels whose saved training values pass
  pkgId : Fin 512
  topo : Topology
  npkg : Nat
  bpkg : Nat
  linkGroup : Tab (Option (Fin 8 × Fin 512))  -- link -> group and expected neighbour
  parent : Option (Fin 8)
  children : List (Fin 8 × Nat × Nat)
  bringup : Nat               -- seconds
  inbound : BitVec 512        -- 1: refused
  tctl : Int
  limitW : Nat
  budgetCap : Option Nat
  imgBase : Nat
  hostLen : Nat
  hsize : Nat
  flash : Nat                 -- bytes that the boot flash reports (R477)
  bifur0 : Bifurcation
  bifur1 : Bifurcation
  deriving DecidableEq, Repr

/-- The life of the package between resets (R468, R513, R520). -/
inductive Phase where
  | boot | run | inert
  deriving DecidableEq, Repr

/-- An outbound PCIe request that awaits its completion (R523, R525). -/
structure PcieReq where
  ctl : Nat
  tag : Nat
  req : Flit
  cfg : Bool
  deriving DecidableEq, Repr

structure Pcie where
  reqs : List PcieReq
  posted : List (Nat × Nat × Nat)   -- posted writes not yet acknowledged: controller, requester ID, tag (R384)
  deriving DecidableEq, Repr

/-- The state of the package. -/
structure State where
  tcores : Tab Hart
  scores : Tab Hart
  mem : Mems
  pma : Pma
  coh : Coh
  mesh : Mesh
  dram : Dram
  iommu : Tab Iommu
  graop : Graop
  eng : Engines
  irq : Irq
  perf : Perf
  ren : Rennet
  pow : Power
  brine : Brine
  sec : Sec
  err : Errs
  pcie : Pcie
  plat : Platform
  phase : Phase
  time : Nat                  -- package timebase in ns (R386)
  free : Nat                  -- MODEL FIELD: counts the free values taken (log entry 1)
  pending : List Instr        -- commands that wait, first in first out
  deriving DecidableEq, Repr

/-! ### Reset -/

/-- menvcfg.ADUE and henvcfg.ADUE are 1 (R43, R267); dcsr.stopcount is 1 (R399, R489) with debug version 4 and prv M;
vtype.vill is 1 (log entry 8). -/
def csrReset : Tab Word :=
  [(0x30A, 0x2000_0000_0000_0000), (0x60A, 0x2000_0000_0000_0000), (0x7B0, 0x4000_0403), (0xC21, 0x8000_0000_0000_0000)]

/-- A T-core hart after reset (R511, R515, R516, R453): held, in M-mode, registers 0. -/
def Hart.resetT : Hart :=
  { x := [], f := [], v := [], pc := 0, mode := .m, csr := csrReset, seq := 0, clock := 0, ready := [], sb := [], early := [],
    track := [], uload := [], late := [], begun := false, dl1 := [], il1 := [], dtree := [], itree := [], dfill := [], ifill := [], uacc := 0, resv := none, fence := none, wfences := [], idle := .run, since := 0, pred := .empty, itlb := [], dtlb := [], tlb := [], wcache := [],
    gcache := [], walks := [], wreqs := [], pfL1 := [], pfL2 := [], wfaults := [], held := true, fatal := false, rstBusy := false, rvec := 0, stopped := false,
    halted := false, haltReq := false, stepAt := none, haltGroup := 0, setResetHalt := false, haveReset := true, entry := none, tol := 0xFFFF,
    maxc := 0b10, ceil := 3600 }

/-- An S-core hart after reset: PW_LTOL.MAXC is 0b01 (R453), 1.6 GHz (R458). -/
def Hart.resetS : Hart := { Hart.resetT with maxc := 0b01, ceil := 1600 }

/-- Entries 0 to 3 of R39. -/
def pmaReset : Tab PmaEntry :=
  [(0, { PmaEntry.empty with base := 0x0, limit := 0x0_FFFF, tmo := 100, valid := true }),
   (1, { PmaEntry.empty with base := 0x1_0000, limit := 0x7_FFFF, tmo := 100, io := true, valid := true }),
   (2, { PmaEntry.empty with base := 0x8_0000, limit := 0x3FF_FFFF, tmo := 100, c := true, valid := true }),
   (3, { PmaEntry.empty with base := 0x400_0000, limit := 0x3_FFFF_FFFF, tmo := 100, io := true, valid := true })]

def Pma.reset : Pma :=
  { entries := pmaReset, masters := pmaReset, base := 0, limit := 0, attr := 0x0001_9000, lock := false, err := 0, busy := false,
    index := 0, pkgId := 0, dramTop := 0x8000_0000 }

/-- Mailbox 0 belongs to every hart, mailbox 31 to the sideband (R426). -/
def mboxReset : Tab Mbox :=
  [(0, { Mbox.reset with valid := true, cls := 0x1FF, last := 303 }),
   (31, { Mbox.reset with valid := true, sideband := true, cls := 0x0E3 })]

def Coh.reset : Coh :=
  { l2 := [], l3 := [], sf := [], vb := [], wb := [], txn := [], waitq := [], mshr := [], streams := [], wayOff := [], wayDown := [],
    pfctl := [], noAlloc := [], tree := [], fills := [] }

def Mesh.reset : Mesh :=
  { inject := [], bufs := [], stamp := 0, used := [], ret := [], wheel := [], resv := [], pair := [], rr := [], arrived := [], slotBase := [],
    cycle := 0, ahead := 0, sentAt := [], orphans := [], ewa := [] }

def Graop.reset : Graop :=
  { links := [], routes := [], tags := [], homes := [], inbound := 0, timeState := .root, root := 0, rootHops := 0, offset := 0,
    rate := 0, refuse := false }

def Irq.reset : Irq :=
  { src := [], ieM := false, ieS := false, msiM := 0, msiS := 0, imsic := [], mtimecmp := [], evsrc := [], evsnk := [], evtick := [], gates := [],
    gpioIn := 0, gpioOut := [], events := [] }

def Ladle.reset : Ladle :=
  { en := false, trigev := false, lead := 2, log2sz := 0x14, base := 0, head := 0, tail := 0, period := 0, dropring := 0,
    dropbusy := 0, seq := 0, err := 0, collect := false, armed := false, t := 0, cause := 0, late := false, tok := [] }

def FlushRec.none : FlushRec :=
  { valid := false, complete := false, consumed := false, t0 := 0, lines := 0, duration := 0, energy := 0, map := 0, popDens := 0,
    popClam := false }

def Rennet.reset : Rennet :=
  { mbox := mboxReset, doorbells := 0, notices := [], lostn := 0, restarts := 0, violations := 0, resets := [], fenced := false,
    up := false, lastBeat := 0, started := false, unfinished := [], slots := [], actSlot := [], staged := [], commit := [], active := [],
    hostOk := false, raiseOtp := false, jrnlGen := 0, jrnl := [], outcome := 0, log := [], logNext := 0, journal := [], logCopied := [], flush := .none,
    bootKind := 0, console := [], waitAssign := [] }

def Power.reset : Power :=
  { limitW := 750, meshMhz := 2000, slowW := 0, fastW := 0, cut := 0, thermCut := 0, throttle := 0, pcieOff := 0, engOff := 0,
    portOff := 0, sensor := [], hwthr := false, trip := false, tripAt := 112, tctl := 100, ledger := [], ledgerSaved := [], agingCut := [], agingMv := [],
    margin := [], retention := false, pfail := none, coreOff := [] }

def Brine.reset : Brine :=
  { budget := 0, pool := 0, allow := [], cutPend := 0, energy := 0, readAt := none, fallback := 0 }

def Sec.reset : Sec :=
  { level := 0, inst := 0xFF, dbgmax := 0, seedErased := false, eraseIntent := false, rsvn := 0, hsvn := 0, keymin := 0,
    authErr := false, toks := [], cmderr := [], dmdata := [], sberror := 0, sbdata := 0, sbBusy := none, boot := 0, nonce := 0 }

/-- The platform configuration in the boot flash: 32 Gb clamshell devices at 24 Gb/s with the shipped CHXOR = 2 and
BKXOR = 1 (R230), a single package with ID 0 (R314), limit 750 W (R459), TCTL 100 C (R460). -/
def Platform.shipped : Platform :=
  { sites := [], trainOk := BitVec.allOnes 48, dens := 2, clam := true, rate := 24, chxor := 2, bkxor := 1, savedOk := BitVec.allOnes 48, pkgId := 0, topo := .single,
    npkg := 1, bpkg := 0, linkGroup := [], parent := none, children := [], bringup := 10, inbound := 0, tctl := 100, limitW := 750,
    budgetCap := none, imgBase := 0x8000_0000, hostLen := 0x80_0000, hsize := 0x180_0000, flash := 0x400_0000, bifur0 := .x8x3, bifur1 := .x8x3 }

/-- The package right after cold reset, before the boot flow of R520 has run. -/
def State.reset : State :=
  { tcores := [], scores := [],
    mem := { dram := [], tcm := [], sram := [], mbox := [], tcmErr := [] },
    pma := .reset, coh := .reset, mesh := .reset,
    dram := { marks := [], chans := [], map := 0, scrubHours := 24, retired := [] },
    iommu := [], graop := .reset, eng := { chans := [], insts := [], rot := [] }, irq := .reset,
    perf := { banks := [], ladle := .reset }, ren := .reset, pow := .reset, brine := .reset, sec := .reset,
    err := { banks := [], orders := 0 }, pcie := { reqs := [], posted := [] }, plat := .shipped,
    phase := .boot, time := 0, free := 0, pending := [] }

/-! ### Reasons to stop -/

/-- No command of this package ends in a fault: every row of the table has an effect that the spec gives, or changes
nothing when its condition does not hold (log entry 3). The one constructor stands for a command addressed to a unit
that the package does not have; operands are typed by the units of R20, so no meaning raises it. Safe. -/
inductive Fault where
  | noSuchUnit
  deriving DecidableEq, Repr

/-- Why a command has no meaning. -/
inductive Refusal where
  /-- The command has no meaning in the model yet. Raised by the arms of `exec` only. Safe. -/
  | notModelled (mnemonic : String)
  deriving DecidableEq, Repr

end Sys2Proof.Machine
end

