-- ==== Sys2Proof/Machine/Ops.lean ====
section
/-!
DEFINITION. The named operations over the package: units and their stops (R16 to R20, R200), harts and their
registers, byte memories, free values, messages (R198 to R204), the PMA table (R28), wired sources and event
pulses (R381, R382, R388), and error records (R494 to R499).
-/
namespace Sys2Proof.Machine

/-! ### Stops and units -/

/-- Stop identifier `32 * Y + X` of stop `i` of tile `t` (R17). -/
def stopId (t i : Nat) : Nat := 32 * (5 * (t / 4) + i / 8) + (8 * (t % 4) + i % 8)
/-- Tile of a stop identifier. -/
def tileOf (id : Nat) : Nat := 4 * (id / 160) + id % 32 / 8
/-- Stop index within its tile. -/
def stopIdx (id : Nat) : Nat := 8 * (id / 32 % 5) + id % 8
/-- The stop of a node. -/
def nodeStop (n : Node) : Nat := 32 * n.y.val + n.x.val
/-- The agent `sub` at a stop. -/
def mkNode (id sub : Nat) : Node := { x := Fin.ofNat 32 (id % 32), y := Fin.ofNat 10 (id / 32), sub := Fin.ofNat 8 sub }

/-- Tile of C-tile ordinal `o` (R16). -/
def cTile (o : Nat) : Nat := match o with | 0 => 0 | 1 => 2 | 2 => 3 | 3 => 4 | 4 => 5 | _ => 7
/-- C-tile ordinal of a tile, or none for an M-tile. -/
def ordOf (t : Nat) : Option Nat := match t with | 0 => some 0 | 2 => some 1 | 3 => some 2 | 4 => some 3 | 5 => some 4 | 7 => some 5 | _ => none
/-- Tile of M-tile `m`. -/
def mTile (m : Nat) : Nat := if m = 0 then 1 else 6

/-- Index 0 to 239 of a hart in the model's tables: S-core `n` follows the T-cores. -/
def hartIdx : HartId → Nat | .t n => n.val | .s n => 192 + n.val
/-- Hart ID (R20). -/
def hartNum : HartId → Nat | .t n => n.val | .s n => 256 + n.val
def isT : HartId → Bool | .t _ => true | .s _ => false
/-- Every hart of the package. -/
def allHarts : List HartId := (List.finRange 192).map .t ++ (List.finRange 48).map .s
/-- The hart of a hart ID. -/
def hartOfNum (n : Nat) : Option HartId :=
  if h : n < 192 then some (.t ⟨n, h⟩)
  else if h : 256 ≤ n ∧ n < 304 then some (.s ⟨n - 256, by omega⟩) else none

/-- Stop of S-core cluster `k` (R20). -/
def clusterStop (k : Nat) : Nat := stopId (cTile (k / 2)) (if k % 2 = 0 then 33 else 38)
/-- Stop of a hart. -/
def hartStop : HartId → Nat
  | .t n => stopId (cTile (n.val / 32)) (n.val % 32)
  | .s n => clusterStop (n.val / 4)
/-- The agent that sends a hart's uncached requests (R200). -/
def hartNode : HartId → Node
  | .t n => mkNode (hartStop (.t n)) 0
  | .s n => mkNode (hartStop (.s n)) (n.val % 4)
/-- The hart whose uncached requests a node sends. -/
def hartOfNode (n : Node) : Option HartId := allHarts.find? fun h => hartNode h = n
/-- Caching agent of a hart (R164). -/
def agentOf : HartId → Nat | .t n => n.val | .s n => 192 + n.val / 4
/-- Node of a caching agent. -/
def agentNode (a : Nat) : Node :=
  if a < 192 then mkNode (stopId (cTile (a / 32)) (a % 32)) 0 else mkNode (clusterStop (a - 192)) 4
/-- Caching agent at a node. -/
def agentOfNode (n : Node) : Option Nat := (List.range 204).find? fun a => agentNode a = n
/-- The harts that a caching agent serves. -/
def agentHarts (a : Nat) : List HartId := allHarts.filter fun h => agentOf h = a

/-- Node of L3 slice `n` (R170). -/
def sliceNode (n : Nat) : Node := mkNode (stopId (cTile (n / 32)) (n % 32)) 1
/-- Stop of memory port `p` (R19, R20). -/
def portStop (p : Nat) : Nat := let q := p % 12; stopId (mTile (p / 12)) (if q < 6 then q + 1 else q + 27)
/-- Node of memory channel `c`. -/
def chanNode (c : Nat) : Node := mkNode (portStop (c / 2)) (c % 2)
/-- Stop of Graop link `l`. -/
def linkStop (l : Nat) : Nat := stopId (mTile (l / 4)) (match l % 4 with | 0 => 8 | 1 => 24 | 2 => 15 | _ => 31)
def linkNode (l : Nat) : Node := mkNode (linkStop l) 0
def pcieStop (i : Nat) : Nat := stopId (mTile (i / 3)) (18 + i % 3)
def pcieNode (i : Nat) : Node := mkNode (pcieStop i) 0
def engineStop (e : Nat) : Nat := stopId (mTile e) 21
def engineNode (e : Nat) : Node := mkNode (engineStop e) 0
def iommuStop (e : Nat) : Nat := stopId (mTile e) 22
/-- The management stop: Rennet, Rind, boot ROM, shared SRAM, mailboxes (R19). -/
def mgmtStop : Nat := stopId 1 17
def mgmtNode : Node := mkNode mgmtStop 0
/-- The interrupt agent that holds the APLIC (R24). -/
def aplicStop : Nat := stopId 0 34
/-- MSI agent stop of a hart's tile (R383). -/
def msiStop (h : HartId) : Nat := stopId (tileOf (hartStop h)) 37
/-- The stop that holds the error records of a tile (R495). -/
def errStop (t : Nat) : Nat := if (ordOf t).isSome then stopId t 39 else stopId t 22

/-- TYPE of a stop (R25). -/
def stopType (id : Nat) : Nat :=
  let i := stopIdx id
  if (ordOf (tileOf id)).isSome then
    if i < 32 then 0x02 else
    match i with
    | 32 => 0x08 | 33 => 0x03 | 34 => 0x04 | 35 => 0x05 | 36 => 0x06 | 37 => 0x07 | 38 => 0x03 | _ => 0x09
  else if (1 ≤ i ∧ i ≤ 6) ∨ (33 ≤ i ∧ i ≤ 38) then 0x10
  else if i = 8 ∨ i = 24 ∨ i = 15 ∨ i = 31 then 0x11
  else if i = 17 ∧ tileOf id = 1 then 0x15
  else if 18 ≤ i ∧ i ≤ 20 then 0x12
  else if i = 21 then 0x13 else if i = 22 then 0x14 else 0x01

/-- UNIT of a stop (R25). -/
def stopUnit (id : Nat) : Nat :=
  let i := stopIdx id
  match ordOf (tileOf id) with
  | some o => if i < 32 then 32 * o + i else if i = 33 then 2 * o else if i = 38 then 2 * o + 1 else o
  | none =>
    let m := if tileOf id = 1 then 0 else 1
    match stopType id with
    | 0x10 => 12 * m + (if i ≤ 6 then i - 1 else i - 27)
    | 0x11 => 4 * m + (match i with | 8 => 0 | 24 => 1 | 15 => 2 | _ => 3)
    | 0x12 => 3 * m + (i - 18)
    | 0x13 => m
    | 0x14 => m
    | _ => 0

/-! ### Harts -/

def State.hart (s : State) : HartId → Hart
  | .t n => tabGet Hart.resetT s.tcores n.val
  | .s n => tabGet Hart.resetS s.scores n.val

def State.setHart (s : State) (h : HartId) (v : Hart) : State :=
  match h with
  | .t n => { s with tcores := tabSet Hart.resetT s.tcores n.val v }
  | .s n => { s with scores := tabSet Hart.resetS s.scores n.val v }

def State.updHart (s : State) (h : HartId) (f : Hart → Hart) : State := s.setHart h (f (s.hart h))

/-- Integer register read: x0 reads as zero. -/
def Hart.getX (c : Hart) (r : Nat) : Word := if r = 0 then 0 else tabGet 0 c.x r
/-- Integer register write: a write to x0 is discarded. -/
def Hart.setX (c : Hart) (r : Nat) (v : Word) : Hart := if r = 0 then c else { c with x := tabSet 0 c.x r v }
def Hart.getF (c : Hart) (r : Nat) : Word := tabGet 0 c.f r
def Hart.setF (c : Hart) (r : Nat) (v : Word) : Hart := { c with f := tabSet 0 c.f r v }
def Hart.getV (c : Hart) (r : Nat) : BitVec 256 := tabGet 0 c.v r
def Hart.setV (c : Hart) (r : Nat) (v : BitVec 256) : Hart := { c with v := tabSet 0 c.v r v }
/-- The stored value of a CSR that holds its own bits. -/
def Hart.csrRaw (c : Hart) (n : Nat) : Word := tabGet 0 c.csr n
/-- Stores the bits of a CSR. -/
def Hart.csrPut (c : Hart) (n : Nat) (v : Word) : Hart := { c with csr := tabSet 0 c.csr n v }
/-- A bit of a CSR. -/
def Hart.csrBit (c : Hart) (n i : Nat) : Bool := (tabGet 0 c.csr n).toNat.testBit i

/-! ### Free values -/

/-- A free word, and the state in which it has been used up (log entry 1). -/
def State.takeWord (s : State) : Word × State := (Config.freeWord s.free, { s with free := s.free + 1 })
def State.takeLine (s : State) : Line × State := (Config.freeLine s.free, { s with free := s.free + 1 })
def State.takeNat (s : State) : Nat × State := (Config.freeNat s.free, { s with free := s.free + 1 })

/-! ### Byte memories -/

/-- The byte at an address; an unlisted address reads as 0 (log entry 2). -/
def memByte (m : List Host.Cell) (a : Nat) : Byte := tabGet (0 : Byte) m a
def memSetByte (m : List Host.Cell) (a : Nat) (b : Byte) : List Host.Cell := tabSet (0 : Byte) m a b
/-- The little-endian number in `n` bytes at `a`. -/
def memRead (m : List Host.Cell) (a n : Nat) : Nat := leNat ((List.range n).map fun i => memByte m (a + i))
/-- Writes a list of bytes at rising addresses from `a`. -/
def memPut (m : List Host.Cell) (a : Nat) : List Byte → List Host.Cell
  | [] => m
  | b :: t => memPut (memSetByte m a b) (a + 1) t
/-- Writes the low `n` bytes of `v` at `a`. -/
def memWrite (m : List Host.Cell) (a n v : Nat) : List Host.Cell := memPut m a (leBytes n v)
/-- The 64 bytes of the line at byte address `a`. -/
def memLine (m : List Host.Cell) (a : Nat) : Line := BitVec.ofNat 512 (memRead m a 64)
/-- Writes the bytes of a line that `mask` names, from byte `i` on. -/
def memPutMasked (m : List Host.Cell) (a : Nat) (mask : LineMask) (v : Line) : Nat → Nat → List Host.Cell
  | _, 0 => m
  | i, n + 1 =>
    memPutMasked (if mask.getLsbD i then memSetByte m (a + i) (byteAt v i) else m) a mask v (i + 1) n
def memLinePut (m : List Host.Cell) (a : Nat) (mask : LineMask) (v : Line) : List Host.Cell := memPutMasked m a mask v 0 64

/-- A canonical byte memory: strictly rising addresses, no entry equal to the unlisted value. -/
def memWf (m : List Host.Cell) : Bool := tabWf (0 : Byte) m

/-- `old` with the bytes that `mask` names taken from `new`. -/
def mergeLine (old new : Line) (mask : LineMask) : Line :=
  BitVec.ofNat 512 (leNat ((List.range 64).map fun i => if mask.getLsbD i then byteAt new i else byteAt old i))
/-- The mask of `n` bytes from byte `o` of a line. -/
def maskOf (o n : Nat) : LineMask := BitVec.ofNat 64 (((2 ^ n - 1) <<< o) % 2 ^ 64)
/-- `n` bytes at offset `o` of a line as a number. -/
def lineBytes (l : Line) (o n : Nat) : Nat := (l.toNat >>> (8 * o)) % 2 ^ (8 * n)
/-- A value laid at offset `o` of a line. -/
def atOffset (o v : Nat) : Line := BitVec.ofNat 512 (v <<< (8 * o))
/-- Line number of a local address. -/
abbrev lineOf (la : Nat) : Nat := la / 64

/-! ### Bytes of an access size -/

def accBytes : AccSize → Nat | .b1 => 1 | .b2 => 2 | .b4 => 4 | .b8 => 8

/-! ### Messages (R198 to R204) -/

/-- Virtual channel of an opcode in the ordinary classes (R201, R203). -/
def vcOf : MsgOp → Fin 8
  | .returnDirty | .returnClean => 1
  | .probeShare | .probeTake | .probeKill | .probeClean => 2
  | .dataGrant | .grant | .probeAck | .probeData | .grantAck | .writeDone | .readReturn | .dropped | .errorReply | .returnAck => 3
  | .memRead | .memWrite | .memWriteMasked => 4
  | .event => 5
  | _ => 0

/-- A flit with no payload in the ordinary class of its opcode. -/
def mkFlit (op : MsgOp) (src dst : Node) (la : Nat) : Flit :=
  { op := op, src := src, dst := dst, addr := BitVec.ofNat 47 la, tag := 0, mask := 0, data := none, poison := false, token := false,
    sts := 0, vc := vcOf op, rid := 0, rpkg := 0, gst := .i, who := 0, fn := .swap, size := 0, fwd := false, ewa := false, tmo := 0 }

/-- Code of an opcode (R201). -/
def msgCode : MsgOp → Nat
  | .lineRead => 0x01 | .lineOwn => 0x02 | .linePromote => 0x03 | .lineClaim => 0x04 | .maskFill => 0x05 | .cleanKeep => 0x06 | .cleanDrop => 0x07
  | .discardLine => 0x08 | .prefetchRead => 0x09 | .prefetchOwn => 0x0A
  | .readNc => 0x10 | .writeNc => 0x11 | .atomicNc => 0x12
  | .returnDirty => 0x20 | .returnClean => 0x21
  | .probeShare => 0x30 | .probeTake => 0x31 | .probeKill => 0x32 | .probeClean => 0x33
  | .dataGrant => 0x40 | .grant => 0x41 | .probeAck => 0x42 | .probeData => 0x43 | .grantAck => 0x44 | .writeDone => 0x45 | .readReturn => 0x46
  | .dropped => 0x47 | .errorReply => 0x48 | .returnAck => 0x49
  | .memRead => 0x50 | .memWrite => 0x51 | .memWriteMasked => 0x52
  | .event => 0x60
  | .unused => 0

/-- AMO function and size of an atomic request, in the places that the model gives them: funct5 in [7:3], log2 of the bytes in [2:0] (R199; log entry 159). -/
def amoSts (fn : AmoFn) (bytes : Nat) : Nat :=
  8 * (match fn with | .add => 0 | .swap => 1 | .xor => 4 | .cas => 5 | .or => 8 | .and => 12 | .min => 16 | .max => 20 | .minu => 24 | .maxu => 28) + Nat.log2 bytes

/-- STS of a flit (R199). -/
def flitSts (f : Flit) : Nat := if f.op = .atomicNc then amoSts f.fn f.size else f.sts.toNat

/-- Bits [182:0] of a flit's header (R199). -/
def flitBody (f : Flit) : BitVec 183 :=
  BitVec.ofNat 183 (f.vc.val + 2 ^ 3 * f.dst.x.val + 2 ^ 8 * f.dst.y.val + 2 ^ 12 * f.src.x.val + 2 ^ 17 * f.src.y.val + 2 ^ 21 * f.src.sub.val +
    2 ^ 24 * f.dst.sub.val + 2 ^ 27 * f.tag.toNat + 2 ^ 37 * msgCode f.op + 2 ^ 45 * f.addr.toNat + 2 ^ 92 * f.rpkg.val + 2 ^ 101 * f.mask.toNat +
    2 ^ 165 * b2n f.data.isSome + 2 ^ 166 * b2n f.poison + 2 ^ 167 * b2n f.token + 2 ^ 168 * flitSts f + 2 ^ 176 * f.rid.val)
/-- The 192-bit header: CHK, a SECDED code that the spec does not give, over the rest (R198, R199). -/
def flitHeader (f : Flit) : BitVec 192 := BitVec.ofNat 192 ((flitBody f).toNat + 2 ^ 183 * (Config.flitCheck (flitBody f)).toNat)

/-- Hands a flit to the L input of its source stop (R195). -/
def State.send (s : State) (f : Flit) : State :=
  let k := nodeStop f.src
  { s with mesh := { s.mesh with
      inject := tabSet [] s.mesh.inject k (tabGet [] s.mesh.inject k ++ [(s.mesh.stamp, f)]), stamp := s.mesh.stamp + 1 } }
def State.sendAll (s : State) : List Flit → State
  | [] => s
  | f :: t => (s.send f).sendAll t

/-- Removes a delivered flit from the flits that wait at their agents, if it is there (log entry 5). -/
def State.accept (s : State) (f : Flit) : State := { s with mesh := { s.mesh with arrived := s.mesh.arrived.erase f } }

/-- Whether a flit is the oldest of its source, destination and VC that its destination has not yet taken, so that it is the next one there (R146, R210). A flit that
the mesh does not carry, such as one of Rennet's firmware, comes in turn when no such flit is on its way (log entry 5); those of Rennet have its 16 tags (R147). -/
def State.flitTurn (s : State) (f : Flit) : Bool :=
  let same (g : Flit) : Bool := g.src == f.src && g.dst == f.dst && g.vc == f.vc
  match s.mesh.arrived.find? same with
  | some g => g == f
  | none =>
    !(s.mesh.inject.any fun (_, l) => l.any fun (_, g) => same g) && !(s.mesh.bufs.any fun (_, l) => l.any fun (_, g) => same g) &&
      (f.src != mgmtNode || f.vc != 0 || decide (f.tag.toNat < 16))
/-- The destination takes a flit that is in turn there. -/
def State.onFlit (s : State) (f : Flit) (g : State → State) : State := if s.flitTurn f then g s else s

/-- The class in which the answer to a request travels: GR under the pairing table's RID for the final response to
a request under a reservation (R204, R219), and otherwise RSP. -/
def answerClass (s : State) (req : Flit) (f : Flit) : Flit :=
  if req.vc = 5 then
    match tabGet 0 s.mesh.pair (128 * nodeStop f.src + req.rid.val) with
    | 0 => f
    | r + 1 => { f with vc := 6, rid := Fin.ofNat 128 r }
  else f

/-- Flits that travel between a home slice and third agents for a guaranteed transaction are expedited, and so are the answers to them (R204). -/
def thirdClass (req f : Flit) : Flit := if req.vc = 5 ∨ req.vc = 7 then { f with vc := 7 } else f

/-- The reservation under which a request of agent `sub` at stop `src`, for instance `owner` (none: the host), travels to
stop `dst`: a PATH binding before a FAN binding, and none without a binding (R219). -/
def bindingOf (s : State) (src sub : Nat) (owner : Option Nat) (dst : Nat) : Option Nat :=
  let ok (r : Option Reservation) (form : WheelForm) : Bool := match r with
    | some v => v.form == form && v.vc == 5 && v.src == src && v.agent == sub && v.owner == owner && v.inject &&
        (form != .path || v.dst == dst)
    | none => false
  match s.mesh.resv.find? fun (_, r) => ok r .path with
  | some (k, _) => some k
  | none => (s.mesh.resv.find? fun (_, r) => ok r .fan).map Prod.fst

/-- A request in the guaranteed class when its injector has a binding, and in its ordinary class otherwise. -/
def guaranteed (s : State) (sub : Nat) (owner : Option Nat) (f : Flit) : Flit :=
  match bindingOf s (nodeStop f.src) sub owner (nodeStop f.dst) with
  | some r => { f with vc := 5, rid := Fin.ofNat 128 r }
  | none => f

/-- The final response to a request. -/
def reply (s : State) (req : Flit) (op : MsgOp) (sts : Nat) : Flit :=
  answerClass s req { mkFlit op req.dst req.src req.addr.toNat with tag := req.tag, sts := BitVec.ofNat 8 sts, rpkg := req.rpkg, size := req.size }

/-! ### PMA table (R28, R29) -/

/-- The lowest-numbered valid entry that matches local address `la` (R28). -/
def pmaFind (t : Tab PmaEntry) (la : Nat) (isLocal : Bool) : Option PmaEntry :=
  (t.find? fun (_, e) => e.valid && decide (e.base.toNat ≤ la / 4096) && decide (la / 4096 ≤ e.limit.toNat) && (isLocal || e.remote)).map
    Prod.snd

/-- The package field of a physical address and its local address (R21). -/
def paPkg (pa : Nat) : Nat := pa / 2 ^ 47 % 512
def paLa (pa : Nat) : Nat := pa % 2 ^ 47
/-! ### The channels -/

def State.chan (s : State) (ch : Nat) : Chan := tabGet .reset s.dram.chans ch
def State.setChan (s : State) (ch : Nat) (c : Chan) : State := { s with dram := { s.dram with chans := tabSet .reset s.dram.chans ch c } }
def State.updChan (s : State) (ch : Nat) (f : Chan → Chan) : State := s.setChan ch (f (s.chan ch))

/-- Whether an access is local (R22). -/
def State.isLocal (s : State) (pa : Nat) : Bool := paPkg pa = s.pma.pkgId.toNat

/-- The ranges of R24. -/
inductive Area where
  | bootRom | sram | device | dram | pcie | none
  deriving DecidableEq, Repr

def areaOf (s : State) (la : Nat) : Area :=
  if la < 0x2_0000 then .bootRom
  else if 0x400_0000 ≤ la ∧ la < 0x404_0000 then .sram
  else if 0x1000_0000 ≤ la ∧ la < 0x8000_0000 then .device
  else if 0x8000_0000 ≤ la ∧ la < s.pma.dramTop.toNat ∧ la < 0x40_0000_0000 then .dram
  else if 0x40_0000_0000 ≤ la ∧ la < 0x4000_0000_0000 then .pcie
  else .none

/-- Whether a local access of R27 is refused at the requester. -/
def rangeFault (s : State) (la : Nat) (write : Bool) : Bool :=
  match areaOf s la with
  | .none => true
  | .bootRom => write
  | _ => false

/-- The PCIe controller of a window address, or none above the last window (R524). -/
def pcieOf (la : Nat) : Option (Fin 6) :=
  let k := (la - 0x40_0000_0000) / 0x800_0000_0000
  if h : k < 6 then some ⟨k, h⟩ else none

/-! ### Home slices (R170, R171) -/

/-- Bit `i` of a local address. -/
abbrev ab (la i : Nat) : Bool := la.testBit i

/-- Home slice of a local address (R170). -/
def homeSlice (la : Nat) : Nat :=
  let bit (i : Nat) : Bool :=
    (ab la (6 + i)) ^^ (ab la (12 + i)) ^^ (ab la (18 + i)) ^^ (ab la (24 + i)) ^^ (ab la (30 + i)) ^^ (ab la (36 + i)) ^^ (ab la (42 + i))
  let s5 := b2n (bit 0) + 2 * b2n (bit 1) + 4 * b2n (bit 2) + 8 * b2n (bit 3) + 16 * b2n (bit 4)
  let s6 := s5 + 32 * b2n ((ab la 11) ^^ (ab la 17) ^^ (ab la 23) ^^ (ab la 29) ^^ (ab la 35) ^^ (ab la 41))
  let e := ((List.range 41).filter fun i => (i + 6) % 2 = 0 && ab la (i + 6)).length
  let o := ((List.range 41).filter fun i => (i + 6) % 2 = 1 && ab la (i + 6)).length
  64 * ((e + 2 * o) % 3) + s6

/-- Set of a line within its home slice (R171). -/
def homeSet (la : Nat) : Nat := (la / 64 % 2048) ^^^ (la / 2 ^ 17 % 2048)

/-! ### Channel map (R229, R231) -/

/-- Nibble `i` of a number. -/
def nib (v i : Nat) : Nat := v / 16 ^ i % 16
/-- chfold of R229 for CHXOR value `m`. -/
def chfold (m cc : Nat) : Nat :=
  match m with
  | 0 => 0
  | 1 => nib cc 0 ^^^ nib cc 1
  | 2 => nib cc 0 ^^^ nib cc 1 ^^^ nib cc 2 ^^^ nib cc 3
  | _ => nib cc 0 ^^^ nib cc 1 ^^^ nib cc 2 ^^^ nib cc 3 ^^^ nib cc 4 ^^^ nib cc 5
/-- bkfold of R229 for BKXOR value `m`. -/
def bkfold (m row : Nat) : Nat :=
  match m with
  | 0 => 0
  | 1 => nib row 0
  | _ => nib row 0 ^^^ nib row 1

/-- Where a line lies in DRAM. -/
structure DramPos where
  chan : Nat
  bank : Nat
  row : Nat
  line : Nat
  deriving DecidableEq, Repr

/-- R229 with MC_MAP's CHXOR and BKXOR. -/
def dramPos (map : BitVec 32) (la : Nat) : DramPos :=
  let d := la - 0x8000_0000
  let k := d / 256
  let r := k % 48
  let cc := k / 48
  let pg := cc / 7
  let row := pg / 16
  { chan := 16 * (r / 16) + ((r % 16) ^^^ chfold (fld map 1 0) cc), bank := (pg % 16) ^^^ bkfold (fld map 5 4) row, row := row,
    line := 4 * (cc % 7) + d / 64 % 4 }

/-- R231: the local address of a data line. -/
def dramAddr (map : BitVec 32) (p : DramPos) : Nat :=
  let pg := 16 * p.row + (p.bank ^^^ bkfold (fld map 5 4) p.row)
  let cc := 7 * pg + p.line / 4
  let r := 16 * (p.chan / 16) + ((p.chan % 16) ^^^ chfold (fld map 1 0) cc)
  0x8000_0000 + 256 * (48 * cc + r) + 64 * (p.line % 4)

/-- Memory channel of a local address. -/
def State.chanOf (s : State) (la : Nat) : Nat := (dramPos s.dram.map la).chan

/-! ### Wired sources (R381, R382) -/

def State.source (s : State) (n : Nat) : Source := tabGet Source.reset s.irq.src n
def State.setSource (s : State) (n : Nat) (v : Source) : State := { s with irq := { s.irq with src := tabSet Source.reset s.irq.src n v } }

/-- A wired input takes the level `lv`: an edge in the source's mode sets its pending bit; in a level mode a rise of
the rectified input sets it and a low rectified input clears it (R382, AIA MSI delivery). -/
def State.wire (s : State) (n : Nat) (lv : Bool) : State :=
  let c := s.source n
  let up := lv && !c.level
  let down := c.level && !lv
  let ip := match c.mode with
    | .edge1 => c.ip || up
    | .edge0 => c.ip || down
    | .level1 => if lv then c.ip || up else false
    | .level0 => if lv then false else c.ip || down
    | _ => c.ip
  s.setSource n { c with level := lv, ip := ip }

/-- A pulse on a wired input. -/
def State.wirePulse (s : State) (n : Nat) : State := (s.wire n true).wire n false

/-! ### Ports and routes (R195, R205) -/

def portIdx : Port → Nat | .l => 0 | .e => 1 | .w => 2 | .s => 3 | .n => 4
def portOfIdx (i : Nat) : Port := match i with | 0 => .l | 1 => .e | 2 => .w | 3 => .s | _ => .n

/-- Output port at stop `id` toward stop `d`: X first, then Y (R205). -/
def routePort (id d : Nat) : Port :=
  if id % 32 < d % 32 then .e else if d % 32 < id % 32 then .w
  else if id / 32 < d / 32 then .s else if d / 32 < id / 32 then .n else .l

/-- The stop beyond an output port, or none where the port leads off the package (R195). -/
def neighbour (id : Nat) : Port → Option Nat
  | .l => none
  | .e => if id % 32 < 31 then some (id + 1) else none
  | .w => if 0 < id % 32 then some (id - 1) else none
  | .s => if id / 32 < 9 then some (id + 32) else none
  | .n => if 0 < id / 32 then some (id - 32) else none

/-- The input port at the far side of an output port. -/
def oppPort : Port → Port | .l => .l | .e => .w | .w => .e | .s => .n | .n => .s

/-- Whether the link out of a port is a bridge: it crosses a tile edge (R208). -/
def isBridge (id : Nat) (p : Port) : Bool := match neighbour id p with | some d => tileOf id != tileOf d | none => false

/-- Output ports of the X-then-Y tree at a stop, for a flit that has come in by `inp` (R215, R388). -/
def treeOuts (id : Nat) (inp : Port) : List Port :=
  (match inp with | .l => [Port.e, .w, .s, .n] | .w => [.e, .s, .n] | .e => [.w, .s, .n] | .n => [.s] | .s => [.n]).filter fun p => (neighbour id p).isSome

/-! ### Event pulses (R388) -/

/-- The stop of an event source (R389); that of a counter overflow is its bank's. -/
def evStop (n : Nat) : Nat :=
  if n < 128 then engineStop (n / 32 % 2)
  else if n < 144 ∨ n = 177 then mgmtStop
  else if n < 160 then aplicStop
  else if n < 168 then stopId 0 35
  else stopId 0 36

/-- The Event flit of a line that a stop sends on through one output: guaranteed class, under reservation 0 (R201, R220). The next stop of the tree is its
destination, where it is copied for each output there. -/
def eventFlit (src next line : Nat) : Flit := mkFlit .event (mkNode src 0) (mkNode next 0) line

/-- A pulse leaves a stop: its sinks take it, and Event flits go out over the tree (R220, R388). -/
def State.pulseFrom (s : State) (stop line : Nat) : State :=
  ({ s with irq := { s.irq with events := s.irq.events ++ [(stop, line)] } }).sendAll
    ((treeOuts stop .l).filterMap fun p => (neighbour stop p).map fun d => eventFlit stop d line)

/-- Event source `n` fires at a stop: with EN = 1 its LINE takes a pulse (R388, R395). -/
def State.pulseAtStop (s : State) (n stop : Nat) : State :=
  let r := tabGet 0 s.irq.evsrc n
  if r.getLsbD 31 then s.pulseFrom stop (fld r 7 0) else s
def State.pulse (s : State) (n : Nat) : State := s.pulseAtStop n (evStop n)

/-! ### Error records (R494 to R499) -/

/-- What an agent reports. -/
structure ErrInfo where
  cause : Nat
  cls : Nat
  stop : Nat                 -- detecting stop
  sub : Nat
  ras : Bool
  pa : Option Nat
  req : Option (Nat × Node × Nat)   -- package, node, tag
  detail : Nat
  count : Nat
  deriving DecidableEq, Repr

def State.errBank (s : State) (t : Nat) : ErrBank := tabGet ErrBank.reset s.err.banks t
def State.setErrBank (s : State) (t : Nat) (b : ErrBank) : State :=
  { s with err := { s.err with banks := tabSet ErrBank.reset s.err.banks t b } }

/-- Level of source 335 + t (R494). -/
def ErrBank.rasLevel (b : ErrBank) : Bool := b.recs.any fun (_, r) => r.v && r.ras
/-- Level of source 343 + t (R497). -/
def ErrBank.ceLevel (b : ErrBank) : Bool := (b.thresh != 0 && decide (b.thresh ≤ b.ceCount)) || b.wrap

/-- Drives the RAS and threshold inputs of tile `t` from its bank. -/
def State.driveErr (s : State) (t : Nat) : State :=
  ((s.wire (335 + t) (s.errBank t).rasLevel)).wire (343 + t) (s.errBank t).ceLevel

/-- The record of an event. -/
def ErrInfo.toRec (e : ErrInfo) (time order : Nat) : ErrRec :=
  { v := true, addrv := e.pa.isSome, reqv := e.req.isSome, cls := e.cls, typ := stopType e.stop, unit := stopUnit e.stop, sub := e.sub,
    cause := e.cause, count := min e.count 65535, pa := e.pa.getD 0,
    pkg := (e.req.map Prod.fst).getD 0,
    sx := (e.req.map fun r => r.2.1.x.val).getD 0, sy := (e.req.map fun r => r.2.1.y.val).getD 0,
    ssub := (e.req.map fun r => r.2.1.sub.val).getD 0, tag := (e.req.map fun r => r.2.2).getD 0,
    detail := BitVec.ofNat 64 e.detail, time := time, ras := e.ras, order := order }

/-- Whether two events are identical in the sense of R496. -/
def ErrRec.same (a b : ErrRec) : Bool :=
  a.cause == b.cause && a.cls == b.cls && a.typ == b.typ && a.unit == b.unit && a.sub == b.sub && a.detail == b.detail &&
  a.reqv == b.reqv && a.pkg == b.pkg && a.sx == b.sx && a.sy == b.sy && a.ssub == b.ssub

/-- The first number below 64 at which `p` holds. -/
def firstRec (p : Nat → Bool) : Option Nat := (List.range 64).find? p

/-- The oldest valid record that satisfies `p`. -/
def oldestRec (b : ErrBank) (p : ErrRec → Bool) : Option Nat :=
  let c := b.recs.filter fun (_, r) => r.v && p r
  (c.find? fun (_, r) => c.all fun (_, q) => decide (r.order ≤ q.order)).map Prod.fst

/-- Puts a record into a bank: merge, free slot, replacement or drop (R496). -/
def ErrBank.put (b : ErrBank) (r : ErrRec) (time : Nat) : ErrBank :=
  match b.recs.find? fun (_, q) => q.v && q.same r && decide (time ≤ q.time + 1000) with
  | some (k, q) => { b with recs := tabSet .empty b.recs k { q with count := min (q.count + r.count) 65535 } }
  | none =>
    match firstRec fun k => !(tabGet ErrRec.empty b.recs k).v with
    | some k => { b with recs := tabSet .empty b.recs k r }
    | none =>
      if r.cls = 0 then { b with lost := b.lost + 1 } else
      match oldestRec b fun q => q.cls == 0 with
      | some k => { b with recs := tabSet .empty b.recs k r, lost := b.lost + 1 }
      | none =>
        match oldestRec b fun q => decide (q.cls < r.cls) with
        | some k => { b with recs := tabSet .empty b.recs k r, lost := b.lost + 1 }
        | none => { b with lost := b.lost + 1 }

/-- Counts `n` CORRECTED events in ES_CECNT (R494, R497). -/
def ErrBank.countCe (b : ErrBank) (n : Nat) : ErrBank :=
  { b with ceCount := b.ceCount + BitVec.ofNat 32 n, wrap := b.wrap || decide (2 ^ 32 ≤ b.ceCount.toNat + n) }

/-- Reports an event: the record of R496 in the bank of the detecting stop's tile, and the RAS input (R494). -/
def State.logErr (s : State) (e : ErrInfo) : State :=
  let t := tileOf e.stop
  let b := s.errBank t
  let b := if e.cls = 0 then b.countCe e.count else b
  let s := s.setErrBank t (b.put (e.toRec s.time s.err.orders) s.time)
  ({ s with err := { s.err with orders := s.err.orders + 1 } }).driveErr t

/-- Counts a CORRECTED event that R499 does not record. -/
def State.logCe (s : State) (stop : Nat) : State :=
  let t := tileOf stop
  (s.setErrBank t ((s.errBank t).countCe 1)).driveErr t

/-- An event with no address, no requester and no detail. -/
def mkErr (cause cls stop : Nat) (ras : Bool) : ErrInfo :=
  { cause := cause, cls := cls, stop := stop, sub := 0, ras := ras, pa := none, req := none, detail := 0, count := 1 }

/-! ### Rennet notices (R440) -/

/-- Appends a notice, or drops and counts it when 64 are held; source 351 pulses (R440). None is posted while Rennet does not serve (R446). -/
def State.notice (s : State) (code : Nat) (detail : Nat) : State :=
  if !s.ren.up then s else
  let s := if s.ren.notices.length < 64
    then { s with ren := { s.ren with notices := s.ren.notices ++ [{ code := code, detail := BitVec.ofNat 32 detail, time := s.time }] } }
    else { s with ren := { s.ren with lostn := s.ren.lostn + 1 } }
  s.wirePulse 351

/-! ### Time (R196, R386) -/

/-- Time passes to `t` ns, with the mesh cycles it holds at the mesh frequency; an earlier moment changes nothing. A row for an event that is due at a
known time stands for the package reaching that time (log entry 13). -/
def State.passTo (s : State) (t : Nat) : State :=
  if t ≤ s.time then s
  else { s with time := t, mesh := { s.mesh with
      cycle := s.mesh.cycle + (t * s.pow.meshMhz / 1000 - s.time * s.pow.meshMhz / 1000 - s.mesh.ahead), ahead := 0 } }
/-- The package reaches the next mesh cycle. -/
def State.nextCycle (s : State) : State :=
  if s.mesh.ahead + 1 < (s.time + 1) * s.pow.meshMhz / 1000 - s.time * s.pow.meshMhz / 1000
  then { s with mesh := { s.mesh with cycle := s.mesh.cycle + 1, ahead := s.mesh.ahead + 1 } }
  else s.passTo (s.time + 1000 / s.pow.meshMhz + 1)
/-- The first multiple of `p` that has not passed. -/
def nextMultiple (p t : Nat) : Nat := if t % p = 0 then t else (t / p + 1) * p

/-! ### Outcome -/

/-- The outcome of a command. -/
abbrev Res := Host.Outcome State Fault Refusal

/-- `f s` when `p` holds, and otherwise no change: an event whose condition does not hold has no effect (log entry 3). -/
def State.guard (s : State) (p : Bool) (f : State → State) : State := if p then f s else s

end Sys2Proof.Machine
end

