-- ==== Sys2Proof/Machine/Regs.lean ====
section
/-!
DEFINITION. The map of the device registers: which register a local address of the device range names, its width, and who may write it
(R10, R24 to R26, R31, R186, R259, R287, R325, R334, R342, R369, R378, R380, R387, R393, R406, R415, R424, R453, R495, R514).
-/
namespace Sys2Proof.Machine

/-- A device register. `off` is an offset in the unit's own layout. -/
inductive DevReg where
  | none
  | stopId (id : Nat)
  | pfctl (h : Nat)
  | ltol (h : HartId)
  | hrst (h : HartId)
  | pkgId | dramTop | pmaCtl | pmaBase | pmaLimit | pmaAttr
  | entBase (n : Nat) | entLimit (n : Nat) | entAttr (n : Nat)
  | mcMap
  | chStatus (ch : Nat) | injCtl (ch : Nat) | injLine (ch : Nat)
  | glStatus (l : Nat) | glInj (l : Nat)
  | dePool (e : Nat)
  | chan (c off : Nat)
  | inst (i off : Nat)
  | mtime
  | mtimecmp (h : HartId)
  | evsw | evtick (j : Nat) | evsrc (n : Nat) | evsnk (m : Nat)
  | bank (stop b off : Nat)
  | ladle (off : Nat)
  | iommu (e off : Nat)
  | esStatus (t : Nat) | esCecnt (t : Nat) | esCtl (t : Nat) | esRec (t k off : Nat)
  | aplic (sdom : Bool) (off : Nat)
  | seteipnum (h : HartId) (f : ImFileKind)
  | mbox (n off : Nat)
  deriving DecidableEq, Repr

/-- Banks of a stop (R405). -/
def banksOf (id : Nat) : Nat :=
  match stopType id with
  | 0x10 => 3
  | 0x02 | 0x03 | 0x11 | 0x12 | 0x13 | 0x14 => 2
  | _ => 1

/-- Banks that measure bandwidth: channel and link banks (R414). -/
def bwBank (id b : Nat) : Bool := b != 0 && (stopType id == 0x10 || stopType id == 0x11)

/-- A register of a bank with its width (R406). -/
def bankReg (id b o : Nat) : Option Nat :=
  if o = 0 ∨ o = 8 ∨ o = 0xC then some 4
  else if o = 0x10 ∨ o = 0x18 then some 8
  else if 0x20 ≤ o ∧ o < 0x30 then some 4
  else if 0x40 ≤ o ∧ o < 0x70 ∧ o % 8 = 0 then some 8
  else if o = 0x70 then some 4
  else if bwBank id b then (if o = 0x80 then some 4 else if o = 0x88 ∨ o = 0x90 then some 8 else none)
  else none

/-- Width of a register of a channel's register set (R344). -/
def chanWidth (o : Nat) : Option Nat :=
  if [0x00, 0x04, 0x20, 0x24, 0x28, 0x2C, 0x38, 0x40, 0x60, 0x64, 0x68, 0x6C].contains o then some 4
  else if [0x08, 0x10, 0x18, 0x30, 0x48, 0x50, 0x58, 0x70].contains o then some 8 else none

/-- Width of a register of an instance page (R369). -/
def instWidth (o : Nat) : Option Nat :=
  if o = 0x00 ∨ o = 0x18 ∨ o = 0x20 then some 8
  else if o = 0x08 ∨ o = 0x10 ∨ o = 0x28 then some 4
  else if 0x80 ≤ o then chanWidth (o % 0x80) else none

/-- Width of an IOMMU register (R287, the layout of the RISC-V IOMMU specification; log entry 10). -/
def iommuWidth (o : Nat) : Option Nat :=
  if [0x00, 0x10, 0x18, 0x28, 0x38, 0x60, 0x258, 0x260, 0x2F8].contains o then some 8
  else if [0x08, 0x20, 0x24, 0x30, 0x34, 0x40, 0x44, 0x48, 0x4C, 0x50, 0x54, 0x58, 0x5C].contains o then some 4
  else if 0x68 ≤ o ∧ o < 0x258 then some 8
  else if 0x300 ≤ o ∧ o < 0x400 then some 8 else none

/-- The register at offset `o` (aligned to 4) of stop `id`'s page, its width, and its own offset. -/
def pageReg (id o : Nat) : DevReg × Nat × Nat :=
  let t := tileOf id
  let i := stopIdx id
  let w (r : DevReg) (n base : Nat) : DevReg × Nat × Nat := (r, n, base)
  let no : DevReg × Nat × Nat := (.none, 4, o)
  let q := o / 8 * 8
  if o = 0 then w (.stopId id) 4 0
  else if 0x400 ≤ o ∧ o < 0x400 + 0x100 * banksOf id then
    let b := (o - 0x400) / 0x100
    let r := o % 0x100
    (match bankReg id b r with
    | some n => w (.bank id b r) n o
    | none => match bankReg id b (r / 8 * 8) with | some 8 => w (.bank id b (r / 8 * 8)) 8 q | _ => no)
  else match stopType id with
  | 0x02 =>
    let h := stopUnit id
    if o = 0x200 then w (.pfctl h) 4 o
    else if o = 0x300 then w (.ltol (.t (Fin.ofNat 192 h))) 4 o
    else if q = 0x340 then w (.hrst (.t (Fin.ofNat 192 h))) 8 q else no
  | 0x03 =>
    let k := stopUnit id
    if 0x300 ≤ o ∧ o < 0x320 ∧ o % 8 = 0 then w (.ltol (.s (Fin.ofNat 48 (4 * k + (o - 0x300) / 8)))) 4 o
    else if 0x340 ≤ o ∧ o < 0x360 then w (.hrst (.s (Fin.ofNat 48 (4 * k + (o - 0x340) / 8)))) 8 q else no
  | 0x04 =>
    if t ≠ 0 then no
    else if o = 0x100 then w .evsw 4 o
    else if 0x200 ≤ o ∧ o < 0x240 then w (.evtick ((o - 0x200) / 8)) 8 q
    else if 0x1000 ≤ o ∧ o < 0x1000 + 4 * 178 then w (.evsrc ((o - 0x1000) / 4)) 4 o
    else if 0x2000 ≤ o ∧ o < 0x2000 + 4 * 145 then w (.evsnk ((o - 0x2000) / 4)) 4 o else no
  | 0x05 =>
    let oo := (ordOf t).getD 0
    if q = 0x100 then w .mtime 8 q
    else if 0x1000 ≤ o ∧ o < 0x1100 then w (.mtimecmp (.t (Fin.ofNat 192 (32 * oo + (o - 0x1000) / 8)))) 8 q
    else if 0x1100 ≤ o ∧ o < 0x1140 then w (.mtimecmp (.s (Fin.ofNat 48 (8 * oo + (o - 0x1100) / 8)))) 8 q else no
  | 0x06 =>
    if t ≠ 0 then no
    else if o = 0x1000 ∨ o = 0x1020 ∨ o = 0x1028 ∨ o = 0x1040 then w (.ladle o) 4 o
    else if 0x1008 ≤ o ∧ o < 0x1020 ∨ q = 0x1030 then w (.ladle q) 8 q else no
  | 0x08 =>
    if t ≠ 0 then no
    else if o = 0x1000 then w .pkgId 4 o
    else if q = 0x1008 then w .dramTop 8 q
    else if o = 0x1010 then w .pmaCtl 4 o
    else if q = 0x1020 then w .pmaBase 8 q
    else if q = 0x1028 then w .pmaLimit 8 q
    else if o = 0x1030 then w .pmaAttr 4 o
    else if 0x1100 ≤ o ∧ o < 0x1500 then
      let n := (o - 0x1100) / 0x20
      (match o % 0x20 / 8 with
      | 0 => w (.entBase n) 8 q
      | 1 => w (.entLimit n) 8 q
      | 2 => if o % 8 = 0 then w (.entAttr n) 4 o else no
      | _ => no)
    else no
  | 0x10 =>
    let p := stopUnit id
    if o = 0x100 then w .mcMap 4 o
    else if 0x200 ≤ o ∧ o < 0x300 then
      let ch := 2 * p + (o - 0x200) / 0x80
      let r := o % 0x80
      if r = 0 then w (.chStatus ch) 4 o else if r = 0x10 then w (.injCtl ch) 4 o
      else if r / 8 = 3 then w (.injLine ch) 8 q else no
    else no
  | 0x11 =>
    let l := stopUnit id
    if o = 0x100 then w (.glStatus l) 4 o else if o = 0x200 then w (.glInj l) 4 o else no
  | 0x13 =>
    let e := stopUnit id
    if q = 0x100 then w (.dePool e) 8 q
    else if 0x1000 ≤ o ∧ o < 0x2000 then
      let c := 32 * e + (o - 0x1000) / 0x80
      let r := o % 0x80
      (match chanWidth r with
      | some n => w (.chan c r) n o
      | none => match chanWidth (r / 8 * 8) with | some 8 => w (.chan c (r / 8 * 8)) 8 q | _ => no)
    else if 0x8000 ≤ o then
      let k := 32 * e + (o - 0x8000) / 0x400
      let r := o % 0x400
      (match instWidth r with
      | some n => w (.inst k r) n o
      | none => match instWidth (r / 8 * 8) with | some 8 => w (.inst k (r / 8 * 8)) 8 q | _ => w (.inst k r) 4 o)
    else no
  | _ =>
    if stopType id = 0x14 ∧ 0x1000 ≤ o ∧ o < 0x2000 then
      let e := stopUnit id
      let r := o - 0x1000
      (match iommuWidth r with
      | some n => w (.iommu e r) n o
      | none => match iommuWidth (r / 8 * 8) with | some 8 => w (.iommu e (r / 8 * 8)) 8 q | _ => no)
    else if stopType id = 0x14 ∨ i = 39 ∧ (ordOf t).isSome then
      if q = 0x3000 then w (.esStatus t) 8 q
      else if q = 0x3008 then w (.esCecnt t) 8 q
      else if o = 0x3010 then w (.esCtl t) 4 o
      else if 0x4000 ≤ o ∧ o < 0x5000 then w (.esRec t ((o - 0x4000) / 0x40) (o % 0x40 / 8 * 8)) 8 q
      else no
    else no

/-- The register that holds the 4 bytes at a device address: the register, its width in bytes, and its own address (R10, R24). -/
def locate (la : Nat) : DevReg × Nat × Nat :=
  let no : DevReg × Nat × Nat := (.none, 4, la)
  if 0x1000_0000 ≤ la ∧ la < 0x1800_0000 then
    let t := (la - 0x1000_0000) / 0x100_0000
    let o := la % 0x100_0000
    if o < 0x28_0000 then
      let (r, n, b) := pageReg (stopId t (o / 0x1_0000)) (o % 0x1_0000)
      (r, n, la / 0x1_0000 * 0x1_0000 + b)
    else no
  else if 0x2000_0000 ≤ la ∧ la < 0x2002_0000 then
    let n := (la - 0x2000_0000) / 0x1000
    let o := la % 0x1000
    if o < 8 ∨ 0x10 ≤ o ∧ o < 0x18 then (.mbox n (o / 8 * 8), 8, la / 8 * 8)
    else if o = 8 ∨ o = 0x18 ∨ 0x100 ≤ o then (.mbox n o, 4, la) else no
  else if 0x2400_0000 ≤ la ∧ la < 0x2400_4000 then (.aplic false (la % 0x4000), 4, la)
  else if 0x2400_4000 ≤ la ∧ la < 0x2400_8000 then (.aplic true (la % 0x4000), 4, la)
  else if 0x2800_0000 ≤ la ∧ la < 0x2C00_0000 then
    match hartOfNum ((la - 0x2800_0000) / 0x1000) with
    | some h => if la % 0x1000 = 0 then (.seteipnum h .mach, 4, la) else no
    | none => no
  else if 0x2C00_0000 ≤ la ∧ la < 0x2C60_0000 then
    match hartOfNum ((la - 0x2C00_0000) / 0x8000) with
    | some h =>
      let g := la % 0x8000 / 0x1000
      if la % 0x1000 = 0 then (.seteipnum h (if g = 0 then .sup else .guest (Fin.ofNat 8 g)), 4, la) else no
    | none => no
  else no

/-- Who may write a register: harts in M-mode alone under the rule of R31, harts of the local package alone (R287, R343), or anyone. -/
inductive Guard where
  | r31 | harts | open_
  deriving DecidableEq, Repr

def DevReg.guard : DevReg → Guard
  | .pfctl _ | .ltol _ | .hrst _ | .pkgId | .dramTop | .pmaCtl | .pmaBase | .pmaLimit | .pmaAttr | .entBase _ | .entLimit _ | .entAttr _
  | .injCtl _ | .injLine _ | .glInj _ | .mtimecmp _ | .evsw | .evtick _ | .evsrc _ | .evsnk _ | .bank .. | .ladle _
  | .esStatus _ | .esCecnt _ | .esCtl _ | .esRec .. => .r31
  | .iommu .. | .chan .. | .dePool _ => .harts
  | _ => .open_

/-- Whether a write of these bytes meets a register under the rule of R31. -/
def r31At (la size : Nat) : Bool :=
  (locate (la / 4 * 4)).1.guard == .r31 || (decide (4 < size) && (locate (la / 4 * 4 + 4)).1.guard == .r31)

/-- Whether the register is one of the PMA registers, whose refused writes have a record cause of their own (R499). -/
def DevReg.isPma : DevReg → Bool
  | .pkgId | .dramTop | .pmaCtl | .pmaBase | .pmaLimit | .pmaAttr | .entBase _ | .entLimit _ | .entAttr _ => true
  | _ => false

end Sys2Proof.Machine
end

