-- ==== Sys2Proof/Machine/Count.lean ====
section
/-!
DEFINITION. Counter banks: what an event adds to them (R405 to R411, R413, R414).
-/
namespace Sys2Proof.Machine

def bankKey (stop b : Nat) : Nat := stop * 3 + b
def State.bankOf (s : State) (stop b : Nat) : Bank := tabGet .reset s.perf.banks (bankKey stop b)
def State.setBank (s : State) (stop b : Nat) (v : Bank) : State :=
  { s with perf := { s.perf with banks := tabSet .reset s.perf.banks (bankKey stop b) v } }
def Bank.sel (v : Bank) (k : Nat) : BitVec 32 := tabGet 0 v.evsel k
def Bank.count (v : Bank) (k : Nat) : BitVec 48 := tabGet 0 v.cnt k

/-- What a bank's filters compare of a counted flit or packet: source, address, virtual channel (R409). -/
structure Counted where
  src : Node
  addr : Nat
  vc : Nat
  deriving DecidableEq, Repr

def flitCounted (f : Flit) : Counted := { src := f.src, addr := f.addr.toNat, vc := f.vc.val }

/-- Master filter of R409. -/
def Bank.fm (v : Bank) (c : Counted) : Bool :=
  let r := v.filtSrc
  ((c.src.x.val ^^^ fld r 28 24) &&& fld r 16 12) == 0 && ((c.src.y.val ^^^ fld r 23 20) &&& fld r 11 8) == 0 &&
    ((c.src.sub.val ^^^ fld r 19 17) &&& fld r 7 5) == 0
/-- Address filter of R409. -/
def Bank.fa (v : Bank) (c : Counted) : Bool := ((BitVec.ofNat 64 (c.addr / 64 * 64) ^^^ v.filtBase) &&& v.filtMask) == 0
/-- Class filter of R409; `filtCls` holds the complement of VCMASK. -/
def Bank.fc (v : Bank) (c : Counted) : Bool := !(v.filtCls.getLsbD c.vc)

/-- Whether counter `k` of a bank takes an event: its code, the gate, and for a per-flit event the filters; link, PCIe and IOMMU banks ignore the
master and address filters (R408 to R410). -/
def State.takes (s : State) (stop b k code : Nat) (c : Option Counted) : Bool :=
  let v := s.bankOf stop b
  let e := v.sel k
  let plain := b == 0 || !([0x11, 0x12, 0x14].contains (stopType stop))
  e.getLsbD 31 && fld e 15 0 == code && !v.freeze && (!(e.getLsbD 26) || tabGet false s.irq.gates (stop * 16 + fld e 25 22)) &&
    (match c with
     | none => true
     | some c => (!(e.getLsbD 29) || !plain || v.fm c) && (!(e.getLsbD 28) || !plain || v.fa c) && (!(e.getLsbD 27) || v.fc c))

/-- Counter `k` gains `n`; at 2^48 it wraps to the remainder, sets OVF, and with OVFEV pulses the tile's event source (R408, R413). -/
def State.bumpBank (s : State) (stop b k n : Nat) : State :=
  let v := s.bankOf stop b
  let x := (v.count k).toNat + n
  let v := { v with cnt := tabSet 0 v.cnt k (BitVec.ofNat 48 x) }
  if x < 2 ^ 48 then s.setBank stop b v
  else
    let s := s.setBank stop b { v with ovf := v.ovf ||| BitVec.ofNat 4 (2 ^ k) }
    if (v.sel k).getLsbD 30 then s.pulseAtStop (168 + tileOf stop) stop else s

/-- An event of a bank happens `n` times (R411). -/
def State.count (s : State) (stop b code n : Nat) (c : Option Counted) : State :=
  if n = 0 ∨ (s.bankOf stop b).evsel = [] then s
  else ((List.range 4).filter fun k => s.takes stop b k code c).foldl (fun s k => s.bumpBank stop b k n) s

/-- Payload bytes in the bandwidth window in progress, while windows are on (R414). -/
def State.bwAdd (s : State) (stop b n : Nat) : State :=
  let v := s.bankOf stop b
  if v.window = 0 then s else s.setBank stop b { v with bwCur := v.bwCur + n }

end Sys2Proof.Machine
end

