-- ==== Sys2Proof/Machine/Events.lean ====
section
/-!
DEFINITION. The IMSIC files of a hart (R380, R383), and the events that its hpm counters count (R398 to R402).
-/
namespace Sys2Proof.Machine

/-! ### IMSIC files (R380, R383) -/

/-- Key of a file in the table of files: 0 machine, 1 supervisor, 1 + g guest. -/
def fileKey (h : HartId) (f : ImFileKind) : Nat := hartIdx h * 9 + (match f with | .mach => 0 | .sup => 1 | .guest g => 1 + g.val)
/-- The files that a hart has: S-cores a machine file only, guest files 1 to 7 (R380). -/
def fileExists (h : HartId) (f : ImFileKind) : Bool := match f with | .mach => true | .sup => isT h | .guest g => isT h && g.val != 0
def State.file (s : State) (h : HartId) (f : ImFileKind) : ImFile := tabGet .reset s.irq.imsic (fileKey h f)
def State.setFile (s : State) (h : HartId) (f : ImFileKind) (v : ImFile) : State :=
  { s with irq := { s.irq with imsic := tabSet .reset s.irq.imsic (fileKey h f) v } }
/-- The identity that a file signals: the lowest that is pending, enabled and below the threshold. -/
def ImFile.top (f : ImFile) : Nat :=
  let m := f.eip &&& f.eie
  let lim := if f.thresh = 0 then 2048 else f.thresh.toNat
  ((List.range' 1 2047).find? fun i => m.getLsbD i && decide (i < lim)).getD 0
/-- Whether a file signals its hart. -/
def ImFile.signals (f : ImFile) : Bool := f.deliv == 1 && f.top != 0
/-- Sets an identity pending; 0 and identities above 2047 change nothing (R383). -/
def State.setIdentity (s : State) (h : HartId) (f : ImFileKind) (n : Nat) : State :=
  if n = 0 ∨ 2047 < n ∨ fileExists h f = false then s
  else s.setFile h f { s.file h f with eip := (s.file h f).eip ||| BitVec.ofNat 2048 (2 ^ n) }

/-! ### Counters (R398 to R402) -/

/-- Highest implemented hpm counter (R398). -/
def hpmTop (h : HartId) : Nat := if isT h then 18 else 10

/-- Whether counter gate `j` of a hart's stop is open (R410). -/
def State.gateOpen (s : State) (h : HartId) (j : Nat) : Bool := tabGet false s.irq.gates (hartStop h * 16 + j)

/-- Whether the mode bits of mhpmevent let an event be counted (R400). -/
def hpmCounts (ev : Word) (m : Mode) : Bool :=
  !(ev.getLsbD (match m with | .m => 62 | .hs => 61 | .u => 60 | .vs => 59 | .vu => 58))

/-- Adds to hpm counter `k`, with the wrap of R402: OF set and, where it was 0 and EIID is not, identity EIID of the machine file. -/
def State.bumpHpm (s : State) (h : HartId) (k n : Nat) : State :=
  let c := s.hart h
  let v := (c.csrRaw (0xB00 + k)).toNat + n
  let c := c.csrPut (0xB00 + k) (BitVec.ofNat 64 v)
  let ev := c.csrRaw (0x320 + k)
  if v < 2 ^ 64 then s.setHart h c
  else if ev.getLsbD 63 then s.setHart h c
  else (s.setHart h (c.csrPut (0x320 + k) (ev ||| 0x8000_0000_0000_0000))).setIdentity h .mach (fld ev 42 32)

/-- An event of a code happens `n` times on a hart (R400, R401). -/
def State.event (s : State) (h : HartId) (code n : Nat) : State :=
  let c := s.hart h
  ((List.range' 3 (hpmTop h - 2)).filter fun k =>
    let ev := c.csrRaw (0x320 + k)
    fld ev 15 0 == code && hpmCounts ev c.mode && !(c.csrBit 0x320 k) && (!(ev.getLsbD 52) || s.gateOpen h (fld ev 51 48))).foldl
      (fun s k => s.bumpHpm h k n) s

end Sys2Proof.Machine
end

