-- ==== Sys2Proof/Machine/Caches.lean ====
section
/-!
DEFINITION. Brine tokens (R462 to R467) and the caching agents' side of coherence: lines held, installed, lost and
evicted (R161 to R168, R179 to R186), reservations and early loads on a line that is lost (R91, R143).
-/
namespace Sys2Proof.Machine

/-! ### Brine tokens -/

/-- FREE of R462: the pool and every allowance. -/
def Brine.free (b : Brine) : Nat := b.pool + (b.allow.map Prod.snd).sum

/-- Source 353 of R465. -/
def State.brineLow (s : State) : Bool :=
  let b := s.brine
  (decide (0 < b.budget) && decide (b.free < b.budget / 16)) ||
  (decide (b.budget = 0) && s.pma.entries.any fun (_, e) => e.valid && e.held)

/-- Drives source 353. -/
def State.driveBrine (s : State) : State := s.wire 353 s.brineLow

/-- What taking a token for agent `k` finds (R463, R464). -/
inductive TokenTake where
  | taken (s : State)
  | wait                      -- allowance empty, pool not: the agent waits for the refill
  | fallback                  -- allowance and pool empty
  deriving DecidableEq, Repr

def State.takeToken (s : State) (k : Nat) : TokenTake :=
  let a := tabGet 0 s.brine.allow k
  if a = 0 then (if s.brine.pool = 0 then .fallback else .wait)
  else .taken (({ s with brine := { s.brine with allow := tabSet 0 s.brine.allow k (a - 1) } }).driveBrine)

/-- A token is freed: it returns to the pool, or is retired while a reduction is pending (R467). -/
def State.freeToken (s : State) : State :=
  (if s.brine.cutPend = 0 then { s with brine := { s.brine with pool := s.brine.pool + 1 } }
   else { s with brine := { s.brine with cutPend := s.brine.cutPend - 1, budget := s.brine.budget - 1 } }).driveBrine

def State.freeTokenIf (s : State) (p : Bool) : State := if p then s.freeToken else s

/-- Counts a store that took the write-through fallback (R464). -/
def State.countFallback (s : State) : State := { s with brine := { s.brine with fallback := s.brine.fallback + 1 } }

/-- Whether a local address lies in a region with HELD = 1 (R29). -/
def State.heldAt (s : State) (la : Nat) : Bool := match pmaFind s.pma.entries la true with | some e => e.held | none => false

/-! ### Lines of an agent -/

/-- Key of an agent's line. -/
def l2Key (a ln : Nat) : Nat := a * 2 ^ 41 + ln
def State.l2 (s : State) (a ln : Nat) : CLine := tabGet .invalid s.coh.l2 (l2Key a ln)
def State.setL2 (s : State) (a ln : Nat) (c : CLine) : State :=
  { s with coh := { s.coh with l2 := tabSet .invalid s.coh.l2 (l2Key a ln) c } }
/-- Every line that an agent holds. -/
def State.agentLines (s : State) (a : Nat) : List (Nat × CLine) :=
  (s.coh.l2.filter fun (k, c) => k / 2 ^ 41 == a && c.st != .i).map fun (k, c) => (k % 2 ^ 41, c)
/-- The request that an agent has outstanding for a line (R165). -/
def State.mshrOf (s : State) (a ln : Nat) : Option Mshr := tabGet none s.coh.mshr (l2Key a ln)
def State.mshr (s : State) (a ln : Nat) : Option MsgOp := (s.mshrOf a ln).map (·.op)
def State.putMshr (s : State) (a ln : Nat) (m : Option Mshr) : State := { s with coh := { s.coh with mshr := tabSet none s.coh.mshr (l2Key a ln) m } }
/-- The request has ended. -/
def State.endMshr (s : State) (a ln : Nat) : State := s.putMshr a ln none
/-- Changes the request that is outstanding. -/
def State.mapMshr (s : State) (a ln : Nat) (f : Mshr → Mshr) : State := s.putMshr a ln ((s.mshrOf a ln).map f)
/-- Requests that an agent has outstanding to the mesh. -/
def State.mshrs (s : State) (a : Nat) : List Mshr := (s.coh.mshr.filter fun (k, _) => k / 2 ^ 41 == a).filterMap Prod.snd
/-- Tags of the requests that an agent and the harts it serves have outstanding to the mesh: coherent requests and uncached reads share 64 (R66, R147). -/
def State.reqTags (s : State) (a : Nat) : List Nat :=
  (s.mshrs a).map (·.tag) ++ (agentHarts a).flatMap fun h => ((s.hart h).uload.filter fun u => decide (u.tag < 64)).map (·.tag) ++ (s.hart h).wreqs.map (·.tag)
def State.reqCount (s : State) (a : Nat) : Nat := (s.reqTags a).length

/-- Guaranteed-class requests that an S-core has outstanding, its cluster's line requests for it included (R218). -/
def State.guarOut (s : State) (h : HartId) : Nat :=
  let c := s.hart h
  let n : Nat := match h with | .t _ => 0 | .s n => n.val % 4
  ((s.mshrs (agentOf h)).filter fun m => m.core == some n).length +
    (if c.csrBit 0x7C0 1 then c.track.length + (c.uload.filter fun u => u.dest != .maint && u.wait.isNone).length else 0)
/-- Whether a Mould-mode core may have `n` more of them: at most 2, and 8 for its cluster (R218). -/
def State.guarFits (s : State) (h : HartId) (n : Nat) : Bool :=
  decide (s.guarOut h + n ≤ 2) && decide (((agentHarts (agentOf h)).map s.guarOut).sum + n ≤ 8)

/-- A line may be read: a state other than I. -/
def CLine.readable (c : CLine) : Bool := c.st != .i
/-- A line may be written: E or M (R164). -/
def CLine.writable (c : CLine) : Bool := c.st == .e || c.st == .m
/-- M and O are dirty with respect to memory (R164). -/
def CLine.dirtyLine (c : CLine) : Bool := c.st == .m || c.st == .o
/-- Whether the mask covers every byte (R181). -/
def fullMask (m : LineMask) : Bool := m == BitVec.allOnes 64

/-! ### Losing a line -/

/-- Squashes every load that has been read ahead: its instruction and every younger one are fetched again, and read again (R78, R90, R98, R100). No register has
been written by it. -/
def Hart.dropEarly (c : Hart) : Hart := { c with early := [] }

/-- Squashes the loads read ahead that satisfy `p`, with every younger instruction; the first refetched instruction issues 13 cycles later (R90, R91). -/
def Hart.squashEarly (c : Hart) (p : EarlyLoad → Bool) : Hart :=
  match (c.early.filter p).map (·.seq) with
  | [] => c
  | q :: qs => let m := qs.foldl min q; { c with early := c.early.filter (fun e => decide (e.seq < m)), clock := c.clock + 13 }

/-! ### Bytes of the store buffer (R92, R93) -/

/-- The byte of a store that lies at a physical address, if it has not drained. -/
def SbEntry.byteAt (e : SbEntry) (a : Nat) : Option Nat :=
  (e.parts.find? fun p => decide (p.pa ≤ a) && decide (a < p.pa + p.size)).map fun p => e.data.toNat / 2 ^ (8 * (p.off + (a - p.pa))) % 256
/-- Whether a store holds a byte of a range. -/
def SbEntry.overlaps (e : SbEntry) (pa size : Nat) : Bool := e.parts.any fun p => decide (p.pa < pa + size) && decide (pa < p.pa + p.size)
/-- Whether a store holds every byte of a range. -/
def SbEntry.covers (e : SbEntry) (pa size : Nat) : Bool := (List.range size).all fun i => (e.byteAt (pa + i)).isSome
/-- Whether a store is for a target that a tag and a timer serve (R93, R153). -/
def SbEntry.uncached (e : SbEntry) : Bool := e.parts.any fun p => match p.region with | .c0 | .io | .remote => true | _ => false

/-! ### L1 caches and shares (R103, R161, R162, R168) -/

/-- S-core Mould mode (R62). -/
def Hart.mould (c : Hart) : Bool := c.csrBit 0x7C0 1
def Hart.cleaning (c : Hart) : Bool := c.csrBit 0x7C0 2

/-- Whether a core's requests use the guaranteed class (R129). -/
def State.isMould (s : State) (h : HartId) : Bool := !(isT h) && (s.hart h).mould
/-- Whether a Mould-mode core may send one more request: while its cluster stop has a guaranteed-class binding, within the limits of R218. -/
def State.guarRoom (s : State) (h : HartId) : Bool :=
  isT h || !(s.hart h).mould || !(s.mesh.resv.any fun (_, r) => r.any fun v => v.vc == 5 && v.src == hartStop h && v.agent == 4 && v.inject) || s.guarFits h 1

/-- The leaf of a pseudo-LRU tree that `d` levels of node bits lead to from node `n`: a set bit leads to the upper half. -/
def treeWalk (bits : Nat) : Nat → Nat → Nat
  | 0, n => n
  | d + 1, n => treeWalk bits d (2 * n + b2n (bits.testBit n))
/-- The way that a tree of `2 ^ d` ways chooses (R161). -/
def treeVictim (d bits : Nat) : Nat := treeWalk bits d 1 - 2 ^ d
def bitTo (bits n : Nat) (b : Bool) : Nat := if bits.testBit n == b then bits else bits ^^^ 2 ^ n
/-- An access to way `w`: every node on its path leads away from it. -/
def treeTouch (d bits w : Nat) : Nat :=
  (List.range d).foldl (fun b i => let n := (2 ^ d + w) / 2 ^ (i + 1); bitTo b n (!((2 ^ d + w).testBit i))) bits
/-- Way `w` in the second-oldest position: the tree leads to the last pair of ways that holds it, and there to the other way (R184; log entry 6). -/
def treeSecond (d bits w : Nat) : Nat :=
  (List.range d).foldl (fun b i => let n := (2 ^ d + w) / 2 ^ (i + 1); bitTo b n (if i = 0 then !((2 ^ d + w).testBit i) else (2 ^ d + w).testBit i)) bits

/-- Levels of a hart's L1 trees: 16 ways in a T-core's L1 caches, 4 in a share (R103, R161). -/
def l1Depth (t : Bool) : Nat := if t then 4 else 2
/-- Puts a line into an L1: the first way of its set that is empty, or the one that the tree chooses. The line that leaves is the third part. -/
def l1Put (d : Nat) (l : List L1Line) (tree : Tab Nat) (ln : Nat) : List L1Line × Tab Nat × Option Nat :=
  let set := l.filter fun x => x.line % 64 == ln % 64
  let bits := tabGet 0 tree (ln % 64)
  let w := ((List.range (2 ^ d)).find? fun w => !(set.any fun x => x.way.val == w)).getD (treeVictim d bits)
  let out := (set.find? fun x => x.way.val == w).map (·.line)
  ({ line := ln, way := Fin.ofNat 16 w, dirty := false } :: l.filter (fun x => some x.line != out), tabSet 0 tree (ln % 64) (treeTouch d bits w), out)
/-- An access to a line of an L1. -/
def l1Touch (d : Nat) (l : List L1Line) (tree : Tab Nat) (ln : Nat) : Tab Nat :=
  match l.find? fun x => x.line == ln with
  | some x => tabSet 0 tree (ln % 64) (treeTouch d (tabGet 0 tree (ln % 64)) x.way.val)
  | none => tree

def Hart.inD (c : Hart) (ln : Nat) : Bool := c.dl1.any fun x => x.line == ln
def Hart.inI (c : Hart) (ln : Nat) : Bool := c.il1.any fun x => x.line == ln

/-- The loads that have read a line ahead of program order take note that another agent may write it (R91). -/
def Hart.noteLost (c : Hart) (ln : Nat) : Hart :=
  { c with early := c.early.map fun e =>
      if lineOf (paLa e.pa) = ln && !(e.fwd && c.sb.any fun x => x.covers e.pa e.size) then { e with lost := true } else e }
/-- A line leaves the L1 D-cache (R91). -/
def Hart.loseD (c : Hart) (ln : Nat) : Hart := let c := c.noteLost ln; { c with dl1 := c.dl1.filter (fun x => x.line != ln) }
/-- A line leaves both L1 caches of a hart (R162). -/
def Hart.loseL1 (c : Hart) (ln : Nat) : Hart := let c := c.loseD ln; { c with il1 := c.il1.filter fun x => x.line != ln }
/-- The L1 D copy of a line is clean: its data is in the L2 or the shared level (R162). -/
def Hart.cleanD (c : Hart) (ln : Nat) : Hart := { c with dl1 := c.dl1.map fun x => if x.line = ln then { x with dirty := false } else x }

/-- Every line leaves the L1 caches or shares of a hart (R128, R516). -/
def Hart.emptyL1 (c : Hart) : Hart :=
  { c with dl1 := [], il1 := [], dtree := [], itree := [], dfill := [], ifill := [], early := c.early.map fun e => { e with lost := true } }

/-- A line enters the L1 D-cache or D share; a Mould-mode or cleaning core's share allocates nothing (R128, R129). -/
def Hart.fillD (t : Bool) (c : Hart) (ln : Nat) : Hart :=
  let c := { c with dfill := c.dfill.filter (· != ln) }
  if c.inD ln || (!t && (c.mould || c.cleaning)) then c else
  let (l, tree, out) := l1Put (l1Depth t) c.dl1 c.dtree ln
  let c := match out with | some k => c.loseD k | none => c
  { c with dl1 := l, dtree := tree }
def Hart.fillI (t : Bool) (c : Hart) (ln : Nat) : Hart :=
  let c := { c with ifill := c.ifill.filter (· != ln) }
  if c.inI ln || (!t && (c.mould || c.cleaning)) then c else
  let (l, tree, _) := l1Put (l1Depth t) c.il1 c.itree ln
  { c with il1 := l, itree := tree }
/-- A write of a line in the L1 D-cache. -/
def Hart.dirtyD (c : Hart) (ln : Nat) : Hart := { c with dl1 := c.dl1.map fun x => if x.line = ln then { x with dirty := true } else x }

/-- Applies a change to every hart of a list. -/
def State.mapHarts (s : State) (f : Hart → Hart) : List HartId → State
  | [] => s
  | h :: t => (s.updHart h f).mapHarts f t

/-- Loses a reservation on the 128-byte block of `la` (R141, R143). -/
def Hart.loseResv (c : Hart) (la : Nat) : Hart :=
  match c.resv with
  | some r => if r.block = la / 128 then { c with resv := none } else c
  | none => c

/-- Every hart but `except` loses a reservation on the block of `la` (R143). -/
def State.killResv (s : State) (la : Nat) (except : Option HartId) : State :=
  s.mapHarts (fun c => c.loseResv la) (allHarts.filter fun h => some h != except && ((s.hart h).resv.any fun r => r.block == la / 128))

/-- An agent's line leaves it: its L1 copies go first (R162), loads that have read it ahead take note (R91) and reservations on its block are
lost (R143). -/
def State.lineLost (s : State) (a ln : Nat) : State :=
  s.mapHarts (fun c => (c.loseResv (64 * ln)).loseL1 ln)
    ((agentHarts a).filter fun h => let c := s.hart h; c.resv.isSome || c.early ≠ [] || c.inD ln || c.inI ln)

/-- The L1 D copies of an agent's line are clean and may not be written (R162, R168). -/
def State.cleanL1 (s : State) (a ln : Nat) : State := s.mapHarts (fun c => c.cleanD ln) ((agentHarts a).filter fun h => (s.hart h).inD ln)

/-- A line that has come to an agent enters the L1 caches whose fill buffers wait for it (R66). -/
def State.serveFills (s : State) (a ln : Nat) : State :=
  (agentHarts a).foldl (fun s h =>
    let c := s.hart h
    let s := if c.dfill.contains ln then s.updHart h fun c => c.fillD (isT h) ln else s
    if c.ifill.contains ln then s.updHart h fun c => c.fillI (isT h) ln else s) s

/-- Whether a snoop that would invalidate the block is deferred (R144). -/
def State.deferred (s : State) (a ln : Nat) : Bool :=
  (agentHarts a).any fun h => (s.hart h).resv.any fun r => r.deferring && r.block == ln / 2

/-- Lines in an agent's write-back buffer. -/
def State.wbCount (s : State) (a : Nat) : Nat := (s.coh.wb.filter fun e => e.agent == a).length

/-- The ReturnDirty of a line. `fwd` marks a streaming line (R181). -/
def returnDirtyFlit (a ln : Nat) (c : CLine) : Flit :=
  { mkFlit .returnDirty (agentNode a) (sliceNode (homeSlice (64 * ln))) (64 * ln) with
    data := some c.data, mask := c.mask, poison := c.poison, token := c.token, gst := c.st, who := a, fwd := c.streaming }

/-- The write-back buffer entry of a line. -/
def wbOf (a ln : Nat) (c : CLine) : WbEntry :=
  { agent := a, la := 64 * ln, st := c.st, data := c.data, mask := c.mask, poison := c.poison, token := c.token }

/-- A prefetched line of page `pg` went unused: its stream's degree halves (R182). -/
def Hart.halvePf (c : Hart) (pg : Nat) : Hart :=
  { c with pfL2 := c.pfL2.map fun e => if e.key = pg then { e with deg := max 1 (e.deg / 2) } else e }

/-- An event of a T-core at its L2; an agent beyond 191 is a shared level (R401). -/
def State.eventL2 (s : State) (a code : Nat) : State := if a < 192 then s.event (.t (Fin.ofNat 192 a)) code 1 else s

/-- An agent gives up a line: ReturnDirty with the data into the write-back buffer for M and O, ReturnClean for E and S
(R164, R165); a prefetched line that goes unused halves its stream's degree (R182). -/
def State.evict (s : State) (a ln : Nat) : State :=
  let c := s.l2 a ln
  let s := (s.lineLost a ln).setL2 a ln .invalid
  let s := if c.pref && a < 192
    then s.updHart (.t (Fin.ofNat 192 a)) fun h => h.halvePf (ln / 64)
    else s
  match c.st with
  | .i => s
  | .m | .o =>
    (({ s with coh := { s.coh with wb := s.coh.wb ++ [wbOf a ln c] } }).eventL2 a 0x0B).send (returnDirtyFlit a ln c)
  | .e | .s => s.send { mkFlit .returnClean (agentNode a) (sliceNode (homeSlice (64 * ln))) (64 * ln) with who := a }

/-- Every line of a way leaves an agent (R54). -/
def State.emptyWay (s : State) (a w : Nat) : State :=
  ((s.agentLines a).filter fun (_, l) => l.way.val == w).foldl (fun s (ln, _) => s.evict a ln) s

/-- Set of a line in an agent's array: 2,048 sets in an L2, 256 in a shared level (R161). -/
def agentSet (a ln : Nat) : Nat := if a < 192 then ln % 2048 else ln % 256

/-- The first way of the set that holds no line. -/
def State.freeWay (s : State) (a ln : Nat) : Option (Fin 16) :=
  let used := ((s.agentLines a).filter fun (k, _) => agentSet a k == agentSet a ln).map fun (_, c) => c.way
  (List.finRange 16).find? fun w => !used.contains w

/-- The pseudo-LRU tree of a line's set in an agent (R161). -/
def State.treeOf (s : State) (a ln : Nat) : Nat := tabGet 0 s.coh.tree (a * 2048 + agentSet a ln)
def State.setTree (s : State) (a ln bits : Nat) : State := { s with coh := { s.coh with tree := tabSet 0 s.coh.tree (a * 2048 + agentSet a ln) bits } }
/-- A demand access to a line that the agent holds: the newest replacement position, a prefetched one at its first hit (R161, R184). -/
def State.touchL2 (s : State) (a ln : Nat) : State := s.setTree a ln (treeTouch 4 (s.treeOf a ln) (s.l2 a ln).way.val)

/-- The line of an agent in a way of the set of `ln`. -/
def State.inSetWay (s : State) (a ln : Nat) (w : Fin 16) : Option Nat :=
  ((s.agentLines a).find? fun (k, d) => agentSet a k == agentSet a ln && d.way == w).map Prod.fst

/-- The way that a line would take: the first empty one of its set, or the tree's choice (R161). A line with a request outstanding does not leave, and the next way
takes its place. -/
def State.wayFor (s : State) (a ln : Nat) : Fin 16 :=
  match s.freeWay a ln with
  | some w => w
  | none =>
    let v := treeVictim 4 (s.treeOf a ln)
    (((List.range 16).map fun i => Fin.ofNat 16 (v + i)).find? fun w => ((s.inSetWay a ln w).all fun k => (s.mshr a k).isNone)).getD (Fin.ofNat 16 v)

/-- Whether a line can be put into an agent: the line that has to leave for it needs no entry of the write-back buffer, or there is one (R161). -/
def State.roomFor (s : State) (a ln : Nat) : Bool :=
  (s.l2 a ln).st != .i || (match s.inSetWay a ln (s.wayFor a ln) with
    | some k => (s.mshr a k).isNone && (!((s.l2 a k).dirtyLine) || decide (s.wbCount a < 16))
    | none => true)

/-- Puts a line into an agent, in the newest position, or a prefetched one in the second-oldest (R161, R184). With the set full the victim leaves
first. The L1 caches that wait for the line take it. -/
def State.install (s : State) (a ln : Nat) (c : CLine) : State :=
  let old := s.l2 a ln
  if old.st != .i then (s.setL2 a ln { c with way := old.way }).serveFills a ln else
  let w := s.wayFor a ln
  let s := match s.inSetWay a ln w with
    | some k => s.evict a k
    | none => s
  let s := s.setL2 a ln { c with way := w }
  (s.setTree a ln (if c.pref then treeSecond 4 (s.treeOf a ln) w.val else treeTouch 4 (s.treeOf a ln) w.val)).serveFills a ln

/-- An agent whose caches are being emptied sends its lines home in the order of their sets, as the write-back buffer has room; a line with a request outstanding
waits for it (R192). -/
def State.emptyMore (s : State) (a : Nat) : State :=
  let ls := (s.agentLines a).insertionSort fun x y => agentSet a x.1 ≤ agentSet a y.1
  ls.foldl (fun s (ln, l) => if (s.mshr a ln).isSome || (l.dirtyLine && decide (16 ≤ s.wbCount a)) then s else s.evict a ln) s

/-- Whether a ReturnDirty or ReturnClean of the agent for the line is still outstanding (R165, R194). -/
def State.returning (s : State) (a ln : Nat) : Bool :=
  let is (f : Flit) : Bool := f.op == .returnClean && f.who == a && lineOf f.addr.toNat == ln
  (s.coh.wb.any fun e => e.agent == a && e.la == 64 * ln) || s.mesh.arrived.any is || s.coh.waitq.any is ||
  (s.mesh.inject.any fun (_, l) => l.any fun (_, f) => is f) || (s.mesh.bufs.any fun (_, l) => l.any fun (_, f) => is f)

/-- The agent sends a request for a line under a free tag (R147, R165), in the guaranteed class for a Mould-mode core whose cluster has a reservation and within its
limits (R129, R218). Where it may not go now, nothing changes. -/
def State.sendReq (s : State) (a ln : Nat) (f : Flit) (core : Option HartId) : State :=
  match (List.range Config.reqTags).find? fun k => !((s.reqTags a).contains k) with
  | none => s
  | some tag =>
    let f := { f with tag := BitVec.ofNat 10 tag, who := a }
    let g := match core with | some _ => guaranteed s 4 none f | none => f
    match (if g.vc = 5 then core else none) with
    | none => (s.putMshr a ln (some { op := f.op, tag := tag, got := false, core := none })).send g
    | some h =>
      if !(s.guarFits h 1) then s else
      (s.putMshr a ln (some { op := f.op, tag := tag, got := false, core := match h with | .t _ => none | .s n => some (n.val % 4) })).send g

/-- A request for a line, unless one is outstanding (R165); `core` is the Mould-mode core that it is for (R129). -/
def State.request (s : State) (a ln : Nat) (op : MsgOp) (core : Option HartId) : State :=
  if (s.mshr a ln).isSome || decide (Config.reqTags ≤ s.reqCount a) || s.returning a ln || tabGet false s.coh.noAlloc a then s else
  s.sendReq a ln (mkFlit op (agentNode a) (sliceNode (homeSlice (64 * ln))) (64 * ln)) core

/-- Whether the home has answered the agent's demand request for the line with an error that no access has met yet (R202): the request is noted as
`errorReply`. -/
def State.missFailed (s : State) (a ln : Nat) : Bool := s.mshr a ln == some MsgOp.errorReply

/-- The probe's holder view: the line in the agent, or the copy in its write-back buffer (R194). -/
def State.holderLine (s : State) (a ln : Nat) : CLine :=
  let c := s.l2 a ln
  if c.st != .i then c else
  match s.coh.wb.find? fun e => e.agent == a && e.la == 64 * ln with
  | some e => { CLine.invalid with st := e.st, data := e.data, mask := e.mask, poison := e.poison, token := e.token }
  | none => .invalid

/-- Changes the holder's copy, in the agent or in its write-back buffer. -/
def State.setHolder (s : State) (a ln : Nat) (c : CLine) : State :=
  if (s.l2 a ln).st != .i then (if c.st = .i then (s.lineLost a ln).setL2 a ln .invalid else (s.cleanL1 a ln).setL2 a ln { c with way := (s.l2 a ln).way })
  else { s with coh := { s.coh with wb := s.coh.wb.map fun e =>
      if e.agent = a ∧ e.la = 64 * ln then { e with st := c.st, data := c.data, mask := c.mask, token := c.token } else e } }

/-- The data a holder sends to the requester (R166). -/
def forwardFlit (p : Flit) (a : Nat) (c : CLine) (gst : Moesi) (token : Bool) : Flit :=
  thirdClass p { mkFlit .dataGrant (agentNode a) (agentNode p.who) p.addr.toNat with
    data := some c.data, mask := c.mask, poison := c.poison, token := token, gst := gst, tag := p.tag, who := p.who }

/-- A holder's answer to the home: its state before the probe in `gst`, `fwd` for a miss. -/
def answerFlit (p : Flit) (op : MsgOp) (a : Nat) (c : CLine) : Flit :=
  thirdClass p { mkFlit op (agentNode a) p.src p.addr.toNat with gst := c.st, who := a, fwd := c.st == .i, tag := p.tag }

/-- The answer that carries data, its mask and any token to the home. -/
def answerData (p : Flit) (a : Nat) (c : CLine) (token : Bool) : Flit :=
  { answerFlit p .probeData a c with data := some c.data, mask := c.mask, poison := c.poison, token := token }

/-- A line that stays readable in another state. -/
def CLine.downTo (c : CLine) (st : Moesi) : CLine := { c with st := st }

end Sys2Proof.Machine
end

