-- ==== Sys2Proof/Machine/Home.lean ====
section
/-!
DEFINITION. The home L3 slice: trackers and transactions (R167), the L3 array (R163, R174, R191), the snoop filter
(R172, R173), the victim buffer (R177, R178), and accesses by masters that hold no caches (R169).
-/
namespace Sys2Proof.Machine

/-! ### The slice's structures -/

def State.l3 (s : State) (ln : Nat) : L3Line := tabGet .invalid s.coh.l3 ln
def State.setL3 (s : State) (ln : Nat) (v : L3Line) : State := { s with coh := { s.coh with l3 := tabSet .invalid s.coh.l3 ln v } }
def State.sf (s : State) (ln : Nat) : SfEntry := tabGet .empty s.coh.sf ln
def State.setSf (s : State) (ln : Nat) (v : SfEntry) : State := { s with coh := { s.coh with sf := tabSet .empty s.coh.sf ln v } }
def State.txn (s : State) (ln : Nat) : Option Txn := tabGet none s.coh.txn ln
def State.setTxn (s : State) (ln : Nat) (v : Option Txn) : State := { s with coh := { s.coh with txn := tabSet none s.coh.txn ln v } }

/-- Agents that bit `m` of a coarse vector stands for (R172). -/
def coarseAgents (v : BitVec 51) : List Nat := (List.range 204).filter fun a => v.getLsbD (a / 4)
/-- Agents that a snoop goes to. -/
def SfEntry.agents (e : SfEntry) : List Nat := match e.coarse with | some v => coarseAgents v | none => e.holders
/-- Holders recorded, for the choice of a victim (R173). -/
def SfEntry.recorded (e : SfEntry) : Nat := e.agents.length
def SfEntry.present (e : SfEntry) : Bool := e.agents ≠ []
/-- The coarse vector of a list of agents. -/
def coarseOf (l : List Nat) : BitVec 51 := l.foldl (fun v a => v ||| BitVec.ofNat 51 (2 ^ (a / 4))) 0
/-- Adds a holder; the fifth turns the entry coarse (R172). -/
def SfEntry.add (e : SfEntry) (a : Nat) : SfEntry :=
  match e.coarse with
  | some v => { e with coarse := some (v ||| BitVec.ofNat 51 (2 ^ (a / 4))) }
  | none =>
    if e.holders.contains a then e
    else if e.holders.length < 4 then { e with holders := e.holders ++ [a] }
    else { e with holders := [], coarse := some (coarseOf (e.holders ++ [a])) }
/-- Removes a holder where it is known exactly. -/
def SfEntry.drop (e : SfEntry) (a : Nat) : SfEntry :=
  let o := if e.owner = some a then none else e.owner
  match e.coarse with
  | some _ => { e with owner := o }
  | none => let h := e.holders.erase a; if h = [] then .empty else { e with holders := h, owner := o }
/-- An entry whose one holder is known. -/
def sfOnly (a : Nat) (owner : Bool) (w : Fin 24) : SfEntry :=
  { holders := [a], owner := if owner then some a else none, coarse := none, way := w }

/-- Entries of the line's snoop-filter set. -/
def State.sfSet (s : State) (ln : Nat) : List (Nat × SfEntry) :=
  s.coh.sf.filter fun (k, e) => homeSlice (64 * k) == homeSlice (64 * ln) && homeSet (64 * k) == homeSet (64 * ln) && e.present
/-- A free way of the line's snoop-filter set, not kept for a line whose transaction is open. -/
def State.sfWay (s : State) (ln : Nat) : Option (Fin 24) :=
  let kept := (s.coh.txn.filter fun (k, _) => homeSlice (64 * k) == homeSlice (64 * ln) && homeSet (64 * k) == homeSet (64 * ln)).filterMap fun (_, t) => t.bind (·.way)
  (List.finRange 24).find? fun w => !((s.sfSet ln).any fun (_, e) => e.way == w) && !(kept.contains w)
/-- The victim of a full set: fewest recorded holders, then the lowest way (R173). -/
def State.sfVictim (s : State) (ln : Nat) : Option Nat :=
  let c := s.sfSet ln
  (c.find? fun (_, e) => c.all fun (_, q) => decide (e.recorded < q.recorded ∨ (e.recorded = q.recorded ∧ e.way ≤ q.way))).map Prod.fst

/-! ### Victim buffer -/

/-- Entries of a slice's victim buffer. -/
def State.vbCount (s : State) (sl : Nat) : Nat := (s.coh.vb.filter fun e => homeSlice e.la == sl).length
/-- Places a line in the victim buffer (R177); `txn`: the line's transaction waits for the write. -/
def State.vbPut (s : State) (ln : Nat) (data : Line) (mask : LineMask) (poison token txn : Bool) : State :=
  { s with coh := { s.coh with
      vb := s.coh.vb ++ [{ la := 64 * ln, data := data, mask := mask, poison := poison, token := token, issued := false, txn := txn }] } }
def State.vbPush (s : State) (ln : Nat) (data : Line) (mask : LineMask) (poison token : Bool) : State := s.vbPut ln data mask poison token false
def State.vbFull (s : State) (ln : Nat) : Bool := decide (32 ≤ s.vbCount (homeSlice (64 * ln)))

/-! ### L3 array -/

/-- Way groups of the slice's tile that are open to allocation (R191). -/
def State.openWays (s : State) (sl : Nat) : List (Fin 16) :=
  let off := tabGet 0 s.coh.wayOff (sl / 32)
  (List.finRange 16).filter fun w => !(off.getLsbD (w.val / 4))
/-- Lines of the L3 set of a line. -/
def State.l3Set (s : State) (ln : Nat) : List (Nat × L3Line) :=
  s.coh.l3.filter fun (k, e) => homeSlice (64 * k) == homeSlice (64 * ln) && homeSet (64 * k) == homeSet (64 * ln) && e.valid
/-- The line in a way of a set. -/
def inWay (c : List (Nat × L3Line)) (w : Fin 16) : Option (Nat × L3Line) := c.find? fun (_, e) => e.way == w
/-- Raises the re-reference value of the set's lines in open ways by `n` (R174). -/
def State.ageSet (s : State) (ln n : Nat) : State :=
  (s.l3Set ln).foldl (fun s (k, e) => if (s.openWays (homeSlice (64 * ln))).contains e.way
    then s.setL3 k { e with rrpv := Fin.ofNat 4 (min 3 (e.rrpv.val + n)) } else s) s

/-- Finds a way for a line (R174): its own, a free open way, or that of the victim: the lowest way whose value is the
set's largest, after ageing the set until it is 3. A dirty victim moves to the victim buffer; with the buffer full there is no way yet (R178).
No open way: `none` in the second component. -/
def State.l3Way (s : State) (ln : Nat) : Option (State × Option (Fin 16)) :=
  let sl := homeSlice (64 * ln)
  let own := s.l3 ln
  let ways := s.openWays sl
  if own.valid then some (s, if ways.contains own.way then some own.way else none) else
  let c := s.l3Set ln
  match ways.find? fun w => (inWay c w).isNone with
  | some w => some (s, some w)
  | none =>
    let val (w : Fin 16) : Nat := match inWay c w with | some (_, e) => e.rrpv.val | none => 0
    let top := ways.foldl (fun m w => max m (val w)) 0
    match ways.find? fun w => val w == top with
    | none => some (s, none)
    | some w =>
      match inWay c w with
      | none => some (s, some w)
      | some (k, e) =>
        if e.dirty && s.vbFull ln then none else
        let s := s.ageSet ln (3 - top)
        let s := s.setL3 k .invalid
        some (if e.dirty then s.vbPush k e.data (BitVec.allOnes 64) e.poison e.token else s, some w)

/-- Allocates or updates a line in the L3. With no open way a dirty line goes to memory through the victim buffer, and
a clean one is not kept (R191). `none`: the transaction waits for a victim-buffer entry. -/
def State.l3Put (s : State) (ln : Nat) (data : Line) (dirty poison token : Bool) (rrpv : Fin 4) : Option State :=
  match s.l3Way ln with
  | none => none
  | some (s, some w) => some (s.setL3 ln { valid := true, dirty := dirty, data := data, poison := poison, token := token, rrpv := rrpv, way := w })
  | some (s, none) =>
    if dirty then (if s.vbFull ln then none else some ((s.setL3 ln .invalid).vbPush ln data (BitVec.allOnes 64) poison token))
    else some s

/-! ### Data of a line at the slice -/

/-- The bytes of a line in the victim buffer: a newer entry over an older one. -/
def vbMerge (l : List VbEntry) : Line × LineMask × Bool :=
  l.foldl (fun (d, m, p) v => (mergeLine d v.data v.mask, m ||| v.mask, v.poison || (p && !(fullMask v.mask)))) (0, 0, false)
/-- The line as the slice holds it: the L3, else the victim buffer (R177). -/
def State.sliceData (s : State) (ln : Nat) : Option (Line × LineMask × Bool) :=
  let e := s.l3 ln
  if e.valid then some (e.data, BitVec.allOnes 64, e.poison)
  else match s.coh.vb.filter fun v => v.la == 64 * ln with
    | [] => none
    | l => some (vbMerge l)
/-- A line's bytes over those that the slice holds, with the bytes present and the poison. -/
def State.overSlice (s : State) (ln : Nat) (d : Line) (m : LineMask) (poison : Bool) : Line × LineMask × Bool :=
  match s.sliceData ln with
  | some (b, bm, bp) => (mergeLine b d m, bm ||| m, poison || (bp && !(fullMask m)))
  | none => (d, m, poison)

/-- An event of the L3 slice bank of a line's home (R411). -/
def State.countSlice (s : State) (ln code : Nat) (f : Flit) : State :=
  s.count (nodeStop (sliceNode (homeSlice (64 * ln)))) 1 code 1 (some (flitCounted f))

/-- Sends a read of the line to its channel (R201). -/
def State.memReadReq (s : State) (req : Flit) (ln : Nat) : State :=
  (s.countSlice ln 4 req).send (thirdClass req (mkFlit .memRead (sliceNode (homeSlice (64 * ln))) (chanNode (s.chanOf (64 * ln))) (64 * ln)))

/-- Sends a write of the line to its channel; a write of part of it is a masked write. A victim's write has tag 1, a write for a request tag 0 (R147). -/
def State.memWriteReq (s : State) (req : Option Flit) (ln : Nat) (data : Line) (mask : LineMask) (poison token : Bool) : State :=
  let f := { mkFlit (if fullMask mask then .memWrite else .memWriteMasked) (sliceNode (homeSlice (64 * ln))) (chanNode (s.chanOf (64 * ln))) (64 * ln)
    with data := some data, mask := mask, poison := poison, token := token, tag := if req.isSome then 0 else 1 }
  s.send (match req with | some r => thirdClass r f | none => f)

/-! ### Atomic arithmetic (R140, R169) -/

/-- Reads `n` bytes as a signed number. -/
def signedOf (n v : Nat) : Int := if v < 2 ^ (8 * n - 1) then (v : Int) else (v : Int) - 2 ^ (8 * n)

/-- The value an AMO stores, on `n`-byte operands: memory value, register value, and the value CAS compares with. -/
def amoValue (fn : AmoFn) (n old v cmp : Nat) : Nat :=
  let m := 2 ^ (8 * n)
  match fn with
  | .swap => v % m
  | .add => (old + v) % m
  | .xor => (old ^^^ v) % m
  | .and => (old &&& v) % m
  | .or => (old ||| v) % m
  | .min => if signedOf n old ≤ signedOf n (v % m) then old else v % m
  | .max => if signedOf n old ≤ signedOf n (v % m) then v % m else old
  | .minu => if old ≤ v % m then old else v % m
  | .maxu => if old ≤ v % m then v % m else old
  | .cas => if old = cmp % m then v % m else old

/-- Where an AtomicNC flit carries the compare value of a CAS: in the other half of the line. -/
def casOffset (o : Nat) : Nat := if o < 32 then o + 32 else o - 32

/-- The line after an atomic flit, and the old value. -/
def atomicLine (f : Flit) (old : Line) : Line × Nat :=
  let o := f.addr.toNat % 64
  let d := f.data.getD 0
  let v0 := lineBytes old o f.size
  let v1 := amoValue f.fn f.size v0 (lineBytes d o f.size) (lineBytes d (casOffset o) f.size)
  (mergeLine old (atOffset o v1) (maskOf o f.size), v0)

/-- Whether an atomic flit is a compare-and-swap whose comparison fails: it stores nothing (R530). -/
def casFails (f : Flit) (old : Line) : Bool :=
  let o := f.addr.toNat % 64
  f.fn == .cas && lineBytes old o f.size != lineBytes (f.data.getD 0) (casOffset o) f.size

/-! ### Transactions (R167) -/

/-- Entry of the home package's table for a line (R169). -/
def State.homeC (s : State) (la : Nat) : Bool := match pmaFind s.pma.entries la true with | some e => e.c | none => false
def State.homeEwa (s : State) (la : Nat) : Bool := match pmaFind s.pma.entries la true with | some e => e.ewa | none => false

/-- Trackers of a slice in use by one class: open transactions and waiting requests. A back-invalidation belongs to the request that needs it (R161, R173, R176). -/
def State.trackersOf (s : State) (sl : Nat) (guar : Bool) : Nat :=
  (s.coh.txn.filter fun (k, t) => homeSlice (64 * k) == sl && t.any fun t => t.req.op != .unused && (t.req.vc == 5) == guar).length +
    (s.coh.waitq.filter fun f => homeSlice f.addr.toNat == sl && (f.vc == 5) == guar).length
/-- Trackers of a slice in use, of its 128. -/
def State.trackers (s : State) (sl : Nat) : Nat := s.trackersOf sl false + s.trackersOf sl true
/-- Whether a class has a tracker left: 8 are kept for the guaranteed class (R161, R176). -/
def State.trackerFree (s : State) (sl : Nat) (guar : Bool) : Bool := decide (s.trackersOf sl guar < if guar then 8 else 120)

/-- Closes a line's transaction. -/
def State.closeTxn (s : State) (ln : Nat) : State := s.setTxn ln none

/-- Whether an opcode is a read of a line into an agent. -/
def isRead (op : MsgOp) : Bool := op == .lineRead || op == .prefetchRead
def isOwn (op : MsgOp) : Bool := op == .lineOwn || op == .prefetchOwn

/-- Whether the agent that sent a LinePromote still holds the line, so that it gets no data. The coarse form of an entry does not say so, and the agent itself
does (R165, R194; log entry 160). -/
def State.promotes (s : State) (f : Flit) (ln : Nat) : Bool :=
  f.op == .linePromote && (s.sf ln).agents.contains f.who && ((s.sf ln).coarse.isNone || (s.l2 f.who ln).st != .i)

/-- The probe of a request and the agents it goes to, the requester never among them (R163, R165, R166, R169, R187). -/
def State.probePlan (s : State) (f : Flit) (ln : Nat) : List (MsgOp × Nat) :=
  let e := s.sf ln
  let all := e.agents.filter fun a => decide (a ≠ f.who)
  let own : List Nat := match e.owner with | some o => if o = f.who then [] else [o] | none => []
  let rest := all.filter fun a => !own.contains a
  let nc : List Nat := e.agents
  match f.op with
  | .lineRead | .prefetchRead => own.map fun a => (.probeShare, a)
  | .lineOwn | .prefetchOwn | .linePromote => (own.map fun a => (.probeTake, a)) ++ rest.map fun a => (.probeKill, a)
  | .lineClaim => all.map fun a => (.probeKill, a)
  | .cleanKeep => all.map fun a => (.probeClean, a)
  | .cleanDrop | .discardLine => all.map fun a => (.probeKill, a)
  | .readNc => if s.homeC f.addr.toNat then e.owner.toList.map fun a => (.probeShare, a) else []
  | .writeNc =>
    if s.homeC f.addr.toNat then nc.map fun a => (if fullMask f.mask then .probeKill else .probeTake, a) else []
  | .atomicNc => if s.homeC f.addr.toNat then nc.map fun a => (.probeTake, a) else []
  | _ => []

/-- Whether the data of a probe goes to the requester and not to the home. -/
def forwards (op : MsgOp) : Bool := isRead op || isOwn op || op == .linePromote

/-- A probe. `fwd`: data goes to the requester; size 1: the data is discarded (R166). -/
def probeFlit (f : Flit) (ln : Nat) (op : MsgOp) (a : Nat) : Flit :=
  thirdClass f { mkFlit op (sliceNode (homeSlice (64 * ln))) (agentNode a) (64 * ln) with
    who := f.who, tag := f.tag, fwd := forwards f.op, size := if f.op = .discardLine then 1 else 0 }

/-- Whether the home must have the line's data to answer. -/
def State.wantsData (s : State) (t : Txn) (ln : Nat) : Bool :=
  match t.req.op with
  | .lineRead | .prefetchRead | .lineOwn | .prefetchOwn => !t.fwd
  | .linePromote => !t.fwd && !(s.promotes t.req ln)
  | .lineClaim => t.data.isSome
  | .maskFill | .readNc | .atomicNc => true
  | .writeNc => t.c1 && !(fullMask t.req.mask)
  | _ => false

/-- The answer that gives a line to an agent: data or none, granted state, and a token. -/
def grantFlit (s : State) (t : Txn) (gst : Moesi) (data : Option Line) : Flit :=
  let r := reply s t.req (if data.isSome then .dataGrant else .grant) (if t.poison && data.isSome then 4 else 0)
  { r with
    gst := gst, data := data, mask := BitVec.allOnes 64, poison := t.poison && data.isSome, token := t.token, fwd := t.fwd, who := t.req.who,
    size := if t.dirty then 1 else 0 }

/-- Takes the L3 copy of a line away. A dirty one moves to the requester as dirty data, with its token (R163, R179); data that a holder has sent is newer. -/
def State.takeL3 (s : State) (ln : Nat) (t : Txn) : State × Txn :=
  let e := s.l3 ln
  let s := s.setL3 ln .invalid
  if !(e.valid && e.dirty) then (s, t)
  else if t.dirty then (s.freeTokenIf (e.token && t.token), { t with token := t.token || e.token })
  else (s.freeTokenIf (e.token && t.token),
    { t with data := if t.fwd then t.data else some e.data, mask := BitVec.allOnes 64, dirty := true, poison := if t.fwd then t.poison else e.poison,
             token := t.token || e.token })

/-- Grants the line and awaits GrantAck. -/
def State.grantTo (s : State) (ln : Nat) (t : Txn) (gst : Moesi) (data : Option Line) (sf : SfEntry) : State :=
  ((s.setSf ln sf).setTxn ln (some { t with ack := true, done := true })).send (grantFlit s t gst data)

/-- The entry of a line after a clean operation that keeps the copies: a holder that was in O is in S, and where every agent of a coarse entry has answered, the
holders are known (R166, R172). -/
def SfEntry.cleaned (e : SfEntry) (req : Flit) (seen : List Nat) : SfEntry :=
  let e := if e.owner = some req.who ∧ req.gst = .o then { e with owner := none } else e
  match e.coarse with
  | none => e
  | some _ =>
    let l := (if req.gst = .i then [] else [req.who]) ++ seen
    if l = [] then .empty else if l.length ≤ 4 then { e with holders := l, coarse := none } else e

/-- Writes the dirty data of a clean operation to memory, or answers at once (R187, R188). -/
def State.cleanFinish (s : State) (ln : Nat) (t : Txn) : State :=
  let e := s.l3 ln
  let f := t.req
  let token := t.token || (e.valid && e.token)
  let ans := { reply s f .grant 0 with who := f.who }
  let gone (s : State) : State := (s.setL3 ln .invalid).setSf ln .empty
  if f.op = .discardLine then ((((gone s).freeTokenIf t.token).freeTokenIf (e.valid && e.token)).send ans).closeTxn ln else
  match (match t.data with | some d => some (s.overSlice ln d t.mask t.poison) | none => if e.valid && e.dirty then s.sliceData ln else none) with
  | none => ((if f.op = .cleanKeep then s.setSf ln ((s.sf ln).cleaned f t.seen) else gone s).send ans).closeTxn ln
  | some (d, m, p) =>
    if s.vbFull ln then s else
    let s := s.freeTokenIf (t.token && e.valid && e.token)
    let s := if f.op = .cleanKeep
      then (if e.valid then s.setL3 ln { e with data := d, poison := p, dirty := false, token := false } else s).setSf ln ((s.sf ln).cleaned f t.seen)
      else gone s
    (s.vbPut ln d m p token true).setTxn ln (some { t with mem := 1, done := true })

/-- The L3 takes a line that a coherent write has changed, dirty: with the token of a superseded copy, or where the line is held one of the slice's; with allowance and
pool empty the line goes through the victim buffer to memory without one (R169, R463, R464). The second part says that the write is awaited. `none`: it waits for
a token or for a victim-buffer entry. -/
def State.writeCore (s : State) (ln : Nat) (held token : Bool) (new : Line) (poison : Bool) : Option (State × Bool) :=
  let put (s : State) (tok : Bool) : Option (State × Bool) := (s.l3Put ln new true poison tok 1).map fun s => (s, false)
  if token || !held then put s token else
  match s.takeToken (204 + homeSlice (64 * ln)) with
  | .taken s => put s true
  | .wait => none
  | .fallback =>
    if s.vbFull ln then none else some (((s.setL3 ln .invalid).vbPut ln new (BitVec.allOnes 64) poison false true).countFallback, true)

/-- A coherent write or atomic by a master without caches, performed in the slice. -/
def State.writeFinish (s : State) (ln : Nat) (t : Txn) (new : Line) (poison : Bool) (ans : Flit) : Option State :=
  let e := s.l3 ln
  let s0 := ((s.setSf ln .empty).killResv (64 * ln) none).freeTokenIf (t.token && e.valid && e.token)
  (s0.writeCore ln t.held (t.token || (e.valid && e.token)) new poison).map fun (s, waits) =>
    if waits then s.setTxn ln (some { t with mem := 1, done := true }) else (s.send ans).closeTxn ln

/-- Puts back a line whose copies a transaction has taken for an atomic that writes nothing, with its dirt and its token (R140, R169, R530). -/
def State.putBack (s : State) (ln : Nat) (t : Txn) : Option State :=
  let e := s.l3 ln
  let s := s.freeTokenIf (t.token && e.valid && e.token)
  (s.l3Put ln (t.data.getD 0) (t.dirty || e.dirty) t.poison (t.token || (e.valid && e.token)) 1).map fun s => s.setSf ln .empty

/-- A write that a stop acknowledges early is tracked to its endpoint (R155). -/
def State.trackEwa (s : State) (stop : Node) (f : Flit) : State :=
  { s with mesh := { s.mesh with ewa := s.mesh.ewa ++
      [{ stop := stop, la := f.addr.toNat, req := f.src, rpkg := f.rpkg.val, tag := f.tag.toNat, deadline := s.time + f.tmo }] } }
/-- Whether an entry is the write of a flit at a stop. -/
def EwaWrite.is (e : EwaWrite) (stop : Node) (f : Flit) : Bool := e.stop == stop && e.la == f.addr.toNat && e.req == f.src && e.tag == f.tag.toNat
/-- EWA_FAIL: the endpoint of an acknowledged write has failed it; the record names the requester (R155, R499). -/
def State.ewaFail (s : State) (e : EwaWrite) (sts : Nat) : State :=
  ({ s with mesh := { s.mesh with ewa := s.mesh.ewa.erase e } }).logErr { mkErr 0x0A 3 (nodeStop e.stop) true with
    sub := e.stop.sub.val, pa := some (s.pma.pkgId.toNat * 2 ^ 47 + e.la), req := some (if e.rpkg = 0 then s.pma.pkgId.toNat else e.rpkg, e.req, e.tag), detail := sts }
/-- The endpoint has answered. -/
def State.endEwa (s : State) (stop : Node) (f : Flit) (sts : Nat) : State :=
  match s.mesh.ewa.find? fun e => e.is stop f with
  | none => s
  | some e => if sts = 0 then { s with mesh := { s.mesh with ewa := s.mesh.ewa.erase e } } else s.ewaFail e sts

/-- Ends the back-invalidation of a victim line: dirty data goes to the L3 as for a ReturnDirty; with no victim-buffer entry for it, it waits (R173, R178). -/
def State.endBackInv (s : State) (ln : Nat) (t : Txn) : State :=
  let e := s.l3 ln
  match t.data with
  | none => (s.setSf ln .empty).closeTxn ln
  | some d =>
    let (d, m, p) := s.overSlice ln d t.mask t.poison
    let tok := t.token || (e.valid && e.token)
    let fin (s : State) : State := ((s.freeTokenIf (t.token && e.valid && e.token)).setSf ln .empty).closeTxn ln
    if fullMask m then (match s.l3Put ln d true p tok 1 with | some s => fin s | none => s)
    else if s.vbFull ln then s else fin ((s.setL3 ln .invalid).vbPush ln d m p tok)

/-- Dirty data that has come home with its last holder gone stays in the L3, with its token (R179, R194). -/
def State.keepDirty (s : State) (ln : Nat) (t : Txn) : Option State :=
  let old := s.l3 ln
  (s.freeTokenIf (t.token && old.valid && old.token)).l3Put ln (t.data.getD 0) true t.poison (t.token || (old.valid && old.token)) 1

/-- What a request for write permission finds of the L3 copy: the copy of an owner that asks is newer than a dirty one in the L3, which goes (R163). -/
def State.takeOwn (s : State) (ln : Nat) (t : Txn) (own : Bool) : State × Txn :=
  if own then ((s.freeTokenIf ((s.l3 ln).valid && (s.l3 ln).token)).setL3 ln .invalid, t) else s.takeL3 ln t

/-- The snoop-filter entry of a line with one holder more, in the way that its transaction has kept. -/
def SfEntry.inWayOf (e : SfEntry) (t : Txn) : SfEntry := if e.present then e else { e with way := t.way.getD e.way }

/-- Completes the answer of a transaction whose snoops are answered and whose data is there. DESIGN CHOICE: a line that a LineRead brings into the L3 from the victim
buffer enters at re-reference value 2, as one from memory does; R174 gives no value for it (log entry 169). -/
def State.respond (s : State) (ln : Nat) (t : Txn) : State :=
  let f := t.req
  let e := (s.sf ln).inWayOf t
  let only : SfEntry := sfOnly f.who true e.way
  match f.op with
  | .lineRead | .prefetchRead =>
    let gst : Moesi := if (e.agents.any fun a => decide (a ≠ f.who)) || t.fwd then .s else .e
    let sf := { e.add f.who with owner := if gst = .e then some f.who else e.owner }
    let t' := { t with dirty := false, token := false }
    if t.fwd then s.grantTo ln t' gst none sf else
    let old := s.l3 ln
    match (if t.dirty then s.keepDirty ln t
      else if old.valid then some (s.setL3 ln { old with rrpv := 0 })
      else s.l3Put ln (t.data.getD 0) false t.poison false 2) with
    | none => s
    | some s => s.grantTo ln t' gst t.data sf
  | .lineOwn | .prefetchOwn =>
    let (s, t) := s.takeL3 ln t
    s.grantTo ln t (if t.dirty then .m else .e) (if t.fwd then none else t.data) only
  | .linePromote =>
    let held := s.promotes f ln
    let own := held && e.owner == some f.who
    let (s, t) := s.takeOwn ln t own
    s.grantTo ln t (if t.dirty || own then .m else .e) (if held || t.fwd then none else t.data) only
  | .lineClaim =>
    let (s, t) := s.takeOwn ln t (e.owner == some f.who)
    s.grantTo ln t .e t.data only
  | .maskFill =>
    ((s.send { reply s f .dataGrant (if t.poison then 4 else 0) with
      data := t.data, mask := BitVec.allOnes 64, gst := .m, who := f.who, poison := t.poison, size := 2 })).closeTxn ln
  | .cleanKeep | .cleanDrop | .discardLine => s.cleanFinish ln t
  | .readNc =>
    let ans := { reply s f .readReturn (if t.poison then 4 else 0) with data := t.data, mask := f.mask, poison := t.poison }
    (match (if t.dirty then s.keepDirty ln t else some s) with
    | none => s
    | some s => (s.send ans).closeTxn ln)
  | .writeNc =>
    if t.c1 then
      let new := mergeLine (t.data.getD 0) (f.data.getD 0) f.mask
      (s.writeFinish ln t new (f.poison || (t.poison && !(fullMask f.mask))) (reply s f .writeDone 0)).getD s
    else
      let s := (s.killResv (64 * ln) none).memWriteReq (some f) ln (f.data.getD 0) f.mask f.poison false
      let s := s.setTxn ln (some { t with mem := 1, done := true })
      if f.ewa then (s.send (reply s f .writeDone 0)).trackEwa (sliceNode (homeSlice (64 * ln))) f else s
  | .atomicNc =>
    let (new, old) := atomicLine f (t.data.getD 0)
    let ans := { reply s f .readReturn (if t.poison then 4 else 0) with data := some (atOffset (f.addr.toNat % 64) old), mask := f.mask, poison := t.poison }
    if t.c1 then
      if t.poison || casFails f (t.data.getD 0) then (match s.putBack ln t with | some s => (s.send ans).closeTxn ln | none => s)
      else (s.writeFinish ln t new false ans).getD s
    else if t.poison || casFails f (t.data.getD 0) then (s.send ans).closeTxn ln else
      let s := (s.killResv (64 * ln) none).memWriteReq (some f) ln new (BitVec.allOnes 64) false false
      (s.send ans).setTxn ln (some { t with mem := 1, done := true })
  | .unused => s.endBackInv ln t
  | _ => s.closeTxn ln

/-- Moves a transaction on: fetches what is missing of the line from the slice or from memory, then answers (R163, R169). -/
def State.advance (s : State) (ln : Nat) : State :=
  match s.txn ln with
  | none => s
  | some t =>
    if t.waits ≠ [] || t.mem ≠ 0 || t.done then s else
    if !(s.wantsData t ln) || (t.data.isSome && fullMask t.mask) then s.respond ln t else
    let c1 := t.c1 || !(t.req.op == .readNc || t.req.op == .writeNc || t.req.op == .atomicNc)
    match if c1 then s.sliceData ln else none with
    | some (d, m, p) =>
      let d' := match t.data with | some x => mergeLine d x t.mask | none => d
      let m' := match t.data with | some _ => m ||| t.mask | none => m
      let t := { t with data := some d', mask := m', poison := t.poison || p }
      let s := s.countSlice ln (if (s.l3 ln).valid then 2 else 3) t.req
      let s := if (s.l3 ln).valid then s.setL3 ln { s.l3 ln with rrpv := 0 } else s
      if fullMask m' then (s.setTxn ln (some t)).respond ln t
      else ((s.setTxn ln (some { t with mem := 1 }))).memReadReq t.req ln
    | none => ((s.setTxn ln (some { t with mem := 1 }))).memReadReq t.req ln

/-- Sends the probes of a plan. -/
def State.sendProbes (s : State) (f : Flit) (ln : Nat) : List (MsgOp × Nat) → State
  | [] => s
  | (op, a) :: t => ((s.countSlice ln 5 f).send (probeFlit f ln op a)).sendProbes f ln t

/-- A fresh transaction for a request: a clean operation brings the requester's own dirty data, which counts while the requester is still the
line's owner, `cur` (log entry 7). -/
def newTxn (f : Flit) (waits : List Nat) (cur : Bool) : Txn :=
  let clean := cur && (f.op == .cleanKeep || f.op == .cleanDrop)
  { req := f, waits := waits, mem := 0, ack := false, data := if clean then f.data else none, mask := if clean then f.mask else 0,
    dirty := clean && f.data.isSome, poison := clean && f.poison, token := clean && f.token, fwd := false, done := false, way := none, seen := [],
    c1 := true, held := false }

/-- Serves a ReturnDirty: from the line's owner it is kept in the L3, or goes to memory when it is streaming or the way group
closes; from an agent that a snoop has overtaken it is discarded (R163, R179, R181, R191, R194, R464). `none`: waits for an entry. -/
def State.serveReturnDirty (s : State) (f : Flit) (ln : Nat) : Option State :=
  let e := s.sf ln
  let a := f.who
  let ack (sup : Bool) : Flit := { mkFlit .returnAck f.dst f.src f.addr.toNat with fwd := sup, who := a, tag := f.tag }
  if e.owner ≠ some a then some (s.send (ack true)) else
  let old := s.l3 ln
  let (d, m, p) := s.overSlice ln (f.data.getD 0) f.mask f.poison
  let token := f.token || (old.valid && old.token)
  let s := (s.setSf ln (e.drop a)).freeTokenIf (f.token && old.valid && old.token)
  if f.fwd || !(fullMask m) || (s.heldAt (64 * ln) && !token) then
    if s.vbFull ln then none else some (((s.setL3 ln .invalid).vbPush ln d m p token).send (ack false))
  else (s.l3Put ln d true p token 1).map fun s => s.send (ack false)

/-- Whether a request adds its sender to the line's holders. -/
def addsHolder (op : MsgOp) : Bool := forwards op || op == .lineClaim

/-- Opens a request's transaction on a line with none open (R167). A request that needs a snoop-filter entry keeps a way of the set for it; in a full set the
victim's line is first invalidated everywhere, and the request goes on being the first of its line (R173). `none`: the request stays in its tracker. -/
def State.openTxn (s : State) (f : Flit) (ln : Nat) : Option State :=
  match f.op with
  | .returnDirty => s.serveReturnDirty f ln
  | .returnClean => some (s.setSf ln ((s.sf ln).drop f.who))
  | _ =>
    let w := if addsHolder f.op && !(s.sf ln).present then s.sfWay ln else none
    if addsHolder f.op && !(s.sf ln).present && w.isNone then
      match s.sfVictim ln with
      | some v =>
        if (s.txn v).isSome then none else
        let s := s.countSlice v 6 f
        let k := { mkFlit .unused f.dst f.dst (64 * v) with who := 1023, vc := f.vc }
        let hs := (s.sf v).agents
        let s := (s.setTxn v (some (newTxn k hs false))).sendProbes k v (hs.map fun a => (.probeKill, a))
        some { s with coh := { s.coh with waitq := f :: s.coh.waitq } }
      | none => none
    else
      let plan := s.probePlan f ln
      let t := { newTxn f (plan.map Prod.snd) ((s.sf ln).owner == some f.who) with way := w, c1 := s.homeC f.addr.toNat, held := s.heldAt (64 * ln) }
      some (((s.setTxn ln (some t)).sendProbes f ln plan).advance ln)

/-- Whether a guaranteed request waits at a slice that could take it: it goes first (R176). -/
def State.guarFirst (s : State) (f : Flit) : Bool :=
  f.vc != 5 && s.trackerFree (homeSlice (64 * lineOf f.addr.toNat)) true && s.mesh.arrived.any fun g => g.vc == 5 && g.dst == f.dst

/-- A request arrives at its home slice: it opens its transaction, or waits in a tracker behind the line's open one and the requests that wait for it (R167); a
hardware prefetch at a slice with more than 96 trackers in use is dropped (R184); with no tracker left for its class it is not taken (R161, R176). -/
def State.serve (s : State) (f : Flit) : State :=
  let ln := lineOf f.addr.toNat
  let sl := homeSlice (64 * ln)
  if s.guarFirst f then s
  else if (f.op == .prefetchRead || f.op == .prefetchOwn) && decide (96 < s.trackers sl) then
    ((s.accept f).countSlice ln 7 f).send { reply s f .dropped 1 with who := f.who }
  else if !(s.trackerFree sl (f.vc == 5)) && !(f.op == .returnDirty || f.op == .returnClean) then s
  else
    let s := (s.accept f).countSlice ln 1 f
    let s := if f.vc = 5 then s.countSlice ln 0x0A f else s
    let wait (s : State) : State := { s with coh := { s.coh with waitq := s.coh.waitq ++ [f] } }
    if (s.txn ln).isSome || s.coh.waitq.any (fun g => lineOf g.addr.toNat == ln) then wait s else
    match s.openTxn f ln with
    | some s => s
    | none => wait s

/-- An answer to a snoop arrives (R166, R167). A copy that its agent no longer holds, and had dirty, comes with its data to stay at the home (R194). -/
def State.snoopAnswer (s : State) (f : Flit) : State :=
  let ln := lineOf f.addr.toNat
  match s.txn ln with
  | none => s
  | some t =>
    if !(t.waits.contains f.who) then s else
    let op := t.req.op
    let ownerPrev := f.gst == .m || f.gst == .o || f.gst == .e
    let dirtyPrev := f.gst == .m || f.gst == .o
    let share := isRead op || op == .readNc
    let t1 := { t with waits := t.waits.erase f.who, seen := if f.fwd then t.seen else f.who :: t.seen }
    let t2 := match f.data with
      | some d =>
        { t1 with data := some d, mask := f.mask, dirty := t1.dirty || (dirtyPrev && (!share || f.fwd)), poison := t1.poison || f.poison,
                  token := t1.token || f.token }
      | none =>
        if forwards op && ownerPrev && !f.fwd then { t1 with fwd := true, dirty := t1.dirty || (dirtyPrev && !share) } else { t1 with token := t1.token || f.token }
    let e := s.sf ln
    let e := if f.fwd then e.drop f.who
      else if (share && f.gst == .e) || (op == .cleanKeep && f.gst == .o) then { e with owner := none }
      else e
    let s := (s.setSf ln e).setTxn ln (some t2)
    if t2.waits ≠ [] then s else s.advance ln

/-- A memory write that the home awaited has ended, with `ok` false for an error (R155, R167, R169, R187). -/
def State.memEnded (s : State) (ln : Nat) (ok : Bool) : State :=
  match s.txn ln with
  | none => s
  | some t =>
    if t.mem = 0 || !t.done then s else
    let f := t.req
    match f.op with
    | .cleanKeep | .cleanDrop => (s.send { reply s f .grant (if ok then 0 else 3) with who := f.who }).closeTxn ln
    | .writeNc =>
      let ans := if ok then reply s f .writeDone 0 else reply s f .errorReply 3
      if t.c1 then
        let s := (s.l3Put ln (mergeLine (t.data.getD 0) (f.data.getD 0) f.mask) false f.poison false 1).getD s
        (s.send ans).closeTxn ln
      else if f.ewa then (s.endEwa (sliceNode (homeSlice (64 * ln))) f (if ok then 0 else 3)).closeTxn ln
      else (s.send ans).closeTxn ln
    | .atomicNc =>
      if t.c1 then
        let (new, old) := atomicLine f (t.data.getD 0)
        let s := (s.l3Put ln new false false false 1).getD s
        (s.send { reply s f .readReturn 0 with data := some (atOffset (f.addr.toNat % 64) old), mask := f.mask }).closeTxn ln
      else s.closeTxn ln
    | _ => s.closeTxn ln

/-- Data that the home read from memory arrives (R163, R169). -/
def State.memData (s : State) (ln : Nat) (d : Line) (poison : Bool) : State :=
  match s.txn ln with
  | none => s
  | some t =>
    if t.mem = 0 || t.done then s else
    let d' := match t.data with | some x => mergeLine d x t.mask | none => d
    (s.setTxn ln (some { t with mem := 0, data := some d', mask := BitVec.allOnes 64, poison := t.poison || poison })).advance ln

/-- Tries again the transactions of a slice that wait for a victim-buffer entry or a token (R178, R463). -/
def State.retrySlice (s : State) (sl : Nat) : State :=
  ((s.coh.txn.filter fun (k, _) => homeSlice (64 * k) == sl).map Prod.fst).foldl (fun s k => s.advance k) s

end Sys2Proof.Machine
end

