-- ==== Sys2Proof/Machine/Coherence.lean ====
section
/-!
DEFINITION. The coherence commands: requests at the home slice, probes at the holder, grants at the requester
(R163 to R194).
-/
namespace Sys2Proof.Machine

/-! ### Requests at the home slice (R165, R167) -/

/-- LINE_READ: E when no other agent holds the line, else S (R165). -/
def execLineRead (f : Flit) (s : State) : Res := .next (s.onFlit f fun s => s.serve f)
/-- LINE_OWN: M with dirty data, else E (R163, R165). -/
def execLineOwn (f : Flit) (s : State) : Res := .next (s.onFlit f fun s => s.serve f)
/-- LINE_PROMOTE: E from S, M from O, every other copy invalidated (R165). -/
def execLinePromote (f : Flit) (s : State) : Res := .next (s.onFlit f fun s => s.serve f)
/-- LINE_CLAIM: E without data (R165). -/
def execLineClaim (f : Flit) (s : State) : Res := .next (s.onFlit f fun s => s.serve f)
/-- MASK_FILL: the line's data, no change of state (R165, R181). -/
def execMaskFill (f : Flit) (s : State) : Res := .next (s.onFlit f fun s => s.serve f)
/-- CLEAN_KEEP: dirty copies to memory, every copy valid and clean (R187). -/
def execCleanKeep (f : Flit) (s : State) : Res := .next (s.onFlit f fun s => s.serve f)
/-- CLEAN_DROP: as CLEAN_KEEP, then every copy invalid (R187). -/
def execCleanDrop (f : Flit) (s : State) : Res := .next (s.onFlit f fun s => s.serve f)
/-- DISCARD_LINE: every copy invalid, dirty data discarded (R187). -/
def execDiscardLine (f : Flit) (s : State) : Res := .next (s.onFlit f fun s => s.serve f)
/-- PREFETCH_READ: a LineRead that a busy slice drops (R184). -/
def execPrefetchRead (f : Flit) (s : State) : Res := .next (s.onFlit f fun s => s.serve f)
/-- PREFETCH_OWN: a LineOwn that a busy slice drops (R184). -/
def execPrefetchOwn (f : Flit) (s : State) : Res := .next (s.onFlit f fun s => s.serve f)
/-- RETURN_DIRTY: an M or O line with its mask and token comes home (R163, R165). -/
def execReturnDirty (f : Flit) (s : State) : Res := .next (s.onFlit f fun s => s.serve f)
/-- RETURN_CLEAN: an E or S holder is gone; the L3 does not change (R163, R194). -/
def execReturnClean (f : Flit) (s : State) : Res := .next (s.onFlit f fun s => s.serve f)

/-- HOME_TRANSACTION_OPEN: the first request that waits for the line opens its transaction once none is open (R167). -/
def execHomeTransactionOpen (a : La) (s : State) : Res :=
  let ln := lineOf a.toNat
  .next (match s.coh.waitq.find? fun f => lineOf f.addr.toNat == ln with
  | none => s
  | some f =>
    if (s.txn ln).isSome then s else
    (({ s with coh := { s.coh with waitq := s.coh.waitq.erase f } }).openTxn f ln).getD s)

/-! ### Probes at the holder (R166) -/

/-- Whether the agent's copy is only the one in its write-back buffer (R194). -/
def State.fromWb (s : State) (a ln : Nat) : Bool := (s.l2 a ln).st == .i

/-- The answers to a ProbeShare: M goes to O, E to S, O and S stay; M, O and E forward the data (R166, R181). A copy in the write-back buffer, whose ReturnDirty will be
discarded, comes home with its token, for the home to keep and to grant (R194; log entry 42). -/
def State.probeShare (s : State) (f : Flit) (a : Nat) : State :=
  let ln := lineOf f.addr.toNat
  let c := s.holderLine a ln
  match c.st with
  | .i | .s => s.send (answerFlit f .probeAck a c)
  | st =>
    if s.fromWb a ln then (s.setHolder a ln { c with st := .i, token := false }).send { answerData f a c c.token with fwd := true } else
    let s := s.setHolder a ln (c.downTo (if st = .e then .s else .o))
    if !f.fwd || !(fullMask c.mask) then s.send (answerData f a c false)
    else (s.send (forwardFlit f a c .s false)).send (answerFlit f .probeAck a c)

/-- The answers to a ProbeTake: every holder goes to I; M, O and E forward data, M and O with the token (R166). -/
def State.probeTake (s : State) (f : Flit) (a : Nat) : State :=
  let ln := lineOf f.addr.toNat
  let c := s.holderLine a ln
  let s := s.setHolder a ln { c with st := .i }
  match c.st with
  | .i | .s => s.send (answerFlit f .probeAck a c)
  | st =>
    if !f.fwd || !(fullMask c.mask) then s.send (answerData f a c c.token)
    else (s.send (forwardFlit f a c (if st = .e then .e else .m) c.token)).send (answerFlit f .probeAck a c)

/-- The answers to a ProbeKill: every holder goes to I; M and O send data and token home, or for a DiscardLine discard the data and
free the token (R166). -/
def State.probeKill (s : State) (f : Flit) (a : Nat) : State :=
  let ln := lineOf f.addr.toNat
  let c := s.holderLine a ln
  let s := s.setHolder a ln { c with st := .i }
  if c.dirtyLine then
    if f.size = 1 then (s.freeTokenIf c.token).send (answerFlit f .probeAck a c)
    else s.send (answerData f a c c.token)
  else s.send (answerFlit f .probeAck a c)

/-- The answers to a ProbeClean: M goes to E and O to S, with data and token home for a memory write; E and S do not change (R166). -/
def State.probeClean (s : State) (f : Flit) (a : Nat) : State :=
  let ln := lineOf f.addr.toNat
  let c := s.holderLine a ln
  if c.dirtyLine then
    -- a copy in the write-back buffer is marked miss: its ReturnDirty is superseded (R194)
    (s.setHolder a ln { c.downTo (if s.fromWb a ln then .i else if c.st = .m then .e else .s) with token := false }).send
      { answerData f a c c.token with fwd := s.fromWb a ln }
  else s.send (answerFlit f .probeAck a c)

/-- Runs `p` for the agent that a probe reaches. -/
def State.atAgent (s : State) (f : Flit) (p : State → Nat → State) : State :=
  match agentOfNode f.dst with
  | some a => s.onFlit f fun s => p (s.accept f) a
  | none => s

/-- PROBE_SHARE (R166). -/
def execProbeShare (f : Flit) (s : State) : Res := .next (s.atAgent f fun s a => s.probeShare f a)
/-- PROBE_TAKE (R166); deferred while the block is under a fresh reservation (R144). -/
def execProbeTake (f : Flit) (s : State) : Res :=
  .next (if (agentOfNode f.dst).any fun a => s.deferred a (lineOf f.addr.toNat) then s else s.atAgent f fun s a => s.probeTake f a)
/-- PROBE_KILL (R166); deferred as PROBE_TAKE is (R144). -/
def execProbeKill (f : Flit) (s : State) : Res :=
  .next (if (agentOfNode f.dst).any fun a => s.deferred a (lineOf f.addr.toNat) then s else s.atAgent f fun s a => s.probeKill f a)
/-- PROBE_CLEAN (R166). -/
def execProbeClean (f : Flit) (s : State) : Res := .next (s.atAgent f fun s a => s.probeClean f a)

/-- PROBE_ACK: an answer without data for the home (R166, R167). -/
def execProbeAck (f : Flit) (s : State) : Res := .next (s.onFlit f fun s => (s.accept f).snoopAnswer f)
/-- PROBE_DATA: an answer with data or a token for the home (R166, R167). -/
def execProbeData (f : Flit) (s : State) : Res := .next (s.onFlit f fun s => (s.accept f).snoopAnswer f)

/-! ### Clean operations of an agent (R54, R55, R187, R188) -/

/-- Sends a clean operation for a line of the agent. A dirty copy's data goes with it (log entry 7). CleanDrop and DiscardLine take the copy out at once: a
dirty one stays in the write-back buffer, where snoops find it, until the home has ended the operation (R187, R194). -/
def State.sendClean (s : State) (h : HartId) (ln : Nat) (op : MsgOp) : State :=
  let a := agentOf h
  let l := s.l2 a ln
  let f := { mkFlit op (agentNode a) (sliceNode (homeSlice (64 * ln))) (64 * ln) with gst := l.st }
  let f := if l.dirtyLine && op != .discardLine then { f with data := some l.data, mask := l.mask, poison := l.poison } else f
  let s := if op = .cleanKeep ∨ l.st = .i then s else
    let s := (s.lineLost a ln).setL2 a ln .invalid
    if l.dirtyLine then { s with coh := { s.coh with wb := s.coh.wb ++ [wbOf a ln l] } } else s
  s.sendReq a ln f (if s.isMould h then some h else none)

/-- Whether a clean operation for the line can be sent now. -/
def State.canClean (s : State) (h : HartId) (ln : Nat) (op : MsgOp) : Bool :=
  let a := agentOf h
  (s.mshr a ln).isNone && !(s.returning a ln) && decide (s.reqCount a < Config.reqTags) && s.guarRoom h &&
    (op == .cleanKeep || !((s.l2 a ln).dirtyLine) || decide (s.wbCount a < 16))

/-- The wait of an instruction for the end of a line's operation: `kind` 1024 a cache-block operation, 1025 one that no interrupt ends (R54, R55, R101, R188), and
from 1026 on XWAY.CINV of way `kind - 1026`. `req` is the operation while it has not been sent. -/
def Hart.waitLine (c : Hart) (ln len kind : Nat) (req : Option Flit) : Hart :=
  { c with uload := c.uload ++
      [{ tag := kind, pa := 64 * ln, size := 64, off := 0, va := 0, dest := .maint, stop := 0, remote := false, len := len, deadline := 0, wait := req }] }

/-- Sends the clean operations of way and drain instructions that have waited for a tag (R54, R55). -/
def State.pump (s : State) (h : HartId) : State :=
  ((s.hart h).uload.filter fun u => u.dest == .maint && u.wait.isSome).foldl (fun s u =>
    if s.canClean h (lineOf u.pa) .cleanKeep then
      (s.updHart h fun c => { c with uload := c.uload.map fun x => if x = u then { u with wait := none } else x }).sendClean h (lineOf u.pa) .cleanKeep
    else s) s

/-- A maintenance operation of an instruction has ended: when it was the last, the instruction retires; XWAY.CINV first takes the lines of its way out of the L2
(R54, R55, R188). -/
def State.maintDone (s : State) (h : HartId) (ln : Nat) : State :=
  let c := s.hart h
  match c.uload.find? fun u => u.dest == .maint && u.wait.isNone && lineOf u.pa == ln with
  | none => s
  | some u =>
    let l := c.uload.erase u
    let s := s.setHart h { c with uload := l }
    if l ≠ [] then s else
    let s := if 1026 ≤ u.tag then s.emptyWay (agentOf h) (u.tag - 1026) else s
    s.updHart h fun c =>
      let c := if c.csrBit 0x320 2 then c else c.csrPut 0xB02 (c.csrRaw 0xB02 + 1)
      { c with pc := c.pc + BitVec.ofNat 64 u.len, seq := c.seq + 1, entry := none, begun := false, early := c.early.filter fun e => decide (c.seq < e.seq) }

/-- The home has ended a clean operation of the agent: its own copy is clean now, and the copy it gave up leaves the write-back buffer; a token
still held there is free, since the memory write has been acknowledged (R179, R187, R188). -/
def State.cleaned (s : State) (a ln : Nat) : State :=
  match s.coh.wb.find? fun e => e.agent == a && e.la == 64 * ln with
  | some e => ({ s with coh := { s.coh with wb := s.coh.wb.erase e } }).freeTokenIf (e.token && e.st != Moesi.i)
  | none =>
    let l := s.l2 a ln
    if l.dirtyLine then ((s.cleanL1 a ln).setL2 a ln { l.downTo (if l.st = .m then .e else .s) with token := false, streaming := false }).freeTokenIf l.token else s

/-! ### Grants at the requester (R165, R166) -/

/-- The GrantAck of a completed grant. -/
def grantAckFlit (f : Flit) (a : Nat) : Flit :=
  let q := mkFlit .grantAck (agentNode a) (sliceNode (homeSlice f.addr.toNat)) f.addr.toNat
  { q with who := a, tag := f.tag }

/-- Whether a grant comes from the home slice, and not from a holder that forwards. -/
def fromHome (f : Flit) : Bool := f.src.sub.val = 1

/-- Data of a line in the agent that asked for it. From the home it completes the grant; forwarded by a holder it waits for the
home's Grant; after a MaskFill it fills the bytes that the mask does not name (R166, R181, R184). DESIGN CHOICE: a line that comes to a shared level already dirty
records core 0 until a core writes it; R104 says nothing of it (log entry 168). -/
def State.fill (s : State) (f : Flit) (a : Nat) : State :=
  let ln := lineOf f.addr.toNat
  let d := f.data.getD 0
  let old := s.l2 a ln
  if f.size = 2 then
    (s.endMshr a ln).setL2 a ln { old with data := mergeLine d old.data old.mask, mask := BitVec.allOnes 64, poison := old.poison || f.poison }
  else
    let op := s.mshr a ln
    let pref := op == some .prefetchRead || op == some .prefetchOwn
    let st : Moesi := if f.size = 1 && f.gst == .e then .m else f.gst
    let c := { CLine.invalid with st := st, data := d, mask := BitVec.allOnes 64, poison := f.poison, token := f.token || old.token, pref := pref }
    let s := s.install a ln c
    if fromHome f then (s.endMshr a ln).send (grantAckFlit f a) else s.mapMshr a ln fun m => { m with got := true }

/-- Permission without data from the home: it completes a forwarded grant, raises a promoted line, or gives an empty line to a LineClaim (R165, R166). A copy that was
dirty stays so. -/
def State.permit (s : State) (f : Flit) (a : Nat) : State :=
  let ln := lineOf f.addr.toNat
  let old := s.l2 a ln
  let s := s.endMshr a ln
  let s := if old.st != .i then s.setL2 a ln { old with st := if old.dirtyLine && f.gst == .e then .m else f.gst, token := old.token || f.token }
    else s.install a ln { CLine.invalid with st := f.gst, mask := 0, streaming := true, token := f.token }
  s.send (grantAckFlit f a)

/-- A grant in a fill buffer goes on: data when the line has room, permission when it needs none and the data forwarded with it has come (R147, R161, R166).
`none`: it waits. -/
def State.tryFill (s : State) (f : Flit) (a : Nat) : Option State :=
  let ln := lineOf f.addr.toNat
  if f.op = .dataGrant then (if f.size = 2 || s.roomFor a ln then some (s.fill f a) else none)
  else if f.fwd && !((s.mshrOf a ln).any (·.got)) then none
  else if s.roomFor a ln then some (s.permit f a) else none

/-- Whether an agent's caches are empty, its write-back buffer too, with no request outstanding. -/
def State.emptied (s : State) (a : Nat) : Bool := (s.agentLines a).isEmpty && s.wbCount a == 0 && s.reqCount a == 0

/-- The caches of a T-core whose reset has done everything else are empty: the reset is over, but for the self-test of a fatal hart (R516). -/
def State.resetEmptied (s : State) (a : Nat) : State :=
  (agentHarts a).foldl (fun s h =>
    let c := s.hart h
    if isT h && c.rstBusy && s.emptied a then
      { (s.setHart h { c with rstBusy := c.fatal }) with coh := { s.coh with noAlloc := tabSet false s.coh.noAlloc a false } }
    else s) s

/-- What waits at an agent goes on when a tag, a buffer entry or a line's place is free: grants in fill buffers, the emptying of its caches (R192), clean
operations (R54, R55). -/
def State.goesOn (s : State) (a : Nat) : State :=
  let mine := s.coh.fills.filter fun f => agentOfNode f.dst == some a
  let s := (mine ++ mine).foldl (fun s f =>
    if !(s.coh.fills.contains f) then s else
    match s.tryFill f a with
    | some s => { s with coh := { s.coh with fills := s.coh.fills.erase f } }
    | none => s) s
  let s := if tabGet false s.coh.noAlloc a then (s.emptyMore a).resetEmptied a else s
  ((agentHarts a).filter fun h => (s.hart h).uload.any fun u => u.dest == .maint && u.wait.isSome).foldl (fun s h => s.pump h) s

/-- A grant arrives at the agent that asked: a response is always taken (R204). The core that a dirty line from elsewhere records: see `State.fill` (log entry 168). -/
def State.takeGrant (s : State) (f : Flit) (a : Nat) : State :=
  if (s.mshrOf a (lineOf f.addr.toNat)).isNone then s else
  let s := s.accept f
  (match s.tryFill f a with
  | some s => s
  | none => { s with coh := { s.coh with fills := s.coh.fills ++ [f] } }).goesOn a

/-- DATA_GRANT (R166). -/
def execDataGrant (f : Flit) (s : State) : Res :=
  .next (match agentOfNode f.dst with | some a => s.onFlit f fun s => s.takeGrant { f with op := .dataGrant } a | none => s)

/-- GRANT: permission without data. It ends a maintenance operation, or grants (R165, R166, R188). -/
def State.takePermission (s : State) (f : Flit) (a : Nat) : State :=
  let ln := lineOf f.addr.toNat
  match s.mshr a ln with
  | some .cleanKeep | some .cleanDrop | some .discardLine =>
    (((agentHarts a).filter fun h => (s.hart h).uload ≠ []).foldl (fun s h => s.maintDone h ln) (((s.accept f).endMshr a ln).cleaned a ln)).goesOn a
  | _ => s.takeGrant f a

/-- GRANT (R166). -/
def execGrant (f : Flit) (s : State) : Res :=
  .next (match agentOfNode f.dst with | some a => s.onFlit f fun s => s.takePermission { f with op := .grant } a | none => s)

/-- GRANT_ACK: the read's transaction closes (R167). -/
def execGrantAck (f : Flit) (s : State) : Res :=
  let ln := lineOf f.addr.toNat
  .next (s.onFlit f fun s => match s.txn ln with
  | some t => if t.ack && t.req.who == f.who then ((s.accept f).closeTxn ln).retrySlice (homeSlice (64 * ln)) else s
  | none => s)

/-- RETURN_ACK: the write-back buffer entry frees (R194). -/
def execReturnAck (f : Flit) (s : State) : Res :=
  .next (match agentOfNode f.dst with
  | none => s
  | some a => s.onFlit f fun s =>
    match s.coh.wb.find? fun e => e.agent == a && lineOf e.la == lineOf f.addr.toNat with
    | none => s
    | some e => let s := s.accept f; ({ s with coh := { s.coh with wb := s.coh.wb.erase e } }).goesOn a)

/-- DROPPED: a prefetch was dropped; nothing is filled (R184, R401). -/
def execDropped (f : Flit) (s : State) : Res :=
  .next (match agentOfNode f.dst with
  | some a => s.onFlit f fun s => (((s.accept f).endMshr a (lineOf f.addr.toNat)).eventL2 a 0x1A).goesOn a
  | none => s)

/-! ### Victim buffer (R177, R178) -/

/-- VICTIM_WRITE_ISSUE: the oldest entry of the line sends its memory write, once no earlier write of the line is unacknowledged (R177). -/
def execVictimWriteIssue (a : La) (s : State) : Res :=
  let ln := lineOf a.toNat
  .next (match s.coh.vb.find? fun e => e.la == 64 * ln with
  | none => s
  | some e =>
    if e.issued then s else
    let vb := s.coh.vb.map fun x => if x = e then { x with issued := true } else x
    ({ s with coh := { s.coh with vb := vb } }).memWriteReq none ln e.data e.mask e.poison e.token)

/-- The channel has acknowledged a victim's write: the entry and its token are free, and what waited goes on (R178, R179). -/
def State.victimFreed (s : State) (ln : Nat) (ok : Bool) : State :=
  match s.coh.vb.find? fun e => e.la == 64 * ln with
  | none => s
  | some e =>
    if !e.issued then s else
    let s := ({ s with coh := { s.coh with vb := s.coh.vb.erase e } }).freeTokenIf e.token
    (if e.txn then s.memEnded ln ok else s).retrySlice (homeSlice (64 * ln))

/-- The channel's acknowledgement that waits at the slice for the line, if any. -/
def State.acceptWriteDone (s : State) (ln : Nat) : State :=
  match s.mesh.arrived.find? fun f => (f.op == .writeDone || f.op == .errorReply) && f.dst == sliceNode (homeSlice (64 * ln)) && f.tag == 1 && lineOf f.addr.toNat == ln with
  | some f => s.accept f
  | none => s

/-- VICTIM_ENTRY_FREED (R178). -/
def execVictimEntryFreed (a : La) (ok : Bool) (s : State) : Res :=
  let ln := lineOf a.toNat
  .next (if s.coh.vb.any fun e => e.la == 64 * ln && e.issued then (s.acceptWriteDone ln).victimFreed ln ok else s)

end Sys2Proof.Machine
end

