-- ==== Sys2Proof/Machine/Rs.lean ====
section
/-!
DEFINITION. The Reed-Solomon code of the memory channels (R232 to R235): arithmetic in GF(2^8), the check symbols, and the decoder. A stored line is a codeword but for
the error pattern that its `LineMark` holds, and the decoder's result depends on that pattern alone, since the code is linear.
-/
namespace Sys2Proof.Machine

/-! ### GF(2^8) with x^8 + x^4 + x^3 + x^2 + 1 (R233) -/

/-- Multiplication by α. -/
def gfX (a : Nat) : Nat := if a < 128 then 2 * a else (2 * a) ^^^ 0x11D
def gfMul (a b : Nat) : Nat := ((List.range 8).foldl (fun (p, x) i => (if b.testBit i then p ^^^ x else p, gfX x)) (0, a)).1
def gfAlphaN : Nat → Nat | 0 => 1 | n + 1 => gfX (gfAlphaN n)
/-- A power of α. -/
def gfAlpha (n : Nat) : Nat := gfAlphaN (n % 255)
/-- The inverse of a nonzero element: its 254th power. -/
def gfInv (a : Nat) : Nat := ((List.range 7).foldl (fun (p, x) _ => (gfMul p (gfMul x x), gfMul x x)) (1, a)).1
/-- A polynomial's value; coefficient `i` is the list's element `i`. -/
def gfEval (p : List Nat) (x : Nat) : Nat := p.foldr (fun c v => c ^^^ gfMul v x) 0

/-! ### The code (R233) -/

/-- Symbols of a codeword: 64 of data, 4 of address, 8 of check. DESIGN CHOICE: symbol `i` is the coefficient of x^(75 - i), in that order (log entry 162). -/
def rsLen : Nat := 76
/-- The power of x of a symbol. -/
def rsDeg (i : Nat) : Nat := 75 - i
/-- The generator with roots α^0 to α^(n - 1); highest coefficient first, without the leading 1. -/
def rsGen (n : Nat) : List Nat :=
  ((List.range n).foldl (fun g k => ((g ++ [0]).zip (0 :: g)).map fun (a, b) => a ^^^ gfMul b (gfAlpha k)) [1]).drop 1
/-- The `n` check symbols of a message. -/
def rsSymbols (n : Nat) (msg : List Nat) : List Nat :=
  msg.foldl (fun r m =>
    let f := m ^^^ r.headD 0
    ((r.drop 1 ++ [0]).zip (rsGen n)).map fun (a, g) => a ^^^ gfMul f g) (List.replicate n 0)
/-- The 8 check symbols of 64 data and 4 address symbols. -/
def rsCheck (msg : List Nat) : List Nat := rsSymbols 8 msg

/-- The 8 syndromes of an error pattern. -/
def rsSyndromes (e : List Nat) : List Nat :=
  let nz := (e.zipIdx).filter fun (v, _) => v != 0
  (List.range 8).map fun k => nz.foldl (fun s (v, i) => s ^^^ gfMul v (gfAlpha (k * rsDeg i))) 0

/-- State of the search for the shortest error locator: the locator, the one before its last change of length, its length, the steps since, and the discrepancy then. -/
structure RsLoc where
  c : List Nat
  b : List Nat
  len : Nat
  gap : Nat
  disc : Nat
  deriving DecidableEq, Repr

/-- One step of the search, for syndrome `n`. -/
def RsLoc.step (s : List Nat) (l : RsLoc) (n : Nat) : RsLoc :=
  let d := (List.range (l.len + 1)).foldl (fun d i => d ^^^ gfMul (l.c.getD i 0) (s.getD (n - i) 0)) 0
  if d = 0 then { l with gap := l.gap + 1 } else
  let q := gfMul d (gfInv l.disc)
  let sh := List.replicate l.gap 0 ++ l.b.map fun v => gfMul q v
  let c := (List.range (max l.c.length sh.length)).map fun i => l.c.getD i 0 ^^^ sh.getD i 0
  if 2 * l.len ≤ n then { c := c, b := l.c, len := n + 1 - l.len, gap := 1, disc := d } else { l with c := c, gap := l.gap + 1 }

/-- The corrections of an error pattern, symbol and value: at most 3, or none where the pattern is uncorrectable. -/
def rsFix (e : List Nat) : Option (List (Nat × Nat)) :=
  let s := rsSyndromes e
  if s.all fun v => v == 0 then some [] else
  let l := (List.range 8).foldl (RsLoc.step s) { c := [1], b := [1], len := 0, gap := 1, disc := 1 }
  let at_ (i : Nat) : Nat := gfAlpha (255 - rsDeg i)
  let roots := (List.range rsLen).filter fun i => gfEval l.c (at_ i) == 0
  if 3 < l.len ∨ roots.length ≠ l.len then none else
  let omega := (List.range 8).map fun k => (List.range (k + 1)).foldl (fun v j => v ^^^ gfMul (s.getD (k - j) 0) (l.c.getD j 0)) 0
  let deriv := (List.range (l.c.length - 1)).map fun j => if j % 2 = 0 then l.c.getD (j + 1) 0 else 0
  some (roots.map fun i => (i, gfMul (gfAlpha (rsDeg i)) (gfMul (gfEval omega (at_ i)) (gfInv (gfEval deriv (at_ i))))))

/-! ### Lines (R234, R235) -/

/-- The error pattern of a stored line: data, address, check; `inv` inverts the check symbols once more. -/
def LineMark.pattern (m : LineMark) (inv : Bool) : List Nat :=
  let byte (v i : Nat) : Nat := (v >>> (8 * i)) % 256
  let x := if m.poison != inv then 255 else 0
  (List.range 64).map (byte m.err.toNat) ++ (List.range 4).map (byte m.aerr.toNat) ++ (List.range 8).map fun i => byte m.err.toNat (64 + i) ^^^ x

/-- What reading a stored line gives: the correction of its data, or no correction; `addr`: a correction would fall on an address symbol. -/
inductive Decoded where
  | clean
  | corrected (fix : Line)
  | poisoned (fix : Line)
  | bad (addr : Bool)
  deriving DecidableEq, Repr

/-- The data bytes of a list of corrections. -/
def fixLine (l : List (Nat × Nat)) : Line := BitVec.ofNat 512 ((l.map fun (i, v) => if i < 64 then v * 2 ^ (8 * i) else 0).sum)
/-- Whether a correction falls on an address symbol. -/
def fixAddr (l : List (Nat × Nat)) : Bool := l.any fun (i, _) => decide (64 ≤ i) && decide (i < 68)

/-- Decodes a line as it is stored, and where that fails with the poison mark removed (R234, R235). -/
def LineMark.decode (m : LineMark) : Decoded :=
  if m = .clean then .clean else
  let again (addr : Bool) : Decoded := match rsFix (m.pattern true) with | some l => if fixAddr l then .bad addr else .poisoned (fixLine l) | none => .bad addr
  match rsFix (m.pattern false) with
  | some [] => .clean
  | some l => if fixAddr l then again true else .corrected (fixLine l)
  | none => again false

/-- The data bytes that lie in the array, errors included. -/
def LineMark.raw (m : LineMark) (d : Line) : Line := d ^^^ m.err.setWidth 512
/-- The data that reading gives for the stored bytes, corrected where they are. -/
def LineMark.read (m : LineMark) (d : Line) : Line := match m.decode with | .corrected x | .poisoned x => m.raw d ^^^ x | _ => m.raw d
/-- Whether reading the line gives poison. -/
def LineMark.lost (m : LineMark) : Bool := match m.decode with | .poisoned _ | .bad _ => true | _ => false

end Sys2Proof.Machine
end

