-- ==== Sys2Proof/Machine/Gddr6.lean ====
section
/-!
DEFINITION. The GDDR6 channel controllers: queues, line accesses, in-line error correction, link retry, refresh, scrub, page counters and
injection (R225 to R264). The accesses to DRAM devices are one line each; device timing is outside the model.
-/
namespace Sys2Proof.Machine


/-- Rows of a bank for a population (R227). -/
def rowsOf (map : BitVec 32) : Nat :=
  match fld map 23 20, map.getLsbD 19 with
  | 2, true => 131072 | 2, false => 65536 | _, true => 65536 | _, false => 32768

def MemReq.isWrite (r : MemReq) : Bool := match r.kind with | .write | .masked | .repair => true | _ => false
def MemReq.ln (r : MemReq) : Nat := r.la / 64

/-- Key of a page of the channel, and of the check line that covers a data line (R232). -/
def pageKey (bank row : Nat) : Nat := row * 16 + bank
def checkKey (r : MemReq) : Nat := pageKey r.bank r.row * 4 + r.line / 8

/-! ### Answers to the home slice -/

/-- An answer travels in RSP, or in GX to a request of the guaranteed class (R203, R204). -/
def memReply (ch : Nat) (r : MemReq) (op : MsgOp) : Flit :=
  let f : Flit := { mkFlit op (chanNode ch) r.src r.la with tag := r.tag }
  if r.guar then { f with vc := (7 : Fin 8) } else f
def readAnswer (ch : Nat) (r : MemReq) (d : Line) (poison : Bool) : Flit :=
  { memReply ch r .readReturn with data := some d, poison := poison, sts := (if poison then 4 else 0 : BitVec 8) }

/-! ### Page retirement (R256, R438, R440) -/

/-- Retires a page in the journal, with its notices, unless it is retired already or the journal is full. -/
def State.retirePage (s : State) (ch bank row cause : Nat) : State :=
  if (s.dram.retired.any fun r => r.ch == ch && r.bank == bank && r.row == row) || decide (4096 ≤ s.dram.retired.length) then s else
  let s := { s with dram := { s.dram with retired := s.dram.retired ++ [(⟨ch, bank, row, cause⟩ : Retired)] } }
  let s := s.notice 1 (ch * 2 ^ 24 + bank * 2 ^ 20 + row)
  if s.dram.retired.length = 3840 then s.notice 0x0C 3840 else s

/-! ### Error correction (R233 to R237) -/

def State.mark (s : State) (la : Nat) : LineMark := tabGet .clean s.dram.marks (la / 64)
def State.setMark (s : State) (la : Nat) (m : LineMark) : State := { s with dram := { s.dram with marks := tabSet .clean s.dram.marks (la / 64) m } }

/-- A of R233 for a line: its channel, page and line. -/
def rsAddr (p : DramPos) : Nat := 2 ^ 26 * p.chan + 32 * (16 * p.row + p.bank) + p.line
/-- The 8 check bytes that lie in the array for a data line (R232, R233, R235). -/
def State.checkBytes (s : State) (p : DramPos) : List Nat :=
  let la := dramAddr s.dram.map p
  let m := s.mark la
  let byte (v i : Nat) : Nat := (v >>> (8 * i)) % 256
  let msg := (List.range 64).map (byte (memLine s.mem.dram la).toNat) ++ (List.range 4).map (byte (rsAddr p ^^^ m.aerr.toNat))
  (rsCheck msg).zipIdx.map fun (v, i) => v ^^^ byte m.err.toNat (64 + i) ^^^ (if m.poison then 255 else 0)
/-- Check line 28 + e of a page: 8 check bytes for each of data lines 8e to 8e + 7, and zeros past line 27 (R232). -/
def State.checkLine (s : State) (ch bank row e : Nat) : Line :=
  BitVec.ofNat 512 (leNat (((List.range 8).flatMap fun i =>
    if 8 * e + i < 28 then s.checkBytes { chan := ch, bank := bank, row := row, line := 8 * e + i } else List.replicate 8 0).map (BitVec.ofNat 8)))

/-- DRAM_UE (R258, R499). -/
def State.dramUe (s : State) (ch : Nat) (r : MemReq) (addr scrub ras : Bool) : State :=
  s.logErr { mkErr 0x03 1 (portStop (ch / 2)) ras with
    sub := ch % 2, pa := some (s.pma.pkgId.toNat * 2 ^ 47 + r.la),
    detail := ch * 2 ^ 56 + r.bank * 2 ^ 52 + r.row * 2 ^ 32 + r.line * 2 ^ 16 + 2 * b2n addr + b2n scrub }

/-- An event of a channel's bank (R411). -/
def State.countChan (s : State) (ch code : Nat) : State := s.count (portStop (ch / 2)) (1 + ch % 2) code 1 none

/-- A corrected read of a page: counters of R255 and R258; a count of 8 is reported to Rennet. -/
def Chan.countPage (c : Chan) (page : Nat) : Chan :=
  let n := ((c.pages.find? fun p => p.1 == page).map Prod.snd).getD 0 + 1
  { c with pages := ((page, n) :: c.pages.filter fun p => p.1 != page).take 16, corrected := c.corrected + 1,
           report := if n = 8 then some page else c.report }

/-- A read or a masked write finds a line that correction mends: the counters of R255, R258 and R411. -/
def State.correctedRead (s : State) (ch : Nat) (r : MemReq) : State :=
  ((s.updChan ch fun c => c.countPage (pageKey r.bank r.row)).countChan ch 8).logCe (portStop (ch / 2))
/-- A read or a masked write finds a line that cannot be corrected: its record, and Rennet retires the page (R237, R256, R258). -/
def State.lostRead (s : State) (ch : Nat) (r : MemReq) (addr scrub ras : Bool) : State :=
  let s := s.dramUe ch r addr scrub ras
  if s.ren.up then s.retirePage ch r.bank r.row 1 else s

/-! ### Queues (R238, R239) -/

/-- Whether a request may take an entry of its bank queue: 32 entries, 2 of them for the guaranteed class alone. -/
def Chan.room (c : Chan) (r : MemReq) : Bool :=
  decide ((c.bankq.filter fun q => q.bank == r.bank).length < if r.guar then 32 else 30)

/-- The youngest queued write of a line. -/
def Chan.writeTo (c : Chan) (la : Nat) : Option MemReq := c.bankq.reverse.find? fun q => q.isWrite && q.la == la

/-- A request enters its bank queue: a write is acknowledged, cancels a pending repair, and takes an armed injection; a read that finds a
queued full write is answered from it; a guaranteed read ends a write phase (R238, R239, R241, R255, R263). -/
def State.enterBank (s : State) (ch : Nat) (r : MemReq) : State :=
  let c := s.chan ch
  if r.isWrite then
    let kind := fld c.injCtl 27 24
    let arm := r.kind != .repair && c.injCtl.getLsbD 31 && [1, 2, 3, 4, 5, 8].contains kind && fld c.injLine 46 6 == r.la / 64 && !((c.reading ++ c.bankq).any fun q => q.inj != 0)
    let r := if arm then { r with inj := kind } else r
    let older (q : MemReq) : Bool := !(q.kind == .repair && q.la == r.la)
    let s := s.setChan ch { c with bankq := c.bankq.filter older ++ [r], repairq := c.repairq.filter older }
    if r.kind = .repair then s else s.send (memReply ch r .writeDone)
  else
    match c.writeTo r.la with
    | some w => if w.kind = .masked then s.setChan ch { c with bankq := c.bankq ++ [r] } else s.send (readAnswer ch r w.data w.poison)
    | none => s.setChan ch { c with bankq := c.bankq ++ [r], writePhase := c.writePhase && !r.guar }

/-- The first request of a staging buffer that may go: requests of one bank go in order (R238). -/
def Chan.nextStaged (c : Chan) (l : List MemReq) : Option MemReq :=
  l.find? fun r => c.room r && (match l.find? fun q => q.bank == r.bank with | some q => q == r | none => false)

/-- Moves staged requests into the bank queues while any may go. DESIGN CHOICE: of requests that may go from several buffers, those of the guaranteed class move first,
then repair writes, then the ordinary ones; R238 gives no order (log entry 163). -/
def State.fillBanks (s : State) (ch : Nat) : Nat → State
  | 0 => s
  | n + 1 =>
    let c := s.chan ch
    match c.nextStaged c.gstaging with
    | some r => State.fillBanks ((s.setChan ch { c with gstaging := c.gstaging.erase r }).enterBank ch r) ch n
    | none =>
      match c.repairq.find? fun r => c.room r with
      | some r => State.fillBanks ((s.setChan ch { c with repairq := c.repairq.erase r }).enterBank ch r) ch n
      | none =>
        match c.nextStaged c.staging with
        | some r => State.fillBanks ((s.setChan ch { c with staging := c.staging.erase r }).enterBank ch r) ch n
        | none => s

/-- A channel that is offline answers at once: reads with poison, writes with an acknowledgement (R253). DESIGN CHOICE: the data bytes of the poisoned answer are zeros;
R253 gives none (log entry 164). -/
def State.offlineAnswer (s : State) (ch : Nat) (r : MemReq) : State :=
  s.send (if r.isWrite then memReply ch r .writeDone else readAnswer ch r 0 true)

/-- The request of a flit. -/
def State.memReqOf (s : State) (kind : MemKind) (f : Flit) : MemReq :=
  let la := f.addr.toNat / 64 * 64
  let p := dramPos s.dram.map la
  { kind := kind, la := la, bank := p.bank, row := p.row, line := p.line, data := f.data.getD 0, mask := f.mask, poison := f.poison,
    guar := f.vc == 7, src := f.src, tag := f.tag, at_ := s.time, inj := 0 }

/-- A flit arrives: a port that is off answers with STS 3 (R454); else it takes a place in its staging buffer, 32 requests or 8 of the guaranteed class, and waits at the stop while there is none
(R238). -/
def State.memArrive (s : State) (ch : Nat) (kind : MemKind) (f : Flit) : State :=
  let c := s.chan ch
  let room := !(s.pow.portOff.getLsbD (ch / 2)) && (c.st == .online || c.st == .shortRetrain) && decide (if f.vc = 7 then c.gstaging.length < 8 else c.staging.length < 32)
  let ev (s : State) (code : Nat) : State := if room then s.count (portStop (ch / 2)) (1 + ch % 2) code 1 (some (flitCounted f)) else s
  let s := ev s (match kind with | .write => 2 | .masked => 3 | _ => 1)
  let s := if kind = .read ∧ f.vc = 7 then ev s 0x0C else s
  let r := s.memReqOf kind f
  if s.pow.portOff.getLsbD (ch / 2) then (s.accept f).send { memReply ch r .errorReply with sts := 3 } else
  match c.st with
  | .offline => (s.accept f).offlineAnswer ch r
  | .online | .shortRetrain =>
    if r.guar then
      if 8 ≤ c.gstaging.length then s else ((s.accept f).setChan ch { c with gstaging := c.gstaging ++ [r] }).fillBanks ch 40
    else if 32 ≤ c.staging.length then s else ((s.accept f).setChan ch { c with staging := c.staging ++ [r] }).fillBanks ch 40
  | _ => s

/-- MEM_READ (R238, R239, R253). -/
def execMemRead (ch : Fin 48) (f : Flit) (s : State) : Res := .next (s.memArrive ch.val .read f)
/-- MEM_WRITE (R237, R238). -/
def execMemWrite (ch : Fin 48) (f : Flit) (s : State) : Res := .next (s.memArrive ch.val .write f)
/-- MEM_WRITE_MASKED: with a full mask it is performed as MemWrite (R237). -/
def execMemWriteMasked (ch : Fin 48) (f : Flit) (s : State) : Res :=
  .next (s.memArrive ch.val (if f.mask = BitVec.allOnes 64 then .write else .masked) f)

/-! ### Line accesses (R236, R237, R240, R241, R249) -/

/-- Whether the retry buffer has room for `n` bursts (R249). -/
def Chan.retryRoom (c : Chan) (n : Nat) : Bool := decide (c.retry.length + n ≤ 16)
/-- A line's two write bursts are driven onto the pins and enter the retry buffer (R249, R252). -/
def Chan.burst (c : Chan) (la : Nat) : Chan := { c with retry := c.retry ++ [(la, 0), (la, 1)], issued := c.issued + 2 }
/-- Name of a check line in the retry buffer: above every local address. -/
def checkLa (k : Nat) : Nat := 2 ^ 47 + 64 * k

/-- A line access uses its check line through the cache of 32 lines; a write leaves it dirty (R236). -/
def Chan.useCheck (c : Chan) (r : MemReq) (write : Bool) : Chan :=
  let k := checkKey r
  let d := write || (c.clc.any fun e => e.1 == k && e.2)
  { c with clc := ((k, d) :: c.clc.filter fun e => e.1 != k).take 32 }
/-- Writes a dirty check line back to DRAM (R236). -/
def Chan.writeBack (c : Chan) (k : Nat) : Chan :=
  let c : Chan := { c with clc := c.clc.map fun e => if e.1 = k then (k, false) else e }
  c.burst (checkLa k)
/-- The dirty check lines of the open row of a bank. -/
def Chan.dirtyIn (c : Chan) (bank : Nat) : List Nat :=
  match tabGet 0 c.open_ bank with
  | 0 => []
  | r + 1 => (c.clc.filter fun e => e.2 && e.1 / 4 == pageKey bank r).map Prod.fst
/-- Whether a bank's row may be closed now: the retry buffer has room for its dirty check lines. -/
def Chan.mayClose (c : Chan) (bank : Nat) : Bool := c.retryRoom (2 * (c.dirtyIn bank).length)
/-- Precharges a bank, after the write-backs of R236. -/
def Chan.closeRow (c : Chan) (bank : Nat) : Chan := { (c.dirtyIn bank).foldl Chan.writeBack c with open_ := tabSet 0 c.open_ bank 0 }
/-- Opens the row of an access; the row before it holds no newer check bytes. -/
def Chan.openRow (c : Chan) (bank row : Nat) : Chan := { c with open_ := tabSet 0 c.open_ bank (row + 1) }

/-- The check line that has to be written back before an access: one of the row that it closes, or the least recently used one that it puts out of the cache (R236). -/
def Chan.before (c : Chan) (r : MemReq) : Option Nat :=
  match if tabGet 0 c.open_ r.bank = r.row + 1 then none else (c.dirtyIn r.bank).head? with
  | some k => some k
  | none =>
    if (c.clc.any fun e => e.1 == checkKey r) || decide (c.clc.length < 32) then none
    else match c.clc.getLast? with | some (k, true) => some k | _ => none

/-- Whether the bank queue holds full-line writes to every data line that the check line of `r` covers (R237). -/
def Chan.covered (c : Chan) (r : MemReq) : Bool :=
  (List.range 8).all fun i =>
    let l := 8 * (r.line / 8) + i
    decide (28 ≤ l) || c.bankq.any fun q => q.kind == .write && q.bank == r.bank && q.row == r.row && q.line == l
/-- Whether an access reads the data line or the check line: every read, every masked write, and a full write whose check line is neither cached nor covered (R237). -/
def Chan.reads (c : Chan) (r : MemReq) : Bool :=
  !r.isWrite || r.kind == .masked || (!(c.clc.any fun e => e.1 == checkKey r) && !(c.covered r))

/-- Stores a write request's line: data, check bytes and poison mark; a masked write merges into what the stored line decodes to; an injection applies and disarms
(R235, R237, R263). -/
def State.performWrite (s : State) (ch : Nat) (r : MemReq) : State :=
  let m := s.mark r.la
  let masked := r.kind == .masked
  let data := if masked then mergeLine (m.read (memLine s.mem.dram r.la)) r.data r.mask else r.data
  let k := r.inj
  let m' : LineMark :=
    { err := BitVec.ofNat 576 (if 1 ≤ k ∧ k ≤ 4 then ((List.range k).map fun i => 2 ^ (8 * i)).sum else 0), poison := r.poison || (masked && m.lost) || k == 5,
      aerr := if k = 8 then 1 else 0 }
  let s := { s with mem := { s.mem with dram := memLinePut s.mem.dram r.la (BitVec.allOnes 64) data } }
  let s := s.setMark r.la m'
  let s := if !masked then s else
    match m.decode with
    | .bad addr => s.lostRead ch r addr false true
    | .corrected _ => s.correctedRead ch r
    | _ => s
  if k = 0 then s else s.updChan ch fun c => { c with injCtl := c.injCtl &&& ~~~0x8000_0000 }

/-- Requests that may be accessed now: nothing older of the same line waits, no burst of the line is on its way, and a read waits for the line's write
CRC (R239, R249, R264). -/
def Chan.free (c : Chan) (r : MemReq) : Bool :=
  (match c.bankq.find? fun q => q.la == r.la with | some q => q == r | none => true) && !(c.reading.any fun q => q.la == r.la) &&
    (r.isWrite || !(c.retry.any fun e => e.1 == r.la))

def Chan.writes (c : Chan) : Nat := (c.bankq.filter fun r => r.isWrite).length
/-- Reads queued. DESIGN CHOICE: a scrub read, which ranks below every other request, is none of the reads that R241 counts as queued or waiting (log entry 165). -/
def Chan.readsWait (c : Chan) : Bool := c.bankq.any fun r => r.kind == .read

/-- Enters the write phase when its conditions hold (R241). -/
def Chan.phaseIn (c : Chan) : Chan :=
  if !c.writePhase && (decide (128 ≤ c.writes) || (!c.readsWait && decide (0 < c.writes))) then { c with writePhase := true, wDone := 0 } else c
/-- Leaves the write phase when its conditions hold (R241). -/
def Chan.phaseOut (c : Chan) : Chan :=
  if c.writePhase && (decide (c.writes ≤ 32) || (decide (64 ≤ c.wDone) && c.readsWait)) then { c with writePhase := false } else c

/-- The access that the channel picks (R240): class, then bank in rotation, then the oldest, or a row hit at most 4 times in a row; a scrub only when
nothing else is a candidate (R254). The second component: whether an older candidate of the bank waits behind it. -/
def Chan.pick (c : Chan) : Option (MemReq × Bool) :=
  let cands := c.bankq.filter fun r => r.isWrite == c.writePhase && c.free r
  let cands := if cands.any fun r => r.guar then cands.filter fun r => r.guar else cands
  let cands := if cands.any fun r => r.kind != .scrub then cands.filter fun r => r.kind != .scrub else cands
  match ((List.range 16).map fun i => (c.lastBank + 1 + i) % 16).find? fun b => cands.any fun r => r.bank == b with
  | none => none
  | some b =>
    let mine := cands.filter fun r => r.bank == b
    match mine with
    | [] => none
    | r :: _ =>
      if tabGet 0 c.open_ b = r.row + 1 || 4 ≤ tabGet 0 c.hits b then some (r, false)
      else match mine.find? fun q => tabGet 0 c.open_ b == q.row + 1 with | some q => some (q, true) | none => some (r, false)

/-- Events of a line access: page hit, miss or conflict, a check-line cache miss, and 64 data bytes for the bandwidth window (R411, R414). -/
def State.countAccess (s : State) (ch : Nat) (c : Chan) (r : MemReq) : State :=
  let s := s.countChan ch (if tabGet 0 c.open_ r.bank = r.row + 1 then 4 else if tabGet 0 c.open_ r.bank = 0 then 5 else 6)
  let s := if c.clc.any fun e => e.1 == checkKey r then s else s.countChan ch 7
  s.bwAdd (portStop (ch / 2)) (1 + ch % 2) 64

/-- A write's bursts are driven and its line is stored; the write phase may end with it (R237, R241, R249). -/
def State.storeReq (s : State) (ch : Nat) (r : MemReq) : State :=
  (((s.updChan ch fun c => Chan.phaseOut { c.burst r.la with wDone := c.wDone + 1 }).performWrite ch r)).fillBanks ch 80

/-- One line access for the request that a channel in phase picks: the write-back that has to come first, its read, or its write; it waits while the retry buffer has no
room for the bursts (R236, R237, R249). -/
def State.lineAccess (s : State) (ch : Nat) (r : MemReq) (late : Bool) : State :=
  let c := s.chan ch
  match c.before r with
  | some k => if c.retryRoom 2 then s.setChan ch (c.writeBack k) else s
  | none =>
    let rd := c.reads r
    if !rd && !(c.retryRoom 2) then s else
    let s := s.countAccess ch c r
    let c := { (c.openRow r.bank r.row).useCheck r r.isWrite with
      bankq := c.bankq.erase r, lastBank := r.bank, hits := tabSet 0 c.hits r.bank (if late then tabGet 0 c.hits r.bank + 1 else 0) }
    if rd then (s.setChan ch { c with reading := c.reading ++ [r] }).fillBanks ch 80
    else (s.setChan ch c).storeReq ch r

/-- CHANNEL_LINE_ACCESS: one line access of an online channel. A read's bursts are then outstanding; a write's two bursts enter the retry buffer
(R240, R249). With no candidate in the write phase, the phase ends where R241 ends it. -/
def execChannelLineAccess (ch : Fin 48) (s : State) : Res :=
  let s := s.fillBanks ch.val 80
  let c := (s.chan ch.val).phaseIn
  let c := if c.pick.isNone then c.phaseOut else c
  .next (if c.st ≠ .online then s else
    match c.pick with
    | none => s.setChan ch.val c
    | some (r, late) => (s.setChan ch.val c).lineAccess ch.val r late)

/-- WRITE_PHASE_TIMEOUT: the oldest write has waited 10 us (R241). -/
def execWritePhaseTimeout (ch : Fin 48) (s : State) : Res :=
  .next (match (s.chan ch.val).bankq.find? fun r => r.isWrite with
  | some r => (s.passTo (r.at_ + 10000)).updChan ch.val fun c => { c with writePhase := true, wDone := 0 }
  | none => s)

/-! ### Link errors (R249 to R253) -/

/-- The channel goes offline: queued and unconfirmed writes and dirty check lines are discarded and counted, waiting requests are answered
(R253, R258). -/
def State.goOffline (s : State) (ch : Nat) : State :=
  let c := s.chan ch
  let lost := c.writes + (c.reading.filter fun r => r.isWrite).length + (c.retry.map Prod.fst).dedup.length + (c.clc.filter fun e => e.2).length
  let waiting := c.gstaging ++ c.staging ++ ((c.reading ++ c.bankq).filter fun r => r.kind == .read)
  let s := s.setChan ch { c with
    st := .offline, staging := [], gstaging := [], bankq := [], reading := [], repairq := [], retry := [], clc := [], writePhase := false, scrubBusy := false }
  let s := waiting.foldl (fun s r => s.offlineAnswer ch r) s
  (s.logErr { mkErr 0x05 3 (portStop (ch / 2)) true with sub := ch % 2, detail := ch + lost * 256 }).notice 2 ch

/-- A replay is counted; 4 failures of one access in a row or 64 replays within 1 ms need a short retrain, which sends the channel offline when the last
one ended less than 1 s ago; the first access after a retrain may not fail (R251). -/
def State.crcFailed (s : State) (ch : Nat) (wr : Bool) : State :=
  let c := s.chan ch
  let at_ := (s.time :: c.replayAt).take 64
  let many := decide (at_.length = 64) && at_.all fun t => decide (s.time ≤ t + 1000000)
  let c' := { c with
    replays := c.replays + 1, streak := if wr then c.streak else c.streak + 1, wstreak := if wr then c.wstreak + 1 else c.wstreak, replayAt := at_ }
  let s := (s.setChan ch c').countChan ch 9
  if c.justRetrained then s.goOffline ch
  else if 4 ≤ c'.streak || 4 ≤ c'.wstreak || many then
    if c.retrainEnd.any fun t => decide (s.time < t + 1000000000) then s.goOffline ch
    else s.setChan ch { c' with st := .shortRetrain, streak := 0, wstreak := 0, replayAt := [] }
  else s

/-- An access passed its CRC. -/
def Chan.crcPassed (c : Chan) (wr : Bool) : Chan :=
  { c with streak := if wr then c.streak else 0, wstreak := if wr then 0 else c.wstreak, justRetrained := false }
/-- An armed injection of the kind is used up (R263). -/
def Chan.injected (c : Chan) (kind : Nat) : Bool := c.injCtl.getLsbD 31 && fld c.injCtl 27 24 == kind
def Chan.disarm (c : Chan) : Chan := { c with injCtl := c.injCtl &&& ~~~0x8000_0000 }

/-- A write of the line that a read has found wrong: the corrected line, or the bytes as they are with the poison mark. It enters its bank queue as an ordinary write
when there is room, unless a newer write of the line is queued (R234, R238, R255). -/
def Chan.repair (c : Chan) (r : MemReq) (data : Line) (poison : Bool) : Chan :=
  if c.bankq.any fun q => q.isWrite && q.la == r.la then c
  else { c with repairq := (c.repairq.filter fun q => q.la != r.la) ++ [{ r with kind := .repair, data := data, mask := BitVec.allOnes 64, poison := poison, guar := false, inj := 0 }] }

/-- Data lines of a channel. -/
def State.scrubLines (s : State) : Nat := rowsOf s.dram.map * 16 * 28

/-- The data and check bytes of a read arrive whole: the line is decoded and answered, and a line found wrong is written again (R234, R254, R255). -/
def State.readDone (s : State) (ch : Nat) (r : MemReq) : State :=
  let scrub := r.kind == .scrub
  let m := s.mark r.la
  let d := m.read (memLine s.mem.dram r.la)
  let answer (s : State) (poison : Bool) : State := if scrub then s else s.send (readAnswer ch r d poison)
  match m.decode with
  | .clean => answer s false
  | .corrected _ =>
    (((answer s false).correctedRead ch r).updChan ch fun c => c.repair r d false).fillBanks ch 80
  | .poisoned _ => answer s true
  | .bad addr =>
    (((answer s true).lostRead ch r addr scrub scrub).updChan ch fun c => c.repair r d true).fillBanks ch 80

/-- READ_BURST_RETURN: the oldest outstanding read's bursts come back. `flips` are the bytes of the stored line that have gone bad since it was last looked at, and what
is wrong in them; `aerr` is the difference of the address that the line was written with. A CRC mismatch makes a replay of the whole access, undecoded; otherwise a read
is decoded, and a write that has read its line or check line goes on to its write (R234, R237, R250, R254). -/
def execReadBurstReturn (ch : Fin 48) (crcOk : Bool) (flips : BitVec 576) (aerr : BitVec 32) (s : State) : Res :=
  let c := s.chan ch.val
  .next (if c.st ≠ .online then s else
    match c.reading with
    | [] => s
    | r :: rest =>
      let hit := c.injected 7
      if hit || !crcOk then (if hit then s.setChan ch.val c.disarm else s).crcFailed ch.val false
      else if r.isWrite && !(c.retryRoom 2) then s else
      let m := s.mark r.la
      let c := { c.crcPassed false with reading := rest }
      let c := if r.kind == .scrub then { c with scrubBusy := false, scrubAt := (c.scrubAt + 1) % max 1 s.scrubLines } else c
      let s := (s.setMark r.la { m with err := m.err ^^^ flips, aerr := m.aerr ^^^ aerr }).setChan ch.val c
      if r.isWrite then s.storeReq ch.val r else s.readDone ch.val r)

/-- WRITE_CRC_RESULT: the device's CRC for the oldest unconfirmed burst (R249, R252). -/
def execWriteCrcResult (ch : Fin 48) (ok : Bool) (s : State) : Res :=
  let c := s.chan ch.val
  .next (if c.st ≠ .online then s else
    match c.retry with
    | [] => s
    | _ :: rest =>
      let hit := c.injected 6
      if hit || !ok then (if hit then s.setChan ch.val c.disarm else s).crcFailed ch.val true
      else s.setChan ch.val { c.crcPassed true with retry := rest, confirmed := c.confirmed + 1 })

/-- SHORT_RETRAIN_DONE: the channel replays, or goes offline when the closing check fails (R251, R258). -/
def execShortRetrainDone (ch : Fin 48) (ok : Bool) (ns : Nat) (s : State) : Res :=
  let c := s.chan ch.val
  .next (if c.st ≠ .shortRetrain then s else
    let s := s.setChan ch.val { c with
      st := .online, retrains := c.retrains + 1, lastRetrain := ns, retrainEnd := some s.time, justRetrained := true, streak := 0, wstreak := 0 }
    let s := s.logErr { mkErr 0x04 0 (portStop (ch.val / 2)) false with sub := ch.val % 2, detail := ch.val + ns % 2 ^ 32 * 2 ^ 16 }
    if ok then s else s.goOffline ch.val)

/-! ### Rows, refresh and tracking (R242, R245, R247) -/

/-- ROW_IDLE_CLOSE (R242). -/
def execRowIdleClose (ch : Fin 48) (bank : Fin 16) (s : State) : Res :=
  .next (s.updChan ch.val fun c =>
    if c.st = .online && !(c.bankq.any fun r => r.bank == bank.val) && !(c.reading.any fun r => r.bank == bank.val) && c.mayClose bank.val then c.closeRow bank.val else c)

/-- REFRESH_DUE: the refresh of a bank whose turn in the rotation it is. With requests queued it is postponed, at most 8 times; a refresh pulled forward earlier counts for
it; an idle bank makes up for what was postponed and pulls one forward, at most 8. During a short retrain no command is sent, and it is postponed (R245, R251). -/
def execRefreshDue (ch : Fin 48) (bank : Fin 16) (s : State) : Res :=
  let before := (s.chan ch.val).refreshes
  let s := s.updChan ch.val fun c =>
    let b := bank.val
    if b ≠ c.refAt then c else
    let next := (b + 1) % 16
    let post := tabGet 0 c.postponed b
    let pull := tabGet 0 c.pulled b
    if c.st = .shortRetrain then { c with postponed := tabSet 0 c.postponed b (post + 1), refAt := next }
    else if c.st ≠ .online then c else
    let busy := c.bankq.any fun r => r.bank == b
    if busy && 0 < pull then { c with pulled := tabSet 0 c.pulled b (pull - 1), refAt := next }
    else if busy && decide (post < 8) then { c with postponed := tabSet 0 c.postponed b (post + 1), refAt := next }
    else if !(c.mayClose b) then c
    else if busy then { c.closeRow b with refreshes := c.refreshes + 1, refAt := next }
    else
      let ahead := if pull < 8 then 1 else 0
      { c.closeRow b with
        refreshes := c.refreshes + post + 1 + ahead, postponed := tabSet 0 c.postponed b 0, pulled := tabSet 0 c.pulled b (pull + ahead), refAt := next }
  .next (s.count (portStop (ch.val / 2)) (1 + ch.val % 2) 0x0D ((s.chan ch.val).refreshes - before) none)

/-- DEVICE_TEMP_READ: TEMP, and HOTREF above 85 C until 80 C or less (R245, R260). -/
def execDeviceTempRead (ch : Fin 48) (temp : BitVec 8) (s : State) : Res :=
  .next (s.updChan ch.val fun c =>
    if c.st = .online ∨ c.st = .shortRetrain then
      { c with temp := temp, hot := if 85 < temp.toInt then true else if temp.toInt ≤ 80 then false else c.hot }
    else c)

/-- WRITE_TIMING_CHECK: one tracking window of channel time, which leaves no state behind (R247). -/
def execWriteTimingCheck (_ch : Fin 48) (s : State) : Res := .next s

/-! ### Scrub and page thresholds (R254 to R256) -/

/-- SCRUB_READ: the next data line of the channel is read, one scrub at a time (R254). -/
def execScrubRead (ch : Fin 48) (s : State) : Res :=
  let c := s.chan ch.val
  .next (if c.st ≠ .online || c.scrubBusy || s.dram.scrubHours = 0 then s else
    let pg := c.scrubAt / 28
    let p : DramPos := { chan := ch.val, bank := pg % 16, row := pg / 16, line := c.scrubAt % 28 }
    let r : MemReq := { kind := .scrub, la := dramAddr s.dram.map p, bank := p.bank, row := p.row, line := p.line, data := 0, mask := 0, poison := false,
                        guar := false, src := chanNode ch.val, tag := 0, at_ := s.time, inj := 0 }
    if c.room r then s.setChan ch.val { c with bankq := c.bankq ++ [r], scrubBusy := true } else s)

/-- PAGE_THRESHOLD: the report reaches Rennet, which retires the page (R255, R256). -/
def execPageThreshold (ch : Fin 48) (s : State) : Res :=
  .next (match (s.chan ch.val).report with
  | some p =>
    if !s.ren.up then s else
    (s.updChan ch.val fun c => { c with report := none }).retirePage ch.val (p % 16) (p / 16) 0
  | none => s)

/-! ### Self-refresh (R248, R257) -/

/-- Enters self-refresh: every queued write is performed, queued reads are discarded, the retry buffer is emptied and dirty check lines go to DRAM. -/
def State.selfRefresh (s : State) (ch : Nat) : State :=
  let c := s.chan ch
  match c.st with
  | .online | .shortRetrain =>
    let staged := (c.gstaging ++ c.staging).filter fun r => r.isWrite
    let ws := ((c.reading ++ c.bankq ++ c.repairq).filter fun r => r.isWrite) ++ staged
    let s := staged.foldl (fun s r => s.send (memReply ch r .writeDone)) (ws.foldl (fun s r => s.performWrite ch r) s)
    let n := 2 * ws.length
    s.updChan ch fun c => { c with
      st := .selfRefresh, staging := [], gstaging := [], bankq := [], reading := [], repairq := [], retry := [], clc := [], open_ := [], writePhase := false,
      scrubBusy := false, issued := c.issued + n, confirmed := c.confirmed + n + c.retry.length, postponed := [], pulled := [] }
  | _ => s
def State.selfRefreshAll (s : State) : State := (List.range 48).foldl (fun s ch => s.selfRefresh ch) s
/-- Back online after self-refresh. -/
def State.wakeChannels (s : State) : State :=
  (List.range 48).foldl (fun s ch => s.updChan ch fun c => if c.st = .selfRefresh then { c with st := .online } else c) s

/-! ### Injection registers (R261 to R263) -/

/-- A write of MC_INJ_CTL. -/
def State.injCtlWrite (s : State) (ch : Nat) (v : BitVec 32) : State :=
  s.updChan ch fun c =>
    let kind := fld v 27 24
    let old := putFld c.injCtl 27 24 kind
    if !(v.getLsbD 31) then { c with injCtl := old } else
    let lineKind := [1, 2, 3, 4, 5, 8].contains kind
    let la := fld c.injLine 46 6 * 64
    let here := areaOf s la == .dram && s.chanOf la == ch
    let armed := (lineKind && here) || kind == 6 || kind == 7
    { c with injCtl := putFld (putFld old 31 31 (b2n armed)) 30 30 (b2n (lineKind && !here)) }

end Sys2Proof.Machine
end

