-- ==== Sys2Proof/Machine/Operands.lean ====
section
/-!
DEFINITION. Operand forms of the cores' instructions and the integer results of RV64I, M, Zba, Zbb, Zbs and Zicond (R41).
-/
namespace Sys2Proof.Machine

/-- The value of a second operand. -/
def Hart.src (c : Hart) : Src → Word
  | .reg r => c.getX r.val
  | .imm v => v

/-- The low `n` bits of a word, sign-extended to 64. -/
def sext (n : Nat) (v : Nat) : Word := (BitVec.ofNat n v).signExtend 64
/-- The low 32 bits, sign-extended (the W forms). -/
def sextW (v : Nat) : Word := sext 32 v
/-- The low 32 bits as a number. -/
def low32 (v : Word) : Nat := v.toNat % 2 ^ 32
/-- A word from an integer, wrapping. -/
def ofI (i : Int) : Word := BitVec.ofInt 64 i

/-- Leading zeros of the low `n` bits. -/
def clzN : Nat → Nat → Nat
  | 0, _ => 0
  | n + 1, v => if v.testBit n then 0 else 1 + clzN n v
/-- Trailing zeros of the low `n` bits. -/
def ctzN : Nat → Nat → Nat
  | 0, _ => 0
  | n + 1, v => if v.testBit 0 then 0 else 1 + ctzN n (v / 2)
/-- Bits set among the low `n`. -/
def popN (n v : Nat) : Nat := ((List.range n).filter fun i => v.testBit i).length

/-- Signed division of the M extension on `n`-bit operands: division by zero gives −1, overflow the dividend. -/
def divS (a b : Int) : Int := if b = 0 then -1 else a.tdiv b
def remS (a b : Int) : Int := if b = 0 then a else a.tmod b
def divU (n a b : Nat) : Nat := if b = 0 then 2 ^ n - 1 else a / b
def remU (a b : Nat) : Nat := if b = 0 then a else a % b

/-- Each byte with any bit set becomes 0xFF. -/
def orcb (a : Word) : Word := BitVec.ofNat 64 (leNat ((List.range 8).map fun i => if byteAt a i = 0 then 0 else 0xFF))
/-- Bytes in reverse order. -/
def rev8 (a : Word) : Word := BitVec.ofNat 64 (leNat ((List.range 8).map fun i => byteAt a (7 - i)))
/-- The low 32 bits rotated right. -/
def rorW (a : Word) (k : Nat) : Word :=
  let v := low32 a
  sextW ((v >>> (k % 32)) ||| (v <<< (32 - k % 32)))

/-- The result of an integer instruction on operands `a` (rs1) and `b` (rs2 or immediate) at `pc`. -/
def intValue (op : IntOp) (a b pc : Word) : Word :=
  let an := a.toNat
  let bn := b.toNat
  let sh := bn % 64
  let shw := bn % 32
  let aw := (BitVec.ofNat 32 an).toInt
  let bw := (BitVec.ofNat 32 bn).toInt
  match op with
  | .add => a + b
  | .sub => a - b
  | .sll => a <<< sh
  | .slt => if a.slt b then 1 else 0
  | .sltu => if a.ult b then 1 else 0
  | .xor => a ^^^ b
  | .srl => a >>> sh
  | .sra => a.sshiftRight sh
  | .or => a ||| b
  | .and => a &&& b
  | .addw => sextW (an + bn)
  | .subw => sextW (a - b).toNat
  | .sllw => sextW (low32 a <<< shw)
  | .srlw => sextW (low32 a >>> shw)
  | .sraw => ((BitVec.ofNat 32 an).sshiftRight shw).signExtend 64
  | .lui => b
  | .auipc => pc + b
  | .mul => a * b
  | .mulh => ofI ((a.toInt * b.toInt) / 2 ^ 64)
  | .mulhsu => ofI ((a.toInt * (bn : Int)) / 2 ^ 64)
  | .mulhu => BitVec.ofNat 64 (an * bn / 2 ^ 64)
  | .div => ofI (divS a.toInt b.toInt)
  | .divu => BitVec.ofNat 64 (divU 64 an bn)
  | .rem => ofI (remS a.toInt b.toInt)
  | .remu => BitVec.ofNat 64 (remU an bn)
  | .mulw => sextW (an * bn)
  | .divw => sextW (ofI (divS aw bw)).toNat
  | .divuw => sextW (divU 32 (low32 a) (low32 b))
  | .remw => sextW (ofI (remS aw bw)).toNat
  | .remuw => sextW (remU (low32 a) (low32 b))
  | .adduw => BitVec.ofNat 64 (low32 a) + b
  | .sh1add => (a <<< 1) + b
  | .sh2add => (a <<< 2) + b
  | .sh3add => (a <<< 3) + b
  | .sh1adduw => (BitVec.ofNat 64 (low32 a) <<< 1) + b
  | .sh2adduw => (BitVec.ofNat 64 (low32 a) <<< 2) + b
  | .sh3adduw => (BitVec.ofNat 64 (low32 a) <<< 3) + b
  | .slliuw => BitVec.ofNat 64 (low32 a) <<< sh
  | .andn => a &&& ~~~b
  | .orn => a ||| ~~~b
  | .xnor => ~~~(a ^^^ b)
  | .clz => BitVec.ofNat 64 (clzN 64 an)
  | .ctz => BitVec.ofNat 64 (ctzN 64 an)
  | .cpop => BitVec.ofNat 64 (popN 64 an)
  | .clzw => BitVec.ofNat 64 (clzN 32 an)
  | .ctzw => BitVec.ofNat 64 (ctzN 32 an)
  | .cpopw => BitVec.ofNat 64 (popN 32 an)
  | .max => if a.slt b then b else a
  | .maxu => if a.ult b then b else a
  | .min => if a.slt b then a else b
  | .minu => if a.ult b then a else b
  | .sextb => sext 8 an
  | .sexth => sext 16 an
  | .zexth => BitVec.ofNat 64 (an % 2 ^ 16)
  | .rol => (a <<< sh) ||| (a >>> (64 - sh))
  | .ror => (a >>> sh) ||| (a <<< (64 - sh))
  | .rolw => rorW a (32 - shw)
  | .rorw => rorW a shw
  | .orcb => orcb a
  | .rev8 => rev8 a
  | .bclr => a &&& ~~~((1 : Word) <<< sh)
  | .bext => if a.getLsbD sh then 1 else 0
  | .binv => a ^^^ ((1 : Word) <<< sh)
  | .bset => a ||| ((1 : Word) <<< sh)
  | .czeroeqz => if b = 0 then 0 else a
  | .czeronez => if b = 0 then a else 0

/-- Significant quotient bits of a division: 0 by zero and for the most negative dividend by −1 (R81, R119). -/
def quotBits (op : IntOp) (a b : Word) : Nat :=
  let mag (i : Int) : Nat := i.natAbs
  let len (n : Nat) : Nat := 64 - clzN 64 n
  let aw := (BitVec.ofNat 32 a.toNat).toInt
  let bw := (BitVec.ofNat 32 b.toNat).toInt
  match op with
  | .div | .rem => if b = 0 ∨ (a.toInt = -2 ^ 63 ∧ b.toInt = -1) then 0 else len (mag a.toInt / mag b.toInt)
  | .divu | .remu => if b = 0 then 0 else len (a.toNat / b.toNat)
  | .divw | .remw => if bw = 0 ∨ (aw = -2 ^ 31 ∧ bw = -1) then 0 else len (mag aw / mag bw)
  | .divuw | .remuw => if low32 b = 0 then 0 else len (low32 a / low32 b)
  | _ => 0

/-- Classes of integer instructions with one latency (R81, R119). -/
inductive IntClass where
  | alu | count | mul | mulh | div64 | div32
  deriving DecidableEq, Repr

def intClass : IntOp → IntClass
  | .clz | .ctz | .cpop | .clzw | .ctzw | .cpopw => .count
  | .mul | .mulw => .mul
  | .mulh | .mulhsu | .mulhu => .mulh
  | .div | .divu | .rem | .remu => .div64
  | .divw | .divuw | .remw | .remuw => .div32
  | _ => .alu

/-- Latency on a T-core (R81): an eliminated move takes none (R68). -/
def latT (op : IntOp) (a b : Word) (mv : Bool) : Nat :=
  match intClass op with
  | .alu => if mv then 0 else 1
  | .count => 3
  | .mul => 3
  | .mulh => 4
  | .div64 | .div32 => 6 + (quotBits op a b + 3) / 4

/-- Latency on an S-core, with Mould mode's fixed divider times (R119). -/
def latS (op : IntOp) (a b : Word) (mould : Bool) : Nat :=
  match intClass op with
  | .alu => 1
  | .count => 2
  | .mul => 3
  | .mulh => 4
  | .div64 => if mould then 35 else 3 + (quotBits op a b + 1) / 2
  | .div32 => if mould then 19 else 3 + (quotBits op a b + 1) / 2

/-- Instructions that only the T-core has (R41). -/
def tOnly : IntOp → Bool
  | .czeroeqz | .czeronez => true
  | _ => false

end Sys2Proof.Machine
end

