-- ==== Sys2Proof/Machine/Flags.lean ====
section
/-!
DEFINITION. Floating-point results and flags of F, D and the vector unit (R41, R81): IEEE 754 binary16, binary32 and
binary64 on exact rationals, with the RISC-V flags NV, DZ, OF, UF and NX.
-/
namespace Sys2Proof.Machine

/-- A binary format: width, exponent bits, fraction bits. -/
structure Fmt where
  w : Nat
  e : Nat
  f : Nat
  deriving DecidableEq, Repr

def Fmt.half : Fmt := { w := 16, e := 5, f := 10 }
def Fmt.single : Fmt := { w := 32, e := 8, f := 23 }
def Fmt.double : Fmt := { w := 64, e := 11, f := 52 }
def fmtOf : FpFmt → Fmt | .s => .single | .d => .double
/-- The format of a vector element of `n` bytes. -/
def fmtBytes (n : Nat) : Fmt := if n = 2 then .half else if n = 4 then .single else .double

def Fmt.bias (m : Fmt) : Int := 2 ^ (m.e - 1) - 1
def Fmt.maxExp (m : Fmt) : Nat := 2 ^ m.e - 1
/-- Exponent of the least bit of a subnormal number. -/
def Fmt.emin (m : Fmt) : Int := 1 - m.bias - m.f

/-- The five accrued flags, as in fflags: NV 16, DZ 8, OF 4, UF 2, NX 1. -/
abbrev FFlags := BitVec 5
def fNV : FFlags := 16
def fDZ : FFlags := 8
def fOF : FFlags := 4
def fUF : FFlags := 2
def fNX : FFlags := 1

/-- A number or one of the special values. A finite number is `(-1)^neg * m * 2^x`. -/
inductive FVal where
  | fin (neg : Bool) (m : Nat) (x : Int)
  | inf (neg : Bool)
  | nan (signalling : Bool)
  deriving DecidableEq, Repr

/-- Canonical NaN of a format. -/
def Fmt.qnan (m : Fmt) : Nat := (2 ^ (m.e + 1) - 1) * 2 ^ (m.f - 1)
def Fmt.infBits (m : Fmt) (neg : Bool) : Nat := b2n neg * 2 ^ (m.w - 1) + m.maxExp * 2 ^ m.f
def Fmt.zeroBits (m : Fmt) (neg : Bool) : Nat := b2n neg * 2 ^ (m.w - 1)

/-- The value that bits stand for. -/
def Fmt.decode (m : Fmt) (v : Nat) : FVal :=
  let neg := v.testBit (m.w - 1)
  let ex := v / 2 ^ m.f % 2 ^ m.e
  let fr := v % 2 ^ m.f
  if ex = m.maxExp then (if fr = 0 then .inf neg else .nan (!(fr.testBit (m.f - 1))))
  else if ex = 0 then .fin neg fr m.emin
  else .fin neg (fr + 2 ^ m.f) ((ex : Int) - 1 + m.emin)

/-- Whether rounding raises the magnitude: mode, sign, lowest kept bit, half bit, sticky bit. Modes: 0 RNE, 1 RTZ, 2 RDN, 3 RUP, 4 RMM;
5 rounds to odd. -/
def roundUp (rm : Nat) (neg lsb half sticky : Bool) : Bool :=
  match rm with
  | 0 => half && (sticky || lsb)
  | 1 => false
  | 2 => neg && (half || sticky)
  | 3 => !neg && (half || sticky)
  | 4 => half
  | _ => !lsb && (half || sticky)

/-- `m * 2^x` as an integer multiple of `2^t`, with half and sticky bits. -/
def alignTo (m : Nat) (x t : Int) (st : Bool) : Nat × Bool × Bool :=
  if t ≤ x then (m * 2 ^ (x - t).toNat, false, st)
  else
    let d := (t - x).toNat
    (m / 2 ^ d, m.testBit (d - 1), st || decide (m % 2 ^ (d - 1) ≠ 0))

/-- Rounds `(-1)^neg * m * 2^x`, with `st` for more below, to a format: bits and flags. Tininess is detected after rounding. -/
def Fmt.round (k : Fmt) (rm : Nat) (neg : Bool) (m : Nat) (x : Int) (st : Bool) : Nat × FFlags :=
  if m = 0 && !st then (k.zeroBits neg, 0) else
  let len : Int := (Nat.log2 m + 1 : Nat)
  let normT : Int := if m = 0 then k.emin else x + len - (k.f + 1 : Nat)
  let t : Int := max normT k.emin
  let (q, half, sticky) := alignTo m x t st
  let inexact := half || sticky
  let up := roundUp rm neg (q.testBit 0) half sticky
  let q1 := if up then q + 1 else q
  let (q2, t2) := if q1 = 2 ^ (k.f + 1) then (2 ^ k.f, t + 1) else (q1, t)
  -- tiny: the result rounded with an unbounded exponent lies below the least normal number
  let (uq, uh, us) := alignTo m x normT st
  let uq1 := if roundUp rm neg (uq.testBit 0) uh us then uq + 1 else uq
  let tiny := decide (m = 0) || (decide (normT < k.emin) && !(decide (normT + 1 = k.emin) && decide (uq1 = 2 ^ (k.f + 1))))
  let big : Int := k.bias
  if q2 ≥ 2 ^ k.f && decide (t2 + (k.f : Int) > big) then
    let toInf := match rm with | 0 => true | 4 => true | 2 => neg | 3 => !neg | _ => false
    (if toInf then k.infBits neg else b2n neg * 2 ^ (k.w - 1) + k.maxExp * 2 ^ k.f - 1, fOF ||| fNX)
  else
    let ex : Nat := if q2 < 2 ^ k.f then 0 else (t2 - k.emin).toNat + 1
    let fr := q2 % 2 ^ k.f
    (b2n neg * 2 ^ (k.w - 1) + ex * 2 ^ k.f + fr, if inexact then (if tiny then fUF ||| fNX else fNX) else 0)

def FVal.isSnan : FVal → Bool | .nan s => s | _ => false
def FVal.isNan : FVal → Bool | .nan _ => true | _ => false
def FVal.neg : FVal → FVal | .fin n m x => .fin (!n) m x | .inf n => .inf (!n) | .nan s => .nan s
def FVal.isZero : FVal → Bool | .fin _ 0 _ => true | _ => false
def FVal.sign : FVal → Bool | .fin n _ _ => n | .inf n => n | .nan _ => false

/-- Sum of two finite numbers, exact. A zero sum of opposite signs is negative only when rounding down. -/
def addFin (rm : Nat) (n1 : Bool) (m1 : Nat) (x1 : Int) (n2 : Bool) (m2 : Nat) (x2 : Int) : Bool × Nat × Int :=
  let x := min x1 x2
  let a : Int := (if n1 then -1 else 1) * (m1 * 2 ^ (x1 - x).toNat : Nat)
  let b : Int := (if n2 then -1 else 1) * (m2 * 2 ^ (x2 - x).toNat : Nat)
  let r := a + b
  let neg := if r = 0 then (if n1 == n2 then n1 else rm == 2) else decide (r < 0)
  (neg, r.natAbs, x)

/-- Sum of two values in a format. -/
def fpAdd (k : Fmt) (rm : Nat) (a b : FVal) : Nat × FFlags :=
  let nv := if a.isSnan || b.isSnan then fNV else 0
  if a.isNan || b.isNan then (k.qnan, nv) else
  match a, b with
  | .inf n1, .inf n2 => if n1 = n2 then (k.infBits n1, 0) else (k.qnan, fNV)
  | .inf n, _ => (k.infBits n, 0)
  | _, .inf n => (k.infBits n, 0)
  | .fin n1 m1 x1, .fin n2 m2 x2 => let (n, m, x) := addFin rm n1 m1 x1 n2 m2 x2; k.round rm n m x false
  | _, _ => (k.qnan, nv)

/-- Product. -/
def fpMul (k : Fmt) (rm : Nat) (a b : FVal) : Nat × FFlags :=
  let nv := if a.isSnan || b.isSnan then fNV else 0
  if a.isNan || b.isNan then (k.qnan, nv) else
  let n := a.sign != b.sign
  match a, b with
  | .fin _ m1 x1, .fin _ m2 x2 => k.round rm n (m1 * m2) (x1 + x2) false
  | _, _ => if a.isZero || b.isZero then (k.qnan, fNV) else (k.infBits n, 0)

/-- Fused `a * b + c`. -/
def fpFma (k : Fmt) (rm : Nat) (a b c : FVal) : Nat × FFlags :=
  let nv := if a.isSnan || b.isSnan || c.isSnan then fNV else 0
  let inf (v : FVal) : Bool := match v with | .inf _ => true | _ => false
  let bad := (inf a && b.isZero) || (a.isZero && inf b)
  if bad then (k.qnan, fNV)
  else if a.isNan || b.isNan || c.isNan then (k.qnan, nv) else
  let n := a.sign != b.sign
  match a, b, c with
  | .fin _ m1 x1, .fin _ m2 x2, .fin n3 m3 x3 => let (n', m, x) := addFin rm n (m1 * m2) (x1 + x2) n3 m3 x3; k.round rm n' m x false
  | .fin _ _ _, .fin _ _ _, .inf n3 => (k.infBits n3, 0)
  | _, _, .inf n3 => if n = n3 then (k.infBits n, 0) else (k.qnan, fNV)
  | _, _, _ => (k.infBits n, 0)

/-- Quotient. -/
def fpDiv (k : Fmt) (rm : Nat) (a b : FVal) : Nat × FFlags :=
  let nv := if a.isSnan || b.isSnan then fNV else 0
  if a.isNan || b.isNan then (k.qnan, nv) else
  let n := a.sign != b.sign
  match a, b with
  | .inf _, .inf _ => (k.qnan, fNV)
  | .inf _, _ => (k.infBits n, 0)
  | _, .inf _ => (k.zeroBits n, 0)
  | .fin _ m1 x1, .fin _ m2 x2 =>
    if m2 = 0 then (if m1 = 0 then (k.qnan, fNV) else (k.infBits n, fDZ))
    else if m1 = 0 then (k.zeroBits n, 0)
    else
      let sh := k.f + 3 + Nat.log2 m2 + 1
      let q := m1 * 2 ^ sh / m2
      k.round rm n q (x1 - x2 - sh) (decide (m1 * 2 ^ sh % m2 ≠ 0))
  | _, _ => (k.qnan, nv)

/-- Square root. -/
def fpSqrt (k : Fmt) (rm : Nat) (a : FVal) : Nat × FFlags :=
  match a with
  | .nan sg => (k.qnan, if sg then fNV else 0)
  | .inf n => if n then (k.qnan, fNV) else (k.infBits false, 0)
  | .fin n m x =>
    if m = 0 then (k.zeroBits n, 0)
    else if n then (k.qnan, fNV)
    else
      let sh := 2 * (k.f + 4)
      let m1 := if x % 2 = 0 then m * 2 ^ sh else m * 2 ^ (sh + 1)
      let x1 := if x % 2 = 0 then x - sh else x - (sh + 1)
      let r := Nat.sqrt m1
      k.round rm false r (x1 / 2) (decide (r * r ≠ m1))

/-- Exact comparison of values that are not NaN: less, and equal. -/
def fpCmp (a b : FVal) : Bool × Bool :=
  match a, b with
  | .inf n1, .inf n2 => (n1 && !n2, n1 == n2)
  | .inf n, _ => (n, false)
  | _, .inf n => (!n, false)
  | .fin n1 m1 x1, .fin n2 m2 x2 =>
    let x := min x1 x2
    let p : Int := (if n1 then -1 else 1) * (m1 * 2 ^ (x1 - x).toNat : Nat)
    let q : Int := (if n2 then -1 else 1) * (m2 * 2 ^ (x2 - x).toNat : Nat)
    (decide (p < q), decide (p = q))
  | _, _ => (false, false)

/-- FEQ is quiet; FLT and FLE signal on any NaN. -/
def fpEq (a b : FVal) : Bool × FFlags :=
  if a.isNan || b.isNan then (false, if a.isSnan || b.isSnan then fNV else 0) else ((fpCmp a b).2, 0)
def fpLt (a b : FVal) : Bool × FFlags := if a.isNan || b.isNan then (false, fNV) else ((fpCmp a b).1, 0)
def fpLe (a b : FVal) : Bool × FFlags := if a.isNan || b.isNan then (false, fNV) else ((fpCmp a b).1 || (fpCmp a b).2, 0)

/-- minimumNumber and maximumNumber: −0 below +0, a NaN only when both are. -/
def fpMinMax (k : Fmt) (isMax : Bool) (av bv : Nat) : Nat × FFlags :=
  let a := k.decode av
  let b := k.decode bv
  let nv := if a.isSnan || b.isSnan then fNV else 0
  if a.isNan && b.isNan then (k.qnan, nv)
  else if a.isNan then (bv, nv)
  else if b.isNan then (av, nv)
  else
    let (lt, eq) := fpCmp a b
    let aLess := lt || (eq && a.sign && !b.sign)
    (if aLess != isMax then av else bv, nv)

/-- The ten classes of FCLASS. -/
def fpClass (k : Fmt) (v : Nat) : Nat :=
  match k.decode v with
  | .nan sg => if sg then 256 else 512
  | .inf n => if n then 1 else 128
  | .fin n m _ =>
    if m = 0 then (if n then 8 else 16)
    else if m < 2 ^ k.f then (if n then 4 else 32)
    else (if n then 2 else 64)

/-- Conversion to an integer of `n` bits, saturating with NV. -/
def fpToInt (rm n : Nat) (signed : Bool) (a : FVal) : Int × FFlags :=
  let hi : Int := if signed then 2 ^ (n - 1) - 1 else 2 ^ n - 1
  let lo : Int := if signed then -2 ^ (n - 1) else 0
  match a with
  | .nan _ => (hi, fNV)
  | .inf neg => (if neg then lo else hi, fNV)
  | .fin neg m x =>
    let (q, half, sticky) := alignTo m x 0 false
    let q1 : Int := (if roundUp rm neg (q.testBit 0) half sticky then q + 1 else q : Nat)
    let v := if neg then -q1 else q1
    if v < lo then (lo, fNV) else if hi < v then (hi, fNV) else (v, if half || sticky then fNX else 0)

/-- Conversion from an integer. -/
def fpFromInt (k : Fmt) (rm : Nat) (v : Int) : Nat × FFlags := k.round rm (decide (v < 0)) v.natAbs 0 false

/-- Conversion between formats. -/
def fpConv (k : Fmt) (rm : Nat) (a : FVal) : Nat × FFlags :=
  match a with
  | .nan sg => (k.qnan, if sg then fNV else 0)
  | .inf n => (k.infBits n, 0)
  | .fin n m x => k.round rm n m x false

/-- Sign injection: 0 copy, 1 negate, 2 exclusive or. -/
def fpSgnj (k : Fmt) (how : Nat) (a b : Nat) : Nat :=
  let sa := a.testBit (k.w - 1)
  let sb := b.testBit (k.w - 1)
  let sgn := match how with | 0 => sb | 1 => !sb | _ => sa != sb
  a % 2 ^ (k.w - 1) + b2n sgn * 2 ^ (k.w - 1)

/-- A single-precision value in a 64-bit register is NaN-boxed; any other content reads as the canonical NaN. -/
def unbox (f : FpFmt) (v : Word) : Nat :=
  match f with
  | .d => v.toNat
  | .s => if v.toNat / 2 ^ 32 = 2 ^ 32 - 1 then v.toNat % 2 ^ 32 else Fmt.single.qnan
def boxF (f : FpFmt) (v : Nat) : Word :=
  match f with | .d => BitVec.ofNat 64 v | .s => BitVec.ofNat 64 (v % 2 ^ 32 + (2 ^ 32 - 1) * 2 ^ 32)

end Sys2Proof.Machine
end

