-- ==== Sys2Proof/Machine/Mesh.lean ====
section
/-!
DEFINITION. The mesh: routing, virtual channels and credits (R195 to R212), the Wheel, its reservations and their bindings
(R213 to R224).
-/
namespace Sys2Proof.Machine

/-! ### Buffers and credits (R203, R211) -/

/-- Buffer depth at the far side of a link (R203). -/
def bufDepth (bridge : Bool) (vc : Nat) : Nat :=
  match vc with
  | 7 => 4
  | 5 | 6 => if bridge then 16 else 2
  | 3 => if bridge then 12 else 8
  | 0 | 4 => if bridge then 12 else 6
  | _ => if bridge then 12 else 4

/-- The credit counter that a flit uses on a link: GQ, GR and GX count per next output, except that GQ and GR share one
buffer after a bridge (R203, R211). -/
def creditKey (id : Nat) (out : Port) (vc : Nat) (nxt : Port) : Nat :=
  let n := if vc < 5 then 0 else if vc < 7 && isBridge id out then 0 else portIdx nxt
  ((id * 5 + portIdx out) * 8 + vc) * 8 + n

def bufKey (id : Nat) (inp : Port) (vc : Nat) : Nat := (id * 5 + portIdx inp) * 8 + vc
def wheelKey (id : Nat) (out : Port) (slot : Nat) : Nat := (id * 5 + portIdx out) * 64 + slot

/-- Owner of a Wheel slot: RID + 1, or 0 when it is free (R213). -/
def State.slotOwner (s : State) (id : Nat) (out : Port) (slot : Nat) : Nat := tabGet 0 s.mesh.wheel (wheelKey id out slot)

/-- The slot of a tile's counter in this mesh cycle (R213). -/
def State.slotNow (s : State) (id : Nat) : Nat := (s.mesh.cycle + tabGet 0 s.mesh.slotBase (tileOf id)) % 64

/-! ### Waiting flits -/

/-- A flit that waits: the input it waits at, its order of arrival, and the flit. -/
structure Waiting where
  inp : Port
  ord : Nat
  flit : Flit
  deriving DecidableEq, Repr

/-- A GQ or GR flit that was in the mesh when the slots of its reservation became free is an orphan (R221). -/
def State.isOrphan (s : State) (w : Waiting) : Bool := s.mesh.orphans.contains w.ord

/-- Flits that may leave an input for output `out`: the head of each ordinary VC, and of the guaranteed VCs, whose buffers are split by output and searched by RID, all
that wait for it (R203, R210, R214). What an agent has sent enters the L input as its buffers have room, and waits in the agent until then. -/
def State.waitingAt (s : State) (id : Nat) (out : Port) (inp : Port) : List Waiting :=
  let q (vc : Nat) : List (Nat × Flit) :=
    if inp = .l then (tabGet [] s.mesh.inject id).filter fun (_, f) => f.vc.val == vc else tabGet [] s.mesh.bufs (bufKey id inp vc)
  let goes (f : Flit) : Bool := routePort id (nodeStop f.dst) == out
  (List.range 8).flatMap fun vc =>
    let l := q vc
    let r := if vc < 5 then (l.take 1).filter fun (_, f) => goes f
      else
        let w := l.filter fun (_, f) => goes f
        if inp = .l then w.take (bufDepth false vc) else w
    r.map fun (o, f) => { inp := inp, ord := o, flit := f }

/-- The VC in which a flit travels: an orphan's is GX (R221). -/
def State.vcNow (s : State) (w : Waiting) : Nat := if s.isOrphan w then 7 else w.flit.vc.val

/-- The outputs at stop `d` for which a flit that comes in from `id` waits there: its own, or for an Event flit every branch of its tree (R205, R388). -/
def outsAt (out : Port) (d : Nat) (f : Flit) : List Port := if f.op = .event then treeOuts d (oppPort out) else [routePort d (nodeStop f.dst)]

/-- Whether the flit has the credits for the link that it is to take; delivery to an agent needs none (R211). -/
def State.hasCredit (s : State) (id : Nat) (out : Port) (w : Waiting) : Bool :=
  match neighbour id out with
  | none => out == .l
  | some d =>
    let vc := s.vcNow w
    let ks := (outsAt out d w.flit).map fun p => creditKey id out vc p
    ks.all fun k => decide (tabGet 0 s.mesh.used k + (ks.filter fun j => j == k).length ≤ bufDepth (isBridge id out) vc)

/-- The oldest of a list. -/
def oldest (l : List Waiting) : Option Waiting := l.find? fun w => l.all fun v => decide (w.ord ≤ v.ord)

/-- Round robin: the first of `l` at or after `p` in a cycle of `n`, by its place `k`. -/
def roundRobin (l : List Waiting) (k : Waiting → Nat) (p n : Nat) : Option Waiting :=
  (List.range n).findSome? fun i => l.find? fun w => k w == (p + i) % n

/-- The flit that an output sends in this mesh cycle (R214): the oldest of the slot's owner, else an expedited flit, else an ordinary one. -/
def State.chooseFlit (s : State) (id : Nat) (out : Port) : Option Waiting :=
  let c := ([Port.l, .e, .w, .s, .n].flatMap fun i => s.waitingAt id out i).filter fun w => s.hasCredit id out w
  let owner := s.slotOwner id out (s.slotNow id)
  let guar := c.filter fun w => (w.flit.vc == 5 || w.flit.vc == 6) && decide (w.flit.rid.val + 1 = owner) && !(s.isOrphan w)
  match oldest guar with
  | some w => some w
  | none =>
    let rr (i : Nat) : Nat := tabGet 0 s.mesh.rr ((id * 5 + portIdx out) * 16 + i)
    let gx := c.filter fun w => w.flit.vc == 7 || s.isOrphan w
    match roundRobin gx (fun w => portIdx w.inp) (rr 1) 5 with
    | some w => some w
    | none =>
      let ord := c.filter fun w => decide (w.flit.vc.val < 5)
      match roundRobin ord (fun w => portIdx w.inp) (rr 0) 5 with
      | none => none
      | some w => roundRobin (ord.filter fun v => v.inp == w.inp) (fun v => v.flit.vc.val) (rr (2 + portIdx w.inp)) 5

/-- Advances the round-robin pointers past a flit sent under steps 2 and 3 of R214. -/
def State.turn (s : State) (id : Nat) (out : Port) (w : Waiting) : State :=
  let k := (id * 5 + portIdx out) * 16
  let set (s : State) (i v : Nat) : State := { s with mesh := { s.mesh with rr := tabSet 0 s.mesh.rr (k + i) v } }
  if w.flit.vc = 7 ∨ s.isOrphan w then set s 1 ((portIdx w.inp + 1) % 5)
  else if w.flit.vc.val < 5 then set (set s 0 ((portIdx w.inp + 1) % 5)) (2 + portIdx w.inp) ((w.flit.vc.val + 1) % 5)
  else s

/-- Takes a flit out of the buffer in which it waits; the credit of a buffer goes back to the stop before (R211). -/
def State.leaveBuffer (s : State) (id : Nat) (out : Port) (w : Waiting) : State :=
  if w.inp = .l then
    { s with mesh := { s.mesh with inject := tabSet [] s.mesh.inject id ((tabGet [] s.mesh.inject id).filter fun (o, _) => o != w.ord) } }
  else
    let vc := w.flit.vc.val
    let k := bufKey id w.inp vc
    let s := { s with mesh := { s.mesh with bufs := tabSet [] s.mesh.bufs k ((tabGet [] s.mesh.bufs k).filter fun (o, _) => o != w.ord) } }
    match neighbour id w.inp with
    | none => s
    | some u =>
      let ck := creditKey u (oppPort w.inp) vc out
      { s with mesh := { s.mesh with ret := tabSet 0 s.mesh.ret ck (tabGet 0 s.mesh.ret ck + 1) } }

/-- Adds to a counter of the credit tables. -/
def bump (t : Tab Nat) (ks : List Nat) : Tab Nat := ks.foldl (fun t k => tabSet 0 t k (tabGet 0 t k + 1)) t

/-- A flit in the input buffers of stop `d`, one for each output that it waits for, and their credits taken (R203, R205, R211). -/
def State.intoBuffer (s : State) (id : Nat) (out : Port) (d : Nat) (f : Flit) : State :=
  let vc := f.vc.val
  let outs := outsAt out d f
  let k := bufKey d (oppPort out) vc
  let copies := outs.zipIdx.map fun (p, i) =>
    (s.mesh.stamp + i, if f.op = .event then (match neighbour d p with | some n => { f with dst := mkNode n 0 } | none => f) else f)
  { s with mesh := { s.mesh with
      bufs := tabSet [] s.mesh.bufs k (tabGet [] s.mesh.bufs k ++ copies), stamp := s.mesh.stamp + copies.length,
      used := bump s.mesh.used (outs.map fun p => creditKey id out vc p) } }

/-- The next stop's router receives a flit and checks it: discarded for an uncorrectable header or an unused OP, its credit returned, and otherwise into its input
buffer; an Event flit's pulse is at that stop then. At its own stop's L output a flit reaches its agent, with POISON set where its payload cannot be corrected
(R202, R205, R211, R388). -/
def State.enterNext (s : State) (id : Nat) (out : Port) (f : Flit) (err : FlitErr) : State :=
  let at_ := (neighbour id out).getD id
  let s := if err = .corrected then (s.logCe at_).count at_ 0 0x0C 1 none else s
  match neighbour id out with
  | none => { s with mesh := { s.mesh with arrived := s.mesh.arrived ++ [if err = .payload ∧ f.data.isSome then { f with poison := true } else f] } }
  | some d =>
    if err = .header ∨ f.op = .unused then
      let ks := (outsAt out d f).map fun p => creditKey id out f.vc.val p
      ({ s with mesh := { s.mesh with used := bump s.mesh.used ks, ret := bump s.mesh.ret ks } }).logErr { mkErr 0x01 3 d true with detail := f.vc.val }
    else
      let s := if f.op = .event then { s with irq := { s.irq with events := s.irq.events ++ [(d, f.addr.toNat)] } } else s
      s.intoBuffer id out d f

/-- Events of the router bank for a flit sent: its output, the arrival from a bridge, and whether an owned slot was used by its owner (R411). -/
def State.countSent (s : State) (id : Nat) (out : Port) (w : Waiting) (owner : Nat) : State :=
  let c := flitCounted w.flit
  let s := s.count id 0 (1 + portIdx out) 1 (some c)
  let s := match neighbour id out with | some d => if isBridge id out then s.count d 0 6 1 (some c) else s | none => s
  if owner = 0 then s
  else if w.flit.rid.val + 1 = owner ∧ (w.flit.vc = 5 ∨ w.flit.vc = 6) then s.count id 0 9 1 none else s.count id 0 0x0A 1 none

/-- Moves the flit that an output sends in a mesh cycle, with what the checks of R202 find of it where it is received. -/
def State.routeFlit (s : State) (id : Nat) (out : Port) (err : FlitErr) : State :=
  match s.chooseFlit id out with
  | none => s.nextCycle
  | some w =>
    let s1 := ((s.turn id out w).leaveBuffer id out w).countSent id out w (s.slotOwner id out (s.slotNow id))
    let s1 := { s1 with mesh := { s1.mesh with sentAt := tabSet 0 s1.mesh.sentAt (id * 5 + portIdx out) (s.mesh.cycle + 1) } }
    if s.isOrphan w then
      let s1 := { s1 with mesh := { s1.mesh with orphans := s1.mesh.orphans.erase w.ord } }
      ((s1.count id 0 0x0B 1 none).logErr { mkErr 0x15 0 id false with detail := w.flit.rid.val }).enterNext id out { w.flit with vc := 7 } err
    else s1.enterNext id out w.flit err

/-- FLIT_ROUTE: an output port of a router sends one flit, at most one in a mesh cycle: after one it sends in the next cycle, and with nothing to send in this one the
cycle passes (R202, R205, R211, R214; log entry 13). -/
def execFlitRoute (stop : Fin 320) (out : Port) (err : FlitErr) (s : State) : Res :=
  .next ((if tabGet 0 s.mesh.sentAt (stop.val * 5 + portIdx out) = s.mesh.cycle + 1 then s.nextCycle else s).routeFlit stop.val out err)

/-- CREDIT_RETURN: a credit on its way back reaches the sender (R211, R212). -/
def execCreditReturn (stop : Fin 320) (out : Port) (vc : Fin 8) (nxt : Port) (s : State) : Res :=
  let k := creditKey stop.val out vc.val nxt
  let r := tabGet 0 s.mesh.ret k
  .next (if r = 0 then s else
    { s with mesh := { s.mesh with ret := tabSet 0 s.mesh.ret k (r - 1), used := tabSet 0 s.mesh.used k (tabGet 0 s.mesh.used k - 1) } })

/-! ### Reservations (R215 to R222) -/

/-- A Wheel port of a reservation: stop, output, the stretch that fixes its phase, and its slot offset within the stretch (R217). -/
structure WPort where
  id : Nat
  out : Port
  stretch : Nat
  off : Nat
  deriving DecidableEq, Repr

def distN (a b : Nat) : Nat := (a - b) + (b - a)

/-- Where a stop lies in the tree from `src`: its stretch, and its hops from the stretch's first stop. -/
def fanPlace (src id : Nat) : Nat × Nat :=
  let sx := src % 32; let sy := src / 32; let x := id % 32; let y := id / 32
  if y / 5 = sy / 5 then
    let x0 := if x / 8 = sx / 8 then sx else if sx < x then 8 * (x / 8) else 8 * (x / 8) + 7
    (x / 8, distN x x0 + distN y sy)
  else (8 + x, distN y (if sy < y then 5 * (y / 5) else 5 * (y / 5) + 4))

/-- Where a stop lies on the way to `dst`: its stretch, and a slot offset that rises by one at each hop. -/
def gatherPlace (dst id : Nat) : Nat × Nat :=
  let dx := dst % 32; let dy := dst / 32; let x := id % 32; let y := id / 32
  if x / 8 ≠ dx / 8 then (16 + 4 * y + x / 8, if x < dx then x % 8 else 7 - x % 8)
  else if y / 5 ≠ dy / 5 then (y / 5, 64 - (distN x dx + distN y (if y < dy then 5 * (y / 5) + 4 else 5 * (y / 5))))
  else (y / 5, 64 - (distN x dx + distN y dy))

/-- The stops of the route from `src` to `dst`, with the port each leaves by. -/
def pathPorts (dst : Nat) : Nat → Nat → List (Nat × Port)
  | _, 0 => []
  | id, n + 1 =>
    let p := routePort id dst
    (id, p) :: (match neighbour id p with | some d => pathPorts dst d n | none => [])

/-- Hops of a path within the tile it is in, counted back from each port. -/
def pathPlaces : List (Nat × Port) → Nat → Nat → Nat → List WPort
  | [], _, _, _ => []
  | (id, p) :: t, tile, st, off =>
    if tileOf id = tile then { id := id, out := p, stretch := st, off := off } :: pathPlaces t tile st (off + 1)
    else { id := id, out := p, stretch := st + 1, off := 0 } :: pathPlaces t (tileOf id) (st + 1) 1

/-- Every port of a reservation (R215). -/
def wheelPorts (form : WheelForm) (src dst : Nat) : List WPort :=
  match form with
  | .path => pathPlaces (pathPorts dst src 64) (tileOf src) 0 0
  | .fan =>
    (List.range 320).flatMap fun id =>
      let (st, off) := fanPlace src id
      let row := id / 32 == src / 32
      let ps : List Port := [.l] ++ (if row && src % 32 ≤ id % 32 then [.e] else []) ++ (if row && id % 32 ≤ src % 32 then [.w] else []) ++
        (if src / 32 ≤ id / 32 then [.s] else []) ++ (if id / 32 ≤ src / 32 then [.n] else [])
      (ps.filter fun p => p == .l || (neighbour id p).isSome).map fun p => { id := id, out := p, stretch := st, off := off }
  | .gather =>
    (List.range 320).map fun id =>
      let (st, off) := gatherPlace dst id
      { id := id, out := routePort id dst, stretch := st, off := off }
  | .zero => []

/-- The slots of a port: `k` of them, evenly spaced (R215). -/
def slotsOf (k phase off : Nat) : List Nat := (List.range k).map fun i => (phase + off + i * (64 / k)) % 64

/-- Whether a port still meets R216 with `add` owned as well: no slot with two owners, at most 48 owned, no run of more than 4. -/
def State.slotsFit (s : State) (p : WPort) (add : List Nat) : Bool :=
  let owned (i : Nat) : Bool := s.slotOwner p.id p.out (i % 64) != 0
  let after (i : Nat) : Bool := owned i || add.contains (i % 64)
  (add.all fun i => !(owned i)) && decide (((List.range 64).filter after).length ≤ 48) &&
  (List.range 64).all fun i => !(after i && after (i + 1) && after (i + 2) && after (i + 3) && after (i + 4))

/-- The lowest phase at which every port of a stretch meets R216. -/
def State.phaseOf (s : State) (k : Nat) (ps : List WPort) : Option Nat :=
  (List.range (64 / k)).find? fun ph => ps.all fun p => s.slotsFit p (slotsOf k ph p.off)

/-- Writes the slots of a list of ports. -/
def State.ownSlots (s : State) (rid k ph : Nat) : List WPort → State
  | [] => s
  | p :: t =>
    let w := (slotsOf k ph p.off).foldl (fun w i => tabSet 0 w (wheelKey p.id p.out i) (rid + 1)) s.mesh.wheel
    ({ s with mesh := { s.mesh with wheel := w } }).ownSlots rid k ph t

/-- Places a reservation's slots stretch by stretch; none where R216 refuses one. -/
def State.placeSlots (s : State) (rid k : Nat) (ports : List WPort) : List Nat → Option State
  | [] => some s
  | st :: t =>
    let ps := ports.filter fun p => p.stretch == st
    match s.phaseOf k ps with
    | none => none
    | some ph => (s.ownSlots rid k ph ps).placeSlots rid k ports t

/-- In-tile hops, bridges and tiles of the route between two stops. -/
def routeHops (src dst : Nat) : Nat × Nat × Nat :=
  let bx := distN (src % 32 / 8) (dst % 32 / 8)
  let by_ := distN (src / 32 / 5) (dst / 32 / 5)
  let h := distN (src % 32) (dst % 32) + distN (src / 32) (dst / 32)
  (h - (bx + by_), bx + by_, bx + by_ + 1)

/-- B of R222 with q = 0 for one route. -/
def boundOf (src dst k : Nat) : Nat := let (h, b, n) := routeHops src dst; 2 + h + 4 * b + n * (64 / k)

/-- B for the longest route of a reservation (R215). -/
def reservationBound (form : WheelForm) (src dst k : Nat) : Nat :=
  match form with
  | .path => boundOf src dst k
  | .fan => (List.range 320).foldl (fun m d => max m (boundOf src d k)) 0
  | .gather => (List.range 320).foldl (fun m d => max m (boundOf d dst k)) 0
  | .zero => 246

/-- The stop at which a reservation is bound (R219, R437). -/
def Reservation.boundStop (r : Reservation) : Nat := if r.vc = 5 then r.src else r.dst

/-- The GR reservation that answers GQ reservation `r` from stop `id`: a PATH from there, else the injector's GATHER (R219). -/
def pairFor (resv : Tab (Option Reservation)) (r : Reservation) (id : Nat) : Nat :=
  let same (q : Reservation) : Bool := q.vc == 6 && q.dst == r.src && q.agent == r.agent && q.owner == r.owner
  match resv.find? fun (_, q) => q.any fun q => same q && q.form == .path && q.src == id with
  | some (k, _) => k + 1
  | none => match resv.find? fun (_, q) => q.any fun q => same q && q.form == .gather with | some (k, _) => k + 1 | none => 0

/-- The pairing tables of every stop for the reservations held (R219). -/
def State.setPairs (s : State) : State :=
  let gq := s.mesh.resv.filterMap fun (k, q) => match q with | some r => if r.vc = 5 then some (k, r) else none | none => none
  let t := (List.range 320).flatMap fun id => gq.filterMap fun (k, r) =>
    match pairFor s.mesh.resv r id with | 0 => none | v => some (id * 128 + k, v)
  { s with mesh := { s.mesh with pair := t } }

/-- The lowest free RID from 1 to 127 (R437). -/
def State.freeRid (s : State) : Option (Fin 128) := (List.finRange 128).find? fun r => r.val != 0 && (tabGet none s.mesh.resv r.val).isNone

/-- Makes a reservation: slots at every port first, then bindings, pairing and injection (R216, R219, R221). -/
def State.reserve (s : State) (form : WheelForm) (vc k src dst : Nat) (owner : Option Nat) (agent : Nat) : Option (State × Fin 128) :=
  match s.freeRid with
  | none => none
  | some rid =>
    let ports := wheelPorts form src dst
    match s.placeSlots rid.val k ports (ports.map WPort.stretch).dedup with
    | none => none
    | some s =>
      let r : Reservation :=
        { form := form, vc := vc, k := k, src := src, dst := dst, owner := owner, agent := agent,
          bound := reservationBound form src dst k, inject := true, releaseAt := none }
      some (({ s with mesh := { s.mesh with resv := tabSet none s.mesh.resv rid.val (some r) } }).setPairs, rid)

/-- Step 1 of a release: injection stops, and the slots free after the bound (R221). -/
def State.release (s : State) (rid : Nat) : State :=
  match tabGet none s.mesh.resv rid with
  | none => s
  | some r =>
    { s with mesh := { s.mesh with resv := tabSet none s.mesh.resv rid (some { r with inject := false, releaseAt := some (s.mesh.cycle + r.bound) }) } }

/-- Orders of arrival of the flits of a RID that wait in the mesh. -/
def State.flitsOf (s : State) (rid : Nat) : List Nat :=
  ((s.mesh.inject ++ s.mesh.bufs).flatMap fun (_, l) => l.filter fun (_, f) => (f.vc == 5 || f.vc == 6) && f.rid.val == rid).map Prod.fst

/-- Step 3 of a release: the slots free, then bindings and pairing entries go; the flits of the RID that are still in the mesh are orphans (R219, R221). -/
def State.freeSlots (s : State) (rid : Nat) : State :=
  ({ s with mesh := { s.mesh with
      wheel := s.mesh.wheel.filter fun (_, o) => o != rid + 1, resv := tabSet none s.mesh.resv rid none, orphans := s.mesh.orphans ++ s.flitsOf rid } }).setPairs

/-- The Wheel entries of reservation 0 on every output port (R220): two slots at a stride of 32, rising by one along each run. DESIGN CHOICE: the phases, which R220
leaves to Rennet: slots 0 and 32 on L, and on E, W, S and N the place of the stop along the run in its tile (log entry 52). -/
def zeroWheel : Tab Nat :=
  (List.range 320).flatMap fun id =>
    [Port.l, .e, .w, .s, .n].flatMap fun p =>
      if p != .l && (neighbour id p).isNone then [] else
      let v := match p with | .l => 0 | .e => id % 8 | .w => 7 - id % 8 | .s => id / 32 % 5 | .n => 4 - id / 32 % 5
      [(wheelKey id p v, 1), (wheelKey id p (v + 32), 1)]

/-- Creates reservation 0 (R220). -/
def State.reserveZero (s : State) : State := { s with mesh := { s.mesh with wheel := zeroWheel } }

end Sys2Proof.Machine
end

