-- ==== Sys2Proof/Machine/Csr.lean ====
section
/-!
DEFINITION. The CSRs of both core types (R41, R43, R57 to R62, R265, R398 to R404): which exist, who may access them, what they read
and what a write stores.  Layouts that the spec takes from the RISC-V privileged specifications are those of that family (log entry 8).
-/
namespace Sys2Proof.Machine

/-! ### Modes -/

/-- Whether virtualization is on. -/
def modeVirt : Mode → Bool | .vs => true | .vu => true | _ => false
/-- Privilege of a mode: M 3, S 1, U 0. -/
def modePrv : Mode → Nat | .m => 3 | .hs => 1 | .vs => 1 | _ => 0
/-- Rank of a mode for the prediction bar (R52). -/
def modeRank : Mode → Nat | .m => 3 | .hs => 2 | .vs => 1 | _ => 0
/-- The mode of a privilege with virtualization on or off. -/
def modeOf (prv : Nat) (v : Bool) : Mode :=
  match prv with
  | 3 => .m
  | 1 => if v then .vs else .hs
  | _ => if v then .vu else .u

/-! ### Pending interrupts -/

/-- Machine timer compare value of a hart (R387). -/
def State.mtimecmp (s : State) (h : HartId) : Word := ~~~(tabGet 0 s.irq.mtimecmp (hartIdx h))
/-- Guest external interrupts of a hart (R380). -/
def State.hgeip (s : State) (h : HartId) : Word :=
  BitVec.ofNat 64 ((List.range' 1 7).foldl (fun a g => a + (if (s.file h (.guest (Fin.ofNat 8 g))).signals then 2 ^ g else 0)) 0)

/-- mip as a number: software bits with the inputs of the timers and IMSIC files (R386, Sstc, AIA). -/
def State.mip (s : State) (h : HartId) : Word :=
  let c := s.hart h
  let t := BitVec.ofNat 64 s.time
  let sw := c.csrRaw 0x344
  let b (n : Nat) (p : Bool) : Word := if p then BitVec.ofNat 64 (2 ^ n) else 0
  let mtip := decide (s.mtimecmp h ≤ t)
  let meip := (s.file h .mach).signals
  if !(isT h) then b 7 mtip ||| b 11 meip else
  let hvip := c.csrRaw 0x645
  let stce := c.csrBit 0x30A 63
  let vstce := c.csrBit 0x60A 63 && stce
  let stip := if stce then decide (c.csrRaw 0x14D ≤ t) else sw.getLsbD 5
  let vstip := hvip.getLsbD 6 || (vstce && decide (c.csrRaw 0x24D ≤ t + c.csrRaw 0x605))
  let hg := s.hgeip h
  let vgein := fld (c.csrRaw 0x600) 17 12
  b 1 (sw.getLsbD 1) ||| b 2 (hvip.getLsbD 2) ||| b 5 stip ||| b 6 vstip ||| b 7 mtip ||| b 9 (sw.getLsbD 9 || (s.file h .sup).signals) |||
    b 10 (hvip.getLsbD 10 || (decide (vgein ≠ 0) && hg.getLsbD vgein)) ||| b 11 meip ||| b 12 ((hg &&& c.csrRaw 0x607) != 0)

/-- mideleg with the hypervisor bits that read as one. -/
def Hart.mideleg (c : Hart) (t : Bool) : Word := if t then c.csrRaw 0x303 ||| 0x1444 else 0

/-- Major interrupts in AIA default order. -/
def irqOrder : List Nat := [11, 3, 7, 9, 1, 5, 12, 10, 2, 6]
def topOf (w : Word) : Option Nat := irqOrder.find? fun i => w.getLsbD i

/-- hvictl.VTI: the hypervisor names VS-level interrupts itself (Ssaia). -/
def Hart.vti (c : Hart) : Bool := c.csrBit 0x609 30

/-- The VS-level interrupt that ranks highest, with its priority number; 256 is below every number and 0 above. The external interrupt has its guest file's, or
hvictl's; hvictl with VTI = 1 takes the place of the other interrupts (Ssaia; log entry 8). -/
def State.vsTop (s : State) (h : HartId) : Option (Nat × Nat) :=
  let c := s.hart h
  let v := (s.mip h &&& c.csrRaw 0x304 &&& c.csrRaw 0x603) >>> 1
  let g := fld (c.csrRaw 0x600) 17 12
  let iid := fld (c.csrRaw 0x609) 27 16
  let prio := fld (c.csrRaw 0x609) 7 0
  let file := if 1 ≤ g ∧ g ≤ 7 then (s.file h (.guest (Fin.ofNat 8 g))).top else 0
  let ext := if !(v.getLsbD 9) then none
    else if file ≠ 0 then some (9, file)
    else if g = 0 ∧ iid = 9 ∧ prio ≠ 0 then some (9, prio) else some (9, 256)
  let other :=
    if c.vti then (if iid = 9 then none else some (iid, if prio = 0 ∧ c.csrBit 0x609 9 then 256 else prio))
    else if v.getLsbD 1 then some (1, 256) else if v.getLsbD 5 then some (5, 256) else none
  match ext, other with
  | some e, some o => if decide (o.2 < e.2) || (o.2 == e.2 && c.vti && !(c.csrBit 0x609 9)) then some o else some e
  | some e, none => some e
  | none, o => o
/-- vstopi: its priority field is 1 unless hvictl.IPRIOM asks for the number. -/
def State.vstopi (s : State) (h : HartId) : Word :=
  match s.vsTop h with
  | some (i, p) => BitVec.ofNat 64 (i * 2 ^ 16 + if (s.hart h).csrBit 0x609 8 then min p 255 else 1)
  | none => 0

/-- The interrupt to take, and the mode it goes to; one for VS-mode has the number above its VS number (R101, R120). -/
def State.topIrq (s : State) (h : HartId) : Option (Mode × Nat) :=
  let c := s.hart h
  let pend := s.mip h &&& c.csrRaw 0x304
  let md := c.mideleg (isT h)
  let hd := c.csrRaw 0x603
  let mOn := c.mode != .m || c.csrBit 0x300 3
  let sOn := modeVirt c.mode || c.mode == .u || (c.mode == .hs && c.csrBit 0x300 1)
  let vOn := c.mode == .vu || (c.mode == .vs && c.csrBit 0x200 1)
  match if mOn then topOf (pend &&& ~~~md) else none with
  | some i => some (.m, i)
  | none =>
    match if sOn then topOf (pend &&& md &&& ~~~hd) else none with
    | some i => some (.hs, i)
    | none => if vOn then (s.vsTop h).map fun (i, _) => (.vs, i + 1) else none

/-! ### Which CSRs exist -/

/-- S-core CSRs (R41, R57, R398). -/
def csrOnS (n : Nat) : Bool :=
  n == 0x300 || n == 0x301 || (0x304 ≤ n && n ≤ 0x306) || n == 0x30A || n == 0x320 || (0x323 ≤ n && n ≤ 0x33F) || (0x340 ≤ n && n ≤ 0x344) ||
  n == 0x350 || n == 0x351 || n == 0x35C || n == 0xFB0 || n == 0x3A0 || n == 0x3A2 || (0x3B0 ≤ n && n ≤ 0x3BF) ||
  (0x7A0 ≤ n && n ≤ 0x7A4) || n == 0x7C0 || n == 0xB00 || (0xB02 ≤ n && n ≤ 0xB1F) || (0xC00 ≤ n && n ≤ 0xC1F) || n == 0xCC0 ||
  (0xF11 ≤ n && n ≤ 0xF15)

/-- T-core CSRs. -/
def csrOnT (n : Nat) : Bool :=
  (csrOnS n && n != 0x7C0) || (1 ≤ n && n ≤ 3) || (8 ≤ n && n ≤ 0xA) || n == 0xF || (0x100 == n) || (0x104 ≤ n && n ≤ 0x106) || n == 0x10A ||
  (0x140 ≤ n && n ≤ 0x144) || n == 0x14D || n == 0x150 || n == 0x151 || n == 0x15C || n == 0xDB0 || n == 0x180 || n == 0x5C0 || n == 0xDC0 ||
  n == 0x302 || n == 0x303 || n == 0x308 || n == 0x309 || n == 0x34A || n == 0x34B ||
  n == 0x600 || (0x602 ≤ n && n ≤ 0x60A) || (0x643 ≤ n && n ≤ 0x647) || n == 0x64A || n == 0x680 || n == 0xE12 ||
  n == 0x200 || n == 0x204 || n == 0x205 || (0x240 ≤ n && n ≤ 0x244) || n == 0x24D || n == 0x250 || n == 0x251 || n == 0x25C || n == 0x280 || n == 0xEB0 ||
  (0xC20 ≤ n && n ≤ 0xC22)

def csrExists (h : HartId) (n : Nat) : Bool := if isT h then csrOnT n else csrOnS n

/-- The VS register that a supervisor CSR names in VS mode. -/
def vsAlias (n : Nat) : Nat :=
  if n = 0x100 ∨ n = 0x104 ∨ n = 0x105 ∨ (0x140 ≤ n ∧ n ≤ 0x144) ∨ n = 0x14D ∨ n = 0x150 ∨ n = 0x151 ∨ n = 0x15C ∨ n = 0x180 then n + 0x100
  else if n = 0xDB0 then 0xEB0 else n

/-- What an access check finds. -/
inductive CsrAccess where
  | ok | illegal | virt
  deriving DecidableEq, Repr

/-- Counter permission of cycle, time, instret and hpmcounters (R398). -/
def counterAccess (c : Hart) (t : Bool) (n : Nat) : CsrAccess :=
  let i := n - 0xC00
  let mOk := c.csrBit 0x306 i
  let hOk := c.csrBit 0x606 i
  let sOk := c.csrBit 0x106 i
  match c.mode with
  | .m => .ok
  | .hs => if mOk then .ok else .illegal
  | .u => if mOk && (sOk || !t) then .ok else .illegal
  | .vs => if !mOk then .illegal else if hOk then .ok else .virt
  | .vu => if !mOk then .illegal else if hOk && sOk then .ok else .virt

/-- The guest file that hstatus.VGEIN selects. -/
def Hart.vgein (c : Hart) : Nat := fld (c.csrRaw 0x600) 17 12

/-- Whether *iselect names a register of the hart or of a file: the priority registers 0x30 to 0x3F, which read as zero (R120), and the file's 0x70 to
0xFF; with 64-bit registers the odd numbers among the priorities and the bit arrays do not exist (AIA). -/
def selOk (prio : Bool) (sel : Nat) : Bool :=
  (prio && decide (0x30 ≤ sel) && decide (sel < 0x40) && sel % 2 == 0) || (decide (0x70 ≤ sel) && decide (sel < 0x80)) ||
  (decide (0x80 ≤ sel) && decide (sel < 0x100) && sel % 2 == 0)

/-- Whether the register behind *ireg or *topei exists: a guest's only while VGEIN names a guest file (AIA). -/
def indirectAccess (c : Hart) (n : Nat) : CsrAccess :=
  let no : CsrAccess := if modeVirt c.mode then .virt else .illegal
  let guest := decide (1 ≤ c.vgein) && decide (c.vgein ≤ 7)
  match if modeVirt c.mode then vsAlias n else n with
  | 0x351 => if selOk true (c.csrRaw 0x350).toNat then .ok else .illegal
  | 0x151 => if selOk true (c.csrRaw 0x150).toNat then .ok else .illegal
  | 0x251 =>
    let sel := (c.csrRaw 0x250).toNat
    if 0x30 ≤ sel ∧ sel < 0x40 then no
    else if !(selOk false sel) then .illegal
    else if guest then .ok else no
  | 0x25C => if guest then .ok else no
  | _ => .ok

/-- Whether a hart may access a CSR in its mode (R47, R57 and the privileged specification). -/
def csrAccess (h : HartId) (c : Hart) (n : Nat) (write : Bool) : CsrAccess :=
  if !(csrExists h n) then .illegal
  else if write && n / 0x400 == 3 then .illegal
  else if n == 0xCC0 then .ok
  else if 0xC00 ≤ n && n ≤ 0xC1F then counterAccess c (isT h) n
  else
    let lvl := n / 0x100 % 4
    let prv := modePrv c.mode
    let noFp := ((1 ≤ n && n ≤ 3) && decide (fld (c.csrRaw 0x300) 14 13 = 0))
    let noV := (((8 ≤ n && n ≤ 0xF) || (0xC20 ≤ n && n ≤ 0xC22)) && decide (fld (c.csrRaw 0x300) 10 9 = 0))
    let noFpV := modeVirt c.mode && ((1 ≤ n && n ≤ 3) && decide (fld (c.csrRaw 0x200) 14 13 = 0))
    let noVV := modeVirt c.mode && (((8 ≤ n && n ≤ 0xF) || (0xC20 ≤ n && n ≤ 0xC22)) && decide (fld (c.csrRaw 0x200) 10 9 = 0))
    if noFp || noV || noFpV || noVV then .illegal
    else if n == 0x5C0 || n == 0xDC0 then (match c.mode with | .m => .ok | .hs => .ok | .u => .illegal | _ => .virt)
    else if 0x7A0 ≤ n && n ≤ 0x7A4 then (if prv = 3 then .ok else .illegal)
    else if modeVirt c.mode then
      if lvl = 3 then .illegal
      else if lvl = 2 then .virt
      else if lvl = 1 then
        (if prv = 0 then .virt
         else if n == 0x180 && c.csrBit 0x600 20 then .virt
         else if (n == 0x104 || n == 0x144 || n == 0x14D) && c.vti then .virt
         else if n == 0x14D && !(c.csrBit 0x30A 63 && c.csrBit 0x306 1) then .illegal
         else if n == 0x14D && !(c.csrBit 0x60A 63 && c.csrBit 0x606 1) then .virt
         else indirectAccess c n)
      else .ok
    else if (if lvl = 2 then 1 else lvl) > prv then .illegal
    else if n == 0x180 && prv = 1 && c.csrBit 0x300 20 then .illegal
    else if n == 0x680 && prv = 1 && c.csrBit 0x300 20 then .illegal
    else if (n == 0x14D || n == 0x24D) && prv = 1 && !(c.csrBit 0x30A 63 && c.csrBit 0x306 1) then .illegal
    else indirectAccess c n

/-! ### Reads -/

/-- Configuration byte of PMP entry `i`. -/
def Hart.pmpcfg (c : Hart) (i : Nat) : Nat := (byteAt (c.csrRaw (if i < 8 then 0x3A0 else 0x3A2)) (i % 8)).toNat

/-- Bits of mstatus that sstatus shows, and those of them that a write of sstatus or vsstatus changes. -/
def sstatusMask : Word := 0x8000_0003_000D_E762
def sstatusWr : Word := 0xC_6722
def isDirty (v : Word) : Bool := fld v 14 13 == 3 || fld v 10 9 == 3
/-- SD, UXL and SXL as read. -/
def statusRead (v : Word) (wide : Bool) : Word :=
  (v ||| (if isDirty v then 0x8000_0000_0000_0000 else 0)) ||| 0x2_0000_0000 ||| (if wide then 0x8_0000_0000 else 0)

/-- IMSIC and priority registers behind *iselect (R380, R120). -/
def indirectRead (f : ImFile) (sel : Nat) : Word :=
  if sel = 0x70 then f.deliv
  else if sel = 0x72 then f.thresh.setWidth 64
  else if 0x80 ≤ sel ∧ sel ≤ 0xBF ∧ sel % 2 = 0 then BitVec.ofNat 64 (f.eip.toNat / 2 ^ (32 * (sel - 0x80)) % 2 ^ 64)
  else if 0xC0 ≤ sel ∧ sel ≤ 0xFF ∧ sel % 2 = 0 then BitVec.ofNat 64 (f.eie.toNat / 2 ^ (32 * (sel - 0xC0)) % 2 ^ 64)
  else 0

/-- A register behind *iselect after a write: identity 0 stays clear. -/
def indirectWrite (f : ImFile) (sel : Nat) (v : Word) : ImFile :=
  let put (o : BitVec 2048) (k : Nat) : BitVec 2048 :=
    let mk : BitVec 2048 := BitVec.ofNat 2048 ((2 ^ 64 - 1) * 2 ^ (32 * k))
    ((o &&& ~~~mk) ||| (BitVec.ofNat 2048 (v.toNat * 2 ^ (32 * k)))) &&& ~~~1
  if sel = 0x70 then { f with deliv := if v = 1 then 1 else 0 }
  else if sel = 0x72 then { f with thresh := v.setWidth 11 }
  else if 0x80 ≤ sel ∧ sel ≤ 0xBF ∧ sel % 2 = 0 then { f with eip := put f.eip (sel - 0x80) }
  else if 0xC0 ≤ sel ∧ sel ≤ 0xFF ∧ sel % 2 = 0 then { f with eie := put f.eie (sel - 0xC0) }
  else f

/-- The file registers that an *iselect register reaches: machine, supervisor, or the selected guest's. -/
def isel (c : Hart) (n : Nat) : Option (ImFileKind × Nat) :=
  match n with
  | 0x351 => some (.mach, (c.csrRaw 0x350).toNat)
  | 0x151 => some (.sup, (c.csrRaw 0x150).toNat)
  | 0x251 => if 1 ≤ c.vgein ∧ c.vgein ≤ 7 then some (.guest (Fin.ofNat 8 c.vgein), (c.csrRaw 0x250).toNat) else none
  | _ => none

/-- The file behind a *topei register. -/
def topeiFile (c : Hart) (n : Nat) : Option ImFileKind :=
  match n with
  | 0x35C => some .mach
  | 0x15C => some .sup
  | 0x25C => if 1 ≤ c.vgein ∧ c.vgein ≤ 7 then some (.guest (Fin.ofNat 8 c.vgein)) else none
  | _ => none

/-- A major interrupt as *topi reports it, with priority number 1. -/
def topiWord (o : Option Nat) : Word := match o with | some i => BitVec.ofNat 64 (i * 2 ^ 16 + 1) | none => 0

/-- The value that a CSR reads (R43, R57 to R62, R398). -/
def State.csrRead (s : State) (h : HartId) (n0 : Nat) : Word :=
  let c := s.hart h
  let n := if modeVirt c.mode then vsAlias n0 else n0
  let t := isT h
  match n with
  | 0x001 => BitVec.ofNat 64 (fld (c.csrRaw 0x003) 4 0)
  | 0x002 => BitVec.ofNat 64 (fld (c.csrRaw 0x003) 7 5)
  | 0x009 => BitVec.ofNat 64 (fld (c.csrRaw 0x00F) 0 0)
  | 0x00A => BitVec.ofNat 64 (fld (c.csrRaw 0x00F) 2 1)
  | 0x100 => statusRead (c.csrRaw 0x300) false &&& (sstatusMask ||| 0x3_0000_0000)
  | 0x104 => c.csrRaw 0x304 &&& c.mideleg t &&& 0x222
  | 0x144 => s.mip h &&& c.mideleg t &&& 0x222
  | 0x200 => statusRead (c.csrRaw 0x200) false
  | 0x204 => ((c.csrRaw 0x304 &&& c.csrRaw 0x603) >>> 1) &&& 0x222
  | 0x244 => ((s.mip h &&& c.csrRaw 0x603) >>> 1) &&& 0x222
  | 0x300 => if t then statusRead (c.csrRaw 0x300) true else c.csrRaw 0x300 ||| 0x2_0000_0000
  | 0x301 => if t then 0x8000_0000_0034_11AD else 0x8000_0000_0010_1105
  | 0x303 => c.mideleg t
  | 0x344 => s.mip h
  | 0x309 => c.csrRaw 0x344 &&& (if c.csrBit 0x30A 63 then 0x202 else 0x222)
  | 0x600 => c.csrRaw 0x600 ||| 0x2_0000_0000
  | 0x604 => c.csrRaw 0x304 &&& 0x1444
  | 0x644 => s.mip h &&& 0x1444
  | 0xE12 => s.hgeip h
  | 0x351 => match isel c n with | some (f, k) => indirectRead (s.file h f) k | none => 0
  | 0x151 => match isel c n with | some (f, k) => indirectRead (s.file h f) k | none => 0
  | 0x251 => match isel c n with | some (f, k) => indirectRead (s.file h f) k | none => 0
  | 0x35C => match topeiFile c n with | some f => BitVec.ofNat 64 ((s.file h f).top * 65537) | none => 0
  | 0x15C => match topeiFile c n with | some f => BitVec.ofNat 64 ((s.file h f).top * 65537) | none => 0
  | 0x25C => match topeiFile c n with | some f => BitVec.ofNat 64 ((s.file h f).top * 65537) | none => 0
  | 0xFB0 => topiWord (topOf (s.mip h &&& c.csrRaw 0x304 &&& ~~~(c.mideleg t)))
  | 0xDB0 => topiWord (topOf (s.mip h &&& c.csrRaw 0x304 &&& c.mideleg t &&& ~~~(c.csrRaw 0x603)))
  | 0xEB0 => s.vstopi h
  | 0xC01 => BitVec.ofNat 64 s.time + (if modeVirt c.mode then c.csrRaw 0x605 else 0)
  | 0xC20 => c.csrRaw 0xC20
  | 0xC22 => 32
  | 0xCC0 => BitVec.ofNat 64 s.brine.free
  | 0xF11 => 0x0B3A
  | 0xF12 => if t then 0x8000_0000_0000_0001 else 0x8000_0000_0000_0002
  | 0xF13 => 0x0010
  | 0xF14 => BitVec.ofNat 64 (hartNum h)
  | 0xF15 => 0
  | 0x7A1 => tabGet 0 c.csr (0x10000 + 4 * (c.csrRaw 0x7A0).toNat + 1)
  | 0x7A2 => tabGet 0 c.csr (0x10000 + 4 * (c.csrRaw 0x7A0).toNat + 2)
  | 0x7A3 => 0
  | 0x7A4 => 0x48
  | _ =>
    if 0xC00 ≤ n ∧ n ≤ 0xC1F then c.csrRaw (n - 0x100)
    else if 0x3B0 ≤ n ∧ n ≤ 0x3BF then
      (match c.pmpcfg (n - 0x3B0) / 8 % 4 with
      | 0 | 1 => c.csrRaw n &&& ~~~0x3FF
      | 3 => c.csrRaw n ||| 0x1FF
      | _ => c.csrRaw n)
    else c.csrRaw n

/-- The value that a set or clear form changes: of mip.SEIP only the bit that software wrote, not the file's signal (AIA). -/
def State.csrOld (s : State) (h : HartId) (n : Nat) : Word :=
  if n = 0x344 && isT h then (s.csrRead h n &&& ~~~0x200) ||| ((s.hart h).csrRaw 0x344 &&& 0x200) else s.csrRead h n

/-! ### Writes -/

/-- An address-translation register after a write: an unsupported MODE leaves it unchanged (R265). -/
def atpWrite (old v : Word) (g : Bool) : Word :=
  let m := fld v 63 60
  if m = 0 ∨ m = 8 ∨ m = 9 ∨ m = 10 then (if g then v &&& 0xF3FF_FFFF_FFFF_FFFC else v) else old

/-- One byte of pmpcfg after a write: a locked entry keeps its value; NA4 is not selectable with 4 KiB granularity and reads as OFF; a byte with W
and not R keeps its old value (R41, log entry 8). -/
def pmpcfgByte (old v : Nat) : Nat :=
  if old.testBit 7 then old
  else if v.testBit 1 && !(v.testBit 0) then old
  else
    let v := v % 32 + (if v.testBit 7 then 128 else 0)
    if v / 8 % 4 = 2 then v - 16 else v

/-- A pmpcfg register after a write. -/
def pmpcfgWrite (old v : Word) : Word :=
  BitVec.ofNat 64 (leNat ((List.range 8).map fun i => BitVec.ofNat 8 (pmpcfgByte (byteAt old i).toNat (byteAt v i).toNat)))

/-- Whether a pmpaddr register is locked, by its own entry or by a locked TOR entry above it. -/
def Hart.pmpLocked (c : Hart) (i : Nat) : Bool :=
  (c.pmpcfg i).testBit 7 || (decide (i < 15) && (c.pmpcfg (i + 1)).testBit 7 && c.pmpcfg (i + 1) / 8 % 4 == 1)

/-- Legal event codes (R401). -/
def eventOk (h : HartId) (e : Nat) : Bool := if isT h then e ≤ 0x1C else e ≤ 0x0D

/-- The stored value after a write of `v` to a CSR whose write touches only itself. -/
def csrStore (h : HartId) (c : Hart) (n : Nat) (v : Word) : Word :=
  let old := c.csrRaw n
  match n with
  | 0x105 => v &&& ~~~2
  | 0x205 => v &&& ~~~2
  | 0x305 => v &&& ~~~2
  | 0x141 => v &&& ~~~1
  | 0x241 => v &&& ~~~1
  | 0x341 => v &&& ~~~1
  | 0x180 => atpWrite old v false
  | 0x280 => atpWrite old v false
  | 0x680 => atpWrite old v true
  | 0x302 => v &&& 0xF0_B7FF
  | 0x303 => v &&& 0x222
  | 0x602 => v &&& 0xB1FF
  | 0x603 => v &&& 0x444
  | 0x304 => v &&& (if isT h then 0x1EEE else 0x888)
  | 0x607 => v &&& 0xFE
  | 0x645 => v &&& 0x444
  | 0x30A => if isT h then v &&& 0xA000_0000_0000_00F1 else v &&& 0x71
  | 0x60A => v &&& 0xA000_0000_0000_00F1
  | 0x10A => v &&& 0xF1
  | 0x320 => v &&& (if isT h then 0x7_FFFD else 0x7FD)
  | 0x106 => v &&& 0x7_FFFF
  | 0x306 => v &&& (if isT h then 0x7_FFFF else 0x7FF)
  | 0x606 => v &&& 0x7_FFFF
  | 0x308 => 0
  | 0x608 => 0
  | 0x609 => v &&& 0x4FFF_03FF
  | 0x646 => 0
  | 0x647 => 0
  | 0x3A0 => pmpcfgWrite old v
  | 0x3A2 => pmpcfgWrite old v
  | 0x600 => v &&& 0x73_F3C0
  | 0x5C0 => (old &&& 0x31) ||| (v &&& 0xE)
  | 0x008 => v &&& 0xFF
  | 0x150 => v &&& 0xFFF
  | 0x250 => v &&& 0xFFF
  | 0x350 => v &&& 0xFFF
  | 0x7A0 => if v.toNat < (if isT h then 8 else 4) then v else old
  | _ =>
    if 0x3B0 ≤ n ∧ n ≤ 0x3BF then (if c.pmpLocked (n - 0x3B0) then old else v &&& 0x3F_FFFF_FFFF_FFFF)
    else if 0x323 ≤ n ∧ n ≤ 0x33F then
      (if hpmTop h < n - 0x320 then 0 else
       let mk : Word := if isT h then 0xFC1F_07FF_0000_FFFF else 0xD01F_07FF_0000_FFFF
       let v := v &&& mk
       if eventOk h (fld v 15 0) then v else v &&& ~~~0xFFFF)
    else if 0xB03 ≤ n ∧ n ≤ 0xB1F then (if hpmTop h < n - 0xB00 then 0 else v)
    else v

/-- mstatus after a write: the fields of the core type, MPP and FS and VS legal. -/
def mstatusWrite (h : HartId) (old v : Word) : Word :=
  if isT h then
    let mpp := fld v 12 11
    let v := if mpp = 2 then putFld v 12 11 (fld old 12 11) else v
    v &&& 0xC0_007E_7FAA
  else
    let mpp := fld v 12 11
    let v := if mpp = 3 ∨ mpp = 0 then v else putFld v 12 11 (fld old 12 11)
    v &&& 0x22_1888

/-- tdata1 after a write by M-mode software: type 6 (mcontrol6, equality match), type 3 (icount), else disabled; Debug Mode alone owns a
trigger or selects action 1 (R489). -/
def tdata1Write (v : Word) : Word :=
  match fld v 63 60 with
  | 6 => 0x6000_0000_0000_0000 ||| (v &&& 0x187_005F)
  | 3 => 0x3000_0000_0000_0000 ||| (v &&& 0x6FF_FEC0)
  | _ => 0xF000_0000_0000_0000
/-- tdata1 after a write from Debug Mode, which may own the trigger (dmode) and select action 1 with it (R489). -/
def tdata1Debug (v : Word) : Word :=
  let own := v &&& 0x0800_0000_0000_0000
  let act : Word := if own = 0 then 0 else 1
  match fld v 63 60 with
  | 6 => tdata1Write v ||| own ||| (if fld v 15 12 = 1 then act <<< 12 else 0)
  | 3 => tdata1Write v ||| own ||| (if fld v 5 0 = 1 then act else 0)
  | _ => tdata1Write v
/-- Whether Debug Mode owns the trigger that tselect names: M-mode software does not change it. -/
def Hart.trigOwned (c : Hart) : Bool := (tabGet 0 c.csr (0x10000 + 4 * (c.csrRaw 0x7A0).toNat + 1)).getLsbD 59

/-- A write of a CSR to a hart's own storage. -/
def Hart.csrWrite (h : HartId) (c : Hart) (n : Nat) (v : Word) : Hart :=
  let fs (c : Hart) : Hart :=
    let c := c.csrPut 0x300 (putFld (c.csrRaw 0x300) 14 13 3)
    if modeVirt c.mode then c.csrPut 0x200 (putFld (c.csrRaw 0x200) 14 13 3) else c
  let vsd (c : Hart) : Hart :=
    let c := c.csrPut 0x300 (putFld (c.csrRaw 0x300) 10 9 3)
    if modeVirt c.mode then c.csrPut 0x200 (putFld (c.csrRaw 0x200) 10 9 3) else c
  match n with
  | 0x001 => fs (c.csrPut 0x003 (putFld (c.csrRaw 0x003) 4 0 v.toNat))
  | 0x002 => fs (c.csrPut 0x003 (putFld (c.csrRaw 0x003) 7 5 v.toNat))
  | 0x003 => fs (c.csrPut 0x003 (v &&& 0xFF))
  | 0x008 => vsd (c.csrPut 0x008 (v &&& 0xFF))
  | 0x009 => vsd (c.csrPut 0x00F (putFld (c.csrRaw 0x00F) 0 0 v.toNat))
  | 0x00A => vsd (c.csrPut 0x00F (putFld (c.csrRaw 0x00F) 2 1 v.toNat))
  | 0x00F => vsd (c.csrPut 0x00F (v &&& 7))
  | 0x100 => c.csrPut 0x300 ((c.csrRaw 0x300 &&& ~~~sstatusWr) ||| (v &&& sstatusWr))
  | 0x200 => c.csrPut 0x200 (v &&& sstatusWr)
  | 0x300 => c.csrPut 0x300 (mstatusWrite h (c.csrRaw 0x300) v)
  | 0x104 => let m := c.mideleg (isT h) &&& 0x222; c.csrPut 0x304 ((c.csrRaw 0x304 &&& ~~~m) ||| (v &&& m))
  | 0x604 => c.csrPut 0x304 ((c.csrRaw 0x304 &&& ~~~0x1444) ||| (v &&& 0x1444))
  | 0x204 => let m := c.csrRaw 0x603 &&& 0x444; c.csrPut 0x304 ((c.csrRaw 0x304 &&& ~~~m) ||| ((v <<< 1) &&& m))
  | 0x144 => let m := c.mideleg (isT h) &&& 2; c.csrPut 0x344 ((c.csrRaw 0x344 &&& ~~~m) ||| (v &&& m))
  | 0x244 => let m := c.csrRaw 0x603 &&& 4; c.csrPut 0x645 ((c.csrRaw 0x645 &&& ~~~m) ||| ((v <<< 1) &&& m))
  | 0x644 => c.csrPut 0x645 ((c.csrRaw 0x645 &&& ~~~4) ||| (v &&& 4))
  | 0x344 => if isT h then (c.csrPut 0x344 (v &&& 0x222)).csrPut 0x645 ((c.csrRaw 0x645 &&& ~~~4) ||| (v &&& 4)) else c
  | 0x309 => c.csrPut 0x344 (v &&& 0x222)
  | 0x301 => c
  | 0x7A1 => if c.trigOwned then c else c.csrPut (0x10000 + 4 * (c.csrRaw 0x7A0).toNat + 1) (tdata1Write v)
  | 0x7A2 => if c.trigOwned then c else c.csrPut (0x10000 + 4 * (c.csrRaw 0x7A0).toNat + 2) v
  | 0x7A3 | 0x7A4 => c
  | _ => c.csrPut n (csrStore h c n v)

/-- XPRED.FLUSH: the direction predictor, the target buffers and the return stack are empty (R53). -/
def Hart.predFlush (c : Hart) : Hart := { c with pred := { Pred.empty with mdp := c.pred.mdp } }

/-- A CSR write with its effects beyond the register: IMSIC registers, claims, and the flush of FLUSHSATP (R58, R397). -/
def State.csrWrite (s : State) (h : HartId) (n0 : Nat) (v : Word) : State :=
  let c := s.hart h
  let n := if modeVirt c.mode then vsAlias n0 else n0
  match isel c n with
  | some (f, k) => s.setFile h f (indirectWrite (s.file h f) k v)
  | none =>
    match topeiFile c n with
    | some f => let i := (s.file h f).top; s.setFile h f { s.file h f with eip := (s.file h f).eip &&& ~~~(BitVec.ofNat 2048 (2 ^ i)) }
    | none =>
      let c' := c.csrWrite h n v
      let c' := if (n = 0x180 ∨ n = 0x280 ∨ n = 0x680) ∧ c.csrBit 0x5C0 3 then c'.predFlush else c'
      s.setHart h c'

/-- CSR writes that do not serialize (R81, R119). -/
def nonSerial (h : HartId) (n : Nat) : Bool :=
  if isT h then n == 1 || n == 2 || n == 3 || n == 8 || n == 9 || n == 0xA
  else (0x340 ≤ n && n ≤ 0x343) || n == 0x35C || n == 0xB00 || (0xB02 ≤ n && n ≤ 0xB1F)

end Sys2Proof.Machine
end

