-- ==== Sys2Proof/Machine/Traps.lean ====
section
/-!
DEFINITION. Taking a trap and returning from one (R100, R101, R120 to R124, R279, R280), and what
surrounds every instruction of a hart: when it may issue, triggers, and how it retires.
-/
namespace Sys2Proof.Machine

/-! ### Taking a trap -/

/-- What a trap carries. -/
structure Trap where
  cause : Nat
  intr : Bool
  tval : Word
  xwfd : Word
  tval2 : Word
  tinst : Word
  gva : Bool := false         -- tval is a guest virtual address of a hypervisor access (R268)
  toVs : Bool := false        -- an interrupt that VS-mode takes
  deriving DecidableEq, Repr

/-- An exception with a trap value and nothing else. -/
def excep (cause : Nat) (tval : Word) : Trap := { cause := cause, intr := false, tval := tval, xwfd := 0, tval2 := 0, tinst := 0 }

/-- Access faults, page faults and guest-page faults: the traps that rewrite xwfd (R59). -/
def rewritesXwfd (cause : Nat) : Bool := [1, 5, 7, 12, 13, 15, 20, 21, 23].contains cause

/-- Causes whose trap value is a guest virtual address when taken from a guest. -/
def addrCause (cause : Nat) : Bool := [0, 1, 3, 4, 5, 6, 7, 12, 13, 15, 20, 21, 23].contains cause

/-- The mode that takes a trap: delegation through medeleg, mideleg, hedeleg and hideleg. -/
def trapTarget (t : Bool) (c : Hart) (i : Trap) : Mode :=
  if !t || c.mode == .m then .m
  else if i.toVs && modeVirt c.mode then .vs
  else
    let md := if i.intr then c.mideleg t else c.csrRaw 0x302
    let hd := if i.intr then c.csrRaw 0x603 else c.csrRaw 0x602
    if !(md.getLsbD i.cause) then .m
    else if modeVirt c.mode && hd.getLsbD i.cause then .vs
    else .hs

/-- The cause register's value. -/
def causeWord (i : Trap) (vs : Bool) : Word :=
  let n := if vs && i.intr then i.cause - 1 else i.cause
  BitVec.ofNat 64 n ||| (if i.intr then 0x8000_0000_0000_0000 else 0)

/-- The handler's address: vectored interrupts add four times the cause. -/
def vectorOf (tvec : Word) (i : Trap) (vs : Bool) : Word :=
  let base := tvec &&& ~~~3
  if tvec.getLsbD 0 && i.intr then base + BitVec.ofNat 64 (4 * (if vs then i.cause - 1 else i.cause)) else base

/-- Enters a trap from the instruction at pc: which registers save the pc and the status, what the status and mode become, and where the
pc goes (R100, R121, R279, R280); xwfd and the flush of FLUSHTRAP (R58, R59). -/
def Hart.enterTrap (t : Bool) (c : Hart) (i : Trap) : Hart :=
  let v := modeVirt c.mode
  let prv := modePrv c.mode
  let gva := (v && !i.intr && addrCause i.cause) || i.gva
  let c := if t && rewritesXwfd i.cause && !i.intr then c.csrPut 0xDC0 i.xwfd else c
  let c := if t && c.csrBit 0x5C0 2 then c.predFlush else c
  match trapTarget t c i with
  | .vs =>
    let st := c.csrRaw 0x200
    let st := putFld (putFld (putFld st 5 5 (fld st 1 1)) 1 1 0) 8 8 prv
    let c := ((((c.csrPut 0x241 c.pc).csrPut 0x242 (causeWord i true)).csrPut 0x243 i.tval).csrPut 0x200 st)
    { c with mode := .vs, pc := vectorOf (c.csrRaw 0x205) i true }
  | .hs =>
    let st := c.csrRaw 0x300
    let st := putFld (putFld (putFld st 5 5 (fld st 1 1)) 1 1 0) 8 8 (if prv = 0 then 0 else 1)
    let hs := c.csrRaw 0x600
    let hs := putFld (putFld hs 7 7 (b2n v)) 6 6 (b2n gva)
    let hs := if v then putFld hs 8 8 (if prv = 0 then 0 else 1) else hs
    let c := ((((c.csrPut 0x141 c.pc).csrPut 0x142 (causeWord i false)).csrPut 0x143 i.tval).csrPut 0x300 st)
    let c := ((c.csrPut 0x600 hs).csrPut 0x643 i.tval2).csrPut 0x64A i.tinst
    { c with mode := .hs, pc := vectorOf (c.csrRaw 0x105) i false }
  | _ =>
    let st := c.csrRaw 0x300
    let st := putFld (putFld (putFld st 7 7 (fld st 3 3)) 3 3 0) 12 11 prv
    let st := if t then putFld (putFld st 39 39 (b2n v)) 38 38 (b2n gva) else st
    let c := ((((c.csrPut 0x341 c.pc).csrPut 0x342 (causeWord i false)).csrPut 0x343 i.tval).csrPut 0x300 st)
    let c := if t then (c.csrPut 0x34B i.tval2).csrPut 0x34A i.tinst else c
    { c with mode := .m, pc := vectorOf (c.csrRaw 0x305) i false }

/-! ### Debug Mode (R486, R489, R491) -/

/-- Whether the debug level lets a debugger reach a hart: every hart at Platform and Open, the owner set of the named instance at Tenant (R482, R486). -/
def State.permitted (s : State) (h : HartId) : Bool :=
  match s.sec.level with
  | 0 => false
  | 1 =>
    let v := tabGet Instance.reset s.eng.insts s.sec.inst
    v.st != .none && decide (v.first ≤ hartNum h) && decide (hartNum h ≤ v.last)
  | _ => true
/-- Whether a hart may enter Debug Mode now: at Tenant not in M-mode (R486). -/
def State.mayHalt (s : State) (h : HartId) : Bool := s.permitted h && (s.sec.level != 1 || (s.hart h).mode != .m)

/-- The walks of a squashed instruction go on, but their faults are dropped (R275). -/
def Hart.orphanWalks (c : Hart) : List Walk := c.walks.map fun w => { w with live := false }

/-- The hart halts before the instruction at pc: dpc, and in dcsr the cause and the mode. -/
def Hart.enterDebug (c : Hart) (cause : Nat) : Hart :=
  let c := c.dropEarly
  let d := putFld (putFld (putFld (c.csrRaw 0x7B0) 8 6 cause) 5 5 (b2n (modeVirt c.mode))) 1 0 (modePrv c.mode)
  { ((c.csrPut 0x7B1 c.pc).csrPut 0x7B0 d) with halted := true, haltReq := false, stepAt := none, walks := c.orphanWalks, wfaults := [], fence := none, entry := none, begun := false }

/-- The mark of a trigger with action 1: no exception has this cause. -/
def debugCause : Nat := 64

/-- Takes a trap on a hart: younger work is squashed, and an S-core counts an entry (R100, R121, R401). A trigger with action 1 halts the hart. -/
def State.trap (s : State) (h : HartId) (i : Trap) : State :=
  if i.cause = debugCause then s.updHart h fun c => c.enterDebug 2 else
  let t := isT h
  let s := s.updHart h fun c => { (c.dropEarly.enterTrap t i) with fence := none, walks := c.orphanWalks, wfaults := [], begun := false, entry := if t then none else some i.cause }
  if t then s else s.event h 0x0B 1

/-! ### Returning from a trap -/

/-- MRET: the status and mode that mstatus saved, and pc from mepc; leaving M-mode clears MPRV. -/
def Hart.mret (t : Bool) (c : Hart) : Hart :=
  let st := c.csrRaw 0x300
  let mpp := fld st 12 11
  let mpv := t && st.getLsbD 39
  let st := putFld (putFld (putFld st 3 3 (fld st 7 7)) 7 7 1) 12 11 0
  let st := if t then putFld st 39 39 0 else st
  let st := if mpp = 3 then st else putFld st 17 17 0
  { (c.csrPut 0x300 st) with mode := modeOf mpp (mpv && decide (mpp ≠ 3)), pc := c.csrRaw 0x341 }

/-- SRET in M or HS mode: sstatus and hstatus.SPV; in VS mode: vsstatus. -/
def Hart.sret (c : Hart) : Hart :=
  if modeVirt c.mode then
    let st := c.csrRaw 0x200
    let spp := fld st 8 8
    let st := putFld (putFld (putFld st 1 1 (fld st 5 5)) 5 5 1) 8 8 0
    { (c.csrPut 0x200 st) with mode := modeOf spp true, pc := c.csrRaw 0x241 }
  else
    let st := c.csrRaw 0x300
    let spp := fld st 8 8
    let hs := c.csrRaw 0x600
    let v := hs.getLsbD 7
    let st := putFld (putFld (putFld (putFld st 1 1 (fld st 5 5)) 5 5 1) 8 8 0) 17 17 0
    { ((c.csrPut 0x300 st).csrPut 0x600 (putFld hs 7 7 0)) with mode := modeOf spp v, pc := c.csrRaw 0x141 }

/-! ### Around an instruction -/

/-- Whether a hart issues instructions: out of reset, not fatal, stopped, halted, asleep or powered off, and with no access, fence or
entry that holds up issue (R93, R118, R149, R451, R460, R468, R491, R515). -/
def Hart.runs (c : Hart) : Bool :=
  !c.held && !c.fatal && !c.rstBusy && !c.stopped && !c.halted && c.idle == .run && c.uload == [] && c.fence == none

def State.canIssue (s : State) (h : HartId) : Bool := s.phase == .run && (s.hart h).runs

/-- tdata1 of trigger `i` (R489). -/
def Hart.tdata1 (c : Hart) (i : Nat) : Word := tabGet 0 c.csr (0x10000 + 4 * i + 1)
def Hart.tdata2 (c : Hart) (i : Nat) : Word := tabGet 0 c.csr (0x10000 + 4 * i + 2)
/-- Action of a trigger: 0 a breakpoint exception, 1 Debug Mode. -/
def trigAct (w : Word) : Nat := if fld w 63 60 = 3 then fld w 5 0 else fld w 15 12
/-- Whether a trigger is enabled in the hart's mode; with action 0 not in M-mode while MIE = 0. -/
def Hart.trigOn (c : Hart) (w : Word) (icount : Bool) : Bool :=
  let b (i : Nat) : Bool := w.getLsbD i
  let en := match c.mode with
    | .m => b (if icount then 9 else 6)
    | .hs => b (if icount then 7 else 4)
    | .u => b (if icount then 6 else 3)
    | .vs => b (if icount then 26 else 24)
    | .vu => b (if icount then 25 else 23)
  en && !(trigAct w == 0 && c.mode == .m && !(c.csrBit 0x300 3))
/-- The mcontrol6 trigger that matches an access: bit 2 execute, 1 store, 0 load. -/
def Hart.trigHit (t : Bool) (c : Hart) (kind : Nat) (a : Word) : Option Nat :=
  (List.range (if t then 8 else 4)).find? fun i =>
    let w := c.tdata1 i
    fld w 63 60 == 6 && w.getLsbD kind && c.trigOn w false && c.tdata2 i == a
/-- An icount trigger whose count has run out. -/
def Hart.icountDue (t : Bool) (c : Hart) : Option Nat :=
  (List.range (if t then 8 else 4)).find? fun i => fld (c.tdata1 i) 63 60 == 3 && (c.tdata1 i).getLsbD 8 && c.trigOn (c.tdata1 i) true
/-- What trigger `i` of a hart does. -/
def State.trigTrap (s : State) (h : HartId) (i : Nat) (tval : Word) : Trap :=
  if trigAct ((s.hart h).tdata1 i) = 1 && s.mayHalt h then excep debugCause 0 else excep 3 tval
/-- An instruction retires: icount triggers count down. -/
def Hart.icountTick (c : Hart) (n : Nat) : Hart :=
  (List.range n).foldl (fun c i =>
    let w := c.tdata1 i
    if fld w 63 60 == 3 && fld w 23 10 != 0 && c.trigOn w true
    then c.csrPut (0x10000 + 4 * i + 1) (putFld (putFld w 23 10 (fld w 23 10 - 1)) 8 8 (b2n (fld w 23 10 == 1))) else c) c

/-- Records when a register's result is available (R80, R113). -/
def Hart.busy (c : Hart) (r lat : Nat) : Hart := if r = 0 then c else { c with ready := tabSet 0 c.ready r (c.clock + lat) }

/-- The cycles an instruction waits for its registers: in-order issue waits on sources and destination (R113). -/
def Hart.stall (c : Hart) (rs : List Nat) : Nat := rs.foldl (fun m r => max m (tabGet 0 c.ready r - c.clock)) 0

/-- Why a hart halts before its next instruction: a halt request (3) or a completed step (4). -/
def State.haltDue (s : State) (h : HartId) : Option Nat :=
  let c := s.hart h
  if !(s.mayHalt h) || c.begun then none
  else if c.haltReq then some 3
  else if c.stepAt.any fun p => p != (c.seq, c.pc) then some 4 else none

end Sys2Proof.Machine
end

