-- ==== Sys2Proof/Machine/Translate.lean ====
section
/-!
DEFINITION. PMP and PMA checks (R27 to R29, R41), the coherent view of memory, and the translation of one address of an access: from the TLB, a fault,
or the start of a walk (R265 to R275, R281).
-/
namespace Sys2Proof.Machine

/-! ### PMP -/

/-- Range of PMP entry `i`: [low, high) in bytes, or none when it is off. Granularity 4 KiB (R41). -/
def Hart.pmpRange (c : Hart) (i : Nat) : Option (Nat × Nat) :=
  let a := (c.csrRaw (0x3B0 + i)).toNat
  match c.pmpcfg i / 8 % 4 with
  | 1 =>
    let lo := if i = 0 then 0 else (c.csrRaw (0x3B0 + i - 1)).toNat / 1024 * 4096
    some (lo, a / 1024 * 4096)
  | 3 =>
    let a := a ||| 0x1FF
    let k := ctzN 54 (2 ^ 54 - 1 - a)
    some (a / 2 ^ (k + 1) * 2 ^ (k + 3), (a / 2 ^ (k + 1) + 1) * 2 ^ (k + 3))
  | _ => none

/-- Whether PMP permits an access at a privilege: `bit` 0 read, 1 write, 2 execute. The first entry that matches a byte decides and must cover all. -/
def Hart.pmpOk (c : Hart) (prv pa size bit : Nat) : Bool :=
  let hit (i : Nat) : Bool := match c.pmpRange i with | some (lo, hi) => decide (pa < hi) && decide (lo < pa + size) | none => false
  match (List.range 16).find? hit with
  | none => prv == 3
  | some i =>
    match c.pmpRange i with
    | none => prv == 3
    | some (lo, hi) =>
      decide (lo ≤ pa) && decide (pa + size ≤ hi) && ((prv == 3 && !((c.pmpcfg i).testBit 7)) || (c.pmpcfg i).testBit bit)

/-! ### Targets -/

/-- What an access reaches (R29, R105, R135): its region, whether its PMA entry is I/O, and the entry's EWA, TMO and HELD. -/
structure Target where
  region : Region
  io : Bool
  ewa : Bool
  tmo : Nat
  held : Bool
  deriving DecidableEq, Repr

/-- Offset of a TCM address in the hart's TCMs: ITCM 0 to 0xFFFF, DTCM 0x1_0000 to 0x1_FFFF (R105). -/
def tcmOff (la : Nat) : Option Nat := if 0x100_0000 ≤ la ∧ la < 0x102_0000 then some (la - 0x100_0000) else none

/-- Access-fault cause of an access kind. -/
def accessFault : Acc → Nat | .fetch => 1 | .load => 5 | .store => 7
def pageFault : Acc → Nat | .fetch => 12 | .load => 13 | .store => 15
def guestFault : Acc → Nat | .fetch => 20 | .load => 21 | .store => 23
def misaligned : Acc → Nat | .fetch => 0 | .load => 4 | .store => 6
def pmpBit : Acc → Nat | .fetch => 2 | .load => 0 | .store => 1

/-- The PMP, PMA and range checks of an access to physical bytes (R27, R28, R106): the target, or none for an access fault. -/
def State.target (s : State) (h : HartId) (prv pa size : Nat) (acc : Acc) : Option Target :=
  let c := s.hart h
  if !(c.pmpOk prv pa size (pmpBit acc)) then none else
  let la := paLa pa
  let loc := s.isLocal pa
  match pmaFind s.pma.masters la loc with
  | none => none
  | some e =>
    let mk (r : Region) : Target := { region := r, io := e.io, ewa := e.ewa, tmo := e.tmo.toNat * 1000, held := e.held }
    if !loc then some (mk .remote)
    else if !(isT h) && (tcmOff la).isSome then (if e.io then none else some (mk .tcm))
    else if rangeFault s la (acc == .store) then none
    else if e.io then some (mk .io)
    else if e.c && areaOf s la == .dram then some (mk .cached)
    else some (mk .c0)

/-! ### The newest value of a line (R136, R164) -/

/-- Every flit on its way: waiting to be injected, in a buffer, delivered and not yet received, or in a fill buffer. -/
def State.flits (s : State) : List Flit :=
  (s.mesh.inject.flatMap fun (_, l) => l.map Prod.snd) ++ (s.mesh.bufs.flatMap fun (_, l) => l.map Prod.snd) ++ s.mesh.arrived ++ s.coh.fills

/-- Whether a flit carries a line's current data from one holder to another, or home. -/
def carriesLine (f : Flit) (ln : Nat) : Bool :=
  (f.op == .dataGrant || f.op == .probeData) && f.data.isSome && f.size != 2 && f.addr.toNat / 64 == ln

/-- Data of a line that has left its holder and not arrived: in a flit, or collected by the home for an answer not yet given. -/
def State.flying (s : State) (ln : Nat) : Option (Line × LineMask × Bool) :=
  match s.flits.find? fun f => carriesLine f ln with
  | some f => some (f.data.getD 0, f.mask, f.poison)
  | none =>
    match s.txn ln with
    | some t => if t.done then none else t.data.map fun d => (d, t.mask, t.poison)
    | none => none

/-- The newest value of a line, wherever it is: on its way, in a write-back buffer, with its owner, in the slice, or in memory. -/
def State.newest (s : State) (ln : Nat) : Line × Bool :=
  let base : Line × Bool := match s.sliceData ln with
    | some (d, m, p) => (if fullMask m then d else mergeLine (memLine s.mem.dram (64 * ln)) d m, p)
    | none => (memLine s.mem.dram (64 * ln), (tabGet LineMark.clean s.dram.marks ln).lost)
  match s.flying ln with
  | some (d, m, p) => (mergeLine base.1 d m, p)
  | none =>
  match s.coh.wb.find? fun e => lineOf e.la == ln && (e.st == .m || e.st == .o) with
  | some e => (mergeLine base.1 e.data e.mask, e.poison)
  | none =>
    match s.coh.l2.find? fun (k, c) => k % 2 ^ 41 == ln && (c.st == .m || c.st == .o || c.st == .e) with
    | some (_, c) => (mergeLine base.1 c.data c.mask, c.poison)
    | none => base

/-! ### Translation state of an access -/

/-- The mode whose translation and permissions apply to an explicit access (R268): MPRV, or SPVP for HLV and HSV. -/
def Hart.effMode (t : Bool) (c : Hart) (virt : Virt) : Mode :=
  if virt != .no then modeOf (fld (c.csrRaw 0x600) 8 8) true
  else if c.mode == .m && t && c.csrBit 0x300 17 then
    let mpp := fld (c.csrRaw 0x300) 12 11
    modeOf mpp (c.csrBit 0x300 39 && decide (mpp ≠ 3))
  else if c.mode == .m && !t && c.csrBit 0x300 17 then modeOf (fld (c.csrRaw 0x300) 12 11) false
  else c.mode

/-- Levels of a MODE: Sv39 3, Sv48 4, Sv57 5, Bare 0 (R265). -/
def atpLevels (atp : Word) : Nat := match fld atp 63 60 with | 8 => 3 | 9 => 4 | 10 => 5 | _ => 0
def atpPpn (atp : Word) : Nat := fld atp 43 0
/-- VMID of hgatp. -/
def Hart.vmid (c : Hart) : Nat := fld (c.csrRaw 0x680) 57 44

/-- A leaf's permissions for an access (PERMISSION of R60): `x` execute, `mxr`, `sum`, and U pages by mode. -/
def leafOk (r w x u : Bool) (acc : Acc) (user sum mxr hlvx : Bool) : Bool :=
  let uOk := if user then u else !u || (sum && acc != .fetch)
  uOk && (match acc with
    | .fetch => x
    | .load => if hlvx then x else r || (mxr && x)
    | .store => w)

/-- The result of translating one address. -/
inductive Xlate where
  | ok (pa : Nat)
  | fault (t : Trap)
  | walk (w : Walk)           -- a walk starts; the instruction executes again when it has ended
  deriving DecidableEq, Repr

/-- Whether a TLB entry matches (R270). -/
def TlbEntry.hits (e : TlbEntry) (rg : Regime) (va asid vmid : Nat) : Bool :=
  e.regime == rg && decide (e.vpn / 2 ^ (9 * e.level) = va / 4096 / 2 ^ (9 * e.level)) && (e.g || e.asid == asid || rg == .g) && (rg == .single || e.vmid == vmid)

/-- What an entry grants an access: MXR of vsstatus acts on the VS stage alone, that of mstatus on each stage. -/
def TlbEntry.grants (e : TlbEntry) (acc : Acc) (user sum vmxr hmxr hlvx : Bool) : Bool :=
  leafOk e.r e.w e.x e.u acc user sum false hlvx ||
  (acc == .load && !hlvx && ((vmxr && e.mv) || (hmxr && e.mh)) && leafOk true false false e.u .load user sum false false)

/-- The physical address of a hit. -/
def TlbEntry.addr (e : TlbEntry) (va : Nat) : Nat :=
  (e.ppn / 2 ^ (9 * e.level)) * 2 ^ (12 + 9 * e.level) + va % 2 ^ (12 + 9 * e.level)

/-- Whether an address is sign-extended from `n` bits. -/
def canonical (va : Word) (n : Nat) : Bool := (va.toNat / 2 ^ (n - 1) = 0) || (va.toNat / 2 ^ (n - 1) = 2 ^ (65 - n) - 1)

/-- xwfd (R59). -/
def xwfdWord (stage level reason ptea : Nat) : Word :=
  BitVec.ofNat 64 (2 ^ 63 + stage * 2 ^ 61 + level * 2 ^ 58 + reason * 2 ^ 53 + ptea / 8 % 2 ^ 53)
def stageCode : Regime → Nat | .single => 0 | .vs => 1 | .g => 2

/-- Where a walk reads its next PTE at a level: the table's page and the index in it. A G-stage root table has two more index bits. -/
def pteAddr (ppn va level : Nat) (gTop : Bool) : Nat := ppn * 4096 + (va / 2 ^ (12 + 9 * level) % (if gTop then 2048 else 512)) * 8

/-- The walk cache entry that skips most of a walk of `rg`: the lowest level held (R269). -/
def Hart.walkFrom (c : Hart) (rg : Regime) (va asid vmid top rootPpn : Nat) : Nat × Nat :=
  let hit (l : Nat) : Option WalkEntry := c.wcache.find? fun e =>
    e.regime == rg && e.level == l && decide (e.vpn = va / 2 ^ (12 + 9 * l)) && (e.asid == asid || rg == .g) && (rg == .single || e.vmid == vmid)
  match (List.range' 1 4).findSome? fun l => (hit l).map fun e => (l - 1, e.ppn) with
  | some r => r
  | none => (top, rootPpn)

/-- The G-stage walk of a guest physical address, through the GPA cache: `Sum.inl` the physical address (R269). -/
def Hart.gWalk (c : Hart) (w : Walk) (gpa : Nat) (outer : Option Nat) : Nat ⊕ Walk :=
  let hgatp := c.csrRaw 0x680
  match c.gcache.find? fun e => e.hits .g gpa 0 c.vmid with
  | some e => if outer.isSome then .inl (e.addr gpa) else
    let top := atpLevels hgatp - 1
    let (l, ppn) := c.walkFrom .g gpa 0 c.vmid top (atpPpn hgatp)
    .inr { w with stage := .g, level := l, top := top, gpa := gpa, outer := outer, ptea := pteAddr ppn gpa l (l == top), upd := none }
  | none =>
    let top := atpLevels hgatp - 1
    let (l, ppn) := c.walkFrom .g gpa 0 c.vmid top (atpPpn hgatp)
    .inr { w with stage := .g, level := l, top := top, gpa := gpa, outer := outer, ptea := pteAddr ppn gpa l (l == top), upd := none }

/-- The walk at the VS-stage PTE of a level: under a G stage, its address is translated first. -/
def Hart.vsStep (c : Hart) (w : Walk) (ppn level : Nat) : Walk :=
  let a := pteAddr ppn w.va.toNat level false
  let w := { w with stage := .vs, level := level, ptea := a, outer := none, upd := none }
  if atpLevels (c.csrRaw 0x680) = 0 then w else
  match c.gWalk w a (some level) with
  | .inl pa => { w with ptea := pa, gpa := a }
  | .inr w => w

/-- A fresh walk identifier: the lowest not in use. -/
def Hart.freeWalk (c : Hart) : Nat := ((List.range 6).find? fun k => !(c.walks.any fun w => w.id == k) && !(c.wreqs.any fun r => r.walk == k)).getD 6

/-- A walk from its root for an access, through the walk caches. -/
def Hart.rootWalk (c : Hart) (va : Word) (acc : Acc) (eff : Mode) (hlvx : Bool) : Walk :=
  let v := modeVirt eff
  let sum := if v then c.csrBit 0x200 18 else c.csrBit 0x300 18
  let mxr := if v then c.csrBit 0x200 19 || c.csrBit 0x300 19 else c.csrBit 0x300 19
  let w : Walk :=
    { id := c.freeWalk, va := va, acc := acc, eff := eff, sum := sum, mxr := mxr, hlvx := hlvx, live := true, stage := .single, level := 0, top := 0, ptea := 0, gpa := va.toNat,
      outer := none, vleaf := none, asid := 0, vmid := c.vmid, upd := none, adw := false, got := none }
  if v then
    let vsatp := c.csrRaw 0x280
    let w := { w with asid := fld vsatp 59 44 }
    if atpLevels vsatp = 0 then (match c.gWalk w va.toNat none with | .inl _ => w | .inr w => w)
    else
      let (l, ppn) := c.walkFrom .vs va.toNat w.asid w.vmid (atpLevels vsatp - 1) (atpPpn vsatp)
      c.vsStep { w with top := atpLevels vsatp - 1 } ppn l
  else
    let satp := c.csrRaw 0x180
    let asid := fld satp 59 44
    let (l, ppn) := c.walkFrom .single va.toNat asid 0 (atpLevels satp - 1) (atpPpn satp)
    { w with asid := asid, level := l, top := atpLevels satp - 1, ptea := pteAddr ppn va.toNat l false }

/-- A translation fault with no PTE formed: ADDRESS_RANGE at the mode's top level (R60, R279). -/
def rangeTrap (acc : Acc) (va : Word) (rg : Regime) (top : Nat) : Trap :=
  { cause := if rg = .g then guestFault acc else pageFault acc, intr := false, tval := va, xwfd := xwfdWord (stageCode rg) top 5 0,
    tval2 := if rg = .g then BitVec.ofNat 64 (va.toNat / 4) else 0, tinst := 0 }

/-- The entry of a TLB that translates an access, if any grants it (R270). -/
def Hart.leafIn (c : Hart) (l : List TlbEntry) (va : Word) (acc : Acc) (eff : Mode) (hlvx : Bool) : Option TlbEntry :=
  let v := modeVirt eff
  let a1 := if v then c.csrRaw 0x280 else c.csrRaw 0x180
  let rg : Regime := if !v then .single else if atpLevels a1 = 0 then .g else .vs
  let sum := if v then c.csrBit 0x200 18 else c.csrBit 0x300 18
  l.find? fun e => e.hits rg va.toNat (fld a1 59 44) c.vmid &&
    e.grants acc (if rg = .g then true else modePrv eff == 0) sum (v && c.csrBit 0x200 19) (c.csrBit 0x300 19) hlvx && (acc != .store || e.d)

/-- The L1 TLB of an access kind (R269). -/
def Hart.l1Tlb (c : Hart) (acc : Acc) : List TlbEntry := if acc = .fetch then c.itlb else c.dtlb

/-- Translates one address of an access, with what the L1 TLB of its kind holds (R265 to R270, R275, R281). -/
def State.xlate (s : State) (h : HartId) (va : Word) (acc : Acc) (eff : Mode) (hlvx : Bool) : Xlate :=
  let c := s.hart h
  let t := isT h
  let v := modeVirt eff
  let bare (a : Nat) : Xlate := if a < 2 ^ 56 then .ok a else .fault (excep (accessFault acc) va)
  if !t || eff == .m then bare va.toNat else
  let a1 := if v then c.csrRaw 0x280 else c.csrRaw 0x180
  let n1 := atpLevels a1
  let ng := if v then atpLevels (c.csrRaw 0x680) else 0
  if n1 = 0 ∧ ng = 0 then bare va.toNat
  else if n1 ≠ 0 ∧ !(canonical va (12 + 9 * n1)) then .fault (rangeTrap acc va (if v then .vs else .single) (n1 - 1))
  else if n1 = 0 ∧ ¬ va.toNat < 2 ^ (14 + 9 * ng) then .fault (rangeTrap acc va .g (ng - 1))
  else
    match c.wfaults.find? fun w => w.va == va && w.acc == acc with
    | some w => .fault { cause := w.cause, intr := false, tval := va, xwfd := w.xwfd, tval2 := w.tval2, tinst := w.tinst }
    | none =>
      match c.leafIn (c.l1Tlb acc) va acc eff hlvx with
      | some e => .ok (e.addr va.toNat)
      | none => .walk (c.rootWalk va acc eff hlvx)

/-- Whether two entries translate the same page. -/
def TlbEntry.same (e x : TlbEntry) : Bool := x.regime == e.regime && x.vpn / 2 ^ (9 * x.level) == e.vpn / 2 ^ (9 * e.level) && x.level == e.level && x.asid == e.asid && x.vmid == e.vmid
/-- Set of the L2 TLB: VPN[8:0] of a 4 KiB page, VPN[17:9] of a 2 MiB page; the larger pages have one set of their own (R269). -/
def TlbEntry.set (e : TlbEntry) : Nat := if e.level = 0 then e.vpn % 512 else if e.level = 1 then e.vpn / 512 % 512 else 512
/-- Puts an entry into the L2 TLB: 8 ways in each of 512 sets, and 32 entries of 1 GiB and larger pages. DESIGN CHOICE: the entry filled longest ago leaves; R269 names no
replacement (log entry 69). -/
def tlbPut (l : List TlbEntry) (e : TlbEntry) : List TlbEntry :=
  let l := l.filter fun x => !(e.same x)
  e :: ((l.filter fun x => x.set == e.set).take (if e.set = 512 then 31 else 7) ++ l.filter fun x => x.set != e.set)
/-- Puts an entry into the L1 TLB of an access kind: 64 entries for fetch, 96 for loads and stores (R269). -/
def Hart.fillL1 (c : Hart) (acc : Acc) (e : TlbEntry) : Hart :=
  if acc = .fetch then { c with itlb := (e :: c.itlb.filter fun x => !(e.same x)).take 64 }
  else { c with dtlb := (e :: c.dtlb.filter fun x => !(e.same x)).take 96 }

/-- Starts a walk: not twice for one page of an address space, at most 6 with one kept for fetch (R272). -/
def Hart.startWalk (c : Hart) (w : Walk) : Hart :=
  if c.walks.any fun x => x.va.toNat / 4096 == w.va.toNat / 4096 && modeVirt x.eff == modeVirt w.eff && x.asid == w.asid && x.vmid == w.vmid then c
  else if w.id < 6 && (w.acc == .fetch || decide ((c.walks.filter fun x => x.acc != .fetch).length < 5)) then { c with walks := c.walks ++ [w] } else c

/-- An access misses its L1 TLB: the L2 TLB gives the entry, or a walk starts; the events of R401 (R269, R272). The access goes on when it is executed again. -/
def State.tlbMiss (s : State) (h : HartId) (w : Walk) : State :=
  let c := s.hart h
  match c.leafIn c.tlb w.va w.acc w.eff w.hlvx with
  | some e => (s.setHart h (c.fillL1 w.acc e)).event h (if w.acc = .fetch then 0x0D else 0x0C) 1
  | none =>
    let d := c.startWalk w
    if d.walks = c.walks then s else ((s.setHart h d).event h (if w.acc = .fetch then 0x0D else 0x0C) 1).event h 0x0E 1

end Sys2Proof.Machine
end

