-- ==== Sys2Proof/Machine/Lines.lean ====
section
/-!
DEFINITION. Reading bytes of a line of cacheable memory from a core's caches, for loads, fetches and page walks (R93, R103, R161, R164, R165, R181 to R183, R202,
R272), the record of a read that fails (R499), and how an instruction retires.
-/
namespace Sys2Proof.Machine

/-! ### Retirement -/

/-- The fetch of the instruction at pc was an access to its line of the I-cache or I share (R161). -/
def State.fetched (s : State) (h : HartId) : State :=
  let c := s.hart h
  match s.xlate h c.pc .fetch c.mode false with
  | .ok pa => if c.inI (lineOf (paLa pa)) then s.setHart h { c with itree := l1Touch (l1Depth (isT h)) c.il1 c.itree (lineOf (paLa pa)) } else s
  | _ => s

/-- Retires an instruction of `len` bytes that takes `n` cycles: pc, cycle and instruction counters (R398, R401). What was read ahead for it is used up. -/
def State.retire (s : State) (h : HartId) (len n : Nat) : State :=
  let s := s.fetched h
  let c := s.hart h
  let inh := c.csrRaw 0x320
  let c := { c with pc := c.pc + BitVec.ofNat 64 len, seq := c.seq + 1, clock := c.clock + n, entry := none, begun := false,
                    early := c.early.filter fun e => decide (c.seq < e.seq) }
  let c := if inh.getLsbD 0 then c else c.csrPut 0xB00 (c.csrRaw 0xB00 + BitVec.ofNat 64 n)
  let c := if inh.getLsbD 2 then c else c.csrPut 0xB02 (c.csrRaw 0xB02 + 1)
  (s.setHart h (c.icountTick (if isT h then 8 else 4))).event h 0x01 1

/-! ### Lines -/

/-- What reading bytes finds: a value, a state in which the instruction has to wait, or a TCM or bus error whose record is made. -/
inductive ReadRes where
  | value (v : Nat) (s : State)
  | wait (s : State)
  | poison (s : State)
  | tcmError (s : State)
  deriving DecidableEq, Repr

/-- READ_FAIL: no RAS interrupt; bit 8 says that the outcome at the target is unknown. -/
def State.readFail (s : State) (h : HartId) (pa sts : Nat) (unknown : Bool) : State :=
  s.logErr { mkErr 0x08 2 (hartStop h) false with
    sub := (hartNode h).sub.val, pa := some pa, req := some (s.pma.pkgId.toNat, hartNode h, 0), detail := sts + 256 * b2n unknown }

/-- POISON_USED of a consumption by a hart (R502, R499): 0 load, 1 fetch, 2 AMO or SC, 3 walk. -/
def State.poisonUsed (s : State) (h : HartId) (pa how : Nat) : State :=
  s.logErr { mkErr 0x06 2 (hartStop h) true with
    sub := (hartNode h).sub.val, pa := some pa, req := some (s.pma.pkgId.toNat, hartNode h, 0), detail := how }

/-- Whether a prefetch may fetch the line: local memory with TYPE = 0 and C = 1 (R183). -/
def State.prefetchable (s : State) (ln : Nat) : Bool :=
  areaOf s (64 * ln) == .dram && (match pmaFind s.pma.masters (64 * ln) true with | some e => e.c && !e.io | none => false)

/-- SL_PFCTL of a T-core's agent (R186). -/
def State.pfctlOf (s : State) (a : Nat) : BitVec 32 := tabGet 0 s.coh.pfctl a ^^^ 0x0004_001F

/-- Sends a prefetch for a line that the agent neither holds nor has asked for (R182, R183, R192). -/
def State.prefetch (s : State) (a ln : Nat) (op : MsgOp) : State :=
  if (s.l2 a ln).st != .i || !(s.prefetchable ln) || tabGet false s.coh.noAlloc a then s else s.request a ln op none

/-- A prefetch into the L1 D-cache: the line comes from the L2, or is asked for and waits for a fill buffer (R66, R182). -/
def State.prefetchD (s : State) (h : HartId) (ln : Nat) : State :=
  let c := s.hart h
  if c.inD ln || !(s.prefetchable ln) then s
  else if (s.l2 (agentOf h) ln).readable then s.updHart h fun c => c.fillD (isT h) ln
  else if decide (32 ≤ c.dfill.length) then s
  else (s.updHart h fun c => { c with dfill := c.dfill.filter (· != ln) ++ [ln] }).prefetch (agentOf h) ln .prefetchRead
/-- A prefetch into the L1 I-cache. -/
def State.prefetchI (s : State) (h : HartId) (ln : Nat) : State :=
  let c := s.hart h
  if c.inI ln || !(s.prefetchable ln) then s
  else if (s.l2 (agentOf h) ln).readable then s.updHart h fun c => c.fillI (isT h) ln
  else if decide (16 ≤ c.ifill.length) then s
  else (s.updHart h fun c => { c with ifill := c.ifill.filter (· != ln) ++ [ln] }).prefetch (agentOf h) ln .prefetchRead

/-- A demand miss asks the home for the line, and a cluster that is not in Mould mode prefetches the next one after a miss (R165, R185). -/
def State.demand (s : State) (h : HartId) (ln : Nat) (op : MsgOp) : State :=
  let a := agentOf h
  let none_ := (s.mshr a ln).isNone
  let gone := (s.l2 a ln).st == .i
  let s := s.request a ln op (if s.isMould h then some h else none)
  let fresh := none_ && (s.mshr a ln).isSome
  let s := if fresh then (s.event h (if isT h then 0x0A else 0x07) 1) else s
  if !(isT h) && !(s.isMould h) && fresh && gone && (ln + 1) % 64 != 0 then (s.count (hartStop h) 1 6 1 none).prefetch a (ln + 1) .prefetchRead else s

/-- A demand read that misses the L1 and the agent takes a fill buffer of the D side, and asks the home (R66). -/
def State.demandD (s : State) (h : HartId) (ln : Nat) (op : MsgOp) : State :=
  let c := s.hart h
  if isT h && !(c.dfill.contains ln) && decide (32 ≤ c.dfill.length) then s else
  let s := if c.dfill.contains ln || s.isMould h || c.cleaning then s else s.updHart h fun c => { c with dfill := c.dfill ++ [ln] }
  s.demand h ln op
/-- A fetch that misses the I-cache and the agent takes a fill buffer of the I side (R66). -/
def State.demandI (s : State) (h : HartId) (ln : Nat) (op : MsgOp) : State :=
  let c := s.hart h
  if isT h && !(c.ifill.contains ln) && decide (16 ≤ c.ifill.length) then s else
  let s := if c.ifill.contains ln || s.isMould h || c.cleaning then s else s.updHart h fun c => { c with ifill := c.ifill ++ [ln] }
  s.demand h ln op

/-- Events of a cluster's shared-level bank: a request that its S-core's shares do not serve, its hit or miss, and one in Mould mode (R411). -/
def State.countShared (s : State) (h : HartId) (ln : Nat) (hit fresh : Bool) : State :=
  if isT h || (hit && !fresh && !(s.isMould h)) then s else
  let st := hartStop h
  let c : Counted := { src := hartNode h, addr := 64 * ln, vc := 0 }
  let s := (s.count st 1 1 1 (some c)).count st 1 (if hit then 2 else 3) 1 (some c)
  if s.isMould h then s.count st 1 4 1 (some c) else s

/-- Reads bytes within one line of cacheable memory: from the L1 D-cache or D share, or from the L2 or the shared level, which fills the L1. The line has to be
readable, with the bytes present (R103, R129, R164, R181). A line whose request the home has answered with an error faults (R202). -/
def State.readLine (s : State) (h : HartId) (la size : Nat) : ReadRes :=
  let a := agentOf h
  let ln := lineOf la
  let l := s.l2 a ln
  let m := maskOf (la % 64) size
  let inD := (s.hart h).inD ln
  let s := s.countShared h ln (l.readable && l.mask &&& m == m) (!inD)
  if s.missFailed a ln && (!l.readable || l.mask &&& m != m) then .tcmError ((s.endMshr a ln).readFail h (s.pma.pkgId.toNat * 2 ^ 47 + la) 3 false)
  else if !l.readable then .wait (s.demandD h ln .lineRead)
  else if l.mask &&& m ≠ m then .wait (s.demand h ln .maskFill)
  else if l.poison then .poison s
  else if inD then
    .value (lineBytes l.data (la % 64) size) (s.updHart h fun c => { c with dtree := l1Touch (l1Depth (isT h)) c.dl1 c.dtree ln })
  else
    let keep := s.isMould h || (!(isT h) && (s.hart h).cleaning)
    let s := s.touchL2 a ln
    let s := if keep then s else (s.updHart h fun c => c.fillD (isT h) ln).event h (if isT h then 0x08 else 0x06) 1
    .value (lineBytes l.data (la % 64) size) s

/-- Whether prediction is barred: the bar, or UBAR in U or VU mode (R51, R77). -/
def Hart.barred (c : Hart) : Bool := c.csrBit 0x5C0 0 || (c.csrBit 0x5C0 1 && modePrv c.mode == 0)

/-- The next-line prefetcher of the L1 I-cache sees a miss: the next 2 lines of the page; nothing while the bar is in effect (R182, R183). -/
def State.nextLines (s : State) (h : HartId) (ln : Nat) : State :=
  if !(isT h) || !((s.pfctlOf (agentOf h)).getLsbD 3) || (s.hart h).barred then s
  else ([ln + 1, ln + 2].filter fun k => k / 64 == ln / 64).foldl (fun s k => s.prefetchI h k) s

/-- Counts an event that a T-core alone has. -/
def State.eventT (s : State) (h : HartId) (n : Nat) : State := if isT h then s.event h n 1 else s

/-- Fetches instruction bytes from a line of cacheable memory (R103, R129, R161, R181, R182). -/
def State.fetchLine (s : State) (h : HartId) (la size : Nat) : ReadRes :=
  let a := agentOf h
  let ln := lineOf la
  let l := s.l2 a ln
  let m := maskOf (la % 64) size
  if (s.hart h).inI ln && !l.poison && l.mask &&& m == m then .value 0 s else
  let s := s.countShared h ln (l.readable && l.mask &&& m == m) true
  if s.missFailed a ln && (!l.readable || l.mask &&& m != m) then .tcmError ((s.endMshr a ln).readFail h (s.pma.pkgId.toNat * 2 ^ 47 + la) 3 false)
  else if !l.readable then .wait ((s.demandI h ln .lineRead).nextLines h ln)
  else if l.mask &&& m ≠ m then .wait (s.demand h ln .maskFill)
  else if l.poison then .poison s
  else
    let s := s.touchL2 a ln
    if s.isMould h || (!(isT h) && (s.hart h).cleaning) then .value 0 s
    else .value 0 (((s.updHart h fun c => c.fillI (isT h) ln).eventT h 0x09).nextLines h ln)

/-- TCM_UE (R107): class 2 on a load or fetch, class 3 with the RAS interrupt on a store drain. -/
def State.tcmUe (s : State) (h : HartId) (pa : Nat) (store : Bool) : State :=
  s.logErr { mkErr 0x0F (if store then 3 else 2) (hartStop h) store with
    sub := (hartNode h).sub.val, pa := some pa, req := some (s.pma.pkgId.toNat, hartNode h, 0), detail := b2n (decide (0x101_0000 ≤ paLa pa)) }

/-! ### TCMs (R103, R105, R107) -/

/-- Key of a hart's TCM byte in the TCM memory. -/
def tcmKey (h : HartId) (pa : Nat) : Nat := hartIdx h * 0x2_0000 + (tcmOff (paLa pa)).getD 0

/-- The 8-byte words of a TCM access that hold an error of at least `lo` bits. -/
def State.tcmBad (s : State) (k size lo : Nat) : List Nat :=
  ((List.range (size + 7)).map fun i => (k + i) / 8).dedup.filter fun w => decide (w * 8 < k + size) && decide (lo ≤ tabGet 0 s.mem.tcmErr w)

/-- Corrects the single-bit errors of the words read: 2 cycles each access, written back, counted (R107). -/
def State.tcmScrub (s : State) (h : HartId) (k size : Nat) : State :=
  match s.tcmBad k size 1 with
  | [] => s
  | ws =>
    let s := { s with mem := { s.mem with tcmErr := ws.foldl (fun t w => tabSet 0 t w 0) s.mem.tcmErr } }
    ((s.updHart h fun c => { c with clock := c.clock + 2 }).logCe (hartStop h)).event h 0x09 1

def State.readTcm (s : State) (h : HartId) (pa size : Nat) : ReadRes :=
  let k := tcmKey h pa
  if s.tcmBad k size 2 ≠ [] then .tcmError (s.tcmUe h pa false)
  else .value (memRead s.mem.tcm k size) (s.tcmScrub h k size)

/-- Writes bytes of a TCM. A whole word replaces its error and reports nothing; a part of a word is merged with what the word held, so that a single-bit error is
corrected, and with an uncorrectable one nothing is written, the error stays and is reported (R107). -/
def State.writeTcm (s : State) (h : HartId) (pa size v : Nat) : State :=
  let k := tcmKey h pa
  let whole (w : Nat) : Bool := decide (k ≤ w * 8) && decide (w * 8 + 8 ≤ k + size)
  let part := (s.tcmBad k size 1).filter fun w => !(whole w)
  let bad := (s.tcmBad k size 2).filter fun w => !(whole w)
  let fix := part.filter fun w => !(bad.contains w)
  let ws := ((List.range (size + 7)).map fun i => (k + i) / 8).dedup.filter whole
  let m := ((List.range size).zip (leBytes size v)).foldl (fun m (i, b) => if bad.contains ((k + i) / 8) then m else memSetByte m (k + i) b) s.mem.tcm
  let s := { s with mem := { s.mem with tcm := m, tcmErr := (fix ++ ws).foldl (fun t w => tabSet 0 t w 0) s.mem.tcmErr } }
  let s := if fix = [] then s else ((s.updHart h fun c => { c with clock := c.clock + 2 }).logCe (hartStop h)).event h 0x09 1
  if bad = [] then s else s.tcmUe h pa true

end Sys2Proof.Machine
end

