-- ==== Sys2Proof/Machine/Issue.lean ====
section
/-!
DEFINITION. The fetch of a hart's next instruction and what comes before its effect (R62, R89, R110, R489), and the rows that take a trap or return
from one (R100, R101, R120 to R126).
-/
namespace Sys2Proof.Machine

/-! ### Fetch -/

/-- Whether a physical address lies in the package's ITCM window (R105). -/
def State.inItcm (s : State) (pa : Nat) : Bool := s.isLocal pa && decide (0x100_0000 ≤ paLa pa) && decide (paLa pa < 0x101_0000)

/-- Where the fetch of a parcel goes. -/
inductive FetchTo where
  | to (pa : Nat) (g : Target)
  | trap (t : Trap)
  | walk (w : Walk)
  deriving DecidableEq, Repr

/-- The checks of the fetch of a 16-bit parcel: FETCHTCM in Mould mode, translation, PMP and PMA; an I/O region or a remote address gives an instruction access
fault (R28, R62, R89, R110, R129). -/
def State.fetchTo (s : State) (h : HartId) (va : Word) : FetchTo :=
  let c := s.hart h
  match s.xlate h va .fetch c.mode false with
  | .fault t => .trap t
  | .walk w => .walk w
  | .ok pa =>
    if !(isT h) && c.mould && c.csrBit 0x7C0 7 && !(s.inItcm pa) then .trap (excep 1 va) else
    match s.target h (modePrv c.mode) pa 2 .fetch with
    | none => .trap (excep 1 va)
    | some g => if g.io || g.region == .remote then .trap (excep 1 va) else .to pa g

/-- What fetching finds: the bytes, a trap, a missing translation, or a line that has to come first. -/
inductive Fetch where
  | ok (s : State)
  | trap (s : State) (t : Trap)
  | walk (s : State) (w : Walk)
  | wait (s : State)
  deriving DecidableEq, Repr

/-- Fetches a parcel: from the ITCM, where an uncorrectable error is an instruction access fault (R107), from the I-cache or I share (R103, R161), or from C = 0
memory, whose bytes are not kept (R89, R110). Poison and an error answer are instruction access faults (R202, R502). -/
def State.fetchParcel (s : State) (h : HartId) (va : Word) : Fetch :=
  let res (pa : Nat) : ReadRes → Fetch
    | .value _ s => .ok s
    | .wait s => .wait s
    | .poison s => .trap (s.poisonUsed h pa 1) (excep 1 va)
    | .tcmError s => .trap s (excep 1 va)
  match s.fetchTo h va with
  | .trap t => .trap s t
  | .walk w => .walk s w
  | .to pa g =>
    match g.region with
    | .cached => res pa (s.fetchLine h (paLa pa) 2)
    | .tcm => res pa (s.readTcm h pa 2)
    | _ => .ok s

/-- Fetches the instruction of `len` bytes at pc, a parcel at a time (R89, R95, R110). -/
def State.fetchAt (s : State) (h : HartId) (len : Nat) : Fetch :=
  match s.fetchParcel h (s.hart h).pc with
  | .ok s => if len ≤ 2 then .ok s else s.fetchParcel h ((s.hart h).pc + 2)
  | r => r

/-- Whether a parcel is at hand: the checks pass, and its bytes are in the I-cache or I share, in the ITCM without an error, or in C = 0 memory. -/
def State.parcelReady (s : State) (h : HartId) (va : Word) : Bool :=
  match s.fetchTo h va with
  | .to pa g =>
    (match g.region with
    | .cached =>
      let l := s.l2 (agentOf h) (lineOf (paLa pa))
      let m := maskOf (paLa pa % 64) 2
      (s.hart h).inI (lineOf (paLa pa)) && !l.poison && l.mask &&& m == m
    | .tcm => s.tcmBad (tcmKey h pa) 2 1 == []
    | _ => true)
  | _ => false
/-- Whether the whole instruction of `len` bytes is at hand. -/
def State.fetchReady (s : State) (h : HartId) (len : Nat) : Bool :=
  s.parcelReady h (s.hart h).pc && (decide (len ≤ 2) || s.parcelReady h ((s.hart h).pc + 2))

/-! ### Around an instruction -/

/-- A core-fatal error: the hart stops issuing, and a CORE_FATAL record names it (R505, R499). -/
def State.coreFatal (s : State) (h : HartId) (why : Nat) : State :=
  let id := match h with | .t n => n.val % 32 | .s n => 32 + n.val % 8
  (s.updHart h fun c => { c with fatal := true }).logErr
    { mkErr 0x10 4 (hartStop h) true with sub := (hartNode h).sub.val, detail := id + 256 * why }

/-- A trap of the fetch at pc: on an S-core whose trap entry has not yet issued an instruction it is the fetch of the vector that faults, and the core stops (R126). -/
def State.fetchTrap (s : State) (h : HartId) (t : Trap) : State :=
  if !(isT h) && (s.hart h).entry.isSome then s.coreFatal h 3 else s.trap h t

/-- While a hart steps with dcsr.stepie = 0 it takes no interrupt. -/
def Hart.stepMasks (c : Hart) : Bool := c.stepAt.isSome && !(c.csrBit 0x7B0 11)
/-- Interrupt `i`, which mode `m` takes, as a trap. -/
def intrTrap (m : Mode) (i : Nat) : Trap := { cause := i, intr := true, tval := 0, xwfd := 0, tval2 := 0, tinst := 0, toVs := m == .vs }
/-- The interrupt that a hart recognises before its next instruction. -/
def State.irqDue (s : State) (h : HartId) : Option Trap := if (s.hart h).stepMasks then none else (s.topIrq h).map fun (m, i) => intrTrap m i

/-- Runs `f`, the effect of an instruction of `len` bytes, when the hart issues; otherwise the command has no effect (log entry 3). A halt, then a trigger on the
instruction, then on an S-core a recognised interrupt (R120, R124, R127), then a fault, a missing translation or a missing line of its fetch come first (R89,
R272, R489, R491). An instruction that has begun an access goes on with it (R101, R118). -/
def State.onHart (s : State) (h : HartId) (len : Nat) (f : State → State) : State :=
  if s.canIssue h then
    let c := s.hart h
    if c.begun then f s else
    match s.haltDue h with
    | some why => s.setHart h (c.enterDebug why)
    | none =>
      match c.icountDue (isT h) with
      | some i => (s.setHart h (c.csrPut (0x10000 + 4 * i + 1) (putFld (c.tdata1 i) 8 8 0))).trap h (s.trigTrap h i c.pc)
      | none =>
        match c.trigHit (isT h) 2 c.pc with
        | some i => s.trap h (s.trigTrap h i c.pc)
        | none =>
          match if isT h then none else s.irqDue h with
          | some i => s.trap h i
          | none =>
            match s.fetchAt h len with
            | .trap s t => s.fetchTrap h t
            | .walk s w => s.tlbMiss h w
            | .wait s => s
            | .ok s => f s
  else s

/-- An illegal-instruction exception, or a virtual-instruction exception where `virt` holds (R42, R47). -/
def State.illegal (s : State) (h : HartId) (virt : Bool) : State := s.trap h (excep (if virt then 22 else 2) 0)

/-- A given word that cannot raise the cause: a Xexy word other than an illegal one with cause 2 (R44 to R46). -/
def barred (h : HartId) (cause : Nat) : Faulting → Bool
  | .word w => isXexy w && !(illegalXexy h w && cause == 2)
  | _ => false

/-- EXCEPTION_TAKE: the instruction at pc raises an exception; trap values as R280 gives them (R100). A walk fault held with the instruction
supplies xwfd, mtval2 and mtinst (R275). With the instruction's word given, a Xexy word raises the illegal-instruction exception where R44 to R46 leave it
reserved; for another Xexy word, or another cause, nothing happens. -/
def execExceptionTake (h : HartId) (cause : Fin 64) (tval : Word) (c : Faulting) (s : State) : Res :=
  .next (if barred h cause.val c then s else
    s.onHart h (if c == .two then 2 else 4) fun s =>
    match (s.hart h).wfaults.find? fun w => w.va == tval && w.cause == cause.val with
    | some w => s.trap h { cause := cause.val, intr := false, tval := tval, xwfd := w.xwfd, tval2 := w.tval2, tinst := w.tinst }
    | none => s.trap h (excep cause.val tval))

/-- ECALL: environment call from U or VU (8), HS (9), VS (10) or M (11). -/
def execEcall (h : HartId) (s : State) : Res :=
  .next (s.onHart h 4 fun s =>
    s.trap h (excep (match (s.hart h).mode with | .m => 11 | .hs => 9 | .vs => 10 | _ => 8) 0))

/-- EBREAK: a breakpoint exception with the pc as trap value; in Debug Mode's ebreak modes the hart halts (dcsr.ebreakm, ebreaks, ebreaku). -/
def execEbreak (h : HartId) (cc : Bool) (s : State) : Res :=
  .next (s.onHart h (if cc then 2 else 4) fun s =>
    let c := s.hart h
    let bit := match c.mode with | .m => 15 | .hs => 13 | .u => 12 | .vs => 17 | .vu => 16
    if c.csrBit 0x7B0 bit && s.mayHalt h then s.setHart h (c.enterDebug 1)
    else s.trap h (excep 3 c.pc))

/-- A T-core's wait for the end of a cache-block operation does not hold an interrupt up: the instruction is squashed and executes again, and what it has sent
goes on (R101, R188). -/
def Hart.blockWait (t : Bool) (c : Hart) : Bool := t && c.uload != [] && c.uload.all fun u => u.dest == .maint && u.tag == 1024
/-- A hart stops waiting in a fence, in WFI, or for a cache-block operation. -/
def State.leaveWait (s : State) (h : HartId) : State :=
  s.updHart h fun c => { c with fence := none, idle := .run, uload := if c.blockWait (isT h) then [] else c.uload }
/-- Whether a hart may enter an interrupt now: it runs or waits in a fence, in WFI or for a cache-block operation, and has begun no access that holds the interrupt
up (R101, R118, R122, R125, R150). -/
def State.mayEnter (s : State) (h : HartId) : Bool :=
  let c := s.hart h
  s.phase == .run && (c.idle == .run || c.idle == .c1) && !c.begun && ((s.leaveWait h).hart h).runs

/-- INTERRUPT_TAKE: the highest pending enabled interrupt is taken before the oldest unretired instruction. A fence's wait is squashed (R101,
R150), and a waiting WFI ends (R125). -/
def execInterruptTake (h : HartId) (s : State) : Res :=
  .next (if s.mayEnter h then
    match s.irqDue h with
    | some i => (s.leaveWait h).trap h i
    | none => s
  else s)

/-- Whether a return instruction is legal in the mode: MRET in M; SRET in M or HS with TSR clear, in VS with VTSR clear. -/
def xretAccess (t : Bool) (c : Hart) : XretKind → CsrAccess
  | .mret => if c.mode == .m then .ok else .illegal
  | .sret =>
    if !t then .illegal else
    match c.mode with
    | .m => .ok
    | .hs => if c.csrBit 0x300 22 then .illegal else .ok
    | .vs => if c.csrBit 0x600 22 then .virt else .ok
    | .vu => .virt
    | .u => .illegal

/-- XRET: the return of its kind, with FLUSHTRAP's flush and, on an S-core, a cost of 3 cycles (R58, R119, R124). The reservation is kept (R143). -/
def execXret (h : HartId) (k : XretKind) (s : State) : Res :=
  let t := isT h
  .next (s.onHart h 4 fun s =>
    let c := s.hart h
    match xretAccess t c k with
    | .illegal => s.illegal h false
    | .virt => s.illegal h true
    | .ok =>
      let s := s.retire h 0 (if t then 1 else 4)
      s.updHart h fun c =>
        let c := match k with | .mret => c.mret t | .sret => c.sret
        if t && c.csrBit 0x5C0 2 then c.predFlush else c)

/-- The fetch of a vector just entered: a fault on it stops an S-core. Whether the fetch from C = 0 memory, whose request the rows do not show, has been answered
with an error is given (R126, R202, R502). -/
def State.vectorFetch (s : State) (h : HartId) (failed : Bool) : State :=
  match s.fetchTo h (s.hart h).pc with
  | .trap _ => s.coreFatal h 3
  | .to _ g => if failed && g.region == .c0 then s.coreFatal h 3 else s
  | _ => s

/-- SCORE_TRAP_ENTRY: an S-core enters the interrupt that mtopi ranks highest, or the trap of the instruction in IS (an interrupt first, R127);
a fault on the fetch of the vector stops the core (R120, R121, R126). -/
def execScoreTrapEntry (h : HartId) (cause : Option (Fin 64)) (tval : Word) (vectorFault : Bool) (s : State) : Res :=
  .next (if isT h || !(s.mayEnter h) then s else
    let enter (i : Trap) : State := ((s.leaveWait h).trap h i).vectorFetch h vectorFault
    match s.irqDue h, cause with
    | some i, _ => enter i
    | none, some e => if (s.hart h).idle == .run && (s.hart h).fence.isNone then enter (excep e.val tval) else s
    | none, none => s)

/-- LATE_ARRIVAL_TAKEOVER: during c1 to c3 of an interrupt's entry a higher-ranked one takes over: mcause, mtval and the vector change, mepc
and mstatus keep their values (R123). -/
def execLateArrivalTakeover (h : HartId) (s : State) : Res :=
  let c := s.hart h
  .next (if isT h || !(s.phase == .run && c.runs) || c.begun then s else
    match c.entry, topOf (s.mip h &&& c.csrRaw 0x304) with
    | some old, some i =>
      let rank (n : Nat) : Nat := irqOrder.idxOf n
      if (c.csrRaw 0x342).getLsbD 63 && decide (rank i < rank old) then
        let tr := intrTrap .m i
        let c := (c.csrPut 0x342 (causeWord tr false)).csrPut 0x343 0
        (s.setHart h { c with pc := vectorOf (c.csrRaw 0x305) tr false, entry := some i }).event h 0x0C 1
      else s
    | _, _ => s)

end Sys2Proof.Machine
end

