-- ==== Sys2Proof/Machine/Walk.lean ====
section
/-!
DEFINITION. Page-table walks step by step (R272 to R280), the hardware updates of A and D (R276 to R278), and the translation fences (R281 to R285).
-/
namespace Sys2Proof.Machine

/-! ### Steps of a walk (R272 to R280) -/

/-- A walk that meets a fault: held with its instruction; that of a squashed instruction is dropped (R275). -/
def Hart.walkFault (c : Hart) (w : Walk) (reason : Nat) (level : Nat) : Hart :=
  let access := reason == 6 || reason == 7 || reason == 8
  let g := w.stage == .g
  let cause := if access then accessFault w.acc else if g then guestFault w.acc else pageFault w.acc
  let implicitPte := g && w.outer.isSome
  let f : WalkFault :=
    { va := w.va, acc := w.acc, cause := cause, xwfd := xwfdWord (stageCode w.stage) level reason (if reason = 5 then 0 else w.ptea),
      tval2 := if g && !access then BitVec.ofNat 64 (w.gpa / 4) else 0,
      tinst := if implicitPte && !access then (if w.adw then 0x3020 else 0x3000) else 0 }
  { c with walks := c.walks.filter fun x => x.id != w.id, wfaults := if w.live then c.wfaults ++ [f] else c.wfaults }

/-- Replaces a walk by its next step. -/
def Hart.putWalk (c : Hart) (w : Walk) : Hart := { c with walks := c.walks.map fun x => if x.id = w.id then w else x }

/-- A finished walk fills the L2 TLB and the L1 TLB of its access (R269, R275). -/
def Hart.fillTlb (c : Hart) (w : Walk) (e : TlbEntry) : Hart :=
  { (c.fillL1 w.acc e) with tlb := tlbPut c.tlb e, walks := c.walks.filter fun x => x.id != w.id }

/-- Puts a non-leaf PTE into its walk cache: 96 entries for the single and VS stages, 64 for the G stage (R269). -/
def walkPut (l : List WalkEntry) (e : WalkEntry) : List WalkEntry :=
  let kind (x : WalkEntry) : Bool := (x.regime == .g) == (e.regime == .g)
  e :: ((l.filter fun x => kind x && x != e).take (if e.regime = .g then 63 else 95) ++ l.filter fun x => !(kind x))

/-- Bits of a PTE. -/
def pbit (p : Word) (i : Nat) : Bool := p.getLsbD i
def ptePpn (p : Word) : Nat := fld p 53 10
/-- Reserved encodings of R266. -/
def pteReserved (p : Word) (level : Nat) : Bool :=
  fld p 63 54 != 0 || (pbit p 2 && !(pbit p 1)) ||
  (let leaf := pbit p 1 || pbit p 3; !leaf && (pbit p 7 || pbit p 6 || pbit p 4 || level == 0))

/-- ADUE that governs the walk's table (R267). -/
def Hart.adue (c : Hart) (stage : Regime) : Bool := match stage with | .vs => c.csrBit 0x60A 61 && c.csrBit 0x30A 61 | _ => c.csrBit 0x30A 61

/-- Whether the access needs the leaf's D bit: a write, and for the G stage also the A/D write of a VS-stage PTE (R277). -/
def Walk.needsD (w : Walk) : Bool := (w.acc == .store && w.outer.isNone) || w.adw

/-- The fill of a finished walk: a single-stage leaf, or the two stages combined (R270). -/
def Hart.finish (c : Hart) (w : Walk) (p : Word) (level : Nat) : Hart :=
  let b := pbit p
  match w.stage, w.vleaf with
  | .g, some (vp, vl) =>
    let lv := min level vl
    let ppn := (ptePpn p / 2 ^ (9 * level)) * 2 ^ (9 * level) + (w.gpa / 4096) % 2 ^ (9 * level)
    c.fillTlb w { regime := .vs, vpn := w.va.toNat / 4096, level := lv, ppn := ppn, gppn := w.gpa / 4096,
                  r := pbit vp 1 && b 1, w := pbit vp 2 && b 2, x := pbit vp 3 && b 3,
                  mv := (pbit vp 1 || pbit vp 3) && b 1, mh := (pbit vp 1 || pbit vp 3) && (b 1 || b 3), u := pbit vp 4, g := pbit vp 5,
                  a := true, d := pbit vp 7 && b 7, asid := w.asid, vmid := w.vmid }
  | .g, none =>
    c.fillTlb w { regime := .g, vpn := w.va.toNat / 4096, level := level, ppn := ptePpn p, gppn := w.va.toNat / 4096, r := b 1, w := b 2, x := b 3, mv := b 1, mh := b 1 || b 3, u := b 4, g := false,
                  a := true, d := b 7, asid := 0, vmid := w.vmid }
  | st, _ =>
    c.fillTlb w { regime := st, vpn := w.va.toNat / 4096, level := level, ppn := ptePpn p, gppn := ptePpn p, r := b 1, w := b 2, x := b 3,
                  mv := b 1 || b 3, mh := b 1 || b 3, u := b 4, g := b 5,
                  a := true, d := b 7, asid := w.asid, vmid := if st = .vs then w.vmid else 0 }

/-- A leaf PTE that grants the access ends its stage: the VS-stage leaf goes on to the G stage, a G-stage leaf of a VS-stage PTE's address lets
that PTE be read, and the last leaf fills the TLB. -/
def Hart.leafDone (c : Hart) (w : Walk) (p : Word) : Hart :=
  let l := w.level
  let pa (a : Nat) : Nat := (ptePpn p / 2 ^ (9 * l)) * 2 ^ (12 + 9 * l) + a % 2 ^ (12 + 9 * l)
  match w.stage with
  | .vs =>
    if atpLevels (c.csrRaw 0x680) = 0 then c.finish w p l else
    let gpa := pa w.va.toNat
    if ¬ gpa < 2 ^ (14 + 9 * atpLevels (c.csrRaw 0x680)) then
      c.walkFault { w with stage := .g, gpa := gpa } 5 (atpLevels (c.csrRaw 0x680) - 1)
    else match c.gWalk { w with vleaf := some (p, l) } gpa none with
      | .inl _ => c
      | .inr w => c.putWalk w
  | .g =>
    let e : TlbEntry := { regime := .g, vpn := w.gpa / 4096, level := l, ppn := ptePpn p, gppn := w.gpa / 4096, r := pbit p 1, w := pbit p 2, x := pbit p 3,
                          mv := pbit p 1, mh := pbit p 1 || pbit p 3, u := pbit p 4, g := false, a := true, d := pbit p 7, asid := 0, vmid := w.vmid }
    match w.outer with
    | some vl =>
      let c := { c with gcache := (e :: c.gcache).take 128 }
      c.putWalk { w with stage := .vs, level := vl, ptea := pa w.gpa, outer := none, upd := none, adw := false }
    | none => c.finish w p l
  | .single => c.finish w p l

/-- Evaluates a PTE that a walk has read (R266, R267, R277, R279). -/
def Hart.evalPte (c : Hart) (w : Walk) (p : Word) : Hart :=
  let l := w.level
  if !(pbit p 0) then c.walkFault w 1 l
  else if pteReserved p l then c.walkFault w 2 l
  else if !(pbit p 1 || pbit p 3) then
    let key := if w.stage = .g then w.gpa else w.va.toNat
    let e : WalkEntry := { regime := w.stage, level := l, vpn := key / 2 ^ (12 + 9 * l), ppn := ptePpn p, asid := w.asid, vmid := w.vmid }
    let c := { c with wcache := walkPut c.wcache e }
    match w.stage with
    | .vs => c.putWalk (c.vsStep w (ptePpn p) (l - 1))
    | .g => c.putWalk { w with level := l - 1, ptea := pteAddr (ptePpn p) w.gpa (l - 1) false }
    | .single => c.putWalk { w with level := l - 1, ptea := pteAddr (ptePpn p) w.va.toNat (l - 1) false }
  else if ptePpn p % 2 ^ (9 * l) ≠ 0 then c.walkFault w 4 l
  else
    let g := w.stage == .g
    let user := if g then true else modePrv w.eff == 0
    let acc := if w.adw then Acc.store else if g && w.outer.isSome then Acc.load else w.acc
    if !(leafOk (pbit p 1) (pbit p 2) (pbit p 3) (pbit p 4) acc user w.sum (w.mxr && (!g || c.csrBit 0x300 19)) (w.hlvx && !(g && w.outer.isSome))) then c.walkFault w 3 l
    else if !(pbit p 6) || (w.needsD && !(pbit p 7)) then
      (if !(c.adue w.stage) then c.walkFault w 3 l
       else if w.stage = .vs ∧ atpLevels (c.csrRaw 0x680) ≠ 0 then
         -- the write of a VS-stage PTE is a store to guest memory: it needs the G-stage leaf writable and dirty first (R277)
         (if c.gcache.any fun e => e.hits .g w.gpa 0 w.vmid && e.w && e.d then c.putWalk { w with upd := some p } else
           let top := atpLevels (c.csrRaw 0x680) - 1
           let (gl, ppn) := c.walkFrom .g w.gpa 0 c.vmid top (atpPpn (c.csrRaw 0x680))
           c.putWalk { w with stage := .g, level := gl, outer := some l, ptea := pteAddr ppn w.gpa gl (gl == top), adw := true })
       else c.putWalk { w with upd := some p })
    else c.leafDone w p

/-- Level that a fault of the PTE address reports, and the address checks of R273: the reason code, or none. -/
def State.pteCheck (s : State) (h : HartId) (a : Nat) : Option Nat :=
  if !(s.isLocal a) then some 6 else
  match pmaFind s.pma.masters (paLa a) true with
  | none => some 7
  | some e => if e.io then some 6 else if !((s.hart h).pmpOk 1 a 8 0) || rangeFault s (paLa a) false then some 7 else none

/-- A guest physical address that a walk forms for a VS-stage PTE, beyond the G-stage mode: an address range fault, and no PTE of the G stage is formed
(R60, R279). -/
def Walk.beyond (c : Hart) (w : Walk) : Bool := w.stage == .g && decide (2 ^ (14 + 9 * atpLevels (c.csrRaw 0x680)) ≤ w.gpa)

/-- Whether a PTE lies in memory that the walker reads through the hart's caches (R273). -/
def State.pteCached (s : State) (a : Nat) : Bool := (pmaFind s.pma.masters (paLa a) true).any fun e => e.c && areaOf s (paLa a) == .dram

/-- The new PTE of an A/D update (R277). -/
def Walk.newPte (w : Walk) (p : Word) : Word := p ||| 0x40 ||| (if w.needsD then 0x80 else 0)

/-- Writes part of a line that the agent holds writable: the line is M and dirty, its core recorded (R104, R135, R164). The write is made in the hart's L1 D-cache
or D share, once the line has left every other share of the cluster (R168); a Mould-mode or cleaning core's goes to the shared level (R129, R133).
Other harts lose reservations on the block (R143). -/
def State.writeLine (s : State) (h : HartId) (la : Nat) (data : Line) (mask : LineMask) (token : Bool) : State :=
  let a := agentOf h
  let ln := lineOf la
  let c := s.l2 a ln
  let c := { c with
    st := .m, data := mergeLine c.data data mask, mask := c.mask ||| mask, token := c.token || token,
    owner := (match h with | .t _ => 0 | .s n => n.val % 4), pref := false, poison := c.poison && !(fullMask mask) }
  let s := s.setL2 a ln c
  let s := if isT h then s else s.mapHarts (fun c => c.loseL1 ln) ((agentHarts a).filter fun g => g != h && ((s.hart g).inD ln || (s.hart g).inI ln))
  let s := s.updHart h fun c => let c := c.fillD (isT h) ln; { c.dirtyD ln with dtree := l1Touch (l1Depth (isT h)) c.dl1 c.dtree ln }
  (s.touchL2 a ln).killResv la (some h)

/-- Takes the token that a first dirtying of a held line needs: the state and whether the line carries one, or none where the agent waits;
`false` in the third place means the write-through fallback (R463, R464). A line whose L3 copy is dirty carries its token already, and it moves (R179; log entry 161). -/
def State.tokenFor (s : State) (agent la : Nat) (dirty held : Bool) : Option (State × Bool × Bool) :=
  if dirty || !held then some (s, false, true) else
  let e := s.l3 (lineOf la)
  if e.valid && e.dirty && e.token then some (s.setL3 (lineOf la) { e with token := false }, true, true) else
  match s.takeToken agent with
  | .taken s => some (s, true, true)
  | .wait => none
  | .fallback => if (s.wbCount agent) < 16 && decide (la < 2 ^ 47) then some (s, false, false) else none

/-! ### Translation fences (R281 to R284) -/

/-- Whether the hart's stores have all drained and been acknowledged (R283). -/
def Hart.quiet (c : Hart) : Bool := c.sb == [] && c.track == []

/-- Whether an entry covers a virtual address, or any where rs1 is x0. -/
def TlbEntry.covers (e : TlbEntry) (va : Option Nat) : Bool :=
  match va with | none => true | some a => decide (e.vpn / 2 ^ (9 * e.level) = a / 4096 / 2 ^ (9 * e.level) % 2 ^ 52)

/-- Entries leave every TLB of the hart. -/
def Hart.dropTlb (c : Hart) (gone : TlbEntry → Bool) : Hart :=
  { c with itlb := c.itlb.filter (fun e => !(gone e)), dtlb := c.dtlb.filter (fun e => !(gone e)), tlb := c.tlb.filter fun e => !(gone e) }

/-- Invalidates leaf entries of a regime by address and ASID, with the regime's walk cache; walks in flight fill nothing. Global entries stay where
an ASID is named (R282, R283). -/
def Hart.fenceStage (c : Hart) (rg : Regime) (vmid : Option Nat) (va asid : Option Nat) : Hart :=
  let gone (e : TlbEntry) : Bool :=
    e.regime == rg && (vmid.all fun v => e.vmid == v) && e.covers va && (match asid with | none => true | some a => e.asid == a && !e.g)
  { c.dropTlb gone with wcache := c.wcache.filter (fun e => !(e.regime == rg && (vmid.all fun v => e.vmid == v))), walks := [], wfaults := [] }

/-- HFENCE.GVMA: combined and G-stage entries by guest physical address and VMID, the G-stage walk cache and the GPA cache (R282). -/
def Hart.fenceG (c : Hart) (gpa vmid : Option Nat) : Hart :=
  let gone (e : TlbEntry) : Bool :=
    e.regime != .single && (vmid.all fun v => e.vmid == v) &&
      (match gpa with | none => true | some a => decide (e.gppn / 2 ^ (9 * e.level) = a / 4096 / 2 ^ (9 * e.level)))
  { c.dropTlb gone with wcache := c.wcache.filter (fun e => e.regime != .g), gcache := [], walks := [], wfaults := [] }

/-- The operand of a fence, or none for x0. -/
def Hart.opt (c : Hart) (r : Fin 32) (m : Nat) : Option Nat := if r = 0 then none else some ((c.getX r.val).toNat % m)

/-- A fence retires: 2 cycles for an address, 16 otherwise, then the refetch (R283). -/
def State.fenceDone (s : State) (h : HartId) (addr : Bool) (f : Hart → Hart) : State :=
  (s.updHart h fun c => (f c).dropEarly).retire h 4 ((if addr then 2 else 16) + 13)

/-- SFENCE_VMA (R281 to R283); illegal in U, under TVM in HS and on the S-core, virtual under VTVM in VS and in VU. -/
def execSfenceVma (h : HartId) (rs1 rs2 : Fin 32) (s : State) : Res :=
  .next (s.onHart h 4 fun s =>
    let c := s.hart h
    let va := c.opt rs1 (2 ^ 64)
    let asid := c.opt rs2 (2 ^ 16)
    if !(isT h) || c.mode == .u || (c.mode == .hs && c.csrBit 0x300 20) then s.illegal h false
    else if c.mode == .vu || (c.mode == .vs && c.csrBit 0x600 20) then s.illegal h true
    else if !(c.quiet) then s
    else s.fenceDone h (rs1 ≠ 0) fun c => if c.mode = .vs then c.fenceStage .vs (some c.vmid) va asid else c.fenceStage .single none va asid)

/-- HFENCE_VVMA: VS-stage and combined entries of the current VMID (R282). -/
def execHfenceVvma (h : HartId) (rs1 rs2 : Fin 32) (s : State) : Res :=
  .next (s.onHart h 4 fun s =>
    let c := s.hart h
    if !(isT h) || c.mode == .u then s.illegal h false
    else if modeVirt c.mode then s.illegal h true
    else if !(c.quiet) then s
    else s.fenceDone h (rs1 ≠ 0) fun c => c.fenceStage .vs (some c.vmid) (c.opt rs1 (2 ^ 64)) (c.opt rs2 (2 ^ 16)))

/-- HFENCE_GVMA: rs1 holds a guest physical address shifted right by 2 (R282). -/
def execHfenceGvma (h : HartId) (rs1 rs2 : Fin 32) (s : State) : Res :=
  .next (s.onHart h 4 fun s =>
    let c := s.hart h
    if !(isT h) || c.mode == .u || (c.mode == .hs && c.csrBit 0x300 20) then s.illegal h false
    else if modeVirt c.mode then s.illegal h true
    else if !(c.quiet) then s
    else s.fenceDone h (rs1 ≠ 0) fun c => c.fenceG ((c.opt rs1 (2 ^ 62)).map fun a => 4 * a) (c.opt rs2 (2 ^ 14)))

end Sys2Proof.Machine
end

