-- ==== Sys2Proof/Machine/Access.lean ====
section
/-!
DEFINITION. What every load, store and atomic shares: translation and checks of all its bytes (R49, R50, R88, R138, R140), where an uncached
access goes (R24, R26, R319, R320), its tags and timers (R147, R153), and reading bytes of a TCM or of cacheable memory (R93, R107).
-/
namespace Sys2Proof.Machine

/-- The instruction in IS waits without having begun its access: the window of a takeover is past (R123). -/
def State.waits (s : State) (h : HartId) : State := if (s.hart h).entry.isNone then s else s.updHart h fun c => { c with entry := none }
/-- An S-core's access waits for the shared level or for a line from beyond the cluster: an interrupt waits for it (R118, R122). -/
def State.waitsMiss (s : State) (h : HartId) : State := if isT h then s else s.updHart h fun c => { c with begun := true }

/-! ### Destinations (R24, R26, R318 to R320) -/

/-- Node that serves a device-register address, or none where no stop implements it (R24, R26). -/
def devNode (la : Nat) : Option Node :=
  if 0x1000_0000 ≤ la ∧ la < 0x1800_0000 then
    let t := (la - 0x1000_0000) / 0x100_0000
    let o := la % 0x100_0000
    if o < 0x28_0000 then
      let id := stopId t (o / 0x1_0000)
      some (mkNode id (match stopType id with | 0x10 => 2 | 0x03 => 4 | _ => 0))
    else none
  else if 0x2000_0000 ≤ la ∧ la < 0x2002_0000 then some mgmtNode
  else if 0x2400_0000 ≤ la ∧ la < 0x2400_8000 then some (mkNode aplicStop 0)
  else if 0x2800_0000 ≤ la ∧ la < 0x2C00_0000 then (hartOfNum ((la - 0x2800_0000) / 0x1000)).map fun h => mkNode (msiStop h) 0
  else if 0x2C00_0000 ≤ la ∧ la < 0x2C60_0000 then (hartOfNum ((la - 0x2C00_0000) / 0x8000)).map fun h => mkNode (msiStop h) 0
  else none

/-- The links of a group that are up, in ascending order (R320). -/
def State.groupLinks (s : State) (g : Fin 8) : List Nat :=
  (List.range 8).filter fun l => (tabGet Link.reset s.graop.links l).st == .up && (tabGet Link.reset s.graop.links l).group == some g

/-- The link of a group that a packet with this local address uses (R320). -/
def State.memberLink (s : State) (g : Fin 8) (la : Nat) : Option Nat :=
  let ls := s.groupLinks g
  if la < 0x8000_0000 ∨ 0x40_0000_0000 ≤ la then ls[0]?
  else
    let h := (la / 64 % 16) ^^^ (la / 2 ^ 10 % 16) ^^^ (la / 2 ^ 14 % 16) ^^^ (la / 2 ^ 18 % 16)
    ls[h % ls.length]?

/-- Where an uncached request goes, with the time its timer runs in ns; or that it completes at once at the requester with a status. -/
inductive Dest where
  | node (n : Node) (rpkg : Nat) (limit : Nat)
  | done (sts : Nat)
  deriving DecidableEq, Repr

/-- The destination of an uncached access to `pa` under an entry's TMO of `tmo` ns, with RPKG: the target package of a request toward a Graop link stop
(R24, R26, R153, R199, R319, R525). -/
def State.dest (s : State) (pa tmo : Nat) (write : Bool) : Dest :=
  let la := paLa pa
  if s.isLocal pa then
    match areaOf s la with
    | .dram => .node (sliceNode (homeSlice la)) 0 tmo
    | .bootRom | .sram => .node mgmtNode 0 tmo
    | .pcie => (match pcieOf la with | some i => .node (pcieNode i.val) 0 tmo | none => .done (if write then 0 else 3))
    | .device => (match devNode la with | some n => .node n (if stopType (nodeStop n) = 0x11 then s.pma.pkgId.toNat else 0) tmo | none => .done 0)
    | .none => .done 2
  else
    let r := tabGet Route.none s.graop.routes (paPkg pa)
    if !r.v then .done 5 else
    match s.memberLink r.group la with
    | some l => .node (linkNode l) (paPkg pa) (4000 + 1000 * r.hops)
    | none => .done 5

/-- An uncached request. -/
def ncFlit (op : MsgOp) (src dst : Node) (la tag rpkg : Nat) (mask : LineMask) : Flit :=
  { mkFlit op src dst la with tag := BitVec.ofNat 10 tag, rpkg := Fin.ofNat 512 rpkg, mask := mask }

/-- A request with EWA and the time of the PMA entry that the master's access matches, for the stop that may acknowledge it (R29, R145, R155). -/
def State.attrs (s : State) (pa : Nat) (f : Flit) : Flit :=
  match pmaFind s.pma.masters (paLa pa) (s.isLocal pa) with
  | some e => { f with ewa := e.ewa && s.isLocal pa, tmo := e.tmo.toNat * 1000 }
  | none => f

/-- A hart's uncached request travels in the guaranteed class while its core is in Mould mode (R129). -/
def State.hartClass (s : State) (h : HartId) (f : Flit) : Flit := if !(isT h) && (s.hart h).mould then guaranteed s 4 none f else f

/-- A tag of a list that `used` does not hold: one whose timer has not expired without a response where there is one (R147, R153). -/
def pickTag (l : List Nat) (used : Nat → Bool) (late : List LateTag) : Option Nat :=
  match l.find? fun k => !(used k) && !(late.any fun x => x.tag == k) with
  | some k => some k
  | none => l.find? fun k => !(used k)
/-- Reads of a hart have tags 0 to 63; its L2 or its cluster's shared level holds 64 requests to the mesh in all (R147). -/
def State.readTag (s : State) (h : HartId) : Option Nat :=
  let c := s.hart h
  pickTag (List.range Config.reqTags) (fun k => (s.reqTags (agentOf h)).contains k) c.late
/-- Tracked writes have tags from 256 on: 128 on a T-core, 8 on an S-core (R147, R148). -/
def Hart.writeTag (t : Bool) (c : Hart) : Option Nat :=
  pickTag ((List.range (if t then Config.trackT else Config.trackS)).map (256 + ·)) (fun k => c.track.any fun w => w.tag == k) c.late
/-- A tag is in use again: its earlier access is forgotten. -/
def Hart.useTag (c : Hart) (tag : Nat) : Hart := { c with late := c.late.filter fun x => x.tag != tag }

/-! ### Errors of accesses (R153, R308, R499) -/

/-- WRITE_FAIL for `n` writes: an imprecise bus error (R154, R504). -/
def State.writeFail (s : State) (h : HartId) (pa sts n : Nat) : State :=
  s.logErr { mkErr 0x07 3 (hartStop h) true with
    sub := (hartNode h).sub.val, pa := some pa, req := some (s.pma.pkgId.toNat, hartNode h, 0), detail := sts, count := n }
/-! ### Translation and checks of an access -/

/-- Bytes of an access that lie in one page: their place in the access, and their target. -/
structure Part where
  va : Word
  pa : Nat
  size : Nat
  off : Nat
  tgt : Target
  deriving DecidableEq, Repr

/-- What the checks of an access find. -/
inductive Prep where
  | parts (l : List Part)
  | trap (t : Trap)
  | walk (w : Walk)
  deriving DecidableEq, Repr

/-- Whether an address is that of a local device register, whatever TYPE its PMA entry has (R10). -/
def State.deviceAt (s : State) (pa : Nat) : Bool := s.isLocal pa && areaOf s (paLa pa) == .device
/-- Whether a local device register is accessed with 1 or 2 bytes (R10). -/
def State.subWord (s : State) (pa size : Nat) : Bool := s.deviceAt pa && decide (size < 4)

/-- A trap of an access: that of a hypervisor access has a guest virtual address (R268). -/
def Prep.trapOf (virt : Virt) (t : Trap) : Prep := .trap { t with gva := virt != .no }

/-- Checks one page's bytes: translation, PMP, PMA and range, then alignment in an I/O region and at a device register, then the size rule of device registers and the write rule of R31 (R10, R31, R50, R88).
`al` is the alignment an I/O access needs. -/
def State.prepPart (s : State) (h : HartId) (virt : Virt) (acc : Acc) (va : Word) (size off al total : Nat) : Prep :=
  let eff := (s.hart h).effMode (isT h) virt
  match s.xlate h va acc eff (virt == .hlvx) with
  | .fault t => .trapOf virt t
  | .walk w => .walk w
  | .ok pa =>
    match s.target h (modePrv eff) pa size acc with
    | none => .trapOf virt (excep (accessFault acc) va)
    | some g =>
      if (g.io || s.deviceAt pa) && (va.toNat - off) % al ≠ 0 then .trapOf virt (excep (misaligned acc) (va - BitVec.ofNat 64 off))
      else if s.subWord pa total then .trapOf virt (excep (accessFault acc) va)
      else if acc == .store && modePrv eff != 3 && s.isLocal pa && areaOf s (paLa pa) == .device && r31At (paLa pa) size
      then .trapOf virt (excep (accessFault acc) va)
      else .parts [{ va := va, pa := pa, size := size, off := off, tgt := g }]

/-- Checks every byte of an access before any is performed; the lowest faulting address decides (R50, R88). -/
def State.prep (s : State) (h : HartId) (virt : Virt) (acc : Acc) (va : Word) (size al : Nat) : Prep :=
  let n1 := min size (4096 - va.toNat % 4096)
  match s.prepPart h virt acc va n1 0 al size with
  | .parts l =>
    if n1 = size then .parts l else
    match s.prepPart h virt acc (va + BitVec.ofNat 64 n1) (size - n1) n1 al size with
    | .parts l' => .parts (l ++ l')
    | r => r
  | r => r

/-- Splits a part at the line boundaries it crosses; a part is at most 64 bytes. -/
def Part.lines (p : Part) : List Part :=
  let n := min p.size (64 - p.pa % 64)
  if n = p.size then [p]
  else [{ p with size := n }, { p with va := p.va + BitVec.ofNat 64 n, pa := p.pa + n, size := p.size - n, off := p.off + n }]

/-- Bytes of the next piece of a misaligned access: the largest power of two that is at most 8 and at most `n` and divides `a` (R139). -/
def pieceSize (a n : Nat) : Nat :=
  if a % 8 = 0 ∧ 8 ≤ n then 8 else if a % 4 = 0 ∧ 4 ≤ n then 4 else if a % 2 = 0 ∧ 2 ≤ n then 2 else 1
/-- The pieces of bytes from `a` on, by the procedure of R139; `fuel` is their number at most. -/
def Part.cut : Nat → Part → List Part
  | 0, _ => []
  | fuel + 1, p =>
    if p.size = 0 then [] else
    let k := pieceSize p.pa p.size
    { p with size := k } :: Part.cut fuel { p with va := p.va + BitVec.ofNat 64 k, pa := p.pa + k, size := p.size - k, off := p.off + k }
/-- The single-copy atomic units of a part of an access to memory: the whole of a naturally aligned one, of an aligned pair and of a zeroed block, and else its
pieces (R49, R138, R139). -/
def Part.pieces (p : Part) : List Part :=
  if [1, 2, 4, 8, 16, 64].contains p.size && p.pa % p.size == 0 then [p] else Part.cut p.size p

/-- Whether a region is served by tag and timer rather than by a cache or TCM. -/
def Region.uncached : Region → Bool | .c0 | .io | .remote => true | _ => false

/-- A trigger on the address of a load (`kind` 0) or store (1) (R489). -/
def State.addrTrig (s : State) (h : HartId) (kind : Nat) (va : Word) : Option Trap :=
  ((s.hart h).trigHit (isT h) kind va).map fun i => s.trigTrap h i va

/-- The trap of an explicit access with the transformed instruction of a guest-page fault: the offset of the faulting byte stands in the place of rs1 (R280).
`enc` is the instruction with that field and the immediate zero, and 0 where the hypervisor specification transforms none. -/
def Trap.withInst (t : Trap) (enc : Nat) (va : Word) : Trap :=
  if (t.cause == 21 || t.cause == 23) && t.tinst == 0 && enc != 0
  then { t with tinst := BitVec.ofNat 64 (enc + 2 ^ 15 * ((t.tval - va).toNat % 32)) } else t

/-- Runs `f` on the checked parts of an access; a trigger or a fault traps, and a walk starts where the translation is missing (R100, R272). -/
def State.withParts (s : State) (h : HartId) (virt : Virt) (acc : Acc) (va : Word) (size al enc : Nat) (f : State → List Part → State) : State :=
  match s.addrTrig h (if acc == .store then 1 else 0) va with
  | some t => s.trap h t
  | none =>
  match s.prep h virt acc va size al with
  | .trap t => s.trap h (t.withInst enc va)
  | .walk w => s.tlbMiss h w
  | .parts l => f s l

/-! ### The store buffer as a load sees it (R93, R114) -/

/-- The youngest store in the buffer that overlaps a load's bytes. -/
def sbHit (sb : List SbEntry) (ps : List Part) : Option SbEntry := sb.reverse.find? fun e => ps.any fun p => e.overlaps p.pa p.size
/-- Whether a store contains every byte of a load and may forward. -/
def SbEntry.forwards (e : SbEntry) (ps : List Part) : Bool := !e.uncached && ps.all fun p => e.covers p.pa p.size
/-- A load's bytes as the store gives them. -/
def SbEntry.valueOf (e : SbEntry) (ps : List Part) : Nat :=
  (ps.map fun p => ((List.range p.size).map fun i => (e.byteAt (p.pa + i)).getD 0 * 2 ^ (8 * (p.off + i))).sum).sum

/-! ### Cacheable memory -/

/-- Largest L2 stride degree. -/
def l2deg (v : BitVec 32) : Nat := match fld v 18 16 with | 1 => 2 | 2 => 4 | 3 => 8 | _ => 16

/-- Trains an entry with a new address: the same step counts up, another starts again. -/
def PfEntry.train (e : PfEntry) (a : Nat) (lo hi : Nat) : PfEntry :=
  let d : Int := (a : Int) - e.last
  if d = 0 then e
  else if d = e.stride then { e with last := a, count := e.count + 1 }
  else { e with last := a, stride := if lo ≤ d.natAbs ∧ d.natAbs ≤ hi then d else 0, count := 1, deg := 2, used := 0 }

/-- Puts an entry first in a table of 32. -/
def pfPut (l : List PfEntry) (e : PfEntry) : List PfEntry := (e :: l.filter fun x => x.key != e.key).take 32
/-- The entry of a key, trained with address `a`. -/
def pfTrain (l : List PfEntry) (key a lo hi : Nat) : PfEntry :=
  match l.find? fun e => e.key == key with
  | some e => e.train a lo hi
  | none => { key := key, last := a, stride := 0, count := 0, deg := 2, used := 0 }

/-- The lines at 1 to `n` strides beyond byte address `a`, within its 4 KiB page. -/
def strideLines (a n : Nat) (stride : Int) : List Nat :=
  ((List.range n).filterMap fun i =>
    let b : Int := (a : Int) + stride * (i + 1)
    if 0 ≤ b ∧ b.toNat / 4096 = a / 4096 then some (b.toNat / 64) else none).dedup

/-- The L1 D stride prefetcher sees a load of the instruction at `pc` (R182). -/
def State.trainL1 (s : State) (h : HartId) (pc : Word) (la : Nat) : State :=
  if !(isT h) || !((s.pfctlOf (agentOf h)).getLsbD 2) then s else
  let c := s.hart h
  let e := pfTrain c.pfL1 pc.toNat la 1 2048
  let s := s.setHart h { c with pfL1 := pfPut c.pfL1 e }
  if e.stride ≠ 0 ∧ 2 ≤ e.count then (strideLines la 4 e.stride).foldl (fun s ln => s.prefetchD h ln) s else s

/-- The L2 stride prefetcher sees an access to a line; a demand hit of a prefetched line counts as used (R182, R184). -/
def State.trainL2 (s : State) (h : HartId) (ln : Nat) (own : Bool) : State :=
  if !(isT h) then s else
  let a := agentOf h
  let ctl := s.pfctlOf a
  let l := s.l2 a ln
  let c := s.hart h
  let e := pfTrain c.pfL2 (ln / 64) ln 1 16
  let e := if l.pref then (if e.used + 1 = 8 then { e with used := 0, deg := min (2 * e.deg) (l2deg ctl) } else { e with used := e.used + 1 }) else e
  let s := s.setHart h { c with pfL2 := pfPut c.pfL2 e }
  let s := if l.pref then s.setL2 a ln { l with pref := false } else s
  if ctl.getLsbD 1 && e.stride != 0 && decide (2 ≤ e.count)
  then (strideLines (64 * ln) (min e.deg (l2deg ctl)) (64 * e.stride)).foldl (fun s k => s.prefetch a k (if own then .prefetchOwn else .prefetchRead)) s
  else s

/-- The prefetchers see a load of the instruction at `pc` from cacheable memory: the L1 D stride prefetcher every load, that of the L2 the lines that the L1 does not
hold (R182). -/
def State.trainLoad (s : State) (h : HartId) (pc : Word) (ps : List Part) : State :=
  let lines := ((ps.filter fun p => p.tgt.region == .cached).flatMap fun p => p.lines.map fun q => lineOf (paLa q.pa)).dedup
  let s := match ps with | p :: _ => if p.tgt.region = .cached then s.trainL1 h pc (paLa p.pa) else s | [] => s
  lines.foldl (fun s ln => if (s.hart h).inD ln then s else s.trainL2 h ln false) s

/-- Loads that have been read ahead of a load at place `seq`, from bytes that it reads only now, and whose line has left the L1 since: they and every younger
instruction are fetched again (R91). -/
def Hart.readNow (c : Hart) (seq pa size : Nat) : Hart :=
  c.squashEarly fun e => e.lost && decide (seq < e.seq) && decide (e.pa < pa + size) && decide (pa < e.pa + e.size)

/-- Reads a piece of a load at place `seq` from the TCM or the caches. A half of a pair whose line request has ended with an error is an imprecise bus error, its
bytes unstated (R50). -/
def State.readPiece (s : State) (h : HartId) (pair : Bool) (seq : Nat) (p : Part) : ReadRes :=
  let s := if (s.hart h).early = [] then s else s.updHart h fun c => c.readNow seq p.pa p.size
  if p.tgt.region = .tcm then s.readTcm h p.pa p.size else
  let ln := lineOf (paLa p.pa)
  if pair && s.missFailed (agentOf h) ln && !((s.l2 (agentOf h) ln).readable) then
    let (w, s) := ((s.endMshr (agentOf h) ln).writeFail h p.pa 3 1).takeWord
    .value (w.toNat % 2 ^ (8 * p.size)) s
  else s.readLine h (paLa p.pa) p.size

/-- A piece that the instruction at pc has read ahead of its turn (R89). -/
def Hart.aheadPiece (c : Hart) (p : Part) : Option EarlyLoad := c.early.find? fun e => e.seq == c.seq && e.pc == c.pc && e.pa == p.pa && e.size == p.size

/-- Reads the pieces of a load that have not been read ahead, each at its place in the value. -/
def State.readPieces (s : State) (h : HartId) (pair : Bool) : List Part → ReadRes
  | [] => .value 0 s
  | p :: t =>
    match (match (s.hart h).aheadPiece p with | some e => ReadRes.value e.value s | none => s.readPiece h pair (s.hart h).seq p) with
    | .value v s =>
      (match s.readPieces h pair t with
      | .value w s => .value (v * 2 ^ (8 * p.off) + w) s
      | x => x)
    | x => x

/-- Reads a cached or TCM load: forwarded whole from the one store that contains it, waiting behind one that overlaps it only in part or has an uncached target,
and otherwise from the TCM or the caches, a piece at a time (R93, R114, R139). -/
def State.readParts (s : State) (h : HartId) (pair : Bool) (ps : List Part) : ReadRes :=
  let c := s.hart h
  let qs := ps.flatMap Part.pieces
  match if qs.all fun p => (c.aheadPiece p).isSome then none else sbHit c.sb ps with
  | some e => if e.forwards ps then .value (e.valueOf ps) (s.eventT h 0x11) else .wait s
  | none => s.readPieces h pair qs

/-! ### Uncached reads (R89, R139, R147, R153) -/

/-- Issues one request line of an uncached read or atomic; past the limits of R218 it waits at the core. The status is 0 where nothing fails at once. -/
def State.issueRead (s : State) (h : HartId) (q : Part) (dest : UDest) (len : Nat) (op : MsgOp) (edit : Flit → Flit) : State × Nat :=
  match s.dest q.pa q.tgt.tmo false with
  | .done sts => (s, sts)
  | .node n rpkg limit =>
    let c := s.hart h
    match s.readTag h with
    | none => (s, 0)
    | some tag =>
      let u : ULoad := { tag := tag, pa := q.pa, size := q.size, off := q.off, va := q.va, dest := dest, stop := if s.isLocal q.pa then nodeStop n else 1000 + rpkg,
                         remote := !(s.isLocal q.pa), len := len, deadline := s.time + limit, wait := none }
      let f := edit (ncFlit op (hartNode h) n (paLa q.pa) tag rpkg (maskOf (q.pa % 64) q.size))
      if s.guarRoom h then ((s.setHart h { c.useTag tag with uload := c.uload ++ [u] }).send (s.hartClass h f), 0)
      else (s.setHart h { c.useTag tag with uload := c.uload ++ [{ u with deadline := limit, wait := some f }] }, 0)

/-- The first request of the hart's access that waits at the core goes out when there is room (R218). -/
def State.sendHeld (s : State) (h : HartId) : State :=
  let c := s.hart h
  match c.uload.find? fun u => u.wait.isSome && u.dest != .maint with
  | none => s
  | some u =>
    match u.wait with
    | some f =>
      if s.guarRoom h then
        (s.setHart h { c with uload := c.uload.map fun x => if x = u then { u with wait := none, deadline := s.time + u.deadline } else x }).send (s.hartClass h f)
      else s
    | none => s

/-- Issues the request lines of an uncached read, in ascending order, up to one that fails at once. -/
def State.issueReads (s : State) (h : HartId) (dest : UDest) (len : Nat) : List Part → State × Option (Part × Nat)
  | [] => (s, none)
  | q :: t =>
    let (s, sts) := s.issueRead h q dest len .readNc id
    if sts ≠ 0 then (s, some (q, sts)) else s.issueReads h dest len t

/-- Value of `n` bytes at `o` of the bytes received. -/
def Hart.acc (c : Hart) (o n : Nat) : Nat := lineBytes c.uacc o n

/-- Writes an element of a vector register: element `k` of `n` bytes in the group that starts at `vd`. -/
def Hart.setElem (c : Hart) (vd n k v : Nat) : Hart :=
  let per := 32 / n
  let r := (vd + k / per) % 32
  c.setV r (putFld (c.getV r) (8 * n * (k % per) + 8 * n - 1) (8 * n * (k % per)) v)
/-- Reads an element. -/
def Hart.elem (c : Hart) (vs n k : Nat) : Nat :=
  let per := 32 / n
  fld (c.getV ((vs + k / per) % 32)) (8 * n * (k % per) + 8 * n - 1) (8 * n * (k % per))

/-- Marks the FP or vector state dirty. -/
def Hart.dirtyFs (c : Hart) : Hart :=
  let c := c.csrPut 0x300 (putFld (c.csrRaw 0x300) 14 13 3)
  if modeVirt c.mode then c.csrPut 0x200 (putFld (c.csrRaw 0x200) 14 13 3) else c
def Hart.dirtyVs (c : Hart) : Hart :=
  let c := c.csrPut 0x300 (putFld (c.csrRaw 0x300) 10 9 3)
  if modeVirt c.mode then c.csrPut 0x200 (putFld (c.csrRaw 0x200) 10 9 3) else c

/-- The result of a load or atomic whose bytes are all in `uacc`. -/
def Hart.deliver (c : Hart) : UDest → Hart
  | .x r total signed => c.setX r (if signed then sext (8 * total) (c.acc 0 total) else BitVec.ofNat 64 (c.acc 0 total))
  | .f r total => (c.setF r (boxF (if total = 4 then .s else .d) (c.acc 0 total))).dirtyFs
  | .pair r => (c.setX r (BitVec.ofNat 64 (c.acc 0 8))).setX (r + 1) (BitVec.ofNat 64 (c.acc 8 8))
  | .velem vd k n nf regs _ =>
    ((List.range nf).foldl (fun c f => c.setElem (vd + f * regs) n k (c.acc (f * n) n)) c).csrPut 0x008 (BitVec.ofNat 64 (k + 1)) |>.dirtyVs
  | .amo r n => c.setX r (sext (8 * n) (c.acc 0 n))
  | .maint => c
  | .dbg .. => c
  | .fail _ _ => c

/-- What an outstanding part becomes when another part of its instruction has failed. -/
def UDest.failed (d : UDest) (cause : Nat) (va : Word) : UDest := match d with | .dbg o n _ => .dbg o n false | _ => .fail cause va
/-- The end of an abstract command's memory read: its data, or cmderr 3 for the exception (R489). -/
def State.endDbg (s : State) (h : HartId) (o n : Nat) (ok : Bool) : State :=
  { s with sec := if ok then { s.sec with dmdata := tabSet 0 s.sec.dmdata o (BitVec.ofNat 64 ((s.hart h).acc 0 n)), cmderr := tabSet 0 s.sec.cmderr o 0 }
      else { s.sec with cmderr := tabSet 0 s.sec.cmderr o 3 } }
/-- The instruction of a failed access traps; an abstract command ends with its error. -/
def State.endFailed (s : State) (h : HartId) (d : UDest) (cause : Nat) (va : Word) : State :=
  match d with | .dbg o n _ => s.endDbg h o n false | _ => s.trap h (excep cause va)

/-- The instruction whose last outstanding part has ended: it delivers its result and retires, or traps. A vector instruction goes on with
its next element (R87). -/
def State.endUload (s : State) (h : HartId) (dest : UDest) (len : Nat) : State :=
  match dest with
  | .fail cause va => s.trap h (excep cause va)
  | .velem .. => s.updHart h fun c => c.deliver dest
  | .dbg o n ok => s.endDbg h o n ok
  | _ =>
    let s := s.updHart h fun c => c.deliver dest
    s.retire h len 1

/-- The element above 0 whose fault a fault-only-first load does not trap on (R86). -/
def UDest.late : UDest → Option Nat
  | .velem _ k _ _ _ ff => if ff && k != 0 then some k else none
  | _ => none

/-- A fault-only-first load ends with vl = k; its outstanding parts deliver nothing (R86). -/
def Hart.ffEnd (c : Hart) (k : Nat) : Hart :=
  let c' : Hart := { c with uload := c.uload.map fun x => { x with dest := UDest.velem 0 k 1 0 1 true } }
  (c'.csrPut 0xC20 (BitVec.ofNat 64 k)).dirtyVs

/-- Issues the parts of a pair load: one that fails at once is an imprecise bus error, its bytes are unstated, and the others are performed (R50). -/
def State.issuePair (s : State) (h : HartId) (dest : UDest) (len : Nat) : List Part → State
  | [] => s
  | q :: t =>
    let (s, sts) := s.issueRead h q dest len .readNc id
    if sts = 0 then s.issuePair h dest len t else
    let (w, s) := (s.writeFail h q.pa sts 1).takeWord
    (s.updHart h fun c => { c with uacc := mergeLine c.uacc (atOffset q.off w.toNat) (maskOf q.off q.size) }).issuePair h dest len t

/-- Starts an uncached read of all parts: it waits until every older store has been issued and tags are free (R89, R146, R147). A vector instruction that has
read an element of an I/O region goes on to its end (R87, R101). -/
def State.startRead (s : State) (h : HartId) (dest : UDest) (len : Nat) (parts : List Part) : State :=
  if (s.hart h).sb ≠ [] || !(s.guarRoom h) || decide (Config.reqTags < s.reqCount (agentOf h) + (parts.flatMap Part.lines).length)
  then s.waits h else
  let s := s.updHart h fun c => { c with uacc := 0, begun := c.begun || (match dest with | .velem .. => true | _ => false) }
  match dest with
  | .pair _ =>
    let s := s.issuePair h dest len (parts.flatMap Part.lines)
    if (s.hart h).uload = [] then s.endUload h dest len else s
  | _ =>
  let (s, bad) := s.issueReads h dest len (parts.flatMap Part.lines)
  match bad with
  | none => if (s.hart h).uload = [] then s.endUload h dest len else s
  | some (q, sts) =>
    let cause := match dest with | .amo .. => 7 | _ => 5
    let s := s.readFail h q.pa sts false
    match dest.late with
    | some k =>
      s.updHart h fun c => c.ffEnd k
    | none =>
    if (s.hart h).uload = [] then s.endFailed h dest cause q.va
    else s.updHart h fun c => { c with uload := c.uload.map fun u => { u with dest := u.dest.failed cause q.va } }

/-- A response ends the outstanding part with this tag: its bytes join those received; a failure turns what remains into a trap (R153, R308,
R502). A pair's half that fails is imprecise (R50). -/
def State.endPart (s : State) (h : HartId) (u : ULoad) (sts : Nat) (unknown poison : Bool) (data : Line) : State :=
  let cause := match u.dest with | .amo .. => 7 | _ => 5
  let drop (s : State) : State := (s.updHart h fun c => { c with uload := c.uload.erase u }).sendHeld h
  let fin (s : State) : State := if (s.hart h).uload = [] then s.endUload h u.dest u.len else s
  let failed (s : State) : State :=
    let s := drop s
    match u.dest.late with
    | some k =>
      -- the fault-only-first load ends with vl = k; its other parts deliver nothing (R86)
      s.updHart h fun c => c.ffEnd k
    | none =>
    if (s.hart h).uload = [] then s.endFailed h u.dest cause u.va
    else s.updHart h fun c => { c with uload := c.uload.map fun x => { x with dest := x.dest.failed cause u.va } }
  if poison || sts = 4 then failed (s.poisonUsed h u.pa (match u.dest with | .amo .. => 2 | _ => 0))
  else if sts = 0 then
    let v := lineBytes data (u.pa % 64) u.size
    fin (drop (s.updHart h fun c => { c with uacc := mergeLine c.uacc (atOffset u.off v) (maskOf u.off u.size) }))
  else match u.dest with
    | .pair _ =>
      let (w, s) := (s.writeFail h u.pa sts 1).takeWord
      fin (drop (s.updHart h fun c => { c with uacc := mergeLine c.uacc (atOffset u.off w.toNat) (maskOf u.off u.size) }))
    | .fail .. => fin (drop s)
    | .dbg _ _ false => fin (drop s)
    | _ => failed (s.readFail h u.pa sts (unknown && cause == 7))

end Sys2Proof.Machine
end

