-- ==== Sys2Proof/Machine/LoadStore.lean ====
section
/-!
DEFINITION. Loads, stores and the store buffer (R88 to R94, R114), atomics and reservations (R138 to R144, R530), pair accesses (R48 to R50),
and the streaming-store detector (R180).
-/
namespace Sys2Proof.Machine

/-! ### Legality -/

/-- F and D exist on the T-core and need FS on, in the guest too (R41). -/
def Hart.fpLegal (t : Bool) (c : Hart) : CsrAccess :=
  if !t || fld (c.csrRaw 0x300) 14 13 == 0 || (modeVirt c.mode && fld (c.csrRaw 0x200) 14 13 == 0) then .illegal else .ok

/-- HLV, HLVX and HSV: M and HS, and U with hstatus.HU (R268). -/
def Hart.hlvLegal (t : Bool) (c : Hart) (v : Virt) : CsrAccess :=
  if v == .no then .ok
  else if !t then .illegal
  else match c.mode with
    | .m | .hs => .ok
    | .u => if c.csrBit 0x600 9 then .ok else .illegal
    | _ => .virt

/-- Runs `f` where the instruction is legal; else the exception that R42 or R47 names. -/
def State.legally (s : State) (h : HartId) (a : CsrAccess) (f : State → State) : State :=
  match a with | .ok => f s | .illegal => s.illegal h false | .virt => s.illegal h true

/-- The stricter of two checks. -/
def CsrAccess.also (a b : CsrAccess) : CsrAccess := if a == .ok then b else a

/-! ### Loads -/

def ldBytes : LdKind → Nat | .lb | .lbu => 1 | .lh | .lhu => 2 | .lw | .lwu | .flw => 4 | .ld | .fld => 8
def ldFp : LdKind → Bool | .flw | .fld => true | _ => false
def ldDest (k : LdKind) (rd : Nat) : UDest :=
  match k with
  | .flw => .f rd 4
  | .fld => .f rd 8
  | .lb | .lh | .lw => .x rd (ldBytes k) true
  | _ => .x rd (ldBytes k) false

/-- Delivers a value read from a cache or a TCM. -/
def Hart.deliverV (c : Hart) (v : Nat) (d : UDest) : Hart := { ({ c with uacc := BitVec.ofNat 512 v }.deliver d) with uacc := c.uacc }

/-- The key under which a destination's availability is kept: integer registers 1 to 31, FP registers from 32, vector registers from 64 (R80, R113). -/
def UDest.ready : UDest → List Nat
  | .x r _ _ => [r]
  | .f r _ => [32 + r]
  | .pair r => [r, r + 1]
  | .amo r n => if n = 16 then [r, r + 1] else [r]
  | _ => []
/-- Records when the registers of a list are available. -/
def Hart.busyAll (c : Hart) (rs : List Nat) (lat : Nat) : Hart := rs.foldl (fun c r => c.busy r lat) c

/-- Whether a load crosses a boundary of `n` bytes. -/
def crosses (n : Nat) (ps : List Part) : Bool :=
  decide (1 < ps.length) || ps.any fun p => decide (p.pa / n ≠ (p.pa + p.size - 1) / n)
/-- Latency of a load: on a T-core 5 when forwarded, or 8 for a vector, 4 in the L1 D-cache, 6 for FP and 7 for a vector, 14 in the L2, and 2 more across a line (R81); on an S-core
DTCM 2, ITCM 3, forwarded 3, D share 3, shared level 12, and 1 more across 8 bytes of a TCM or share (R118, R119). -/
def State.loadLat (s : State) (h : HartId) (ps : List Part) (fp vec : Bool) : Nat :=
  let c := s.hart h
  let fwd := (sbHit c.sb ps).isSome
  let inD := ps.all fun p => p.lines.all fun q => c.inD (lineOf (paLa q.pa))
  let tcm := ps.any fun p => p.tgt.region == .tcm
  if isT h then
    if fwd then (if vec then 8 else 5) else (if !inD then 14 else if vec then 7 else if fp then 6 else 4) + (if crosses 64 ps then 2 else 0)
  else if fwd then 3
  else if tcm then (if ps.all fun p => decide (0x101_0000 ≤ paLa p.pa) then 2 else 3) + b2n (crosses 8 ps)
  else if inD then 3 + b2n (crosses 8 ps) else 12

/-- A load of checked parts: from the cache or TCM, or by uncached reads; errors and poison are precise load access faults (R89, R107, R153, R502), but a bus error of
a pair is imprecise (R50). -/
def State.loadParts (s : State) (h : HartId) (va : Word) (dest : UDest) (len : Nat) (ps : List Part) : State :=
  if ps.any fun p => p.tgt.region.uncached then s.startRead h dest len ps else
  let lat := s.loadLat h ps (match dest with | .f .. => true | _ => false) false
  let s := s.trainLoad h (s.hart h).pc ps
  match s.readParts h (match dest with | .pair _ => true | _ => false) ps with
  | .wait s' => if (sbHit (s.hart h).sb ps).isSome then s'.waits h else s'.waitsMiss h
  | .poison s => (s.poisonUsed h ((ps.map (·.pa)).headD 0) 0).trap h (excep 5 va)
  | .tcmError s => s.trap h (excep 5 va)
  | .value v s => ((s.updHart h fun c => (c.deliverV v dest).busyAll dest.ready lat).eventT h 0x06).retire h len 1

/-! ### Acting ahead of program order (R89 to R92, R98) -/

/-- Whether a T-core's younger instructions may act now: it runs, whatever access its oldest instruction waits for, and no fence waits (R89, R149). -/
def Hart.runsAhead (c : Hart) : Bool :=
  !c.held && !c.fatal && !c.rstBusy && !c.stopped && !c.halted && c.idle == .run && c.fence == none

/-- Reads the pieces of a load ahead of its turn into the load queue, at most 192 (R66, R89). -/
def State.aheadPieces (s : State) (h : HartId) (seq : Nat) (pc : Word) (fwd : Option SbEntry) : List Part → State
  | [] => s
  | p :: t =>
    let c := s.hart h
    if (c.early.any fun e => e.seq == seq && e.pc == pc && e.pa == p.pa && e.size == p.size) || decide (192 ≤ c.early.length)
    then s.aheadPieces h seq pc fwd t else
    let put (s : State) (v : Nat) : State :=
      s.updHart h fun c => { c with early := c.early ++ [{ seq := seq, pc := pc, pa := p.pa, size := p.size, value := v, fwd := fwd.isSome, lost := false }] }
    match fwd with
    | some e => (put s (e.valueOf [{ p with off := 0 }])).aheadPieces h seq pc fwd t
    | none =>
      match s.readPiece h false seq p with
      | .value v s => (put s v).aheadPieces h seq pc fwd t
      | .wait s => s
      | _ => s

/-- A load that reads before it is the hart's next instruction, perhaps on a path that proves wrong: from local cacheable memory alone, with no register written and
no fault taken; it may start a walk and fill caches (R89, R90, R98, R99). It does not go ahead of a store that the memory-dependence predictor names for it
among those whose address is not yet known (R90), nor where R93 makes it wait. -/
def State.loadAhead (s : State) (h : HartId) (a : Ahead) : State :=
  let c := s.hart h
  if !(isT h) || s.phase != .run || !c.runsAhead || a.bytes = 0 || (c.pred.mdp.any fun (l, st) => l == a.pc && a.stores.contains st) then s else
  match s.prep h .no .load a.va a.bytes.val 1 with
  | .walk w => s.tlbMiss h w
  | .trap _ => s
  | .parts ps =>
    if ps.any fun p => p.tgt.region != .cached then s else
    let s := s.trainLoad h a.pc ps
    match sbHit (s.hart h).sb ps with
    | some e => if e.forwards ps then s.aheadPieces h (c.seq + a.n.val) a.pc (some e) (ps.flatMap Part.pieces) else s
    | none => s.aheadPieces h (c.seq + a.n.val) a.pc none (ps.flatMap Part.pieces)

/-- A store whose address is known asks for ownership of its lines before it is the hart's next instruction, perhaps on a path that proves wrong (R92, R98). Only
lines of local cacheable memory are asked for, and no D bit is set. -/
def State.storeAhead (s : State) (h : HartId) (a : Ahead) : State :=
  let c := s.hart h
  if !(isT h) || s.phase != .run || !c.runsAhead || a.bytes = 0 then s else
  match s.prep h .no .store a.va a.bytes.val 1 with
  | .parts ps =>
    if ps.any fun p => p.tgt.region != .cached then s else
    (ps.flatMap Part.lines).foldl (fun s q =>
      let ln := lineOf (paLa q.pa)
      let l := s.l2 (agentOf h) ln
      if l.writable then s else s.demand h ln (if l.st = .i then .lineOwn else .linePromote)) s
  | _ => s

/-- Bytes of an instruction: 2 compressed, 4 otherwise. -/
def ilen (c : Bool) : Nat := if c then 2 else 4

/-- Bit 1 of a transformed instruction is clear for a compressed one. -/
def encC (c : Bool) (enc : Nat) : Nat := if c then enc - 2 else enc
/-- Log2 of a size in bytes. -/
def sizeLog (n : Nat) : Nat := match n with | 1 => 0 | 2 => 1 | 4 => 2 | 8 => 3 | _ => 4

/-- A load as it is transformed: opcode, rd and funct3, or the whole of HLV and HLVX but rs1 (R280). -/
def ldEnc (k : LdKind) (virt : Virt) (rd : Nat) (c : Bool) : Nat :=
  let uns := match k with | .lbu | .lhu | .lwu => true | _ => false
  let f3 := sizeLog (ldBytes k) + 4 * b2n uns
  match virt with
  | .no => encC c ((if ldFp k then 0x07 else 0x03) + 2 ^ 7 * rd + 2 ^ 12 * f3)
  | .hlv => 0x4073 + 2 ^ 7 * rd + 2 ^ 20 * b2n uns + 2 ^ 25 * (0x30 + 2 * sizeLog (ldBytes k))
  | .hlvx => 0x4073 + 2 ^ 7 * rd + 2 ^ 20 * 3 + 2 ^ 25 * (0x30 + 2 * sizeLog (ldBytes k))

/-- LOAD: LB to LD, FLW, FLD, and HLV and HLVX under `virt`; with `ahead`, the load of an instruction further on (R88 to R93). -/
def execLoad (h : HartId) (k : LdKind) (virt : Virt) (rd rs1 : Fin 32) (imm : BitVec 12) (ahead : Option Ahead) (c : Bool) (s : State) : Res :=
  .next (match ahead with
  | some a => s.loadAhead h a
  | none =>
    s.onHart h (ilen c) fun s =>
      let ch := s.hart h
      s.legally h ((if ldFp k then ch.fpLegal (isT h) else .ok).also (ch.hlvLegal (isT h) virt)) fun s =>
        let va := ch.getX rs1.val + imm.signExtend 64
        s.withParts h virt .load va (ldBytes k) (ldBytes k) (ldEnc k virt rd.val c) fun s ps => s.loadParts h va (ldDest k rd.val) (ilen c) ps)

/-! ### Stores -/

def stBytes : StKind → Nat | .sb => 1 | .sh => 2 | .sw | .fsw => 4 | .sd | .fsd => 8
def stFp : StKind → Bool | .fsw | .fsd => true | _ => false

/-- Store-buffer entries of a core (R66, R114). -/
def sbMax (h : HartId) : Nat := if isT h then Config.sbT else Config.sbS

/-- A piece of a store as the store buffer holds it. -/
def sbPart (p : Part) : SbPart := { pa := p.pa, size := p.size, off := p.off, region := p.tgt.region, ewa := p.tgt.ewa, tmo := p.tgt.tmo, held := p.tgt.held }
/-- The pieces of a part: those of R139 for a cache or a TCM, and one for each line that an uncached request touches. -/
def Part.units (p : Part) : List Part := if p.tgt.region.uncached then p.lines else p.pieces
/-- The store-buffer entry of a store of value `v` to checked parts (R92). -/
def sbOf (ps : List Part) (v seq : Nat) (zero : Bool) : SbEntry :=
  { parts := (ps.flatMap Part.units).map sbPart, data := BitVec.ofNat 512 v, seq := seq, zero := zero, retired := true }

/-- Loads that have been read ahead of a store and overlap it: a memory-order violation. The oldest and every younger instruction are fetched again, and the
predictor takes the pair; it holds 2,048 (R66, R90). -/
def Hart.violates (c : Hart) (e : SbEntry) : Option EarlyLoad := c.early.find? fun x => e.overlaps x.pa x.size
def State.orderCheck (s : State) (h : HartId) (e : SbEntry) : State :=
  match (s.hart h).violates e with
  | none => s
  | some x =>
    (s.updHart h fun c =>
      { c.squashEarly (fun y => e.overlaps y.pa y.size) with pred := { c.pred with mdp := ((x.pc, c.pc) :: c.pred.mdp).take 2048 } }).event h 0x10 1

/-- Stores take their entries, all in one, or wait with the buffer full (R67, R92, R114). A vector store of more entries than the buffer has takes them with the buffer
empty (log entry 9). -/
def State.enterStores (s : State) (h : HartId) (es : List SbEntry) (done : State → State) : State :=
  let c := s.hart h
  if sbMax h < c.sb.length + es.length ∧ c.sb ≠ [] then (s.event h (if isT h then 0x14 else 0x0A) 1).waits h else
  done (es.foldl (fun s e => s.orderCheck h e) (s.setHart h { c with sb := c.sb ++ es }))

/-- A store of checked parts takes its entry and retires; with the buffer full it waits (R92, R114). -/
def State.storeParts (s : State) (h : HartId) (v len : Nat) (zero : Bool) (ps : List Part) : State :=
  s.enterStores h [sbOf ps v (s.hart h).seq zero] fun s => (s.eventT h 0x07).retire h len 1

/-- A store as it is transformed (R280). -/
def stEnc (k : StKind) (virt : Virt) (rs2 : Nat) (c : Bool) : Nat :=
  match virt with
  | .no => encC c ((if stFp k then 0x27 else 0x23) + 2 ^ 12 * sizeLog (stBytes k) + 2 ^ 20 * rs2)
  | _ => 0x4073 + 2 ^ 20 * rs2 + 2 ^ 25 * (0x31 + 2 * sizeLog (stBytes k))

/-- A store in program order. -/
def State.plainStore (s : State) (h : HartId) (k : StKind) (virt : Virt) (rs2 rs1 : Fin 32) (imm : BitVec 12) (len : Nat) : State :=
  s.onHart h len fun s =>
    let ch := s.hart h
    s.legally h ((if stFp k then ch.fpLegal (isT h) else .ok).also (ch.hlvLegal (isT h) virt)) fun s =>
      let va := ch.getX rs1.val + imm.signExtend 64
      let v := if stFp k then (ch.getF rs2.val).toNat else (ch.getX rs2.val).toNat
      s.withParts h virt .store va (stBytes k) (stBytes k) (stEnc k virt rs2.val (len == 2)) fun s ps => s.storeParts h v len false ps

/-- STORE: SB to SD, FSW, FSD, and HSV under `virt`; of an instruction further on, the early ownership request (R90, R92). -/
def execStore (h : HartId) (k : StKind) (virt : Virt) (rs2 rs1 : Fin 32) (imm : BitVec 12) (c : StForm) (s : State) : Res :=
  .next (match c with
  | .ahead a => s.storeAhead h a
  | .now c => s.plainStore h k virt rs2 rs1 imm (ilen c))

/-! ### The streaming-store detector (R180) -/

/-- Entries of the detector. -/
def streamMax : Nat := 8
/-- A confirmed stream. -/
def Stream.confirmed (e : Stream) : Bool := decide (4 ≤ e.count)
/-- Whether line `ln` goes on from the entry's current line in its direction. -/
def Stream.isNext (e : Stream) (ln : Nat) : Bool :=
  (ln == e.cur + 1 && e.up != some false) || (ln + 1 == e.cur && e.up != some true)
/-- Whether the request for a line that the agent does not hold is a LineClaim while SL_PFCTL.STRM is set (R180, R186). -/
def State.claims (s : State) (a ln : Nat) : Bool :=
  (s.pfctlOf a).getLsbD 4 && s.coh.streams.any fun e => e.agent == a && e.cur / 64 == ln / 64 && e.confirmed && e.isNext ln && fullMask e.mask

/-- Puts a detector entry first in its agent's list of at most 8. -/
def State.putStream (s : State) (e : Stream) : State :=
  let mine := s.coh.streams.filter fun x => x.agent == e.agent && x.slot != e.slot
  let others := s.coh.streams.filter fun x => x.agent != e.agent
  { s with coh := { s.coh with streams := e :: mine ++ others } }

/-- A detector entry ends. -/
def State.dropStream (s : State) (a k : Nat) : State :=
  { s with coh := { s.coh with streams := s.coh.streams.filter fun x => !(x.agent == a && x.slot == k) } }

/-- A slot for a new stream: a free one, or that of the least recently used entry. -/
def State.streamSlot (s : State) (a : Nat) : Nat :=
  let mine := s.coh.streams.filter fun x => x.agent == a
  match (List.range streamMax).find? fun k => !(mine.any fun x => x.slot == k) with
  | some k => k
  | none => (mine.getLast?.map (·.slot)).getD 0

/-- A drained store of the bytes `m` of a line as the detector sees it. -/
def State.trainStream (s : State) (h : HartId) (ln : Nat) (m : LineMask) : State :=
  let a := agentOf h
  if !(isT h) || !((s.pfctlOf a).getLsbD 4) then s else
  let now := (s.hart h).clock
  let fresh : Stream := { agent := a, slot := s.streamSlot a, cur := ln, mask := m, up := none, count := if fullMask m then 1 else 0, since := now }
  match s.coh.streams.find? fun e => e.agent == a && e.cur / 64 == ln / 64 with
  | none => s.putStream fresh
  | some e =>
    let inTime := decide (now ≤ e.since + 512)
    let done (s : State) (e : Stream) : State := if e.count = 4 then (s.putStream e).event h 0x19 1 else s.putStream e
    if ln = e.cur then
      if fullMask e.mask then s.putStream e else
      let m' := e.mask ||| m
      if fullMask m' then done s { e with mask := m', count := if inTime || e.count = 0 then e.count + 1 else 1, since := now }
      else s.putStream { e with mask := m' }
    else if e.isNext ln && fullMask e.mask && inTime then
      let e := { e with cur := ln, mask := m, up := some (decide (e.cur < ln)) }
      if fullMask m then done s { e with count := e.count + 1, since := now } else s.putStream e
    else s.putStream { fresh with slot := e.slot }

/-- STREAM_END_TIMEOUT: 512 core cycles without a store to the next line end a stream (R180). -/
def execStreamEndTimeout (h : HartId) (k : Fin 8) (s : State) : Res :=
  let a := agentOf h
  .next (match s.coh.streams.find? fun e => isT h && e.agent == a && e.slot == k.val with
  | some e => (s.dropStream a k.val).updHart h fun c => { c with clock := max c.clock (e.since + 512) }
  | none => s)

/-! ### Draining (R92, R114, R135) -/

/-- Whether a write of the instruction at place `seq` waits behind a fence for the acknowledgement of an older uncached write (R149, R151). -/
def Hart.writeWaits (c : Hart) (seq : Nat) : Bool := c.wfences.any fun f => decide (f < seq) && c.track.any fun w => decide (w.seq < f)

/-- The store at the head of the buffer without a piece; it leaves when none is left. -/
def Hart.popPart (c : Hart) (p : SbPart) : Hart :=
  match c.sb with
  | [] => c
  | e :: t => let ps := e.parts.erase p; { c with sb := if ps = [] then t else { e with parts := ps } :: t }

/-- What asking for a line held writable, with the bytes of `m` present where `read` needs them, finds: none when it is held, else the state in
which the request has been sent (R92, R94, R165). `claim` asks without data. -/
def State.own (s : State) (h : HartId) (ln : Nat) (m : LineMask) (claim : Bool) : Option State :=
  let a := agentOf h
  let l := s.l2 a ln
  if (s.mshr a ln).isSome then some s
  else if l.writable then (if l.mask &&& m = m then none else some (s.demand h ln .maskFill))
  else some (s.demand h ln (if claim then .lineClaim else if l.st = .i then .lineOwn else .linePromote))

/-- Writes bytes into a line held writable, with the token that a held line's first dirtying takes; with allowance and pool empty the line goes home at
once without a token (R135, R463, R464). Where the agent must wait for a token, or for its write-back buffer, there is no new state. `held` is HELD of the PMA
entry under which the access was checked (R38). -/
def State.dirty (s : State) (h : HartId) (la : Nat) (data : Line) (m : LineMask) (held : Bool) : Option State :=
  let a := agentOf h
  let ln := lineOf la
  match s.tokenFor a la (s.l2 a ln).dirtyLine held with
  | none => none
  | some (s, tok, keep) =>
    let s := s.writeLine h la data m tok
    some (if keep then s else ((s.evict a ln).countFallback).event h 0x1C 1)

/-- Bytes of a store's piece. -/
def SbEntry.bytesOf (e : SbEntry) (p : SbPart) : Nat := lineBytes e.data p.off p.size

/-- Drains a piece of a store to cacheable memory, once the line is held writable. CBO.ZERO and a confirmed stream ask for the line without data (R180, R187). -/
def State.drainCached (s : State) (h : HartId) (e : SbEntry) (p : SbPart) : State :=
  let la := paLa p.pa
  let ln := lineOf la
  let a := agentOf h
  let m := maskOf (la % 64) p.size
  if s.missFailed a ln then ((s.endMshr a ln).writeFail h p.pa 3 1).updHart h fun c => c.popPart p else
  match s.own h ln 0 (e.zero || (isT h && (s.l2 a ln).st == .i && s.claims a ln)) with
  | some s => s.trainL2 h ln true
  | none =>
    match s.dirty h la (atOffset (la % 64) (e.bytesOf p)) m p.held with
    | none => s
    | some s => (s.updHart h fun c => c.popPart p).trainStream h ln m

/-- Issues a piece of a store to an uncached target: it takes a tracker entry until its acknowledgement, or completes at once (R26, R145, R148). The request carries
EWA of the entry under which the store was checked (R38, R160). -/
def State.drainUncached (s : State) (h : HartId) (e : SbEntry) (p : SbPart) : State :=
  let pop (s : State) : State := s.updHart h fun c => c.popPart p
  match s.dest p.pa p.tmo true with
  | .done 0 => pop s
  | .done sts => pop (s.writeFail h p.pa sts 1)
  | .node nd rpkg limit =>
    match (if s.guarRoom h then (s.hart h).writeTag (isT h) else none) with
    | none => s
    | some tag =>
      let la := paLa p.pa
      let loc := s.isLocal p.pa
      let f := { ncFlit .writeNc (hartNode h) nd la tag rpkg (maskOf (la % 64) p.size) with
                 data := some (atOffset (la % 64) (e.bytesOf p)), ewa := loc && p.ewa, tmo := p.tmo }
      let w : UWrite := { tag := tag, pa := p.pa, size := p.size, stop := if loc then nodeStop nd else 1000 + paPkg p.pa, remote := !loc, ewa := loc && p.ewa,
                          deadline := s.time + limit, seq := e.seq }
      pop ((s.updHart h fun c => { c.useTag tag with track := c.track ++ [w] }).send (s.hartClass h f))

/-- Drains the piece `k` of the store at the head of the buffer; pieces have no order among themselves (R139). -/
def State.drainHead (s : State) (h : HartId) (k : Nat) : State :=
  match (s.hart h).sb with
  | [] => s
  | e :: _ =>
    if !e.retired || s.phase != .run || (s.hart h).writeWaits e.seq then s else
    match e.parts[k % e.parts.length]? with
    | none => s.updHart h fun c => { c with sb := c.sb.tail }
    | some p =>
      match p.region with
      | .tcm => (s.writeTcm h p.pa p.size (e.bytesOf p)).updHart h fun c => c.popPart p
      | .cached => s.drainCached h e p
      | _ => s.drainUncached h e p

/-- STORE_DRAIN: the oldest retired store drains, a piece at a time; on a T-core up to two stores in one cycle, so that two stores to one line are one write
(R92, R114, R139). -/
def execStoreDrain (d : Drain) (s : State) : Res :=
  let h := d.hart
  let u := s.drainHead h d.piece.val
  .next (if d.two && isT h && decide ((u.hart h).sb.length < (s.hart h).sb.length) then u.drainHead h d.piece.val else u)

/-! ### Atomics (R140, R530) -/

/-- funct5 of an AMO. -/
def amoFunct : AmoFn → Nat
  | .add => 0 | .swap => 1 | .xor => 4 | .cas => 5 | .or => 8 | .and => 12 | .min => 16 | .max => 20 | .minu => 24 | .maxu => 28
/-- An atomic as it is transformed; its aq and rl bits are no operands of the row and come from `ord` (R280). -/
def amoEnc (f5 n rd rs2 ord : Nat) : Nat := 0x2F + 2 ^ 7 * rd + 2 ^ 12 * sizeLog n + 2 ^ 20 * rs2 + 2 ^ 25 * (ord % 4) + 2 ^ 27 * f5
/-- The aq and rl bits of the atomic at pc: the memory that holds it is not read by the rows (a free value). -/
def State.aqRl (s : State) : Nat := (Config.freeWord s.free).toNat

/-- What an atomic of `n` bytes at `va` needs first: natural alignment (R140), and every older store drained (R94, R119). Loads that have been read ahead of it, and
whose line has left the L1 since, are read again (R91, R136; log entry 27). -/
def State.withAtomic (s : State) (h : HartId) (acc : Acc) (va : Word) (n f5 rd rs2 : Nat) (f : State → Part → State) : State :=
  if va.toNat % n ≠ 0 then s.trap h (excep (misaligned acc) va)
  else if (s.hart h).sb ≠ [] || (s.hart h).writeWaits (s.hart h).seq then s.waits h
  else s.withParts h .no acc va n n (amoEnc f5 n rd rs2 s.aqRl) fun s ps => match ps with | [p] => f (s.updHart h fun c => c.squashEarly (·.lost)) p | _ => s

/-- An atomic on a line held writable, or in the TCM: `f` gives from the old bytes the bytes to store, if any, and the hart's change (R94, R135,
R502, R530). -/
def State.atomicAt (s : State) (h : HartId) (p : Part) (va : Word) (n cost : Nat) (f : Nat → Option Nat × (Hart → Hart)) : State :=
  let la := paLa p.pa
  let fin (s : State) (g : Hart → Hart) : State := (s.updHart h g).retire h 4 cost
  if p.tgt.region = .tcm then
    match s.readTcm h p.pa n with
    | .value v s =>
      let (w, g) := f v
      fin (match w with | some x => s.writeTcm h p.pa n x | none => s) g
    | .tcmError s => s.trap h (excep 7 va)
    | _ => s
  else
    let ln := lineOf la
    if s.missFailed (agentOf h) ln then ((s.endMshr (agentOf h) ln).readFail h p.pa 3 false).trap h (excep 7 va) else
    match s.own h ln (maskOf (la % 64) n) false with
    | some s => s.waitsMiss h
    | none =>
      let l := s.l2 (agentOf h) ln
      if l.poison then (s.poisonUsed h p.pa 2).trap h (excep 7 va) else
      let (w, g) := f (lineBytes l.data (la % 64) n)
      match w with
      | none => fin s g
      | some x =>
        match s.dirty h la (atOffset (la % 64) x) (maskOf (la % 64) n) p.tgt.held with
        | none => s
        | some s => fin s g

/-- An atomic at the home slice of a C = 0 or remote address (R140); `edit` puts in the operands. -/
def State.atomicFar (s : State) (h : HartId) (p : Part) (dest : UDest) (edit : Flit → Flit) : State :=
  if !(s.guarRoom h) || (s.readTag h).isNone then s.waits h else
  let s := s.updHart h fun c => { c with uacc := 0 }
  let (s, sts) := s.issueRead h p dest 4 .atomicNc edit
  if sts ≠ 0 then (s.readFail h p.pa sts false).trap h (excep 7 p.va)
  else if (s.hart h).uload = [] then s.endUload h dest 4 else s

/-- Latency of an AMO, LR or SC (R81, R119). -/
def atomicCost (h : HartId) (p : Part) (t sTcm sElse : Nat) : Nat := if isT h then t else if p.tgt.region = .tcm then sTcm else sElse

/-- The operand of an AMO as the mesh carries it: at the access's own place in the line. -/
def amoEdit (fn : AmoFn) (n la v : Nat) (f : Flit) : Flit :=
  { f with fn := fn, size := n, data := some (atOffset (la % 64) (v % 2 ^ (8 * n))) }

/-- AMO: the old value to rd, the function's result to memory; an access fault in an I/O region (R140). -/
def execAmo (h : HartId) (fn : AmoFn) (size : AccSize) (rd rs2 rs1 : Fin 32) (s : State) : Res :=
  let n := accBytes size
  .next (s.onHart h 4 fun s =>
    let c := s.hart h
    let va := c.getX rs1.val
    let v := (c.getX rs2.val).toNat
    s.withAtomic h .store va n (amoFunct fn) rd.val rs2.val fun s p =>
      if p.tgt.io then s.trap h (excep 7 va)
      else if p.tgt.region.uncached then s.atomicFar h p (.amo rd.val n) (amoEdit fn n (paLa p.pa) v)
      else s.atomicAt h p va n (atomicCost h p 18 4 6) fun old =>
        (some (amoValue fn n old (v % 2 ^ (8 * n)) 0), fun c => c.setX rd.val (sext (8 * n) old)))

/-- LR: the value to rd, and a reservation on the 128-byte block with the exact address and size; snoops are deferred (R140, R141, R144). -/
def execLr (h : HartId) (size : AccSize) (rd rs1 : Fin 32) (s : State) : Res :=
  let n := accBytes size
  .next (s.onHart h 4 fun s =>
    let va := (s.hart h).getX rs1.val
    s.withAtomic h .load va n 2 rd.val 0 fun s p =>
      if p.tgt.io || p.tgt.region.uncached then s.trap h (excep 5 va) else
      let take (c : Hart) (v : Nat) : Hart :=
        { c.setX rd.val (sext (8 * n) v) with
          resv := some { block := paLa p.pa / 128, pa := p.pa, size := n, deferring := p.tgt.region == .cached } }
      if p.tgt.region = .tcm then
        (match s.readTcm h p.pa n with
        | .value v s => (s.updHart h fun c => take c v).retire h 4 (atomicCost h p 6 2 3)
        | .tcmError s => s.trap h (excep 5 va)
        | _ => s)
      else
        let la := paLa p.pa
        if s.missFailed (agentOf h) (lineOf la) then ((s.endMshr (agentOf h) (lineOf la)).readFail h p.pa 3 false).trap h (excep 5 va) else
        match s.own h (lineOf la) (maskOf (la % 64) n) false with
        | some s => s.waitsMiss h
        | none =>
          let l := s.l2 (agentOf h) (lineOf la)
          if l.poison then (s.poisonUsed h p.pa 0).trap h (excep 5 va)
          else (s.updHart h fun c => take c (lineBytes l.data (la % 64) n)).retire h 4 (atomicCost h p 6 2 3))

/-- SC: it succeeds only with a valid reservation of the same address and size; 0 or 1 to rd; the reservation is cleared either way (R142). -/
def execSc (h : HartId) (size : AccSize) (rd rs2 rs1 : Fin 32) (s : State) : Res :=
  let n := accBytes size
  .next (s.onHart h 4 fun s =>
    let c := s.hart h
    let va := c.getX rs1.val
    let v := (c.getX rs2.val).toNat % 2 ^ (8 * n)
    s.withAtomic h .store va n 3 rd.val rs2.val fun s p =>
      if p.tgt.io || p.tgt.region.uncached then s.trap h (excep 7 va) else
      if (s.hart h).resv.any fun r => r.pa == p.pa && r.size == n then
        s.atomicAt h p va n (atomicCost h p 14 3 4) fun _ => (some v, fun c => { c.setX rd.val 0 with resv := none })
      else
        let s := if isT h then s.event h 0x18 1 else s
        (s.updHart h fun c => { c.setX rd.val 1 with resv := none }).retire h 4 (atomicCost h p 14 3 4))

/-- Value of a register, or of an even pair for 16 bytes; x0 and its pair read as 0. -/
def Hart.pairX (c : Hart) (r bytes : Nat) : Nat :=
  if bytes ≤ 8 then (c.getX r).toNat % 2 ^ (8 * bytes)
  else if r = 0 then 0 else (c.getX r).toNat + (c.getX (r + 1)).toNat * 2 ^ 64

/-- Writes the old value of a compare-and-swap. -/
def Hart.setPair (c : Hart) (r bytes v : Nat) : Hart :=
  if bytes ≤ 8 then c.setX r (sext (8 * bytes) v)
  else if r = 0 then c else (c.setX r (BitVec.ofNat 64 v)).setX (r + 1) (BitVec.ofNat 64 (v / 2 ^ 64))

/-- AMOCAS: a comparison that fails stores nothing and takes no token (R140, R530). -/
def execAmocas (h : HartId) (bytes : Nat) (rd rs2 rs1 : Fin 32) (s : State) : Res :=
  .next (s.onHart h 4 fun s =>
    let c := s.hart h
    let va := c.getX rs1.val
    let cmp := c.pairX rd.val bytes
    let v := c.pairX rs2.val bytes
    if !(isT h) || (bytes = 16 && (rd.val % 2 = 1 || rs2.val % 2 = 1)) then s.illegal h false else
    s.withAtomic h .store va bytes 5 rd.val rs2.val fun s p =>
      if p.tgt.io || (bytes = 16 && p.tgt.region.uncached) then s.trap h (excep 7 va)
      else if p.tgt.region.uncached then
        let o := paLa p.pa % 64
        s.atomicFar h p (.amo rd.val bytes) fun f =>
          { f with fn := .cas, size := bytes, data := some (atOffset o v ||| atOffset (casOffset o) cmp) }
      else s.atomicAt h p va bytes (if bytes = 16 then 20 else 18) fun old =>
        (if old = cmp then some v else none, fun c => c.setPair rd.val bytes old))

/-- LR_DEFERRAL_EXPIRY: 128 core cycles, or 64 on an S-core, after the LR: deferred snoops are served (R144). -/
def execLrDeferralExpiry (h : HartId) (s : State) : Res :=
  .next (s.updHart h fun c => { c with resv := c.resv.map fun r => { r with deferring := false } })

/-! ### Pair accesses (R48 to R50) -/

/-- The two 8-byte halves of a pair's parts, for a target that serves them apart. -/
def halves (ps : List Part) : List Part :=
  ps.flatMap fun p =>
    if p.off < 8 ∧ 8 < p.off + p.size then
      [{ p with size := 8 - p.off }, { p with va := p.va + BitVec.ofNat 64 (8 - p.off), pa := p.pa + (8 - p.off), size := p.off + p.size - 8, off := 8 }]
    else [p]

/-- XPLD: 16 bytes into rd and rd + 1; every byte is checked before either half is read (R48 to R50). -/
def execXpld (h : HartId) (rd rs1 : Fin 32) (imm : BitVec 12) (s : State) : Res :=
  .next (s.onHart h 4 fun s =>
    if rd.val % 2 = 1 || rd = 0 then s.illegal h false else
    let va := (s.hart h).getX rs1.val + imm.signExtend 64
    s.withParts h .no .load va 16 8 0 fun s ps =>
      if ps.any fun p => p.tgt.region.uncached then s.startRead h (.pair rd.val) 4 (halves ps)
      else s.loadParts h va (.pair rd.val) 4 ps)

/-- XPST: rs2 and rs2 + 1 to 16 bytes; rs2 = x0 stores zeros (R48 to R50). -/
def execXpst (h : HartId) (rs2 rs1 : Fin 32) (imm : BitVec 12) (s : State) : Res :=
  .next (s.onHart h 4 fun s =>
    if rs2.val % 2 = 1 then s.illegal h false else
    let c := s.hart h
    let va := c.getX rs1.val + imm.signExtend 64
    let v := c.pairX rs2.val 16
    s.withParts h .no .store va 16 8 0 fun s ps =>
      -- one entry for a pair in cacheable memory (R92); an uncached pair is sent as its two halves
      s.storeParts h v 4 false (if ps.any fun p => p.tgt.region.uncached then halves ps else ps))

end Sys2Proof.Machine
end

