-- ==== Sys2Proof/Machine/Order.lean ====
section
/-!
DEFINITION. Fences (R56, R96, R111, R134, R149 to R152), cache maintenance (R54, R55, R187, R188), prefetch hints (R183, R186), and how a hart's
uncached accesses end (R145, R153 to R155, R308).
-/
namespace Sys2Proof.Machine

/-! ### Fences -/

/-- Whether what a fence waits for has come: every older store drained and every write acknowledged; without `cached` the cacheable stores are left out; with
`posted` the writes to EWA = 1 stops once issued (R56, R149). Loads have their data when they retire. -/
def Hart.fenceReady (c : Hart) (w : FenceWait) : Bool :=
  !w.writes || ((c.sb.all fun e => !w.cached && !e.uncached) && (c.track.all fun x => w.posted && x.ewa))

/-- A fence ends: loads that were read ahead of a fence that orders reads after it, and whose line has left the L1 since, are read again (R149). A fence that a
read may not pass squashes every one. -/
def Hart.fencePassed (c : Hart) (w : FenceWait) : Hart := if !w.reads then c else if w.writes then c.dropEarly else c.squashEarly (·.lost)

/-- Cacheable stores in the buffer. -/
def Hart.cachedStores (c : Hart) : Nat := (c.sb.filter fun e => !e.uncached).length

/-- A fence of `len` 4 retires when it has nothing to wait for. On a T-core one that orders no read after older writes retires too, and younger writes wait
(R149, R151); otherwise it holds up issue until the wait ends (R149, R150, R152). -/
def State.fenceOr (s : State) (h : HartId) (w : FenceWait) : State :=
  let c := s.hart h
  if c.fenceReady w then (s.setHart h (c.fencePassed w)).retire h 4 w.cost
  else if isT h && !w.cached then (s.setHart h { c.fencePassed { w with writes := false } with wfences := c.wfences ++ [c.seq] }).retire h 4 w.cost
  else s.setHart h { c with fence := some { w with cost := if isT h then w.cost + (c.cachedStores + 1) / 2 else max w.cost c.cachedStores } }

/-- FENCE: I and R are one set, and O and W are one set; a predecessor set of W alone with no R after it leaves cacheable stores out (R134, R149,
R151, R152). -/
def execFence (h : HartId) (pred succ : FSet) (s : State) : Res :=
  .next (s.onHart h 4 fun s =>
    let w := pred.o || pred.w
    let r := succ.i || succ.r
    s.fenceOr h { writes := w, cached := pred.i || pred.r || r, posted := false, reads := r, cost := if isT h then (if w && r then 3 else 1) else 2 })

/-- FENCE_TSO: R before RW, and W before W (R149). -/
def execFenceTso (h : HartId) (s : State) : Res :=
  .next (s.onHart h 4 fun s =>
    let s := if isT h then s.updHart h fun c => c.squashEarly (·.lost) else s
    s.fenceOr h { writes := true, cached := false, posted := false, reads := false, cost := if isT h then 1 else 2 })

/-- XFENCE_P: as FENCE RW,RW, but a write to an EWA = 1 region only has to have been issued (R56). -/
def execXfenceP (h : HartId) (s : State) : Res :=
  .next (s.onHart h 4 fun s => s.fenceOr h { writes := true, cached := true, posted := true, reads := true, cost := if isT h then 3 else 2 })

/-- FENCE_WAIT_END: the wait of a fence ends and the fence retires (R149, R151, R152). -/
def execFenceWaitEnd (h : HartId) (s : State) : Res :=
  let c := s.hart h
  .next (match c.fence with
  | some w =>
    if c.fenceReady w && s.phase == .run && !c.stopped && !c.halted && !c.held && !c.fatal
    then (s.setHart h { c.fencePassed w with fence := none }).retire h 4 w.cost else s
  | none => s)

/-- FENCE_I: once every older store has drained, later fetches see it; 13 cycles on a T-core, 3 on an S-core (R96, R111). -/
def execFenceI (h : HartId) (s : State) : Res :=
  .next (s.onHart h 4 fun s => if (s.hart h).sb ≠ [] then s.waits h else (s.updHart h Hart.dropEarly).retire h 4 (1 + (if isT h then 13 else 3)))

/-! ### Cache-block operations (R187, R188) -/

/-- What envcfg leaves of a cache-block operation in the hart's mode; for CBO.INVAL also whether it acts as a flush. -/
inductive CboOk where
  | ok | flush | illegal | virt
  deriving DecidableEq, Repr

/-- CBCFE (bit 6) or CBZE (bit 7) of the envcfg registers above the mode. -/
def Hart.cboBit (t : Bool) (c : Hart) (b : Nat) : CboOk :=
  let m := c.csrBit 0x30A b
  let sv := c.csrBit 0x10A b
  let hv := c.csrBit 0x60A b
  match c.mode with
  | .m => .ok
  | .hs => if m then .ok else .illegal
  | .u => if m && (!t || sv) then .ok else .illegal
  | .vs => if !m then .illegal else if hv then .ok else .virt
  | .vu => if !m then .illegal else if hv && sv then .ok else .virt

/-- CBIE (bits 5:4): 0b01 flush, 0b11 invalidate; M-mode always invalidates (R187). -/
def Hart.cboInval (t : Bool) (c : Hart) : CboOk :=
  let m := fld (c.csrRaw 0x30A) 5 4
  let sv := fld (c.csrRaw 0x10A) 5 4
  let hv := fld (c.csrRaw 0x60A) 5 4
  match c.mode with
  | .m => .ok
  | .hs => if m = 0 then .illegal else if m = 3 then .ok else .flush
  | .u => if m = 0 ∨ (t ∧ sv = 0) then .illegal else if m = 3 ∧ (!t ∨ sv = 3) then .ok else .flush
  | .vs => if m = 0 then .illegal else if hv = 0 then .virt else if m = 3 ∧ hv = 3 then .ok else .flush
  | .vu => if m = 0 then .illegal else if hv = 0 ∨ sv = 0 then .virt else if m = 3 ∧ hv = 3 ∧ sv = 3 then .ok else .flush

/-- The store form of an access's fault. -/
def storeForm (cause : Nat) : Nat := match cause with | 5 => 7 | 13 => 15 | 21 => 23 | n => n
/-- A cache-block operation as it is transformed (R280). -/
def cboEnc (op : Nat) : Nat := 0x200F + 2 ^ 20 * op

/-- CBO.CLEAN, CBO.FLUSH and CBO.INVAL after their checks: they need a load or a store permission, and every store permission comes with a load permission;
they set no D bit (R277), and act on local cacheable memory alone (R187). -/
def State.cboLine (s : State) (h : HartId) (rs1 : Fin 32) (op : MsgOp) : State :=
  if (s.hart h).sb ≠ [] then s.waits h else
  let va := (s.hart h).getX rs1.val
  let blk := va &&& ~~~63
  let go (s : State) (ps : List Part) : State :=
    match ps with
    | [p] =>
      if p.tgt.region ≠ .cached then s.retire h 4 1 else
      let ln := lineOf (paLa p.pa)
      if s.canClean h ln op then (s.sendClean h ln op).updHart h fun c => c.waitLine ln 4 1024 none else s.waits h
    | _ => s
  match s.addrTrig h 1 va with
  | some t => s.trap h t
  | none =>
  match s.prep h .no .load blk 64 1 with
  | .parts ps => go s ps
  | .walk w => s.tlbMiss h w
  | .trap t => s.trap h ({ t with cause := storeForm t.cause, tval := va }.withInst (cboEnc (match op with | .cleanKeep => 1 | .cleanDrop => 2 | _ => 0)) va)

/-- Runs a cache-block operation where envcfg permits it. -/
def State.cbo (s : State) (h : HartId) (ok : CboOk) (f : Bool → State → State) : State :=
  match ok with | .ok => f false s | .flush => f true s | .illegal => s.illegal h false | .virt => s.illegal h true

/-- CBO_CLEAN (R187). -/
def execCboClean (h : HartId) (rs1 : Fin 32) (s : State) : Res :=
  .next (s.onHart h 4 fun s => s.cbo h ((s.hart h).cboBit (isT h) 6) fun _ s => s.cboLine h rs1 .cleanKeep)

/-- CBO_FLUSH (R187). -/
def execCboFlush (h : HartId) (rs1 : Fin 32) (s : State) : Res :=
  .next (s.onHart h 4 fun s => s.cbo h ((s.hart h).cboBit (isT h) 6) fun _ s => s.cboLine h rs1 .cleanDrop)

/-- CBO_INVAL: DiscardLine with CBIE = 0b11 in effect, as CBO.FLUSH with 0b01 (R187). -/
def execCboInval (h : HartId) (rs1 : Fin 32) (s : State) : Res :=
  .next (s.onHart h 4 fun s => s.cbo h ((s.hart h).cboInval (isT h)) fun flush s => s.cboLine h rs1 (if flush then .cleanDrop else .discardLine))

/-- CBO_ZERO: a store of 64 zero bytes; in an I/O region a store access fault; on the T-core alone (R41, R187, R188). -/
def execCboZero (h : HartId) (rs1 : Fin 32) (s : State) : Res :=
  .next (s.onHart h 4 fun s =>
    if !(isT h) then s.illegal h false else
    s.cbo h ((s.hart h).cboBit true 7) fun _ s =>
      if (s.hart h).sb ≠ [] then s else
      let va := (s.hart h).getX rs1.val
      match s.addrTrig h 1 va with
      | some t => s.trap h t
      | none =>
      match s.prep h .no .store (va &&& ~~~63) 64 1 with
      | .trap t => s.trap h ({ t with tval := va }.withInst (cboEnc 4) va)
      | .walk w => s.tlbMiss h w
      | .parts ps => if ps.any fun p => p.tgt.io then s.trap h (excep 7 va) else s.storeParts h 0 4 true ps)

/-- Whether the translation of a mapped address and its PMP permit a write: PREFETCH.W needs it, and sets no D bit (R277). -/
def State.prefetchW (s : State) (h : HartId) (va : Word) (pa : Nat) : Bool :=
  let c := s.hart h
  let eff := c.effMode true .no
  (s.target h (modePrv eff) pa 1 .store).isSome && (match c.leafIn c.dtlb va .load eff false with | some e => e.w | none => true)

/-- PREFETCH_HINT: PREFETCH.R, W and I fetch the line of a permitted address in local cacheable memory; they raise no exception, and with
SL_PFCTL.HINTS = 0, or on the S-core, they are no-ops (R41, R183, R186). One waits for a tag, and is never dropped (R184). -/
def execPrefetchHint (h : HartId) (k : PfKind) (rs1 : Fin 32) (imm : BitVec 12) (s : State) : Res :=
  .next (s.onHart h 4 fun s =>
    let a := agentOf h
    if !(isT h) || !((s.pfctlOf a).getLsbD 0) then s.retire h 4 1 else
    let va := (s.hart h).getX rs1.val + imm.signExtend 64
    let acc : Acc := match k with | .i => .fetch | _ => .load
    match s.prep h .no acc va 1 1 with
    | .walk w => s.tlbMiss h w
    | .trap _ => (s.updHart h fun c => { c with wfaults := c.wfaults.filter fun f => f.va != va }).retire h 4 1
    | .parts ps =>
      match ps with
      | [p] =>
        let ln := lineOf (paLa p.pa)
        if p.tgt.region == Region.cached && (s.l2 a ln).st == Moesi.i && (s.mshr a ln).isNone && s.prefetchable ln && (k != PfKind.w || s.prefetchW h va p.pa)
        then
          let s := s.request a ln (if k = PfKind.w then MsgOp.lineOwn else MsgOp.lineRead) none
          if (s.mshr a ln).isSome then s.retire h 4 1 else s.waits h
        else s.retire h 4 1
      | _ => s.retire h 4 1)

/-! ### Way and drain operations (R54, R55) -/

/-- Whether a line belongs to the hart's own caches: its L2, or the shared-level lines that record its core (R55, R104). -/
def ownLine (h : HartId) (l : CLine) : Bool := match h with | .t _ => true | .s n => l.owner == n.val % 4

/-- The legality of the way operations: M and HS on the T-core, illegal on the S-core in every mode; XBR.DRAIN also in M on the S-core (R47). -/
def xwayLegal (h : HartId) (c : Hart) (onS : Bool) : CsrAccess :=
  match c.mode with
  | .m => if isT h || onS then .ok else .illegal
  | .hs => if isT h then .ok else .illegal
  | .u => .illegal
  | _ => .virt

/-- Writes back every dirty line that `p` picks, as of issue, and waits for the home slices; with none the instruction retires (R54, R55). -/
def State.drainLines (s : State) (h : HartId) (p : Nat → CLine → Bool) (kind : Nat) : State :=
  let a := agentOf h
  let ls := ((s.agentLines a).filter fun (ln, l) => l.dirtyLine && p ln l).map Prod.fst
  if ls = [] then s.retire h 4 1
  else if ls.any fun ln => (s.mshr a ln).isSome || s.returning a ln then s
  else
    (ls.foldl (fun s ln =>
      s.updHart h fun c => c.waitLine ln 4 kind (some (mkFlit .cleanKeep (agentNode a) (sliceNode (homeSlice (64 * ln))) (64 * ln)))) s).pump h

/-- XWAY_CLEAN: way rs1[3:0] of the hart's own L2; the lines stay valid and clean (R54). -/
def execXwayClean (h : HartId) (rs1 : Fin 32) (s : State) : Res :=
  .next (s.onHart h 4 fun s =>
    let c := s.hart h
    let w := (c.getX rs1.val).toNat % 16
    s.legally h (xwayLegal h c false) fun s => if c.sb ≠ [] then s else s.drainLines h (fun _ l => l.way.val == w) 1025)

/-- XWAY_CINV: as XWAY_CLEAN, then every line of the way leaves the L2 when the last write-back has been acknowledged (R54). Other cores' caches are not touched. -/
def execXwayCinv (h : HartId) (rs1 : Fin 32) (s : State) : Res :=
  .next (s.onHart h 4 fun s =>
    let c := s.hart h
    let w := (c.getX rs1.val).toNat % 16
    s.legally h (xwayLegal h c false) fun s =>
      if c.sb ≠ [] then s else
      let a := agentOf h
      let ls := (s.agentLines a).filter fun (_, l) => l.way.val == w
      if ls.any fun (_, l) => l.dirtyLine then s.drainLines h (fun _ l => l.way.val == w) (1026 + w)
      else (s.emptyWay a w).retire h 4 1)

/-- XBR_DRAIN: every dirty line of a region with HELD = 1 in the hart's own caches; the lines stay valid and clean (R55). -/
def execXbrDrain (h : HartId) (s : State) : Res :=
  .next (s.onHart h 4 fun s =>
    s.legally h (xwayLegal h (s.hart h) true) fun s =>
      if (s.hart h).sb ≠ [] then s else s.drainLines h (fun ln l => s.heldAt (64 * ln) && ownLine h l) 1025)

/-! ### How a hart's uncached accesses end (R145, R147, R153, R154, R308) -/

/-- The stop that an uncached piece of a buffered store is for. -/
def State.sbStop (s : State) (p : SbPart) : Nat :=
  if !p.region.uncached then 2000 else
  match s.dest p.pa p.tmo true with
  | .node n _ _ => if s.isLocal p.pa then nodeStop n else 1000 + paPkg p.pa
  | .done _ => 2000
/-- The store buffer without the pieces that are for a stop, and without the stores that have none left. -/
def State.sbWithout (s : State) (stop : Nat) (sb : List SbEntry) : List SbEntry :=
  (sb.map fun e => { e with parts := e.parts.filter fun p => s.sbStop p != stop }).filter fun e => e.parts != []

/-- LATE_RESPONSE: a response whose timer has expired is discarded and counted (R153). -/
def State.lateResponse (s : State) (n : Node) (pa : Nat) : State :=
  s.logErr { mkErr 0x09 0 (nodeStop n) false with sub := n.sub.val, pa := some pa, req := some (s.pma.pkgId.toNat, n, 0) }

/-- A write of the hart has timed out: it and every other write to that stop, in the tracker or in the store buffer, complete with the error, under
one record (R153, R154). A remote write that had passed the local link is REMOTE_LOST (R159). -/
def State.writeTimeout (s : State) (h : HartId) (w : UWrite) : State :=
  let c := s.hart h
  let same := c.track.filter fun x => x.stop == w.stop
  let buf := c.sb.filter fun e => e.parts.any fun p => s.sbStop p == w.stop
  let passed := w.remote && s.graop.tags.any fun t => t.node == hartNode h && t.tag.toNat == w.tag &&
    !((tabGet Link.reset s.graop.links t.link).queue.any fun p => p.gtag.val == t.idx && p.glink.val == t.link)
  let late := same.map fun x => { tag := x.tag, pa := x.pa : LateTag }
  let s := s.setHart h { c with track := c.track.filter (fun x => x.stop != w.stop), sb := s.sbWithout w.stop c.sb, late := c.late ++ late }
  let n := same.length + buf.length
  if passed then s.logErr { mkErr 0x0B 3 (hartStop h) true with
      sub := (hartNode h).sub.val, pa := some w.pa, req := some (s.pma.pkgId.toNat, hartNode h, w.tag), detail := paPkg w.pa, count := n }
  else s.writeFail h w.pa 0xFF n

/-- A walker's request ends: its walk, where it still waits, has the answer (R273, R275). -/
def Hart.pteAnswer (c : Hart) (r : WalkReq) (a : PteAns) : Hart :=
  { c with wreqs := c.wreqs.erase r, walks := c.walks.map fun w => if w.id = r.walk ∧ w.ptea = r.pa then { w with got := some a } else w }

/-- The timer of a hart's uncached access expires (R153). -/
def State.hartTimeout (s : State) (h : HartId) (tag : Nat) : State :=
  let c := s.hart h
  match c.track.find? fun w => w.tag == tag with
  | some w => (s.passTo w.deadline).writeTimeout h w
  | none =>
    match c.uload.find? fun u => u.tag == tag && u.wait.isNone && u.dest != .maint with
    | some u =>
      let s := (s.passTo u.deadline).updHart h fun c => { c with late := c.late ++ [{ tag := u.tag, pa := u.pa }] }
      s.endPart h u 0xFF true false 0
    | none =>
      match c.wreqs.find? fun r => r.tag == tag with
      | some r => (s.passTo r.deadline).updHart h fun c => { c.pteAnswer r { value := 0, poison := false, err := true } with late := c.late ++ [{ tag := r.tag, pa := r.pa }] }
      | none => s

/-- An acknowledgement or error answers a hart's uncached write or read (R145, R147, R308). `sts` 0 with data completes a read. The response to an access whose timer
has expired is discarded and counted (R153). -/
def State.hartAnswer (s : State) (h : HartId) (f : Flit) : State :=
  let c := s.hart h
  let tag := f.tag.toNat
  match c.late.find? fun x => x.tag == tag && paLa x.pa == f.addr.toNat with
  | some x => (s.setHart h { c with late := c.late.erase x }).lateResponse f.dst f.addr.toNat
  | none =>
  match c.track.find? fun w => w.tag == tag with
  | some w =>
    let s := s.setHart h { c with track := c.track.erase w }
    if f.sts = 0 then s else s.writeFail h w.pa f.sts.toNat 1
  | none =>
    match c.uload.find? fun u => u.tag == tag && u.dest != .maint with
    | some u => s.endPart h u f.sts.toNat false f.poison (f.data.getD 0)
    | none =>
      match c.wreqs.find? fun r => r.tag == tag with
      | some r => s.setHart h (c.pteAnswer r { value := lineBytes (f.data.getD 0) (r.pa % 64) 8, poison := f.poison || f.sts == 4, err := f.sts != 0 && f.sts != 4 })
      | none => s.lateResponse f.dst f.addr.toNat

/-- EWA_ENDPOINT_FAILURE: a stop that acknowledged a write early finds that the endpoint has failed it, or has not responded within TMO (`sts` 0xFF): a record that
names the requester, and the RAS interrupt (R155). -/
def execEwaEndpointFailure (stop : Node) (req : Node) (a : Pa) (sts : BitVec 8) (s : State) : Res :=
  .next (match s.mesh.ewa.find? fun e => e.stop == stop && e.req == req && e.la == paLa a.toNat with
  | none => s
  | some e => (if sts = 0xFF then s.passTo e.deadline else s).ewaFail e sts.toNat)

end Sys2Proof.Machine
end

