-- ==== Sys2Proof/Machine/Graop.lean ====
section
/-!
DEFINITION. The Graop fabric (R298 to R338): frames and retry, credits, packets in transit and at their home, routes, time
synchronisation, and failure of links. A command gives what arrives on a link; what the link sends is in its retry buffer.
-/
namespace Sys2Proof.Machine

def State.link (s : State) (l : Nat) : Link := tabGet .reset s.graop.links l
def State.setLink (s : State) (l : Nat) (v : Link) : State := { s with graop := { s.graop with links := tabSet .reset s.graop.links l v } }
def State.updLink (s : State) (l : Nat) (f : Link → Link) : State := s.setLink l (f (s.link l))
def State.route (s : State) (p : Nat) : Route := tabGet Route.none s.graop.routes p
def State.setRoute (s : State) (p : Nat) (r : Route) : State := { s with graop := { s.graop with routes := tabSet Route.none s.graop.routes p r } }
def State.ownPkg (s : State) : Nat := s.pma.pkgId.toNat

/-- LINK record of a link stop: frames or packets lost (R499). -/
def State.linkErr (s : State) (l lost : Nat) : State := s.logErr { mkErr 0x0C 3 (linkStop l) true with detail := l + lost % 65536 * 65536 }

/-! ### Starting the host stub (R520 step 6, R521) -/

/-- T-core hart 0 is released at RVEC and runs the ROM stub; the boot record gets the stub's start time. -/
def State.startStub (s : State) : State :=
  let s := { s with mem := { s.mem with sram := memWrite s.mem.sram 32 8 s.time }, phase := .run }
  s.updHart (.t 0) fun c => { c with held := false, pc := c.rvec }

/-- The package IDs that the fabric record names (R315). -/
def State.fabricIds (s : State) : List Nat :=
  match s.plat.topo with
  | .single => []
  | .ring => List.range s.plat.npkg
  | _ => (List.range s.plat.npkg).map (s.plat.bpkg + ·)

/-- Whether every package that the record names is reachable (R317). -/
def State.bringupDone (s : State) : Bool := (s.fabricIds.filter fun p => p != s.ownPkg).all fun p => (s.route p).v

/-- Whether every channel has been trained; the host does not start with fewer than 48 (R246). -/
def State.allTrained (s : State) : Bool := (List.range 48).all fun ch => (s.chan ch).st != .untrained && (s.chan ch).st != .training
/-- Whether Rennet may start the host: it runs, the package waits in the boot flow, and the memory mapping is set (R230, R520). -/
def State.mayStart (s : State) : Bool := s.phase == .boot && s.ren.up && s.dram.map.getLsbD 31 && s.allTrained
/-- Fabric bring-up ends when every route is known; the boot flow goes on (R317, R520). -/
def State.maybeStart (s : State) : State := if s.mayStart && s.bringupDone then s.startStub else s

/-! ### Routes (R319 to R321) -/

/-- The group whose links lead to a neighbour. -/
def State.groupOf (s : State) (nbr : Nat) : Option (Fin 8) :=
  s.plat.linkGroup.findSome? fun (_, g) => match g with | some (g, n) => if n.val = nbr then some g else none | none => none

/-- The group that R321 selects toward a package. -/
def State.wayTo (s : State) (t : Nat) : Option (Fin 8) :=
  let p := s.ownPkg
  let n := s.plat.npkg
  match s.plat.topo with
  | .single => none
  | .chain => s.groupOf (if p < t then p + 1 else p - 1)
  | .ring => s.groupOf (if (t + n - p) % n ≤ n / 2 then (p + 1) % n else (p + n - 1) % n)
  | .tree => match s.plat.children.find? fun c => decide (c.2.1 ≤ t) && decide (t ≤ c.2.2) with | some c => some c.1 | none => s.plat.parent

/-- Notice 0x0006 when entries have changed (R440). -/
def State.routesChanged (s : State) (n : Nat) : State := if n = 0 then s else s.notice 6 n

/-- Units of an advertisement laid out in a packet's data, and back (R321). -/
def unitWord (u : RouteUnit) : Nat := u.first.val + u.last.val * 2 ^ 16 + u.hops.val * 2 ^ 32
def unitsData (us : List RouteUnit) : Line := BitVec.ofNat 512 (us.foldr (fun u acc => unitWord u + acc * 2 ^ 64) 0)

/-- A management packet to the neighbour on link `l` (R307, R309). -/
def State.mgtPkt (s : State) (l : Nat) (op : PktOp) (us : List RouteUnit) : Pkt :=
  { op := op, dpkg := Fin.ofNat 512 (s.link l).nbr.toNat, spkg := Fin.ofNat 512 s.ownPkg, vc := 6, poison := false, glink := 0, gtag := 0, sts := 0, size := 0, hop := 0,
    addr := 0, data := unitsData us, mask := 0, fn := .swap }

/-- Puts a packet in a link's queue. -/
def State.enqueue (s : State) (l : Nat) (p : Pkt) : State := s.updLink l fun k => { k with queue := k.queue ++ [p] }

/-- Splits a list into packets of at most 8 units. -/
def unitPackets (us : List RouteUnit) : Nat → List (List RouteUnit)
  | 0 => []
  | n + 1 => if us = [] then [] else us.take 8 :: unitPackets (us.drop 8) n

/-- Sends units to every neighbour but those of group `skip`, on the lowest link of each group. -/
def State.tellNeighbours (s : State) (op : PktOp) (us : List RouteUnit) (skip : Option (Fin 8)) : State :=
  if us = [] then s else
  (List.finRange 8).foldl (fun s g =>
    if skip = some g then s else
    match (s.groupLinks g)[0]? with
    | some l => (unitPackets us 64).foldl (fun s u => s.enqueue l (s.mgtPkt l op u)) s
    | none => s) s

/-- What this package reaches: itself, and every valid route. -/
def State.reach (s : State) : List RouteUnit :=
  { first := Fin.ofNat 512 s.ownPkg, last := Fin.ofNat 512 s.ownPkg, hops := 0 } ::
    (s.graop.routes.filterMap fun (p, r) => if r.v then some { first := Fin.ofNat 512 p, last := Fin.ofNat 512 p, hops := Fin.ofNat 512 r.hops } else none)

/-- Advertises the routes to the neighbours (R321). -/
def State.advertise (s : State) (skip : Option (Fin 8)) : State := s.tellNeighbours .routeAdv s.reach skip

/-- The time root and the sync parent: the neighbour on member 0 of the route toward the lowest reachable ID (R328). Notice 0x000B on its loss. -/
def State.chooseParent (s : State) : State :=
  let root := s.graop.routes.foldl (fun m (p, r) => if r.v then min m p else m) s.ownPkg
  let old := (List.range 8).find? fun l => (s.link l).syncpar
  let par := if root = s.ownPkg then none else (s.groupLinks (s.route root).group)[0]?
  let s := (List.range 8).foldl (fun s l => s.updLink l fun k => { k with syncpar := par == some l }) s
  let s := match old with | some l => if par = some l then s else s.notice 0x0B l | none => s
  let st : TimeState := if root = s.ownPkg then .root else if par.isNone then .holding else if par = old then s.graop.timeState else .slewing
  { s with graop := { s.graop with root := root, rootHops := if root = s.ownPkg then 0 else (s.route root).hops, timeState := st } }

/-! ### Packets to a queue (R309, R311, R320, R322, R323) -/

/-- Set B of a virtual channel. -/
def setB (vc : Fin 8) : Fin 8 := if vc.val < 3 then Fin.ofNat 8 (vc.val + 3) else vc

/-- Sends a packet along the route to its destination, in set B from the dateline on; none when the route is invalid (R320, R321). -/
def State.forward (s : State) (p : Pkt) : Option State :=
  let r := s.route p.dpkg.val
  if !r.v then none else
  match s.memberLink r.group p.addr.toNat with
  | none => none
  | some l => some (s.enqueue l { p with vc := if (s.link l).dateline then setB p.vc else p.vc })

def isReq (op : PktOp) : Bool := match op with | .rdNc | .wrNc | .atomNc | .blkRd | .blkWr => true | _ => false

/-- The error response to a request (R308). -/
def State.errPkt (s : State) (p : Pkt) (sts : Nat) : Pkt :=
  { p with op := .errResp, dpkg := p.spkg, spkg := Fin.ofNat 512 s.ownPkg, vc := 2, poison := false, sts := BitVec.ofNat 8 sts, hop := 0, data := 0, mask := 0 }

/-! ### Responses at the requester's package (R308, R323, R332) -/

/-- Who sent a request through a link stop. -/
def State.tagEntry (s : State) (glink gtag : Nat) : Option TagEntry := s.graop.tags.find? fun t => t.link == glink && t.idx == gtag

/-- The mesh flit that ends a remote operation at its requester. -/
def respFlit (t : TagEntry) (p : Pkt) : Flit :=
  let op : MsgOp := match p.op with | .rdData | .atomData => .readReturn | .wrAck => .writeDone | _ => .errorReply
  let f : Flit := { mkFlit op (linkNode t.link) t.node p.addr.toNat with
    tag := t.tag, rpkg := Fin.ofNat 512 t.dpkg, poison := p.poison, sts := p.sts, mask := p.mask, size := p.size }
  match op with | .readReturn => { f with data := some p.data } | _ => f

/-- A response reaches its requester's package: the owning link stop frees the entry and answers; without an entry it is discarded and counted
(R323, R332). -/
def State.homeward (s : State) (l : Nat) (p : Pkt) : State :=
  match s.tagEntry p.glink.val p.gtag.val with
  | some t =>
    let s := { s with graop := { s.graop with tags := s.graop.tags.erase t } }
    let f := respFlit t p
    s.send (if p.sts = 4 then { f with poison := true } else f)
  | none => s.lateResponse (linkNode l) (p.spkg.val * 2 ^ 47 + p.addr.toNat)

/-- A request whose route is invalid is answered with STS 5 toward its source; a response is discarded (R331). -/
def State.noRoute (s : State) (l : Nat) (p : Pkt) : State :=
  if !(isReq p.op) then s
  else if p.spkg.val = s.ownPkg then s.homeward l (s.errPkt p 5)
  else (s.forward (s.errPkt p 5)).getD s

/-- Changes of the route table after a group has lost its last link: in a ring the routes move to the other group, else they become invalid and are
withdrawn; queued packets go on by their new routes (R331). -/
def State.reroute (s : State) (l : Nat) (g : Fin 8) : State :=
  let s1 :=
    if s.groupLinks g ≠ [] then s else
    let lost := s.graop.routes.filter fun (_, r) => r.v && r.group == g
    let other : Option (Fin 8) := match s.plat.topo with
      | .ring => (List.finRange 8).find? fun x => x != g && s.groupLinks x != []
      | _ => none
    let s := lost.foldl (fun s (p, r) => s.setRoute p (match other with
      | some o => { v := true, group := o, hops := s.plat.npkg - r.hops }
      | none => Route.none)) s
    let s := s.routesChanged lost.length
    match other with
    | some _ => s.advertise (some g)
    | none => s.tellNeighbours .routeWithdraw (lost.map fun (p, _) => { first := Fin.ofNat 512 p, last := Fin.ofNat 512 p, hops := 0 }) (some g)
  let q := (s1.link l).queue
  let s2 := s1.updLink l fun k => { k with queue := [] }
  (q.foldl (fun s p => match s.forward p with | some s => s | none => s.noRoute l p) s2).chooseParent

/-! ### Frames (R301 to R305, R311) -/

/-- Receive-buffer depth of a virtual channel (R309). -/
def vcDepth (vc : Nat) : Nat := match vc with | 0 | 3 => 48 | 1 | 2 | 4 | 5 => 96 | 6 => 8 | _ => 0

/-- Whether a mask lies within one aligned 8-byte unit. -/
def oneUnit (m : LineMask) : Bool := (List.range 8).any fun i => m &&& maskOf (8 * i) 8 == m
/-- Units of a line that a mask touches. -/
def unitsOf (m : LineMask) : Nat := ((List.range 8).filter fun i => m &&& maskOf (8 * i) 8 != 0).length

/-- Units of a packet: the header and its data units (R306, R307). -/
def pktUnits (p : Pkt) : Nat :=
  2 + match p.op with
  | .wrNc | .blkWr => if oneUnit p.mask then 1 else if fullMask p.mask then 8 else 9
  | .atomNc => if p.fn = .cas then 2 else 1
  | .rdData => unitsOf p.mask
  | .atomData | .linkNotice => 1
  | .routeAdv | .routeWithdraw => max 1 ((List.range 8).filter fun i => fld p.data (64 * i + 63) (64 * i) != 0).length
  | _ => 0

/-- Packs packets, in queue order and with a credit each, into the 25 units of a frame: those sent, the credits then in use, and those left. A VC's
packets stay in order. -/
def packFrame (used : Tab Nat) (room : Nat) (stop : List Nat) : List Pkt → List Pkt × Tab Nat × List Pkt
  | [] => ([], used, [])
  | p :: t =>
    let v := p.vc.val
    let n := pktUnits p
    if stop.contains v || decide (vcDepth v ≤ tabGet 0 used v) || decide (room < n) then
      let (a, u, b) := packFrame used (if room < n then 0 else room) (v :: stop) t
      (a, u, p :: b)
    else
      let (a, u, b) := packFrame (tabSet 0 used v (tabGet 0 used v + 1)) (room - n) stop t
      (p :: a, u, b)

/-- Events of a link's bank (R411). -/
def State.countLink (s : State) (l code n : Nat) : State := s.count (linkStop l) 1 code n none
/-- Stores a link and counts what has happened to it: frames corrected, bad frames, replays, recoveries (R305, R411). -/
def State.putLink (s : State) (l : Nat) (k : Link) : State :=
  let o := s.link l
  let s := s.setLink l k
  (((s.countLink l 4 (k.corrected - o.corrected)).countLink l 5 (k.bad - o.bad)).countLink l 6 (k.replays - o.replays)).countLink l 8 (k.recoveries - o.recoveries)
def State.countPkts (s : State) (l code : Nat) : List Pkt → State
  | [] => s
  | p :: t => (s.count (linkStop l) 1 code 1 (some { src := mkNode 0 0, addr := p.addr.toNat, vc := p.vc.val })).countPkts l code t

/-- LINK_FRAME_SEND: the next frame is a replayed one, else a new DATA frame when packets, credits and a retry entry are there, else IDLE. An armed
injection acts on the next DATA frame, or starts recovery (R303, R304, R311, R336). -/
def execLinkFrameSend (l : Fin 8) (s : State) : Res :=
  let k := s.link l.val
  .next (if k.st ≠ .up then s else
    let arm := k.inj.getLsbD 31
    let kind := fld k.inj 27 24
    let off : BitVec 32 := k.inj &&& ~~~0x8000_0000
    if arm && kind == 4 then s.putLink l.val { k with st := .recovery, recoveries := k.recoveries + 1, inj := off } else
    match k.replay with
    | _ :: rest => s.setLink l.val { k with replay := rest, inj := if arm then off else k.inj }
    | [] =>
      let (out, used, left) := packFrame k.credUsed 25 [] k.queue
      if out = [] || decide (128 ≤ k.retry.length) then s else
      let s := ((s.countLink l.val 1 1).countPkts l.val 2 out).bwAdd (linkStop l.val) 1 (8 * (out.map pktUnits).sum)
      s.setLink l.val { k with
        retry := k.retry ++ [{ seq := k.txSeq, pkts := out }], txSeq := (k.txSeq + 1) % 4096, sent := k.sent + 1, credUsed := used, queue := left,
        inj := if arm then off else k.inj })

/-- Applies the credit count of a virtual channel: a cumulative count modulo 256 (R311). -/
def Link.credit (k : Link) (vc cnt : Nat) : Link :=
  let d := (cnt + 256 - tabGet 0 k.credSeen vc) % 256
  { k with credUsed := tabSet 0 k.credUsed vc (tabGet 0 k.credUsed vc - d), credSeen := tabSet 0 k.credSeen vc cnt }

/-- Starts recovery (R305). -/
def Link.recover (k : Link) : Link := { k with st := .recovery, recoveries := k.recoveries + 1, streak := 0, replayAt := [] }

/-- Applies ACK and NAK: frames up to ACK leave the retry buffer; a NAK replays the rest, and more than 256 replays within 1 ms start recovery
(R304, R305). -/
def Link.acks (k : Link) (now ack : Nat) (nak : Bool) : Link :=
  let k := match k.retry.findIdx? fun f => f.seq == ack with
    | some i => { k with retry := k.retry.drop (i + 1), replay := k.replay.filter fun f => !((k.retry.take (i + 1)).any fun g => g.seq == f.seq), acked := k.acked + i + 1 }
    | none => k
  if !nak then k else
  let at_ := (now :: k.replayAt).take 257
  let k := { k with replay := k.retry, replays := k.replays + 1, replayAt := at_ }
  if at_.length = 257 ∧ at_.all (fun t => decide (now ≤ t + 1000000)) then k.recover else k

/-- A packet leaves the receive buffer, or is discarded: its credit goes back (R311). A packet that came before the link was last down has no credit to
give back (log entry 77). -/
def Link.consume (k : Link) (vc : Nat) : Link :=
  if tabGet 0 k.rx vc = 0 then k else
  { k with rx := tabSet 0 k.rx vc (tabGet 0 k.rx vc - 1), credRet := tabSet 0 k.credRet vc ((tabGet 0 k.credRet vc + 1) % 256) }

/-- Whether a frame is bad: more symbol errors than the code corrects, or a CRC failure after decoding (R301; log entry 77). -/
def frameBad (crcErr : Bool) (symErrs : Nat) : Bool := crcErr || decide (6 < symErrs)
/-- Whether the opcode permits the received DLEN (R307). -/
def dlenFits (p : Pkt) (dlen : Nat) : Bool :=
  match p.op with
  | .routeAdv | .routeWithdraw => decide (1 ≤ dlen) && decide (dlen ≤ 8)
  | _ => decide (pktUnits p = 2 + dlen)
/-- Whether a received packet enters its receive buffer: a used opcode and VC, and a DLEN that fits (R307, R309). -/
def pktGood (x : Pkt × Fin 16) : Bool := x.1.op != .unused && x.1.vc.val != 7 && dlenFits x.1 x.2.val

/-- DATA_FRAME: a frame with the next SEQ is accepted and its packets enter the receive buffers; a bad one, and every later one, is discarded with a
NAK; the expected frame bad 8 times in a row starts recovery. A packet with an unused opcode or VC, or a DLEN that does not fit, is discarded with its credit and a
record (R301, R304, R305, R307, R309). -/
def execDataFrame (l : Fin 8) (seq ack : Fin 4096) (nak crcErr : Bool) (symErrs : Fin 225) (cvc : Fin 8 × Fin 8) (ccnt : Fin 256 × Fin 256)
    (pkts : List (Pkt × Fin 16)) (s : State) : Res :=
  let k := s.link l.val
  let fixed := decide (0 < symErrs.val)
  .next (if k.st ≠ .up then s
    else if frameBad crcErr symErrs.val then
      let k := { k with bad := k.bad + 1, nak := true, streak := if seq.val = k.rxNext then k.streak + 1 else k.streak }
      s.putLink l.val (if 8 ≤ k.streak then k.recover else k)
    else
      let k := ((k.credit cvc.1.val ccnt.1.val).credit cvc.2.val ccnt.2.val).acks s.time ack.val nak
      let k := if fixed then { k with corrected := k.corrected + 1 } else k
      let s := if fixed then s.logCe (linkStop l.val) else s
      if seq.val ≠ k.rxNext then s.putLink l.val { k with nak := true } else
      let good := (pkts.filter pktGood).map (·.1)
      let drop := (pkts.filter fun x => !(pktGood x)).map (·.1)
      let k := { k with rxNext := (k.rxNext + 1) % 4096, nak := false, streak := 0, rxQ := k.rxQ ++ good,
                        rx := good.foldl (fun t p => tabSet 0 t p.vc.val (tabGet 0 t p.vc.val + 1)) k.rx,
                        credRet := drop.foldl (fun t p => tabSet 0 t p.vc.val ((tabGet 0 t p.vc.val + 1) % 256)) k.credRet }
      let s := s.putLink l.val k
      if drop = [] then s else s.linkErr l.val drop.length)

/-- IDLE_FRAME: acknowledgement and credits (R303, R304, R311). -/
def execIdleFrame (l : Fin 8) (ack : Fin 4096) (nak : Bool) (cvc0 : Fin 8) (ccnt0 : Fin 256) (cvc1 : Fin 8) (ccnt1 : Fin 256) (s : State) : Res :=
  let k := s.link l.val
  .next (if k.st ≠ .up then s else
    s.putLink l.val (((k.credit cvc0.val ccnt0.val).credit cvc1.val ccnt1.val).acks s.time ack.val nak))

/-- TRAIN_FRAME: training patterns leave nothing in the link's state (R303). -/
def execTrainFrame (_l : Fin 8) (s : State) : Res := .next s

/-- SYNC_SEND: the frame carries times that are already held; sending it changes nothing here (R329). -/
def execSyncSend (_l : Fin 8) (s : State) : Res := .next s

/-- SYNC_FRAME: `sent` is the neighbour's time of sending, `peerSent` and `peerArrived` the send and arrival times of our last SYNC there. On the sync
parent's link the offset is half the difference of the two one-way differences: before the first host instruction the timebase steps by it, after it
the rate changes by at most 200 ppm (R329). -/
def execSyncFrame (l : Fin 8) (sent peerSent peerArrived : Word) (s : State) : Res :=
  let k := s.link l.val
  .next (if k.st ≠ .up then s else
    let s := s.setLink l.val { k with syncSent := sent, syncArr := BitVec.ofNat 64 s.time }
    if !k.syncpar then s else
    let off : Int := (((s.time : Int) - sent.toNat) - ((peerArrived.toNat : Int) - peerSent.toNat)) / 2
    if !s.ren.started then
      { s with time := ((s.time : Int) - off).toNat, graop := { s.graop with offset := off, rate := 0, timeState := .locked } }
    else
      let near := decide (off.natAbs ≤ 3 * s.graop.rootHops)
      { s with graop := { s.graop with
          offset := off, rate := max (-200000) (min 200000 (-off * 1000)), timeState := if near then .locked else .slewing } })

/-! ### Links joining and leaving (R305, R315 to R317, R331, R333) -/

/-- Whether a link is one of a ring's dateline links (R321). -/
def State.isDateline (s : State) (nbr : Nat) : Bool :=
  s.plat.topo == .ring && ((s.ownPkg == 0 && nbr == s.plat.npkg - 1) || (nbr == 0 && s.ownPkg == s.plat.npkg - 1))

/-- The HELLO check: the expected neighbour joins the link to its group, and its own route has one hop; another neighbour leaves the link held
(R316, R319, R321). -/
def State.hello (s : State) (l nbr nbrLink : Nat) : State :=
  match tabGet none s.plat.linkGroup l with
  | none => s
  | some (g, want) =>
    let k := { s.link l with nbr := BitVec.ofNat 9 nbr, nbrLink := nbrLink }
    if want.val ≠ nbr then
      let s := s.setLink l { k with st := .held, group := none }
      ({ s with ren := { s.ren with console := s.ren.console ++ [0x0702] } }).linkErr l 0 |>.notice 5 l
    else
      let s := s.setLink l { k with
        st := .up, group := some g, width := if k.width = 0 then 2 else k.width, dateline := s.isDateline nbr, recFails := 0, streak := 0 }
      let s := s.notice 4 l
      let s := if s.wayTo nbr = some g && (s.route nbr) != { v := true, group := g, hops := 1 }
        then (s.setRoute nbr { v := true, group := g, hops := 1 }).routesChanged 1 else s
      (s.advertise none).chooseParent.maybeStart

/-- HELLO_FRAME: after training, the neighbour's ID and link (R316). -/
def execHelloFrame (l : Fin 8) (pkg : Fin 512) (nbrLink : Fin 8) (s : State) : Res :=
  .next (if (s.link l.val).st = .training then s.hello l.val pkg.val nbrLink.val else s)

/-- FRAME_LOCK_LOST (R305). -/
def execFrameLockLost (l : Fin 8) (s : State) : Res :=
  .next (if (s.link l.val).st = .up then s.putLink l.val (s.link l.val).recover else s)

/-- A link goes down: its retry frames are lost and recorded, and it carries nothing; what it has received stays in its receive buffers (R305, R331). DESIGN CHOICE: `cause`, which FABRIC_LINK_STATUS gives, is 1 after three
failed recoveries and 2 after LINK_DOWN; R434 names the field and gives no codes (log entry 171). -/
def State.linkGoesDown (s : State) (l cause : Nat) : State :=
  let k := s.link l
  let s := s.setLink l { k with
    st := .down, retry := [], replay := [], downs := k.downs + 1, cause := cause, downAt := s.time, width := 0, recFails := 0, txSeq := 0, rxNext := 0,
    nak := false, credUsed := [], credSeen := [], credRet := [], rx := [] }
  (s.linkErr l k.retry.length).notice 3 l

/-- LINK_RECOVERY_DONE: at full width, at x4 on one half, or failed; the third failure in a row takes the link down. Stored frames are replayed
(R299, R305). Its cause code is the model's (log entry 171). -/
def execLinkRecoveryDone (l : Fin 8) (how : RecEnd) (s : State) : Res :=
  let k := s.link l.val
  .next (if k.st ≠ .recovery then s else
    match how with
    | .failed => if 2 ≤ k.recFails then s.linkGoesDown l.val 1 else s.setLink l.val { k with recFails := k.recFails + 1 }
    | h => s.setLink l.val { k with st := .up, width := if h = .full then 2 else 1, recFails := 0, replay := k.retry })

/-- LINK_DOWN: a link in recovery is declared down (R305). Its cause code is the model's (log entry 171). -/
def execLinkDown (l : Fin 8) (s : State) : Res :=
  .next (if (s.link l.val).st = .recovery then s.linkGoesDown l.val 2 else s)

/-- Takes a link out of its group and changes the routes that used it (R331). -/
def State.leaveGroup (s : State) (l : Nat) : State :=
  match (s.link l).group with
  | none => s
  | some g => (s.updLink l fun k => { k with group := none }).reroute l g

/-- LINK_REMOVE_FROM_GROUP: Rennet's reaction to a down link (R331); without Rennet the routes stay (R446). -/
def execLinkRemoveFromGroup (l : Fin 8) (s : State) : Res :=
  .next (if s.ren.up && (s.link l.val).st == .down then s.leaveGroup l.val else s)

/-- LINK_RETRY: 10 s after it went down, Rennet trains the link again and checks the neighbour (R333). -/
def execLinkRetry (l : Fin 8) (trained : Bool) (nbr : Fin 512) (s : State) : Res :=
  let k := s.link l.val
  .next (if !(s.ren.up && k.st == .down) then s else
    let s := s.passTo (k.downAt + 10000000000)
    if trained then (s.leaveGroup l.val).hello l.val nbr.val k.nbrLink
    else s.setLink l.val { k with downAt := s.time })

/-- FABRIC_BRINGUP_TIMEOUT: the host starts with the remaining routes invalid (R317). -/
def execFabricBringupTimeout (s : State) : Res := .next (if s.mayStart then s.startStub else s)

/-! ### Packets that have arrived (R307, R308, R322 to R326) -/

/-- Takes an arrived packet from the receive buffer, if it waits there (log entry 5). -/
def State.takePkt (s : State) (l : Nat) (p : Pkt) : State :=
  s.updLink l fun k => if k.rxQ.contains p then { k.consume p.vc.val with rxQ := k.rxQ.erase p } else k

/-- Whether a packet is the first of its VC in the receive buffer, so that it is the next one taken there: a route delivers the requests of one class in order (R146,
R158). One that the link has not brought comes in turn when none of its VC waits (log entry 5). -/
def State.pktTurn (s : State) (l : Nat) (p : Pkt) : Bool := match (s.link l).rxQ.find? fun q => q.vc == p.vc with | some q => q == p | none => true

/-- A packet for another package goes on by its route; past 511 links it is discarded (R322, R326, R331). -/
def State.transit (s : State) (l : Nat) (p : Pkt) : State :=
  if 511 < p.hop + 1 then (s.takePkt l p).linkErr l 1 else
  let q := { p with hop := p.hop + 1 }
  match (s.takePkt l p).forward q with
  | some s => s.count (linkStop l) 1 3 1 (some { src := mkNode 0 0, addr := p.addr.toNat, vc := p.vc.val })
  | none => (s.takePkt l p).noRoute l q

/-- Whether the home refuses a request outright (R27, R325). -/
def State.refusesInbound (s : State) (p : Pkt) : Bool :=
  let la := p.addr.toNat
  s.graop.inbound.getLsbD p.spkg.val || decide (la < 0x1000_0000) || (decide (0x2000_0000 ≤ la) && decide (la < 0x2002_0000)) ||
    rangeFault s la (p.op == .wrNc || p.op == .blkWr || p.op == .atomNc) || (pmaFind s.pma.masters la true).isNone ||
    (areaOf s la == .device && decide (p.size < 4))

/-- Whether the access at the home is to I/O (R140: an atomic there faults). -/
def State.homeIo (s : State) (la : Nat) : Bool := match pmaFind s.pma.masters la true with | some e => e.io | none => false

/-- Answers a request from its home with an error. -/
def State.refusePkt (s : State) (p : Pkt) (sts : Nat) : State := (s.forward (s.errPkt p sts)).getD s

/-- The response to an access that no stop implements: STS 0x00 and zero data (R26, R308). -/
def State.zeroPkt (s : State) (p : Pkt) : Pkt :=
  { s.errPkt p 0 with
    op := (match p.op with | .rdNc | .blkRd => .rdData | .atomNc => .atomData | _ => .wrAck), mask := maskOf (p.addr.toNat % 64) p.size, size := p.size }

/-- A request from another package at its home: the reverse route first, then refusals, then a home-table entry and the access as a request from the
arrival stop. With the table full it waits in the receive buffer (R318, R324, R325, R512). -/
def State.atHome (s : State) (l : Nat) (p : Pkt) (op : MsgOp) : State :=
  let la := p.addr.toNat
  if !((s.route p.spkg.val).v) then (s.takePkt l p).linkErr l 1
  else if s.graop.refuse then (s.takePkt l p).refusePkt p 5
  else if s.refusesInbound p || (op == .atomicNc && s.homeIo la) then (s.takePkt l p).refusePkt p 2
  else
    match s.dest (s.ownPkg * 2 ^ 47 + la) 0 (op == .writeNc) with
    | .done 0 => ((s.takePkt l p).forward (s.zeroPkt p)).getD s
    | .done sts => (s.takePkt l p).refusePkt p sts
    | .node n _ _ =>
      let mine := s.graop.homes.filter fun e => e.link == l
      match (List.range 1024).find? fun t => !(mine.any fun e => e.tag == t) with
      | none => s
      | some t =>
        let s := s.takePkt l p
        let e : HomeEntry := { spkg := p.spkg.val, glink := p.glink.val, gtag := p.gtag.val, link := l, tag := t, op := p.op }
        let f := s.attrs (s.ownPkg * 2 ^ 47 + la) (ncFlit op (linkNode l) n la t p.spkg.val (if op = .readNc then maskOf (la % 64) p.size else p.mask))
        let f := if op = .readNc then f else { f with data := some p.data }
        ({ s with graop := { s.graop with homes := s.graop.homes ++ [e] } }).send { f with poison := p.poison, fn := p.fn, size := p.size }

/-- A request packet: in transit, or at its home. -/
def State.reqPkt (s : State) (l : Nat) (p : Pkt) (op : MsgOp) : State :=
  if ((s.link l).st ≠ .up ∧ !((s.link l).rxQ.contains p)) ∨ !(s.pktTurn l p) then s
  else if p.dpkg.val = s.ownPkg then s.atHome l p op else s.transit l p

/-- A response packet: in transit, or at its requester. -/
def State.respPkt (s : State) (l : Nat) (p : Pkt) : State :=
  if ((s.link l).st ≠ .up ∧ !((s.link l).rxQ.contains p)) ∨ !(s.pktTurn l p) then s
  else if p.dpkg.val = s.ownPkg then (s.takePkt l p).homeward l p else s.transit l p

/-- RD_NC (R307, R324). -/
def execRdNc (l : Fin 8) (p : Pkt) (s : State) : Res := .next (s.reqPkt l.val { p with op := .rdNc } .readNc)
/-- WR_NC (R307, R324). -/
def execWrNc (l : Fin 8) (p : Pkt) (s : State) : Res := .next (s.reqPkt l.val { p with op := .wrNc } .writeNc)
/-- ATOM_NC: performed at the home slice (R140, R324). -/
def execAtomNc (l : Fin 8) (p : Pkt) (s : State) : Res := .next (s.reqPkt l.val { p with op := .atomNc } .atomicNc)
/-- BLK_RD: a transfer engine's read (R307, R324). -/
def execBlkRd (l : Fin 8) (p : Pkt) (s : State) : Res := .next (s.reqPkt l.val { p with op := .blkRd } .readNc)
/-- BLK_WR: a transfer engine's write (R307, R324). -/
def execBlkWr (l : Fin 8) (p : Pkt) (s : State) : Res := .next (s.reqPkt l.val { p with op := .blkWr } .writeNc)
/-- RD_DATA (R308, R323). -/
def execRdData (l : Fin 8) (p : Pkt) (s : State) : Res := .next (s.respPkt l.val { p with op := .rdData })
/-- WR_ACK (R308, R323). -/
def execWrAck (l : Fin 8) (p : Pkt) (s : State) : Res := .next (s.respPkt l.val { p with op := .wrAck })
/-- ATOM_DATA (R308, R323). -/
def execAtomData (l : Fin 8) (p : Pkt) (s : State) : Res := .next (s.respPkt l.val { p with op := .atomData })
/-- ERR_RESP (R308, R323). -/
def execErrResp (l : Fin 8) (p : Pkt) (s : State) : Res := .next (s.respPkt l.val { p with op := .errResp })

/-- Whether a request to package `d` is outstanding on a route that a routing-table change, or a change of its group's links, has ended: it has not completed, and its completion timeout has not passed
(R159). -/
def State.oldRoute (s : State) (d : Nat) : Bool := s.graop.tags.any fun t =>
  t.dpkg == d && (t.via != s.route d || s.memberLink t.via.group t.la != some t.link) && decide (s.time < t.freeAt - 1000)

/-- A mesh request reaches a link stop: a tag-table entry, and a packet in set A; it waits while the table is full (R318, R323), and after a change of its route while
older requests are outstanding on the one before (R159). -/
def State.atLink (s : State) (l : Nat) (f : Flit) : State :=
  let d := f.rpkg.val
  if s.oldRoute d then s else
  let r := s.route d
  let eng := f.src == engineNode 0 || f.src == engineNode 1
  let mine := s.graop.tags.filter fun t => t.link == l
  match (List.range 4096).find? fun k => !(mine.any fun t => t.idx == k) with
  | none => s
  | some k =>
    let op : PktOp := match f.op with | .readNc => if eng then .blkRd else .rdNc | .writeNc => if eng then .blkWr else .wrNc | _ => .atomNc
    let n := popN 64 f.mask.toNat
    let p : Pkt := { op := op, dpkg := f.rpkg, spkg := Fin.ofNat 512 s.ownPkg, vc := if eng then 1 else 0, poison := f.poison, glink := Fin.ofNat 8 l, gtag := Fin.ofNat 4096 k,
                     sts := 0, size := if f.size = 0 then n else f.size, hop := 0, addr := f.addr, data := f.data.getD 0, mask := f.mask, fn := f.fn }
    let t : TagEntry := { link := l, idx := k, node := f.src, tag := f.tag, freeAt := s.time + 5000 + 1000 * r.hops, op := op, dpkg := d, la := f.addr.toNat, via := r }
    let s := { (s.accept f) with graop := { s.graop with tags := s.graop.tags ++ [t] } }
    s.enqueue l { p with vc := if (s.link l).dateline then setB p.vc else p.vc }

/-- The home's answer reaches the arrival stop: the home-table entry is freed and the response leaves by the route to the requester's package; without a
route it is discarded (R324, R331, R332). -/
def State.homeAnswer (s : State) (l : Nat) (f : Flit) : State :=
  match s.graop.homes.find? fun e => e.link == l && e.tag == f.tag.toNat with
  | none => s.lateResponse f.dst f.addr.toNat
  | some e =>
    let s := { s with graop := { s.graop with homes := s.graop.homes.erase e } }
    let rd := e.op == .rdNc || e.op == .blkRd
    let op : PktOp := if f.sts = 0 || f.sts = 4 then (if rd then .rdData else if e.op = .atomNc then .atomData else .wrAck) else .errResp
    let p : Pkt := { op := op, dpkg := Fin.ofNat 512 e.spkg, spkg := Fin.ofNat 512 s.ownPkg, vc := 2, poison := f.poison, glink := Fin.ofNat 8 e.glink,
                     gtag := Fin.ofNat 4096 e.gtag, sts := f.sts, size := f.size, hop := 0, addr := f.addr, data := f.data.getD 0, mask := f.mask, fn := .swap }
    (s.forward p).getD s

/-! ### Route packets (R321, R331, R333) -/

/-- Takes a management packet of the opcode from the receive buffer, if one waits. -/
def State.takeMgt (s : State) (l : Nat) (op : PktOp) : State :=
  match (s.link l).rxQ.find? fun p => p.op == op with
  | some p => s.takePkt l p
  | none => s

/-- IDs of a unit's range. -/
def unitIds (u : RouteUnit) : List Nat := List.range' u.first.val (u.last.val + 1 - u.first.val)

/-- ROUTE_ADV: each ID of a range whose selected group is the arrival link's takes the advertised hops plus 1; changes are passed on (R319, R321). -/
def execRouteAdv (l : Fin 8) (us : List RouteUnit) (s : State) : Res :=
  let s := s.takeMgt l.val .routeAdv
  .next (match (s.link l.val).group with
  | none => s
  | some g =>
    let upd := us.flatMap fun u => ((unitIds u).filter fun p => p != s.ownPkg && s.wayTo p == some g && decide (u.hops.val + 1 ≤ 511)).map fun p => (p, u.hops.val + 1)
    let new := upd.filter fun (p, n) => s.route p != { v := true, group := g, hops := n }
    if new = [] then s else
    let s := (new.foldl (fun s (p, n) => s.setRoute p { v := true, group := g, hops := n }) s).routesChanged new.length
    (s.advertise (some g)).chooseParent.maybeStart)

/-- ROUTE_WITHDRAW: the IDs of the ranges that this group served become invalid, and the withdrawal is passed on (R321, R331). -/
def execRouteWithdraw (l : Fin 8) (us : List RouteUnit) (s : State) : Res :=
  let s := s.takeMgt l.val .routeWithdraw
  .next (match (s.link l.val).group with
  | none => s
  | some g =>
    let ids := (us.flatMap unitIds).filter fun p => (s.route p).v && (s.route p).group == g
    if ids = [] then s else
    let s := (ids.foldl (fun s p => s.setRoute p Route.none) s).routesChanged ids.length
    (s.tellNeighbours .routeWithdraw us (some g)).chooseParent)

/-- LINK_NOTICE: the neighbour takes the link out of service: it leaves its group and is switched off here too (R333). -/
def execLinkNotice (l : Fin 8) (s : State) : Res :=
  let s := s.takeMgt l.val .linkNotice
  .next (if (s.link l.val).st = .up then (s.leaveGroup l.val).updLink l.val fun k => { k with st := .off, width := 0 } else s)

/-- TAG_ENTRY_TIMEOUT (R332). -/
def execTagEntryTimeout (l : Fin 8) (k : Fin 4096) (s : State) : Res :=
  .next (match s.tagEntry l.val k.val with
  | some t =>
    let s := s.passTo t.freeAt
    { s with graop := { s.graop with tags := s.graop.tags.erase t } }
  | none => s)

/-! ### Registers (R335, R336) -/

def linkCode : LinkState → Nat | .off => 0 | .training => 1 | .up => 2 | .recovery => 3 | .down => 4 | .held => 5 | .domainOff => 6

/-- GL_STATUS. -/
def Link.status (k : Link) : BitVec 32 :=
  BitVec.ofNat 32 (linkCode k.st * 2 ^ 28 + b2n k.syncpar * 2 ^ 27 + b2n k.dateline * 2 ^ 26 + k.width.toNat * 2 ^ 24 + b2n k.group.isSome * 2 ^ 23 +
    (match k.group with | some g => g.val | none => 0) * 2 ^ 20 + k.nbr.toNat * 2 ^ 9)

/-- A write of GL_INJ_CTL. -/
def State.glInjWrite (s : State) (l : Nat) (v : BitVec 32) : State :=
  s.updLink l fun k =>
    let kind := fld v 27 24
    let old := putFld k.inj 27 24 kind
    { k with inj := if v.getLsbD 31 then putFld old 31 31 (b2n (decide (1 ≤ kind ∧ kind ≤ 4))) else old }

end Sys2Proof.Machine
end

