-- ==== Sys2Proof/Machine/Level.lean ====
section
/-!
DEFINITION. The debug level (R482, R483), and how a hart leaves Debug Mode (R489, R491).
-/
namespace Sys2Proof.Machine

/-- A hart resumes at dpc in the mode that dcsr names; the first instruction of an S-core issues 4 cycles later (R491). With dcsr.step it halts again
after one instruction. -/
def Hart.resumed (t : Bool) (c : Hart) (step : Bool) : Hart :=
  let d := c.csrRaw 0x7B0
  let prv := fld d 1 0
  let pc := c.csrRaw 0x7B1
  let c := if prv = 3 then c else c.csrPut 0x300 (putFld (c.csrRaw 0x300) 17 17 0)
  { c with
    pc := pc, mode := modeOf prv (t && d.getLsbD 5 && decide (prv ≠ 3)), halted := false, haltReq := false, clock := c.clock + (if t then 0 else 4),
    stepAt := if step && d.getLsbD 2 then some (c.seq, pc) else none }

/-- Disables every trigger with action 1 (R483). -/
def Hart.dropActions (c : Hart) : Hart :=
  (List.range 8).foldl (fun c i =>
    let w := c.tdata1 i
    if (fld w 63 60 == 6 || fld w 63 60 == 3) && trigAct w == 1 then c.csrPut (0x10000 + 4 * i + 1) 0xF000_0000_0000_0000 else c) c

/-- The level becomes `l`: DBGMAX rises with it; harts that are no longer permitted are resumed; when the level falls, halt requests are cleared and
triggers with action 1 disabled (R483). -/
def State.setLevel (s : State) (l : Fin 4) (inst : Nat) : State :=
  let falls := decide (l < s.sec.level)
  let s := { s with sec := { s.sec with level := l, inst := inst, dbgmax := max s.sec.dbgmax l } }
  let s := if falls then s.mapHarts (fun c => { c.dropActions with haltReq := false }) allHarts else s
  (allHarts.filter fun h => (s.hart h).halted && !(s.permitted h)).foldl (fun s h => s.updHart h fun c => c.resumed (isT h) false) s

end Sys2Proof.Machine
end

