-- ==== Sys2Proof/Machine/Direct.lean ====
section
/-!
DEFINITION. Coherent reads and writes at the home slice by agents that have no cache and whose messages the model does not show: the buffers of Rennet's commands,
the Ladle ring, what a reset or a flush drains. Each is one step on the newest value of the line (R136, R167, R169; log entry 11).
-/
namespace Sys2Proof.Machine

/-- The newest value of 64 bytes at a local line address and its poison, where the address holds memory. -/
def State.peekLine (s : State) (la : Nat) : Line × Bool :=
  let b := la / 64 * 64
  match areaOf s b with
  | .dram => s.newest (b / 64)
  | .sram => (memLine s.mem.sram (b - 0x400_0000), false)
  | .bootRom => (BitVec.ofNat 512 (leNat ((List.range 64).map fun i => Config.bootRom (b + i))), false)
  | _ => (0, false)

/-- A list of bytes from `la`, line by line. -/
def State.peekBytes (s : State) (la n : Nat) : List Byte :=
  (List.range n).map fun i => byteAt (s.peekLine (la + i)).1 ((la + i) % 64)

/-- Whether a range of lines holds poison. -/
def State.peekPoison (s : State) (la n : Nat) : Bool := (List.range ((n + 63) / 64)).any fun i => (s.peekLine (la + 64 * i)).2

/-- Changes every flit on its way. -/
def State.mapFlits (s : State) (g : Flit → Flit) : State :=
  let l (x : Tab (List (Nat × Flit))) : Tab (List (Nat × Flit)) := x.map fun (k, v) => (k, v.map fun (i, f) => (i, g f))
  { s with mesh := { s.mesh with inject := l s.mesh.inject, bufs := l s.mesh.bufs, arrived := s.mesh.arrived.map g } }
def State.setCoh (s : State) (c : Coh) : State := { s with coh := c }

/-- Merges bytes into every cached copy of a line; a whole line clears poison (R503). -/
def State.pokeCopies (s : State) (ln : Nat) (d : Line) (m : LineMask) : State :=
  let whole := fullMask m
  let s := (s.coh.l2.filter fun (k, _) => k % 2 ^ 41 == ln).foldl (fun s (k, c) =>
    s.setL2 (k / 2 ^ 41) ln { c with data := mergeLine c.data d m, mask := if c.st = .i then c.mask else c.mask ||| m, poison := c.poison && !whole }) s
  let s := if (s.l3 ln).valid then s.setL3 ln { s.l3 ln with data := mergeLine (s.l3 ln).data d m, poison := (s.l3 ln).poison && !whole } else s
  let vb := s.coh.vb.map fun e => if e.la = 64 * ln then { e with data := mergeLine e.data d m, mask := e.mask ||| m, poison := e.poison && !whole } else e
  let wb := s.coh.wb.map fun e => if e.la / 64 = ln then { e with data := mergeLine e.data d m, mask := e.mask ||| m, poison := e.poison && !whole } else e
  let fl (f : Flit) : Flit := if carriesLine f ln then { f with data := f.data.map fun x => mergeLine x d m, mask := f.mask ||| m, poison := f.poison && !whole } else f
  let txn := match s.txn ln with
    | some t => tabSet none s.coh.txn ln (some { t with data := t.data.map fun x => mergeLine x d m, mask := if t.data.isSome then t.mask ||| m else t.mask, poison := t.poison && !whole })
    | none => s.coh.txn
  (s.mapFlits fl).setCoh { s.coh with vb := vb, wb := wb, txn := txn }

/-- Writes the bytes `m` of a line, in memory and in every copy; reservations on the block and loads performed ahead of it are lost (R91, R143). -/
def State.pokeLine (s : State) (la : Nat) (d : Line) (m : LineMask) : State :=
  let b := la / 64 * 64
  match areaOf s b with
  | .dram =>
    let s := s.pokeCopies (b / 64) d m
    let s := { s with mem := { s.mem with dram := memLinePut s.mem.dram b m d } }
    let s := if fullMask m then s.setMark b .clean else s
    let s := s.mapHarts (fun c => c.noteLost (b / 64)) (allHarts.filter fun h => (s.hart h).early != [])
    s.killResv b none
  | .sram => { s with mem := { s.mem with sram := memLinePut s.mem.sram (b - 0x400_0000) m d } }
  | _ => s

/-- Whether nothing of a line is on its way: no transaction and no request of it at its home, no copy in a write-back buffer or a flit. -/
def State.lineQuiet (s : State) (ln : Nat) : Bool :=
  (s.txn ln).isNone && !(s.coh.waitq.any fun f => lineOf f.addr.toNat == ln) && !(s.coh.wb.any fun e => lineOf e.la == ln) && (s.flying ln).isNone

/-- A coherent write by a master without caches, in one step (log entry 11): every holder loses the line, its bytes merge with the newest ones, and the L3 takes the
line dirty, with the token of the superseded copy; C = 0 memory is written with no lookup and no snoop (R169). A line with a transaction under way takes the bytes
wherever it is. -/
def State.homeWrite (s : State) (la : Nat) (d : Line) (m : LineMask) : State :=
  let b := la / 64 * 64
  let ln := b / 64
  if areaOf s b ≠ .dram then s.pokeLine la d m
  else if !(s.homeC b) then
    let s := { s with mem := { s.mem with dram := memLinePut s.mem.dram b m d } }
    (if fullMask m then s.setMark b .clean else s).killResv b none
  else if !(s.lineQuiet ln) then s.pokeLine la d m
  else
    let (old, p) := s.newest ln
    let hs := (s.sf ln).agents
    let e := s.l3 ln
    let tok := (hs.any fun a => (s.l2 a ln).token) || (e.valid && e.token)
    let t := (hs.foldl (fun s a => (s.lineLost a ln).setL2 a ln .invalid) s).setSf ln .empty
    match (t.killResv b none).writeCore ln (s.heldAt b) tok (mergeLine old d m) (p && !(fullMask m)) with
    | some (t, _) => t
    | none => s.pokeLine la d m

/-- Writes a list of bytes from `la` so, a line at a time; `fuel` bounds the lines. -/
def State.homeBytes (s : State) (la : Nat) (bs : List Byte) : Nat → State
  | 0 => s
  | k + 1 =>
    if bs = [] then s else
    let n := min bs.length (64 - la % 64)
    State.homeBytes (s.homeWrite la (atOffset (la % 64) (leNat (bs.take n))) (maskOf (la % 64) n)) (la + n) (bs.drop n) k

/-- Writes a list of bytes from `la`, a line at a time; `fuel` bounds the lines. -/
def State.pokeBytes (s : State) (la : Nat) (bs : List Byte) : Nat → State
  | 0 => s
  | k + 1 =>
    if bs = [] then s else
    let n := min bs.length (64 - la % 64)
    State.pokeBytes (s.pokeLine la (atOffset (la % 64) (leNat (bs.take n))) (maskOf (la % 64) n)) (la + n) (bs.drop n) k

end Sys2Proof.Machine
end

