-- ==== Sys2Proof/Machine/Iommu.lean ====
section
/-!
DEFINITION. The IOMMUs (R286 to R297): register file, device and process contexts, first- and second-stage walks, MSI translation, fault
reporting and the command queue. What R286 leaves to the RISC-V IOMMU specification, version 1.0, is taken from it (log entry 10).
-/
namespace Sys2Proof.Machine

def State.iommuSt (s : State) (e : Nat) : Iommu := tabGet .reset s.iommu e
def State.setIommu (s : State) (e : Nat) (v : Iommu) : State := { s with iommu := tabSet .reset s.iommu e v }
def State.updIommu (s : State) (e : Nat) (f : Iommu → Iommu) : State := s.setIommu e (f (s.iommuSt e))
def iommuNode (e : Nat) : Node := mkNode (iommuStop e) 0

/-! ### Interrupts by MSI (IGS = 0) -/

/-- The MSI of vector `v`: a 4-byte write to the entry's address, unless the entry is masked. -/
def State.iommuMsi (s : State) (e v : Nat) : State :=
  let r := s.iommuSt e
  let addr := (tabGet 0 r.other (0x300 + 16 * v)).toNat
  let w := (tabGet 0 r.other (0x308 + 16 * v)).toNat
  if bitOf w 32 then s else
  match s.dest addr 100000 true with
  | .node n rpkg _ =>
    s.send { ncFlit .writeNc (iommuNode e) n (paLa addr) 17 rpkg (maskOf (addr % 64) 4) with data := some (atOffset (addr % 64) (w % 2 ^ 32)) }
  | .done _ => s

/-- Sets bit `i` of ipsr and sends its interrupt, once until software clears it. Vectors: icvec civ, fiv, pmiv. -/
def State.iommuIrq (s : State) (e i : Nat) : State :=
  let r := s.iommuSt e
  if r.ipsr.getLsbD i then s else
  (s.setIommu e { r with ipsr := putFld r.ipsr i i 1 }).iommuMsi e (fld r.icvec (4 * i + 3) (4 * i))

/-! ### Fault records (R295) -/

def ioFault (cause : Nat) : IoFault := { cause := cause, iotval2 := 0, walk := none, quiet := false }

/-- Causes reported although the device context disables fault reporting. -/
def alwaysReported (cause : Nat) : Bool := [256, 257, 258, 259, 268, 272, 273].contains cause

/-- Entries of a queue, from its base register. -/
def queueSize (b : Word) : Nat := 2 ^ (fld b 4 0 + 1)
/-- Address of entry `i` of a queue whose entries have `n` bytes. -/
def queueAddr (b : Word) (i n : Nat) : Nat := fld b 53 10 * 4096 + i * n

/-- Whether the IOMMU may access memory at an address: local memory whose PMA entry has TYPE = 0 (R290). -/
def State.ioMem (s : State) (a : Nat) : Bool :=
  s.isLocal a && !(rangeFault s (paLa a) false) && (match pmaFind s.pma.masters (paLa a) true with | some e => !e.io | none => false)

/-- Tag of the fault record's write, beyond those of the walkers. -/
def fqTag : Nat := 16

/-- Sends the first fault record that waits: a full queue sets fqof, an address that is no memory fqmf. -/
def State.faultSend (s : State) (e : Nat) : State :=
  let r := s.iommuSt e
  let irq (s : State) : State := if r.fqcsr.getLsbD 1 then s.iommuIrq e 1 else s
  match r.fqWait with
  | [] => s
  | l :: _ =>
    let a := queueAddr r.fqb r.fqt.toNat 32
    if (r.fqt.toNat + 1) % queueSize r.fqb = r.fqh.toNat % queueSize r.fqb then irq (s.setIommu e { r with fqcsr := putFld r.fqcsr 9 9 1, fqWait := [] })
    else match (if s.ioMem a then s.dest a 100000 true else .done 2) with
    | .node n rpkg _ =>
      s.send { s.attrs a (ncFlit .writeNc (iommuNode e) n (paLa a) fqTag rpkg (maskOf (a % 64) 32)) with data := some (l <<< (8 * (a % 64))), size := 32, ewa := false }
    | .done _ => irq (s.setIommu e { r with fqcsr := putFld r.fqcsr 8 8 1, fqWait := [] })

/-- A fault record for the queue; records are written in order, one at a time. -/
def State.faultRecord (s : State) (e : Nat) (f : IoFault) (did : Nat) (pid : Option Nat) (write : Bool) (iova : Word) : State :=
  let r := s.iommuSt e
  if !(r.fqcsr.getLsbD 16) || r.fqcsr.getLsbD 8 || r.fqcsr.getLsbD 9 then s else
  let w0 := f.cause + (pid.getD 0) * 2 ^ 12 + b2n pid.isSome * 2 ^ 32 + (if write then 3 else 2) * 2 ^ 34 + did * 2 ^ 40
  let l : Line := BitVec.ofNat 512 (w0 + iova.toNat * 2 ^ 128 + f.iotval2.toNat * 2 ^ 192)
  let s := s.setIommu e { r with fqWait := r.fqWait ++ [l] }
  if r.fqWait = [] then s.faultSend e else s

/-- The write of the first fault record has ended: fqt moves and the interrupt is raised, or fqmf is set. -/
def State.faultWritten (s : State) (e : Nat) (ok : Bool) : State :=
  let r := s.iommuSt e
  let irq (s : State) : State := if r.fqcsr.getLsbD 1 then s.iommuIrq e 1 else s
  match r.fqWait with
  | [] => s
  | _ :: ls =>
    if !ok then irq (s.setIommu e { r with fqcsr := putFld r.fqcsr 8 8 1, fqWait := [] })
    else
      let n := queueSize r.fqb
      (irq ((s.setIommu e { r with fqWait := ls, fqt := BitVec.ofNat 32 ((r.fqt.toNat + 1) % n) }).count (iommuStop e) 1 4 1 none)).faultSend e

/-! ### Walks (R289, R290) -/

/-- The walk under way at an IOMMU: the lines it has read so far. -/
structure IoCx where
  e : Nat
  reads : List (Nat × IoLine)
  deriving DecidableEq, Repr

/-- A PTE or table entry as a walk reads it, in its line; or the line has to be read first. -/
inductive IoRead where
  | line (l : Line)
  | denied (reason : Nat)
  | poison
  | wait (n : IoNeed)
  deriving DecidableEq, Repr

/-- Whether a request to an address goes to a stop. -/
def State.reaches (s : State) (a : Nat) : Bool := match s.dest a 0 false with | .node .. => true | .done _ => false

/-- The checks of R273 and the read. -/
def State.ioRead (s : State) (cx : IoCx) (a : Nat) : IoRead :=
  if !(s.isLocal a) then .denied 6 else
  match pmaFind s.pma.masters (paLa a) true with
  | none => .denied 7
  | some e =>
    if e.io then .denied 6 else if rangeFault s (paLa a) false || !(s.reaches a) then .denied 7 else
    match cx.reads.find? fun x => x.1 == paLa a / 64 with
    | none => .wait (.read (paLa a / 64 * 64))
    | some (_, l) => if l.poison then .poison else if l.err then .denied 7 else .line l.data

/-- Doubleword of a line at an address. -/
def lineWord (l : Line) (a : Nat) : Word := BitVec.ofNat 64 (lineBytes l (a % 64) 8)

/-- Reads a PTE: from the walk cache, which holds entries that lead to a table, or from memory (R289). -/
def State.ioPte (s : State) (cx : IoCx) (a : Nat) : IoRead :=
  match (s.iommuSt cx.e).wcache.find? fun x => x.1 == a with
  | some (_, w) => .line (BitVec.ofNat 512 (w.toNat <<< (8 * (a % 64))))
  | none => s.ioRead cx a
/-- An entry that leads to a table stays in the walk cache. -/
def Iommu.keepPte (r : Iommu) (a : Nat) (w : Word) : Iommu := { r with wcache := ((a, w) :: r.wcache.filter fun x => x.1 != a).take 256 }

/-- The end of a stage's walk. -/
inductive IoWalk where
  | leaf (s : State) (pte : Word) (level : Nat)
  | fault (s : State) (f : IoFault)
  | wait (n : IoNeed)
  deriving DecidableEq, Repr

/-- What a stage's walk needs: its regime, the address it translates, whether the access writes, whether it updates A and D, and whether it
serves the address of a first-stage PTE. -/
structure IoStage where
  rg : Regime
  va : Nat
  write : Bool
  ade : Bool
  implicit : Bool
  deriving DecidableEq, Repr

/-- The fault of a walk at a level with a reason of R60. -/
def IoStage.fault (k : IoStage) (write : Bool) (reason level ptea : Nat) : IoFault :=
  let g := k.rg == .g
  let cause := if reason = 8 then 274
    else if reason = 6 ∨ reason = 7 then (if write then 7 else 5)
    else if g then (if write then 23 else 21) else (if write then 15 else 13)
  { cause := cause, iotval2 := if g && (cause == 21 || cause == 23) then BitVec.ofNat 64 (k.va / 4 * 4 + b2n k.implicit) else 0,
    walk := some (xwfdWord (stageCode k.rg) level reason ptea), quiet := false }

/-- What one PTE of a stage's walk gives: the next table, or the end. -/
inductive IoStep where
  | table (s : State) (ppn : Nat)
  | done (r : IoWalk)
  deriving DecidableEq, Repr

/-- What a table address of the first stage becomes under the second. -/
inductive IoAddr where
  | ok (s : State) (a : Nat)
  | fault (s : State) (f : IoFault)
  | wait (n : IoNeed)
  deriving DecidableEq, Repr

/-- Physical address of a table address, for an access that reads or writes it. -/
abbrev IoConv : Type := State → Nat → Bool → IoAddr

/-- The PTE of level `l` in the table at `ppn`. `w` is whether the access that a fault reports is a write. -/
def State.ioStep (s : State) (cx : IoCx) (conv : IoConv) (k : IoStage) (w : Bool) (top ppn l : Nat) : IoStep :=
  let ga := pteAddr ppn k.va l (k.rg == .g && l == top)
  match conv s ga false with
  | .wait n => .done (.wait n)
  | .fault s f => .done (.fault s f)
  | .ok s a =>
    let bad (reason : Nat) : IoStep := .done (.fault s (k.fault w reason l a))
    match s.ioPte cx a with
    | .wait n => .done (.wait n)
    | .denied r => bad r
    | .poison => bad 8
    | .line d =>
      let p := lineWord d a
      if !(pbit p 0) then bad 1
      else if pteReserved p l then bad 2
      else if !(pbit p 1 || pbit p 3) then .table (s.updIommu cx.e fun r => r.keepPte a p) (ptePpn p)
      else if ptePpn p % 2 ^ (9 * l) ≠ 0 then bad 4
      else if !(leafOk (pbit p 1) (pbit p 2) (pbit p 3) (pbit p 4) (if k.write then .store else .load) true false false false) then bad 3
      else if !(pbit p 6) || (k.write && !(pbit p 7)) then
        (if !k.ade then bad 3 else
         match conv s ga true with
         | .wait n => .done (.wait n)
         | .fault s f => .done (.fault s f)
         | .ok _ a => .done (.wait (.cas a p (p ||| 0x40 ||| (if k.write then 0x80 else 0)))))
      else .done (.leaf s p l)

/-- Walks one stage from level `l` with its table at `ppn`; a level 0 entry is a leaf or reserved. -/
def State.ioWalk (s : State) (cx : IoCx) (conv : IoConv) (k : IoStage) (w : Bool) (top ppn : Nat) : Nat → IoWalk
  | 0 => (match s.ioStep cx conv k w top ppn 0 with | .done r => r | .table s _ => .fault s (k.fault w 2 0 0))
  | l + 1 => (match s.ioStep cx conv k w top ppn (l + 1) with | .done r => r | .table s p => State.ioWalk s cx conv k w top p l)

/-- Address under a leaf. -/
def leafAddr (p : Word) (l a : Nat) : Nat := (ptePpn p / 2 ^ (9 * l)) * 2 ^ (12 + 9 * l) + a % 2 ^ (12 + 9 * l)

/-- The result of a second-stage translation. -/
inductive IoG where
  | ok (s : State) (pa : Nat) (pte : Word) (level : Nat)
  | fault (s : State) (f : IoFault)
  | wait (n : IoNeed)
  deriving DecidableEq, Repr

/-- Second stage under iohgatp; in Bare mode the address stands. `w` is whether the access reported is a write. -/
def State.ioG (s : State) (cx : IoCx) (hg : Word) (gade : Bool) (gpa : Nat) (write w implicit : Bool) : IoG :=
  let n := atpLevels hg
  if n = 0 then .ok s gpa 0 5 else
  let k : IoStage := { rg := .g, va := gpa, write := write, ade := gade, implicit := implicit }
  if ¬ gpa < 2 ^ (14 + 9 * n) then .fault s (k.fault w 5 (n - 1) 0) else
  match s.ioWalk cx (fun s a _ => .ok s a) k w (n - 1) (atpPpn hg) (n - 1) with
  | .wait n => .wait n
  | .fault s f => .fault s f
  | .leaf s p l => .ok s (leafAddr p l gpa) p l

/-! ### Contexts (R286, R288, R436) -/

/-- Dword `i` of a device context in the extended format. -/
def dcWord (dc : BitVec 512) (i : Nat) : Word := BitVec.ofNat 64 (fld dc (64 * i + 63) (64 * i))
def dcTc (dc : BitVec 512) : Word := dcWord dc 0

/-- A device context that the IOMMU supports (R286; cause 259 otherwise). -/
def dcOk (dc : BitVec 512) : Bool :=
  let tc := dcTc dc
  let hg := dcWord dc 1
  let fsc := dcWord dc 3
  let mp := dcWord dc 4
  let b (i : Nat) : Bool := tc.getLsbD i
  !(b 1) && !(b 2) && !(b 3) && !(b 6) && !(b 10) && !(b 11) && fld tc 63 12 == 0 && !(b 9 && !(b 5)) &&
    ([0, 8, 9, 10].contains (fld hg 63 60)) && (fld hg 63 60 == 0 || fld hg 1 0 == 0) &&
    fld (dcWord dc 2) 11 0 == 0 && fld (dcWord dc 2) 63 32 == 0 && fld fsc 59 44 == 0 &&
    (if b 5 then decide (fld fsc 63 60 ≤ 3) else [0, 8, 9, 10].contains (fld fsc 63 60)) &&
    decide (fld mp 63 60 ≤ 1) && fld mp 59 44 == 0 && fld (dcWord dc 5) 63 52 == 0 && fld (dcWord dc 6) 63 52 == 0 && dcWord dc 7 == 0

/-- Device ID and process ID of a requester (R288). A channel of an engine belongs to an instance or to none. -/
def State.ioIds (s : State) (e : Nat) : IoReq → Nat × Option Nat
  | .pcie c rid pasid => (c.val * 0x1_0000 + rid.toNat, pasid.map fun p => p.toNat)
  | .channel c =>
    match (tabGet Dma.reset s.eng.chans (32 * e + c.val)).inst with
    | some n => (0x80_0000 + n.val, none)
    | none => (0x80_00FF, none)

/-- Whether counter `k` takes IOMMU event `ev` of a device: it selects the event, is not inhibited, and its device filter matches (HPM). -/
def Iommu.takes (r : Iommu) (k ev did : Nat) : Bool :=
  let sel := tabGet 0 r.other (0x160 + 8 * k)
  fld sel 14 0 == ev && !(bitOf ((tabGet 0 r.other 0x58).toNat / 2 ^ 32) (k + 1)) && (!(sel.getLsbD 61) || sel.getLsbD 62 || fld sel 59 36 == did)

/-- Counts IOMMU event `ev` in the counters that take it; one that wraps sets OF of its event register and raises the interrupt pmip, once until OF is cleared (HPM). -/
def State.ioCount (s : State) (e ev did : Nat) : State :=
  ((List.range 31).filter fun k => (s.iommuSt e).takes k ev did).foldl (fun s k =>
    let r := s.iommuSt e
    let v := tabGet 0 r.other (0x68 + 8 * k) + 1
    let sel := tabGet 0 r.other (0x160 + 8 * k)
    let s := s.setIommu e { r with other := tabSet 0 r.other (0x68 + 8 * k) v }
    if v ≠ 0 ∨ sel.getLsbD 63 then s
    else (s.updIommu e fun r => { r with other := tabSet 0 r.other (0x160 + 8 * k) (sel ||| 0x8000_0000_0000_0000) }).iommuIrq e 2) s

/-- A context lookup. -/
inductive IoCtx where
  | ok (s : State) (dc : BitVec 512)
  | bare (s : State)
  | fault (s : State) (f : IoFault)
  | wait (n : IoNeed)
  deriving DecidableEq, Repr

/-- The device directory walk: non-leaf entries of 8 bytes, contexts of 64 bytes. -/
def State.ddtWalk (s : State) (cx : IoCx) (did ppn : Nat) : Nat → IoCtx
  | 0 =>
    (match s.ioRead cx (ppn * 4096 + did % 64 * 64) with
    | .wait n => .wait n
    | .denied _ => .fault s (ioFault 257)
    | .poison => .fault s (ioFault 268)
    | .line dc =>
      if !(dc.getLsbD 0) then .fault s (ioFault 258) else if !(dcOk dc) then .fault s (ioFault 259) else .ok s dc)
  | l + 1 =>
    let i := if l = 0 then did / 2 ^ 6 % 512 else did / 2 ^ 15 % 512
    match s.ioRead cx (ppn * 4096 + i * 8) with
    | .wait n => .wait n
    | .denied _ => .fault s (ioFault 257)
    | .poison => .fault s (ioFault 268)
    | .line d =>
      let w := lineWord d (i * 8)
      if !(w.getLsbD 0) then .fault s (ioFault 258)
      else if fld w 9 1 ≠ 0 ∨ fld w 63 54 ≠ 0 then .fault s (ioFault 259)
      else s.ddtWalk cx did (fld w 53 10) l

/-- The context of a device: none while the mode is Off; an instance's from the on-chip table in every other mode; Bare for other devices in Bare
mode; else the cache or the directory (R287, R288, R289, R294, R436). -/
def State.ioContext (s : State) (cx : IoCx) (did : Nat) : IoCtx :=
  let e := cx.e
  let r := s.iommuSt e
  let mode := fld r.ddtp 3 0
  if mode = 0 then .fault s (ioFault 256)
  else if 0x80_0000 ≤ did ∧ did < 0x80_0040 then
    (match tabGet none r.insts (did - 0x80_0000) with | some dc => .ok s dc | none => .fault s (ioFault 258))
  else if 0x80_0040 ≤ did ∧ did < 0x80_00FF then .fault s (ioFault 258)
  else if mode = 1 then .bare s
  else if (mode = 2 ∧ 64 ≤ did) ∨ (mode = 3 ∧ 2 ^ 15 ≤ did) then .fault s (ioFault 260)
  else match r.dcache.find? fun x => x.1 == did with
    | some (_, dc) => .ok s dc
    | none =>
      match (s.ioCount e 5 did).ddtWalk cx did (fld r.ddtp 53 10) (mode - 2) with
      | .ok s dc => .ok (s.updIommu e fun r => { r with dcache := ((did, dc) :: r.dcache).take 128 }) dc
      | x => x

/-- A process context. -/
inductive IoPc where
  | ok (s : State) (pc : BitVec 128)
  | fault (s : State) (f : IoFault)
  | wait (n : IoNeed)
  deriving DecidableEq, Repr

/-- The process directory walk; its addresses are guest physical under a second stage. -/
def State.pdtWalk (s : State) (cx : IoCx) (hg : Word) (gade write : Bool) (pid ppn : Nat) : Nat → IoPc
  | 0 =>
    (match s.ioG cx hg gade (ppn * 4096 + pid % 256 * 16) false write true with
    | .wait n => .wait n
    | .fault s f => .fault s f
    | .ok s a _ _ =>
      match s.ioRead cx a with
      | .wait n => .wait n
      | .denied _ => .fault s (ioFault 265)
      | .poison => .fault s (ioFault 269)
      | .line d =>
        let w := lineWord d a
        let pc : BitVec 128 := BitVec.ofNat 128 (lineBytes d (a % 64) 16)
        if !(w.getLsbD 0) then .fault s (ioFault 266)
        else if fld w 11 3 ≠ 0 ∨ fld w 63 32 ≠ 0 ∨ fld pc 123 108 ≠ 0 ∨ !([0, 8, 9, 10].contains (fld pc 127 124)) then .fault s (ioFault 267)
        else .ok s pc)
  | l + 1 =>
    let i := if l = 0 then pid / 2 ^ 8 % 512 else pid / 2 ^ 17 % 8
    match s.ioG cx hg gade (ppn * 4096 + i * 8) false write true with
    | .wait n => .wait n
    | .fault s f => .fault s f
    | .ok s a _ _ =>
      match s.ioRead cx a with
      | .wait n => .wait n
      | .denied _ => .fault s (ioFault 265)
      | .poison => .fault s (ioFault 269)
      | .line d =>
        let w := lineWord d a
        if !(w.getLsbD 0) then .fault s (ioFault 266)
        else if fld w 9 1 ≠ 0 ∨ fld w 63 54 ≠ 0 then .fault s (ioFault 267)
        else s.pdtWalk cx hg gade write pid (fld w 53 10) l

/-! ### Translation (R288 to R291) -/

/-- The outcome of an inbound access at the IOMMU. -/
inductive IoRes where
  | ok (s : State) (pa : Nat)
  | fault (s : State) (f : IoFault) (quiet : Bool)   -- quiet: the device context disables fault reporting
  | wait (n : IoNeed)
  deriving DecidableEq, Repr

/-- The bits of `v` that `m` selects, packed. -/
def extractBits (v m n : Nat) : Nat := ((List.range n).filter fun i => bitOf m i).foldr (fun i acc => b2n (bitOf v i) + 2 * acc) 0

/-- Whether an address names an IMSIC file of this package (R24, R291). -/
def State.isImsic (s : State) (pa : Nat) : Bool :=
  s.isLocal pa && (match (locate (paLa pa / 4096 * 4096)).1 with | .seteipnum h f => fileExists h f | _ => false)

/-- MSI translation in flat mode of a guest address that matches the pattern: the page of the named IMSIC file. -/
def State.msiPte (s : State) (cx : IoCx) (dc : BitVec 512) (gpa : Nat) (quiet : Bool) : IoRes :=
  let i := extractBits (gpa / 4096) (fld (dcWord dc 5) 51 0) 52
  let a := fld (dcWord dc 4) 43 0 * 4096 + i * 16
  match s.ioRead cx a with
  | .wait n => .wait n
  | .denied _ => .fault s (ioFault 261) quiet
  | .poison => .fault s (ioFault 270) quiet
  | .line d =>
    let w := lineWord d a
    let pa := fld w 53 10 * 4096 + gpa % 4096
    if !(w.getLsbD 0) then .fault s (ioFault 262) quiet
    else if w.getLsbD 63 || fld w 2 1 != 3 || fld w 9 3 != 0 || fld w 62 54 != 0 || lineWord d (a + 8) != 0 || !(s.isImsic pa) then .fault s (ioFault 263) quiet
    else .ok s pa

/-- Whether a write's address matches the context's MSI pattern. -/
def msiMatch (dc : BitVec 512) (gpa : Nat) : Bool :=
  fld (dcWord dc 4) 63 60 == 1 &&
    ((gpa / 4096) &&& (2 ^ 52 - 1 - fld (dcWord dc 5) 51 0)) == (fld (dcWord dc 6) 51 0 &&& (2 ^ 52 - 1 - fld (dcWord dc 5) 51 0))

/-- Entry of the IOTLB that gives the access its translation. -/
def IoTlb.hits (t : IoTlb) (gscid pscid vpn : Nat) (first second write : Bool) : Bool :=
  t.gscid == gscid && (t.g || !first || t.pscid == pscid) && t.first == first && t.second == second &&
    decide (t.vpn / 2 ^ (9 * t.level) = vpn / 2 ^ (9 * t.level)) && (if write then t.w else t.r)

/-- Both stages for an address with first-stage root `atp` (Bare: mode 0) under `dc`. -/
def State.ioStages (s : State) (cx : IoCx) (did : Nat) (dc : BitVec 512) (atp : Word) (pscid : Nat) (iova : Nat) (write : Bool) : IoRes :=
  let e := cx.e
  let tc := dcTc dc
  let hg := dcWord dc 1
  let gscid := fld hg 59 44
  let n1 := atpLevels atp
  let ng := atpLevels hg
  let quiet := tc.getLsbD 4
  let second (s : State) (gpa : Nat) (p1 : Option (Word × Nat)) : IoRes :=
    if write && msiMatch dc gpa then s.msiPte cx dc gpa quiet else
    match s.ioG cx hg (tc.getLsbD 7) gpa write write false with
    | .wait n => .wait n
    | .fault s f => .fault s f quiet
    | .ok s pa p l =>
      if n1 = 0 ∧ ng = 0 then .ok s pa else
      let lv := match p1 with | some (_, l1) => if ng = 0 then l1 else min l l1 | none => l
      let g := match p1 with | some (p1, _) => pbit p1 5 | none => false
      let rd := (match p1 with | some (p1, _) => pbit p1 1 | none => true) && (ng == 0 || pbit p 1)
      let wr := (match p1 with | some (p1, _) => pbit p1 2 && pbit p1 7 | none => true) && (ng == 0 || (pbit p 2 && pbit p 7))
      let t : IoTlb := { gscid := gscid, pscid := pscid, vpn := iova / 4096, level := lv, ppn := pa / 4096, r := rd, w := wr, first := n1 != 0, second := ng != 0,
                         g := g, gvpn := gpa / 4096 }
      .ok (s.updIommu e fun r => { r with iotlb := (t :: r.iotlb).take 2048 }) pa
  match (s.iommuSt e).iotlb.find? fun t => t.hits gscid pscid (iova / 4096) (n1 != 0) (ng != 0) write &&
      !(write && msiMatch dc ((t.gvpn / 2 ^ (9 * t.level) * 2 ^ (9 * t.level) + iova / 4096 % 2 ^ (9 * t.level)) * 4096)) with
  | some t => .ok s ((t.ppn / 2 ^ (9 * t.level)) * 2 ^ (12 + 9 * t.level) + iova % 2 ^ (12 + 9 * t.level))
  | none =>
    let s := ((s.ioCount e 4 did).count (iommuStop e) 1 2 1 none).count (iommuStop e) 1 3 (if n1 = 0 && ng = 0 then 0 else 1) none
    let s := if n1 = 0 then s else s.ioCount e 7 did
    let s := if ng = 0 then s else s.ioCount e 8 did
    if n1 = 0 then second s iova none else
    let k : IoStage := { rg := if ng = 0 then .single else .vs, va := iova, write := write, ade := tc.getLsbD 8, implicit := false }
    if !(canonical (BitVec.ofNat 64 iova) (12 + 9 * n1)) then .fault s (k.fault write 5 (n1 - 1) 0) quiet else
    let conv (s : State) (a : Nat) (w : Bool) : IoAddr :=
      match s.ioG cx hg (tc.getLsbD 7) a w write true with
      | .ok s a _ _ => .ok s a
      | .fault s f => .fault s f
      | .wait n => .wait n
    match s.ioWalk cx conv k write (n1 - 1) (atpPpn atp) (n1 - 1) with
    | .wait n => .wait n
    | .fault s f => .fault s f quiet
    | .leaf s p l => second s (leafAddr p l iova) (some (p, l))

/-- Translates an inbound access of device `did` with what the walk under way has read (R287 to R291). -/
def State.ioTranslate (s : State) (cx : IoCx) (did : Nat) (pid : Option Nat) (iova : Nat) (write : Bool) : IoRes :=
  let e := cx.e
  match s.ioContext cx did with
  | .wait n => .wait n
  | .fault s f => .fault s f false
  | .bare s => if pid.isSome then .fault s (ioFault 260) false else if iova < 2 ^ 56 then .ok s iova else .fault s (ioFault (if write then 7 else 5)) false
  | .ok s dc =>
    let tc := dcTc dc
    let quiet := tc.getLsbD 4
    if !(tc.getLsbD 5) then
      (if pid.isSome then .fault s (ioFault 260) quiet
       else s.ioStages cx did dc (dcWord dc 3) (fld (dcWord dc 2) 31 12) iova write)
    else
      match (if pid.isNone && tc.getLsbD 9 then some 0 else pid) with
      | none => s.ioStages cx did dc 0 0 iova write
      | some p =>
        let mode := fld (dcWord dc 3) 63 60
        if mode = 0 then s.ioStages cx did dc 0 0 iova write
        else if (mode = 1 ∧ 2 ^ 8 ≤ p) ∨ (mode = 2 ∧ 2 ^ 17 ≤ p) then .fault s (ioFault 260) quiet
        else
          let key := did * 2 ^ 20 + p
          let go (s : State) (pc : BitVec 128) : IoRes :=
            s.ioStages cx did dc (BitVec.ofNat 64 (fld pc 127 64)) (fld pc 31 12) iova write
          match (s.iommuSt e).pcache.find? fun x => x.1 == key with
          | some (_, pc) => go s pc
          | none =>
            match (s.ioCount e 6 did).pdtWalk cx (dcWord dc 1) (tc.getLsbD 7) write p (fld (dcWord dc 3) 43 0) (mode - 1) with
            | .wait n => .wait n
            | .fault s f => .fault s f quiet
            | .ok s pc => go (s.updIommu e fun r => { r with pcache := ((key, pc) :: r.pcache).take 128 }) pc

/-- WALK record of an IOMMU walk fault (R295, R499). -/
def State.ioWalkRec (s : State) (e : Nat) (f : IoFault) (req : Node) (tag iova : Nat) : State :=
  match f.walk with
  | some w =>
    s.logErr { mkErr 0x0D 2 (iommuStop e) false with pa := some (iova % 2 ^ 56), req := some (s.pma.pkgId.toNat, req, tag), detail := w.toNat }
  | none => s

/-- The node of a requester. -/
def ioNode (e : Nat) : IoReq → Node
  | .pcie c _ _ => pcieNode (3 * e + c.val)
  | .channel _ => engineNode e

/-- Device and process ID, address and direction of a walker's translation; the debug request's stand in its registers. -/
def State.walkOf (s : State) (e : Nat) (w : IoWalker) : Nat × Option Nat × Nat × Bool :=
  match w.req with
  | some r => let (did, pid) := s.ioIds e r; (did, pid, w.iova.toNat, w.write)
  | none =>
    let ctl := tabGet 0 (s.iommuSt e).other 0x260
    (fld ctl 63 40, if ctl.getLsbD 32 then some (fld ctl 31 12) else none, w.iova.toNat, w.write)

/-- A walker sends what it waits for: a read of the line at its home, in the ordinary class, or the compare-and-swap (R169, R290, R296). -/
def State.walkAsk (s : State) (e tag : Nat) (n : IoNeed) : State :=
  let ask (op : MsgOp) (la bytes : Nat) (f : Flit → Flit) : State :=
    match s.dest (s.pma.pkgId.toNat * 2 ^ 47 + la) 100000 false with
    | .node nd rpkg _ => s.send (f (ncFlit op (iommuNode e) nd la tag rpkg (maskOf (la % 64) bytes)))
    | .done _ => s
  match n with
  | .read la => ask .readNc la 64 fun f => { f with size := 64 }
  | .cas pa old new =>
    let o := paLa pa % 64
    ask .atomicNc (paLa pa) 8 fun f => { f with fn := .cas, size := 8, data := some (atOffset o new.toNat ||| atOffset (casOffset o) old.toNat) }

/-- The debug request is done: its result stands in tr_response (DBG). -/
def State.debugDone (s : State) (e : Nat) (w : Word) : State :=
  s.updIommu e fun r => { r with other := tabSet 0 (tabSet 0 r.other 0x260 (tabGet 0 r.other 0x260 &&& ~~~1)) 0x268 w }

/-- The walk goes on with what it has read, from its start: it waits for its next line, or it ends. What it has found stays for its access where the IOTLB
does not hold it. -/
def State.walkRun (s : State) (e : Nat) (w : IoWalker) : State :=
  let (did, pid, iova, write) := s.walkOf e w
  let free (s : State) : State := s.updIommu e fun r => { r with walkers := r.walkers.filter fun x => x.tag != w.tag }
  let hold (s : State) (res : Nat ⊕ IoFault) : State :=
    match w.req with
    | some r => s.updIommu e fun i => { i with held := i.held ++ [{ req := r, iova := w.iova, write := write, res := res }] }
    | none => s.debugDone e (match res with | .inl pa => BitVec.ofNat 64 (pa / 4096 * 2 ^ 10) | .inr _ => 1)
  match s.ioTranslate { e := e, reads := w.reads } did pid iova write with
  | .wait n => (s.updIommu e fun r => { r with walkers := r.walkers.map fun x => if x.tag = w.tag then { w with asked := n, restart := false } else x }).walkAsk e w.tag n
  | .ok t pa =>
    let t := free t
    (match w.req.isSome, t.ioTranslate { e := e, reads := [] } did pid iova write with
    | true, .ok _ _ => t
    | _, _ => hold t (.inl pa))
  | .fault t f quiet => hold (free t) (.inr { f with quiet := quiet })

/-- A free walker for a translation: 4 of the 16 serve guaranteed-class requests, and ordinary walks never take them (R289, R296). -/
def Iommu.walker (r : Iommu) (guar : Bool) : Option Nat :=
  if (r.walkers.filter fun w => w.guar == guar).length < (if guar then 4 else 12) then (List.range 16).find? fun t => !(r.walkers.any fun w => w.tag == t) else none

/-- Starts the walk of a translation that waits for `n`, where it is not under way and a walker is free. -/
def State.walkStart (s : State) (e : Nat) (req : Option IoReq) (iova : Word) (write guar : Bool) (n : IoNeed) : State :=
  let r := s.iommuSt e
  if r.walkers.any fun w => w.req == req && w.iova == iova && w.write == write then s else
  match r.walker guar with
  | none => s
  | some t =>
    (s.setIommu e { r with
      walkers := r.walkers ++ [{ tag := t, req := req, iova := iova, write := write, guar := guar, reads := [], asked := n, restart := false }] }).walkAsk e t n

/-- What a walk reads now makes its earlier reads void: it begins again (R276, R293). -/
def Iommu.restartWalks (r : Iommu) : Iommu := { r with walkers := r.walkers.map fun w => { w with reads := [], restart := true }, held := [], wcache := [] }

/-- The bytes of a line that a compare-and-swap has changed. -/
def IoWalker.swapped (w : IoWalker) (pa : Nat) (new : Word) : List (Nat × IoLine) :=
  w.reads.map fun (k, l) => if k = paLa pa / 64 then (k, { l with data := mergeLine l.data (atOffset (paLa pa % 64) new.toNat) (maskOf (paLa pa % 64) 8) }) else (k, l)

/-- An answer at an IOMMU: for a walker, the line or the old value of its compare-and-swap, which fails where another value stands and makes the walk begin again
(R276, R290); or for the write of a fault record. -/
def State.ioAnswer (s : State) (e : Nat) (f : Flit) : State :=
  let ok := f.op != .errorReply
  if f.tag.toNat = fqTag then s.faultWritten e ok else
  match (s.iommuSt e).walkers.find? fun w => w.tag == f.tag.toNat with
  | none => s
  | some w =>
    let bad : IoLine := { data := 0, poison := ok, err := !ok }
    let got := ok && !f.poison && f.sts != 4
    s.walkRun e (if w.restart then { w with reads := [] } else
      match w.asked with
      | .read la => { w with reads := (la / 64, if got then { data := f.data.getD 0, poison := false, err := false } else bad) :: w.reads }
      | .cas pa old new =>
        if !got then { w with reads := (paLa pa / 64, bad) :: w.reads.filter fun x => x.1 != paLa pa / 64 }
        else if lineWord (f.data.getD 0) (paLa pa) = old then { w with reads := w.swapped pa new }
        else { w with reads := [] })

/-- What an inbound access meets at its IOMMU: its physical address, a refusal with its reports made, or a walk that it waits for. -/
inductive IoGo where
  | ok (s : State) (pa : Nat)
  | refused (s : State)
  | wait (s : State)
  deriving DecidableEq, Repr

/-- Whether a requester's accesses travel in the guaranteed class: those of an instance with a bandwidth reservation (R296, R366). -/
def State.ioGuar (s : State) (e : Nat) : IoReq → Bool
  | .pcie .. => false
  | .channel c => match (tabGet Dma.reset s.eng.chans (32 * e + c.val)).inst with | some n => (tabGet Instance.reset s.eng.insts n.val).bw != 0 | none => false

/-- The reports of a refused access (R295). -/
def State.refuse (s : State) (e : Nat) (r : IoReq) (iova : Word) (write : Bool) (tag : Nat) (f : IoFault) : State :=
  let (did, pid) := s.ioIds e r
  let s := if f.quiet && !(alwaysReported f.cause) then s else s.faultRecord e f did pid write iova
  s.ioWalkRec e f (ioNode e r) tag iova.toNat

/-- An inbound access at IOMMU `e`: translated, refused, or waiting for a walk (R289, R295, R296). -/
def State.inbound (s : State) (e : Nat) (r : IoReq) (iova : Word) (write : Bool) (tag : Nat) : IoGo :=
  let (did, pid) := s.ioIds e r
  let u := (s.ioCount e 1 did).count (iommuStop e) 1 1 1 none
  match (s.iommuSt e).held.find? fun h => h.req == r && h.iova == iova && h.write == write with
  | some h => (match h.res with | .inl pa => .ok u pa | .inr f => .refused (u.refuse e r iova write tag f))
  | none =>
    match u.ioTranslate { e := e, reads := [] } did pid iova.toNat write with
    | .ok s pa => .ok s pa
    | .fault s f quiet => .refused (s.refuse e r iova write tag { f with quiet := quiet })
    | .wait n => .wait (s.walkStart e (some r) iova write (s.ioGuar e r) n)
/-- The access no longer waits: what was kept for its requester goes. -/
def State.ioTaken (s : State) (e : Nat) (r : IoReq) : State := s.updIommu e fun i => { i with held := i.held.filter fun h => h.req != r }

/-- IOMMU_TRANSLATE: an access of an engine channel or a PCIe controller at its IOMMU; each byte's page is translated, the first fault decides
(R289 to R296). -/
def execIommuTranslate (e : Fin 2) (r : IoReq) (iova : Word) (write : Bool) (size : Nat) (s : State) : Res :=
  let last := iova + BitVec.ofNat 64 (size - 1)
  .next (match s.inbound e.val r iova write 0 with
  | .wait s => s
  | .refused s => s.ioTaken e.val r
  | .ok s _ =>
    if iova.toNat / 4096 = last.toNat / 4096 then s.ioTaken e.val r else
    match s.inbound e.val r (BitVec.ofNat 64 (last.toNat / 4096 * 4096)) write 0 with
    | .wait s => s
    | .refused s => s.ioTaken e.val r
    | .ok s _ => s.ioTaken e.val r)

/-- An access that has been translated and not yet performed (R293). -/
def State.ioBegin (s : State) (e tag : Nat) (write : Bool) (pa deadline : Nat) : State :=
  s.updIommu e fun r => { r with inflight := r.inflight ++ [{ tag := tag, write := write, stale := false, pa := pa, deadline := deadline }] }
/-- The access has been performed, or has ended with an error. -/
def State.ioEnd (s : State) (e tag : Nat) : State :=
  s.updIommu e fun r => { r with
    inflight := r.inflight.filter fun a => a.tag != tag
    fence := r.fence.map fun f => { f with waits := f.waits.filter fun t => t != tag } }

/-! ### The command queue (R292, R293) -/

/-- Whether the next command of the queue may be processed: the queue is on, not stopped, not empty, and no IOFENCE.C waits. -/
def Iommu.cmdReady (r : Iommu) : Bool :=
  r.cqcsr.getLsbD 16 && !(r.cqcsr.getLsbD 8) && !(r.cqcsr.getLsbD 9) && !(r.cqcsr.getLsbD 10) && r.cqh != r.cqt && r.fence.isNone
/-- The command has been processed. -/
def Iommu.cmdDone (r : Iommu) : Iommu := { r with cqh := BitVec.ofNat 32 ((r.cqh.toNat + 1) % queueSize r.cqb) }
/-- An illegal command stops the queue. -/
def State.cmdIllegal (s : State) (e : Nat) : State :=
  let s := s.updIommu e fun r => { r with cqcsr := putFld r.cqcsr 10 10 1 }
  if (s.iommuSt e).cqcsr.getLsbD 1 then s.iommuIrq e 0 else s

/-- Runs the command at the head of the queue. Accesses in flight may have used what an invalidation removes (R293). -/
def State.iommuCmd (s : State) (e : Nat) (legal : Bool) (f : Iommu → Iommu) : State :=
  let r := s.iommuSt e
  if !r.cmdReady then s else if !legal then s.cmdIllegal e else
  s.setIommu e { (f r).restartWalks.cmdDone with inflight := r.inflight.map fun a => { a with stale := true } }

/-- IOTINVAL_VMA: first-stage entries of the address space (R292, R294). -/
def execIotinvalVma (e : Fin 2) (addr : Option Word) (gscid : Option (BitVec 16)) (pscid : Option (BitVec 20)) (s : State) : Res :=
  .next (s.iommuCmd e.val true fun r => { r with iotlb := r.iotlb.filter fun t =>
    !(t.first && (match gscid with | some g => t.second && t.gscid == g.toNat | none => !t.second) &&
      (match pscid with | some p => t.pscid == p.toNat && !t.g | none => true) &&
      (match addr with | some a => decide (t.vpn / 2 ^ (9 * t.level) = a.toNat / 4096 / 2 ^ (9 * t.level)) | none => true)) })

/-- IOTINVAL_GVMA: second-stage entries; naming a PSCID is illegal (R292). -/
def execIotinvalGvma (e : Fin 2) (addr : Option Word) (gscid : Option (BitVec 16)) (pscid : Option (BitVec 20)) (s : State) : Res :=
  .next (s.iommuCmd e.val pscid.isNone fun r => { r with iotlb := r.iotlb.filter fun t =>
    !(t.second && (match gscid with
      | some g => t.gscid == g.toNat && (match addr with | some a => decide (t.gvpn / 2 ^ (9 * t.level) = a.toNat / 4096 / 2 ^ (9 * t.level)) | none => true)
      | none => true)) })

/-- IODIR_INVAL_DDT: the device's cached context and its process contexts, or all (R292). -/
def execIodirInvalDdt (e : Fin 2) (did : Option (BitVec 24)) (s : State) : Res :=
  .next (s.iommuCmd e.val true fun r => match did with
  | none => { r with dcache := [], pcache := [] }
  | some d => { r with dcache := r.dcache.filter fun x => x.1 != d.toNat, pcache := r.pcache.filter fun x => x.1 / 2 ^ 20 != d.toNat })

/-- IODIR_INVAL_PDT: one process context (R292). -/
def execIodirInvalPdt (e : Fin 2) (did : BitVec 24) (pid : BitVec 20) (s : State) : Res :=
  .next (s.iommuCmd e.val true fun r => { r with pcache := r.pcache.filter fun x => x.1 != did.toNat * 2 ^ 20 + pid.toNat })

/-- IOFENCE_C: waits for the accesses that used removed entries, and with PW for every earlier inbound write, with PR for every earlier read;
WSI is illegal (R292, R293). -/
def execIofenceC (e : Fin 2) (av pr pw wsi : Bool) (addr : Pa) (data : BitVec 32) (s : State) : Res :=
  let r := s.iommuSt e.val
  .next (if !r.cmdReady then s else if wsi then s.cmdIllegal e.val else
    s.setIommu e.val { r with
      fence := some { av := av, pw := pw, addr := addr.toNat, data := data,
                      waits := (r.inflight.filter fun a => a.stale || (pw && a.write) || (pr && !a.write)).map (·.tag) } })

/-- IOFENCE_C_COMPLETE: nothing is waited for any more; the AV write goes out, and the command is done (R293). A write that cannot be made sets cqmf. -/
def execIofenceCComplete (e : Fin 2) (s : State) : Res :=
  let r := s.iommuSt e.val
  .next (match r.fence with
  | none => s
  | some f =>
    if f.waits ≠ [] then s else
    let s := s.setIommu e.val { r.cmdDone with fence := none }
    if !f.av then s else
    match s.dest f.addr 100000 true with
    | .node n rpkg _ =>
      s.send { s.attrs f.addr (ncFlit .writeNc (iommuNode e.val) n (paLa f.addr) 17 rpkg (maskOf (f.addr % 64) 4)) with data := some (atOffset (f.addr % 64) f.data.toNat) }
    | .done 0 => s
    | .done _ =>
      let s := s.updIommu e.val fun r => { r with cqcsr := putFld r.cqcsr 8 8 1 }
      if (s.iommuSt e.val).cqcsr.getLsbD 1 then s.iommuIrq e.val 0 else s)

/-! ### The register file (R286, R287) -/

/-- capabilities (R286). -/
def iommuCaps : Word :=
  BitVec.ofNat 64 (0x10 + (2 ^ 9 + 2 ^ 10 + 2 ^ 11) + (2 ^ 17 + 2 ^ 18 + 2 ^ 19) + 2 ^ 22 + 2 ^ 24 + 2 ^ 30 + 2 ^ 31 + 56 * 2 ^ 32 + 2 ^ 38 + 2 ^ 39 + 2 ^ 40)

/-- Reads a register by offset; 32-bit registers in the low half. -/
def State.iommuRead (s : State) (e off : Nat) : Word :=
  let r := s.iommuSt e
  match off with
  | 0x00 => iommuCaps
  | 0x08 => r.fctl.setWidth 64
  | 0x10 => r.ddtp
  | 0x18 => r.cqb
  | 0x20 => r.cqh.setWidth 64
  | 0x24 => r.cqt.setWidth 64
  | 0x28 => r.fqb
  | 0x30 => r.fqh.setWidth 64
  | 0x34 => r.fqt.setWidth 64
  | 0x48 => r.cqcsr.setWidth 64
  | 0x4C => r.fqcsr.setWidth 64
  | 0x54 => r.ipsr.setWidth 64
  | 0x58 => BitVec.ofNat 64 ((List.range 31).foldl (fun v k => v + b2n ((tabGet 0 r.other (0x160 + 8 * k)).getLsbD 63) * 2 ^ (k + 1)) 0)
  | 0x5C => BitVec.ofNat 64 ((tabGet 0 r.other 0x58).toNat / 2 ^ 32)
  | 0x2F8 => r.icvec
  | _ => if off < 0x60 then 0 else tabGet 0 r.other off

/-- Turning a queue on starts it empty with its error bits clear; turning it off stops it. `h` is the index it resets. -/
def queueOn (old v : BitVec 32) (w1c : Nat) : BitVec 32 :=
  let keep := BitVec.ofNat 32 (old.toNat &&& (w1c - (w1c &&& v.toNat)))
  let on := v.getLsbD 0
  let fresh := on && !(old.getLsbD 16)
  (if fresh then 0 else keep) ||| BitVec.ofNat 32 (v.toNat % 4 + b2n on * 2 ^ 16)

/-- The debug translation request: it is busy until its translation has ended, with the result in tr_response (DBG). -/
def State.iommuDebug (s : State) (e : Nat) (ctl : Word) : State :=
  let iova := (tabGet 0 (s.iommuSt e).other 0x258).toNat / 4096 * 4096
  let pid := if ctl.getLsbD 32 then some (fld ctl 31 12) else none
  match s.ioTranslate { e := e, reads := [] } (fld ctl 63 40) pid iova (!(ctl.getLsbD 3)) with
  | .ok s pa => s.debugDone e (BitVec.ofNat 64 (pa / 4096 * 2 ^ 10))
  | .fault s _ _ => s.debugDone e 1
  | .wait n => s.walkStart e none (BitVec.ofNat 64 iova) (!(ctl.getLsbD 3)) false n

/-- Writes a register by offset. -/
def State.iommuWrite (s : State) (e off : Nat) (v : Word) : State :=
  let r := s.iommuSt e
  let lo : BitVec 32 := v.setWidth 32
  let qmask : Word := 0x003F_FFFF_FFFF_FC1F
  let idx (b : Word) : BitVec 32 := BitVec.ofNat 32 (lo.toNat % queueSize b)
  match off with
  | 0x10 => if fld v 3 0 ≤ 4 then s.setIommu e { r with ddtp := v &&& 0x003F_FFFF_FFFF_FC0F } else s
  | 0x18 => s.setIommu e { r with cqb := v &&& qmask }
  | 0x24 => s.setIommu e { r with cqt := idx r.cqb }
  | 0x28 => s.setIommu e { r with fqb := v &&& qmask }
  | 0x30 => s.setIommu e { r with fqh := idx r.fqb }
  | 0x48 =>
    let n := queueOn r.cqcsr lo 0xF00
    s.setIommu e { r with
      cqcsr := n, cqh := if lo.getLsbD 0 && !(r.cqcsr.getLsbD 16) then 0 else r.cqh, fence := if lo.getLsbD 0 then r.fence else none }
  | 0x4C =>
    s.setIommu e { r with fqcsr := queueOn r.fqcsr lo 0x300, fqt := if lo.getLsbD 0 && !(r.fqcsr.getLsbD 16) then 0 else r.fqt }
  | 0x54 => s.setIommu e { r with ipsr := r.ipsr &&& ~~~(lo &&& 7) }
  | 0x5C => s.setIommu e { r with other := tabSet 0 r.other 0x58 (BitVec.ofNat 64 (lo.toNat * 2 ^ 32)) }
  | 0x2F8 => s.setIommu e { r with icvec := v &&& 0xFFF }
  | 0x260 =>
    if (tabGet 0 r.other 0x260).getLsbD 0 then s else
    let s := s.setIommu e { r with other := tabSet 0 r.other 0x260 (v &&& 0xFFFF_FF01_FFFF_F00F) }
    if v.getLsbD 0 then s.iommuDebug e (v &&& 0xFFFF_FF01_FFFF_F00F) else s
  | _ =>
    if off = 0x60 ∨ (0x68 ≤ off ∧ off < 0x258) ∨ off = 0x258 then s.setIommu e { r with other := tabSet 0 r.other off v }
    else if 0x300 ≤ off ∧ off < 0x400 then
      let w := if off % 16 = 0 then v &&& 0x00FF_FFFF_FFFF_FFFC else v &&& 0x1_FFFF_FFFF
      let k := off / 16 % 16
      let was := bitOf (tabGet 0 r.other (0x308 + 16 * k)).toNat 32
      let s := s.setIommu e { r with other := tabSet 0 r.other off w }
      -- an interrupt that was held back by the mask is sent when it is unmasked
      if off % 16 = 8 && was && !(w.getLsbD 32) && (List.range 3).any (fun i => r.ipsr.getLsbD i && fld r.icvec (4 * i + 3) (4 * i) == k) then s.iommuMsi e k else s
    else s

end Sys2Proof.Machine
end

