-- ==== Sys2Proof/Machine/Who.lean ====
section
/-!
DEFINITION. Who performs an access (R28, R31), and how a write of a register that its master may not write is ignored and logged (R31, R287, R343,
R499 causes 0x0E and 0x17).
-/
namespace Sys2Proof.Machine

/-- The agent that sends a master's requests (R200). A remote package's requests have no agent of this package. -/
def masterNode : Master → Node
  | .hart h _ => hartNode h
  | .engine e => engineNode e.val
  | .root i => pcieNode i.val
  | .rennet => mgmtNode
  | .remote _ => mkNode 0 0
  | .sba => mkNode (stopId 0 32) 0

/-- Package of a master. -/
def State.masterPkg (s : State) : Master → Nat | .remote p => p.val | _ => s.pma.pkgId.toNat

def isRemote : Master → Bool | .remote _ => true | _ => false

/-- Whether a master may write a register under its guard. A hart below M-mode has met its access fault before the write leaves (R31). -/
def mayWrite (g : Guard) (who : Master) : Bool :=
  match g, who with
  | .open_, _ => true
  | .r31, .hart _ md => md == .m
  | .r31, .sba => true
  | .harts, .hart _ _ => true
  | .harts, .sba => true
  | _, _ => false

/-- PMA index of a refused write: the entry's, or the one that MS_PMA_CTL selects. -/
def State.pmaIndexOf (s : State) (r : DevReg) : Nat :=
  match r with
  | .entBase n | .entLimit n | .entAttr n => n
  | _ => s.pma.index.toNat

/-- WRITE_IGNORED or PMA_WRITE_IGNORED at the stop of the register. -/
def State.writeIgnored (s : State) (r : DevReg) (la : Nat) (n : Node) (who : Master) : State :=
  let e := if r.isPma then { mkErr 0x17 0 (nodeStop n) false with detail := s.pmaIndexOf r } else { mkErr 0x0E 0 (nodeStop n) false with detail := b2n (isRemote who) }
  s.logErr { e with
    sub := n.sub.val, pa := some (s.pma.pkgId.toNat * 2 ^ 47 + la), req := some (s.masterPkg who, masterNode who, 0) }

/-- A store to a device register that the register does not take: the hart that executes it takes a precise exception, and the register keeps its
value (R10, R31). -/
def State.refuseStore (s : State) (h : HartId) (cause la : Nat) : State :=
  s.onHart h 4 fun s => s.trap h (excep cause (BitVec.ofNat 64 (s.pma.pkgId.toNat * 2 ^ 47 + la)))

/-- A write of a register under the rule of R31: performed, or ignored and logged; a hart below M-mode takes a store access fault (R31). -/
def State.r31Write (s : State) (r : DevReg) (la : Nat) (n : Node) (who : Master) (f : State → State) : State :=
  if mayWrite .r31 who then f s
  else match who with
  | .hart h _ => s.refuseStore h 7 la
  | _ => s.writeIgnored r la n who

end Sys2Proof.Machine
end

