-- ==== Sys2Proof/Machine/Engine.lean ====
section
/-!
DEFINITION. Transfer engines: the registers of a channel (R344 to R349), loading of sets (R350 to R356), issue (R339 to R341, R363, R364, R366),
completion and errors (R357 to R365).
-/
namespace Sys2Proof.Machine

/-! ### Channels and instances -/

def State.dma (s : State) (c : Nat) : Dma := tabGet .reset s.eng.chans c
def State.setDma (s : State) (c : Nat) (v : Dma) : State := { s with eng := { s.eng with chans := tabSet .reset s.eng.chans c v } }
def State.updDma (s : State) (c : Nat) (f : Dma → Dma) : State := s.setDma c (f (s.dma c))
def State.instance_ (s : State) (i : Nat) : Instance := tabGet .reset s.eng.insts i
def State.setInstance (s : State) (i : Nat) (v : Instance) : State := { s with eng := { s.eng with insts := tabSet .reset s.eng.insts i v } }
def State.updInstance (s : State) (i : Nat) (f : Instance → Instance) : State := s.setInstance i (f (s.instance_ i))

/-- DE_STATUS.BUSY (R347). -/
def Dma.busy (d : Dma) : Bool := match d.st with | .armed | .run | .drain => true | _ => false
/-- Requests that DE_STATUS.OUTST counts: all but the reads that an instance reset abandoned (R375). -/
def Dma.live (d : Dma) : List DmaReq := d.out.filter fun r => r.set_ != 0
def Dma.writesOut (d : Dma) : Bool := d.out.any fun r => r.write

/-- Fields of DE_CTL (R345). -/
def DmaSet.esize (a : DmaSet) : Nat := if fld a.ctl 21 20 = 0 then 4 else 8
def DmaSet.dfix (a : DmaSet) : Bool := a.ctl.getLsbD 19
def DmaSet.sfix (a : DmaSet) : Bool := a.ctl.getLsbD 18
def DmaSet.fill (a : DmaSet) : Bool := a.ctl.getLsbD 17
def DmaSet.twod (a : DmaSet) : Bool := a.ctl.getLsbD 16
def DmaSet.fence (a : DmaSet) : Bool := a.ctl.getLsbD 7
def DmaSet.trig (a : DmaSet) : Bool := a.ctl.getLsbD 6
def DmaSet.evdone (a : DmaSet) : Bool := a.ctl.getLsbD 4
/-- Bytes that a set moves (R350). -/
def DmaSet.total (a : DmaSet) : Nat := a.len.toNat * (if a.twod then a.rows.toNat else 1)
/-- Address of byte `pos` of a set in rows from `base` (R350). -/
def DmaSet.place (a : DmaSet) (base : Word) (stride : BitVec 32) (fixed : Bool) (pos : Nat) : Word :=
  if fixed then base else base + BitVec.ofNat 64 (pos / a.len.toNat) * stride.signExtend 64 + BitVec.ofNat 64 (pos % a.len.toNat)
def DmaSet.srcAt (a : DmaSet) (pos : Nat) : Word := a.place a.src a.sstride a.sfix pos
def DmaSet.dstAt (a : DmaSet) (pos : Nat) : Word := a.place a.dst a.dstride a.dfix pos
/-- IO_ALIGN rule of R351 for one side of a transfer. -/
def DmaSet.aligned (a : DmaSet) (base : Word) (stride : BitVec 32) : Bool :=
  base.toNat % a.esize == 0 && a.len.toNat % a.esize == 0 && (!a.twod || stride.toNat % a.esize == 0)
/-- BAD_PARAM rules of R351. -/
def DmaSet.badParam (a : DmaSet) : Bool := a.ctl.getLsbD 21 || (a.twod && a.rows == 0)

/-- Fields of DE_CTL that exist. -/
def deCtlMask : BitVec 32 := 0x003F_00D0

/-- The slot of an instance that holds a channel. -/
def Instance.slotOf (v : Instance) (c : Nat) : Option Nat := v.slots.findIdx? fun k => k == c

/-! ### How a channel stops (R357, R359, R362 to R365, R374) -/

/-- The channel enters ERROR: status, FAULT pulse, and the instance's capture (R359, R370, R371, R374). -/
def State.dmaError (s : State) (c code : Nat) (dsc : Bool) : State :=
  let d := s.dma c
  let s := s.setDma c { d with st := .error, code := BitVec.ofNat 8 code, dsc := dsc, ending := none, desc := none, evs := [], wr := [] }
  let s := if d.cfg.getLsbD 1 then s.pulse (64 + c) else s
  match d.inst with
  | none => s
  | some i =>
    let v := s.instance_ i.val
    match v.slotOf c with
    | none => s
    | some j =>
      let v := { v with faults := v.faults ||| BitVec.ofNat 7 (2 ^ j) }
      s.setInstance i.val (if v.inFault.getLsbD 31 then v else
        { v with inFault := BitVec.ofNat 32 (2 ^ 31 + b2n dsc * 2 ^ 11 + j * 2 ^ 8 + code), inFaddr := d.faddr })

/-- Whether the running set has issued all its requests; for a copy the last of them is a write (R352). -/
def Dma.issued (d : Dma) : Bool :=
  d.st == .run && decide (d.act.total ≤ d.pos) && d.wr.isEmpty && !(d.out.any fun r => !r.write && !r.desc && r.set_ == d.setNo)

/-- Completes sets in load order: each whose writes are all acknowledged and which has issued all its requests; DONE for those with EVDONE (R359). -/
def State.completeSets (s : State) (c : Nat) : Nat → State
  | 0 => s
  | k + 1 =>
    let d := s.dma c
    match d.evs with
    | [] => s
    | (n, ev) :: t =>
      if (d.st == .run || d.st == .armed) && (n != d.setNo || d.issued) && !(d.out.any fun r => r.write && r.set_ == n) then
        let s := s.setDma c { d with evs := t }
        State.completeSets (if ev then s.pulse c else s) c k
      else s

/-- What follows when a request of a channel ends: sets complete, a chain that has come to its end stops, a drain ends (R352, R357, R363, R365). -/
def State.dmaSettle (s : State) (c : Nat) : State :=
  let s := s.completeSets c (s.dma c).evs.length
  let d := s.dma c
  if d.st = .drain ∧ d.live = [] ∧ d.wr = [] then
    (if d.aborting then s.setDma c { d with st := .aborted, aborting := false, code := 0 } else s.dmaError c d.code.toNat d.dsc)
  else match d.st, d.ending with
  | .run, some (code, dsc) =>
    if d.writesOut then s
    else if code = 0 then s.setDma c { d with st := .complete, ending := none, desc := none }
    else s.dmaError c code dsc
  | _, _ => s

/-- An error on an access takes effect: DRAIN, then ERROR (R363). -/
def State.dmaFail (s : State) (c code : Nat) (va : Word) : State :=
  let d := s.dma c
  if d.st ≠ .run ∧ d.st ≠ .armed then s.dmaSettle c else
  (s.setDma c { d with
    st := .drain, aborting := false, code := BitVec.ofNat 8 code, dsc := false, faddr := va, ending := none, desc := none, evs := [],
    wr := if code = 8 then d.wr.filter (·.poison) else [] }).dmaSettle c

/-- ABORT, or an instance reset in its place: no more requests, and no pulse (R365, R375). -/
def State.dmaAbort (s : State) (c : Nat) : State :=
  let d := s.dma c
  (s.setDma c { d with st := .drain, aborting := true, ending := none, desc := none, evs := [], wr := [] }).dmaSettle c

/-! ### Loading (R351 to R357, R361) -/

/-- A set enters the active registers: ARMED with TRIG, unless a start pulse is latched, and RUN otherwise (R352, R357, R361). -/
def Dma.enter (d : Dma) : Dma :=
  let n := d.setNo + 1
  let d := { d with setNo := n, pos := 0, desc := none, evs := d.evs ++ [(n, d.act.evdone)] }
  if d.act.trig then (if d.trigPend then { d with st := .run, trigPend := false } else { d with st := .armed }) else { d with st := .run }

/-- A set that breaks a rule at its load: nothing of it runs, and the channel stops once the writes of earlier sets are acknowledged (R351, R357). -/
def Dma.refuse (d : Dma) (code : Nat) : Dma :=
  { d with st := .run, setNo := d.setNo + 1, pos := d.act.total, desc := none, ending := some (code, false) }

/-- START (R352). -/
def State.dmaStart (s : State) (c : Nat) : State :=
  let d := s.dma c
  if d.busy then s else
  let d := { d with
    remain := BitVec.ofNat 16 (fld d.cfg 31 16), loads := 1, code := 0, dsc := false, faddr := 0, trigPend := false, trigOvr := false, aborting := false,
    ending := none, desc := none, evs := [], wr := [] }
  ((s.ioTaken (c / 32) (.channel (Fin.ofNat 32 c))).setDma c (if d.act.badParam then d.refuse 1 else d.enter)).dmaSettle c

/-- CLEAR (R345, R349, R357). -/
def State.dmaClear (s : State) (c : Nat) : State :=
  let d := s.dma c
  if d.busy then s else
  s.setDma c { d with
    st := .idle, code := 0, dsc := false, faddr := 0, loads := 0, trigPend := false, trigOvr := false, shValid := false }

/-- A start pulse (R361). -/
def State.dmaPulse (s : State) (c : Nat) : State :=
  let d := s.dma c
  if d.st = .armed then (s.setDma c { d with st := .run }).dmaSettle c
  else if d.trigPend then s.setDma c { d with trigOvr := true }
  else s.setDma c { d with trigPend := true }

/-- The set that a descriptor holds (R354). -/
def descSet (l : Line) : DmaSet :=
  let w (o n : Nat) : Nat := lineBytes l o n
  { ctl := BitVec.ofNat 32 (w 0x20 4), src := BitVec.ofNat 64 (w 0 8), dst := BitVec.ofNat 64 (w 8 8), len := BitVec.ofNat 32 (w 0x10 4),
    rows := BitVec.ofNat 16 (w 0x14 2), sstride := BitVec.ofNat 32 (w 0x18 4), dstride := BitVec.ofNat 32 (w 0x1C 4), next := BitVec.ofNat 64 (w 0x28 8) }

/-- The must-be-zero rules of R354 and R355. -/
def descBad (l : Line) : Bool :=
  let w (o n : Nat) : Nat := lineBytes l o n
  w 0x16 2 != 0 || (BitVec.ofNat 32 (w 0x20 4) &&& ~~~deCtlMask) != 0 || w 0x24 4 != 0 || w 0x28 8 % 64 != 0 || w 0x30 16 != 0

/-- The registers that a descriptor gives: reserved bits read as zero. -/
def DmaSet.legal (a : DmaSet) : DmaSet := { a with ctl := a.ctl &&& deCtlMask, next := a.next &&& ~~~0x3F }

/-- Takes a candidate into the active set (R352). -/
def Dma.load (d : Dma) (a : DmaSet) (bad : Bool) (from_ : Option Word) : Dma :=
  let d := { d with
    act := a.legal, shValid := false, loads := d.loads + 1, remain := if fld d.cfg 31 16 = 0 then d.remain else d.remain - 1 }
  if bad then { d.refuse 2 with faddr := from_.getD d.faddr }
  else if d.act.badParam then { d.refuse 1 with faddr := from_.getD d.faddr }
  else d.enter

/-- CHANNEL_SET_LOAD: the last request of the running set is issued (R352). -/
def execChannelSetLoad (c : Fin 64) (s : State) : Res :=
  let d := s.dma c.val
  .next (if !d.issued || d.ending.isSome then s else
    let spent := fld d.cfg 31 16 != 0 && d.remain == 0
    let stop (s : State) (code : Nat) (dsc : Bool) (va : Word) : State := (s.setDma c.val { d with ending := some (code, dsc), faddr := va }).dmaSettle c.val
    if d.shValid then
      (if spent then stop s 0x0B false d.faddr else (s.setDma c.val (d.load d.sh false none)).dmaSettle c.val)
    else if d.act.next = 0 then stop s 0 false d.faddr
    else if spent then stop s 0x0B false d.faddr
    else match d.desc with
    | none => s
    | some (l, code) =>
      if code ≠ 0 then stop s code.toNat true d.act.next
      else (s.setDma c.val (d.load (descSet l) (descBad l) (some d.act.next))).dmaSettle c.val)

/-- A descriptor fetch ends: it is held with any error until the load, or discarded when the set that named it is no longer the running one (R353). -/
def Dma.holdDesc (d : Dma) (set_ : Nat) (l : Line) (code : Nat) : Dma :=
  if set_ = d.setNo ∧ (d.st = .run ∨ d.st = .armed) ∧ d.ending = none ∧ d.desc = none then { d with desc := some (l, BitVec.ofNat 8 code) } else d

/-! ### Issue (R339 to R341, R353, R364, R366, R373) -/

/-- Whether a fetch of the running set's descriptor is to be issued (R353). -/
def Dma.wantsDesc (d : Dma) : Bool :=
  (d.st == .run || d.st == .armed) && d.ending.isNone && d.act.next != 0 && (fld d.cfg 31 16 == 0 || d.remain != 0) && d.desc.isNone &&
    !(d.out.any fun r => r.desc && r.set_ == d.setNo)

/-- FENCE holds a set back until every write of earlier sets is acknowledged (R345). -/
def Dma.unfenced (d : Dma) : Bool := !d.act.fence || !(d.out.any fun r => r.write && r.set_ != d.setNo)

/-- Read data is written in the order of its bytes: the first piece whose predecessors have all returned (R341). -/
def Dma.wantsWrite (d : Dma) : Bool :=
  (d.st == .run || d.st == .drain) && d.unfenced &&
    (match d.wr with | w :: _ => !(d.out.any fun r => !r.write && !r.desc && r.set_ == d.setNo && decide (r.pos < w.pos)) | [] => false)

def Dma.wantsNext (d : Dma) : Bool :=
  d.st == .run && d.ending.isNone && d.unfenced && decide (d.pos < d.act.total) && decide (d.out.length + d.wr.length < 64)

/-- Whether the instance of a channel has a bandwidth reservation (R366). -/
def State.reservedOf (s : State) (c : Nat) : Option Nat :=
  match (s.dma c).inst with
  | some i => if (s.instance_ i.val).bw = 0 then none else some i.val
  | none => none

/-- Outstanding requests of engine `e`. -/
def State.engineOut (s : State) (e : Nat) : List (Nat × DmaReq) := (List.range' (32 * e) 32).flatMap fun c => (s.dma c).out.map fun r => (c, r)

/-- A tag for a request of channel `c`: 16 of the 512 are reserved for each instance with a reservation, which takes those first (R339, R366). -/
def State.engineTag (s : State) (c : Nat) : Option Nat :=
  let e := c / 32
  let out := s.engineOut e
  let resv := (List.range' (32 * e) 32).filter fun i => (s.instance_ i).bw != 0
  let used (i : Nat) : Nat := (out.filter fun (k, _) => s.reservedOf k == some i).length
  let shared := out.length - (resv.map fun i => min (used i) 16).sum
  let ok := match s.reservedOf c with
    | some i => decide (used i < 16) || decide (shared < 512 - 16 * resv.length)
    | none => decide (shared < 512 - 16 * resv.length)
  if !ok ∨ 64 ≤ (s.dma c).out.length then none
  else (List.range 512).find? fun t => !(out.any fun (_, r) => r.tag == t)

/-- Whether a channel has a request ready. -/
def State.dmaReady (s : State) (c : Nat) : Bool :=
  ((s.dma c).wantsDesc || (s.dma c).wantsWrite || (s.dma c).wantsNext) && (s.engineTag c).isSome

/-- Whether an access lies wholly within one window of the channel's instance that permits it (R373). -/
def State.inWindow (s : State) (c : Nat) (va : Word) (n : Nat) (write : Bool) : Bool :=
  match (s.dma c).inst with
  | none => true
  | some i => (s.instance_ i.val).wins.any fun w =>
      (if write then w.w else w.r) && decide (w.base / 4096 ≤ va.toNat / 4096) && decide ((va.toNat + n - 1) / 4096 ≤ w.limit / 4096)

/-- A permitted access: its physical address, and whether it is to an I/O region and the entry's timer. -/
structure DmaAddr where
  pa : Nat
  io : Bool
  tmo : Nat
  deriving DecidableEq, Repr

/-- What an access of a channel meets before it is sent. -/
inductive DmaGo where
  | ok (s : State) (a : DmaAddr)
  | refused (s : State) (code : Nat)
  | wait (s : State)
  deriving DecidableEq, Repr

/-- Steps 1 to 3 of R340: window, translation, PMA. The error code where one refuses; an access that misses the IOTLB waits for its walk. -/
def State.dmaAddr (s : State) (c : Nat) (va : Word) (n : Nat) (write : Bool) (tag : Nat) : DmaGo :=
  let r : IoReq := .channel (Fin.ofNat 32 c)
  if !(s.inWindow c va n write) then .refused s 4 else
  match s.inbound (c / 32) r va write tag with
  | .wait s => .wait s
  | .refused s => .refused (s.ioTaken (c / 32) r) 5
  | .ok s pa =>
    let s := s.ioTaken (c / 32) r
    let loc := s.isLocal pa
    match pmaFind s.pma.masters (paLa pa) loc with
    | none => .refused s 6
    | some e =>
      if loc && rangeFault s (paLa pa) write then .refused s 6
      else .ok s { pa := pa, io := e.io, tmo := e.tmo.toNat * 1000 }

/-- Error code of a status (R362). -/
def stsCode (sts : Nat) : Nat := if sts = 0 then 0 else if sts = 2 then 6 else if sts = 4 then 8 else 7

/-- Step 4 of R340: the request enters the mesh, or completes at once with a status. -/
def State.dmaSend (s : State) (c : Nat) (a : DmaAddr) (r : DmaReq) (data : List Byte) (poison : Bool) : State × Option Nat :=
  let d := s.dma c
  let e := c / 32
  match s.dest a.pa a.tmo r.write with
  | .done sts => (s, some sts)
  | .node n rpkg limit =>
    let la := paLa a.pa
    let f := { s.attrs a.pa (ncFlit (if r.write then .writeNc else .readNc) (engineNode e) n la r.tag rpkg (maskOf (la % 64) r.bytes)) with
      size := r.bytes, data := if r.write then some (atOffset (la % 64) (leNat data)) else none, poison := poison }
    let f := match s.reservedOf c with | some i => guaranteed s 0 (some i) f | none => f
    let st := engineStop e
    let k := some (flitCounted f)
    let s := ((s.count st 1 (if r.write then 2 else 1) 1 k).count st 1 3 (if r.write then r.bytes else 0) none).count st 1 4 (if f.vc = 5 then 1 else 0) k
    let s := s.count st 1 5 (if r.desc then 1 else 0) k
    (((s.setDma c { d with out := d.out ++ [{ r with deadline := s.time + limit }] }).ioBegin e r.tag r.write a.pa (s.time + limit)).send f, none)

/-- Puts returned data among the pieces that wait, in the order of their bytes. -/
def putWr (l : List DmaWr) (w : DmaWr) : List DmaWr := (l.filter fun v => decide (v.pos < w.pos)) ++ [w] ++ l.filter fun v => decide (w.pos < v.pos)

/-- A data read ends. Poisoned bytes are still written to their destination, and the channel stops (R364); after a stop the data is discarded (R363). -/
def State.dmaReadEnd (s : State) (c : Nat) (r : DmaReq) (code : Nat) (data : List Byte) : State :=
  let d := s.dma c
  if d.st ≠ .run ∨ r.set_ ≠ d.setNo then s.dmaSettle c
  else if code = 0 then (s.setDma c { d with wr := putWr d.wr { pos := r.pos, data := data, poison := false } }).dmaSettle c
  else if code = 8 then (s.setDma c { d with wr := putWr d.wr { pos := r.pos, data := data, poison := true } }).dmaFail c 8 r.va
  else s.dmaFail c code r.va

/-- The next piece of a memory access from `va`: to the end of its line at most. -/
def pieceLen (va : Word) (n : Nat) : Nat := min n (64 - va.toNat % 64)

/-- Issues the next read of a copy. -/
def State.dmaRead (s : State) (c tag : Nat) : State :=
  let d := s.dma c
  let va := d.act.srcAt d.pos
  let es := d.act.esize
  if d.act.sfix && !(d.act.aligned d.act.src d.act.sstride) then s.dmaFail c 3 va else
  let row := d.act.len.toNat - d.pos % d.act.len.toNat
  let n := if d.act.sfix then es else pieceLen va row
  match s.dmaAddr c va n false tag with
  | .wait s => s
  | .refused s code => s.dmaFail c code va
  | .ok s a =>
    if a.io && !(d.act.aligned d.act.src d.act.sstride) then s.dmaFail c 3 va else
    let n := if a.io then es else n
    let r : DmaReq := { tag := tag, write := false, va := va, pos := d.pos, bytes := n, set_ := d.setNo, deadline := 0, desc := false }
    match (s.setDma c { d with pos := d.pos + n }).dmaSend c a r [] false with
    | (s, none) => s
    | (s, some sts) => s.dmaReadEnd c r (stsCode sts) (List.replicate n 0)

/-- Takes bytes from the pieces at the front while they follow one another. -/
def takeWr : List DmaWr → Nat → List Byte × List DmaWr
  | [], _ => ([], [])
  | w :: t, n =>
    if n < w.data.length then (w.data.take n, { w with pos := w.pos + n, data := w.data.drop n } :: t)
    else match t with
      | v :: _ =>
        if v.pos = w.pos + w.data.length ∧ v.poison = w.poison then
          let (b, r) := takeWr t (n - w.data.length)
          (w.data ++ b, r)
        else (w.data, t)
      | [] => (w.data, [])

/-- Whether a byte of the destination lies in the source range of the set; a fill reads none (R341). -/
def DmaSet.overlaps (a : DmaSet) (va : Word) : Bool :=
  !a.fill && (List.range (if a.twod then a.rows.toNat else 1)).any fun r =>
    decide ((va - (if a.sfix then a.src else a.src + BitVec.ofNat 64 r * a.sstride.signExtend 64)).toNat < (if a.sfix then a.esize else a.len.toNat))

/-- The bytes that a write leaves at `va`: unspecified ones, free values, where the destination overlaps the source (R341). -/
def State.overlapBytes (s : State) (a : DmaSet) (va : Word) (data : List Byte) : State × List Byte :=
  let hit := (List.range data.length).map fun i => a.overlaps (va + BitVec.ofNat 64 i)
  if hit.any id then
    let (l, s) := s.takeLine
    (s, (data.zip hit).zipIdx.map fun ((b, o), i) => if o then byteAt l i else b)
  else (s, data)

/-- Issues the next write at position `pos` of the set; `take n` removes the `n` bytes it carries from what waits. An element of an I/O region of which
not all bytes have returned waits for the next read; the rest of an element is written alone only with poison (R364). -/
def State.dmaWrite (s : State) (c tag pos : Nat) (data : List Byte) (poison : Bool) (take : Nat → State → State) : State :=
  let d := s.dma c
  let es := d.act.esize
  let va := if d.act.dfix then d.act.dst + BitVec.ofNat 64 (pos % es) else d.act.dstAt pos
  let el := if d.st = .drain then min data.length (es - pos % es) else es
  let data := data.take (d.act.len.toNat - pos % d.act.len.toNat)
  if d.act.dfix && !(d.act.aligned d.act.dst d.act.dstride) then (if d.st = .drain then (take el s).dmaSettle c else s.dmaFail c 3 va) else
  let n := if d.act.dfix then el else pieceLen va data.length
  match s.dmaAddr c va n true tag with
  | .wait s => s
  | .refused s code => if d.st = .drain then (take n s).dmaSettle c else s.dmaFail c code va
  | .ok s a =>
    if a.io && !(d.act.aligned d.act.dst d.act.dstride) then (if d.st = .drain then (take n s).dmaSettle c else s.dmaFail c 3 va) else
    let n := if a.io || d.act.dfix then el else n
    if data.length < n then (if d.wantsNext then s.dmaRead c tag else s)
    else if poison && s.isLocal a.pa && areaOf s (paLa a.pa) == .device then (take n s).dmaSettle c
    else
      let (s, bytes) := s.overlapBytes d.act va (data.take n)
      match (take n s).dmaSend c a { tag := tag, write := true, va := va, pos := pos, bytes := n, set_ := d.setNo, deadline := 0, desc := false } bytes poison with
      | (s, none) => s.dmaSettle c
      | (s, some sts) => if stsCode sts = 0 ∨ d.st = .drain then s.dmaSettle c else s.dmaFail c (stsCode sts) va

/-- Issues the descriptor fetch of the running set: held with its error where it is refused or lies in an I/O region (R353). -/
def State.dmaFetch (s : State) (c tag : Nat) : State :=
  let d := s.dma c
  let va := d.act.next
  match s.dmaAddr c va 64 false tag with
  | .wait s => s
  | .refused s code => s.updDma c fun d => d.holdDesc d.setNo 0 code
  | .ok s a =>
    if a.io then s.updDma c fun d => d.holdDesc d.setNo 0 6 else
    match s.dmaSend c a { tag := tag, write := false, va := va, pos := 0, bytes := 64, set_ := d.setNo, deadline := 0, desc := true } [] false with
    | (s, none) => s
    | (s, some sts) => s.updDma c fun d => d.holdDesc d.setNo 0 (stsCode sts)

/-- The bytes of a fill from position `pos` to the end of its row: the value repeats from the first byte of each row (R345). -/
def DmaSet.fillBytes (a : DmaSet) (pos n : Nat) : List Byte :=
  (List.range (min n (a.len.toNat - pos % a.len.toNat))).map fun i => byteAt a.src ((pos % a.len.toNat + i) % 8)

/-- One request of a channel: its descriptor fetch, then data that waits to be written, then the next read or fill. -/
def State.dmaIssue (s : State) (c tag : Nat) : State :=
  let d := s.dma c
  if d.wantsDesc then s.dmaFetch c tag
  else if d.wantsWrite then
    match d.wr with
    | [] => s
    | w :: _ => s.dmaWrite c tag w.pos (takeWr d.wr (max w.data.length 8)).1 w.poison fun n s => s.updDma c fun d => { d with wr := (takeWr d.wr n).2 }
  else if d.act.fill then s.dmaWrite c tag d.pos (d.act.fillBytes d.pos 64) false fun n s => s.updDma c fun d => { d with pos := d.pos + n }
  else s.dmaRead c tag

/-- ENGINE_ISSUE: the next channel in rotation that has a request ready issues one (R339, R340). -/
def execEngineIssue (e : Fin 2) (s : State) : Res :=
  let lastServed := tabGet 0 s.eng.rot e.val
  .next (match ((List.range 32).map fun k => 32 * e.val + (lastServed + 1 + k) % 32).find? fun c => s.dmaReady c with
  | none => s
  | some c =>
    let s := { s with eng := { s.eng with rot := tabSet 0 s.eng.rot e.val (c % 32) } }
    match s.engineTag c with
    | some tag => s.dmaIssue c tag
    | none => s)

/-! ### Responses and timers (R353, R359, R363) -/

/-- A request of engine `e` ends with a status, or by its timer. None when the tag has no request. -/
def State.dmaAnswer (s : State) (e tag sts : Nat) (poison timeout : Bool) (data : Line) (off : Nat) : Option State :=
  match (s.engineOut e).find? fun (_, r) => r.tag == tag with
  | none => none
  | some (c, r) =>
    let s := (s.updDma c fun d => { d with out := d.out.erase r }).ioEnd e tag
    let code := if timeout then (if r.desc then 9 else 0x0A) else if poison && sts == 0 then 8 else stsCode sts
    some (if r.desc then (s.updDma c fun d => d.holdDesc r.set_ data code).dmaSettle c
      else if r.write then (if code = 0 ∨ r.set_ = 0 then s.dmaSettle c else s.dmaFail c code r.va)
      else s.dmaReadEnd c r code ((List.range r.bytes).map fun i => byteAt data (off + i)))

/-- The timer of an engine's request expires (R363). -/
def State.engineTimeout (s : State) (e tag : Nat) : State :=
  match (s.engineOut e).find? fun (_, r) => r.tag == tag with
  | some (_, r) => ((s.passTo r.deadline).dmaAnswer e tag 0 false true 0 0).getD s
  | none => s

/-- DESCRIPTOR_FETCH_RETURN: the outstanding fetch of the channel returns with data or an error, or its timer expires (R353). -/
def execDescriptorFetchReturn (c : Fin 64) (desc : Line) (sts : BitVec 8) (timeout : Bool) (s : State) : Res :=
  .next (match (s.dma c.val).out.find? fun r => r.desc with
  | none => s
  | some r =>
    if timeout then s.engineTimeout (c.val / 32) r.tag
    else (s.dmaAnswer (c.val / 32) r.tag sts.toNat false false desc 0).getD s)

/-! ### Registers (R344 to R349) -/

def dmaStCode : DmaState → Nat | .idle => 0 | .armed => 1 | .run => 2 | .drain => 3 | .complete => 4 | .aborted => 5 | .error => 6

/-- DE_STATUS. -/
def Dma.status (d : Dma) : Word :=
  BitVec.ofNat 64 ((if fld d.cfg 31 16 = 0 then 0 else d.remain.toNat) * 2 ^ 48 + d.live.length * 2 ^ 32 + dmaStCode d.st * 2 ^ 28 +
    (if d.st = .error then d.code.toNat else 0) * 2 ^ 16 + b2n d.dsc * 2 ^ 11 + b2n d.busy * 2 ^ 10 + b2n d.trigOvr * 2 ^ 9 + b2n d.trigPend * 2 ^ 8 + d.loads.toNat)

/-- Reads a register of a channel's set. -/
def Dma.read (d : Dma) (off : Nat) : Word :=
  let of (a : DmaSet) (o : Nat) : Word := match o with
    | 0 => a.src | 1 => a.dst | 2 => a.len.setWidth 64 | 3 => a.rows.setWidth 64 | 4 => a.sstride.setWidth 64 | 5 => a.dstride.setWidth 64 | _ => a.next
  match off with
  | 0x00 => d.act.ctl.setWidth 64
  | 0x08 => d.status
  | 0x10 => of d.act 0 | 0x18 => of d.act 1 | 0x20 => of d.act 2 | 0x24 => of d.act 3 | 0x28 => of d.act 4 | 0x2C => of d.act 5 | 0x30 => of d.act 6
  | 0x38 => d.cfg.setWidth 64
  | 0x40 => BitVec.ofNat 64 (d.sh.ctl.toNat + b2n d.shValid * 2 ^ 31)
  | 0x48 => d.faddr
  | 0x50 => of d.sh 0 | 0x58 => of d.sh 1 | 0x60 => of d.sh 2 | 0x64 => of d.sh 3 | 0x68 => of d.sh 4 | 0x6C => of d.sh 5 | 0x70 => of d.sh 6
  | _ => 0

/-- `old` with the written bytes replaced. -/
def mergeW {n : Nat} (old : BitVec n) (v m : Word) : BitVec n := (old &&& ~~~(m.setWidth n)) ||| ((v &&& m).setWidth n)

/-- Field `k` of a set written: 0 SRC, 1 DST, 2 LEN, 3 ROWS, 4 SSTRIDE, 5 DSTRIDE, 6 NEXT, 7 CTL. -/
def DmaSet.write (a : DmaSet) (k : Nat) (v m : Word) : DmaSet :=
  match k with
  | 0 => { a with src := mergeW a.src v m }
  | 1 => { a with dst := mergeW a.dst v m }
  | 2 => { a with len := mergeW a.len v m }
  | 3 => { a with rows := mergeW a.rows v m }
  | 4 => { a with sstride := mergeW a.sstride v m }
  | 5 => { a with dstride := mergeW a.dstride v m }
  | 6 => { a with next := mergeW a.next v m &&& ~~~0x3F }
  | _ => { a with ctl := mergeW a.ctl v m &&& deCtlMask }

/-- Field of a set at an offset of the active or shadow registers. -/
def setField (o : Nat) : Option (Bool × Nat) :=
  match o with
  | 0x00 => some (false, 7) | 0x10 => some (false, 0) | 0x18 => some (false, 1) | 0x20 => some (false, 2) | 0x24 => some (false, 3)
  | 0x28 => some (false, 4) | 0x2C => some (false, 5) | 0x30 => some (false, 6)
  | 0x40 => some (true, 7) | 0x50 => some (true, 0) | 0x58 => some (true, 1) | 0x60 => some (true, 2) | 0x64 => some (true, 3)
  | 0x68 => some (true, 4) | 0x6C => some (true, 5) | 0x70 => some (true, 6) | _ => none

/-- Whether a chain has ended: its last set has issued all its requests, nothing is to be loaded, and every write is acknowledged (R352, R365). -/
def Dma.chainDone (d : Dma) : Bool := d.issued && d.ending.isNone && !d.shValid && d.act.next == 0 && !d.writesOut

/-- DE_CMD; a chain that has ended is COMPLETE, and ABORT ignored (R346, R357, R365). -/
def State.dmaCmd (s : State) (c op : Nat) : State :=
  match op with
  | 1 => s.dmaStart c
  | 2 =>
    if (s.dma c).chainDone then (s.updDma c fun d => { d with ending := some (0, false) }).dmaSettle c
    else if (s.dma c).st = .run ∨ (s.dma c).st = .armed then s.dmaAbort c else s
  | 3 => s.dmaClear c
  | 4 => s.updDma c fun d => { d with shValid := false }
  | _ => s

/-- Writes the bytes `m` of a register of a channel's set (R345 to R349). -/
def State.chanWrite (s : State) (c off : Nat) (v m : Word) : State :=
  let d := s.dma c
  if off = 0x04 then s.dmaCmd c (fld (v &&& m) 7 0)
  else if off = 0x38 then (if d.busy then s else s.setDma c { d with cfg := mergeW d.cfg v m &&& 0xFFFF_0002 })
  else match setField off with
  | some (false, k) => if d.busy then s else s.setDma c { d with act := d.act.write k v m }
  | some (true, k) =>
    let d := if d.shValid then d else { d with sh := d.sh.write k v m }
    s.setDma c { d with shValid := d.shValid || (k == 7 && (v &&& m).getLsbD 31) }
  | none => s

/-- Address of a channel's register set (R342). -/
def chanAddr (c : Nat) : Nat := 0x1000_0000 + tileOf (engineStop (c / 32)) * 0x100_0000 + 21 * 0x1_0000 + 0x1000 + c % 32 * 0x80

/-- A write of a channel register through the engine page: by harts of the package only, and ignored for a channel of an instance (R343); the owner's
harts reach it through their slot (R369, R372). -/
def State.chanAccess (s : State) (who : Master) (c off : Nat) (f : State → State) : State :=
  match who with
  | .hart h _ =>
    match (s.dma c).inst with
    | none => f s
    | some i =>
      let v := s.instance_ i.val
      if v.st == .active && decide (v.first ≤ hartNum h) && decide (hartNum h ≤ v.last) then f s else s
  | .sba => if (s.dma c).inst.isNone then f s else s
  | _ => s.writeIgnored (.chan c off) (chanAddr c + off) (engineNode (c / 32)) who

/-- DE_CMD_START (R352, R357). -/
def execDeCmdStart (who : Master) (c : Fin 64) (s : State) : Res := .next (s.chanAccess who c.val 4 fun s => s.dmaStart c.val)
/-- DE_CMD_ABORT (R357, R365). -/
def execDeCmdAbort (who : Master) (c : Fin 64) (s : State) : Res := .next (s.chanAccess who c.val 4 fun s => s.dmaCmd c.val 2)
/-- DE_CMD_CLEAR (R357). -/
def execDeCmdClear (who : Master) (c : Fin 64) (s : State) : Res := .next (s.chanAccess who c.val 4 fun s => s.dmaClear c.val)
/-- DE_CMD_DROPSH (R346). -/
def execDeCmdDropsh (who : Master) (c : Fin 64) (s : State) : Res := .next (s.chanAccess who c.val 4 fun s => s.dmaCmd c.val 4)
/-- SH_CTL_VALID_SET: a write of SH_CTL with VALID = 1 (R345, R352). -/
def execShCtlValidSet (who : Master) (c : Fin 64) (v : BitVec 32) (s : State) : Res :=
  .next (s.chanAccess who c.val 0x40 fun s => s.chanWrite c.val 0x40 ((v ||| 0x8000_0000).setWidth 64) 0xFFFF_FFFF)

end Sys2Proof.Machine
end

