-- ==== Sys2Proof/Machine/Mailbox.lean ====
section
/-!
DEFINITION. Mailboxes: the page (R424 to R427), the states of a mailbox (R428), and what every Rennet command shares: the order of checks (R429), the order in
which commands run (R430), classes and bindings (R431), responses (R429, R432) and buffers (R442).
-/
namespace Sys2Proof.Machine

def State.mb (s : State) (n : Nat) : Mbox := tabGet .reset s.ren.mbox n
def State.setMb (s : State) (n : Nat) (v : Mbox) : State := { s with ren := { s.ren with mbox := tabSet .reset s.ren.mbox n v } }
def State.updMb (s : State) (n : Nat) (f : Mbox → Mbox) : State := s.setMb n (f (s.mb n))

/-! ### The page (R424 to R427) -/

/-- Whether the page admits a master: a hart of the owner range; mailbox 31 answers no mesh access (R425). -/
def State.mbAdmits (s : State) (n : Nat) (who : Master) : Bool :=
  let m := s.mb n
  match who with
  | .hart h _ => m.valid && !m.sideband && decide (m.first ≤ hartNum h) && decide (hartNum h ≤ m.last)
  | _ => false

def mbStCode : MbState → Nat | .idle => 0 | .busy => 1 | .done => 2 | .down => 3

/-- Reads the register or the area at an offset of a mailbox page, as a mailbox owner sees it. -/
def State.mbRead (s : State) (n off : Nat) : Word :=
  let m := s.mb n
  match off with
  | 0x000 => BitVec.ofNat 64 (b2n m.valid * 2 ^ 63 + b2n m.sideband * 2 ^ 62 + m.inst.toNat * 2 ^ 48 + m.cls.toNat * 2 ^ 32 + m.last * 2 ^ 16 + m.first)
  | 0x010 => BitVec.ofNat 64 (mbStCode m.st * 2 ^ 60 + b2n m.lost * 2 ^ 57 + m.result.toNat * 2 ^ 16 + m.seq.toNat)
  | 0x018 => BitVec.ofNat 64 (b2n m.irq)
  | _ => if 0x100 ≤ off ∧ off < 0x1000 then BitVec.ofNat 64 (memRead s.mem.mbox (n * 0x1000 + off) 4) else 0

/-- Codes of the commands with the class bit, the payload length (none: INSTANCE_CREATE), and the offsets of BUF and whether Rennet writes the
buffer (R431, R434, R444). -/
def cmdTable : List (Nat × Nat × Option Nat × Option (Nat × Bool)) :=
  [(0x0001, 0, some 0, none), (0x0002, 8, some 8, none), (0x0003, 0, some 1, none),
   (0x0301, 1, some 16, none), (0x0302, 0, some 1, none), (0x0303, 1, some 2, none), (0x0304, 1, some 8, none), (0x0305, 0, some 20, some (8, true)),
   (0x0401, 2, none, none), (0x0402, 2, some 1, none), (0x0403, 2, some 1, none), (0x0404, 0, some 1, none)] ++
  [(0x0501, 3, some 8, none), (0x0502, 3, some 1, none), (0x0503, 0, some 1, none), (0x0610, 4, some 3, none),
   (0x0701, 0, some 4, none), (0x0702, 0, some 1, none), (0x0703, 5, some 1, none), (0x0704, 5, some 1, none), (0x0705, 5, some 64, none), (0x0706, 0, some 0, none)] ++
  [(0x0801, 6, some 2, none), (0x0802, 6, some 26, none), (0x0803, 6, some 2, none), (0x0804, 0, some 0, none), (0x0805, 6, some 3, none),
   (0x0810, 0, some 0, none), (0x0811, 6, some 12, some (0, false)), (0x0812, 0, some 12, some (0, true)),
   (0x0901, 7, some 76, some (64, true)), (0x0902, 0, some 12, some (0, true)), (0x0903, 7, some 20, some (8, false)), (0x0904, 7, some 13, some (0, false)),
   (0x0905, 7, some 1, none), (0x0A01, 0, some 20, some (8, true))]

def cmdRow (code : Nat) : Option (Nat × Option Nat × Option (Nat × Bool)) := (cmdTable.find? fun r => r.1 == code).map Prod.snd

/-- Bytes of the request area of mailbox `n`: the header at 0, the payload at 16. -/
def State.reqAt (s : State) (n o k : Nat) : Nat := memRead s.mem.mbox (n * 0x1000 + 0x100 + o) k
/-- A payload field. -/
def State.arg (s : State) (n o k : Nat) : Nat := s.reqAt n (16 + o) k
def State.reqCode (s : State) (n : Nat) : Nat := s.reqAt n 0 2
def State.reqLen (s : State) (n : Nat) : Nat := s.reqAt n 2 2

/-- The buffer grant that Rind takes at the doorbell (R442, R444). -/
def State.grantOf (s : State) (n : Nat) : Option (Nat × Nat × Bool) :=
  match cmdRow (s.reqCode n) with
  | some (_, _, some (o, w)) => some (s.arg n o 8, s.arg n (o + 8) 4, w)
  | _ => none

/-- A doorbell write (R428). -/
def State.doorbell (s : State) (n : Nat) (seq : BitVec 16) : State :=
  let m := s.mb n
  match m.st with
  | .idle | .done =>
    let s := { s with ren := { s.ren with doorbells := s.ren.doorbells + 1 } }
    s.setMb n { m with st := .busy, seq := seq, order := s.ren.doorbells, ran := none, grant := s.grantOf n }
  | _ => s.setMb n { m with lost := true }

/-- ACK (R427, R428). -/
def State.mbAck (s : State) (n : Nat) : State := s.updMb n fun m => if m.st = .done then { m with st := .idle } else m

/-- Writes the bytes `m` of a register or a word of the page, as an owner (R424, R427, R428). -/
def State.mbWrite (s : State) (n off : Nat) (v m : Word) : State :=
  match off with
  | 0x008 => s.doorbell n (BitVec.ofNat 16 (fld (v &&& m) 15 0))
  | 0x010 =>
    let s := if (v &&& m).getLsbD 57 then s.updMb n fun b => { b with lost := false } else s
    if (v &&& m).getLsbD 56 then s.mbAck n else s
  | 0x018 => if m.getLsbD 0 then s.updMb n fun b => { b with irq := v.getLsbD 0 } else s
  | _ =>
    if 0x100 ≤ off ∧ off < 0x800 ∧ (s.mb n).st ≠ .busy then
      { s with mem := { s.mem with mbox := memWrite s.mem.mbox (n * 0x1000 + off) 4 v.toNat } }
    else s

/-- MB_DOORBELL (R427, R428). -/
def execMbDoorbell (who : Master) (n : Fin 32) (v : BitVec 32) (s : State) : Res :=
  .next (if s.mbAdmits n.val who then s.doorbell n.val (v.setWidth 16) else s)
/-- MB_STATUS_ACK (R427, R428). -/
def execMbStatusAck (who : Master) (n : Fin 32) (s : State) : Res := .next (if s.mbAdmits n.val who then s.mbAck n.val else s)

/-- Words that a transfer covers from an offset of the page of mailbox 31, written in order. -/
def State.mbPut (s : State) (off : Nat) : List Byte → Nat → State
  | [], _ => s
  | _, 0 => s
  | bs, k + 1 =>
    let n := if off < 0x100 ∧ off % 8 = 0 ∧ 8 ≤ bs.length then 8 else 4
    State.mbPut (s.mbWrite 31 off (BitVec.ofNat 64 (leNat (bs.take n))) (BitVec.ofNat 64 (2 ^ (8 * min n bs.length) - 1))) (off + n) (bs.drop n) k

/-- I3C_PRIVATE_TRANSFER: the I3C target reaches the page of mailbox 31; a read leaves its data to the sender (R425). -/
def execI3cPrivateTransfer (off : BitVec 16) (write : Bool) (data : List Byte) (s : State) : Res :=
  .next (if write && decide (off.toNat % 4 = 0) && decide (data.length % 4 = 0) && decide (off.toNat + data.length ≤ 0x1000)
    then s.mbPut off.toNat data data.length else s)

/-! ### Order of commands (R430) -/

/-- Group of a command code. -/
def cmdGroup (code : Nat) : Nat := if code / 256 = 5 then 4 else code / 256

/-- Whether mailbox `m` holds a MAILBOX_ASSIGN that still waits for its target (R430, R434). -/
def State.assignWaits (s : State) (m : Nat) : Bool :=
  s.ren.waitAssign.any (fun k => k.val == m) && (s.mb (s.arg m 0 1)).st == .busy

/-- Whether the command of mailbox `m` has started and not completed. -/
def State.running (s : State) (m : Nat) : Bool := (s.mb m).ran.isSome || s.ren.unfinished.any fun (_, w) => w.any fun k => k.val == m

/-- Whether the command of mailbox `n` may start: Rennet serves, its group is idle, and no earlier command of the group waits to start (R430). -/
def State.inTurn (s : State) (n : Nat) : Bool :=
  s.ren.up && (s.ren.started || n == 31) && (s.mb n).st == .busy && !(s.running n) &&
    (List.range 32).all fun m => m == n || (s.mb m).st != .busy || cmdGroup (s.reqCode m) != cmdGroup (s.reqCode n) ||
      (!(s.running m) && (decide ((s.mb n).order < (s.mb m).order) || s.assignWaits m))

/-! ### Running a command (R429, R431 to R433) -/

/-- Writes the response and marks the command as run; a failed command's response has LEN = 0 (R429). -/
def State.finishCmd (s : State) (n status : Nat) (resp : List Byte) : State :=
  let resp := if status = 0 then resp else []
  let hdr := leBytes 2 (s.reqCode n) ++ leBytes 2 status ++ leBytes 2 resp.length ++ leBytes 2 0 ++ leBytes 4 (s.reqAt n 4 4) ++ leBytes 4 0
  let s := { s with mem := { s.mem with mbox := memPut s.mem.mbox (n * 0x1000 + 0x800) (hdr ++ resp) } }
  s.updMb n fun m => { m with ran := some (BitVec.ofNat 16 status) }

/-- The work that a command waits for is done: the command has run. -/
def State.finishWork (s : State) (u : Unfinished) (status : Nat) (resp : List Byte) : State :=
  match s.ren.unfinished.find? fun x => x.1 == u with
  | none => s
  | some (_, w) =>
    let s := { s with ren := { s.ren with unfinished := s.ren.unfinished.filter fun x => x.1 != u } }
    match w with
    | some n => s.finishCmd n.val status resp
    | none => s

/-- Work that a command has begun and that an event will end. -/
def State.beginWork (s : State) (u : Unfinished) (n : Fin 32) : State :=
  { s with ren := { s.ren with unfinished := s.ren.unfinished ++ [(u, some n)] } }

/-- How the body of a command ends. -/
inductive CmdEnd where
  | ok (s : State) (resp : List Byte)
  | fail (status : Nat)
  | failIn (s : State) (status : Nat)     -- a failure that has changed state (R432)
  | waits (s : State)
  deriving DecidableEq, Repr

/-- Whether a bound mailbox may issue a command (R431). -/
def State.bindingOk (s : State) (n code : Nat) : Bool :=
  (s.mb n).inst == 0xFF || code == 0x0001 || code == 0x0901 || ((code == 0x0404 || code == 0x0403) && BitVec.ofNat 8 (s.arg n 0 1) == (s.mb n).inst)

/-- Checks 1 to 5 of R429 for a request whose code is known. -/
def State.cmdStatus (s : State) (n : Nat) : Nat :=
  if s.reqAt n 8 8 ≠ 0 then 3 else
  match cmdRow (s.reqCode n) with
  | none => 1
  | some (cls, len, _) =>
    if s.reqLen n ≠ len.getD (72 + 16 * s.arg n 2 1) ∨ 1776 < s.reqLen n then 2
    else if !((s.mb n).cls.getLsbD cls) || !(s.bindingOk n (s.reqCode n)) then 4
    else if s.reqCode n = 0x0002 ∧ n ≠ 0 then 4 else 0

/-- Runs the command with code `code` of mailbox `n` when it is in turn: the checks of R429, then the body on the request payload. -/
def State.runCmd (s : State) (n : Fin 32) (code : Nat) (body : State → CmdEnd) : State :=
  if !(s.inTurn n.val) || s.reqCode n.val != code then s else
  match s.cmdStatus n.val with
  | 0 =>
    (match body s with
    | .ok s' resp => s'.finishCmd n.val 0 resp
    | .fail st => s.finishCmd n.val st []
    | .failIn s' st => s'.finishCmd n.val st []
    | .waits s' => s')
  | st => s.finishCmd n.val st []

/-- Whether payload bytes are zero: reserved fields (R429). -/
def State.argZero (s : State) (n : Nat) (l : List (Nat × Nat)) : Bool := l.all fun (o, k) => s.arg n o k == 0

/-- MB_COMMAND_COMPLETE: a command that has run enters DONE, with the pulse that MB_IRQ enables; a code that Rennet does not know completes with
BAD_CMD (R428, R429, R433). -/
def execMbCommandComplete (n : Fin 32) (s : State) : Res :=
  let s := if s.inTurn n.val && (cmdRow (s.reqCode n.val)).isNone then s.finishCmd n.val (s.cmdStatus n.val) [] else s
  let m := s.mb n.val
  .next (match m.st, m.ran with
  | .busy, some r =>
    let s := s.setMb n.val { m with st := .done, result := r, ran := none, grant := none, valid := m.valid && !m.closing, closing := false }
    if m.irq then s.wirePulse (273 + n.val) else s
  | _, _ => s)

/-! ### Buffers (R442, R502) -/

/-- The buffer of the request satisfies R442. -/
def State.bufOk (s : State) (n : Nat) : Bool :=
  match (s.mb n).grant with
  | none => false
  | some (a, len, _) =>
    a % 64 == 0 && len != 0 && len % 64 == 0 && decide (len ≤ if s.reqCode n = 0x0904 then 67116288 else 0x100_0000) &&
      s.isLocal a && decide (a / 2 ^ 56 = 0) && areaOf s (paLa a) == .dram && decide (paLa a + len ≤ s.pma.dramTop.toNat) && areaOf s (paLa a + len - 1) == .dram &&
      (List.range ((a % 4096 + len + 4095) / 4096)).all fun i =>
        match pmaFind s.pma.masters (paLa a + 4096 * i) true with
        | some e => !e.io && e.c
        | none => false

/-- Address and length of the buffer. -/
def State.buf (s : State) (n : Nat) : Nat × Nat := match (s.mb n).grant with | some (a, len, _) => (paLa a, len) | none => (0, 0)

/-- Writes what fits of `out` into the buffer, in whole lines: the bytes after the output in its last line are kept (R442). -/
def State.bufPut (s : State) (n : Nat) (out : List Byte) : State :=
  let (a, len) := s.buf n
  s.homeBytes a (out.take len) (len / 64 + 1)

/-- Reads the first `k` bytes of the buffer, or none where a line is poisoned (R502). -/
def State.bufGet (s : State) (n k : Nat) : Option (List Byte) :=
  let (a, _) := s.buf n
  if s.peekPoison a k then none else some (s.peekBytes a k)

end Sys2Proof.Machine
end

