-- ==== Sys2Proof/Machine/Instance.lean ====
section
/-!
DEFINITION. Tenant instances: the page and its access check (R369 to R372), reset and drain (R375), DE_POOL (R376), and Rennet's commands (R367, R368,
R434 to R436).
-/
namespace Sys2Proof.Machine

/-! ### The pool (R367, R376) -/

/-- Channels of engine `e` in the pool and IDLE, ascending. -/
def State.freeChans (s : State) (e : Nat) : List Nat :=
  (List.range' (32 * e) 32).filter fun c => (s.dma c).inst.isNone && (s.dma c).st == .idle
/-- Instances of engine `e` in a state. -/
def State.instsIn (s : State) (e : Nat) (st : InstState) : List Instance :=
  ((List.range' (32 * e) 32).map s.instance_).filter fun v => v.st == st
/-- Windows of engine `e` that no instance holds. -/
def State.freeWins (s : State) (e : Nat) : Nat :=
  128 - ((s.instsIn e .active ++ s.instsIn e .draining).map fun v => v.wins.length).sum

/-- DE_POOL. -/
def State.dePool (s : State) (e : Nat) : Word :=
  let ch (st : InstState) : Nat := ((s.instsIn e st).map fun v => v.slots.length).sum
  let wn (st : InstState) : Nat := ((s.instsIn e st).map fun v => v.wins.length).sum
  let pool := ((List.range' (32 * e) 32).filter fun c => (s.dma c).inst.isNone).length
  BitVec.ofNat 64 (wn .draining * 2 ^ 48 + wn .active * 2 ^ 40 + s.freeWins e * 2 ^ 32 + ch .draining * 2 ^ 16 + ch .active * 2 ^ 8 + pool)

/-! ### The page (R369 to R372) -/

/-- IN_CHMAP. -/
def Instance.chmap (v : Instance) : Nat := (v.slots.zipIdx.map fun (c, j) => (128 + c) * 2 ^ (8 * j)).sum

/-- Whether a master is admitted to the page: owner harts, and Rennet for reads (R372). -/
def Instance.admits (v : Instance) (who : Master) (write : Bool) : Bool :=
  match who with
  | .hart h _ => decide (v.first ≤ hartNum h) && decide (hartNum h ≤ v.last)
  | .rennet => !write
  | _ => false

def inStCode : InstState → Nat | .none => 0 | .active => 1 | .draining => 2

/-- Reads a register of the page of instance `i`; the page of no instance reads as zero (R369). -/
def State.inRead (s : State) (i off : Nat) : Word :=
  let v := s.instance_ i
  if v.st = .none then 0 else
  match off with
  | 0x00 => BitVec.ofNat 64 (inStCode v.st * 2 ^ 28 + b2n v.rstDone * 2 ^ 27 + v.slots.length * 2 ^ 24 + v.faults.toNat * 2 ^ 16 + v.wins.length * 2 ^ 11 +
      v.bw * 2 ^ 8 + i)
  | 0x08 => BitVec.ofNat 64 (b2n v.resetReq)
  | 0x10 => v.inFault.setWidth 64
  | 0x18 => v.inFaddr
  | 0x20 => BitVec.ofNat 64 v.chmap
  | 0x28 => v.denied.setWidth 64
  | _ =>
    if off < 0x80 then 0 else
    match v.slots[off / 0x80 - 1]? with
    | some c => (s.dma c).read (off % 0x80)
    | none => 0

/-- Step 1 of R375: every channel stops issuing, armed and latched starts are cleared, and the instance drains. -/
def State.drainInstance (s : State) (i : Nat) : State :=
  let s := (s.instance_ i).slots.foldl (fun s c =>
    let s := s.updDma c fun d => { d with trigPend := false }
    match (s.dma c).st with
    | .run | .armed => s.dmaAbort c
    | .drain => s.updDma c fun d => { d with aborting := true }
    | _ => s) s
  s.updInstance i fun v => { v with st := .draining }

/-- IN_CTL.RESET (R371, R375). -/
def State.instResetReq (s : State) (i : Nat) : State :=
  match (s.instance_ i).st with
  | .none => s
  | .active => (s.drainInstance i).updInstance i fun v => { v with resetReq := true }
  | .draining => s.updInstance i fun v => { v with resetReq := true }

/-- Writes the bytes `m` of a register of the page (R370, R371, R375). -/
def State.inWrite (s : State) (i off : Nat) (v m : Word) : State :=
  let k := s.instance_ i
  let w := v &&& m
  if k.st = .none then s else
  match off with
  | 0x00 => s.setInstance i { k with rstDone := k.rstDone && !(w.getLsbD 27), faults := k.faults &&& ~~~(BitVec.ofNat 7 (fld w 22 16)) }
  | 0x08 => if w.getLsbD 0 then s.instResetReq i else s
  | 0x10 => if w.getLsbD 31 then s.setInstance i { k with inFault := k.inFault &&& 0x7FFF_FFFF } else s
  | _ =>
    if off < 0x80 ∨ k.st = .draining then s else
    match k.slots[off / 0x80 - 1]? with
    | some c => s.chanWrite c (off % 0x80) v m
    | none => s

/-- Counts an access that the page refuses (R371, R372). -/
def State.inDeny (s : State) (i : Nat) : State := s.updInstance i fun v => if v.st = .none then v else { v with denied := v.denied + 1 }

/-- IN_CTL_RESET (R371, R375). -/
def execInCtlReset (who : Master) (i : Fin 64) (s : State) : Res :=
  .next (if (s.instance_ i.val).st = .none then s
    else if (s.instance_ i.val).admits who true then s.instResetReq i.val else s.inDeny i.val)

/-- IN_DENIED_READ: COUNT is returned and cleared (R371, R372). -/
def execInDeniedRead (who : Master) (i : Fin 64) (s : State) : Res :=
  .next (if (s.instance_ i.val).admits who false then s.updInstance i.val fun v => { v with denied := 0 } else s.inDeny i.val)

/-! ### End of a drain (R368, R375) -/

/-- Scrubs a channel's registers and returns it to the pool; reads in flight keep their tags until they end (R375). -/
def Dma.scrub (d : Dma) : Dma :=
  { Dma.reset with out := (d.out.filter fun r => !r.write).map fun r => { r with set_ := 0 } }

/-- Gives channels to an instance. -/
def State.giveChans (s : State) (i : Fin 64) (cs : List Nat) : State := cs.foldl (fun s c => s.updDma c fun d => { d with inst := some i }) s

/-- A bound mailbox loses VALID, after a BUSY command in it (R435). -/
def State.unbind (s : State) (i : Nat) : State :=
  (List.range 32).foldl (fun s n =>
    let m := s.mb n
    if m.valid ∧ m.inst.toNat = i ∧ m.inst ≠ 0xFF then s.setMb n (if m.st = .busy then { m with closing := true } else { m with valid := false }) else s) s

/-- INSTANCE_RESET_DRAIN_DONE: steps 3 and 4 of R375, or the end of INSTANCE_DESTROY (R368). -/
def execInstanceResetDrainDone (i : Fin 64) (s : State) : Res :=
  let v := s.instance_ i.val
  .next (if v.st ≠ .draining ∨ v.slots.any (fun c => (s.dma c).writesOut) then s else
    let s := v.slots.foldl (fun s c => s.updDma c Dma.scrub) s
    if v.destroying then
      let s := s.setInstance i.val .reset
      let s := if s.sec.level = 1 ∧ s.sec.inst = i.val then s.setLevel 0 0xFF else s
      let s := if v.bw = 0 then s else (s.release v.ridq).release v.ridr
      let s := s.updIommu (i.val / 32) fun r => { r with insts := tabSet none r.insts i.val none }
      ((s.unbind i.val).finishWork (.destroy i) 0 []).finishWork (.reset i) 0 []
    else
      let cs := (s.freeChans (i.val / 32)).take v.slots.length
      ((s.giveChans i cs).setInstance i.val { v with st := .active, slots := cs, rstDone := true, resetReq := false }).finishWork (.reset i) 0 [])

/-! ### Commands (R434, R436) -/

/-- Windows of an INSTANCE_CREATE request: BASE with R and W in bits 0 and 1, LIMIT. -/
def State.argWindows (s : State) (n k : Nat) : List Window :=
  (List.range k).map fun j =>
    let b := s.arg n (72 + 16 * j) 8
    { base := b / 4096 * 4096, limit := s.arg n (80 + 16 * j) 8, r := bitOf b 0, w := bitOf b 1 }
/-- Window rules of R436, and the reserved bits of BASE and LIMIT. -/
def State.windowsBad (s : State) (n k : Nat) : Bool :=
  (List.range k).any fun j =>
    let b := s.arg n (72 + 16 * j) 8
    let l := s.arg n (80 + 16 * j) 8
    b / 4 % 1024 != 0 || l % 4096 != 0 || b % 4 == 0 || decide (l < b / 4096 * 4096)

/-- Slots of a bandwidth code (R370). -/
def bwSlots (bw : Nat) : Nat := 2 ^ (bw - 1)

/-- Bindings that a stop holds (R219). -/
def State.bindings (s : State) (stop : Nat) : Nat := (s.mesh.resv.filter fun (_, r) => r.any fun r => r.form != .zero && r.boundStop == stop).length

/-- The reservation pair of an instance: FAN in GQ and GATHER in GR at the engine stop, or free RIDs without one (R366, R434). -/
def State.reservePair (s : State) (i bw : Nat) : Option (State × Nat × Nat × Nat) :=
  let st := engineStop (i / 32)
  if bw = 0 then
    let (a, s) := s.takeNat
    let (b, s) := s.takeNat
    some (s, a % 256, b % 256, 0)
  else if 7 ≤ s.bindings st then none
  else
    match s.reserve .fan 5 (bwSlots bw) st st (some i) 0 with
    | none => none
    | some (s, q) =>
      match s.reserve .gather 6 (bwSlots bw) st st (some i) 0 with
      | none => none
      | some (s, r) => some (s, q.val, r.val, max (reservationBound .fan st st (bwSlots bw)) (reservationBound .gather st st (bwSlots bw)))

/-- The device context of the request. -/
def State.argDc (s : State) (n : Nat) : BitVec 512 := BitVec.ofNat 512 (s.arg n 8 64)

/-- INSTANCE_CREATE (R366, R368, R436). -/
def execInstanceCreate (n : Fin 32) (s : State) : Res :=
  .next (s.runCmd n 0x0401 fun s =>
    let a (o k : Nat) : Nat := s.arg n.val o k
    let i := a 0 1
    let nch := a 1 1
    let nwin := a 2 1
    let bw := a 3 1
    if 63 < i ∨ nch = 0 ∨ 7 < nch ∨ nwin = 0 ∨ 16 < nwin ∨ 5 < bw ∨ s.windowsBad n.val nwin ∨ fld (s.argDc n.val) 3 1 ≠ 0 then .fail 3
    else if (s.instance_ i).st ≠ .none then .fail 7
    else
      let e := i / 32
      let cs := (s.freeChans e).take nch
      if cs.length < nch ∨ s.freeWins e < nwin then .fail 5 else
      match s.reservePair i bw with
      | none => .fail 5
      | some (s', q, r, b) =>
        let v : Instance := { Instance.reset with
          st := .active, wins := s.argWindows n.val nwin, bw := bw, first := a 4 2, last := a 6 2, slots := cs, ridq := q, ridr := r, bound := b }
        let s' := (s'.giveChans (Fin.ofNat 64 i) cs).setInstance i v
        .ok (s'.updIommu e fun r => { r with insts := tabSet none r.insts i (some (s.argDc n.val)) })
          (leBytes 8 v.chmap ++ leBytes 1 q ++ leBytes 1 r ++ leBytes 2 b))

/-- Whether the request names an instance: BAD_FIELD above 63, NOT_FOUND where it does not exist. -/
def State.namedInstance (s : State) (n : Nat) (f : Fin 64 → CmdEnd) : CmdEnd :=
  let i := s.arg n 0 1
  if 63 < i then .fail 3 else if (s.instance_ i).st = .none then .fail 6 else f (Fin.ofNat 64 i)

/-- INSTANCE_DESTROY (R368). -/
def execInstanceDestroy (n : Fin 32) (s : State) : Res :=
  .next (s.runCmd n 0x0402 fun s => s.namedInstance n.val fun i =>
    let s := if (s.instance_ i.val).st = .active then s.drainInstance i.val else s
    .waits ((s.updInstance i.val fun v => { v with destroying := true }).beginWork (.destroy i) n))

/-- INSTANCE_RESET (R375). -/
def execInstanceReset (n : Fin 32) (s : State) : Res :=
  .next (s.runCmd n 0x0403 fun s => s.namedInstance n.val fun i =>
    let s := if (s.instance_ i.val).st = .active then s.drainInstance i.val else s
    .waits (s.beginWork (.reset i) n))

/-- INSTANCE_QUERY (R368, R434). -/
def execInstanceQuery (n : Fin 32) (s : State) : Res :=
  .next (s.runCmd n 0x0404 fun s => s.namedInstance n.val fun i =>
    let v := s.instance_ i.val
    .ok s (leBytes 1 (inStCode v.st) ++ leBytes 1 v.slots.length ++ leBytes 1 v.wins.length ++ leBytes 1 v.bw ++ leBytes 2 v.first ++ leBytes 2 v.last ++
      leBytes 8 v.chmap ++ leBytes 1 v.ridq ++ leBytes 1 v.ridr ++ leBytes 2 v.bound ++ leBytes 4 0 ++
      v.wins.flatMap fun w => leBytes 8 (w.base + b2n w.r + 2 * b2n w.w) ++ leBytes 8 w.limit))

end Sys2Proof.Machine
end

