-- ==== Sys2Proof/Machine/Wheel.lean ====
section
/-!
DEFINITION. Rennet's commands for the Wheel (R221, R434, R437).
-/
namespace Sys2Proof.Machine

/-- Whether a stop is an S-core cluster stop. -/
def isCluster (st : Nat) : Bool := stopType st == 0x03

/-- MESH_WHEEL_RESERVE (R215, R216, R437). -/
def execMeshWheelReserve (n : Fin 32) (s : State) : Res :=
  .next (s.runCmd n 0x0501 fun s =>
    let a (o : Nat) : Nat := s.arg n.val o 1
    let form : WheelForm := match a 0 with | 0 => .path | 1 => .fan | _ => .gather
    let vc := a 1
    let k := a 2
    let src := 32 * a 5 + a 4
    let dst := 32 * a 7 + a 6
    let bound := if vc = 5 then src else dst
    let usesSrc := a 0 != 2
    let usesDst := a 0 != 1
    if 2 < a 0 ∨ (vc ≠ 5 ∧ vc ≠ 6) ∨ !([1, 2, 4, 8, 16].contains k) ∨ (usesSrc ∧ (31 < a 4 ∨ 9 < a 5)) ∨ (usesDst ∧ (31 < a 6 ∨ 9 < a 7)) ∨
        (a 0 = 1 ∧ vc = 6) ∨ (a 0 = 2 ∧ vc = 5) ∨ a 3 ≠ 4 ∨ !(isCluster bound) then .fail 3
    else if form ≠ .path ∧ s.mesh.resv.any (fun (_, r) => r.any fun r => r.form == form && r.boundStop == bound && r.agent == 4) then .fail 7
    else if 8 ≤ s.bindings bound then .fail 5
    else
      match s.reserve form vc k (if usesSrc then src else dst) (if usesDst then dst else src) none 4 with
      | none => .fail 5
      | some (s', rid) =>
        .ok s' (leBytes 1 rid.val ++ leBytes 1 0 ++ leBytes 2 (reservationBound form (if usesSrc then src else dst) (if usesDst then dst else src) k)))

/-- MESH_WHEEL_RELEASE: injection stops at once, and the command ends when the slots are free (R221, R437). -/
def execMeshWheelRelease (n : Fin 32) (s : State) : Res :=
  .next (s.runCmd n 0x0502 fun s =>
    let r := s.arg n.val 0 1
    if r = 0 ∨ 127 < r then .fail 3 else
    match tabGet none s.mesh.resv r with
    | none => .fail 6
    | some v =>
      if v.owner.isSome then .fail 4
      else .waits ((s.release r).beginWork (.release (Fin.ofNat 128 r)) n))

/-- WHEEL_RELEASE_SLOTS_FREE: the bound has passed; the slots, then the bindings, are free (R219, R221). -/
def execWheelReleaseSlotsFree (rid : Fin 128) (s : State) : Res :=
  .next (match tabGet none s.mesh.resv rid.val with
  | some r => match r.releaseAt with
    | some c => s.guard (decide (c ≤ s.mesh.cycle)) fun s => (s.freeSlots rid.val).finishWork (.release rid) 0 []
    | none => s
  | none => s)

def formCode : WheelForm → Nat | .path => 0 | .fan => 1 | .gather => 2 | .zero => 3

/-- MESH_WHEEL_QUERY (R437). -/
def execMeshWheelQuery (n : Fin 32) (s : State) : Res :=
  .next (s.runCmd n 0x0503 fun s =>
    let r := s.arg n.val 0 1
    let out (v form vc k sx sy dx dy owner agent b : Nat) : List Byte := ([v, form, vc, k, sx, sy, dx, dy, owner, agent].map (BitVec.ofNat 8)) ++ leBytes 2 b
    if 127 < r then .fail 3
    else if r = 0 then .ok s (out 1 3 5 2 0 0 0 0 0xFF 0 246)
    else match tabGet none s.mesh.resv r with
    | none => .ok s (out 0 0 0 0 0 0 0 0 0 0 0)
    | some v => .ok s (out 1 (formCode v.form) v.vc v.k (v.src % 32) (v.src / 32) (v.dst % 32) (v.dst / 32) (v.owner.getD 0xFF) v.agent v.bound))

end Sys2Proof.Machine
end

