-- ==== Sys2Proof/Machine/Commands.lean ====
section
/-!
DEFINITION. Rennet's commands about itself and mailboxes (R434, R435, R440), memory (R246, R254, R256, R434, R438, R441), the fabric (R325, R330, R333,
R337) and the L3 way groups (R191).
-/
namespace Sys2Proof.Machine

/-! ### Rennet and mailboxes -/

/-- FWVER: the active image's version, or the factory image's. -/
def State.fwVer (s : State) : BitVec 32 :=
  match tabGet none s.ren.active 0 with | some i => i.version | none => Config.fwVersion

/-- RENNET_INFO (R434). -/
def execRennetInfo (n : Fin 32) (s : State) : Res :=
  .next (s.runCmd n 0x0001 fun s =>
    .ok s (leBytes 4 s.fwVer.toNat ++ leBytes 4 Config.ruleVersion.toNat ++ leBytes 2 s.ownPkg ++ leBytes 1 (b2n s.ren.started) ++
      leBytes 1 (min 255 s.ren.restarts) ++ leBytes 4 s.ren.violations))

/-- Whether a range of hart IDs holds an existing hart (R435). -/
def someHart (first last : Nat) : Bool := decide (first ≤ last) && (decide (first < 192) || (decide (256 ≤ last) && decide (first < 304)))

/-- MAILBOX_ASSIGN: it waits for the command BUSY in its target (R430, R434, R435). -/
def execMailboxAssign (n : Fin 32) (s : State) : Res :=
  .next (s.runCmd n 0x0002 fun s =>
    let a (o k : Nat) : Nat := s.arg n.val o k
    let mb := a 0 1
    if mb = 0 ∨ 30 < mb ∨ (63 < a 1 1 ∧ a 1 1 ≠ 0xFF) ∨ 255 < a 2 2 ∨ 511 < a 4 2 ∨ 511 < a 6 2 ∨ !(someHart (a 4 2) (a 6 2)) then .fail 3
    else if (s.mb mb).st = .busy then
      .waits { s with ren := { s.ren with waitAssign := s.ren.waitAssign.filter (fun k => k != n) ++ [n] } }
    else
      let s := { s with ren := { s.ren with waitAssign := s.ren.waitAssign.filter fun k => k != n } }
      .ok (s.updMb mb fun m => { m with
        valid := a 2 2 != 0, inst := BitVec.ofNat 8 (a 1 1), cls := BitVec.ofNat 9 (a 2 2), first := a 4 2, last := a 6 2 }) [])

/-- A notice's record. -/
def Notice.bytes (v : Notice) : List Byte := leBytes 2 v.code ++ leBytes 2 0 ++ leBytes 4 v.detail.toNat ++ leBytes 8 v.time

/-- NOTICE_READ: the notices returned leave the queue, oldest first (R440). -/
def execNoticeRead (n : Fin 32) (s : State) : Res :=
  .next (s.runCmd n 0x0003 fun s =>
    let k := s.arg n.val 0 1
    if k = 0 ∨ 64 < k then .fail 3 else
    let out := s.ren.notices.take k
    .ok { s with ren := { s.ren with notices := s.ren.notices.drop k } }
      (leBytes 1 out.length ++ leBytes 1 0 ++ leBytes 2 s.ren.lostn ++ leBytes 4 0 ++ out.flatMap Notice.bytes))

/-! ### Memory -/

def chStateCode : ChState → Nat
  | .untrained => 0 | .training => 1 | .online => 2 | .shortRetrain => 3 | .selfRefresh => 4 | .offline => 5 | .off => 6

/-- The channel's training ends: it is online after a refresh of all banks, which leaves none postponed or pulled forward, or it has failed once more; an offline
channel stays offline (R225, R246, R253). -/
def Chan.trained (c : Chan) (ok : Bool) : Chan :=
  if c.st = .offline then c
  else if ok then { c with st := .online, postponed := [], pulled := [] }
  else { c with st := .untrained, trainFail := c.trainFail + 1 }

/-- Whether training of channel `ch` passes: from the saved values where they pass their check, and otherwise by full training (R246). -/
def State.trainPasses (s : State) (ch : Nat) (saved : Bool) (ok : BitVec 48) : Bool :=
  (s.chan ch).st != .offline && ((saved && s.plat.savedOk.getLsbD ch) || ok.getLsbD ch)

/-- Trains the channels of a mask. The third failure of one ends the boot (R246). -/
def State.trainChans (s : State) (mask : Nat) (saved : Bool) (ok : BitVec 48) : State :=
  let chs := (List.range 48).filter fun ch => bitOf mask ch
  let s := chs.foldl (fun s ch => s.updChan ch fun c => c.trained (s.trainPasses ch saved ok)) s
  if chs.any fun ch => decide (3 ≤ (s.chan ch).trainFail) then { s with phase := .inert, ren := { s.ren with console := s.ren.console ++ [0x0301] } } else s

/-- Bits of a mask where `p` holds. -/
def bitsWhere (mask : Nat) (p : Nat → Bool) : Nat := ((List.range 48).map fun i => if bitOf mask i && p i then 2 ^ i else 0).sum

/-- MEM_TRAIN: `ok` are the channels that full training succeeds on (R246, R432, R434). -/
def execMemTrain (n : Fin 32) (ok : BitVec 48) (s : State) : Res :=
  .next (s.runCmd n 0x0301 fun s =>
    let mode := s.arg n.val 0 1
    let mask := s.arg n.val 8 8
    if 1 < mode ∨ 2 ^ 48 ≤ mask ∨ s.arg n.val 1 7 ≠ 0 then .fail 3
    else if s.ren.started then .fail 8
    else
      let pass := bitsWhere mask fun ch => s.trainPasses ch (mode == 1) ok
      .ok (s.trainChans mask (mode == 1) ok) (leBytes 8 pass ++ leBytes 8 (mask - pass)))

/-- MEM_CHANNEL_STATUS (R434). -/
def execMemChannelStatus (n : Fin 32) (s : State) : Res :=
  .next (s.runCmd n 0x0302 fun s =>
    let ch := s.arg n.val 0 1
    if 47 < ch then .fail 3 else
    let c := s.chan ch
    .ok s (leBytes 1 (chStateCode c.st) ++ leBytes 1 c.temp.toNat ++ leBytes 1 (min 255 c.trainFail) ++ leBytes 1 0 ++ leBytes 4 c.retrains ++
      leBytes 8 c.corrected ++ leBytes 8 c.replays ++ leBytes 4 c.lastRetrain))

/-- MEM_SCRUB_SET (R254). -/
def execMemScrubSet (n : Fin 32) (s : State) : Res :=
  .next (s.runCmd n 0x0303 fun s =>
    let hrs := s.arg n.val 0 2
    if 168 < hrs then .fail 3 else .ok { s with dram := { s.dram with scrubHours := hrs } } [])

/-- MEM_PAGE_RETIRE (R256, R438). -/
def execMemPageRetire (n : Fin 32) (s : State) : Res :=
  .next (s.runCmd n 0x0304 fun s =>
    let la := s.arg n.val 0 8
    if areaOf s la ≠ .dram then .fail 3 else
    let p := dramPos s.dram.map la
    if s.dram.retired.any fun r => r.ch == p.chan && r.bank == p.bank && r.row == p.row then .fail 7
    else if 4096 ≤ s.dram.retired.length then .fail 5
    else .ok (s.retirePage p.chan p.bank p.row 2)
      (leBytes 1 p.chan ++ leBytes 1 p.bank ++ leBytes 2 0 ++ leBytes 4 p.row ++ leBytes 2 s.dram.retired.length))

/-- The frames that hold data of a page, in ascending chunk order (R231, R256, R441). -/
def retiredFrames (map : BitVec 32) (r : Retired) : List Nat :=
  (List.range 7).map fun j => dramAddr map { chan := r.ch, bank := r.bank, row := r.row, line := 4 * j } / 4096 * 4096

/-- An entry of MEM_RETIRE_LIST (R441). -/
def Retired.bytes (map : BitVec 32) (r : Retired) : List Byte :=
  leBytes 1 r.ch ++ leBytes 1 r.bank ++ leBytes 1 r.cause ++ leBytes 1 0 ++ leBytes 4 r.row ++ (retiredFrames map r).flatMap fun a => leBytes 8 a

/-- MEM_RETIRE_LIST (R434, R441, R442). -/
def execMemRetireList (n : Fin 32) (s : State) : Res :=
  .next (s.runCmd n 0x0305 fun s =>
    if s.arg n.val 2 6 ≠ 0 then .fail 3
    else if !(s.bufOk n.val) then .fail 12
    else
      let out := (s.dram.retired.drop (s.arg n.val 0 2)).take ((s.buf n.val).2 / 64)
      .ok (s.bufPut n.val (out.flatMap fun r => r.bytes s.dram.map)) (leBytes 2 s.dram.retired.length ++ leBytes 2 out.length))

/-! ### Fabric -/

/-- FABRIC_ROUTE_QUERY (R319, R337, R434). -/
def execFabricRouteQuery (n : Fin 32) (s : State) : Res :=
  .next (s.runCmd n 0x0701 fun s =>
    let first := s.arg n.val 0 2
    let cnt := s.arg n.val 2 2
    if cnt = 0 ∨ 256 < cnt ∨ 512 < first + cnt then .fail 3 else
    let grp (l : Nat) : Nat :=
      let k := s.link l
      b2n (k.st == .up) * 128 + (match k.group with | some g => 64 + g.val | none => 0)
    let ent (p : Nat) : Nat := let r := s.route p; if r.v then 2 ^ 31 + r.group.val * 2 ^ 24 + r.hops % 512 else 0
    .ok s ((List.range 8).map (fun l => BitVec.ofNat 8 (grp l)) ++ (List.range cnt).flatMap fun i => leBytes 4 (ent (first + i))))

/-- FABRIC_LINK_STATUS (R337, R434). -/
def execFabricLinkStatus (n : Fin 32) (s : State) : Res :=
  .next (s.runCmd n 0x0702 fun s =>
    let l := s.arg n.val 0 1
    if 7 < l then .fail 3 else
    let k := s.link l
    let expect := match tabGet none s.plat.linkGroup l with | some (_, p) => p.val | none => 0
    .ok s (leBytes 1 (linkCode k.st) ++ leBytes 1 k.width.toNat ++ leBytes 2 k.nbr.toNat ++ leBytes 2 expect ++ leBytes 2 0 ++ leBytes 8 k.corrected ++
      leBytes 8 k.bad ++ leBytes 8 k.replays ++ leBytes 4 k.recoveries ++ leBytes 4 k.downs ++ leBytes 1 k.cause))

/-- FABRIC_LINK_DISABLE: the link leaves its group, and the command ends when nothing that it carries is outstanding (R333). -/
def execFabricLinkDisable (n : Fin 32) (s : State) : Res :=
  .next (s.runCmd n 0x0703 fun s =>
    let l := s.arg n.val 0 1
    if 7 < l then .fail 3
    else if (s.link l).st = .domainOff then .ok s []
    else .waits (((s.leaveGroup l).updLink l fun k => { k with disabling := true }).beginWork (.linkDisable (Fin.ofNat 8 l)) n))

/-- Whether anything that a link carries is outstanding (R333). -/
def State.linkBusy (s : State) (l : Nat) : Bool :=
  let k := s.link l
  k.queue != [] || k.retry != [] || k.replay != [] || k.rxQ != [] || (s.graop.tags.any fun t => t.link == l) || s.graop.homes.any fun e => e.link == l

/-- FABRIC_LINK_DISABLE_DRAINED: LinkNotice leaves for the neighbour, and the link's domain switches off (R333, R449). -/
def execFabricLinkDisableDrained (l : Fin 8) (s : State) : Res :=
  let k := s.link l.val
  .next (if !k.disabling || s.linkBusy l.val then s else
    let s := if k.st = .up then (s.countLink l.val 1 1).countPkts l.val 2 [s.mgtPkt l.val .linkNotice []] else s
    let s := s.setLink l.val { Link.reset with
      st := .domainOff, nbr := k.nbr, nbrLink := k.nbrLink, sent := if k.st = .up then k.sent + 1 else k.sent, acked := k.acked, corrected := k.corrected,
      bad := k.bad, replays := k.replays, recoveries := k.recoveries, downs := k.downs, cause := k.cause, inj := k.inj }
    s.finishWork (.linkDisable l) 0 [])

/-- FABRIC_LINK_ENABLE: the link trains and passes the HELLO check, is held, or is down and tried again; its state answers (R316, R333). -/
def execFabricLinkEnable (n : Fin 32) (trained : Bool) (nbr : Fin 512) (s : State) : Res :=
  .next (s.runCmd n 0x0704 fun s =>
    let l := s.arg n.val 0 1
    if 7 < l then .fail 3 else
    let k := s.link l
    let s :=
      if k.st ≠ .domainOff ∧ k.st ≠ .off then s
      else if (tabGet none s.plat.linkGroup l).isNone then s
      else if trained then (s.setLink l { k with st := .training, disabling := false }).hello l nbr.val k.nbrLink
      else s.setLink l { k with st := .down, downAt := s.time, disabling := false }
    .ok s (leBytes 1 (linkCode (s.link l).st)))

/-- FABRIC_INBOUND_SET (R325). -/
def execFabricInboundSet (n : Fin 32) (s : State) : Res :=
  .next (s.runCmd n 0x0705 fun s =>
    .ok { s with graop := { s.graop with inbound := ~~~(BitVec.ofNat 512 (s.arg n.val 0 64)) } } [])

def timeStCode : TimeState → Nat | .locked => 0 | .slewing => 1 | .holding => 2 | .root => 3
/-- The two's complement of an integer in `n` bytes. -/
def intBytes (n : Nat) (i : Int) : List Byte := leBytes n (i % (2 ^ (8 * n) : Int)).toNat

/-- FABRIC_TIME_STATUS (R330, R434). -/
def execFabricTimeStatus (n : Fin 32) (s : State) : Res :=
  .next (s.runCmd n 0x0706 fun s =>
    let g := s.graop
    let root := if g.timeState = .root then s.ownPkg else g.root
    .ok s (leBytes 2 root ++ leBytes 2 g.rootHops ++ leBytes 1 (timeStCode g.timeState) ++ leBytes 3 0 ++ intBytes 8 g.offset ++ intBytes 4 g.rate))

/-! ### L3 way groups (R191) -/

/-- Lines of way group `g` of the tile with C-tile ordinal `o`. -/
def State.groupLines (s : State) (o g : Nat) : List (Nat × L3Line) :=
  s.coh.l3.filter fun (k, e) => e.valid && homeSlice (64 * k) / 32 == o && e.way.val / 4 == g

/-- Scans the lines of a closed group: a dirty line goes to the victim buffer once that has room, a clean one is invalidated. -/
def State.scanGroup (s : State) (o g : Nat) : State :=
  (s.groupLines o g).foldl (fun s (k, e) =>
    if !e.dirty then s.setL3 k .invalid
    else if s.vbFull k then s
    else ((s.setL3 k .invalid).vbPush k e.data (BitVec.allOnes 64) e.poison e.token).count (nodeStop (sliceNode (homeSlice (64 * k)))) 1 0x0B 1 none) s

/-- STATE of CACHE_WAYGROUP_SET: the groups that are on. -/
def State.waygroups (s : State) : List Byte := (List.range 6).map fun o => (~~~(tabGet 0 s.coh.wayOff o)).setWidth 8

/-- Closes groups to allocation, and opens groups empty. -/
def State.switchGroups (s : State) (o : Nat) (mask on : BitVec 4) : State :=
  { s with coh := { s.coh with
      wayOff := tabSet 0 s.coh.wayOff o ((tabGet 0 s.coh.wayOff o &&& ~~~mask) ||| (mask &&& ~~~on)),
      wayDown := tabSet 0 s.coh.wayDown o (tabGet 0 s.coh.wayDown o &&& ~~~(mask &&& on)) } }

/-- Whether every closed group is switched off. -/
def State.scansDone (s : State) : Bool := (List.range 6).all fun o => tabGet 0 s.coh.wayOff o == tabGet 0 s.coh.wayDown o

/-- CACHE_WAYGROUP_SET: opening a group is done at once; closing one ends with WAYGROUP_SCAN_DONE (R191, R432). -/
def execCacheWaygroupSet (n : Fin 32) (s : State) : Res :=
  .next (s.runCmd n 0x0610 fun s =>
    let ord := s.arg n.val 0 1
    let mask := s.arg n.val 1 1
    let on := s.arg n.val 2 1
    if (5 < ord ∧ ord ≠ 0xFF) ∨ 15 < mask ∨ 15 < on then .fail 3 else
    let s := ((List.range 6).filter fun o => ord == 0xFF || o == ord).foldl (fun s o => s.switchGroups o (BitVec.ofNat 4 mask) (BitVec.ofNat 4 on)) s
    if s.scansDone then .ok s s.waygroups else .waits (s.beginWork .waygroup n))

/-- WAYGROUP_SCAN_DONE: the scan of a closed group reaches its last line; once no memory write of the tile's victim buffers is outstanding, the
group's domain switches off, and after the last group the command ends (R191). -/
def execWaygroupScanDone (o : Fin 6) (g : Fin 4) (s : State) : Res :=
  .next (if !((tabGet 0 s.coh.wayOff o.val).getLsbD g.val) || (tabGet 0 s.coh.wayDown o.val).getLsbD g.val then s else
    let s := s.scanGroup o.val g.val
    if s.groupLines o.val g.val ≠ [] ∨ s.coh.vb.any (fun e => homeSlice e.la / 32 == o.val) then s else
    let s := { s with coh := { s.coh with wayDown := tabSet 0 s.coh.wayDown o.val (tabGet 0 s.coh.wayDown o.val ||| BitVec.ofNat 4 (2 ^ g.val)) } }
    if s.scansDone then s.finishWork .waygroup 0 s.waygroups else s)

end Sys2Proof.Machine
end

