-- ==== Sys2Proof/Machine/Ptes.lean ====
section
/-!
DEFINITION. A walker's accesses to PTEs: the read through the caches or at the home slice, and the compare-and-swap that sets A and D (R272 to R278).
-/
namespace Sys2Proof.Machine

/-- A walker's request to the home slice: a read of the PTE, or the compare-and-swap of an A or D update. Nothing is sent while its earlier one has no answer, or no tag is
free; a request that fails at once has its answer at once (R147, R273, R276). -/
def State.pteAsk (s : State) (h : HartId) (w : Walk) (op : MsgOp) (edit : Flit → Flit) : State :=
  let c := s.hart h
  if c.wreqs.any fun r => r.walk == w.id then s else
  match s.dest w.ptea (((pmaFind s.pma.masters (paLa w.ptea) true).map fun e => e.tmo.toNat * 1000).getD 0) false with
  | .done _ => s.setHart h (c.putWalk { w with got := some { value := 0, poison := false, err := true } })
  | .node n rpkg limit =>
    match s.readTag h with
    | none => s
    | some tag => (s.setHart h { c.useTag tag with wreqs := c.wreqs ++ [{ tag := tag, pa := w.ptea, walk := w.id, deadline := s.time + limit }] }).send
        (edit (ncFlit op (hartNode h) n (paLa w.ptea) tag rpkg (maskOf (w.ptea % 64) 8)))

/-- A walker's read of a PTE: through the hart's caches in C = 1 memory, where a line that is not held is asked for first; at the home slice in C = 0
memory, by a request that has to be answered first (R272 to R274). -/
def State.pteRead (s : State) (h : HartId) (w : Walk) : ReadRes :=
  if s.pteCached w.ptea then s.readLine h (paLa w.ptea) 8 else
  match w.got with
  | none => .wait (s.pteAsk h w .readNc id)
  | some a => if a.err then .tcmError s else if a.poison then .poison s else .value a.value s

/-- WALK_PTE_READ_DONE: walk `k` reads its PTE, after the checks of its address; `err` is a read that ends with an error (R272 to R275). -/
def execWalkPteReadDone (h : HartId) (k : Nat) (err : Bool) (s : State) : Res :=
  let c := s.hart h
  .next (match c.walks.find? fun w => w.id == k && w.upd.isNone with
  | none => s
  | some w =>
    if w.beyond c then s.setHart h (c.walkFault w 5 (atpLevels (c.csrRaw 0x680) - 1)) else
    match s.pteCheck h w.ptea with
    | some r => s.setHart h (c.walkFault w r w.level)
    | none =>
      -- the walk of a squashed instruction makes no access to a C = 0 region (R98)
      if !w.live && !(s.pteCached w.ptea) then s.updHart h fun c => { c with walks := c.walks.filter fun x => x.id != w.id } else
      if err then s.setHart h (c.walkFault w 7 w.level) else
      match s.pteRead h w with
      | .wait s => s
      | .tcmError s => s.updHart h fun c => c.walkFault w 7 w.level
      | .poison s => (s.updHart h fun c => c.walkFault w 8 w.level).poisonUsed h w.ptea 3
      | .value v s => s.updHart h fun c => c.evalPte { w with got := none } (BitVec.ofNat 64 v))

/-- AD_UPDATE: the walker's compare-and-swap of the whole PTE. A different value in memory restarts the walk; else A, and D where the access needs
it, are set (R276 to R278); for a squashed instruction only A in C = 1 memory outside held regions is (R277). In cacheable memory the line is first held writable; a held line takes a token or the write goes through. In C = 0 memory it is an
AtomicNC at the home slice, whose answer decides.
DESIGN CHOICE: a write that PMP or PMA denies carries REASON WALK_PMP (7), which R60 gives for a denied PTE read (log entry 170). -/
def execAdUpdate (h : HartId) (k : Nat) (s : State) : Res :=
  let c := s.hart h
  .next (match c.walks.find? fun w => w.id == k with
  | none => s
  | some w =>
    match w.upd with
    | none => s
    | some p =>
      let la := paLa w.ptea
      let ln := lineOf la
      let redo (s : State) : State :=
        s.updHart h fun c => c.putWalk { (c.rootWalk w.va w.acc w.eff w.hlvx) with id := w.id, live := w.live }
      let done (s : State) : State := (s.updHart h fun c => c.leafDone { w with upd := none, got := none } (w.newPte p)).event h 0x1B 1
      let fails (s : State) (reason : Nat) : State := s.updHart h fun c => c.walkFault { w with upd := none } reason w.level
      if !(c.pmpOk 1 w.ptea 8 1) then fails s 7 else
      match pmaFind s.pma.masters la true with
      | none => fails s 7
      | some e =>
        if !w.live && (w.needsD || !(s.pteCached w.ptea) || e.held) then s.updHart h fun c => { c with walks := c.walks.filter fun x => x.id != w.id } else
        let new := atOffset (la % 64) (w.newPte p).toNat
        let m := maskOf (la % 64) 8
        if s.pteCached w.ptea then
          let a := agentOf h
          let l := s.l2 a ln
          if s.missFailed a ln then fails (s.endMshr a ln) 7
          else if !(l.writable && (s.mshr a ln).isNone && l.mask &&& m == m) then
            s.request a ln (if l.st = .i then .lineOwn else if l.writable then .maskFill else .linePromote) none
          else if l.poison then (fails s 8).poisonUsed h w.ptea 3
          else if lineBytes l.data (la % 64) 8 ≠ p.toNat then redo s
          else match s.tokenFor a la l.dirtyLine e.held with
            | none => s
            | some (s, tok, keep) =>
              let s := s.writeLine h la new m tok
              done (if keep then s else (s.evict a ln).countFallback)
        else
          let o := w.ptea % 64
          match w.got with
          | none => s.pteAsk h w .atomicNc fun f => { f with fn := .cas, size := 8, data := some (atOffset o (w.newPte p).toNat ||| atOffset (casOffset o) p.toNat) }
          | some a => if a.err then fails s 7 else if a.poison then (fails s 8).poisonUsed h w.ptea 3 else if a.value = p.toNat then done s else redo s)

end Sys2Proof.Machine
end

