-- ==== Sys2Proof/Machine/Scalar.lean ====
section
/-!
DEFINITION. Scalar instructions that access no memory: integer (R81, R119), floating point, CSR accesses (R57, R78), control transfers and prediction
(R51 to R53, R71 to R77, R116), WFI and PAUSE (R119, R125), and Mould mode (R62, R128 to R132).
-/
namespace Sys2Proof.Machine

/-! ### Integer -/

/-- Registers that an operand reads. -/
def srcRegs : Src → List Nat | .reg r => [r.val] | .imm _ => []

/-- INTEGER_INSTRUCTION: the result to rd; Zicond is illegal on the S-core (R41, R42, R68, R81, R119). -/
def execIntegerInstruction (h : HartId) (op : IntOp) (rd rs1 : Fin 32) (src : Src) (c : Bool) (s : State) : Res :=
  .next (s.onHart h (ilen c) fun s =>
    let ch := s.hart h
    if !(isT h) && tOnly op then s.illegal h false else
    let a := ch.getX rs1.val
    let b := ch.src src
    let mv := op == .add && src == .imm 0
    let lat := if isT h then latT op a b mv else latS op a b ch.mould
    let wait := if isT h then 0 else ch.stall (rd.val :: rs1.val :: srcRegs src)
    let s := if isT h || wait = 0 then s else s.event h 0x03 wait
    (s.updHart h fun c => (c.setX rd.val (intValue op a b ch.pc)).busy rd.val (wait + lat)).retire h (ilen c) (1 + wait))

/-! ### Floating point -/

/-- The rounding mode of an instruction: 7 takes frm; a reserved mode is illegal. -/
def Hart.roundMode (c : Hart) (rm : Nat) : Option Nat :=
  let r := if rm = 7 then fld (c.csrRaw 0x003) 7 5 else rm
  if r ≤ 4 then some r else none

/-- Accrues exception flags in fflags. -/
def Hart.accrue (c : Hart) (f : FFlags) : Hart := if f = 0 then c else (c.csrPut 0x003 (c.csrRaw 0x003 ||| f.setWidth 64)).dirtyFs

/-- Where a floating-point result goes. -/
inductive FRes where
  | f (fm : FpFmt) (bits : Nat) (fl : FFlags)
  | x (v : Word) (fl : FFlags)
  deriving DecidableEq, Repr

def intBits : FpInt → Nat | .w | .wu => 32 | .l | .lu => 64
def intSigned : FpInt → Bool | .w | .l => true | _ => false

/-- The result of a floating-point instruction on raw register values (F and D, R41). -/
def fpValue (op : FpOp) (rm : Nat) (a b c : Word) (x : Word) : FRes :=
  let v (fm : FpFmt) (w : Word) : FVal := (fmtOf fm).decode (unbox fm w)
  let two (fm : FpFmt) (r : Nat × FFlags) : FRes := .f fm r.1 r.2
  let cmp (r : Bool × FFlags) : FRes := .x (if r.1 then 1 else 0) r.2
  match op with
  | .add m => two m (fpAdd (fmtOf m) rm (v m a) (v m b))
  | .sub m => two m (fpAdd (fmtOf m) rm (v m a) (v m b).neg)
  | .mul m => two m (fpMul (fmtOf m) rm (v m a) (v m b))
  | .div m => two m (fpDiv (fmtOf m) rm (v m a) (v m b))
  | .sqrt m => two m (fpSqrt (fmtOf m) rm (v m a))
  | .madd m => two m (fpFma (fmtOf m) rm (v m a) (v m b) (v m c))
  | .msub m => two m (fpFma (fmtOf m) rm (v m a) (v m b) (v m c).neg)
  | .nmsub m => two m (fpFma (fmtOf m) rm (v m a).neg (v m b) (v m c))
  | .nmadd m => two m (fpFma (fmtOf m) rm (v m a).neg (v m b) (v m c).neg)
  | .sgnj m => .f m (fpSgnj (fmtOf m) 0 (unbox m a) (unbox m b)) 0
  | .sgnjn m => .f m (fpSgnj (fmtOf m) 1 (unbox m a) (unbox m b)) 0
  | .sgnjx m => .f m (fpSgnj (fmtOf m) 2 (unbox m a) (unbox m b)) 0
  | .min m => two m (fpMinMax (fmtOf m) false (unbox m a) (unbox m b))
  | .max m => two m (fpMinMax (fmtOf m) true (unbox m a) (unbox m b))
  | .eq m => cmp (fpEq (v m a) (v m b))
  | .lt m => cmp (fpLt (v m a) (v m b))
  | .le m => cmp (fpLe (v m a) (v m b))
  | .cls m => .x (BitVec.ofNat 64 (fpClass (fmtOf m) (unbox m a))) 0
  | .cvtToInt m i =>
    let (r, fl) := fpToInt rm (intBits i) (intSigned i) (v m a)
    .x (if intBits i = 32 then (BitVec.ofInt 32 r).signExtend 64 else ofI r) fl
  | .cvtFromInt m i =>
    let n : Int := match i with
      | .w => (BitVec.ofNat 32 x.toNat).toInt
      | .wu => (low32 x : Nat)
      | .l => x.toInt
      | .lu => (x.toNat : Nat)
    two m (fpFromInt (fmtOf m) rm n)
  | .cvtSD => two .s (fpConv .single rm (v .d a))
  | .cvtDS => two .d (fpConv .double rm (v .s a))
  | .mvToX m => .x (match m with | .s => sextW a.toNat | .d => a) 0
  | .mvFromX m => .f m (match m with | .s => low32 x | .d => x.toNat) 0

/-- Least latency of a floating-point instruction, and how many latencies from it on the spec gives for it (R81). FMV.D between registers is FSGNJ.D with one source and
is eliminated (R68). -/
def fpLat (op : FpOp) (rs1 rs2 : Fin 32) : Nat × Nat :=
  match op with
  | .add _ | .sub _ | .mul _ | .madd _ | .msub _ | .nmsub _ | .nmadd _ => (4, 1)
  | .div .s => (8, 4) | .div .d => (11, 9)
  | .sqrt .s => (9, 5) | .sqrt .d => (13, 9)
  | .sgnj .d => (if rs1 = rs2 then 0 else 2, 1)
  | .sgnj .s | .sgnjn _ | .sgnjx _ | .min _ | .max _ | .eq _ | .lt _ | .le _ | .cls _ => (2, 1)
  | .mvToX _ | .mvFromX _ => (3, 1)
  | _ => (4, 1)
/-- A latency in a range that the spec gives: a free value where it gives more than one. -/
def State.latIn (s : State) (r : Nat × Nat) : Nat × State := if r.2 ≤ 1 then (r.1, s) else let (k, s) := s.takeNat; (r.1 + k % r.2, s)

/-- Whether the instruction reads its rounding mode. -/
def rounds : FpOp → Bool
  | .sgnj _ | .sgnjn _ | .sgnjx _ | .min _ | .max _ | .eq _ | .lt _ | .le _ | .cls _ | .mvToX _ | .mvFromX _ => false
  | _ => true

/-- FP_INSTRUCTION: T-core only, with FS on (R41, R42, R68, R81). -/
def execFpInstruction (h : HartId) (op : FpOp) (rd rs1 rs2 rs3 : Fin 32) (rm : Fin 8) (s : State) : Res :=
  .next (s.onHart h 4 fun s =>
    let c := s.hart h
    s.legally h (c.fpLegal (isT h)) fun s =>
      match if rounds op then c.roundMode rm.val else some 0 with
      | none => s.illegal h false
      | some r =>
        let (lat, s) := s.latIn (fpLat op rs1 rs2)
        let s := match fpValue op r (c.getF rs1.val) (c.getF rs2.val) (c.getF rs3.val) (c.getX rs1.val) with
          | .f m bits fl => s.updHart h fun c => (((c.setF rd.val (boxF m bits)).dirtyFs).accrue fl).busy (32 + rd.val) lat
          | .x v fl => s.updHart h fun c => ((c.setX rd.val v).accrue fl).busy rd.val lat
        s.retire h 4 1)

/-! ### Mould mode (R62, R128 to R132) -/

/-- Dirty shared-level lines that record the core (R104, R128). -/
def State.shareDirty (s : State) (h : HartId) : List Nat :=
  ((s.agentLines (agentOf h)).filter fun (_, l) => l.dirtyLine && ownLine h l).map Prod.fst

/-- Asks for the write-back of every line of the core's share that is newer than memory (R128). -/
def State.cleanShare (s : State) (h : HartId) : State :=
  (s.shareDirty h).foldl (fun s ln => if s.canClean h ln .cleanKeep then s.sendClean h ln .cleanKeep else s) s

/-- MODE is written to 1: with ACTIVE = 0 and no clean running, entry starts (R62, R128). -/
def State.mouldSet (s : State) (h : HartId) : State :=
  let c := s.hart h
  let x := c.csrRaw 0x7C0
  let c' := c.csrPut 0x7C0 (x ||| 1 ||| (if x.getLsbD 1 then 0 else 4))
  let s := s.setHart h c'
  if x.getLsbD 1 then s else s.cleanShare h

/-- MODE is written to 0: Mould mode ends at once, with the reservation lost; a clean that runs goes on (R63, R131, R132). -/
def State.mouldClear (s : State) (h : HartId) : State :=
  s.updHart h fun c =>
    let x := c.csrRaw 0x7C0
    let c := if x.getLsbD 1 then { c with resv := none } else c
    c.csrPut 0x7C0 (x &&& ~~~3)

/-- A write of xmould: FETCHTCM and MODE (R62). -/
def State.mouldWrite (s : State) (h : HartId) (v : Word) : State :=
  let s := s.updHart h fun c => c.csrPut 0x7C0 ((c.csrRaw 0x7C0 &&& ~~~0x80) ||| (v &&& 0x80))
  if v.getLsbD 0 then s.mouldSet h else s.mouldClear h

/-- XMOULD_MODE_SET: a write that sets MODE retires at once (R62, R128). -/
def execXmouldModeSet (h : HartId) (s : State) : Res :=
  .next (s.onHart h 4 fun s =>
    s.legally h (csrAccess h (s.hart h) 0x7C0 true) fun s => (s.mouldSet h).retire h 4 4)

/-- XMOULD_MODE_CLEAR: ACTIVE clears as the serializing write completes (R131). -/
def execXmouldModeClear (h : HartId) (s : State) : Res :=
  .next (s.onHart h 4 fun s =>
    s.legally h (csrAccess h (s.hart h) 0x7C0 true) fun s => (s.mouldClear h).retire h 4 4)

/-- MOULD_ENTRY: when the clean has ended, the core enters Mould mode at an instruction boundary: ACTIVE = 1, its shares are invalid, the reservation is
lost, and the next instruction issues 4 cycles later; with MODE back at 0 the clean just ends. Lines that became dirty meanwhile join the clean (R63,
R128, R132, R133). A core that sleeps in WFI is taken to be at an instruction boundary (DESIGN CHOICE; log entry 166): the spec does not say. -/
def execMouldEntry (h : HartId) (s : State) : Res :=
  let c := s.hart h
  .next (if isT h || !c.cleaning || c.uload ≠ [] || c.begun then s
    else if s.shareDirty h ≠ [] then s.cleanShare h
    else
      let x := c.csrRaw 0x7C0 &&& ~~~4
      if !(x.getLsbD 0) then s.setHart h (c.csrPut 0x7C0 x) else
      s.setHart h { (c.emptyL1.csrPut 0x7C0 (x ||| 2)) with resv := none, clock := c.clock + 4 })

/-! ### CSR accesses -/

/-- CSR_WRITE: CSRRW, CSRRS and CSRRC with their immediate forms; `writes` is whether the instruction writes (R57, R78, R81, R119). The instruction
counts as retired before its write takes effect. An interrupt that is due is taken before a serializing write begins (R102). -/
def execCsrWrite (h : HartId) (op : CsrOp) (csr : BitVec 12) (rd : Fin 32) (src : Src) (writes : Bool) (s : State) : Res :=
  .next (s.onHart h 4 fun s =>
    let c := s.hart h
    let n := csr.toNat
    let w := writes || op == .rw
    s.legally h (csrAccess h c n w) fun s =>
      match if w && !(nonSerial h n) then s.irqDue h else none with
      | some i => s.trap h (i)
      | none =>
      let old := s.csrRead h n
      let a := c.src src
      let v := match op with | .rw => a | .rs => s.csrOld h n ||| a | .rc => s.csrOld h n &&& ~~~a
      let cost := if !w then 1 else if nonSerial h n then 1 else if isT h then 14 else 4
      let s := (s.updHart h fun c => (c.setX rd.val old).busy rd.val (if isT h then (if w then 2 else 5) else 2)).retire h 4 cost
      let s := if w && !(nonSerial h n) then s.updHart h Hart.dropEarly else s
      if !w then s else if n = 0x7C0 then s.mouldWrite h v else s.csrWrite h n v)

/-! ### Waiting -/

/-- WFI's legality: mstatus.TW below M, hstatus.VTW in a guest, and never in U or VU of a T-core (log entry 8). -/
def wfiLegal (h : HartId) (c : Hart) : CsrAccess :=
  let tw := c.csrBit 0x300 21
  match c.mode with
  | .m => .ok
  | .hs => if tw then .illegal else .ok
  | .u => if tw || isT h then .illegal else .ok
  | .vs => if tw then .illegal else if c.csrBit 0x600 21 then .virt else .ok
  | .vu => if tw then .illegal else .virt

/-- Whether an interrupt is pending and enabled in mie (R125). -/
def State.wakes (s : State) (h : HartId) : Bool := s.mip h &&& (s.hart h).csrRaw 0x304 != 0 || ((s.hart h).vti && (s.vsTop h).isSome)

/-- WFI: the next instruction's address is kept, and issue stops in C1 until an interrupt is pending and enabled (R125, R451). -/
def execWfi (h : HartId) (s : State) : Res :=
  .next (s.onHart h 4 fun s =>
    s.legally h (wfiLegal h (s.hart h)) fun s =>
      let wake := s.wakes h
      let s := s.retire h 4 1
      if wake then s else s.updHart h fun c => { c with idle := .c1, since := s.time })

/-- PAUSE: the next issue 8 S-core cycles later (R119). -/
def execPause (h : HartId) (s : State) : Res := .next (s.onHart h 4 fun s => s.retire h 4 (if isT h then 1 else 8))

/-! ### Control transfers and prediction -/

/-- Whether a transfer is taken, and its target (R81). -/
def ctTaken (k : CtKind) (a b : Word) : Bool :=
  match k with
  | .beq => a == b | .bne => a != b | .blt => a.slt b | .bge => !(a.slt b) | .bltu => a.ult b | .bgeu => !(a.ult b)
  | .jal | .jalr => true
def isBranch : CtKind → Bool | .jal | .jalr => false | _ => true
def linkReg (r : Fin 32) : Bool := r == 1 || r == 5

/-! The direction predictor, the target buffers and the return stack (R66, R70 to R73). The spec gives the tables and their sizes; the functions that index them, how an
entry is allocated and replaced, and the counters' values after power-on are the part's: opaque functions of Config, or a choice that log entry 26 names. -/

/-- History lengths of the eight tagged tables (R70). -/
def histLens : List Nat := [5, 9, 15, 27, 47, 83, 148, 260]
/-- Key and tag of a branch in tagged table `t`. -/
def Pred.tageKey (p : Pred) (t : Nat) (pc : Word) : Nat × Nat :=
  let hs := p.hist.take (histLens.getD t 0)
  (t * 2048 + Config.histIndex t pc hs % 2048, Config.histTag t pc hs)
/-- The tagged table with the longest history that matches (R70). -/
def Pred.provider (p : Pred) (pc : Word) : Option (Nat × TageEntry) :=
  (List.range 8).reverse.findSome? fun t =>
    let (k, tag) := p.tageKey t pc
    match tabGet none p.tagged k with
    | some e => if e.tag = tag then some (k, e) else none
    | none => none
def Pred.baseKey (pc : Word) : Nat := Config.baseIndex pc % 16384
/-- The loop predictor's word: a branch whose trip count has come again and lies between 8 and 65,535 (R70). -/
def Pred.loopSays (p : Pred) (pc : Word) : Option Bool :=
  match p.loops.find? fun e => e.pc == pc with
  | some e => if 1 ≤ e.same ∧ 8 ≤ e.trip ∧ e.trip ≤ 65535 then some (decide (e.count + 1 < e.trip)) else none
  | none => none
/-- The predicted direction of a conditional branch (R70). -/
def Pred.taken (p : Pred) (pc : Word) : Bool :=
  match p.loopSays pc with
  | some b => b
  | none => match p.provider pc with
    | some (_, e) => decide (2 ≤ e.ctr.val)
    | none => decide (2 ≤ (tabGet 1 p.base (Pred.baseKey pc)).val)

/-- The target of a control transfer in the L0 or main target buffer, with the bubbles of its source (R71). -/
def Pred.target (p : Pred) (pc : Word) : Option (Word × Nat) :=
  match p.l0.find? fun e => e.1 == pc with
  | some e => some (e.2, 0)
  | none => ((tabGet [] p.main (Config.mainIndex pc % 1024)).find? fun e => e.1 == pc).map fun e => (e.2, 1)
/-- The indirect target predictor (R66, R71). -/
def Pred.indirect (p : Pred) (pc : Word) : Option (Word × Nat) := (tabGet none p.itp (Config.itpIndex pc p.hist % 2048)).map fun t => (t, 2)

def Pred.push (p : Pred) (a : Word) : Pred :=
  { p with ras := tabSet 0 p.ras p.rasTop a, rasTop := (p.rasTop + 1) % 64, rasLen := min (p.rasLen + 1) 64 }
def Pred.pop (p : Pred) : Pred := if p.rasLen = 0 then p else { p with rasTop := (p.rasTop + 63) % 64, rasLen := p.rasLen - 1 }
def Pred.top (p : Pred) : Word := tabGet 0 p.ras ((p.rasTop + 63) % 64)

/-- Whether a transfer pops and pushes the return stack (R72). -/
def ctPop (k : CtKind) (rd rs1 : Fin 32) : Bool := k == .jalr && linkReg rs1 && (!(linkReg rd) || rd != rs1)
def ctPush (k : CtKind) (rd : Fin 32) : Bool := (k == .jal || k == .jalr) && linkReg rd

/-- The address that fetch follows past a control transfer, and the bubbles before it (R71, R72): a branch without a target-buffer entry, and a JALR without an
entry that is no return, fall through. -/
def Pred.follow (p : Pred) (k : CtKind) (rd rs1 : Fin 32) (pc next target : Word) : Word × Nat :=
  if isBranch k then
    match p.target pc with
    | some (t, b) => if p.taken pc then (t, b) else (next, 0)
    | none => (next, 0)
  else if k == .jal then (target, match p.target pc with | some (_, b) => b | none => 5)
  else if ctPop k rd rs1 && decide (0 < p.rasLen) then (p.top, 1)
  else match p.indirect pc with
    | some r => r
    | none => match (if ctPop k rd rs1 then none else p.target pc) with | some r => r | none => (next, 0)

def ctrMove (c : Fin 4) (up : Bool) : Fin 4 := if up then Fin.ofNat 4 (min (c.val + 1) 3) else Fin.ofNat 4 (c.val - 1)

/-- A retired conditional branch trains the counter that predicted it; after a wrong direction a table of longer history takes an entry; the loop predictor counts
(R70, R73). -/
def Pred.trainDir (p : Pred) (pc : Word) (taken : Bool) : Pred :=
  let wrong := p.taken pc != taken
  let q := match p.provider pc with
    | some (k, e) => { p with tagged := tabSet none p.tagged k (some { e with ctr := ctrMove e.ctr taken }) }
    | none => { p with base := tabSet 1 p.base (Pred.baseKey pc) (ctrMove (tabGet 1 p.base (Pred.baseKey pc)) taken) }
  let t := match p.provider pc with | some (k, _) => k / 2048 + 1 | none => 0
  let q := if wrong && decide (t < 8) then
      let (k, tag) := p.tageKey t pc
      { q with tagged := tabSet none q.tagged k (some { tag := tag, ctr := if taken then 2 else 1 }) }
    else q
  let e := (p.loops.find? fun e => e.pc == pc).getD { pc := pc, trip := 0, count := 0, same := 0 }
  let e := if taken then { e with count := e.count + 1 }
    else { e with trip := e.count + 1, count := 0, same := if e.trip = e.count + 1 then e.same + 1 else 0 }
  { q with loops := (e :: q.loops.filter fun x => x.pc != pc).take 64, hist := (taken :: q.hist).take 260 }

/-- A retired taken transfer trains the target buffers, and a JALR the indirect target predictor too (R73). -/
def Pred.trainTarget (p : Pred) (k : CtKind) (pc target : Word) : Pred :=
  let set := Config.mainIndex pc % 1024
  let p := { p with
    l0 := ((pc, target) :: p.l0.filter fun e => e.1 != pc).take 64,
    main := tabSet [] p.main set (((pc, target) :: (tabGet [] p.main set).filter fun e => e.1 != pc).take 8) }
  if k == .jalr then { p with itp := tabSet none p.itp (Config.itpIndex pc p.hist % 2048) (some target) } else p

/-- What the instructions of a wrong path leave in the return stack once the squash has restored its pointer and its top entry (R72, R98). -/
def Pred.wrongPath (p : Pred) (ops : List RasOp) : Pred :=
  let q := ops.foldl (fun q o => match o with | .pop => q.pop | .push a => q.push a) p
  let slot := (p.rasTop + 63) % 64
  { p with ras := tabSet 0 q.ras slot (tabGet 0 p.ras slot) }

/-- What a control transfer does to the prediction state: it pops and pushes the return stack as it is fetched, and trains the rest as it retires. After a
misprediction the wrong path's work on the return stack is restored but for the deeper entries (R72, R73). -/
def Hart.trainCt (c : Hart) (k : CtKind) (rd rs1 : Fin 32) (pc next target : Word) (taken miss : Bool) (wrong : List RasOp) : Hart :=
  let p := c.pred
  let q := if ctPop k rd rs1 then p.pop else p
  let q := if ctPush k rd then q.push next else q
  let q := if miss then q.wrongPath wrong else q
  let q := if taken then q.trainTarget k pc target else q
  { c with pred := if isBranch k then q.trainDir pc taken else q }

/-- Added cycles and a misprediction of a control transfer on an S-core: static prediction outside Mould mode, fixed costs in it (R116, R119, R129). -/
def sCost (c : Hart) (k : CtKind) (taken back : Bool) : Nat × Bool :=
  match k with
  | .jal => (if c.mould then 3 else 1, false)
  | .jalr => (3, !c.mould)
  | _ => if c.mould then (if taken then 3 else 0, false) else if taken = back then (if taken then 1 else 0, false) else (3, true)

/-- CONTROL_TRANSFER_RESOLVE: a branch or jump resolves and retires. Fetch has followed the prediction; on a misprediction it redirects, 13 cycles later on a T-core, 3
on an S-core, and every younger instruction is squashed, what it has read ahead and the walks it has started included (R72 to R77, R98, R116, R117). `wrong` is what the
instructions of the wrong path did to the return stack. -/
def execControlTransferResolve (h : HartId) (k : CtKind) (rd rs1 rs2 : Fin 32) (imm : BitVec 21) (wrong : List RasOp) (c : Bool) (s : State) : Res :=
  .next (s.onHart h (ilen c) fun s =>
    let ch := s.hart h
    let pc := ch.pc
    let next := pc + BitVec.ofNat 64 (ilen c)
    let off := imm.signExtend 64
    let taken := ctTaken k (ch.getX rs1.val) (ch.getX rs2.val)
    let target := if k = .jalr then (ch.getX rs1.val + off) &&& ~~~1 else pc + off
    let dest := if taken then target else next
    let (followed, bubbles) := ch.pred.follow k rd rs1 pc next target
    let (cost, miss) := if isT h then (if ch.barred then (13, false) else if followed = dest then (bubbles, false) else (13, true))
      else sCost ch k taken (off.slt 0)
    let s := s.eventT h 0x03
    let s := if miss then s.event h 0x04 1 else s
    let s := s.retire h 0 (1 + cost)
    s.updHart h fun c =>
      let c := if isBranch k then c else (c.setX rd.val next).busy rd.val 1
      let c := if isT h then c.trainCt k rd rs1 pc next target taken miss wrong else c
      let c := if miss then { c.dropEarly with walks := c.orphanWalks } else c
      { c with pc := dest })

/-- MDP_CLEAR: the memory-dependence predictor is cleared in full every 2^20 core cycles (R90). -/
def execMdpClear (h : HartId) (s : State) : Res :=
  .next (if isT h then s.updHart h fun c => { c with pred := { c.pred with mdp := [] } } else s)

/-- XPRED_BAR_1: sets the bar and records the mode's rank, or the higher of two ranks; a no-op on the S-core (R47, R51, R52, R78). -/
def execXpredBar1 (h : HartId) (s : State) : Res :=
  .next (s.onHart h 4 fun s =>
    if !(isT h) then s.retire h 4 1 else
    let s := s.retire h 4 14
    s.updHart h fun c =>
      let c := c.dropEarly
      let v := c.csrRaw 0x5C0
      let r := if v.getLsbD 0 then max (fld v 5 4) (modeRank c.mode) else modeRank c.mode
      c.csrPut 0x5C0 (putFld (v ||| 1) 5 4 r))

/-- XPRED_BAR_0: clears the bar at a rank equal to or above the recorded one; otherwise a no-op (R52). -/
def execXpredBar0 (h : HartId) (s : State) : Res :=
  .next (s.onHart h 4 fun s =>
    if !(isT h) then s.retire h 4 1 else
    let s := s.retire h 4 14
    s.updHart h fun c =>
      let c := c.dropEarly
      let v := c.csrRaw 0x5C0
      if v.getLsbD 0 && decide (fld v 5 4 ≤ modeRank c.mode) then c.csrPut 0x5C0 (putFld (v &&& ~~~1) 5 4 0) else c)

/-- XPRED_FLUSH: empties the direction predictor, target buffers and return stack (R53), and squashes what was fetched under them (R78). -/
def execXpredFlush (h : HartId) (s : State) : Res :=
  .next (s.onHart h 4 fun s => if isT h then (s.retire h 4 14).updHart h fun c => c.predFlush.dropEarly else s.retire h 4 1)

end Sys2Proof.Machine
end

