-- ==== Sys2Proof/Machine/Interrupts.lean ====
section
/-!
DEFINITION. The APLIC and the MSIs it sends (R378 to R382, R531), the IMSIC files (R380, R383), and the event lines (R388 to R396).
The register layout of the APLIC is that of the AIA specification (log entry 12).
-/
namespace Sys2Proof.Machine

/-! ### Sources (R381) -/

/-- Modes that a source accepts beside Inactive and Detached. -/
def modeOk (src : Nat) (m : SrcMode) : Bool :=
  match m with
  | .inactive | .detached => true
  | _ =>
    if 257 ≤ src ∧ src ≤ 272 then true
    else if (305 ≤ src ∧ src ≤ 350) ∨ (352 ≤ src ∧ src ≤ 354) then m == .level1
    else m == .edge1

/-- Whether the machine domain may delegate a source. -/
def delegable (src : Nat) : Bool := !(335 ≤ src && src ≤ 350) && !(352 ≤ src && src ≤ 354)

def modeOfCode (n : Nat) : Option SrcMode :=
  match n with | 0 => some .inactive | 1 => some .detached | 4 => some .edge1 | 5 => some .edge0 | 6 => some .level1 | 7 => some .level0 | _ => none
def modeCode : SrcMode → Nat | .inactive => 0 | .detached => 1 | .edge1 => 4 | .edge0 => 5 | .level1 => 6 | .level0 => 7

/-- The rectified input of a source under its mode. -/
def Source.rectified (c : Source) : Bool :=
  match c.mode with
  | .inactive | .detached => false
  | .edge1 | .level1 => c.level
  | .edge0 | .level0 => !c.level

/-- Whether a source is active in a domain. -/
def Source.activeIn (c : Source) (sdom : Bool) : Bool := c.deleg == sdom && c.mode != .inactive

/-- Sets a pending bit by software: in a level mode only while the rectified input is high (R378, AIA). -/
def Source.setPend (c : Source) : Source :=
  match c.mode with
  | .inactive => c
  | .level1 | .level0 => if c.rectified then { c with ip := true } else c
  | _ => { c with ip := true }

/-- A source as its owner finds it after a change of delegation (R381). -/
def Source.fresh (c : Source) (deleg : Bool) : Source := { Source.reset with deleg := deleg, level := c.level }

/-- A new mode. With the rectified input high under the new mode the pending bit may be set: a free choice (R378, AIA). -/
def State.setMode (s : State) (n : Nat) (m : SrcMode) : State :=
  let c := s.source n
  if m = .inactive then s.setSource n (c.fresh c.deleg) else
  let c := { c with mode := m }
  if c.rectified && !c.ip then
    let (k, s) := s.takeNat
    s.setSource n { c with ip := k % 2 == 1 }
  else s.setSource n c

/-- A write of sourcecfg of a source in a domain (R381). -/
def State.sourcecfg (s : State) (sdom : Bool) (n : Nat) (v : BitVec 32) : State :=
  if n = 0 ∨ 1023 < n then s else
  let c := s.source n
  let d := v.getLsbD 10
  let setIt : State := match modeOfCode (fld v 2 0) with | some m => if modeOk n m then s.setMode n m else s | none => s
  if sdom then (if c.deleg && !d then setIt else s)
  else if d then (if delegable n && !c.deleg then s.setSource n (c.fresh true) else s)
  else if c.deleg then s.setSource n (c.fresh false) else setIt

/-- PFAIL_N rises before it has been low for 1 us: no flush is due (R468). -/
def State.pfailRises (s : State) : State :=
  match s.pow.pfail with
  | some t => if s.time < t + 1000 then { s with pow := { s.pow with pfail := none } } else s
  | none => s

/-- WIRED_INPUT_CHANGE: the change reaches the APLIC as one Event flit (R382). Sources from 355 on have no wire; source 354 falls when PFAIL_N rises. -/
def execWiredInputChange (src : Fin 1024) (level : Bool) (s : State) : Res :=
  .next (if src.val = 0 ∨ 354 < src.val then s else if src.val = 354 ∧ !level then (s.pfailRises).wire 354 false else s.wire src.val level)

/-- APLIC_SOURCECFG_WRITE (R381). -/
def execAplicSourcecfgWrite (_who : Master) (sdom : Bool) (src : Fin 1024) (v : BitVec 32) (s : State) : Res := .next (s.sourcecfg sdom src.val v)

/-! ### MSIs (R378, R379, R531) -/

/-- Sends an MSI as a WriteNC from the APLIC; a hart index without a file gets nothing (R379). -/
def State.aplicMsi (s : State) (sdom : Bool) (hart guest eiid : Nat) : State :=
  let la := if sdom then 0x2C00_0000 + hart * 0x8000 + guest * 0x1000 else 0x2800_0000 + hart * 0x1000
  match devNode la with
  | none => s
  | some n => s.send { s.attrs (s.pma.pkgId.toNat * 2 ^ 47 + la) (ncFlit .writeNc (mkNode aplicStop 0) n la 0 0 (maskOf (la % 64) 4)) with data := some (atOffset (la % 64) eiid), size := 4 }

/-- APLIC_MSI_SEND: a pending and enabled source of a domain with IE = 1 forwards its interrupt (R531). -/
def execAplicMsiSend (src : Fin 1024) (s : State) : Res :=
  let c := s.source src.val
  .next (if c.ip && c.ie && c.mode != .inactive && (if c.deleg then s.irq.ieS else s.irq.ieM) then
    (s.setSource src.val { c with ip := false }).aplicMsi c.deleg (fld c.target 26 18) (if c.deleg then fld c.target 14 12 else 0) (fld c.target 10 0)
  else s)

/-! ### APLIC registers (R378) -/

/-- The 32 sources from `32 * k` as bits. -/
def State.srcBits (s : State) (k : Nat) (p : Source → Bool) : Nat :=
  ((List.range 32).map fun b => b2n (32 * k + b != 0 && p (s.source (32 * k + b))) * 2 ^ b).sum

/-- Reads a register of a domain. -/
def State.aplicRead (s : State) (sdom : Bool) (off : Nat) : Word :=
  let bits (o : Nat) (p : Source → Bool) : Word := BitVec.ofNat 64 (s.srcBits ((off - o) / 4) fun c => c.activeIn sdom && p c)
  if off = 0 then BitVec.ofNat 64 (0x8000_0004 + b2n (if sdom then s.irq.ieS else s.irq.ieM) * 256)
  else if off < 0x1000 then
    let c := s.source (off / 4)
    if sdom then (if c.deleg then BitVec.ofNat 64 (modeCode c.mode) else 0)
    else if c.deleg then 0x400 else BitVec.ofNat 64 (modeCode c.mode)
  else if 0x1BC0 ≤ off ∧ off < 0x1BD0 then
    if sdom then 0 else
    match off with | 0x1BC0 => 0x2_8000 | 0x1BC4 => 0x8000_9000 | 0x1BC8 => 0x2_C000 | _ => 0x0030_0000
  else if 0x1C00 ≤ off ∧ off < 0x1C80 then bits 0x1C00 fun c => c.ip
  else if 0x1D00 ≤ off ∧ off < 0x1D80 then bits 0x1D00 fun c => c.rectified
  else if 0x1E00 ≤ off ∧ off < 0x1E80 then bits 0x1E00 fun c => c.ie
  else if off = 0x3000 then (if sdom then s.irq.msiS else s.irq.msiM).setWidth 64
  else if 0x3004 ≤ off ∧ off < 0x4000 then
    let c := s.source ((off - 0x3000) / 4)
    if c.activeIn sdom then c.target.setWidth 64 else 0
  else 0

/-- Updates each source that a 32-bit mask names from `32 * k`. -/
def State.eachSrc (s : State) (sdom : Bool) (k : Nat) (v : Nat) (f : Source → Source) : State :=
  (List.range 32).foldl (fun s b =>
    let n := 32 * k + b
    if n ≠ 0 ∧ bitOf v b ∧ (s.source n).activeIn sdom then s.setSource n (f (s.source n)) else s) s
/-- Updates one source by number. -/
def State.oneSrc (s : State) (sdom : Bool) (n : Nat) (f : Source → Source) : State :=
  if n = 0 ∨ 1023 < n ∨ !((s.source n).activeIn sdom) then s else s.setSource n (f (s.source n))

/-- genmsi: its fields are kept, and the MSI is sent at once, so Busy reads 0 (R378). -/
def State.genmsi (s : State) (sdom : Bool) (v : BitVec 32) : State :=
  let m := v &&& 0x07FC_07FF
  let s := { s with irq := if sdom then { s.irq with msiS := m } else { s.irq with msiM := m } }
  s.aplicMsi sdom (fld m 26 18) 0 (fld m 10 0)

/-- Writes a 32-bit register of a domain. -/
def State.aplicWrite (s : State) (sdom : Bool) (off : Nat) (v : BitVec 32) : State :=
  let n := v.toNat
  if off = 0 then { s with irq := (if sdom then { s.irq with ieS := v.getLsbD 8 } else { s.irq with ieM := v.getLsbD 8 }) }
  else if off < 0x1000 then s.sourcecfg sdom (off / 4) v
  else if 0x1C00 ≤ off ∧ off < 0x1C80 then s.eachSrc sdom ((off - 0x1C00) / 4) n Source.setPend
  else if off = 0x1CDC ∨ off = 0x2000 then s.oneSrc sdom n Source.setPend
  else if off = 0x2004 then s.oneSrc sdom (leNat ((leBytes 4 n).reverse)) Source.setPend
  else if 0x1D00 ≤ off ∧ off < 0x1D80 then s.eachSrc sdom ((off - 0x1D00) / 4) n fun c => { c with ip := false }
  else if off = 0x1DDC then s.oneSrc sdom n fun c => { c with ip := false }
  else if 0x1E00 ≤ off ∧ off < 0x1E80 then s.eachSrc sdom ((off - 0x1E00) / 4) n fun c => { c with ie := true }
  else if off = 0x1EDC then s.oneSrc sdom n fun c => { c with ie := true }
  else if 0x1F00 ≤ off ∧ off < 0x1F80 then s.eachSrc sdom ((off - 0x1F00) / 4) n fun c => { c with ie := false }
  else if off = 0x1FDC then s.oneSrc sdom n fun c => { c with ie := false }
  else if off = 0x3000 then s.genmsi sdom v
  else if 0x3004 ≤ off ∧ off < 0x4000 then
    s.oneSrc sdom ((off - 0x3000) / 4) fun c => { c with target := v &&& (if sdom then 0x07FC_77FF else 0x07FC_07FF) }
  else s

/-! ### IMSIC files (R380, R383, R397) -/

/-- IMSIC_SETEIPNUM: a write of seteipnum_le; identity 0 or one above 2047 changes nothing (R383). -/
def execImsicSeteipnum (h : HartId) (f : ImFileKind) (v : BitVec 32) (s : State) : Res := .next (s.setIdentity h f v.toNat)

/-- IMSIC_TOPEI_CLAIM: the file's top identity is claimed: its pending bit clears (R397, AIA). -/
def execImsicTopeiClaim (h : HartId) (f : ImFileKind) (s : State) : Res :=
  let k := s.file h f
  .next (if fileExists h f && k.top != 0 then s.setFile h f { k with eip := k.eip &&& ~~~(BitVec.ofNat 2048 (2 ^ k.top)) } else s)

/-! ### Event lines (R388 to R396) -/

/-- MS_EVSNK of a sink. -/
def State.evsnk (s : State) (m : Nat) : BitVec 32 := tabGet 0 s.irq.evsnk m
def State.evsrc (s : State) (n : Nat) : BitVec 32 := tabGet 0 s.irq.evsrc n
/-- Whether a sink takes pulses of a line (R396). -/
def State.listens (s : State) (m line : Nat) : Bool := (s.evsnk m).getLsbD 31 && fld (s.evsnk m) 7 0 == line

/-- The input receiver of a GPIO pin sees a level: the APLIC source, and the event source for a selected edge (R381, R389, R390, R395). -/
def State.gpioLevel (s : State) (g : Nat) (lv : Bool) : State :=
  if s.irq.gpioIn.getLsbD g = lv then s else
  let s := { s with irq := { s.irq with gpioIn := putFld s.irq.gpioIn g g (b2n lv) } }
  let s := s.wire (257 + g) lv
  let e := fld (s.evsrc (128 + g)) 25 24
  if e = 2 ∨ (e = 0 ∧ lv) ∨ (e = 1 ∧ !lv) then s.pulse (128 + g) else s

/-- GPIO_EDGE (R389). -/
def execGpioEdge (pin : Fin 16) (level : Bool) (s : State) : Res := .next (s.gpioLevel pin.val level)

/-- A high pulse on an output pin, which its own receiver sees (R390). -/
def State.gpioPulse (s : State) (g : Nat) : State :=
  let s := { s with irq := { s.irq with gpioOut := tabSet 0 s.irq.gpioOut g (tabGet 0 s.irq.gpioOut g + 1) } }
  (s.gpioLevel g true).gpioLevel g false

/-- A trigger of Ladle: dropped while a snapshot is in progress or for want of ring space, and accepted otherwise (R418). The broadcast of T reaches
every stop as an Event flit. -/
def State.ladleTrigger (s : State) (cause : Nat) : State :=
  let l := s.perf.ladle
  if !l.en then s else
  if l.armed || l.collect then { s with perf := { s.perf with ladle := { l with dropbusy := l.dropbusy + 1 } } } else
  let size := 2 ^ l.log2sz.toNat
  let l := { l with seq := l.seq + 1 }
  let used := (l.head + size - l.tail.toNat % size) % size
  if size - 64 < used + 37888 then { s with perf := { s.perf with ladle := { l with dropring := l.dropring + 1 } } }
  else
    { s with perf := { s.perf with ladle := { l with t := s.time + 1000 * l.lead.toNat, armed := true, cause := cause, late := false } } }

/-- Engines whose power domain is off take no pulse (R454). -/
def State.engineOff (s : State) (e : Nat) : Bool := s.pow.engOff.getLsbD e

/-- The action of a sink (R390). -/
def State.sink (s : State) (m : Nat) : State :=
  if m < 64 then (if s.engineOff (m / 32) then s else s.dmaPulse m)
  else if m < 112 then s.setIdentity (.s (Fin.ofNat 48 (m - 64))) .mach (fld (s.evsnk m) 18 8)
  else if m < 128 then s.gpioPulse (m - 112)
  else if m = 144 then (if s.perf.ladle.trigev then s.ladleTrigger 2 else s)
  else s

/-- The stop of a sink: a gate has a copy at every stop (R390, R410). -/
def sinkStop (m : Nat) : Nat :=
  if m < 64 then engineStop (m / 32)
  else if m < 112 then clusterStop ((m - 64) / 4)
  else if m < 128 then mgmtStop else stopId 0 36

/-- The gate copies of a stop that a line toggles (R410). -/
def State.toggleGates (s : State) (stop line : Nat) : State :=
  (List.range 16).foldl (fun s j =>
    if s.listens (128 + j) line then
      { s with irq := { s.irq with gates := tabSet false s.irq.gates (stop * 16 + j) (!(tabGet false s.irq.gates (stop * 16 + j))) } }
    else s) s

/-- A pulse of a line arrives at a stop: every enabled sink there takes it, and at the APLIC's stop source line + 1 (R388). -/
def State.pulseAt (s : State) (stop line : Nat) : State :=
  let s := s.toggleGates stop line
  let s := ((List.range 128 ++ [144]).filter fun m => sinkStop m == stop && s.listens m line).foldl (fun s m => s.sink m) s
  if stop = aplicStop then s.wirePulse (line + 1) else s

/-- EVENT_FLIT: the sinks of a stop take the pulse that has come first of those that have reached it (R388). -/
def execEventFlit (stop : Fin 320) (line : Fin 256) (s : State) : Res :=
  .next (if (s.irq.events.find? fun e => e.1 == stop.val) = some (stop.val, line.val)
    then ({ s with irq := { s.irq with events := s.irq.events.erase (stop.val, line.val) } }).pulseAt stop.val line.val
    else s)

/-- MS_EVSW (R394). -/
def State.evsw (s : State) (v : Nat) : State := (List.range 16).foldl (fun s b => if bitOf v b then s.pulse (144 + b) else s) s

/-- Page of tile 0, stop 34 (R393). -/
def evPage : Nat := 0x1000_0000 + 34 * 0x1_0000

/-- EVSW_PULSE (R393, R394). -/
def execEvswPulse (who : Master) (v : BitVec 32) (s : State) : Res :=
  .next (s.r31Write .evsw (evPage + 0x100) (mkNode aplicStop 0) who fun s => s.evsw v.toNat)

/-- TICK_GENERATOR_PULSE: generator `j` emits a pulse at the multiples of its period (R394). -/
def execTickGeneratorPulse (j : Fin 8) (s : State) : Res :=
  let r := tabGet 0 s.irq.evtick j.val
  let p := fld r 31 0
  .next (if r.getLsbD 63 && decide (100 ≤ p) then (s.passTo (nextMultiple p s.time)).pulse (160 + j.val) else s)

/-- Writes the bytes `m` of MS_EVTICK, MS_EVSRC, MS_EVSNK (R394 to R396). -/
def State.evtickWrite (s : State) (j : Nat) (v m : Word) : State :=
  { s with irq := { s.irq with evtick := tabSet 0 s.irq.evtick j (mergeW (tabGet 0 s.irq.evtick j) v m &&& 0x8000_0000_FFFF_FFFF) } }
def State.evsrcWrite (s : State) (n : Nat) (v m : Word) : State :=
  let old := s.evsrc n
  let w := mergeW old v m
  let w := if 128 ≤ n ∧ n < 144 then (if fld w 25 24 = 3 then putFld w 25 24 (fld old 25 24) else w) &&& 0x8300_00FF else w &&& 0x8000_00FF
  { s with irq := { s.irq with evsrc := tabSet 0 s.irq.evsrc n w } }
def State.evsnkWrite (s : State) (k : Nat) (v m : Word) : State :=
  let w := mergeW (s.evsnk k) v m &&& (if 64 ≤ k ∧ k < 112 then 0x8007_FFFF else 0x8000_00FF)
  { s with irq := { s.irq with evsnk := tabSet 0 s.irq.evsnk k w } }

end Sys2Proof.Machine
end

