-- ==== Sys2Proof/Machine/Brine.lean ====
section
/-!
DEFINITION. The Brine token budget (R462, R466, R467), the sweep of a reduction, the Brine commands and journal (R471, R472), and the writing back of
every line that the flush, package retention and a warm reset share (R456, R468, R513).
-/
namespace Sys2Proof.Machine

/-! ### Budget (R466, R467) -/

/-- LIMIT: floor((0.8 x E - 1,000) x 10,000), at most 2^24, and 0 with no reading in the last second (R466). -/
def State.brineLimit (s : State) : Nat :=
  match s.brine.readAt with
  | some t => if t + 1000000000 ≤ s.time then 0 else min (2 ^ 24) (8000 * s.brine.energy - 10000000)
  | none => 0

/-- Takes up to `n` free tokens out of the allowances, lowest agent first: the allowances left, and what is still to be taken. -/
def drainAllow (t : Tab Nat) (n : Nat) : Tab Nat × Nat :=
  t.foldl (fun (acc, n) (k, v) => (tabSet 0 acc k (v - n), n - v)) (t, n)

/-- Sends the write-back of every dirty held line that has a token, as CBO.CLEAN does (R467). -/
def State.sweep (s : State) : State :=
  if s.brine.cutPend = 0 then s else
  let s := (s.coh.l2.filter fun (_, c) => c.token && (c.st == .m || c.st == .o)).foldl (fun s (k, _) =>
    let a := k / 2 ^ 41
    let ln := k % 2 ^ 41
    match (agentHarts a)[0]? with
    | some h => if s.canClean h ln .cleanKeep then s.sendClean h ln .cleanKeep else s
    | none => s) s
  (s.coh.l3.filter fun (_, e) => e.valid && e.dirty && e.token).foldl (fun s (ln, e) =>
    if s.vbFull ln then s
    else (s.setL3 ln { e with dirty := false, token := false }).vbPush ln e.data (BitVec.allOnes 64) e.poison true) s

/-- Sets the budget. A rise adds the difference to the pool and ends a pending reduction; a fall takes free tokens at once and leaves the rest
pending (R467). -/
def State.setBudget (s : State) (n : Nat) : State :=
  let b := s.brine
  if b.budget ≤ n then
    ({ s with brine := { b with budget := n, pool := b.pool + (n - b.budget), cutPend := 0 } }).driveBrine
  else
    let take := min (b.budget - n) b.free
    let fromPool := min take b.pool
    let (al, _) := drainAllow b.allow (take - fromPool)
    let b := { b with budget := b.budget - take, pool := b.pool - fromPool, allow := al, cutPend := b.budget - n - take }
    (({ s with brine := b }).driveBrine).sweep

/-- The budget toward which the package is moving. -/
def State.budgetGoal (s : State) : Nat := s.brine.budget - s.brine.cutPend

/-- Rennet sets the budget to LIMIT or to the platform's lower cap, with notice 0x0008 on a change (R466). -/
def State.applyLimit (s : State) : State :=
  let n := match s.plat.budgetCap with | some c => min c s.brineLimit | none => s.brineLimit
  if n = s.budgetGoal then s else (s.setBudget n).notice 8 n

/-- HOLDUP_ENERGY_READ (R466). -/
def execHoldupEnergyRead (mj : BitVec 32) (s : State) : Res :=
  .next (if !s.ren.up then s else
    ({ s with brine := { s.brine with energy := mj.toNat, readAt := some s.time } }).applyLimit)

/-- HOLDUP_READING_STALE: 1 s without a reading makes LIMIT 0 (R466, R473). -/
def execHoldupReadingStale (s : State) : Res :=
  .next (match s.brine.readAt with
  | some t =>
    if !s.ren.up then s else
    let s := s.passTo (t + 1000000000)
    ({ s with brine := { s.brine with readAt := none } }).applyLimit
  | none => s)

/-- TOKEN_REFILL: the allowance of an agent below 204, or of slice `agent - 204`, is filled to 16 from the pool (R462). -/
def execTokenRefill (agent : Nat) (s : State) : Res :=
  .next (if 396 ≤ agent then s else
    let a := tabGet 0 s.brine.allow agent
    let n := min (16 - a) s.brine.pool
    { s with brine := { s.brine with allow := tabSet 0 s.brine.allow agent (a + n), pool := s.brine.pool - n } })

/-! ### Commands (R462, R471, R472) -/

/-- BRINE_STATUS (R462, R434). -/
def execBrineStatus (n : Fin 32) (s : State) : Res :=
  .next (s.runCmd n 0x0810 fun s =>
    .ok s (leBytes 4 s.brine.budget ++ leBytes 4 s.brine.free ++ leBytes 4 s.brine.energy ++ leBytes 4 0 ++ leBytes 8 s.brine.fallback))

/-- BRINE_JOURNAL_STORE: the bytes become the newest generation (R472). -/
def execBrineJournalStore (n : Fin 32) (s : State) : Res :=
  .next (s.runCmd n 0x0811 fun s =>
    let len := s.arg n.val 8 4
    if len < 64 ∨ 65536 < len then .fail 3
    else if !(s.bufOk n.val) then .fail 12
    else match s.bufGet n.val len with
    | none => .fail 12
    | some bs =>
      let g := s.ren.jrnlGen + 1
      .ok { s with ren := { s.ren with jrnlGen := g, jrnl := bs } } (leBytes 4 g))

/-- The flush outcome record (R471). -/
def State.outcomeRec (s : State) : List Byte :=
  let f := s.ren.flush
  if s.ren.outcome = 0 then leBytes 64 0 else
  leBytes 1 s.ren.outcome ++ leBytes 7 0 ++ leBytes 8 f.t0 ++ leBytes 8 f.lines ++ leBytes 4 f.duration ++ leBytes 4 f.energy ++ leBytes 32 0

/-- BRINE_JOURNAL_LOAD: the outcome record, then the newest marked generation, as far as the buffer holds them (R442, R471, R472). -/
def execBrineJournalLoad (n : Fin 32) (s : State) : Res :=
  .next (s.runCmd n 0x0812 fun s =>
    if !(s.bufOk n.val) then .fail 12 else
    let j := s.ren.jrnl
    .ok (s.bufPut n.val (s.outcomeRec ++ j)) (leBytes 4 s.ren.jrnlGen ++ leBytes 4 (min j.length ((s.buf n.val).2 - 64))))

/-! ### Writing every line back (R456, R468, R513) -/

/-- Stores a whole line in DRAM with its poison; an offline channel discards it (R253). -/
def State.storeLine (s : State) (ln : Nat) (d : Line) (poison : Bool) : State :=
  if (s.chan (s.chanOf (64 * ln))).st = .offline then s else
  { s with
    mem := { s.mem with dram := memLinePut s.mem.dram (64 * ln) (BitVec.allOnes 64) d },
    dram := { s.dram with marks := tabSet .clean s.dram.marks ln { LineMark.clean with poison := poison } } }

/-- Lines whose newest value may lie outside memory: dirty in an agent, in a write-back buffer, in the L3, in a victim buffer, or on their way. -/
def State.dirtyLines (s : State) : List Nat :=
  let l2 : List Nat := (s.coh.l2.filter fun (_, c) => c.st == .m || c.st == .o).map fun (k, _) => k % 2 ^ 41
  let wb : List Nat := s.coh.wb.map fun e => e.la / 64
  let l3 : List Nat := (s.coh.l3.filter fun (_, e) => e.valid && e.dirty).map Prod.fst
  let vb : List Nat := s.coh.vb.map fun e => e.la / 64
  let fl : List Nat := (s.flits.filter fun f => (f.op == .dataGrant || f.op == .probeData) && f.data.isSome && f.size != 2).map fun f => f.addr.toNat / 64
  let tx : List Nat := (s.coh.txn.filter fun (_, t) => match t with | some t => !t.done && t.data.isSome && t.dirty | none => false).map Prod.fst
  (l2 ++ wb ++ l3 ++ vb ++ fl ++ tx).dedup

/-- Tokens that lie outside the pool and the allowances. -/
def State.tokensUsed (s : State) : Nat := s.brine.budget - s.brine.free

/-- Every queued write of a channel, then every line of a list, reaches memory; no cache holds a line any more, and no message is on its way. -/
def State.settle (s : State) (lines : List Nat) : State :=
  let vals := lines.map fun ln => (ln, s.newest ln)
  let s := s.selfRefreshAll
  let s := vals.foldl (fun s (ln, v) => s.storeLine ln v.1 v.2) s
  { s with
    coh := { s.coh with l2 := [], l3 := [], sf := [], vb := [], wb := [], txn := [], waitq := [], mshr := [], streams := [], fills := [] },
    mesh := { s.mesh with inject := [], bufs := [], used := [], ret := [], arrived := [], orphans := [], ewa := [] } }

/-- Every token is free, once what a reduction awaits is retired (R456, R467, R513). -/
def State.freeAllTokens (s : State) : State :=
  let n := s.budgetGoal
  ({ s with brine := { s.brine with budget := n, cutPend := 0, pool := n - (s.brine.allow.map Prod.snd).sum } }).driveBrine

/-- Writes of engines, root ports and link stops that are on their way to a slice are performed (R468, R513). -/
def State.landWrites (s : State) : State :=
  (s.flits ++ s.coh.waitq).foldl (fun s f =>
    if f.op == .writeNc && f.dst.sub == 1 && (hartOfNode f.src).isNone then s.pokeLine f.addr.toNat (f.data.getD 0) f.mask else s) s

end Sys2Proof.Machine
end

