-- ==== Sys2Proof/Machine/Rind.lean ====
section
/-!
DEFINITION. Rind: what a refused access does (R445), Rennet resets, the fence and the restart (R446, R447).
-/
namespace Sys2Proof.Machine

/-- An hour in ns. -/
def hourNs : Nat := 3600000000000

/-- A BUSY command is completed with RESULT 0x000B and a response without payload, and the mailbox is DOWN; a mailbox whose instance is gone loses VALID
(R428, R435, R447). It enters DOWN and not DONE, so its interrupt does not pulse. -/
def State.mbDown (s : State) (n : Nat) : State :=
  let s := if (s.mb n).st = .busy then s.finishCmd n 11 [] else s
  s.updMb n fun m =>
    { m with
      st := .down, result := if m.st = .busy then 11 else m.result, ran := none, grant := none, valid := m.valid && !m.closing, closing := false }

/-- Rind fences Rennet: a record, and budget 0 (R446). -/
def State.fence (s : State) : State :=
  let s := { s with ren := { s.ren with fenced := true } }
  let s := s.logErr { mkErr 0x13 3 mgmtStop true with detail := min 255 s.ren.restarts }
  s.setBudget 0

/-- A Rennet reset: mailboxes DOWN, work that its commands had begun goes on without them, and the fourth reset within an hour fences (R446, R447). -/
def State.rennetReset (s : State) : State :=
  if s.ren.fenced then s else
  let s := (List.range 32).foldl State.mbDown s
  let recent := (s.ren.resets.filter fun t => decide (s.time < t + hourNs)) ++ [s.time]
  let s := { s with ren := { s.ren with
    up := false, restarts := s.ren.restarts + 1, resets := recent, waitAssign := [],
    unfinished := (s.ren.unfinished.filter fun (x : Unfinished × Option (Fin 32)) => x.1 != Unfinished.token).map fun (x : Unfinished × Option (Fin 32)) => (x.1, none) } }
  let s := { s with sec := { s.sec with toks := s.sec.toks.map fun (k, _) => (k, none) } }
  if 4 ≤ recent.length then s.fence else s

/-- Rules whose refusal resets Rennet (R445). -/
def resetsRennet (rule : Nat) : Bool := rule == 7 || rule == 9 || rule == 10 || rule == 12

/-- What Rind does beyond dropping the access (R445). -/
def State.rindRefuse (s : State) (rule : Nat) : State :=
  let s := s.logErr { mkErr 0x12 3 mgmtStop true with detail := rule }
  let s := { s with ren := { s.ren with violations := s.ren.violations + 1 } }
  let s := s.notice 0x0A rule
  if resetsRennet rule then s.rennetReset else s

/-- RIND_HEARTBEAT (R446). -/
def execRindHeartbeat (s : State) : Res := .next (if s.ren.up then { s with ren := { s.ren with lastBeat := s.time } } else s)
/-- HEARTBEAT_TIMEOUT: 100 ms pass since the last heartbeat (R446). -/
def execHeartbeatTimeout (s : State) : Res :=
  .next (if s.ren.up then (s.passTo (s.ren.lastBeat + 100000000)).rennetReset else s)
/-- LOCKSTEP_MISMATCH (R446). -/
def execLockstepMismatch (s : State) : Res := .next s.rennetReset

/-- Ends one piece of interrupted work when what it waits for has happened (R447). -/
def State.finishInterrupted (s : State) : Unfinished → State
  | .destroy i | .reset i => match execInstanceResetDrainDone i s with | .next s => s | _ => s
  | .release r => match execWheelReleaseSlotsFree r s with | .next s => s | _ => s
  | .linkDisable l => match execFabricLinkDisableDrained l s with | .next s => s | _ => s
  | .waygroup | .token => s

/-- RENNET_RESTART_DONE: Rennet ends every interrupted destroy, reset, release and disable; with none left it serves again, posts notice 0x0009,
and goes on with a boot flow that waits for it (R428, R447, R520). -/
def execRennetRestartDone (s : State) : Res :=
  .next (if s.ren.fenced || s.ren.up || s.phase == .inert || s.sec.boot == 0 || s.sec.boot == 8 then s else
    let s := s.ren.unfinished.foldl (fun s (u, _) => s.finishInterrupted u) s
    if s.ren.unfinished.any fun (u, _) => u != .waygroup then s else
    let s := (List.range 32).foldl (fun s n => s.updMb n fun m => if m.st = .down then { m with st := .idle } else m) s
    ({ s with ren := { s.ren with up := true, lastBeat := s.time } }).notice 9 s.ren.restarts |>.maybeStart)

end Sys2Proof.Machine
end

