-- ==== Sys2Proof/Machine/Power.lean ====
section
/-!
DEFINITION. Power: frequency limits and their causes (R457 to R461, R507 to R509), power domains (R449), hart idle states (R451 to R453), package
retention (R455, R456).
-/
namespace Sys2Proof.Machine

/-! ### Frequencies (R457, R460, R507 to R509) -/

/-- Active T-cores: in Run or C1 (R457). -/
def State.activeCores (s : State) : Nat := 192 - (s.tcores.filter fun (_, c) => c.idle == .c2 || c.idle == .c3).length
/-- The active-core limit in MHz (R457). -/
def State.activeLimit (s : State) : Nat :=
  let n := s.activeCores
  if n ≤ 8 then 3600 else if n ≤ 32 then 3400 else if n ≤ 96 then 3200 else if n ≤ 144 then 3000 else 2800

/-- Highest sensor of a tile in degrees; the table holds the difference from 25. -/
def State.sensorOf (s : State) (t : Nat) : Int := 25 + tabGet 0 s.pow.sensor t
/-- Ceiling of a tile by its highest sensor (R507). -/
def bandLimit (c : Int) : Nat := if c < -20 then 2000 else if c ≤ 95 then 3600 else if c ≤ 100 then 3200 else 2800
def State.ledger (s : State) (t : Nat) : Ledger := tabGet .reset s.pow.ledger t
/-- Service-life ceiling of a T-core: its tile's band and ledger, and its aging monitor's reduction (R507 to R509). -/
def State.lifeLimit (s : State) (h : Nat) : Nat :=
  let t := cTile (h / 32)
  let led := if (s.ledger t).lim1 then 2800 else 3600
  let ag := 3600 - tabGet 0 s.pow.agingCut (t * 16 + Config.monitorOf (h % 32) % 16)
  min (bandLimit (s.sensorOf t)) (min led ag)

/-- Ceiling of POWER_FREQ_SET. -/
def State.ceilOf (s : State) (h : Nat) : Nat := (tabGet Hart.resetT s.tcores h).ceil
/-- The first four limits of R457 for a ceiling: the active-core limit, and what the power and thermal limits take off. -/
def State.applied (s : State) (ceil : Nat) : Nat := max 1000 (min ceil s.activeLimit - max s.pow.cut s.pow.thermCut)
/-- Frequency granted to T-core `h` in MHz (R457, R460). -/
def State.freqOf (s : State) (h : Nat) : Nat :=
  if s.pow.hwthr then 1000 else min (s.applied (s.ceilOf h)) (min (s.lifeLimit h) Config.currentLimit)

/-- The cause flags of R461. -/
def State.causes (s : State) : BitVec 32 :=
  let cores := List.range 192
  let power := s.pow.cut != 0 && cores.any fun h => decide (1000 < min (s.ceilOf h) s.activeLimit)
  let therm := s.pow.thermCut != 0 && cores.any fun h => decide (1000 < min (s.ceilOf h) s.activeLimit)
  let current := cores.any fun h => decide (Config.currentLimit < s.ceilOf h)
  let life := cores.any fun h => decide (s.lifeLimit h < s.ceilOf h)
  let hw := s.pow.hwthr && cores.any fun h => decide (1000 < s.ceilOf h)
  BitVec.ofNat 32 (b2n power + 2 * b2n therm + 4 * b2n current + 8 * b2n life + 16 * b2n hw + 32 * b2n s.pow.trip)

/-- Takes the cause flags as they stand; notice 0x0007 marks a change (R440, R461). -/
def State.rethrottle (s : State) : State :=
  let f := s.causes
  if f = s.pow.throttle then s else ({ s with pow := { s.pow with throttle := f } }).notice 7 f.toNat

/-- TCTL of a tile (R460, R508). -/
def State.tctlOf (s : State) (t : Nat) : Int := if (s.ledger t).lim2 then min s.pow.tctl 95 else s.pow.tctl

/-- POWER_SAMPLE: with an average above its limit every active T-core goes down by 100 MHz, and with both within their limits up again (R459). -/
def execPowerSample (slow fast : Nat) (s : State) : Res :=
  .next (if !s.ren.up then s else
    let p := { s.pow with slowW := slow, fastW := fast }
    let hot := decide (p.limitW < slow) || decide (11 * p.limitW < 10 * fast)
    ({ s with pow := { p with cut := if hot then min 2600 (p.cut + 100) else p.cut - 100 } }).rethrottle)

/-- THERMAL_SAMPLE: sensors of tile `t` are read: source 352 and Rennet's control at TCTL, HWTHR in hardware, and THERMTRIP_N, which stops every hart
(R460). -/
def execThermalSample (t : Fin 8) (hottest : Int) (s : State) : Res :=
  let s := { s with pow := { s.pow with sensor := tabSet 0 s.pow.sensor t.val (hottest - 25) } }
  let hotNow := (List.range 8).any fun i => decide (s.tctlOf i ≤ s.sensorOf i)
  let above := (List.range 8).any fun i => decide (s.tctlOf i < s.sensorOf i)
  let p := s.pow
  let thermCut := if !s.ren.up then p.thermCut else if above then min 2600 (p.thermCut + 100) else p.thermCut - 100
  let hwthr := if (List.range 8).any fun i => decide (103 ≤ s.sensorOf i) then true
    else p.hwthr && !((List.range 8).all fun i => decide (s.sensorOf i < 100))
  let trip := p.trip || (List.range 8).any fun i => decide (p.tripAt ≤ s.sensorOf i)
  let s := { s with pow := { p with thermCut := thermCut, hwthr := hwthr, trip := trip } }
  let s := if trip && !p.trip then s.mapHarts (fun c => { c with stopped := true }) allHarts else s
  .next ((s.wire 352 hotNow).rethrottle)

/-! ### Service life (R508, R509) -/

/-- Factor of R508 in tenths. -/
def lifeFactor (c : Int) (fast : Bool) : Nat :=
  let f := if c ≤ 85 then 5 else if c ≤ 95 then 10 else 16
  if fast then 2 * f else f

/-- The limits of a ledger: above H + 500 hours, above H + 2,000 hours, released at A ≤ H. -/
def Ledger.limits (l : Ledger) : Ledger :=
  { l with
    lim1 := if l.a ≤ l.h then false else l.lim1 || decide (l.h + 500 * 36000 < l.a),
    lim2 := if l.a ≤ l.h then false else l.lim2 || decide (l.h + 2000 * 36000 < l.a) }

/-- LIFE_LEDGER_SAMPLE: one second of tile `t` (R508). -/
def execLifeLedgerSample (t : Fin 8) (s : State) : Res :=
  .next (if !s.ren.up then s else
    let top := match ordOf t.val with | some o => (List.range 32).foldl (fun m i => max m (s.freqOf (32 * o + i))) 0 | none => 0
    let l := s.ledger t.val
    let l := ({ l with h := l.h + 10, a := l.a + lifeFactor (s.sensorOf t.val) (decide (2800 < top)) }).limits
    ({ s with pow := { s.pow with ledger := tabSet .reset s.pow.ledger t.val l } }).rethrottle)

/-- LIFE_LEDGER_SAVE (R508). -/
def execLifeLedgerSave (s : State) : Res :=
  .next (if s.ren.up then { s with pow := { s.pow with ledgerSaved := s.pow.ledger } } else s)

/-- One step of margin lost by a monitor: a record, and 5 mV while the rail's window lasts, else 100 MHz (R509). -/
def State.agingStep (s : State) (t mon step : Nat) (windowLeft : Bool) : State :=
  let s := s.logErr { mkErr 0x16 0 (errStop t) false with detail := mon + step % 256 * 256 }
  let p := s.pow
  { s with pow := if windowLeft then { p with agingMv := tabSet 0 p.agingMv t (tabGet 0 p.agingMv t + 5) }
      else { p with agingCut := tabSet 0 p.agingCut (t * 16 + mon) (tabGet 0 p.agingCut (t * 16 + mon) + 100) } }

/-- AGING_MONITOR_READ: `steps` is the monitor's loss of margin in steps of 5 ps (R509). -/
def execAgingMonitorRead (t : Fin 8) (mon : Fin 16) (steps : Nat) (windowLeft : Bool) (s : State) : Res :=
  .next (if !s.ren.up then s else
    let k := t.val * 16 + mon.val
    let old := tabGet 0 s.pow.margin k
    let s := (List.range' (old + 1) (steps - old)).foldl (fun s i => s.agingStep t.val mon.val i windowLeft) s
    ({ s with pow := { s.pow with margin := tabSet 0 s.pow.margin k (max old steps) } }).rethrottle)

/-! ### Commands (R196, R449, R457, R459, R461) -/

/-- POWER_LIMIT_SET (R459). -/
def execPowerLimitSet (n : Fin 32) (s : State) : Res :=
  .next (s.runCmd n 0x0801 fun s =>
    let w := s.arg n.val 0 2
    if w < 450 ∨ 750 < w then .fail 3 else .ok { s with pow := { s.pow with limitW := w } } [])

/-- POWER_FREQ_SET (R457). -/
def execPowerFreqSet (n : Fin 32) (s : State) : Res :=
  .next (s.runCmd n 0x0802 fun s =>
    let mhz := s.arg n.val 24 2
    if mhz < 1000 ∨ 3600 < mhz ∨ mhz % 100 ≠ 0 then .fail 3 else
    let mask := s.arg n.val 0 24
    let s := s.mapHarts (fun c => { c with ceil := mhz }) (((List.finRange 192).filter fun h => bitOf mask h.val).map .t)
    .ok s.rethrottle (leBytes 2 (s.applied mhz)))

/-- Whether a reservation other than 0 is held (R196). -/
def State.reserved (s : State) : Bool := s.mesh.resv.any fun (k, r) => k != 0 && r.isSome

/-- POWER_MESH_FREQ_SET (R196). -/
def execPowerMeshFreqSet (n : Fin 32) (s : State) : Res :=
  .next (s.runCmd n 0x0803 fun s =>
    let mhz := s.arg n.val 0 2
    if mhz < 1000 ∨ 2000 < mhz ∨ mhz % 100 ≠ 0 then .fail 3
    else if s.reserved then .fail 8
    else .ok { s with pow := { s.pow with meshMhz := mhz } } [])

/-- The highest sensor of the package. -/
def State.tjMax (s : State) : Int := (List.range 8).foldl (fun m t => max m (s.sensorOf t)) (s.sensorOf 0)

/-- POWER_STATUS (R461). -/
def execPowerStatus (n : Fin 32) (s : State) : Res :=
  .next (s.runCmd n 0x0804 fun s =>
    .ok s (leBytes 2 s.pow.slowW ++ leBytes 2 s.pow.limitW ++ intBytes 1 s.tjMax ++ leBytes 3 0 ++ leBytes 4 s.pow.throttle.toNat))

/-- Whether a controller is off by its tile's bifurcation (R524). -/
def State.bifurOff (s : State) (i : Nat) : Bool := i % 3 == 1 && (if i < 3 then s.plat.bifur0 else s.plat.bifur1) == .x16x8

/-- POWER_DOMAIN_SET: a PCIe controller at any time, a transfer engine only with no instance and no busy channel (R449). -/
def execPowerDomainSet (n : Fin 32) (s : State) : Res :=
  .next (s.runCmd n 0x0805 fun s =>
    let kind := s.arg n.val 0 1
    let i := s.arg n.val 1 1
    let on := s.arg n.val 2 1
    if 1 < kind ∨ 1 < on ∨ (if kind = 0 then 5 else 1) < i then .fail 3
    else if kind = 0 then
      if s.bifurOff i then .fail 8 else
      let s := { s with pow := { s.pow with pcieOff := putFld s.pow.pcieOff i i (1 - on) } }
      .ok (if on = 0 then { s with pcie := { s.pcie with reqs := s.pcie.reqs.filter fun r => r.ctl != i, posted := s.pcie.posted.filter fun p => p.1 != i } } else s) []
    else if ((List.range' (32 * i) 32).any fun k => (s.instance_ k).st != .none || (s.dma k).busy) then .fail 8
    else
      let s := if on = 0 ∧ !(s.pow.engOff.getLsbD i) then (List.range' (32 * i) 32).foldl (fun s c => s.setDma c .reset) s else s
      .ok { s with pow := { s.pow with engOff := putFld s.pow.engOff i i (1 - on) } } [])

/-! ### Idle states (R192, R451 to R453) -/

/-- Whether PW_LTOL admits a state with wake time `ns` and code `code` (R452). -/
def Hart.admits (c : Hart) (code ns : Nat) : Bool :=
  (c.tol == 0xFFFF || decide (ns ≤ c.tol.toNat * 100)) && decide (code ≤ c.maxc.toNat)

/-- Whether a hart may go deeper than it is: no wake condition, no debug halt, no Mould mode (R451, R452). -/
def State.mayDeepen (s : State) (h : HartId) : Bool :=
  s.phase == .run && !(s.wakes h) && !(s.hart h).halted && !(s.hart h).haltReq && !(s.isMould h)

/-- IDLE_C2_ENTRY: dirty L1 D data goes into the L2, or a core's share into the shared level with the shares invalid; the reservation is lost
(R143, R451). -/
def execIdleC2Entry (h : HartId) (s : State) : Res :=
  let c := s.hart h
  let t := s.passTo (c.since + 10000)
  .next (if c.idle ≠ .c1 ∨ !(t.mayDeepen h) ∨ !(c.admits 1 (if isT h then 2000 else 3000)) then s else
    let s := t
    s.updHart h fun c =>
      { (if isT h then { c with dl1 := c.dl1.map fun x => { x with dirty := false } } else c.emptyL1) with idle := .c2, since := s.time, resv := none })

/-- An agent stops allocating and empties its caches: dirty lines by ReturnDirty, the others by ReturnClean, set by set (R192). What the write-back buffer has no room
for, and what comes in by a grant outstanding, follows as answers arrive. -/
def State.emptyAgent (s : State) (a : Nat) : State :=
  ({ s with coh := { s.coh with noAlloc := tabSet false s.coh.noAlloc a true } }).goesOn a

/-- IDLE_C3_ENTRY: a T-core's L2 stops allocating and empties (R192, R451). -/
def execIdleC3Entry (h : HartId) (s : State) : Res :=
  let c := s.hart h
  let t := s.passTo (c.since + 200000)
  .next (if c.idle ≠ .c2 ∨ !(t.mayDeepen h) ∨ !(c.admits 2 40000) then s else
    let s := t.updHart h fun c => { c with idle := .c3, since := t.time, resv := none }
    if isT h then s.emptyAgent (agentOf h) else s)

/-- Forgets translations, walks and predictions (R451, R516). -/
def Hart.forget (c : Hart) : Hart :=
  { c with itlb := [], dtlb := [], tlb := [], wcache := [], gcache := [], walks := [], wfaults := [], pred := .empty, pfL1 := [], pfL2 := [] }

/-- Removes the TCM bytes of S-core `n`: its TCMs hold nothing written any more (R107; log entry 2). -/
def Mems.dropTcm (m : Mems) (h : HartId) : Mems :=
  { m with tcm := m.tcm.filter fun (k, _) => k / 0x2_0000 != hartIdx h, tcmErr := m.tcmErr.filter fun (k, _) => k / 0x4000 != hartIdx h }

/-- Whether the snoop filter records an agent, or its write-back buffer holds a line. -/
def State.recorded (s : State) (a : Nat) : Bool := (s.coh.sf.any fun (_, e) => e.agents.contains a) || s.coh.wb.any fun e => e.agent == a

/-- POWER_DOMAIN_OFF: the domain of a hart in C3 switches off, a T-core's only when the snoop filter holds its agent in no entry (R192, R449, R451). -/
def execPowerDomainOff (h : HartId) (s : State) : Res :=
  .next (if (s.hart h).idle ≠ .c3 ∨ s.pow.coreOff.contains (hartIdx h) ∨ (isT h && (s.recorded (agentOf h) || !(s.emptied (agentOf h)))) then s else
    let s := { s with pow := { s.pow with coreOff := s.pow.coreOff ++ [hartIdx h] } }
    let s := s.updHart h Hart.forget
    if isT h then s else { s with mem := s.mem.dropTcm h })

/-- Brings a hart back to Run: its domain is on and its L2 allocates (R452). -/
def State.wake (s : State) (h : HartId) : State :=
  let s := { s with
    pow := { s.pow with coreOff := s.pow.coreOff.filter fun k => k != hartIdx h },
    coh := { s.coh with noAlloc := if isT h then tabSet false s.coh.noAlloc (agentOf h) false else s.coh.noAlloc } }
  s.updHart h fun c => { c with idle := .run, since := s.time }

/-- HART_WAKE: an interrupt that is pending and enabled ends the wait, whichever state it is in or entering (R451, R452). -/
def execHartWake (h : HartId) (s : State) : Res :=
  .next (if (s.hart h).idle ≠ .run ∧ s.wakes h ∧ !s.pow.retention ∧ s.phase = .run then s.wake h else s)

/-! ### Package retention (R455, R456) -/

/-- The conditions of R455 that the model sees, held for 1 ms where it knows since when. -/
def State.mayRetain (s : State) : Bool :=
  s.phase == .run && s.ren.up && !s.pow.retention &&
    (allHarts.all fun h =>
      let c := s.hart h
      (c.idle == .c3 || (!(isT h) && c.idle == .c2)) && decide (c.since + 1000000 ≤ s.time) && decide (30000 ≤ c.tol.toNat) && !(s.wakes h)) &&
    ((List.range 64).all fun c => !(s.dma c).busy) && ((List.range 32).all fun n => (s.mb n).st != .busy) &&
    !s.perf.ladle.armed && !s.perf.ladle.collect && ((List.range 8).all fun l => (s.link l).st == .off || (s.link l).st == .domainOff)

/-- When the last hart went idle. -/
def State.idleSince (s : State) : Nat := allHarts.foldl (fun m h => max m (s.hart h).since) 0

/-- PACKAGE_RETENTION_ENTRY: every dirty line goes to memory and every cache is empty, every token is free, the channels are in self-refresh and the
ports off (R456). -/
def execPackageRetentionEntry (s : State) : Res :=
  let t := s.passTo (s.idleSince + 1000000)
  .next (if !t.mayRetain then s else
    let s := t
    let s := (s.settle s.dirtyLines).freeAllTokens
    { s with pow := { s.pow with retention := true, portOff := BitVec.allOnes 24 } })

/-- The earliest MS_MTIMECMP. -/
def State.firstTimer (s : State) : Nat := allHarts.foldl (fun m h => min m (s.mtimecmp h).toNat) (2 ^ 64)

/-- Whether a cause ends retention: a timer is reached, some GPIO source is enabled, a debug level admits DBG_WAKE (R456, R492). -/
def State.wakeOk (s : State) : WakeCause → Bool
  | .timer => true
  | .gpio => (List.range 16).any fun g => (s.evsrc (128 + g)).getLsbD 31
  | .debug => s.sec.level != 0
  | .pcie | .i3c => true

/-- Ends retention: ports on, channels back online with their trained values, caches empty (R248, R456). -/
def State.resume (s : State) : State :=
  ({ s with pow := { s.pow with retention := false, portOff := 0 } }).wakeChannels

/-- PACKAGE_RETENTION_EXIT (R456). -/
def execPackageRetentionExit (why : WakeCause) (s : State) : Res := .next (if s.pow.retention && s.wakeOk why then (if why = .timer then s.passTo s.firstTimer else s).resume else s)

/-- DBG_WAKE: Update-DR with 1 requests the exit; at Sealed it is not accepted (R487, R492). -/
def execDbgWake (s : State) : Res := .next (if s.pow.retention && s.sec.level != 0 then s.resume else s)

end Sys2Proof.Machine
end

