-- ==== Sys2Proof/Machine/Errors.lean ====
section
/-!
DEFINITION. Error record registers (R497, R498), Rennet's log (R500), fatal errors (R505, R506) and the power-fail flush (R468 to R470).
-/
namespace Sys2Proof.Machine

/-! ### Record registers (R497, R498) -/

/-- ES_HDR. -/
def ErrRec.hdr (r : ErrRec) : Nat :=
  b2n r.v * 2 ^ 63 + b2n r.addrv * 2 ^ 62 + b2n r.reqv * 2 ^ 61 + r.cls * 2 ^ 58 + r.typ * 2 ^ 48 + r.unit * 2 ^ 40 + r.sub * 2 ^ 37 + r.cause * 2 ^ 16 + r.count
/-- ES_REQ. -/
def ErrRec.reqWord (r : ErrRec) : Nat := r.pkg * 2 ^ 48 + r.sx * 2 ^ 40 + r.sy * 2 ^ 32 + r.ssub * 2 ^ 28 + r.tag
/-- The register of a record at an offset. -/
def ErrRec.word (r : ErrRec) (off : Nat) : Word :=
  match off with
  | 0x00 => BitVec.ofNat 64 r.hdr
  | 0x08 => BitVec.ofNat 64 r.pa
  | 0x10 => BitVec.ofNat 64 r.reqWord
  | 0x18 => r.detail
  | 0x20 => BitVec.ofNat 64 r.time
  | _ => 0

def State.errRec (s : State) (t k : Nat) : ErrRec := tabGet .empty (s.errBank t).recs k

/-- ES_STATUS and ES_CECNT. -/
def ErrBank.status (b : ErrBank) : Word := BitVec.ofNat 64 (b.lost.toNat * 2 ^ 48 + (b.recs.filter fun (_, r) => r.v).length)
def ErrBank.cecnt (b : ErrBank) : Word := BitVec.ofNat 64 (b2n b.wrap * 2 ^ 63 + b.ceCount.toNat)

/-- Frees a record, which may lower the RAS input (R494, R498). -/
def State.freeRec (s : State) (t k : Nat) : State :=
  let b := s.errBank t
  (s.setErrBank t { b with recs := tabSet .empty b.recs k { tabGet ErrRec.empty b.recs k with v := false } }).driveErr t

/-- A write of ES_CECNT: COUNT is RW, WRAP is RW1C. -/
def State.cecntWrite (s : State) (t : Nat) (v m : Word) : State :=
  let b := s.errBank t
  let cnt := (b.ceCount &&& ~~~(m.setWidth 32)) ||| ((v &&& m).setWidth 32)
  (s.setErrBank t { b with ceCount := cnt, wrap := b.wrap && !((v &&& m).getLsbD 63) }).driveErr t
/-- A write of ES_CTL. -/
def State.threshWrite (s : State) (t : Nat) (v : BitVec 32) : State := (s.setErrBank t { s.errBank t with thresh := v }).driveErr t

/-- ES_RECORD_FREE: ES_HDR.V is written with 1, under the rule of R31 (R495, R498). -/
def execEsRecordFree (who : Master) (t : Fin 8) (k : Fin 64) (s : State) : Res :=
  let la := 0x1000_0000 + t.val * 0x100_0000 + stopIdx (errStop t.val) * 0x1_0000 + 0x4000 + k.val * 0x40
  .next (s.r31Write (.esRec t.val k.val 0) la (mkNode (errStop t.val) 0) who fun s => s.freeRec t.val k.val)

/-! ### Rennet's log (R500) -/

/-- The copy of a record. -/
def ErrRec.toLog (r : ErrRec) (index tile : Nat) : LogRec :=
  { index := index, tile := tile, cls := r.cls, hdr := r.word 0, addr := r.word 8, req := r.word 0x10, detail := r.word 0x18, time := r.word 0x20 }

/-- Keeps the newest `n` of a list. -/
def newestN {α : Type} (n : Nat) (l : List α) : List α := l.drop (l.length - n)

/-- Appends a record to the log, and from class 2 on to the journal. -/
def State.logCopy (s : State) (r : LogRec) : State :=
  { s with ren := { s.ren with
      log := newestN 16384 (s.ren.log ++ [r]), logNext := s.ren.logNext + 1,
      journal := if 2 ≤ r.cls then newestN 1024 (s.ren.journal ++ [r]) else s.ren.journal } }

/-- ERROR_RECORD_COPY: Rennet copies a record that it has not copied yet (R500). -/
def execErrorRecordCopy (t : Fin 8) (k : Fin 64) (s : State) : Res :=
  let r := s.errRec t.val k.val
  let key := (t.val, k.val, r.order)
  .next (if !s.ren.up || !r.v || s.ren.logCopied.contains key then s else
    let s := s.logCopy (r.toLog s.ren.logNext t.val)
    { s with ren := { s.ren with logCopied := (s.ren.logCopied.filter fun (a, b, _) => !(a == t.val && b == k.val)) ++ [key] } })

/-- A log record as ERROR_LOG_READ returns it. -/
def LogRec.bytes (r : LogRec) : List Byte :=
  leBytes 8 r.hdr.toNat ++ leBytes 8 r.addr.toNat ++ leBytes 8 r.req.toNat ++ leBytes 8 r.detail.toNat ++ leBytes 8 r.time.toNat ++ leBytes 4 r.index ++
    leBytes 1 r.tile ++ leBytes 19 0

/-- ERROR_LOG_READ: records from index FIRST onward, as many as the buffer holds (R442, R500). -/
def execErrorLogRead (n : Fin 32) (s : State) : Res :=
  .next (s.runCmd n 0x0A01 fun s =>
    if s.arg n.val 4 4 ≠ 0 then .fail 3
    else if !(s.bufOk n.val) then .fail 12
    else
      let first := s.arg n.val 0 4
      let out := (s.ren.log.filter fun r => decide (first ≤ r.index)).take ((s.buf n.val).2 / 64)
      let next := match out.getLast? with | some r => r.index + 1 | none => s.ren.logNext
      .ok (s.bufPut n.val (out.flatMap LogRec.bytes)) (leBytes 4 next ++ leBytes 4 out.length))

/-! ### Core-fatal errors (R505) -/

def coreFatalCode : CoreFatal → Nat | .regFile => 0 | .rename => 1 | .l2Tag => 2 | .vectorFetch => 3

/-- A line that its owner cannot supply: the home allocates it dirty and poisoned, with a CACHE_UE record of the L2 (R505). -/
def State.lostLine (s : State) (a ln : Nat) : State :=
  let c := s.l2 a ln
  if c.st = .i then s else
  let own := (s.sf ln).owner == some a
  let s := (s.lineLost a ln).setL2 a ln .invalid
  let s := s.setSf ln ((s.sf ln).drop a)
  if !own then s else
  let (d, s) := s.takeLine
  let s := s.logErr { mkErr 0x02 1 (nodeStop (agentNode a)) false with pa := some (s.ownPkg * 2 ^ 47 + 64 * ln), detail := 1 }
  match s.l3Put ln d true true c.token 1 with
  | some s => s
  | none => s.vbPush ln d (BitVec.allOnes 64) true c.token

/-- CORE_FATAL_ERROR: the hart stops; `bad` are the lines whose L2 tag can no longer be read. Every other line of the L2 is written back (R505). -/
def execCoreFatalError (h : HartId) (cause : CoreFatal) (bad : List La) (s : State) : Res :=
  .next (if (s.hart h).fatal then s else
    let s := (s.coreFatal h (coreFatalCode cause)).updHart h fun c => { c with resv := none }
    if isT h then
      let a := agentOf h
      (bad.foldl (fun s la => s.lostLine a (lineOf la.toNat)) s).emptyAgent a
    else s)

/-! ### The flush (R468, R469) -/

/-- The pieces of retired stores to held memory in every store buffer, oldest store first in each. -/
def State.heldStores (s : State) : List (SbEntry × SbPart) :=
  (s.tcores ++ s.scores).flatMap fun (_, c) => (c.sb.filter (·.retired)).flatMap fun e =>
    (e.parts.filter fun p => p.region == .cached && p.held).map fun p => (e, p)

/-- Retired stores to held memory leave the store buffers (R468 step 3, R469). -/
def State.drainHeld (s : State) : State :=
  s.heldStores.foldl (fun s (e, p) => s.pokeBytes (paLa p.pa) (leBytes p.size (e.bytesOf p)) 2) s

/-- Lines of retired stores to held memory. -/
def State.storeLines (s : State) : List Nat := s.heldStores.map fun (_, p) => lineOf (paLa p.pa)

/-- Stops every hart: instructions that have not retired are discarded (R468 step 2, R513 step 1). -/
def State.stopHarts (s : State) : State :=
  s.mapHarts (fun c => { c.dropEarly with stopped := true, uload := [], fence := none, walks := [], sb := c.sb.filter fun e => e.retired }) allHarts

/-- Steps 2 to 6: harts stop, retired stores and issued writes land, held dirty lines, write-back buffers and victim buffers reach memory, the channels
enter self-refresh, and the record is programmed (R468). -/
def State.flushSteps (s : State) (t0 : Nat) : State :=
  let used := s.tokensUsed
  let s := s.stopHarts
  let stores := s.storeLines
  let s := s.drainHeld.landWrites
  let held := (s.dirtyLines ++ stores).dedup.filter fun ln => s.heldAt (64 * ln)
  let wb : List Nat := s.coh.wb.map fun e => e.la / 64
  let vb : List Nat := s.coh.vb.map fun e => e.la / 64
  let lines := (held ++ wb ++ vb).dedup
  let s := s.settle lines
  let (d, s) := s.takeNat
  let rec_ : FlushRec :=
    { valid := true, complete := true, consumed := false, t0 := t0, lines := held.length, duration := d % (2001 + used / 4000), energy := s.brine.energy,
      map := s.dram.map, popDens := s.plat.dens.toNat, popClam := s.plat.clam }
  { s with ren := { s.ren with flush := rec_ }, sec := { s.sec with toks := [], authErr := s.sec.authErr && s.sec.toks.isEmpty }, phase := .inert }

/-- PFAIL_N_FALL: event source 177 pulses, source 354 is high, and the detection interval starts (R381, R389, R468). -/
def execPfailNFall (s : State) : Res :=
  .next ((({ s with pow := { s.pow with pfail := some s.time } }).pulse 177).wire 354 true)

/-- Whether this package has already flushed since its last cold reset. -/
def State.flushed (s : State) : Bool := s.phase == .inert && s.ren.flush.valid && !s.ren.flush.consumed

/-- POWER_FAIL_FLUSH: PFAIL_N has been low for 1 us (R468). -/
def execPowerFailFlush (s : State) : Res :=
  .next (match s.pow.pfail with
  | some t => if s.flushed then s else (s.passTo (t + 1000)).flushSteps (max s.time (t + 1000))
  | none => s)

def pkgFatalCode : PkgFatal → Nat | .l3Tag => 0 | .snoopFilter => 1 | .tracker => 2

/-- PKG_FATAL_ERROR: a record in the bank and the journal, the cause on the console, every hart stops, and steps 2 to 6 of the flush run (R506). -/
def execPkgFatalError (sl : Fin 192) (cause : PkgFatal) (s : State) : Res :=
  .next (if s.phase = .inert then s else
    let e : ErrInfo := { mkErr 0x11 5 (nodeStop (sliceNode sl.val)) false with sub := 1, detail := pkgFatalCode cause }
    let r := e.toRec s.time s.err.orders
    let s := s.logErr e
    let s := { s with ren := { s.ren with
      journal := newestN 1024 (s.ren.journal ++ [r.toLog s.ren.logNext (tileOf e.stop)]), logNext := s.ren.logNext + 1, console := s.ren.console ++ [0x11] } }
    s.flushSteps s.time)

end Sys2Proof.Machine
end

