-- ==== Sys2Proof/Machine/Security.lean ====
section
/-!
DEFINITION. Identity and firmware: quotes and certificates (R479 to R481), debug tokens and the debug level (R439, R482 to R485, R493), staging and
committing images (R439, R474 to R478).
-/
namespace Sys2Proof.Machine

/-! ### Attestation -/

/-- The body of a quote (R481). -/
def State.quoteBody (s : State) (n : Nat) : List Byte :=
  leBytes 4 0x5154_5845 ++ leBytes 2 1 ++ leBytes 1 s.sec.level.val ++ leBytes 1 s.sec.dbgmax.val ++ leBytes 1 (s.mb n).inst.toNat ++
    leBytes 1 s.sec.rsvn ++ leBytes 1 s.sec.hsvn ++ leBytes 1 s.sec.keymin ++ leBytes 2 s.ownPkg ++ leBytes 2 0 ++ leBytes 16 Config.packageUid.toNat ++
    leBytes 32 (Config.bootNonce s.sec.nonce).toNat ++ leBytes 64 (s.arg n 0 64) ++ leBytes 64 Config.ruleHash.toNat ++
    leBytes 64 (Config.bodyHash 0 (tabGet none s.ren.active 0)).toNat ++
    leBytes 64 (if s.ren.hostOk then (Config.bodyHash 1 (tabGet none s.ren.active 1)).toNat else 0) ++
    leBytes 8 s.time ++ leBytes 4 Config.ruleVersion.toNat ++ leBytes 4 s.fwVer.toNat ++ leBytes 176 0

/-- Bytes of a signature (R474, R481, R484). -/
def sigLen : Nat := 4627

/-- ATTEST_QUOTE: body, signature and the zero bytes of the last line; without a seed STATE (R481). `sig` is the signature that the identity block
makes. -/
def execAttestQuote (n : Fin 32) (sig : List Byte) (s : State) : Res :=
  .next (s.runCmd n 0x0901 fun s =>
    if s.arg n.val 72 4 < 8192 then .fail 3
    else if !(s.bufOk n.val) then .fail 12
    else if s.sec.seedErased then .fail 8
    else .ok (s.bufPut n.val (s.quoteBody n.val ++ (sig ++ List.replicate sigLen 0).take sigLen ++ List.replicate 45 0)) (leBytes 4 (512 + sigLen)))

/-- CERT_CHAIN_READ: what fits of the certificates, and the count written (R442, R480). -/
def execCertChainRead (n : Fin 32) (chain : List Byte) (s : State) : Res :=
  .next (s.runCmd n 0x0902 fun s =>
    if !(s.bufOk n.val) then .fail 12
    else .ok (s.bufPut n.val chain) (leBytes 4 (min chain.length (s.buf n.val).2)))

/-! ### Debug tokens -/

/-- Bytes of a token. -/
def tokenLen : Nat := 4800

/-- Whether the identity block finds a token valid (R484). -/
def State.tokenValid (s : State) (k : DbgToken) : Bool :=
  k.magicOk && k.level != 0 && k.zerosOk && k.uidOk && k.nonceOk && k.keyOk && k.sigOk && k.confirm == (if k.level = 3 then 0xA5 else 0) &&
    (if k.level = 1 then decide (k.inst < 64) && (s.instance_ k.inst).st != .none else k.inst == 0xFF)

def State.pushToken (s : State) (k : DbgToken) (n : Option (Fin 32)) : State := { s with sec := { s.sec with toks := s.sec.toks ++ [(k, n)] } }

/-- DEBUG_LEVEL_SET: a lower level at once; otherwise the token in the buffer goes to the identity block, and the command waits for its check. A buffer
shorter than a token holds none (R429, R439, R483, R484). `tok` is what the buffer holds. -/
def execDebugLevelSet (n : Fin 32) (tok : DbgToken) (s : State) : Res :=
  .next (s.runCmd n 0x0903 fun s =>
    let l := s.arg n.val 0 1
    if 3 < l ∨ s.arg n.val 2 6 ≠ 0 then .fail 3
    else if l < s.sec.level.val then
      if s.arg n.val 8 8 ≠ 0 ∨ s.arg n.val 16 4 ≠ 0 then .fail 3
      else .ok (s.setLevel (Fin.ofNat 4 l) (if l = 1 then s.sec.inst else 0xFF)) (leBytes 1 l)
    else if l = 3 ∧ s.arg n.val 1 1 ≠ 0xA5 then .fail 3
    else if !(s.bufOk n.val) ∨ s.peekPoison (s.buf n.val).1 (min tokenLen (s.buf n.val).2) then .fail 12
    else if tok.level = 3 ∧ s.arg n.val 1 1 ≠ 0xA5 then .fail 3
    else
      let whole := decide (tokenLen ≤ (s.buf n.val).2)
      .waits ((s.pushToken (if whole then tok else { tok with magicOk := false }) (some n)).beginWork .token n))

/-- DBG_AUTH_SUBMIT: Update-DR of DBG_AUTH hands a token to the identity block, at every level; during the flush tokens are discarded (R487, R492,
R493). -/
def execDbgAuthSubmit (tok : DbgToken) (s : State) : Res := .next (if s.flushed then s else s.pushToken tok none)

/-- A valid token's level: entry to Open erases the seed first (R483, R485). -/
def State.enterLevel (s : State) (k : DbgToken) : State :=
  let s := if k.level = 3 then { s with sec := { s.sec with eraseIntent := true, seedErased := true } } else s
  s.setLevel k.level (if k.level = 1 then k.inst else 0xFF)

/-- TOKEN_CHECK_DONE: the check of the token that arrived first ends (R484, R488, R493). -/
def execTokenCheckDone (s : State) : Res :=
  .next (match s.sec.toks with
  | [] => s
  | (k, n) :: rest =>
    let ok := s.tokenValid k
    let s := { s with sec := { s.sec with toks := rest, authErr := !ok } }
    let s := if ok then s.enterLevel k else s
    if n.isNone then s
    else if ok then s.finishWork .token 0 (leBytes 1 k.level.val) else s.finishWork .token 13 [])

/-! ### Images -/

/-- Largest body of a target in bytes (R474). -/
def bodyMax (t : Nat) : Nat := if t = 0 then 983040 else 67108864
/-- Bytes of the header. -/
def hdrLen : Nat := 7424

/-- The anti-rollback counter of a target (R478). -/
def State.svnOf (s : State) (t : Nat) : Nat := if t = 0 then s.sec.rsvn else s.sec.hsvn

/-- Whether R475 accepts an image. -/
def State.imageOk (s : State) (t : Nat) (i : ImageInfo) : Bool :=
  i.headerOk && i.sigOk && i.hashOk && i.keyOk && decide (s.svnOf t ≤ i.svn) && decide (i.svn ≤ 127) && i.length % 64 == 0 && decide (i.length ≤ bodyMax t) &&
    (t != 0 || (decide (s.sec.keymin ≤ i.keyslot) && decide (i.keyslot ≤ 3)))

/-- Active slot of a target (R476). -/
def State.activeSlot (s : State) (t : Nat) : Nat := tabGet 0 s.ren.actSlot t
/-- What a slot of the boot flash holds: an image that FW_STAGE wrote, or none for the factory's (R477). -/
def State.slot (s : State) (t k : Nat) : Option ImageInfo := tabGet none s.ren.slots (2 * t + k)

/-- FW_STAGE: the image is verified, and it is written to the spare slot of its target (R439, R442, R475, R477, R478, R502). `img` is what the buffer
holds. -/
def execFwStage (n : Fin 32) (img : ImageInfo) (s : State) : Res :=
  .next (s.runCmd n 0x0904 fun s =>
    let t := s.arg n.val 12 1
    if 1 < t then .fail 3
    else if !(s.bufOk n.val) ∨ s.peekPoison (s.buf n.val).1 (min (hdrLen + img.length) (s.buf n.val).2) then .fail 12
    else if t = 1 ∧ s.plat.hsize < hdrLen + img.length then .fail 3
    else if !(s.imageOk t img) ∨ (s.buf n.val).2 < hdrLen + img.length then .fail 13
    else
      let r := s.ren
      .ok { s with ren := { r with
        slots := tabSet none r.slots (2 * t + (1 - s.activeSlot t)) (some img), staged := tabSet false r.staged t true,
        commit := tabSet false r.commit t false } } (leBytes 4 img.version.toNat))

/-- FW_COMMIT: the staged image becomes active at the next cold reset; the counters rise when the host starts (R439, R478). -/
def execFwCommit (n : Fin 32) (s : State) : Res :=
  .next (s.runCmd n 0x0905 fun s =>
    let t := s.arg n.val 0 1
    if 1 < t then .fail 3
    else if !(tabGet false s.ren.staged t) then .fail 8
    else .ok { s with ren := { s.ren with commit := tabSet false s.ren.commit t true, raiseOtp := true } } [])

end Sys2Proof.Machine
end

