-- ==== Sys2Proof/Machine/HartReset.lean ====
section
/-!
DEFINITION. Hart reset: PW_HRST (R514 to R516), the reset itself, release, and the self-test of a fatal hart.
-/
namespace Sys2Proof.Machine

/-- The hart starts at RVEC, or halts before its first instruction where setresethaltreq is in effect and the debug level permits it (R516). -/
def State.startAtRvec (s : State) (h : HartId) : State :=
  let s := s.updHart h fun c => { c with pc := c.rvec, held := false, haveReset := true }
  if (s.hart h).setResetHalt && s.permitted h then s.updHart h fun c => c.enterDebug 5 else s

/-- Architectural state at its reset values; what belongs to the stop page, the debug module and the store buffer stays (R516). -/
def Hart.archReset (t : Bool) (c : Hart) (now : Nat) : Hart :=
  let r := if t then Hart.resetT else Hart.resetS
  { r with
    rvec := c.rvec, seq := c.seq, clock := c.clock, sb := c.sb, track := c.track, wreqs := c.wreqs, late := c.late, tol := c.tol, maxc := c.maxc, ceil := c.ceil, haltGroup := c.haltGroup,
    setResetHalt := c.setResetHalt, held := c.held, fatal := c.fatal, stopped := c.stopped, rstBusy := c.rstBusy, since := now }

/-- A hart's IMSIC files at their reset values. -/
def State.clearFiles (s : State) (h : HartId) : State :=
  { s with irq := { s.irq with imsic := s.irq.imsic.filter fun (k, _) => k / 9 != hartIdx h } }

/-- The work of a hart reset: caches, an S-core's shares among them while its cluster keeps the lines, translations and predictions, architectural state, IMSIC files, and the start at
RVEC (R516). A T-core's reset is over when its caches are empty. -/
def State.hartResetNow (s : State) (h : HartId) : State :=
  let s := s.updHart h fun c => c.archReset (isT h) s.time
  let s := (s.clearFiles h).startAtRvec h
  if isT h then s.emptyAgent (agentOf h) else if (s.hart h).fatal then s else s.updHart h fun c => { c with rstBusy := false }

/-- Retired stores to the TCMs and to cacheable memory are performed; those to uncached targets are issued as far as the tracker has room (R516). -/
def State.drainNow (s : State) (h : HartId) : State :=
  let sb := (s.hart h).sb
  let s := (sb.filter (·.retired)).foldl (fun s e => e.parts.foldl (fun s p =>
    match p.region with
    | .tcm => s.writeTcm h p.pa p.size (e.bytesOf p)
    | .cached => s.pokeBytes (paLa p.pa) (leBytes p.size (e.bytesOf p)) 2
    | _ => s) s) s
  let far := (sb.filter (·.retired)).filterMap fun e =>
    match e.parts.filter fun p => p.region.uncached with | [] => none | ps => some { e with parts := ps }
  let s := s.updHart h fun c => { c with sb := far }
  (far.flatMap (·.parts)).foldl (fun s _ => match (s.hart h).sb with
    | e :: _ => (match e.parts with | p :: _ => s.drainUncached h e p | [] => s)
    | [] => s) s

/-- A hart reset that waits goes on when no access of the hart is outstanding. -/
def State.endReset (s : State) (h : HartId) : State :=
  let c := s.hart h
  if c.rstBusy && !c.fatal && c.uload == [] && c.track == [] && c.wreqs == [] && c.sb == [] && !(isT h && tabGet false s.coh.noAlloc (agentOf h))
  then s.hartResetNow h else s

/-- RST is written with 1: a held hart is released at once; another hart stops, drains and resets; a fatal hart's self-test follows (R516). -/
def State.startReset (s : State) (h : HartId) : State :=
  let c := s.hart h
  if c.held then s.startAtRvec h
  else if c.rstBusy then s.endReset h
  else
    let s := if c.idle = .run then s else s.wake h
    let s := s.updHart h fun c => { c.dropEarly with rstBusy := true, fence := none, walks := [], uload := c.uload.filter fun u => u.dest != .maint }
    let s := s.drainNow h
    let s := if isT h then { s with coh := { s.coh with noAlloc := tabSet false s.coh.noAlloc (agentOf h) false } } else s
    if c.fatal then s.hartResetNow h else s.endReset h

/-- PW_HRST (R515). -/
def State.hrst (s : State) (h : HartId) : Word :=
  let c := s.hart h
  BitVec.ofNat 64 (b2n c.held * 2 ^ 62 + b2n c.fatal * 2 ^ 61 + b2n c.rstBusy * 2 ^ 60) ||| c.rvec
/-- A write of the bytes `m` of PW_HRST; while a reset runs it is ignored (R515, R529). -/
def State.hrstWrite (s : State) (h : HartId) (v m : Word) : State :=
  let c := s.hart h
  if c.rstBusy then s.endReset h else
  let s := s.setHart h { c with rvec := ((c.rvec &&& ~~~m) ||| (v &&& m)) &&& 0x00FF_FFFF_FFFF_FFFC }
  if (v &&& m).getLsbD 63 then s.startReset h else s

/-- Local address of PW_HRST of a hart (R514). -/
def hrstAddr (h : HartId) : Nat :=
  0x1000_0000 + tileOf (hartStop h) * 0x100_0000 + stopIdx (hartStop h) * 0x1_0000 + 0x340 + (match h with | .t _ => 0 | .s n => 8 * (n.val % 4))

/-- HART_RESET: a write of PW_HRST (R514 to R516). -/
def execHartReset (who : Master) (h : HartId) (v : Word) (s : State) : Res :=
  .next (s.r31Write (.hrst h) (hrstAddr h) (mkNode (hartStop h) 0) who fun s => s.hrstWrite h (v ||| 0x8000_0000_0000_0000) (BitVec.allOnes 64))

/-- HART_SELF_TEST_DONE: the test passes, and the hart starts; or it fails, and the record is written again, with a cause that the spec leaves open
(R516). -/
def execHartSelfTestDone (h : HartId) (pass : Bool) (s : State) : Res :=
  let c := s.hart h
  .next (if !(c.fatal && c.rstBusy) || (isT h && tabGet false s.coh.noAlloc (agentOf h)) then s
    else if pass then s.setHart h { c with fatal := false, rstBusy := false }
    else
      let (k, s) := s.takeNat
      (s.setHart h { c with rstBusy := false }).coreFatal h (k % 4))

end Sys2Proof.Machine
end

