-- ==== Sys2Proof/Machine/Perf.lean ====
section
/-!
DEFINITION. Counters and Ladle: wraps of core counters (R402), the registers of a bank (R406 to R413), bandwidth windows (R414), and Ladle's triggers,
latches and ring (R415 to R422).
-/
namespace Sys2Proof.Machine

/-! ### Core counters (R402) -/

/-- CORE_COUNTER_WRAP: a counter at its largest value counts once more (R398, R402). Counters 0 and 2 are mcycle and minstret; 1 is time, which no
register holds. -/
def execCoreCounterWrap (h : HartId) (k : Fin 32) (s : State) : Res :=
  let c := s.hart h
  .next (if k.val = 1 ∨ hpmTop h < k.val ∨ c.csrBit 0x320 k.val ∨ c.csrRaw (0xB00 + k.val) ≠ BitVec.allOnes 64 then s
    else if k.val < 3 then s.setHart h (c.csrPut (0xB00 + k.val) 0) else s.bumpHpm h k.val 1)

/-! ### Banks (R405 to R414) -/

/-- Whether a stop has a bank (R405). -/
def hasBank (stop b : Nat) : Bool := decide (b < banksOf stop)

/-- Bank type of a Ladle record (R421). -/
def bankType (stop b : Nat) : Nat :=
  if b = 0 then 0 else match stopType stop with | 0x02 => 1 | 0x03 => 2 | 0x10 => 3 | 0x11 => 4 | 0x12 => 5 | 0x13 => 6 | _ => 7

/-- Whether the power domain of a bank's agent is off (R449, R454). -/
def State.agentOff (s : State) (stop b : Nat) : Bool :=
  let u := stopUnit stop
  match bankType stop b with
  | 2 => s.pow.retention
  | 3 => s.pow.portOff.getLsbD u
  | 4 => (tabGet Link.reset s.graop.links u).st == .off || (tabGet Link.reset s.graop.links u).st == .domainOff
  | 5 => s.pow.pcieOff.getLsbD u
  | 6 => s.pow.engOff.getLsbD u
  | _ => false

/-- Brine tokens held by victim buffers. -/
def State.vbTokens (s : State) : Nat := (s.coh.vb.filter fun e => e.token).length

/-- Ledger values of a bank (R412). -/
def State.fixOf (s : State) (stop b : Nat) : Nat × Nat :=
  let u := stopUnit stop
  match bankType stop b with
  | 0 => (s.mesh.cycle % 2 ^ 48, ((s.mesh.ret.filter fun (k, _) => k / 320 == stop).map Prod.snd).sum)
  | 1 => (s.vbCount u, (s.coh.l3.filter fun (ln, e) => homeSlice (64 * ln) == u && e.token).length + (s.coh.vb.filter fun e => homeSlice e.la == u && e.token).length)
  | 2 =>
    let l := s.agentLines (192 + u)
    ((l.filter fun (_, c) => c.dirtyLine).length, (l.filter fun (_, c) => c.token).length)
  | 3 => let c := s.chan (2 * u + b - 1); (c.issued, c.confirmed)
  | 4 => let k := s.link u; (k.sent, k.acked)
  | 5 =>
    ((s.pcie.reqs.filter fun r => r.ctl == u && r.req.op == .writeNc).length, (s.pcie.reqs.filter fun r => r.ctl == u).length)
  | 6 => let p := (s.dePool u).toNat; (p % 2 ^ 24, p / 2 ^ 32 % 2 ^ 24)
  | _ =>
    let r := s.iommuSt u
    (r.walkers.length, (r.cqt.toNat + queueSize r.cqb - r.cqh.toNat % queueSize r.cqb) % queueSize r.cqb)

/-- Reads a register of a bank. -/
def State.bankRead (s : State) (stop b off : Nat) : Word :=
  let v := s.bankOf stop b
  match off with
  | 0x00 => BitVec.ofNat 64 (b2n v.freeze)
  | 0x08 => v.filtSrc.setWidth 64
  | 0x0C => (~~~v.filtCls).setWidth 64
  | 0x10 => v.filtBase
  | 0x18 => v.filtMask
  | 0x20 | 0x24 | 0x28 | 0x2C => (v.sel ((off - 0x20) / 4)).setWidth 64
  | 0x40 | 0x48 | 0x50 | 0x58 => (v.count ((off - 0x40) / 8)).setWidth 64
  | 0x60 => BitVec.ofNat 64 (s.fixOf stop b).1
  | 0x68 => BitVec.ofNat 64 (s.fixOf stop b).2
  | 0x70 => v.ovf.setWidth 64
  | 0x80 => v.window.setWidth 64
  | 0x88 => v.bwLast.setWidth 64
  | 0x90 => v.bwMax.setWidth 64
  | _ => 0

/-- CLR: CNT0 to CNT3 become 0; OVF is unchanged (R407). -/
def State.bankClr (s : State) (stop b : Nat) : State := s.setBank stop b { s.bankOf stop b with cnt := [] }

/-- Writes the bytes `m` of a register of a bank (R407 to R409, R413, R414). -/
def State.bankWrite (s : State) (stop b off : Nat) (v m : Word) : State :=
  let k := s.bankOf stop b
  let w := v &&& m
  match off with
  | 0x00 =>
    let k := if m.getLsbD 0 then { k with freeze := v.getLsbD 0 } else k
    let s := s.setBank stop b k
    if w.getLsbD 1 then s.bankClr stop b else s
  | 0x08 => s.setBank stop b { k with filtSrc := mergeW k.filtSrc v m &&& 0x1FFF_FFE0 }
  | 0x0C => s.setBank stop b { k with filtCls := ~~~(mergeW (~~~k.filtCls) v m) }
  | 0x10 => s.setBank stop b { k with filtBase := mergeW k.filtBase v m &&& 0x7FFF_FFFF_FFC0 }
  | 0x18 => s.setBank stop b { k with filtMask := mergeW k.filtMask v m &&& 0x7FFF_FFFF_FFC0 }
  | 0x20 | 0x24 | 0x28 | 0x2C =>
    let i := (off - 0x20) / 4
    s.setBank stop b { k with evsel := tabSet 0 k.evsel i (mergeW (k.sel i) v m &&& 0xFFC0_FFFF) }
  | 0x40 | 0x48 | 0x50 | 0x58 =>
    let i := (off - 0x40) / 8
    s.setBank stop b { k with cnt := tabSet 0 k.cnt i (mergeW (k.count i) v m) }
  | 0x70 => s.setBank stop b { k with ovf := k.ovf &&& ~~~(w.setWidth 4) }
  | 0x80 =>
    let n := mergeW k.window v m
    s.setBank stop b { k with window := n, bwCur := if n = k.window then k.bwCur else 0 }
  | _ => s

/-- BANK_COUNTER_WRAP: a counter that is on gains `gain`, and wraps past 2^48 (R408, R413). -/
def execBankCounterWrap (stop : Fin 320) (b : Fin 3) (k : Fin 4) (gain : Nat) (s : State) : Res :=
  let v := s.bankOf stop.val b.val
  let e := v.sel k.val
  .next (s.guard (hasBank stop.val b.val && e.getLsbD 31 && !v.freeze && !(s.agentOff stop.val b.val) &&
      (!(e.getLsbD 26) || tabGet false s.irq.gates (stop.val * 16 + fld e 25 22))) fun s => s.bumpBank stop.val b.val k.val gain)

/-- Local address of a stop's page (R24). -/
def stopPage (stop : Nat) : Nat := 0x1000_0000 + tileOf stop * 0x100_0000 + stopIdx stop * 0x1_0000

/-- PM_BANK_CLR (R406, R407). -/
def execPmBankClr (who : Master) (stop : Fin 320) (b : Fin 3) (s : State) : Res :=
  .next (if !(hasBank stop.val b.val) then s else
    s.r31Write (.bank stop.val b.val 0) (stopPage stop.val + 0x400 + 0x100 * b.val) (mkNode stop.val 0) who fun s => s.bankClr stop.val b.val)

/-- BANDWIDTH_WINDOW_END: the window's bytes become BWLAST, and BWMAX when it is the largest since the last read (R414). -/
def execBandwidthWindowEnd (stop : Fin 320) (b : Fin 3) (s : State) : Res :=
  let v := s.bankOf stop.val b.val
  .next (s.guard (hasBank stop.val b.val && bwBank stop.val b.val && v.window != 0 && s.time % (v.window.toNat * 1000) == 0) fun s =>
    let n : BitVec 48 := BitVec.ofNat 48 v.bwCur
    s.setBank stop.val b.val { v with bwCur := 0, bwLast := n, bwMax := if v.bwMax < n then n else v.bwMax })

/-- PM_BWMAX_READ: the largest window is returned, and the field clears (R414). -/
def execPmBwmaxRead (_who : Master) (stop : Fin 320) (b : Fin 3) (s : State) : Res :=
  .next (if bwBank stop.val b.val && hasBank stop.val b.val then s.setBank stop.val b.val { s.bankOf stop.val b.val with bwMax := 0 } else s)

/-! ### Ladle (R415 to R422) -/

def State.setLadle (s : State) (l : Ladle) : State := { s with perf := { s.perf with ladle := l } }
def Ladle.size (l : Ladle) : Nat := 2 ^ l.log2sz.toNat

/-- Every page of the ring is local DRAM that a cacheable, not held, not remote entry decides (R417). -/
def State.ringOk (s : State) (l : Ladle) : Bool :=
  let b := l.base.toNat
  decide (16 ≤ l.log2sz.toNat) && decide (l.log2sz.toNat ≤ 30) && b % l.size == 0 && decide (0x8000_0000 ≤ b) && decide (b + l.size ≤ s.pma.dramTop.toNat) &&
    (List.range (l.size / 4096)).all fun i =>
      match pmaFind s.pma.entries (b + 4096 * i) true with
      | some e => !e.io && e.c && !e.held && !e.remote
      | none => false

/-- A write of PM_LADLE_CTL; a ring check that succeeds clears ERR (R416, R417; log entry 180). -/
def State.ladleCtl (s : State) (v m : Word) : State :=
  let l := s.perf.ladle
  let l := if l.en then l else { l with
    trigev := if m.getLsbD 16 then v.getLsbD 16 else l.trigev
    lead := if m.getLsbD 8 then (if fld v 15 8 < 2 then 2 else BitVec.ofNat 8 (fld v 15 8)) else l.lead
    log2sz := if m.getLsbD 0 then BitVec.ofNat 5 (fld v 4 0) else l.log2sz }
  s.setLadle (if !(m.getLsbD 31) then l
    else if !(v.getLsbD 31) then { l with en := false }
    else if l.en then l
    else if s.ringOk l then { l with en := true, head := 0, err := 0 }
    else { l with err := 1 })

/-- Reads a register of Ladle (R410, R416). -/
def State.ladleRead (s : State) (off : Nat) : Word :=
  let l := s.perf.ladle
  match off with
  | 0x1000 => BitVec.ofNat 64 (b2n l.en * 2 ^ 31 + b2n l.trigev * 2 ^ 16 + l.lead.toNat * 2 ^ 8 + l.log2sz.toNat)
  | 0x1008 => l.base
  | 0x1010 => BitVec.ofNat 64 l.head
  | 0x1018 => l.tail.setWidth 64
  | 0x1020 => l.period.setWidth 64
  | 0x1030 => BitVec.ofNat 64 (l.dropring.toNat * 2 ^ 48 + l.dropbusy.toNat * 2 ^ 32 + l.seq.toNat * 2 ^ 16 + l.err.toNat * 2 ^ 12 + b2n l.collect * 2 + b2n l.armed)
  | 0x1040 => BitVec.ofNat 64 ((List.range 16).map fun j => b2n (tabGet false s.irq.gates (stopId 0 36 * 16 + j)) * 2 ^ j).sum
  | _ => 0

/-- Writes the bytes `m` of a register of Ladle. -/
def State.ladleWrite (s : State) (off : Nat) (v m : Word) : State :=
  let l := s.perf.ladle
  match off with
  | 0x1000 => s.ladleCtl v m
  | 0x1008 => if l.en then s else s.setLadle { l with base := mergeW l.base v m &&& 0x7FFF_FFFF_F000 }
  | 0x1018 => s.setLadle { l with tail := mergeW l.tail v m &&& 0x3FFF_FFC0 }
  | 0x1020 => s.setLadle { l with period := mergeW l.period v m }
  | 0x1028 => if (v &&& m).getLsbD 0 then s.ladleTrigger 0 else s
  | _ => s

def ladlePage : Nat := stopPage (stopId 0 36)

/-- LADLE_ENABLE: a write of PM_LADLE_CTL (R415 to R417). -/
def execLadleEnable (who : Master) (v : BitVec 32) (s : State) : Res :=
  .next (s.r31Write (.ladle 0x1000) (ladlePage + 0x1000) (mkNode (stopId 0 36) 0) who fun s => s.ladleCtl (v.setWidth 64) 0xFFFF_FFFF)

/-- LADLE_SNAP: a write of PM_LADLE_CMD.SNAP (R416, R418). -/
def execLadleSnap (who : Master) (s : State) : Res :=
  .next (s.r31Write (.ladle 0x1028) (ladlePage + 0x1028) (mkNode (stopId 0 36) 0) who fun s => s.ladleTrigger 0)

/-- LADLE_PERIOD_TRIGGER: at the multiples of PERIOD microseconds; 1 to 9 count as 0 (R416). -/
def execLadlePeriodTrigger (s : State) : Res :=
  let p := s.perf.ladle.period.toNat
  .next (if 10 ≤ p then (s.passTo (nextMultiple (p * 1000) s.time)).ladleTrigger 1 else s)

/-- The latched copy of a bank (R419). -/
def State.latchOf (s : State) (stop b : Nat) (late : Bool) : Latched :=
  let v := s.bankOf stop b
  { cnt := (List.range 4).map v.count, fix0 := BitVec.ofNat 64 (s.fixOf stop b).1, fix1 := BitVec.ofNat 64 (s.fixOf stop b).2,
    ev := (List.range 4).map fun k => BitVec.ofNat 16 (fld (v.sel k) 15 0), ovf := v.ovf, late := late, off := s.agentOff stop b }

/-- Latches every bank of a stop and clears its live OVF bits. -/
def State.latchStop (s : State) (stop : Nat) (late : Bool) : State :=
  (List.range (banksOf stop)).foldl (fun s b =>
    let c := s.latchOf stop b late
    s.setBank stop b { s.bankOf stop b with latch := some c, ovf := 0 }) s

/-- Brine tokens at the latch: budget, free, held in caches, held in victim buffers; the budget is the sum of the others (R421). -/
def State.brineLedger (s : State) : List Nat :=
  [s.brine.budget, s.brine.free, s.brine.budget - s.brine.free - s.vbTokens, s.vbTokens]

/-- LADLE_LATCH: the banks of a stop latch once the timebase is at T; one that does so after T marks its record LATE (R419). -/
def execLadleLatch (stop : Fin 320) (s : State) : Res :=
  let l := s.perf.ladle
  .next (if !(l.armed || l.collect) || (s.bankOf stop.val 0).latch.isSome then s else
    let s := s.passTo l.t
    let late := decide (l.t < s.time)
    let s := s.setLadle { l with armed := false, collect := true, late := l.late || late, tok := if l.armed then s.brineLedger else l.tok }
    s.latchStop stop.val late)

/-- Stops in the order of the bank records: tile, then stop (R418). -/
def stopsInOrder : List Nat := (List.range 8).flatMap fun t => (List.range 40).map fun i => stopId t i
/-- The banks of the package in the order of their records. -/
def banksInOrder : List (Nat × Nat) := stopsInOrder.flatMap fun st => (List.range (banksOf st)).map fun b => (st, b)

/-- A bank record (R421). -/
def bankRecord (seq : Nat) (stop b : Nat) (c : Latched) : List Byte :=
  leBytes 8 (2 * 2 ^ 60 + c.ovf.toNat * 2 ^ 56 + b2n c.late * 2 ^ 55 + b2n c.off * 2 ^ 54 + b * 2 ^ 52 + seq * 2 ^ 32 + bankType stop b * 2 ^ 12 + tileOf stop * 2 ^ 8 + stopIdx stop) ++
    c.cnt.flatMap (fun x => leBytes 8 x.toNat) ++ leBytes 8 c.fix0.toNat ++ leBytes 8 c.fix1.toNat ++ c.ev.flatMap fun x => leBytes 2 x.toNat

/-- The records of a snapshot: header, banks, trailer (R418, R421). -/
def State.snapshot (s : State) : List (List Byte) :=
  let l := s.perf.ladle
  let seq := l.seq.toNat
  let header := leBytes 8 (2 ^ 60 + seq * 2 ^ 32 + 592 * 2 ^ 16 + s.pma.pkgId.toNat) ++ leBytes 8 l.t ++ leBytes 8 (l.cause + b2n l.late * 256) ++
    l.tok.flatMap (fun x => leBytes 8 x) ++ leBytes 8 0
  let trailer := leBytes 8 (3 * 2 ^ 60 + seq * 2 ^ 32 + 592 * 2 ^ 16) ++ leBytes 8 s.time ++ List.replicate 48 0
  [header] ++ (banksInOrder.filterMap fun (st, b) => (s.bankOf st b).latch.map fun c => bankRecord seq st b c) ++ [trailer]

/-- Whether a ring write can be performed: the line is memory, and where it is not cached at the home its channel answers (R169, R422). -/
def State.ringWritable (s : State) (la : Nat) : Bool :=
  areaOf s la == .dram && (s.homeC la || (s.chan (s.chanOf la)).st == .online || (s.chan (s.chanOf la)).st == .shortRetrain)

/-- Writes the records to the ring from offset `o`: the offset of the first write that fails. -/
def State.ringWrite (s : State) (o : Nat) : List (List Byte) → State × Option Nat
  | [] => (s, none)
  | r :: t =>
    let la := s.perf.ladle.base.toNat + o % s.perf.ladle.size
    if s.ringWritable la then (s.homeBytes la r 2).ringWrite (o + 64) t else (s, some (o % s.perf.ladle.size))

/-- Drops the latched copies; with `merge` their OVF bits return to the live ones (R419, R422). -/
def State.dropLatches (s : State) (merge : Bool) : State :=
  banksInOrder.foldl (fun s (st, b) =>
    let v := s.bankOf st b
    match v.latch with
    | none => s
    | some c => s.setBank st b { v with latch := none, ovf := if merge then v.ovf ||| c.ovf else v.ovf }) s

/-- LADLE_SNAPSHOT_DONE: with every bank latched the records, then the trailer, are in the ring; HEAD advances and source 176 pulses. A failed write stops
Ladle with record LADLE_WRITE (R420, R422). -/
def execLadleSnapshotDone (s : State) : Res :=
  let l := s.perf.ladle
  .next (if !l.collect || stopsInOrder.any (fun st => (s.bankOf st 0).latch.isNone) then s else
    match s.ringWrite l.head s.snapshot with
    | (s, none) => ((s.dropLatches false).setLadle { l with head := (l.head + 37888) % l.size, collect := false }).pulse 176
    | (s, some o) =>
      let s := (s.dropLatches true).setLadle { l with en := false, err := 2, collect := false }
      s.logErr { mkErr 0x14 3 (stopId 0 36) true with pa := some (s.pma.pkgId.toNat * 2 ^ 47 + l.base.toNat + o), detail := o })

end Sys2Proof.Machine
end

