-- ==== Sys2Proof/Machine/Device.lean ====
section
/-!
DEFINITION. Reads and writes of device registers (R10 to R14, R26, R31, R454): the PMA table's registers (R30 to R38), every register that Regs.lean
locates, and the rows that write one register.
-/
namespace Sys2Proof.Machine

/-! ### The PMA registers (R30 to R38) -/

/-- The staged entry. -/
def Pma.staged (p : Pma) : PmaEntry :=
  let a := p.attr
  { base := p.base, limit := p.limit, tmo := BitVec.ofNat 14 (fld a 23 10), held := a.getLsbD 5, remote := a.getLsbD 4, ewa := a.getLsbD 3, c := a.getLsbD 2,
    io := a.getLsbD 1, valid := a.getLsbD 0 }

/-- The error code of a staged entry, 0 where it may be committed (R30). -/
def PmaEntry.err (e : PmaEntry) : Nat :=
  if !e.valid then 0
  else if (e.io && e.c) || (e.io && e.held) || (e.held && !e.c) || (e.held && e.remote) then 1
  else if e.limit < e.base then 2
  else if e.tmo.toNat = 0 ∨ 10000 < e.tmo.toNat then 5 else 0

/-- A commit attempt: the staging registers into entry INDEX, or an error (R30, R38). -/
def Pma.commit (p : Pma) : Pma :=
  if p.lock then { p with err := 4 }
  else if p.busy then { p with err := 3 }
  else if p.staged.err ≠ 0 then { p with err := BitVec.ofNat 4 p.staged.err }
  else { p with entries := tabSet .empty p.entries p.index.toNat p.staged, err := 0, busy := true }

/-- A write of the bytes `m` of MS_PMA_CTL: INDEX, then COMMIT, then LOCK (R34). -/
def Pma.ctl (p : Pma) (v m : Word) : Pma :=
  let p := if p.lock || !(m.getLsbD 0) then p else { p with index := BitVec.ofNat 5 (fld v 4 0) }
  let p := if (v &&& m).getLsbD 12 then p.commit else p
  { p with lock := p.lock || (v &&& m).getLsbD 31 }

/-- An entry's attributes as R36 lays them out. -/
def PmaEntry.attr (e : PmaEntry) : Nat :=
  e.tmo.toNat * 2 ^ 10 + b2n e.held * 32 + b2n e.remote * 16 + b2n e.ewa * 8 + b2n e.c * 4 + b2n e.io * 2 + b2n e.valid

def State.setPma (s : State) (p : Pma) : State := { s with pma := p }
/-- MS_PMA_CTL as read. -/
def Pma.ctlWord (p : Pma) : Nat := b2n p.lock * 2 ^ 31 + p.err.toNat * 2 ^ 16 + b2n p.busy * 2 ^ 8 + p.index.toNat

/-- A write of MS_PMA_CTL; a held region with no budget drives source 353 (R34, R465). -/
def State.pmaCtl (s : State) (v m : Word) : State := (s.setPma (s.pma.ctl v m)).driveBrine

/-- Local address of the PMA registers' page. -/
def pmaPage : Nat := 0x1020_0000
def pmaNode : Node := mkNode (stopId 0 32) 0

/-- PMA_COMMIT: a write of MS_PMA_CTL with COMMIT = 1 (R30, R34). -/
def execPmaCommit (who : Master) (v : BitVec 32) (s : State) : Res :=
  .next (s.r31Write .pmaCtl (pmaPage + 0x1010) pmaNode who fun s => s.pmaCtl ((v ||| 0x1000).setWidth 64) 0xFFFF_FFFF)
/-- PMA_LOCK: a write of MS_PMA_CTL with LOCK = 1 (R34). -/
def execPmaLock (who : Master) (v : BitVec 32) (s : State) : Res :=
  .next (s.r31Write .pmaCtl (pmaPage + 0x1010) pmaNode who fun s => s.pmaCtl ((v ||| 0x8000_0000).setWidth 64) 0xFFFF_FFFF)
/-- PMA_COMMIT_DONE: every master's copy holds the committed entry (R38). -/
def execPmaCommitDone (s : State) : Res := .next (if s.pma.busy then s.setPma { s.pma with masters := s.pma.entries, busy := false } else s)

/-! ### Reads -/

/-- MC_CH_STATUS (R260). -/
def Chan.status (c : Chan) : Word := BitVec.ofNat 64 (chStateCode c.st * 2 ^ 28 + b2n c.hot * 2 ^ 16 + c.temp.toNat * 2 ^ 8)
/-- PW_LTOL (R453). -/
def Hart.ltol (c : Hart) : Word :=
  BitVec.ofNat 64 (c.maxc.toNat * 2 ^ 30 + (match c.idle with | .run => 0 | .c1 => 1 | .c2 => 2 | .c3 => 3) * 2 ^ 28 + c.tol.toNat)
/-- MS_STOP_ID (R25). -/
def stopIdWord (id : Nat) : Word := BitVec.ofNat 64 (stopType id * 2 ^ 24 + stopUnit id * 2 ^ 16 + tileOf id * 2 ^ 8 + stopIdx id)

def State.pmaEnt (s : State) (n : Nat) : PmaEntry := tabGet .empty s.pma.entries n

/-- The value of a register as a master reads it (R11 to R14, R26, R31, R343, R372, R425). -/
def State.regValue (s : State) (who : Master) : DevReg → Word
  | .none => 0
  | .stopId id => stopIdWord id
  | .pfctl h => (s.pfctlOf h).setWidth 64
  | .ltol h => (s.hart h).ltol
  | .hrst h => s.hrst h
  | .pkgId => s.pma.pkgId.setWidth 64
  | .dramTop => s.pma.dramTop.setWidth 64
  | .pmaCtl => BitVec.ofNat 64 s.pma.ctlWord
  | .pmaBase => BitVec.ofNat 64 (s.pma.base.toNat * 4096)
  | .pmaLimit => BitVec.ofNat 64 (s.pma.limit.toNat * 4096)
  | .pmaAttr => s.pma.attr.setWidth 64
  | .entBase n => BitVec.ofNat 64 ((s.pmaEnt n).base.toNat * 4096)
  | .entLimit n => BitVec.ofNat 64 ((s.pmaEnt n).limit.toNat * 4096)
  | .entAttr n => BitVec.ofNat 64 (s.pmaEnt n).attr
  | .mcMap => s.dram.map.setWidth 64
  | .chStatus ch => (s.chan ch).status
  | .injCtl ch => (s.chan ch).injCtl.setWidth 64
  | .injLine ch => (s.chan ch).injLine
  | .glStatus l => (s.link l).status.setWidth 64
  | .glInj l => (s.link l).inj.setWidth 64
  | .dePool e => s.dePool e
  | .chan c off => (s.dma c).read off
  | .inst i off => if (s.instance_ i).admits who false then s.inRead i off else 0
  | .mtime => BitVec.ofNat 64 s.time
  | .mtimecmp h => s.mtimecmp h
  | .evsw => 0
  | .evtick j => tabGet 0 s.irq.evtick j
  | .evsrc n => (s.evsrc n).setWidth 64
  | .evsnk m => (s.evsnk m).setWidth 64
  | .bank stop b off => s.bankRead stop b off
  | .ladle off => s.ladleRead off
  | .iommu e off => s.iommuRead e off
  | .esStatus t => (s.errBank t).status
  | .esCecnt t => (s.errBank t).cecnt
  | .esCtl t => (s.errBank t).thresh.setWidth 64
  | .esRec t k off => (s.errRec t k).word off
  | .aplic sdom off => s.aplicRead sdom off
  | .seteipnum _ _ => 0
  | .mbox n off => if s.mbAdmits n who then s.mbRead n off else 0

/-- What a read does beyond returning the value: fields that clear when read, and refused accesses of an instance page (R371, R372, R414).
DESIGN CHOICE: a 4-byte read of either half of PM_BWMAX clears the whole field; R11 does not say what a read of a half clears (log entry 167). -/
def State.regTouch (s : State) (who : Master) : DevReg → State
  | .inst i off =>
    if !((s.instance_ i).admits who false) then s.inDeny i
    else if off = 0x28 then s.updInstance i fun v => { v with denied := 0 } else s
  | .bank stop b 0x90 => s.setBank stop b { s.bankOf stop b with bwMax := 0 }
  | _ => s

/-- Whether the agent of a register page is off: reads return zero and writes are ignored (R454). -/
def State.pageOff (s : State) (la : Nat) : Bool :=
  if 0x1000_0000 ≤ la ∧ la < 0x1800_0000 ∧ la % 0x100_0000 < 0x28_0000 then
    let id := stopId ((la - 0x1000_0000) / 0x100_0000) (la % 0x100_0000 / 0x1_0000)
    match stopType id with
    | 0x13 => s.pow.engOff.getLsbD (stopUnit id)
    | 0x12 => s.pow.pcieOff.getLsbD (stopUnit id) || s.bifurOff (stopUnit id)
    | _ => false
  else false

/-- Reads 4 bytes at a device address. -/
def State.devRead4 (s : State) (who : Master) (la : Nat) : State × Nat :=
  if s.pageOff la then (s, 0) else
  let (r, _, b) := locate la
  (s.regTouch who r, (s.regValue who r).toNat / 2 ^ (8 * (la - b)) % 2 ^ 32)

/-- Reads 4 or 8 bytes: a 64-bit register at once, or two 32-bit registers, the lower address first (R10). -/
def State.devRead (s : State) (who : Master) (la n : Nat) : State × Nat :=
  if n = 4 then s.devRead4 who la
  else if (locate la).2.1 = 8 then (if s.pageOff la then (s, 0) else (s.regTouch who (locate la).1, (s.regValue who (locate la).1).toNat))
  else
    let (s, a) := s.devRead4 who la
    let (s, b) := s.devRead4 who (la + 4)
    (s, a + b * 2 ^ 32)

/-! ### Writes -/

/-- SL_PFCTL after a write: L2DEG takes 1 to 4 only (R186). -/
def pfctlWrite (old : BitVec 32) (v m : Word) : BitVec 32 :=
  let w := mergeW old v m &&& 0x0007_001F
  if 1 ≤ fld w 18 16 ∧ fld w 18 16 ≤ 4 then w else putFld w 18 16 (fld old 18 16)
/-- PW_LTOL after a write: MAXC does not take 0b11 (R453). -/
def Hart.ltolWrite (c : Hart) (v m : Word) : Hart :=
  let w := mergeW (c.ltol.setWidth 32 : BitVec 32) v m
  { c with maxc := if fld w 31 30 = 3 then c.maxc else BitVec.ofNat 2 (fld w 31 30), tol := BitVec.ofNat 16 (fld w 15 0) }

/-- Writes the bytes `m` of a register whose guard the writer has passed (R11 to R14). -/
def State.regWrite (s : State) (who : Master) (r : DevReg) (v m : Word) : State :=
  let p := s.pma
  match r with
  | .pfctl h => { s with coh := { s.coh with pfctl := tabSet 0 s.coh.pfctl h (pfctlWrite (s.pfctlOf h) v m ^^^ 0x0004_001F) } }
  | .ltol h => s.updHart h fun c => c.ltolWrite v m
  | .hrst h => s.hrstWrite h v m
  | .pmaCtl => s.pmaCtl v m
  | .pmaBase => if p.lock then s else s.setPma { p with base := BitVec.ofNat 35 (fld (mergeW (BitVec.ofNat 64 (p.base.toNat * 4096)) v m) 46 12) }
  | .pmaLimit => if p.lock then s else s.setPma { p with limit := BitVec.ofNat 35 (fld (mergeW (BitVec.ofNat 64 (p.limit.toNat * 4096)) v m) 46 12) }
  | .pmaAttr => if p.lock then s else s.setPma { p with attr := mergeW p.attr v m &&& 0x00FF_FC3F }
  | .injCtl ch => s.injCtlWrite ch ((v &&& m).setWidth 32)
  | .injLine ch => s.updChan ch fun c => { c with injLine := mergeW c.injLine v m &&& 0x7FFF_FFFF_FFC0 }
  | .glInj l => s.glInjWrite l ((v &&& m).setWidth 32)
  | .chan c off => if (s.dma c).inst.isNone then s.chanWrite c off v m else s
  | .inst i off => if (s.instance_ i).admits who true then s.inWrite i off v m else s.inDeny i
  | .mtimecmp h => { s with irq := { s.irq with mtimecmp := tabSet 0 s.irq.mtimecmp (hartIdx h) (~~~(mergeW (s.mtimecmp h) v m)) } }
  | .evsw => s.evsw (fld (v &&& m) 15 0)
  | .evtick j => s.evtickWrite j v m
  | .evsrc n => s.evsrcWrite n v m
  | .evsnk k => s.evsnkWrite k v m
  | .bank stop b off => s.bankWrite stop b off v m
  | .ladle off => s.ladleWrite off v m
  | .iommu e off => s.iommuWrite e off (if m = BitVec.allOnes 64 ∨ (iommuWidth off) = some 4 then v &&& m else mergeW (s.iommuRead e off) v m)
  | .esCecnt t => s.cecntWrite t v m
  | .esCtl t => s.threshWrite t (mergeW (s.errBank t).thresh v m)
  | .esRec t k off => if off = 0 ∧ (v &&& m).getLsbD 63 then s.freeRec t k else s
  | .aplic sdom off => s.aplicWrite sdom off ((v &&& m).setWidth 32)
  | .seteipnum h f => s.setIdentity h f (fld (v &&& m) 31 0)
  | .mbox n off => if s.mbAdmits n who then s.mbWrite n off v m else s
  | _ => s

/-- A write of the bytes `m` of the register at a device address: the guard of the register first; a refused write is ignored and logged (R31, R287,
R325, R343). -/
def State.devPut (s : State) (who : Master) (la : Nat) (v m : Word) : State :=
  if s.pageOff la then s else
  let (r, _, _) := locate la
  if mayWrite r.guard who then s.regWrite who r v m
  else match who with
  | .hart _ _ => s
  | _ => s.writeIgnored r la ((devNode la).getD mgmtNode) who

/-- Writes 4 bytes at a device address. -/
def State.devWrite4 (s : State) (who : Master) (la v : Nat) : State :=
  let (_, n, b) := locate la
  let o := 8 * (la - b)
  s.devPut who b (BitVec.ofNat 64 ((v % 2 ^ 32) <<< o)) (if n = 8 then BitVec.ofNat 64 (0xFFFF_FFFF <<< o) else 0xFFFF_FFFF)

/-- Writes 4 or 8 bytes (R10). -/
def State.devWrite (s : State) (who : Master) (la n v : Nat) : State :=
  if n = 4 then s.devWrite4 who la v
  else if (locate la).2.1 = 8 then s.devPut who la (BitVec.ofNat 64 v) (BitVec.allOnes 64)
  else (s.devWrite4 who la (v % 2 ^ 32)).devWrite4 who (la + 4) (v / 2 ^ 32)

/-- REGISTER_WRITE: a naturally aligned write of 4 or 8 bytes in the device range. A hart's misaligned write raises an address-misaligned exception,
and its aligned write of 1 or 2 bytes, or below M-mode of a register under the rule of R31, an access fault (R10, R11, R26, R31). -/
def execRegisterWrite (who : Master) (a : La) (size : AccSize) (v : Word) (s : State) : Res :=
  let n := accBytes size
  let la := a.toNat
  .next (if areaOf s la != .device then s else
    match who with
    | .hart h md =>
      if la % n != 0 then s.refuseStore h 6 la
      else if n < 4 || (md != .m && r31At la n) then s.refuseStore h 7 la
      else s.devWrite who la n (v.toNat % 2 ^ (8 * n))
    | _ => if n < 4 || la % n != 0 then s else s.devWrite who la n (v.toNat % 2 ^ (8 * n)))

/-- MC_INJ_ARM: a write of MC_INJ_CTL with ARM = 1 (R261, R263). -/
def execMcInjArm (who : Master) (ch : Fin 48) (v : BitVec 32) (s : State) : Res :=
  .next (s.r31Write (.injCtl ch.val) (stopPage (portStop (ch.val / 2)) + 0x210 + 0x80 * (ch.val % 2)) (chanNode ch.val) who fun s =>
    s.injCtlWrite ch.val (v ||| 0x8000_0000))
/-- GL_INJ_ARM: a write of GL_INJ_CTL with ARM = 1 (R336). -/
def execGlInjArm (who : Master) (l : Fin 8) (v : BitVec 32) (s : State) : Res :=
  .next (s.r31Write (.glInj l.val) (stopPage (linkStop l.val) + 0x200) (linkNode l.val) who fun s => s.glInjWrite l.val (v ||| 0x8000_0000))

/-! ### Units of a request (R10) -/

/-- The 4- and 8-byte accesses of a mask, ascending, or none where it covers part of a 4-byte word. -/
def maskUnits (m : LineMask) : Option (List (Nat × Nat)) :=
  let byte (o n : Nat) : Bool := (List.range n).all fun i => m.getLsbD (o + i)
  let any (o n : Nat) : Bool := (List.range n).any fun i => m.getLsbD (o + i)
  if (List.range 16).any fun k => any (4 * k) 4 && !(byte (4 * k) 4) then none
  else some ((List.range 8).flatMap fun k =>
    if byte (8 * k) 8 then [(8 * k, 8)] else if byte (8 * k) 4 then [(8 * k, 4)] else if byte (8 * k + 4) 4 then [(8 * k + 4, 4)] else [])

/-- Reads the registers of a list of accesses from line address `b`. -/
def State.devReads (s : State) (who : Master) (b : Nat) : List (Nat × Nat) → State × Line
  | [] => (s, 0)
  | (o, n) :: t =>
    let (s, v) := s.devRead who (b + o) n
    let (s, l) := s.devReads who b t
    (s, l ||| atOffset o v)
/-- Writes the registers of a list of accesses. -/
def State.devWrites (s : State) (who : Master) (b : Nat) (d : Line) : List (Nat × Nat) → State
  | [] => s
  | (o, n) :: t => (s.devWrite who (b + o) n (lineBytes d o n)).devWrites who b d t

end Sys2Proof.Machine
end

