-- ==== Sys2Proof/Machine/Uncached.lean ====
section
/-!
DEFINITION. Uncached requests at their targets (R24, R26, R140, R145, R169, R523 to R525), and their answers and timers at their masters (R145, R147,
R153, R202).
-/
namespace Sys2Proof.Machine

/-- Who sends a node's uncached requests. A link stop sends those of the package that RPKG names (R199, R318); an IOMMU sends as an engine does. -/
def masterOf (n : Node) (rpkg : Fin 512) : Master :=
  match hartOfNode n with
  | some h => .hart h .m
  | none =>
    let id := nodeStop n
    match stopType id with
    | 0x11 => .remote rpkg
    | 0x12 => .root (Fin.ofNat 6 (stopUnit id))
    | 0x13 | 0x14 => .engine (Fin.ofNat 2 (stopUnit id))
    | 0x08 => .sba
    | _ => .rennet

/-- Whether a request at a link stop leaves the package there, and is no access to the stop's own registers (R199, R318, R323). -/
def State.leaves (s : State) (f : Flit) : Bool :=
  stopType (nodeStop f.dst) == 0x11 && stopType (nodeStop f.src) != 0x11 && f.rpkg.val != s.ownPkg

/-! ### Device registers and the SRAM at their stops -/

/-- A request that fails at its stop: an error answers it, or with EWA = 1 a write is acknowledged and the stop reports the error (R145, R155). -/
def State.failWrite (s : State) (f : Flit) (sts : Nat) : State :=
  if f.op = .writeNc ∧ f.ewa then (((s.send (reply s f .writeDone 0)).trackEwa f.dst f)).endEwa f.dst f sts else s.send (reply s f .errorReply sts)

/-- A read of device registers: each aligned unit, ascending; a part of a 4-byte word is no access that a register takes (R10). -/
def State.readAtDevice (s : State) (f : Flit) : State :=
  match maskUnits f.mask with
  | none => s.send (reply s f .errorReply 2)
  | some us =>
    let (s, d) := s.devReads (masterOf f.src f.rpkg) (f.addr.toNat / 64 * 64) us
    s.send { reply s f .readReturn 0 with data := some d, mask := f.mask }

/-- A write of device registers, acknowledged when it has taken effect (R10, R145); a remote write with POISON is not performed (R364; log entry 141). -/
def State.writeAtDevice (s : State) (f : Flit) : State :=
  if f.poison ∧ stopType (nodeStop f.src) = 0x11 then s.send (reply s f .writeDone 0) else
  match maskUnits f.mask with
  | none => s.failWrite f 2
  | some us =>
    let s := s.devWrites (masterOf f.src f.rpkg) (f.addr.toNat / 64 * 64) (f.data.getD 0) us
    s.send (reply s f .writeDone 0)

/-- A read of the boot ROM or of the shared SRAM (R24). -/
def State.readAtMgmt (s : State) (f : Flit) : State := s.send { reply s f .readReturn 0 with data := some (s.peekLine f.addr.toNat).1, mask := f.mask }
/-- A write of the shared SRAM; the boot ROM is read-only (R24, R27). -/
def State.writeAtMgmt (s : State) (f : Flit) : State :=
  if areaOf s f.addr.toNat = .sram then
    let s := s.pokeLine f.addr.toNat (f.data.getD 0) f.mask
    s.send (reply s f .writeDone 0)
  else s.failWrite f 2

/-! ### PCIe windows (R454, R523 to R525) -/

/-- Whether controller `i` is off (R454, R524). -/
def State.pcieIsOff (s : State) (i : Nat) : Bool := s.pow.pcieOff.getLsbD i || s.bifurOff i
/-- Whether a window address is configuration space: the first 256 MiB (R524). -/
def isEcam (la : Nat) : Bool := decide ((la - 0x40_0000_0000) % 0x800_0000_0000 < 0x1000_0000)

/-- A TLP leaves with `n` payload bytes (R411). -/
def State.tlpSent (s : State) (i n : Nat) : State := ((s.count (pcieStop i) 1 1 1 none).count (pcieStop i) 1 3 n none).bwAdd (pcieStop i) 1 n
/-- A TLP arrives with `n` payload bytes. -/
def State.tlpReceived (s : State) (i n : Nat) : State := ((s.count (pcieStop i) 1 2 1 none).count (pcieStop i) 1 4 n none).bwAdd (pcieStop i) 1 n

/-- The least free tag of a controller's outbound requests (R523). -/
def State.pcieTag (s : State) (i : Nat) : Option Nat := (List.range 256).find? fun t => !(s.pcie.reqs.any fun r => r.ctl == i && r.tag == t)

/-- A request that awaits a completion, or the link partner's acknowledgement, goes out under a tag; with none free it waits (R523). A write with EWA = 1 is
acknowledged here, and tracked (R145, R155). -/
def State.pcieAsk (s : State) (i : Nat) (f : Flit) (n : Nat) : State :=
  match s.pcieTag i with
  | none => s
  | some t =>
    let r : PcieReq := { ctl := i, tag := t, req := f, cfg := isEcam f.addr.toNat }
    let s := s.accept f
    let s := ({ s with pcie := { s.pcie with reqs := s.pcie.reqs ++ [r] } }).tlpSent i n
    if f.op = .writeNc ∧ f.ewa then (s.send (reply s f .writeDone 0)).trackEwa (pcieNode i) f else s

/-- A request to a window at its controller (R454, R525). -/
def State.outbound (s : State) (f : Flit) : State :=
  match pcieOf f.addr.toNat with
  | none =>
    let s := s.accept f
    s.send (if f.op = .writeNc then reply s f .writeDone 0 else reply s f .errorReply 3)
  | some i =>
    if s.pcieIsOff i.val then (s.accept f).failWrite f 2
    else match f.op with
    | .readNc => s.pcieAsk i.val f 0
    | .writeNc => s.pcieAsk i.val f (popN 64 f.mask.toNat)
    | _ => (s.accept f).send (reply s f .errorReply 2)

/-! ### Requests at their targets -/

/-- READ_NC: at a link stop it leaves the package; at the home slice, the newest data; or a device register, the SRAM, the boot ROM or a PCIe window
(R24, R169, R323). -/
def execReadNc (f : Flit) (s : State) : Res :=
  .next (let f := { f with op := .readNc }
    s.onFlit f fun s =>
    if s.leaves f then s.atLink (stopUnit (nodeStop f.dst)) f
    else match areaOf s f.addr.toNat with
    | .dram => s.serve f
    | .sram | .bootRom => (s.accept f).readAtMgmt f
    | .device => (s.accept f).readAtDevice f
    | .pcie => s.outbound f
    | .none => (s.accept f).send (reply s f .errorReply 2))

/-- WRITE_NC (R24, R145, R169, R323). -/
def execWriteNc (f : Flit) (s : State) : Res :=
  .next (let f := { f with op := .writeNc }
    s.onFlit f fun s =>
    if s.leaves f then s.atLink (stopUnit (nodeStop f.dst)) f
    else match areaOf s f.addr.toNat with
    | .dram => s.serve f
    | .sram | .bootRom => (s.accept f).writeAtMgmt f
    | .device => (s.accept f).writeAtDevice f
    | .pcie => s.outbound f
    | .none => (s.accept f).failWrite f 2)

/-- ATOMIC_NC: performed at the home slice of memory; no other target performs one (R140, R169). -/
def execAtomicNc (f : Flit) (s : State) : Res :=
  .next (let f := { f with op := .atomicNc }
    s.onFlit f fun s =>
    if s.leaves f then s.atLink (stopUnit (nodeStop f.dst)) f
    else match areaOf s f.addr.toNat with
    | .dram => s.serve f
    | .pcie => s.outbound f
    | _ => (s.accept f).send (reply s f .errorReply 2))

/-! ### Answers -/

/-- Number in an IOMMU's list of an inbound access of a controller with a mesh tag. -/
def rootIo (i t : Nat) : Nat := 1000 + 256 * (i % 3) + t

/-- An inbound access of a PCIe controller has ended: its tag is free, and a posted write is acknowledged (R147, R293, R384). -/
def State.rootEnd (s : State) (i t : Nat) : State :=
  ({ s with pcie := { s.pcie with posted := s.pcie.posted.filter fun p => !(p.1 == i && p.2.2 == t) } }).ioEnd (i / 3) (rootIo i t)

/-- An inbound access of a PCIe controller has failed, with a status or at the end of its time: a write is an imprecise bus error, and the device gets Unsupported
Request for a read or AtomicOp (R153, R499). -/
def State.rootFail (s : State) (i t : Nat) (a : InAcc) (sts : Nat) : State :=
  let s := s.logErr { mkErr (if a.write then 0x07 else 0x08) (if a.write then 3 else 2) (pcieStop i) a.write with
    pa := some a.pa, req := some (s.pma.pkgId.toNat, pcieNode i, t), detail := sts }
  if a.write then s else (s.tlpSent i 0).count (pcieStop i) 1 5 1 none

/-- An answer at a PCIe controller: data goes to the device in a completion, an error as Unsupported Request (R147, R502). -/
def State.rootAnswer (s : State) (i : Nat) (f : Flit) : State :=
  let t := f.tag.toNat
  match (s.iommuSt (i / 3)).inflight.find? fun a => a.tag == rootIo i t with
  | none => s.lateResponse f.dst f.addr.toNat
  | some a =>
    let s := s.rootEnd i t
    match f.op with
    | .readReturn => s.tlpSent i (popN 64 f.mask.toNat)
    | .errorReply => s.rootFail i t a f.sts.toNat
    | _ => s

/-- An answer at debug system bus access (R490). -/
def State.sbaAnswer (s : State) (f : Flit) : State :=
  if s.sec.sbBusy.isNone then s.lateResponse f.dst f.addr.toNat else
  { s with sec := if f.sts = 0 then { s.sec with
        sbBusy := none, sberror := 0, sbdata := if f.op = .readReturn then BitVec.ofNat 64 (lineBytes (f.data.getD 0) (f.addr.toNat % 64) f.size) else s.sec.sbdata }
      else { s.sec with sbBusy := none, sberror := if f.sts = 2 then 2 else 7 } }

/-- An answer at a home slice: the channel's acknowledgement of a write, its data, or its error (R145, R167, R178). -/
def State.sliceAnswer (s : State) (f : Flit) : State :=
  let ln := lineOf f.addr.toNat
  let ok := f.sts = 0 || f.sts = 4
  match f.op with
  | .readReturn => s.memData ln (f.data.getD 0) (f.poison || f.sts = 4)
  | _ =>
    if f.tag = 1 then s.victimFreed ln ok
    else match s.txn ln with
    | none => s
    | some t =>
      if t.done then (s.memEnded ln ok).retrySlice (homeSlice (64 * ln))
      else if f.op = .errorReply && t.mem ≠ 0 then
        ((s.send { reply s t.req .errorReply f.sts.toNat with who := t.req.who }).closeTxn ln).retrySlice (homeSlice (64 * ln))
      else s

/-- The home's error answers a caching agent's request: a prefetch is dropped; an access that waits for the line meets the error when it next asks
(R202). -/
def State.agentError (s : State) (a : Nat) (f : Flit) : State :=
  let ln := lineOf f.addr.toNat
  match s.mshr a ln with
  | some .prefetchRead | some .prefetchOwn => (s.endMshr a ln).goesOn a
  | some _ => s.mapMshr a ln fun m => { m with op := .errorReply }
  | none => s

/-- Whether a hart has an uncached access outstanding under the tag. -/
def Hart.awaits (c : Hart) (tag : Nat) : Bool := (c.track.any fun w => w.tag == tag) || (c.wreqs.any fun r => r.tag == tag) || c.uload.any fun u => u.tag == tag && u.dest != .maint

/-- An answer reaches the master whose node it names (R145, R147). -/
def State.answer (s : State) (f : Flit) : State :=
  let s := s.accept f
  let id := nodeStop f.dst
  let ln := lineOf f.addr.toNat
  let agent := if f.op = .errorReply then agentOfNode f.dst else none
  match hartOfNode f.dst, agent with
  | some h, some a =>
    if (s.mshrOf a ln).any fun m => m.tag == f.tag.toNat then s.agentError a f else (s.hartAnswer h f).endReset h
  | some h, none => (s.hartAnswer h f).endReset h
  | none, some a => s.agentError a f
  | none, none =>
    match stopType id with
    | 0x02 => if f.dst.sub.val = 1 then s.sliceAnswer f else s
    | 0x11 => s.homeAnswer (stopUnit id) f
    | 0x12 => s.rootAnswer (stopUnit id) f
    | 0x14 => s.ioAnswer (stopUnit id) f
    | 0x13 => (s.dmaAnswer (stopUnit id) f.tag.toNat f.sts.toNat f.poison false (f.data.getD 0) (f.addr.toNat % 64)).getD (s.lateResponse f.dst f.addr.toNat)
    | 0x08 => s.sbaAnswer f
    | _ => s

/-- WRITE_DONE (R145). -/
def execWriteDone (f : Flit) (s : State) : Res :=
  .next (let f := { f with op := .writeDone }
    s.onFlit f fun s => s.answer f)
/-- READ_RETURN (R147). -/
def execReadReturn (f : Flit) (s : State) : Res :=
  .next (let f := { f with op := .readReturn }
    s.onFlit f fun s => s.answer f)
/-- ERROR_REPLY: STS other than 0 and 1 (R202). -/
def execErrorReply (f : Flit) (s : State) : Res :=
  .next (let f := { f with op := .errorReply }
    if f.sts.toNat < 2 ∨ 5 < f.sts.toNat then s else s.onFlit f fun s => s.answer f)

/-- The timer of a PCIe controller's inbound access expires: a write ends with an imprecise bus error, a read or AtomicOp with Unsupported Request (R153, R499, R502). -/
def State.rootTimeout (s : State) (i t : Nat) : State :=
  match (s.iommuSt (i / 3)).inflight.find? fun a => a.tag == rootIo i t with
  | none => s
  | some a =>
    let s := (s.passTo a.deadline).rootEnd i t
    s.rootFail i t a 0xFF

/-- UNCACHED_TIMEOUT: the timer of the master's access with this tag expires (R153, R363). Rennet's accesses are not the block's, and a remote package's
end by the tag table (R332). -/
def execUncachedTimeout (who : Master) (tag : Nat) (s : State) : Res :=
  .next (match who with
  | .hart h _ => (s.hartTimeout h tag).endReset h
  | .engine e => s.engineTimeout e.val tag
  | .root i => s.rootTimeout i.val tag
  | .sba => (match s.sec.sbBusy with
    | some t =>
      let s := s.passTo t
      { s with sec := { s.sec with sberror := 1, sbBusy := none } }
    | none => s)
  | .rennet | .remote _ => s)

end Sys2Proof.Machine
end

