-- ==== Sys2Proof/Machine/Debug.lean ====
section
/-!
DEFINITION. External debug: halt and resume requests, abstract commands and system bus access, within the debug level (R482, R486, R489 to R492). The
layouts of dcsr and of register numbers and the error codes are those of the RISC-V debug specification (PRESUMED, log entry 8).
-/
namespace Sys2Proof.Machine

/-- Whether the debug modules answer: not in package retention, and not during the power-fail flush or after it (R492). -/
def State.debugUp (s : State) : Bool :=
  s.phase != .inert && !s.pow.retention && (match s.pow.pfail with | some t => decide (s.time < t + 1000) | none => true)

/-! ### Halt and resume (R486, R489, R491) -/

/-- A halt request at one hart: it wakes the hart, and takes effect at the first instruction boundary at which the hart may halt (R486, R492). -/
def State.requestHalt (s : State) (h : HartId) (why : Nat) : State :=
  let c := s.hart h
  if c.halted then s else
  let s := if c.idle = .run then s else s.wake h
  let s := s.updHart h fun c => { c with haltReq := true }
  if (s.hart h).runs && s.mayHalt h then s.updHart h fun c => c.enterDebug why else s

/-- The other permitted harts of a hart's halt group. -/
def State.haltMates (s : State) (h : HartId) : List HartId :=
  let g := (s.hart h).haltGroup
  if g = 0 then [] else allHarts.filter fun k => k != h && (s.hart k).haltGroup == g && s.permitted k

/-- DM_HALT_REQUEST: the hart halts, and with it every member of its halt group (R489, R491). -/
def execDmHaltRequest (h : HartId) (s : State) : Res :=
  .next (if !(s.debugUp && s.permitted h) then s else
    let s := s.requestHalt h 3
    if (s.hart h).halted then (s.haltMates h).foldl (fun s k => s.requestHalt k 6) s else s)

/-- DM_RESUME_REQUEST (R491). -/
def execDmResumeRequest (h : HartId) (s : State) : Res :=
  .next (if s.debugUp && s.permitted h && (s.hart h).halted then s.updHart h fun c => c.resumed (isT h) true else s)

/-! ### Abstract commands (R486, R489) -/

/-- The debug module of a hart, by its C-tile ordinal. -/
def dmOf (h : HartId) : Nat := (ordOf (tileOf (hartStop h))).getD 0
/-- Ends an abstract command with an error, 0 for none. -/
def State.absEnd (s : State) (h : HartId) (e : Nat) : State := { s with sec := { s.sec with cmderr := tabSet 0 s.sec.cmderr (dmOf h) e } }
/-- Ends it with the value it has read. -/
def State.absRead (s : State) (h : HartId) (v : Word) : State :=
  ({ s with sec := { s.sec with dmdata := tabSet 0 s.sec.dmdata (dmOf h) v } }).absEnd h 0

/-- dcsr after a write from Debug Mode: stoptime is hard-wired to 0, the cause is read-only, and an illegal prv is not taken. -/
def dcsrWrite (t : Bool) (old v : Word) : Word :=
  let m : Word := if t then 0x3_BC24 else 0x9C04
  let w := (old &&& ~~~m) ||| (v &&& m)
  let prv := fld v 1 0
  if prv = 3 ∨ prv = 0 ∨ (t ∧ prv = 1) then putFld w 1 0 prv else w

/-- Whether an abstract command may name a CSR: dcsr and dpc beside those of M-mode; at Tenant only CSRs below M-mode (R486). -/
def State.absCsr (s : State) (h : HartId) (n : Nat) (write : Bool) : Nat :=
  if s.sec.level = 1 && n / 0x100 % 4 == 3 then 2
  else if n = 0x7B0 ∨ n = 0x7B1 then 0
  else if csrAccess h { s.hart h with mode := .m } n write = .ok then 0 else 3

/-- Runs a CSR operation as M-mode does. -/
def State.asM (s : State) (h : HartId) (f : State → State) : State :=
  let md := (s.hart h).mode
  (f (s.updHart h fun c => { c with mode := .m })).updHart h fun c => { c with mode := md }

/-- Writes a CSR from Debug Mode, which also changes triggers that it owns. -/
def State.absCsrWrite (s : State) (h : HartId) (n : Nat) (v : Word) : State :=
  let trig (k : Nat) (w : Word) : State := s.updHart h fun c => c.csrPut (0x10000 + 4 * (c.csrRaw 0x7A0).toNat + k) w
  match n with
  | 0x7B0 => s.updHart h fun c => c.csrPut 0x7B0 (dcsrWrite (isT h) (c.csrRaw 0x7B0) v)
  | 0x7B1 => s.updHart h fun c => c.csrPut 0x7B1 (v &&& ~~~1)
  | 0x7A1 => trig 1 (tdata1Debug v)
  | 0x7A2 => trig 2 v
  | 0x7A3 => s
  | _ => s.asM h fun s => s.csrWrite h n v

/-- Reads a register by its abstract number: CSRs, integer and FP registers; no number names a vector register. -/
def State.absReadReg (s : State) (h : HartId) (n : Nat) : State :=
  let c := s.hart h
  if n < 0x1000 then
    match s.absCsr h n false with
    | 0 => s.absRead h (if n = 0x7B0 ∨ n = 0x7B1 then c.csrRaw n else (s.setHart h { c with mode := .m }).csrRead h n)
    | e => s.absEnd h e
  else if n < 0x1020 then s.absRead h (c.getX (n - 0x1000))
  else if n < 0x1040 then (if ({ c with mode := .m } : Hart).fpLegal (isT h) = .ok then s.absRead h (c.getF (n - 0x1020)) else s.absEnd h 3)
  else s.absEnd h 2
/-- Writes one. -/
def State.absWriteReg (s : State) (h : HartId) (n : Nat) (v : Word) : State :=
  let c := s.hart h
  if n < 0x1000 then
    match s.absCsr h n true with
    | 0 => (s.absCsrWrite h n v).absEnd h 0
    | e => s.absEnd h e
  else if n < 0x1020 then (s.setHart h (c.setX (n - 0x1000) v)).absEnd h 0
  else if n < 0x1040 then
    (if ({ c with mode := .m } : Hart).fpLegal (isT h) = .ok then (s.setHart h (c.setF (n - 0x1020) v).dirtyFs).absEnd h 0 else s.absEnd h 3)
  else s.absEnd h 2

/-- The checks of an abstract memory access: under the hart's translation and PMP at the privilege of the halt, or by physical address as M-mode. -/
def State.absPrep (s : State) (h : HartId) (virt : Bool) (acc : Acc) (a : Word) (n : Nat) : Prep :=
  if virt then s.prep h .no acc a n n
  else (s.updHart h fun c => { c.csrPut 0x300 (c.csrRaw 0x300 &&& ~~~0x2_0000) with mode := .m }).prep h .no acc a n n

/-- An abstract memory access; where it has to wait, the same command goes on later. -/
def State.absMem (s : State) (h : HartId) (virt : Bool) (acc : Acc) (a : Word) (n : Nat) (f : State → List Part → State) : State :=
  if s.sec.level = 1 && !virt then s.absEnd h 2 else
  match s.absPrep h virt acc a n with
  | .trap _ => (s.updHart h fun c => { c with wfaults := [] }).absEnd h 3
  | .walk w => s.tlbMiss h w
  | .parts ps => f s ps

/-- Reads the checked parts. -/
def State.absLoad (s : State) (h : HartId) (n : Nat) (ps : List Part) : State :=
  if ps.any fun p => p.tgt.region.uncached then (if (s.hart h).uload = [] then s.startRead h (.dbg (dmOf h) n true) 0 ps else s)
  else match s.readParts h false ps with
  | .wait s => s
  | .poison s => (s.poisonUsed h ((ps.map (·.pa)).headD 0) 0).absEnd h 3
  | .tcmError s => s.absEnd h 3
  | .value v s => s.absRead h (BitVec.ofNat 64 v)

/-- Puts the checked parts of a write into the store buffer. -/
def State.absStore (s : State) (h : HartId) (v : Nat) (ps : List Part) : State :=
  let c := s.hart h
  if sbMax h ≤ c.sb.length then s else (s.setHart h { c with sb := c.sb ++ [sbOf ps v c.seq false] }).absEnd h 0

/-- DM_ABSTRACT_COMMAND: at a halted hart a register or memory access; the program buffer holds words of zeros, which are no instructions, and is not
supported at Tenant (R486, R489). -/
def execDmAbstractCommand (h : HartId) (cmd : AbsCmd) (s : State) : Res :=
  let c := s.hart h
  .next (if !(s.debugUp && s.permitted h) then s
    else if c.idle = .c3 then s.absEnd h 1
    else if !c.halted then s.absEnd h 4
    else match cmd with
    | .readReg n => s.absReadReg h n.val
    | .writeReg n v => s.absWriteReg h n.val v
    | .readMem virt a sz => s.absMem h virt .load a (accBytes sz) fun s ps => s.absLoad h (accBytes sz) ps
    | .writeMem virt a sz v => s.absMem h virt .store a (accBytes sz) fun s ps => s.absStore h (v.toNat % 2 ^ (8 * accBytes sz)) ps
    | .progbuf => s.absEnd h (if s.sec.level = 1 then 2 else 3))

/-! ### System bus access (R490) -/

/-- Ends a system bus access. -/
def State.sbEnd (s : State) (e : Nat) (v : Option Word) : State :=
  { s with sec := { s.sec with sberror := e, sbdata := v.getD s.sec.sbdata } }

/-- The error of an access that the checks refuse: 3 misaligned; 2 remote, a TCM address, no PMA entry, no such address, or no access that a device
register takes (R10, R27, R28, R490). -/
def State.sbCheck (s : State) (pa n : Nat) (write : Bool) : Nat :=
  let la := paLa pa
  if pa % n ≠ 0 then 3
  else if !(s.isLocal pa) || (tcmOff la).isSome || (pmaFind s.pma.masters la true).isNone || rangeFault s la write || s.subWord pa n then 2 else 0

/-- The request of an access: the answer from its target ends it. -/
def State.sbAsk (s : State) (pa n : Nat) (write : Bool) (v : Nat) : State :=
  let la := paLa pa
  let tmo := match pmaFind s.pma.masters la true with | some e => e.tmo.toNat * 1000 | none => 0
  match s.dest pa tmo write with
  | .done sts => s.sbEnd (if sts = 0 then 0 else if sts = 2 then 2 else 7) none
  | .node nd _ limit =>
    let f := { s.attrs (s.pma.pkgId.toNat * 2 ^ 47 + la) (ncFlit (if write then .writeNc else .readNc) (masterNode .sba) nd la 0 0 (maskOf (la % 64) n)) with
      size := n, data := if write then some (atOffset (la % 64) v) else none }
    ({ s with sec := { s.sec with sbBusy := some (s.time + limit) } }).send f

/-- SYSTEM_BUS_ACCESS: an access of the local package as M-mode makes it, without PMP, at Platform and Open (R482, R490). Memory is read and written
coherently, at its home slice (R169). -/
def execSystemBusAccess (a : Pa) (size : AccSize) (write : Bool) (v : Word) (s : State) : Res :=
  let n := accBytes size
  let pa := a.toNat
  .next (if !s.debugUp || s.sec.level < 2 || s.sec.sbBusy.isSome then s else
    match s.sbCheck pa n write with
    | 0 => s.sbAsk pa n write (v.toNat % 2 ^ (8 * n))
    | e => s.sbEnd e none)

end Sys2Proof.Machine
end

