-- ==== Sys2Proof/Machine/RennetPort.lean ====
section
/-!
DEFINITION. Rennet's accesses through Rind: rules 1 to 12 (R444), and what follows a refusal (R445).
-/
namespace Sys2Proof.Machine

/-! ### Rule 1: memory, PCIe windows and remote addresses -/

/-- Bytes of the line of `a`, from `a` on, that lie inside the buffer grant of a BUSY mailbox in the direction; none where `a` lies in no grant. -/
def State.granted (s : State) (a : Nat) (write : Bool) : Option Nat :=
  (List.range 32).findSome? fun n =>
    match (s.mb n).grant with
    | some (b, len, w) => if (s.mb n).st = .busy ∧ w = write ∧ b ≤ a ∧ a < b + len then some (min (64 - a % 64) (b + len - a)) else none
    | none => none

/-- The request for `n` granted bytes leaves for its target (R169). -/
def State.rennetSend (s : State) (a n : Nat) (write : Bool) (v : Line) : State :=
  let la := paLa a
  match s.dest a 100000 write with
  | .node nd rpkg _ =>
    s.send { s.attrs a (ncFlit (if write then .writeNc else .readNc) mgmtNode nd la 0 rpkg (maskOf (la % 64) n)) with
      data := if write then some (atOffset (la % 64) v.toNat) else none, size := n }
  | .done _ => s

/-- Rule 1; the PMA check follows the grant. -/
def State.rennetMem (s : State) (a : Nat) (write : Bool) (v : Line) : State :=
  match s.granted a write with
  | none => s.rindRefuse 1
  | some n =>
    if (pmaFind s.pma.masters (paLa a) (s.isLocal a)).isNone || (s.isLocal a && rangeFault s (paLa a) write) then s
    else s.rennetSend a n write v

/-! ### Rules 2 and 3: device registers -/

/-- The bytes of a register that an access of `n` bytes at `la` covers, for a register of `w` bytes at `b`: value and mask. -/
def regLanes (la n w b v : Nat) : Word × Word :=
  let k := min n w
  let o := 8 * (la - b)
  (BitVec.ofNat 64 ((v % 2 ^ (8 * k)) <<< o), BitVec.ofNat 64 ((2 ^ (8 * k) - 1) <<< o))

/-- A register write that rule 2 permits: the three boot-time registers, and Rennet's own stop. -/
def State.rennetReg (s : State) (la n v : Nat) : State :=
  let (r, w, b) := locate la
  let (x, m) := regLanes la n w b v
  -- a value that the boot flow has set holds: a different one is refused, also between a warm reset and the host's restart (R230, R512)
  let set := s.dram.map.getLsbD 31
  let boot (same : Bool) (t : State) : State := if s.ren.started || (set && !same) then s.rindRefuse 2 else t
  match r with
  | .pkgId =>
    let id := BitVec.ofNat 9 (fld (mergeW (s.pma.pkgId.setWidth 64 : Word) x m) 8 0)
    boot (id == s.pma.pkgId) (s.setPma { s.pma with pkgId := id })
  | .dramTop =>
    let top := BitVec.ofNat 47 (fld (mergeW (s.pma.dramTop.setWidth 64 : Word) x m) 46 0)
    boot (top == s.pma.dramTop) (s.setPma { s.pma with dramTop := top })
  | .mcMap =>
    let map := mergeW s.dram.map x m &&& 0x80F8_FF33
    if fld map 5 4 = 3 then s.rindRefuse 2 else boot (map == s.dram.map) { s with dram := { s.dram with map := map } }
  | _ => if devNode la = some mgmtNode && decide (la < 0x2000_0000) then s.regWrite .rennet r x m else s.rindRefuse 2

/-! ### Rules 4 to 6: the Wheel, routes, engine pools -/

/-- Rule 4: a slot write keeps R216, and reservation 0 changes only before the first host instruction. -/
def State.rennetWheel (s : State) (stop : Nat) (out : Port) (slot : Nat) (owner : Option (Fin 128)) : State :=
  let k := wheelKey stop out slot
  let old := tabGet 0 s.mesh.wheel k
  let new := match owner with | some r => r.val + 1 | none => 0
  let zero := (old == 1 || new == 1) && old != new
  let fits := old = new || new = 0 || s.slotsFit { id := stop, out := out, stretch := 0, off := 0 } [slot]
  if !fits || (zero && s.ren.started) then s.rindRefuse 4
  else { s with mesh := { s.mesh with wheel := tabSet 0 s.mesh.wheel k new } }

/-- Rule 5: a table whose own entry has V = 0 and whose every valid group has a link up. -/
def State.routesOk (s : State) (t : Tab Route) : Bool :=
  !(tabGet Route.none t s.ownPkg).v && t.all fun (x : Nat × Route) => !x.2.v || s.groupLinks x.2.group != []
def State.rennetRoute (s : State) (entry : Nat) (v : Bool) (g : Fin 8) (hops : Nat) : State :=
  let t := tabSet Route.none s.graop.routes entry (if v then { v := true, group := g, hops := hops } else Route.none)
  if s.routesOk t then { s with graop := { s.graop with routes := t } } else s.rindRefuse 5

/-- Rule 6: a channel in IDLE that no instance has, to an instance of its engine that has room for it. -/
def State.rennetPool (s : State) (c : Nat) (i : Fin 64) : State :=
  let v := s.instance_ i.val
  if (s.dma c).st = .idle && (s.dma c).inst.isNone && v.st == .active && c / 32 == i.val / 32 && decide (v.slots.length < 7)
  then (s.giveChans i [c]).setInstance i.val { v with slots := v.slots ++ [c] } else s.rindRefuse 6

/-! ### The access -/

/-- RENNET_ACCESS: performed within the rules, and otherwise refused (R444, R445). -/
def execRennetAccess (t : RennetTarget) (s : State) : Res :=
  .next (if !s.ren.up then s else
    match t with
    | .mem a write v => s.rennetMem a.toNat write v
    | .reg a size v write =>
      let n := accBytes size
      if areaOf s a.toNat ≠ .device ∨ n < 4 ∨ a.toNat % n ≠ 0 then s
      else if write then s.rennetReg a.toNat n v.toNat else (s.devRead .rennet a.toNat n).1
    | .instPage a write =>
      (match (locate a.toNat).1 with
      | .inst _ _ => if write then s.rindRefuse 3 else if a.toNat % 4 = 0 then (s.devRead .rennet a.toNat 4).1 else s
      | _ => s)
    | .wheel stop out slot owner => s.rennetWheel stop.val out slot.val owner
    | .route entry v g hops => s.rennetRoute entry.val v g hops.val
    | .poolChannel c i => s.rennetPool c.val i
    | .rail inside off prot => if !inside || off || prot then s.rindRefuse 7 else s
    | .clockTcore h mhz => if min 3600 (s.lifeLimit h.val) < mhz then s.rindRefuse 8 else s.updHart (.t h) fun c => { c with ceil := mhz }
    | .clockMesh mhz => if s.reserved then s.rindRefuse 8 else { s with pow := { s.pow with meshMhz := mhz } }
    | .thermal disable celsius =>
      if disable ∨ 112 < celsius then s.rindRefuse 9 else { s with pow := { s.pow with tripAt := celsius } }
    | .budget n => if s.brineLimit < n then s.rindRefuse 10 else s.setBudget n
    | .flushSequencer => s.rindRefuse 10
    | .flash act cert lower => if act || cert || lower then s.rindRefuse 11 else s
    | .identity seed level => if seed || decide (s.sec.level < level) then s.rindRefuse 12 else s)

end Sys2Proof.Machine
end

