-- ==== Sys2Proof/Machine/Boot.lean ====
section
/-!
DEFINITION. Cold and warm reset, the boot flow, and the first host instruction (R470, R474 to R479, R511 to R513, R520 to R522, R529).
-/
namespace Sys2Proof.Machine

/-! ### Images (R474 to R478, R520 steps 2 and 6) -/

/-- Whether the counters accept what a slot holds; an image that FW_STAGE wrote has been verified there, the factory's at manufacture. -/
def State.slotOk (s : State) (t k : Nat) : Bool :=
  match s.slot t k with
  | some i => s.imageOk t i
  | none => (s.svnOf t == 0 || decide (s.svnOf t ≤ Config.factorySvn t)) && (t != 0 || s.sec.keymin == 0 || decide (s.sec.keymin ≤ Config.factoryKeyslot))

/-- The slot that runs: the active one where it is accepted, else the other (R476). -/
def State.bootSlot (s : State) (t : Nat) : Option Nat :=
  let a := s.activeSlot t
  if s.slotOk t a then some a else if s.slotOk t (1 - a) then some (1 - a) else none

/-- A committed image's slot becomes active at the cold reset (R439). -/
def State.applyCommit (s : State) (t : Nat) : State :=
  let r := s.ren
  if tabGet false r.commit t then
    { s with ren := { r with
        actSlot := tabSet 0 r.actSlot t (1 - s.activeSlot t), commit := tabSet false r.commit t false, staged := tabSet false r.staged t false } }
  else s

/-- Sets the running image of a target. -/
def State.runImage (s : State) (t k : Nat) : State := { s with ren := { s.ren with active := tabSet none s.ren.active t (s.slot t k) } }

/-- Length of the running host image's body (R521). -/
def State.hostLength (s : State) : Nat := match tabGet none s.ren.active 1 with | some i => i.length | none => s.plat.hostLen

/-! ### Memory (R226, R230, R470) -/

/-- MC_MAP of the platform configuration (R230). -/
def Platform.map (p : Platform) : BitVec 32 :=
  BitVec.ofNat 32 (2 ^ 31 + p.dens.toNat * 2 ^ 20 + b2n p.clam * 2 ^ 19 + p.rate.toNat * 2 ^ 8 + p.bkxor.toNat * 16 + p.chxor.toNat)
/-- Whether every memory port has devices of the one density, placement and speed grade of the configuration, within the timings supported (R225, R226). -/
def Platform.populated (p : Platform) : Bool :=
  p.sites.all fun (k, d) => decide (24 ≤ k) ||
    (match d with | .asConfigured => true | .absent => false | .other dens clam grade slow => dens == p.dens && clam == p.clam && grade == p.rate && !slow)
/-- Whether Rennet accepts the memory configuration: density, pin rate, BKXOR and population (R225, R226, R230). -/
def Platform.mapOk (p : Platform) : Bool :=
  p.bkxor != 3 && (p.dens == 1 || p.dens == 2) && [12, 14, 16, 18, 20, 22, 24].contains p.rate.toNat && p.populated
/-- MS_DRAM_TOP of a mapping: 28 data lines in each page of 48 channels of 16 banks (R24, R227). -/
def topOfMap (map : BitVec 32) : Nat := 0x8000_0000 + rowsOf map * (16 * 48 * 28 * 64)

/-- OUTCOME at a cold boot (R470, R471). -/
def State.flushOutcome (s : State) : Nat :=
  let f := s.ren.flush
  if !f.valid || f.consumed then 0
  else if !f.complete then 2
  else if f.map != s.plat.map || f.popDens != s.plat.dens.toNat || f.popClam != s.plat.clam then 3
  else if s.plat.savedOk != BitVec.allOnes 48 then 4 else 1

/-! ### The boot record (R521) -/

/-- The first 64 bytes of the shared SRAM; the stub's start time is written when it starts. -/
def State.bootRecord (s : State) : List Byte :=
  leBytes 4 0x5242_5845 ++ leBytes 1 s.ren.bootKind ++ leBytes 1 s.ren.outcome ++ leBytes 2 s.ownPkg ++ leBytes 8 s.plat.imgBase ++ leBytes 8 s.hostLength ++
    leBytes 8 s.pma.dramTop.toNat ++ leBytes 8 0 ++ leBytes 4 (b2n s.ren.hostOk) ++ leBytes 20 0

/-- Whether the host slots end within the flash (R477). -/
def Platform.flashOk (p : Platform) : Bool := decide (0x100_0000 + 2 * p.hsize ≤ p.flash)

/-- Whether the host image is accepted: its header, hash and signature, a slot that the counters accept, slots within the flash, and its place (R475 to
R477, R521). -/
def State.hostFits (s : State) (accepted : Bool) : Bool :=
  accepted && s.plat.flashOk && (s.bootSlot 1).isSome && s.plat.imgBase % 4096 == 0 && decide (0x8000_0000 ≤ s.plat.imgBase) &&
    decide (s.plat.imgBase + s.hostLength ≤ s.pma.dramTop.toNat)

/-- PW_HRST.RVEC of every hart: the PA of local address 0 (R515). -/
def State.setRvec (s : State) : State :=
  if s.ownPkg = 0 then s else s.mapHarts (fun c => { c with rvec := BitVec.ofNat 64 (s.ownPkg * 2 ^ 47) }) allHarts

/-- Levels of external inputs and of lines that reset does not change, with every source at its reset value otherwise (R381). -/
def keepLevels (keep : Nat → Bool) (t : Tab Source) : Tab Source :=
  (t.filter fun (n, c) => keep n && c.level).map fun (n, _) => (n, { Source.reset with level := true })

/-- The links of the fabric record train (R315, R316). -/
def State.trainLinks (s : State) : State :=
  if s.plat.topo = .single then s else
  s.plat.linkGroup.foldl (fun s (l, g) => if g.isSome then s.updLink l fun k => { k with st := .training } else s) s

/-! ### Cold reset (R511, R512, R520) -/

/-- Everything at its reset value, but for the boot flash, OTP, the platform and its pins. -/
def State.coldBase (s : State) (keepMem : Bool) : State :=
  let r := s.ren
  let z := State.reset
  { z with
    mem := { z.mem with dram := if keepMem then s.mem.dram else [] },
    dram := { z.dram with marks := if keepMem then s.dram.marks else [], retired := s.dram.retired },
    irq := { z.irq with gpioIn := s.irq.gpioIn, src := keepLevels (fun n => decide (257 ≤ n) && decide (n ≤ 272)) s.irq.src },
    ren := { z.ren with
      slots := r.slots, actSlot := r.actSlot, staged := r.staged, commit := r.commit, raiseOtp := r.raiseOtp, jrnlGen := r.jrnlGen, jrnl := r.jrnl,
      journal := r.journal, flush := r.flush },
    sec := { z.sec with
      seedErased := s.sec.seedErased || s.sec.eraseIntent, eraseIntent := s.sec.eraseIntent, rsvn := s.sec.rsvn, hsvn := s.sec.hsvn, keymin := s.sec.keymin,
      nonce := s.sec.nonce + 1 },
    pow := { z.pow with ledgerSaved := s.pow.ledgerSaved }, plat := s.plat, free := s.free, pending := s.pending }

/-- Steps 2 and 3: the Rennet firmware is verified and runs, and reads the platform configuration and the journal (R315, R460, R476, R500, R508). -/
def State.startRennet (s : State) (k : Nat) : State :=
  let s := s.runImage 0 k
  let p := s.plat
  let led : Tab Ledger := (List.range 8).foldl (fun t i =>
    let l := tabGet Ledger.reset s.pow.ledgerSaved i
    tabSet .reset t i ({ l with a := l.a + 36000, h := l.h + 36000 }).limits) []
  let next := match s.ren.journal.getLast? with | some e => e.index + 1 | none => 0
  { s with
    ren := { s.ren with up := true, log := s.ren.journal, logNext := next },
    sec := { s.sec with boot := 1 },
    pow := { s.pow with limitW := p.limitW, tctl := p.tctl, ledger := led },
    graop := { s.graop with inbound := p.inbound, root := p.pkgId.val },
    pma := { s.pma with pkgId := BitVec.ofNat 9 p.pkgId.val } }

/-- Channels that are not trained, as a mask. -/
def State.untrained (s : State) : Nat := bitsWhere (2 ^ 48 - 1) fun ch => (s.chan ch).st == .untrained

/-- Step 4: memory (R226, R230, R246, R470). A configuration that Rennet refuses leaves VALID at 0, with the fault on the console; a channel that fails full training
three times ends the boot. -/
def State.startMemory (s : State) (outcome : Nat) : State :=
  let s := { s with ren := { s.ren with outcome := outcome } }
  if !s.plat.mapOk then { s with ren := { s.ren with console := s.ren.console ++ [0x0230] } } else
  let s := s.trainChans (2 ^ 48 - 1) true s.plat.trainOk
  let s := (s.trainChans s.untrained false s.plat.trainOk)
  let s := (s.trainChans s.untrained false s.plat.trainOk)
  { s with
    dram := { s.dram with map := s.plat.map }, pma := { s.pma with dramTop := BitVec.ofNat 47 (topOfMap s.plat.map) } }

/-- Steps 5 and 6 up to the stub: RVEC, reservation 0, links, the host image and the boot record; the stub starts when the fabric is up (R220, R317,
R520, R521). -/
def State.startHost (s : State) (accepted : Bool) : State :=
  let s := (s.setRvec.reserveZero).trainLinks
  let s := match s.bootSlot 1 with | some k => s.runImage 1 k | none => s
  let s := { s with ren := { s.ren with
    hostOk := s.hostFits accepted, console := if s.plat.flashOk then s.ren.console else s.ren.console ++ [0x0477] } }
  ({ s with mem := { s.mem with sram := memPut s.mem.sram 0 s.bootRecord } }).maybeStart

/-- Whether the power-fail flush runs or is due: the reset pins are ignored (R468, R511). -/
def State.flushing (s : State) : Bool := match s.pow.pfail with | some t => decide (t + 1000 ≤ s.time) && !s.flushed | none => false

/-- COLD_RESET: everything is reset and the boot flow runs; `accepted` is the verification of the host image. Without a Rennet image the package waits for
the next cold reset (R470, R476, R511, R520). -/
def execColdReset (accepted : Bool) (s : State) : Res :=
  .next (if s.flushing then s else
    let outcome := s.flushOutcome
    let s := s.coldBase (outcome == 1)
    let s := (s.applyCommit 0).applyCommit 1
    match s.bootSlot 0 with
    | none => { s with sec := { s.sec with boot := 8 }, ren := { s.ren with console := [0x0476] } }
    | some k => ((s.startRennet k).startMemory outcome).startHost accepted)

/-! ### Warm reset (R511 to R513) -/

/-- A write that was on its way is performed at its target (R513 step 2). -/
def State.landWrite (s : State) (f : Flit) : State :=
  if f.op ≠ .writeNc then s
  else if s.leaves f then s.atLink (stopUnit (nodeStop f.dst)) f
  else match areaOf s f.addr.toNat with
  | .dram | .sram => s.pokeLine f.addr.toNat (f.data.getD 0) f.mask
  | .device => (match maskUnits f.mask with
    | some us => s.devWrites (masterOf f.src f.rpkg) (f.addr.toNat / 64 * 64) (f.data.getD 0) us
    | none => s)
  | _ => s

/-- Steps 1 to 4: harts stop, retired stores and issued writes are performed, every dirty line is written back, every token is free, and the channels
enter self-refresh. -/
def State.quiesce (s : State) : State :=
  let s := s.stopHarts
  let s := (allHarts.filter fun h => (s.hart h).sb != []).foldl (fun s h => (s.updHart h fun c => { c with track := [] }).drainNow h) s
  let s := (s.flits ++ s.coh.waitq).foldl State.landWrite s
  (s.settle s.dirtyLines).freeAllTokens

/-- Step 5: every block that R512 does not keep takes its reset values. -/
def State.warmBase (s : State) (ns : Nat) : State :=
  let z := State.reset
  let r := s.ren
  { z with
    mem := { s.mem with sram := [], mbox := [] },
    pma := { z.pma with pkgId := s.pma.pkgId, dramTop := s.pma.dramTop },
    mesh := { z.mesh with stamp := s.mesh.stamp, slotBase := s.mesh.slotBase, cycle := s.mesh.cycle },
    dram := { s.dram with chans := s.dram.chans.map fun (k, c) => (k, { c with injCtl := 0, injLine := 0, hot := false }) },
    graop := { s.graop with
      homes := [], tags := [], inbound := s.plat.inbound, refuse := true, links := s.graop.links.map fun (k, c) => (k, { c with inj := 0 }) },
    irq := { z.irq with gpioIn := s.irq.gpioIn, src := keepLevels (fun _ => true) s.irq.src },
    ren := { r with
      mbox := z.ren.mbox, fenced := false, up := r.up || r.fenced, started := false, waitAssign := [], bootKind := 1,
      unfinished := (r.unfinished.filter fun (x : Unfinished × Option (Fin 32)) => match x.1 with | .linkDisable _ => true | _ => false).map
        fun (x : Unfinished × Option (Fin 32)) => (x.1, none) },
    pow := { s.pow with meshMhz := 2000, limitW := s.plat.limitW, pcieOff := 0, engOff := 0, portOff := 0, retention := false, coreOff := [] },
    brine := { z.brine with energy := s.brine.energy, readAt := s.brine.readAt },
    sec := { s.sec with
      level := if s.sec.level = 1 then 0 else s.sec.level, inst := z.sec.inst, toks := s.sec.toks.map fun (k, _) => (k, none), cmderr := [], dmdata := [],
      sberror := 0, sbdata := 0, sbBusy := none, authErr := false, boot := 1 },
    err := s.err, plat := s.plat, time := s.time + ns, free := s.free, pending := s.pending }

/-- WARM_RESET: `ns` is the reset's duration as Rennet measures it. A stopped package, one without Rennet, and one that flushes ignore WARMRST_N; a Rennet
that restarts goes on with the boot flow when it serves again (R447, R511 to R513). -/
def execWarmReset (ns : Nat) (s : State) : Res :=
  .next (if s.flushing || s.phase == .inert || s.pow.trip || s.sec.boot == 0 || s.sec.boot == 8 then s else
    let ok := s.ren.hostOk
    let s := (s.quiesce.warmBase ns).wakeChannels
    let s := if s.ren.up then { s with ren := { s.ren with lastBeat := s.time } } else (List.range 32).foldl State.mbDown s
    (s.driveBrine).startHost ok)

/-! ### First host instruction (R478, R522) -/

/-- The OTP counters rise to the running images (R478). -/
def State.raiseCounters (s : State) : State :=
  if !s.ren.raiseOtp then s else
  let im (t : Nat) : Option ImageInfo := tabGet none s.ren.active t
  let svn (t : Nat) : Nat := match im t with | some i => i.svn | none => Config.factorySvn t
  let key : Nat := match im 0 with | some i => i.keyslot | none => Config.factoryKeyslot
  { s with
    sec := { s.sec with rsvn := max s.sec.rsvn (svn 0), hsvn := max s.sec.hsvn (svn 1), keymin := max s.sec.keymin key },
    ren := { s.ren with raiseOtp := false } }

/-- Hart 0 at ENTRY: M-mode, reset CSR values, a0 its hart ID, a1 the PA of the boot record (R522). -/
def State.atEntry (s : State) : Hart :=
  let c := s.hart (.t 0)
  { Hart.resetT with
    pc := BitVec.ofNat 64 (s.ownPkg * 2 ^ 47 + s.plat.imgBase), x := tabSet 0 [] 11 (BitVec.ofNat 64 (s.ownPkg * 2 ^ 47 + 0x400_0000)), held := false,
    rvec := c.rvec, seq := c.seq, clock := c.clock, ceil := c.ceil }

/-- FIRST_HOST_INSTRUCTION: the stub, which waits for GO, jumps to ENTRY; Rind closes the boot-time writes and the mailboxes open (R444, R470, R478, R512,
R522). -/
def execFirstHostInstruction (s : State) : Res :=
  .next (if s.phase != .run || !s.allTrained || s.ren.started || !s.ren.hostOk || !s.canIssue (.t 0) then s else
    let s := (s.setHart (.t 0) s.atEntry).raiseCounters
    { s with
      ren := { s.ren with started := true, flush := { s.ren.flush with consumed := true } },
      sec := { s.sec with boot := 2 }, graop := { s.graop with refuse := false } })

end Sys2Proof.Machine
end

