-- ==== Sys2Proof/Machine/Pcie.lean ====
section
/-!
DEFINITION. The PCIe root ports (R27, R140, R147, R288 to R295, R381, R384, R502, R523, R525): inbound requests, device MSIs, completions of outbound
requests, link events. The links themselves and their error registers are the environment.
-/
namespace Sys2Proof.Machine

/-! ### Inbound requests -/

/-- A controller receives no request while it is off, in reset or stopped (R454, R468, R513). -/
def State.pcieUp (s : State) (i : Nat) : Bool := s.phase == .run && !(s.pcieIsOff i) && !s.pow.retention

/-- The least free tag of a controller's inbound requests: 256 (R147). -/
def State.rootTag (s : State) (i : Nat) : Option Nat :=
  (List.range 256).find? fun t => !((s.iommuSt (i / 3)).inflight.any fun a => a.tag == rootIo i t)

/-- What an inbound access of a line meets: its PA after the IOMMU and the PMA check, a refusal by one of them, or a walk that it waits for (R27, R28, R289, R295). -/
inductive RootGo where
  | ok (s : State) (pa : Nat) (e : PmaEntry)
  | refused (s : State)
  | wait (s : State)
  deriving DecidableEq, Repr

def State.rootPa (s : State) (i : Nat) (rid : BitVec 16) (pasid : Option (BitVec 20)) (iova : Word) (write : Bool) (tag : Nat) : RootGo :=
  match s.inbound (i / 3) (.pcie (Fin.ofNat 3 (i % 3)) rid pasid) iova write (rootIo i tag) with
  | .wait s => .wait s
  | .refused s => .refused s
  | .ok s pa =>
    match pmaFind s.pma.masters (paLa pa) (s.isLocal pa) with
    | none => .refused s
    | some e => if s.isLocal pa && rangeFault s (paLa pa) write then .refused s else .ok s pa e

/-- The request leaves the controller: what the IOMMU kept for it goes. -/
def State.rootTaken (s : State) (i : Nat) (rid : BitVec 16) (pasid : Option (BitVec 20)) : State :=
  s.ioTaken (i / 3) (.pcie (Fin.ofNat 3 (i % 3)) rid pasid)

/-- A refused read or AtomicOp completes with Unsupported Request (R295). -/
def State.rootUr (s : State) (i : Nat) : State := (s.tlpSent i 0).count (pcieStop i) 1 5 1 none

/-- Sends an inbound request of `n` bytes under a tag; an address that needs no request completes at once. -/
def State.rootSend (s : State) (i tag : Nat) (pa : Nat) (e : PmaEntry) (op : MsgOp) (m : LineMask) (edit : Flit → Flit) : State × Option Nat :=
  match s.dest pa (e.tmo.toNat * 1000) (op == .writeNc) with
  | .done sts => (s, some sts)
  | .node nd rpkg limit =>
    let f := edit (s.attrs pa (ncFlit op (pcieNode i) nd (paLa pa) tag rpkg m))
    ((s.ioBegin (i / 3) (rootIo i tag) (op == .writeNc) pa (s.time + limit)).send f, none)

/-- The lines of a read of `n` bytes from `a`: first byte and length of each. -/
def readLines (a : Nat) : Nat → Nat → List (Nat × Nat)
  | _, 0 => []
  | n, k + 1 => if n = 0 then [] else
    let l := min n (64 - a % 64)
    (a, l) :: readLines (a + l) (n - l) k

/-- One line of an inbound read. -/
def State.rootRead (s : State) (i : Nat) (rid : BitVec 16) (pasid : Option (BitVec 20)) (a n : Nat) : State :=
  match s.rootTag i with
  | none => s
  | some t =>
    match s.rootPa i rid pasid (BitVec.ofNat 64 a) false t with
    | .wait s => s
    | .refused s => s.rootUr i
    | .ok s pa e =>
      match s.rootSend i t pa e .readNc (maskOf (pa % 64) n) (fun f => { f with size := n }) with
      | (s, none) => s
      | (s, some 0) => s.tlpSent i n
      | (s, some _) => s.rootUr i

/-- The first line of a read whose translation waits for a walk: the state with that walk started. -/
def State.rootWalk (s : State) (i : Nat) (rid : BitVec 16) (pasid : Option (BitVec 20)) : List (Nat × Nat) → Option State
  | [] => none
  | (a, _) :: ls => match s.rootPa i rid pasid (BitVec.ofNat 64 a) false 0 with | .wait s => some s | _ => s.rootWalk i rid pasid ls

/-- PCIE_MEMORY_READ: each line of the request is translated, checked and sent; the request waits at the controller while tags are short (R147, R523), and while a
translation waits for its walk (R289; log entry 74). -/
def execPcieMemoryRead (i : Fin 6) (rid : BitVec 16) (pasid : Option (BitVec 20)) (iova : Word) (bytes : Nat) (s : State) : Res :=
  let ls := readLines iova.toNat (min bytes 4096) 65
  let free := 256 - ((List.range 256).filter fun t => (s.iommuSt (i.val / 3)).inflight.any fun a => a.tag == rootIo i.val t).length
  .next (if !(s.pcieUp i.val) || decide (free < ls.length) then s
    else match s.rootWalk i.val rid pasid ls with
    | some s => s
    | none => (ls.foldl (fun s p => s.rootRead i.val rid pasid p.1 p.2) (s.tlpReceived i.val 0)).rootTaken i.val rid pasid)

/-- A poisoned TLP: its line is stored poisoned, with a record at the root port (R502). -/
def State.poisonedTlp (s : State) (i pa : Nat) : State :=
  s.logErr { mkErr 0x02 1 (pcieStop i) false with pa := some pa }

/-- A posted write of bytes of one line; a refused one is discarded (R295). -/
def State.rootWrite (s : State) (i : Nat) (rid : BitVec 16) (pasid : Option (BitVec 20)) (a : Nat) (m : LineMask) (d : Line) (poison : Bool) : State :=
  match s.rootTag i with
  | none => s
  | some t =>
    match s.rootPa i rid pasid (BitVec.ofNat 64 a) true t with
    | .wait s => s
    | .refused s => (s.tlpReceived i (popN 64 m.toNat)).rootTaken i rid pasid
    | .ok s pa e =>
      let s := (s.tlpReceived i (popN 64 m.toNat)).rootTaken i rid pasid
      let s := if poison then s.poisonedTlp i pa else s
      match s.rootSend i t pa e .writeNc m (fun f => { f with addr := BitVec.ofNat 47 (paLa pa), data := some d, poison := poison, size := popN 64 m.toNat }) with
      | (s, none) => { s with pcie := { s.pcie with posted := s.pcie.posted ++ [(i, rid.toNat, t)] } }
      | (s, some _) => s

/-- PCIE_MEMORY_WRITE: bytes `mask` of the line at `iova` (R523). -/
def execPcieMemoryWrite (i : Fin 6) (rid : BitVec 16) (pasid : Option (BitVec 20)) (iova : Word) (mask : LineMask) (data : Line) (poison : Bool)
    (s : State) : Res :=
  .next (if !(s.pcieUp i.val) then s else s.rootWrite i.val rid pasid (iova.toNat / 64 * 64) mask data poison)

/-- The AtomicOps that a root port completes: naturally aligned FetchAdd, Swap and CAS of 4 or 8 bytes (R523). -/
def pcieAtomic (fn : AmoFn) (bytes : Nat) (iova : Word) : Bool :=
  (fn == .add || fn == .swap || fn == .cas) && (bytes == 4 || bytes == 8) && iova.toNat % bytes == 0

/-- PCIE_ATOMIC_OP: performed at the home slice; 128-bit CAS, and an atomic to an I/O region, complete with UR (R140, R169, R523). -/
def execPcieAtomicOp (i : Fin 6) (rid : BitVec 16) (pasid : Option (BitVec 20)) (iova : Word) (fn : AmoFn) (bytes : Nat) (operand compare : Word)
    (s : State) : Res :=
  .next (if !(s.pcieUp i.val) then s
    else if !(pcieAtomic fn bytes iova) then (s.tlpReceived i.val (if fn = .cas then 2 * bytes else bytes)).rootUr i.val
    else match s.rootTag i.val with
    | none => s
    | some t =>
      let took (s : State) : State := (s.tlpReceived i.val (if fn = .cas then 2 * bytes else bytes)).rootTaken i.val rid pasid
      match s.rootPa i.val rid pasid iova true t with
      | .wait s => s
      | .refused s => (took s).rootUr i.val
      | .ok s pa e =>
        let s := took s
        if e.io then s.rootUr i.val else
        let o := pa % 64
        let d := atOffset o (operand.toNat % 2 ^ (8 * bytes)) ||| (if fn = .cas then atOffset (casOffset o) (compare.toNat % 2 ^ (8 * bytes)) else 0)
        match s.rootSend i.val t pa e .atomicNc (maskOf o bytes) (fun f => { f with data := some d, fn := fn, size := bytes }) with
        | (s, none) => s
        | (s, some _) => s.rootUr i.val)

/-- PCIE_MSI_WRITE: a device's MSI leaves only when no earlier posted write of its requester ID is unacknowledged; it is a posted write itself (R384). -/
def execPcieMsiWrite (i : Fin 6) (rid : BitVec 16) (iova : Word) (data : BitVec 32) (s : State) : Res :=
  .next (if !(s.pcieUp i.val) || (s.pcie.posted.any fun p => p.1 == i.val && p.2.1 == rid.toNat) || iova.toNat % 4 != 0 then s
    else s.rootWrite i.val rid none iova.toNat (maskOf (iova.toNat % 64) 4) (atOffset (iova.toNat % 64) data.toNat) false)

/-! ### Completions of outbound requests (R525) -/

/-- What a completion gives an outbound read. Configuration reads that no device completes return all ones, with STS 0x00; memory reads end with STS 0x03. -/
def State.cplRead (s : State) (r : PcieReq) (cpl : PcieCpl) : Flit :=
  let f := r.req
  match cpl with
  | .data v => { reply s f .readReturn 0 with data := some v, mask := f.mask }
  | _ => if r.cfg then { reply s f .readReturn 0 with data := some (BitVec.allOnes 512), mask := f.mask } else reply s f .errorReply 3

/-- The link partner has acknowledged an outbound write: it is acknowledged now with EWA = 0, and has reached its endpoint with EWA = 1. A memory write at a link that
is down is never acknowledged, and its timer ends it (R145, R153, R155, R525; log entry 153). -/
def State.cplWrite (s : State) (r : PcieReq) (cpl : PcieCpl) : State :=
  if cpl == .absent && !r.cfg then s
  else if r.req.ewa then s.endEwa (pcieNode r.ctl) r.req 0 else s.send (reply s r.req .writeDone 0)

/-- PCIE_COMPLETION (R147, R525). -/
def execPcieCompletion (i : Fin 6) (tag : Nat) (cpl : PcieCpl) (s : State) : Res :=
  .next (match s.pcie.reqs.find? fun r => r.ctl == i.val && r.tag == tag with
  | none => s
  | some r =>
    let s := { s with pcie := { s.pcie with reqs := s.pcie.reqs.erase r } }
    let s := match cpl with
      | .data _ => s.tlpReceived i.val (if r.req.op == MsgOp.readNc then popN 64 r.req.mask.toNat else 0)
      | .ur => (s.tlpReceived i.val 0).count (pcieStop i.val) 1 5 1 none
      | .ca | .crs => s.tlpReceived i.val 0
      | .absent => s
    if r.req.op = .writeNc then s.cplWrite r cpl else s.send (s.cplRead r cpl))

/-- PCIE_LINK_EVENT: the level of source 329 + i (R381). -/
def execPcieLinkEvent (i : Fin 6) (level : Bool) (s : State) : Res := .next (s.wire (329 + i.val) level)

end Sys2Proof.Machine
end

