-- ==== Sys2Proof/Machine/Time.lean ====
section
/-!
DEFINITION. Time: the timer matches of R386, and what a nanosecond does when no command waits (R196, R386, R467).
-/
namespace Sys2Proof.Machine

/-- An interrupt that has become pending and enabled ends a wait (R451). -/
def State.timerWake (s : State) (h : HartId) : State :=
  if (s.hart h).idle ≠ .run ∧ s.wakes h ∧ !s.pow.retention ∧ s.phase = .run then s.wake h else s

/-- MACHINE_TIMER_MATCH: time reaches MS_MTIMECMP. mip.MTIP reads the comparison itself; a hart that waits for it wakes (R386, R451). -/
def execMachineTimerMatch (h : HartId) (s : State) : Res := .next ((s.passTo (s.mtimecmp h).toNat).timerWake h)

/-- The time at which a T-core's stimecmp is reached, or its vstimecmp with htimedelta; the first that is enabled and not reached (Sstc). -/
def State.stimer (s : State) (h : HartId) : Option Nat :=
  let c := s.hart h
  if !(isT h) || !(c.csrBit 0x30A 63) then none else
  let a := (c.csrRaw 0x14D).toNat
  let b := (c.csrRaw 0x24D - c.csrRaw 0x605).toNat
  if c.csrBit 0x60A 63 && decide (s.time < b) && (decide (b < a) || decide (a ≤ s.time)) then some b else some a

/-- SUPERVISOR_TIMER_MATCH: time reaches stimecmp or vstimecmp; mip.STIP and mip.VSTIP read the comparisons (R41, R386). -/
def execSupervisorTimerMatch (h : HartId) (s : State) : Res :=
  .next (match s.stimer h with
  | some t => (s.passTo t).timerWake h
  | none => s)

/-- One nanosecond in which no command waits: the timebase and the mesh clocks count it (R196, R386), and what a budget reduction still asks for is
written back (R467). Other time-driven effects are rows of the table. -/
def State.tick (s : State) : State :=
  let s := s.passTo (s.time + 1)
  if s.brine.cutPend = 0 then s else s.sweep

end Sys2Proof.Machine
end

