-- ==== Sys2Proof/Machine/VecValue.lean ====
section
/-!
DEFINITION. Element results of the vector instructions (R81 to R84): the integer, fixed-point and floating-point operations of the RISC-V vector
extension on elements of `n` bits.
-/
namespace Sys2Proof.Machine

/-- How an operation uses its operands' widths: `d` the old destination element, `a` the vs2 element, `b` the other source. -/
inductive VKind where
  | same                      -- d, a, b of SEW
  | wide                      -- d of 2 SEW
  | wideW                     -- d and a of 2 SEW
  | narrow                    -- a of 2 SEW
  | ext (f : Nat)             -- a of SEW / f
  | cmp                       -- one mask bit
  | carry | carryMask         -- v0 is the carry; the second writes a mask
  | merge
  | slide | gather | compress
  | red | redWide
  | maskLog | maskScan
  | scalar                    -- moves between element 0 and a scalar register, and whole registers
  | fsame | fwide | fwideW | fcmp | fred | fredWide | fmerge
  | fwcvt | fncvt             -- conversions from SEW to 2 SEW and from 2 SEW to SEW
  deriving DecidableEq, Repr

def vKind : VArith → VKind
  | .waddu | .wadd | .wsubu | .wsub | .wmulu | .wmul | .wmulsu | .wmaccu | .wmacc | .wmaccsu | .wmaccus => .wide
  | .wadduw | .waddw | .wsubuw | .wsubw => .wideW
  | .nsrl | .nsra | .nclipu | .nclip => .narrow
  | .zext2 | .sext2 => .ext 2 | .zext4 | .sext4 => .ext 4 | .zext8 | .sext8 => .ext 8
  | .mseq | .msne | .msltu | .mslt | .msleu | .msle | .msgtu | .msgt => .cmp
  | .adc | .sbc => .carry | .madc | .msbc => .carryMask
  | .merge => .merge
  | .slideup | .slidedown | .slide1up | .slide1down | .fslide1up | .fslide1down => .slide
  | .gather | .gatherei16 => .gather | .compress => .compress
  | .redsum | .redand | .redor | .redxor | .redminu | .redmin | .redmaxu | .redmax => .red
  | .wredsumu | .wredsum => .redWide
  | .mand | .mnand | .mandn | .mxor | .mor | .mnor | .morn | .mxnor => .maskLog
  | .cpop | .first | .msbf | .msif | .msof | .iota | .id => .maskScan
  | .mvxs | .mvsx | .mvfs | .mvsf | .mvnr _ => .scalar
  | .fwadd | .fwsub | .fwmul | .fwmacc | .fwnmacc | .fwmsac | .fwnmsac => .fwide
  | .fwaddw | .fwsubw => .fwideW
  | .mfeq | .mfne | .mflt | .mfle | .mfgt | .mfge => .fcmp
  | .fredosum | .fredusum | .fredmin | .fredmax => .fred
  | .fwredosum | .fwredusum => .fredWide
  | .fmerge => .fmerge
  | .fwcvtff | .fwcvtfxu | .fwcvtfx | .fwcvtxuf | .fwcvtxf | .fwcvtrtzxuf | .fwcvtrtzxf => .fwcvt
  | .fncvtxuf | .fncvtxf | .fncvtfxu | .fncvtfx | .fncvtff | .fncvtrod | .fncvtrtzxuf | .fncvtrtzxf => .fncvt
  | .fadd | .fsub | .frsub | .fmul | .fdiv | .frdiv | .fsqrt | .fmin | .fmax
  | .fmacc | .fnmacc | .fmsac | .fnmsac | .fmadd | .fnmadd | .fmsub | .fnmsub
  | .fsgnj | .fsgnjn | .fsgnjx | .fclass | .fmv
  | .fcvtxuf | .fcvtxf | .fcvtrtzxuf | .fcvtrtzxf | .fcvtfxu | .fcvtfx | .frsqrt7 | .frec7 => .fsame
  | _ => .same

/-- Operations that need the FP unit's state. -/
def vIsFp (op : VArith) : Bool :=
  match vKind op with
  | .fsame | .fwide | .fwideW | .fcmp | .fred | .fredWide | .fmerge | .fwcvt | .fncvt => true
  | _ => match op with | .mvfs | .mvsf | .fslide1up | .fslide1down => true | _ => false

/-- Instructions that exist at vstart = 0 only. -/
def vNeedsStart0 (op : VArith) : Bool :=
  match vKind op with
  | .red | .redWide | .fred | .fredWide | .compress => true
  | .maskScan => op != .id
  | _ => false

/-! ### Integers and fixed point -/

def sgn (n v : Nat) : Int := if v < 2 ^ (n - 1) then (v : Int) else (v : Int) - 2 ^ n
def wrapN (n : Nat) (i : Int) : Nat := (i % 2 ^ n).toNat

/-- Rounding shift right by `sh` under vxrm: 0 nearest-up, 1 nearest-even, 2 down, 3 to odd. -/
def vxRound (rm : Nat) (v : Int) (sh : Nat) : Int :=
  if sh = 0 then v else
  let q := v / 2 ^ sh
  let r := (v % 2 ^ sh).toNat
  let half := r.testBit (sh - 1)
  let low := decide (r % 2 ^ (sh - 1) ≠ 0)
  let odd := q % 2 = 1
  match rm with
  | 0 => if half then q + 1 else q
  | 1 => if half && (low || odd) then q + 1 else q
  | 2 => q
  | _ => if !odd && (half || low) then q + 1 else q

/-- Saturation to `n` bits: the value, and whether it saturated. -/
def satU (n : Nat) (v : Int) : Nat × Bool := if v < 0 then (0, true) else if 2 ^ n ≤ v then (2 ^ n - 1, true) else (v.toNat, false)
def satS (n : Nat) (v : Int) : Nat × Bool :=
  if v < -2 ^ (n - 1) then (2 ^ (n - 1), true) else if 2 ^ (n - 1) ≤ v then (2 ^ (n - 1) - 1, true) else (wrapN n v, false)

/-- Result of an operation whose operands and result have `n` bits, and whether it saturated. -/
def vSame (op : VArith) (n rm a b d : Nat) : Nat × Bool :=
  let sa := sgn n a
  let sb := sgn n b
  let sd := sgn n d
  let sh := b % n
  let ok (v : Int) : Nat × Bool := (wrapN n v, false)
  match op with
  | .add => ok (a + b) | .sub => ok (sa - sb) | .rsub => ok (sb - sa)
  | .and => ok (a &&& b : Nat) | .or => ok (a ||| b : Nat) | .xor => ok (a ^^^ b : Nat)
  | .sll => ok (a <<< sh : Nat) | .srl => ok (a >>> sh : Nat) | .sra => ok (sa / 2 ^ sh)
  | .minu => ok (min a b : Nat) | .min => ok (min sa sb) | .maxu => ok (max a b : Nat) | .max => ok (max sa sb)
  | .mul => ok (sa * sb) | .mulh => ok (sa * sb / 2 ^ n) | .mulhu => ok (a * b / 2 ^ n : Nat) | .mulhsu => ok (sa * b / 2 ^ n)
  | .macc => ok (sd + sa * sb) | .nmsac => ok (sd - sa * sb) | .madd => ok (sd * sb + sa) | .nmsub => ok (sa - sd * sb)
  | .divu => ok (divU n a b : Nat) | .div => ok (divS sa sb) | .remu => ok (remU a b : Nat) | .rem => ok (remS sa sb)
  | .mv => (b, false)
  | .saddu => satU n (a + b) | .sadd => satS n (sa + sb) | .ssubu => satU n ((a : Int) - b) | .ssub => satS n (sa - sb)
  | .aaddu => ok (vxRound rm (a + b) 1) | .aadd => ok (vxRound rm (sa + sb) 1)
  | .asubu => ok (vxRound rm ((a : Int) - b) 1) | .asub => ok (vxRound rm (sa - sb) 1)
  | .smul => satS n (vxRound rm (sa * sb) (n - 1))
  | .ssrl => ok (vxRound rm a sh) | .ssra => ok (vxRound rm sa sh)
  | _ => (d, false)

/-- Result of 2n bits from n-bit sources; in the W forms `a` has 2n bits. -/
def vWide (op : VArith) (n a b d : Nat) : Nat :=
  let sa := sgn n a
  let sb := sgn n b
  let w (v : Int) : Nat := wrapN (2 * n) v
  match op with
  | .waddu => w (a + b) | .wadd => w (sa + sb) | .wsubu => w ((a : Int) - b) | .wsub => w (sa - sb)
  | .wadduw => w (a + b) | .waddw => w (a + sb) | .wsubuw => w ((a : Int) - b) | .wsubw => w (a - sb)
  | .wmulu => w (a * b) | .wmul => w (sa * sb) | .wmulsu => w (sa * b)
  | .wmaccu => w (d + a * b) | .wmacc => w (d + sa * sb) | .wmaccsu => w (d + sb * a) | .wmaccus => w (d + b * sa)
  | _ => d

/-- Result of n bits from a 2n-bit vs2 element. -/
def vNarrow (op : VArith) (n rm a b : Nat) : Nat × Bool :=
  let sh := b % (2 * n)
  let sa := sgn (2 * n) a
  match op with
  | .nsrl => (a >>> sh % 2 ^ n, false)
  | .nsra => (wrapN n (sa / 2 ^ sh), false)
  | .nclipu => satU n (vxRound rm a sh)
  | _ => satS n (vxRound rm sa sh)

def vExt (op : VArith) (n f a : Nat) : Nat := match op with | .zext2 | .zext4 | .zext8 => a | _ => wrapN n (sgn (n / f) a)

def vCmp (op : VArith) (n a b : Nat) : Bool :=
  let sa := sgn n a
  let sb := sgn n b
  match op with
  | .mseq => a == b | .msne => a != b | .msltu => decide (a < b) | .mslt => decide (sa < sb) | .msleu => decide (a ≤ b)
  | .msle => decide (sa ≤ sb) | .msgtu => decide (b < a) | _ => decide (sb < sa)

/-- Sum or difference with a carry or borrow: value and carry out. -/
def vCarry (op : VArith) (n a b : Nat) (ci : Bool) : Nat × Bool :=
  match op with
  | .adc | .madc => (wrapN n (a + b + b2n ci), decide (2 ^ n ≤ a + b + b2n ci))
  | _ => (wrapN n ((a : Int) - b - b2n ci), decide (a < b + b2n ci))

/-- One step of an integer reduction. -/
def vRed (op : VArith) (n acc x : Nat) : Nat :=
  match op with
  | .redsum => wrapN n (acc + x) | .redand => acc &&& x | .redor => acc ||| x | .redxor => acc ^^^ x
  | .redminu => min acc x | .redmaxu => max acc x
  | .redmin => wrapN n (min (sgn n acc) (sgn n x)) | .redmax => wrapN n (max (sgn n acc) (sgn n x))
  | .wredsumu => wrapN (2 * n) (acc + x) | .wredsum => wrapN (2 * n) (acc + sgn n x)
  | _ => acc

/-- Mask logic: `a` from vs2, `b` from vs1. -/
def vMaskLog (op : VArith) (a b : Bool) : Bool :=
  match op with
  | .mand => a && b | .mnand => !(a && b) | .mandn => a && !b | .mxor => a != b | .mor => a || b | .mnor => !(a || b)
  | .morn => a || !b | _ => a == b

/-! ### Floating point -/

def vFmt (n : Nat) : Fmt := fmtBytes (n / 8)

/-- The 7-bit estimate of 1/sqrt: index is the low exponent bit and six fraction bits. -/
def rsqrtTable : List Nat :=
  [52, 51, 50, 48, 47, 46, 44, 43, 42, 41, 40, 39, 38, 36, 35, 34, 33, 32, 31, 30, 30, 29, 28, 27, 26, 25, 24, 23, 23, 22, 21, 20] ++
  [19, 19, 18, 17, 16, 16, 15, 14, 14, 13, 12, 12, 11, 10, 10, 9, 9, 8, 7, 7, 6, 6, 5, 4, 4, 3, 3, 2, 2, 1, 1, 0] ++
  [127, 125, 123, 121, 119, 118, 116, 114, 113, 111, 109, 108, 106, 105, 103, 102, 100, 99, 97, 96, 95, 93, 92, 91, 90, 88, 87, 86, 85, 84, 83, 82] ++
  [80, 79, 78, 77, 76, 75, 74, 73, 72, 71, 70, 70, 69, 68, 67, 66, 65, 64, 63, 63, 62, 61, 60, 59, 59, 58, 57, 56, 56, 55, 54, 53]

/-- The 7-bit estimate of 1/x for fraction index `i`: the nearest to the reciprocal of the interval's middle. -/
def recEntry (i : Nat) : Nat := (256 * (255 - 2 * i) + (257 + 2 * i)) / (2 * (257 + 2 * i))

/-- Exponent field and fraction of a number, a subnormal normalized with an exponent at or below 0. -/
def normParts (k : Fmt) (v : Nat) : Int × Nat :=
  let e := v / 2 ^ k.f % 2 ^ k.e
  let f := v % 2 ^ k.f
  if e ≠ 0 then (e, f) else
  let z := k.f - (Nat.log2 f + 1)
  (-(z : Int), f * 2 ^ (z + 1) % 2 ^ k.f)

/-- vfrsqrt7.v. -/
def fpRsqrt7 (k : Fmt) (v : Nat) : Nat × FFlags :=
  let neg := v.testBit (k.w - 1)
  match k.decode v with
  | .nan s => (k.qnan, if s then fNV else 0)
  | .inf n => if n then (k.qnan, fNV) else (0, 0)
  | .fin _ 0 _ => (k.infBits neg, fDZ)
  | .fin _ _ _ =>
    if neg then (k.qnan, fNV) else
    let (e, f) := normParts k v
    let i := (e % 2).toNat * 64 + f / 2 ^ (k.f - 6)
    let ox := (3 * k.bias - 1 - e) / 2
    (ox.toNat * 2 ^ k.f + rsqrtTable.getD i 0 * 2 ^ (k.f - 7), 0)

/-- vfrec7.v: 7 bits of the reciprocal; an input too small gives infinity or the largest number by the rounding mode. -/
def fpRec7 (k : Fmt) (rm v : Nat) : Nat × FFlags :=
  let neg := v.testBit (k.w - 1)
  let sb := b2n neg * 2 ^ (k.w - 1)
  match k.decode v with
  | .nan s => (k.qnan, if s then fNV else 0)
  | .inf n => (k.zeroBits n, 0)
  | .fin _ 0 _ => (k.infBits neg, fDZ)
  | .fin _ _ _ =>
    let (e, f) := normParts k v
    if e < -1 then
      (if rm = 1 || (rm = 2 && !neg) || (rm = 3 && neg) then k.infBits neg - 1 else k.infBits neg, fOF ||| fNX)
    else
      let ox := 2 * k.bias - 1 - e
      let fr := recEntry (f / 2 ^ (k.f - 7)) * 2 ^ (k.f - 7)
      if 0 < ox then (sb + ox.toNat * 2 ^ k.f + fr, 0)
      else
        let full := 2 ^ k.f + fr
        (sb + (if ox = 0 then full / 2 else full / 4), 0)

/-- Result of a floating-point operation on elements of `n` bits; `d` is the old destination. -/
def vFsame (op : VArith) (n rm a b d : Nat) : Nat × FFlags :=
  let k := vFmt n
  let va := k.decode a
  let vb := k.decode b
  let vd := k.decode d
  match op with
  | .fadd => fpAdd k rm va vb | .fsub => fpAdd k rm va vb.neg | .frsub => fpAdd k rm vb va.neg
  | .fmul => fpMul k rm va vb | .fdiv => fpDiv k rm va vb | .frdiv => fpDiv k rm vb va | .fsqrt => fpSqrt k rm va
  | .fmin => fpMinMax k false a b | .fmax => fpMinMax k true a b
  | .fmacc => fpFma k rm vb va vd | .fnmacc => fpFma k rm vb.neg va vd.neg
  | .fmsac => fpFma k rm vb va vd.neg | .fnmsac => fpFma k rm vb.neg va vd
  | .fmadd => fpFma k rm vb vd va | .fnmadd => fpFma k rm vb.neg vd va.neg
  | .fmsub => fpFma k rm vb vd va.neg | .fnmsub => fpFma k rm vb.neg vd va
  | .fsgnj => (fpSgnj k 0 a b, 0) | .fsgnjn => (fpSgnj k 1 a b, 0) | .fsgnjx => (fpSgnj k 2 a b, 0)
  | .fclass => (fpClass k a, 0)
  | .fmv => (b, 0)
  | .fcvtxuf => let (r, f) := fpToInt rm n false va; (wrapN n r, f)
  | .fcvtxf => let (r, f) := fpToInt rm n true va; (wrapN n r, f)
  | .fcvtrtzxuf => let (r, f) := fpToInt 1 n false va; (wrapN n r, f)
  | .fcvtrtzxf => let (r, f) := fpToInt 1 n true va; (wrapN n r, f)
  | .fcvtfxu => fpFromInt k rm a
  | .fcvtfx => fpFromInt k rm (sgn n a)
  | .frsqrt7 => fpRsqrt7 k a
  | .frec7 => fpRec7 k rm a
  | _ => (d, 0)

/-- Result of 2n bits; in the W forms `a` is a number of 2n bits already. -/
def vFwide (op : VArith) (n rm a b d : Nat) : Nat × FFlags :=
  let k := vFmt n
  let w := vFmt (2 * n)
  let va := k.decode a
  let vb := k.decode b
  let wa := w.decode a
  let vd := w.decode d
  match op with
  | .fwadd => fpAdd w rm va vb | .fwsub => fpAdd w rm va vb.neg | .fwmul => fpMul w rm va vb
  | .fwaddw => fpAdd w rm wa vb | .fwsubw => fpAdd w rm wa vb.neg
  | .fwmacc => fpFma w rm vb va vd | .fwnmacc => fpFma w rm vb.neg va vd.neg
  | .fwmsac => fpFma w rm vb va vd.neg | .fwnmsac => fpFma w rm vb.neg va vd
  | _ => (d, 0)

def vFcmp (op : VArith) (n a b : Nat) : Bool × FFlags :=
  let k := vFmt n
  let va := k.decode a
  let vb := k.decode b
  match op with
  | .mfeq => fpEq va vb
  | .mfne => let (r, f) := fpEq va vb; (!r, f)
  | .mflt => fpLt va vb | .mfle => fpLe va vb | .mfgt => fpLt vb va | _ => fpLe vb va

/-- Conversions to 2n bits. -/
def vFwcvt (op : VArith) (n rm a : Nat) : Nat × FFlags :=
  let k := vFmt n
  let w := vFmt (2 * n)
  match op with
  | .fwcvtff => fpConv w rm (k.decode a)
  | .fwcvtfxu => fpFromInt w rm a
  | .fwcvtfx => fpFromInt w rm (sgn n a)
  | .fwcvtxuf => let (r, f) := fpToInt rm (2 * n) false (k.decode a); (wrapN (2 * n) r, f)
  | .fwcvtrtzxuf => let (r, f) := fpToInt 1 (2 * n) false (k.decode a); (wrapN (2 * n) r, f)
  | .fwcvtrtzxf => let (r, f) := fpToInt 1 (2 * n) true (k.decode a); (wrapN (2 * n) r, f)
  | _ => let (r, f) := fpToInt rm (2 * n) true (k.decode a); (wrapN (2 * n) r, f)

/-- Conversions from 2n bits. -/
def vFncvt (op : VArith) (n rm a : Nat) : Nat × FFlags :=
  let k := vFmt n
  let w := vFmt (2 * n)
  match op with
  | .fncvtff => fpConv k rm (w.decode a)
  | .fncvtrod => fpConv k 5 (w.decode a)
  | .fncvtfxu => fpFromInt k rm a
  | .fncvtfx => fpFromInt k rm (sgn (2 * n) a)
  | .fncvtxuf => let (r, f) := fpToInt rm n false (w.decode a); (wrapN n r, f)
  | .fncvtrtzxuf => let (r, f) := fpToInt 1 n false (w.decode a); (wrapN n r, f)
  | .fncvtrtzxf => let (r, f) := fpToInt 1 n true (w.decode a); (wrapN n r, f)
  | _ => let (r, f) := fpToInt rm n true (w.decode a); (wrapN n r, f)

/-- One step of a floating-point reduction; sums are taken in element order. -/
def vFred (op : VArith) (n rm acc x : Nat) : Nat × FFlags :=
  let k := vFmt n
  match op with
  | .fredosum | .fredusum => fpAdd k rm (k.decode acc) (k.decode x)
  | .fredmin => fpMinMax k false acc x
  | .fredmax => fpMinMax k true acc x
  | _ => let w := vFmt (2 * n); fpAdd w rm (w.decode acc) (k.decode x)

end Sys2Proof.Machine
end

