-- ==== Sys2Proof/Machine/Vector.lean ====
section
/-!
DEFINITION. Vector configuration, arithmetic and memory access on the T-core (R41, R81 to R87): VLEN 256, ELEN 64. Register grouping and the
reserved encodings are those of the RISC-V vector extension (log entry 9).
-/
namespace Sys2Proof.Machine

/-! ### vtype (VECTOR_CONFIG) -/

/-- The vector unit exists on the T-core and needs VS on, in the guest too (R41). -/
def Hart.vecLegal (t : Bool) (c : Hart) : CsrAccess :=
  if !t || fld (c.csrRaw 0x300) 10 9 == 0 || (modeVirt c.mode && fld (c.csrRaw 0x200) 10 9 == 0) then .illegal else .ok

/-- SEW in bits, and 8 times LMUL. -/
def vSew (vt : Word) : Nat := 8 * 2 ^ fld vt 5 3
def lmul8 (vt : Word) : Nat := match fld vt 2 0 with | 0 => 8 | 1 => 16 | 2 => 32 | 3 => 64 | 5 => 1 | 6 => 2 | 7 => 4 | _ => 0
/-- A supported vtype: no reserved bit, SEW up to 64 and at most LMUL * ELEN. -/
def vtypeOk (vt : Word) : Bool := decide (vt.toNat < 256) && decide (vSew vt ≤ 64) && decide (vSew vt * 8 ≤ lmul8 vt * 64)
def vlmax (vt : Word) : Nat := lmul8 vt * 32 / vSew vt

/-- The new vl for an AVL: the AVL up to VLMAX, VLMAX from twice VLMAX on, and between them a length that the extension leaves to the part
(log entry 9). -/
def vlFor (avl m : Nat) : Nat :=
  if avl ≤ m then avl else if 2 * m ≤ avl then m else
    let lo := (avl + 1) / 2
    lo + Config.vlPick avl m % (m - lo + 1)

/-- Sets vtype and vl; an unsupported vtype leaves vill = 1 and vl = 0. `avl` is none where vl is kept. -/
def Hart.setVtype (c : Hart) (vt : Word) (avl : Option Nat) : Hart :=
  let vl := match avl with | some a => vlFor a (vlmax vt) | none => (c.csrRaw 0xC20).toNat
  let ok := vtypeOk vt && decide (vl ≤ vlmax vt)
  let c := c.csrPut 0xC21 (if ok then vt else 0x8000_0000_0000_0000)
  ((c.csrPut 0xC20 (if ok then BitVec.ofNat 64 vl else 0)).csrPut 0x008 0).dirtyVs

/-- The AVL of a form with register operands. -/
def Hart.avlOf (c : Hart) (rd rs1 : Fin 32) (vt : Word) : Option Nat :=
  if rs1 ≠ 0 then some (c.getX rs1.val).toNat else if rd ≠ 0 then some (vlmax vt) else none

/-- VECTOR_CONFIG: vsetvli, vsetivli and vsetvl, the last serializing (R41, R78, R81). -/
def execVectorConfig (h : HartId) (i : VCfg) (s : State) : Res :=
  .next (s.onHart h 4 fun s =>
    let c := s.hart h
    s.legally h (c.vecLegal (isT h)) fun s =>
      let (rd, vt, avl, cost) := match i with
        | .vsetvli rd rs1 v => let vt := v.setWidth 64; (rd, vt, c.avlOf rd rs1 vt, 1)
        | .vsetivli rd n v => (rd, v.setWidth 64, some n.toNat, 1)
        | .vsetvl rd rs1 rs2 => let vt := c.getX rs2.val; (rd, vt, c.avlOf rd rs1 vt, 14)
      (s.updHart h fun c => let c := c.setVtype vt avl; c.setX rd.val (c.csrRaw 0xC20)).retire h 4 cost)

/-! ### Register groups -/

/-- Registers of a group with 8 times EMUL = `e8`. -/
def grpRegs (e8 : Nat) : Nat := if e8 ≤ 8 then 1 else e8 / 8
/-- A group that the extension allows: EMUL from 1/8 to 8, the register number a multiple of EMUL. -/
def grpOk (r e8 : Nat) : Bool := decide (1 ≤ e8) && decide (e8 ≤ 64) && r % grpRegs e8 == 0
/-- Whether two groups share a register. -/
def grpMeet (a ra b rb : Nat) : Bool := decide (a < b + rb) && decide (b < a + ra)
/-- Overlap of a destination and a source group of different element widths (8 times EMUL `d8`, `s8`): a narrower destination may only be the lowest
part of the source, a wider one only have it as its highest part. -/
def overlapOk (d d8 r r8 : Nat) : Bool :=
  if !(grpMeet d (grpRegs d8) r (grpRegs r8)) then true
  else if d8 = r8 then true
  else if d8 < r8 then d == r
  else decide (8 ≤ r8) && r + grpRegs r8 == d + grpRegs d8

/-- The vs1 register of a source. -/
def vregOf : VSrc → Option Nat | .v r => some r.val | _ => none

/-! ### Operands -/

/-- Immediates that are unsigned. -/
def vImmU : VArith → Bool
  | .sll | .srl | .sra | .nsrl | .nsra | .nclip | .nclipu | .ssrl | .ssra | .slideup | .slidedown | .gather => true
  | _ => false

/-- A NaN-boxed operand of `n` bits. -/
def unboxN (n : Nat) (v : Word) : Nat :=
  if n = 64 then v.toNat
  else if v.toNat / 2 ^ n = 2 ^ (64 - n) - 1 then v.toNat % 2 ^ n else (vFmt n).qnan

/-- Element `k` of the second operand, `n` bits wide. -/
def Hart.vsrc (c : Hart) (op : VArith) (src : VSrc) (n k : Nat) : Nat :=
  match src with
  | .v r => c.elem r.val (n / 8) k
  | .x r => (c.getX r.val).toNat % 2 ^ n
  | .i v => if vImmU op then v.toNat else (v.signExtend 64).toNat % 2 ^ n
  | .f r => unboxN n (c.getF r.val)

/-- An offset or index operand: all 64 bits of a register. -/
def Hart.vscalar (c : Hart) : VSrc → Nat
  | .x r => (c.getX r.val).toNat
  | .i v => v.toNat
  | .f r => (c.getF r.val).toNat
  | .v _ => 0

/-- Bit `k` of a mask register. -/
def Hart.mbit (c : Hart) (r k : Nat) : Bool := (c.getV r).getLsbD k
def Hart.setMbit (c : Hart) (r k : Nat) (b : Bool) : Hart := c.setV r (putFld (c.getV r) k k (b2n b))

/-- Raises vxsat. -/
def Hart.sat (c : Hart) (b : Bool) : Hart := if b then c.csrPut 0x00F (c.csrRaw 0x00F ||| 1) else c

/-! ### Legality of an arithmetic instruction -/

/-- 8 times EMUL of the destination, vs2 and vs1 for a kind; 0 where the operand is one register of any number. -/
def vEmuls (op : VArith) (sew l8 : Nat) : Nat × Nat × Nat :=
  match vKind op with
  | .wide | .fwide => (2 * l8, l8, l8)
  | .wideW | .fwideW => (2 * l8, 2 * l8, l8)
  | .narrow => (l8, 2 * l8, l8)
  | .fwcvt => (2 * l8, l8, 0)
  | .fncvt => (l8, 2 * l8, 0)
  | .ext f => (l8, l8 / f, 0)
  | .cmp | .fcmp | .carryMask => (0, l8, l8)
  | .red | .redWide | .fred | .fredWide => (0, l8, 0)
  | .maskLog => (0, 0, 0)
  | .maskScan => (match op with | .iota | .id => (l8, 0, 0) | _ => (0, 0, 0))
  | .scalar => (match op with | .mvnr n => (8 * n.val, 8 * n.val, 0) | _ => (0, 0, 0))
  | .gather => (l8, l8, if op == .gatherei16 then l8 * 16 / sew else l8)
  | .compress => (l8, l8, 0)
  | _ => (l8, l8, l8)

/-- Widths that the kind allows. -/
def vSewOk (op : VArith) (sew : Nat) : Bool :=
  match vKind op with
  | .wide | .wideW | .narrow | .redWide => decide (sew ≤ 32)
  | .fwide | .fwideW | .fredWide => decide (16 ≤ sew) && decide (sew ≤ 32)
  | .fwcvt => (match op with | .fwcvtfxu | .fwcvtfx => decide (sew ≤ 32) | _ => decide (16 ≤ sew) && decide (sew ≤ 32))
  | .fncvt => (match op with | .fncvtxuf | .fncvtxf | .fncvtrtzxuf | .fncvtrtzxf => decide (sew ≤ 32) | _ => decide (16 ≤ sew) && decide (sew ≤ 32))
  | .fsame | .fcmp | .fred | .fmerge => decide (16 ≤ sew)
  | .ext f => decide (8 * f ≤ sew)
  | _ => if vIsFp op then decide (16 ≤ sew) else true

/-- Operations whose destination may not meet any source. -/
def vNoOverlap (op : VArith) : Bool :=
  match op with
  | .slideup | .slide1up | .fslide1up | .gather | .gatherei16 | .compress | .msbf | .msif | .msof | .iota => true
  | _ => false

/-- Whether the destination is a scalar register. -/
def vToScalar : VArith → Bool | .cpop | .first | .mvxs | .mvfs => true | _ => false

/-- Whether the encoding is one that the extension defines under the current vtype and vstart. -/
def Hart.vArithOk (c : Hart) (op : VArith) (vd vs2 : Nat) (src : VSrc) (masked : Bool) : Bool :=
  let vt := c.csrRaw 0xC21
  let sew := vSew vt
  let l8 := lmul8 vt
  let (d8, a8, b8) := vEmuls op sew l8
  let grp (r e8 : Nat) : Bool := e8 == 0 || grpOk r e8
  let size (e8 : Nat) : Nat := if e8 = 0 then 8 else e8
  let maskDest := match vKind op with | .cmp | .fcmp | .carryMask | .maskLog => true | _ => false
  let red := match vKind op with | .red | .redWide | .fred | .fredWide => true | _ => false
  let needMask := match vKind op with | .carry | .merge | .fmerge => true | _ => false
  let noMask := match vKind op with | .maskLog | .compress | .scalar => true | _ => op == .mv || op == .fmv
  let lap : Bool :=
    if vToScalar op || red then true
    else if vNoOverlap op then
      (op == .id || !(grpMeet vd (grpRegs (size d8)) vs2 (grpRegs (size a8)))) &&
      (match vregOf src with | some r => !(grpMeet vd (grpRegs (size d8)) r (grpRegs (size b8))) | none => true)
    else if vKind op == .maskLog || vKind op == .scalar then true
    else
      (if maskDest then !(grpMeet vd 1 vs2 (grpRegs (size a8))) || vd == vs2 else overlapOk vd (size d8) vs2 (size a8)) &&
      (match vregOf src with
       | some r => if b8 = 0 then true else if maskDest then !(grpMeet vd 1 r (grpRegs (size b8))) || vd == r else overlapOk vd (size d8) r (size b8)
       | none => true)
  !(vt.getLsbD 63) && vSewOk op sew && (vToScalar op || grp vd d8) && grp vs2 a8 &&
    (match vregOf src with | some r => grp r b8 | none => true) &&
    (match vKind op with | .wide | .wideW | .narrow | .fwide | .fwideW | .fwcvt | .fncvt => decide (2 * l8 ≤ 64) | .ext f => decide (1 ≤ l8 / f) | _ => true) &&
    !(masked && vd == 0 && !maskDest && !red && !(vToScalar op)) && (!needMask || masked) && !(noMask && masked) &&
    !(vNeedsStart0 op && c.csrRaw 0x008 != 0) && lap

/-! ### Elementwise execution -/

/-- Micro-ops of an instruction (R83): m * m for vrgather.vv and vrgather.vx and for vcompress, the only ones that the table gives so. DESIGN CHOICE: vrgatherei16.vv, which
the table does not name, makes m by its row for LMUL (log entry 172). -/
def vUops (op : VArith) (src : VSrc) (l8 : Nat) : Nat :=
  let m := grpRegs l8
  match vKind op with
  | .wide | .wideW | .narrow | .fwide | .fwideW | .fwcvt | .fncvt => grpRegs (2 * l8)
  | .gather => if op == .gatherei16 || (match src with | .i _ => true | _ => false) then m else m * m
  | .compress => m * m
  | .red | .redWide | .fred | .fredWide | .maskLog => 1
  | .scalar => (match op with | .mvnr n => n.val | _ => 1)
  | _ => m

/-- Registers from the first to the last that a destination of 8 times EMUL = `e8` has. -/
def destRegs (vd e8 : Nat) : List Nat := List.range' (64 + vd) (grpRegs (if e8 = 0 then 8 else e8))

/-- Latency of a micro-op of a vector arithmetic instruction (R81); for reductions, 2 more for each source register beyond the first. Mask and scalar moves are of
the simple class (log entry 9). -/
def vLat (op : VArith) (sew l8 : Nat) : Nat :=
  match op with
  | .div | .divu | .rem | .remu => if sew ≤ 16 then 16 else if sew = 32 then 24 else 40
  | .fdiv | .frdiv | .fsqrt => if sew ≤ 32 then 24 else 36
  | .mul | .mulh | .mulhu | .mulhsu | .macc | .nmsac | .madd | .nmsub | .smul | .wmulu | .wmul | .wmulsu | .wmaccu | .wmacc | .wmaccsu | .wmaccus => 4
  | .fmin | .fmax | .fsgnj | .fsgnjn | .fsgnjx | .fclass | .fmv => 2
  | _ =>
    match vKind op with
    | .slide | .gather | .compress => 3
    | .red | .redWide => 6 + 2 * (grpRegs l8 - 1)
    | .fred | .fredWide => 10 + 2 * (grpRegs l8 - 1)
    | .fsame | .fwide | .fwideW | .fwcvt | .fncvt => 4
    | _ => 2

/-- The result of an instruction that works element by element: each active element `k` in [vstart, vl) is written from the registers as they
were before the instruction (R84). `c0` is the hart before the instruction. -/
def Hart.vElem (c0 : Hart) (op : VArith) (vd vs2 : Nat) (src : VSrc) (sew rm vxrm vl max : Nat) (masked : Bool) (c : Hart) (k : Nat) : Hart :=
  let B := sew / 8
  let a := c0.elem vs2 B k
  let a2 := c0.elem vs2 (2 * B) k
  let b := c0.vsrc op src sew k
  let d := c0.elem vd B k
  let d2 := c0.elem vd (2 * B) k
  let m := c0.mbit 0 k
  let putF (w : Nat) (r : Nat × FFlags) : Hart := (c.setElem vd w k r.1).accrue r.2
  match vKind op with
  | .same => let (r, st) := vSame op sew vxrm a b d; (c.setElem vd B k r).sat st
  | .wide => c.setElem vd (2 * B) k (vWide op sew a b d2)
  | .wideW => c.setElem vd (2 * B) k (vWide op sew a2 b d2)
  | .narrow => let (r, st) := vNarrow op sew vxrm a2 b; (c.setElem vd B k r).sat st
  | .ext f => c.setElem vd B k (vExt op sew f (c0.elem vs2 (B / f) k))
  | .cmp => c.setMbit vd k (vCmp op sew a b)
  | .carry => c.setElem vd B k (vCarry op sew a b m).1
  | .carryMask => c.setMbit vd k (vCarry op sew a b (masked && m)).2
  | .merge | .fmerge => c.setElem vd B k (if m then b else a)
  | .slide =>
    let o := c0.vscalar src
    (match op with
    | .slideup => if k < o then c else c.setElem vd B k (c0.elem vs2 B (k - o))
    | .slidedown => c.setElem vd B k (if k + o < max then c0.elem vs2 B (k + o) else 0)
    | .slide1up | .fslide1up => c.setElem vd B k (if k = 0 then b else c0.elem vs2 B (k - 1))
    | _ => c.setElem vd B k (if k + 1 = vl then b else c0.elem vs2 B (k + 1)))
  | .gather =>
    let i := match src with | .v r => c0.elem r.val (if op == .gatherei16 then 2 else B) k | _ => c0.vscalar src
    c.setElem vd B k (if i < max then c0.elem vs2 B i else 0)
  | .maskLog => c.setMbit vd k (vMaskLog op (c0.mbit vs2 k) (match src with | .v r => c0.mbit r.val k | _ => false))
  | .fsame => putF B (vFsame op sew rm a b d)
  | .fwide => putF (2 * B) (vFwide op sew rm a b d2)
  | .fwideW => putF (2 * B) (vFwide op sew rm a2 b d2)
  | .fcmp => let (r, f) := vFcmp op sew a b; (c.setMbit vd k r).accrue f
  | .fwcvt => putF (2 * B) (vFwcvt op sew rm a)
  | .fncvt => putF B (vFncvt op sew rm a2)
  | _ => c

/-- Active elements in [lo, vl). -/
def Hart.vActive (c : Hart) (masked : Bool) (lo vl : Nat) : List Nat :=
  (List.range vl).filter fun k => decide (lo ≤ k) && (!masked || c.mbit 0 k)

/-- Mask scans: cpop, first, msbf, msif, msof, iota and id. -/
def Hart.vScan (c0 : Hart) (op : VArith) (vd vs2 sew vl : Nat) (act : List Nat) : Hart :=
  let set (k : Nat) : Bool := c0.mbit vs2 k
  let first : Option Nat := act.find? set
  match op with
  | .cpop => c0.setX vd (BitVec.ofNat 64 (act.filter set).length)
  | .first => c0.setX vd (match first with | some k => BitVec.ofNat 64 k | none => BitVec.allOnes 64)
  | .iota => act.foldl (fun c k => c.setElem vd (sew / 8) k (((act.filter set).filter fun j => decide (j < k)).length % 2 ^ sew)) c0
  | .id => act.foldl (fun c k => c.setElem vd (sew / 8) k (k % 2 ^ sew)) c0
  | _ =>
    let f := first.getD vl
    act.foldl (fun c k => c.setMbit vd k
      (match op with | .msbf => decide (k < f) | .msif => decide (k ≤ f) | _ => k == f)) c0

/-- A reduction: element 0 of vs1 combined with the active elements of vs2 into element 0 of vd. -/
def Hart.vReduce (c0 : Hart) (op : VArith) (vd vs2 vs1 sew rm : Nat) (act : List Nat) : Hart :=
  let B := sew / 8
  let W := match vKind op with | .redWide | .fredWide => 2 * B | _ => B
  let x0 := c0.elem vs1 W 0
  match vKind op with
  | .red | .redWide => c0.setElem vd W 0 (act.foldl (fun v k => vRed op sew v (c0.elem vs2 B k)) x0)
  | _ =>
    let (r, f) := act.foldl (fun (v, f) k => let (x, g) := vFred op sew rm v (c0.elem vs2 B k); (x, f ||| g)) (x0, (0 : FFlags))
    (c0.setElem vd W 0 r).accrue f

/-- vcompress: the elements of vs2 that vs1 selects, packed from element 0. -/
def Hart.vCompress (c0 : Hart) (vd vs2 vs1 sew vl : Nat) : Hart :=
  let sel := (List.range vl).filter fun k => c0.mbit vs1 k
  (sel.zip (List.range vl)).foldl (fun c (k, j) => c.setElem vd (sew / 8) j (c0.elem vs2 (sew / 8) k)) c0

/-- Moves between element 0 and a scalar register, and whole-register moves. -/
def Hart.vScalarMove (c0 : Hart) (op : VArith) (vd vs2 : Nat) (src : VSrc) (sew lo vl : Nat) : Hart :=
  let B := sew / 8
  match op with
  | .mvxs => c0.setX vd (sext sew (c0.elem vs2 B 0))
  | .mvfs => (c0.setF vd (BitVec.ofNat 64 (2 ^ 64 - 2 ^ sew + c0.elem vs2 B 0))).dirtyFs
  | .mvnr n => ((List.range (n.val * 32 / B)).filter fun k => decide (lo ≤ k)).foldl (fun c k => c.setElem vd B k (c0.elem vs2 B k)) c0
  | _ => if lo < vl then c0.setElem vd B 0 (c0.vsrc op src sew 0) else c0

/-- A legal arithmetic instruction. -/
def Hart.vArith (c : Hart) (op : VArith) (vd vs2 : Nat) (src : VSrc) (masked : Bool) (rm : Nat) : Hart :=
  let vt := c.csrRaw 0xC21
  let sew := vSew vt
  let vl := (c.csrRaw 0xC20).toNat
  let lo := (c.csrRaw 0x008).toNat
  let vs1 := (vregOf src).getD 0
  let act := c.vActive masked lo vl
  let all := c.vActive false lo vl
  let r := match vKind op with
    | .red | .redWide | .fred | .fredWide => if vl = 0 then c else c.vReduce op vd vs2 vs1 sew rm act
    | .compress => c.vCompress vd vs2 vs1 sew vl
    | .maskScan => c.vScan op vd vs2 sew vl act
    | .scalar => if vl = 0 && !(vToScalar op) then c else c.vScalarMove op vd vs2 src sew lo vl
    | .carry | .carryMask | .merge | .fmerge =>
      all.foldl (c.vElem op vd vs2 src sew rm (fld (c.csrRaw 0x00F) 2 1) vl (vlmax vt) masked) c
    | _ => act.foldl (c.vElem op vd vs2 src sew rm (fld (c.csrRaw 0x00F) 2 1) vl (vlmax vt) masked) c
  let r := r.csrPut 0x008 0
  if vToScalar op then r else r.dirtyVs

/-- An arithmetic instruction with its checks. -/
def State.vecArith (s : State) (h : HartId) (op : VArith) (vd vs2 : Nat) (src : VSrc) (masked : Bool) : State :=
  let c := s.hart h
  let fp := vIsFp op || (match src with | .f _ => true | _ => false)
  s.legally h ((c.vecLegal (isT h)).also (if fp then c.fpLegal (isT h) else .ok)) fun s =>
    match if fp then c.roundMode 7 else some 0 with
    | none => s.illegal h false
    | some rm =>
      if !(c.vArithOk op vd vs2 src masked) then s.illegal h false else
      let l8 := lmul8 (c.csrRaw 0xC21)
      let sew := vSew (c.csrRaw 0xC21)
      let dest := if op == .mvfs then [32 + vd] else if vToScalar op then [vd] else destRegs vd (vEmuls op sew l8).1
      ((s.updHart h fun c => (c.vArith op vd vs2 src masked rm).busyAll dest (vLat op sew l8)).event h 0x17 (vUops op src l8)).retire h 4 1

/-! ### Memory (R85 to R87) -/

/-- The shape of a vector access: bytes of an element, number of elements, fields, 8 times EMUL of the data, and the width in bytes and 8 times EMUL
of an index. -/
structure VShape where
  n : Nat
  evl : Nat
  nf : Nat
  d8 : Nat
  ix : Nat
  x8 : Nat
  deriving DecidableEq, Repr

/-- The shape of an access, or none where the encoding is reserved or vtype is not valid for it. With vl = 0 no load changes a vector register, a whole-register one
included (R84). -/
def Hart.vShape (c : Hart) (ad : VAddr) (eew nf : Nat) (vd : Nat) (masked store : Bool) : Option VShape :=
  let vt := c.csrRaw 0xC21
  let vl := (c.csrRaw 0xC20).toNat
  let l8 := lmul8 vt
  let sb := vSew vt / 8
  let x8 := l8 * eew / sb
  let ok (v : VShape) : Option VShape :=
    let regs := grpRegs v.d8
    if !(vt.getLsbD 63) && grpOk vd v.d8 && decide (1 ≤ nf) && decide (nf * regs ≤ 8) && decide (vd + nf * regs ≤ 32) &&
      !(masked && vd == 0 && !store) then some v else none
  match ad with
  | .whole n =>
    if ([1, 2, 4, 8].contains n.val) && vd % n.val == 0 && !masked then some { n := eew, evl := if vl = 0 && !store then 0 else n.val * 32 / eew, nf := 1, d8 := 8 * n.val, ix := 0, x8 := 8 }
    else none
  | .mask => if !(vt.getLsbD 63) && !masked then some { n := 1, evl := (vl + 7) / 8, nf := 1, d8 := 8, ix := 0, x8 := 8 } else none
  | .indexed vs2 =>
    (match ok { n := sb, evl := vl, nf := nf, d8 := l8, ix := eew, x8 := x8 } with
    | some v =>
      let meet := grpMeet vd (nf * grpRegs l8) vs2.val (grpRegs x8)
      if grpOk vs2.val x8 && (store || (if nf = 1 then overlapOk vd l8 vs2.val x8 else !meet)) then some v else none
    | none => none)
  | .faultFirst => if store then none else ok { n := eew, evl := vl, nf := nf, d8 := x8, ix := 0, x8 := 8 }
  | _ => ok { n := eew, evl := vl, nf := nf, d8 := x8, ix := 0, x8 := 8 }

/-- Address of element `k`. -/
def Hart.vAddr (c : Hart) (ad : VAddr) (v : VShape) (base : Word) (k : Nat) : Word :=
  match ad with
  | .strided rs2 => base + BitVec.ofNat 64 k * c.getX rs2.val
  | .indexed vs2 => base + BitVec.ofNat 64 (c.elem vs2.val v.ix k)
  | _ => base + BitVec.ofNat 64 (k * v.nf * v.n)

/-- Checks the fields of an element, each an access of its own. -/
def State.prepFields (s : State) (h : HartId) (acc : Acc) (va : Word) (n : Nat) : Nat → Nat → Prep
  | _, 0 => .parts []
  | f, m + 1 =>
    match s.addrTrig h (if acc == .store then 1 else 0) (va + BitVec.ofNat 64 (f * n)) with
    | some t => .trap t
    | none =>
    match s.prep h .no acc (va + BitVec.ofNat 64 (f * n)) n n with
    | .parts l =>
      (match s.prepFields h acc va n (f + 1) m with
      | .parts l' => .parts ((l.map fun p => { p with off := p.off + f * n }) ++ l')
      | r => r)
    | r => r

/-- The fields of element `k` in the registers of the destination or source groups. -/
def Hart.putFields (c : Hart) (vd : Nat) (v : VShape) (k val : Nat) : Hart :=
  (List.range v.nf).foldl (fun c f => c.setElem (vd + f * grpRegs v.d8) v.n k (val / 2 ^ (8 * v.n * f) % 2 ^ (8 * v.n))) c
def Hart.getFields (c : Hart) (vd : Nat) (v : VShape) (k : Nat) : Nat :=
  ((List.range v.nf).map fun f => c.elem (vd + f * grpRegs v.d8) v.n k * 2 ^ (8 * v.n * f)).sum

/-- Sets vstart. -/
def Hart.atElem (c : Hart) (k : Nat) : Hart := (c.csrPut 0x008 (BitVec.ofNat 64 k)).dirtyVs

/-- Micro-ops of a vector access (R83, R85). -/
def vmemUops (ad : VAddr) (v : VShape) : Nat :=
  match ad with
  | .strided _ | .indexed _ => v.evl * v.nf
  | _ => if v.nf = 1 then grpRegs v.d8 else v.evl * v.nf

/-- The access is complete: vstart becomes 0. -/
def State.vmemDone (s : State) (h : HartId) (ad : VAddr) (v : VShape) (code : Nat) : State :=
  (((s.updHart h fun c => c.atElem 0).event h 0x17 (vmemUops ad v)).event h code 1).retire h 4 1

/-- Element `k` of a load faults: it traps with vstart = k, or a fault-only-first load ends with vl = k (R86). -/
def State.vloadFault (s : State) (h : HartId) (ad : VAddr) (v : VShape) (k : Nat) (t : Trap) : State :=
  if ad == .faultFirst && k != 0 then (s.updHart h fun c => c.csrPut 0xC20 (BitVec.ofNat 64 k)).vmemDone h ad v 0x06
  else (s.updHart h fun c => c.atElem k).trap h t

/-- What a run of elements comes to: all are done, or the instruction has ended or waits. -/
inductive VStep where
  | go (s : State)
  | stop (s : State)
  deriving DecidableEq, Repr

/-- The instruction waits with its registers as they were before this command. -/
def State.vBack (s : State) (h : HartId) (c0 : Hart) : State := s.updHart h fun c => { c with v := c0.v }

/-- Loads elements one by one. `c0` holds the registers from before the command: addresses, masks and indexes come from it. -/
def State.vloadElems (s : State) (h : HartId) (c0 : Hart) (ad : VAddr) (v : VShape) (vd : Nat) (base : Word) : List Nat → VStep
  | [] => .go s
  | k :: t =>
    let va := c0.vAddr ad v base k
    match s.prepFields h .load va v.n 0 v.nf with
    | .trap tr => .stop (s.vloadFault h ad v k tr)
    | .walk w => .stop ((s.tlbMiss h w).vBack h c0)
    | .parts ps =>
      if ps.any fun p => p.tgt.region.uncached then
        .stop ((s.updHart h fun c => c.atElem k).startRead h (.velem vd k v.n v.nf (grpRegs v.d8) (ad == .faultFirst)) 4 ps)
      else
        match s.readParts h false ps with
        | .wait s => .stop (s.vBack h c0)
        | .poison s' => .stop ((s'.poisonUsed h ((ps.map (·.pa)).headD 0) 0).vloadFault h ad v k (excep 5 va))
        | .tcmError s' => .stop (s'.vloadFault h ad v k (excep 5 va))
        | .value x s => State.vloadElems (s.updHart h fun c => c.putFields vd v k x) h c0 ad v vd base t

/-- Checks elements in order up to one that faults or needs a walk. -/
def State.vprep (s : State) (h : HartId) (acc : Acc) (c0 : Hart) (ad : VAddr) (v : VShape) (base : Word) : List Nat → List (Nat × List Part) × Option (Nat × Prep)
  | [] => ([], none)
  | k :: t =>
    match s.prepFields h acc (c0.vAddr ad v base k) v.n 0 v.nf with
    | .parts ps => let (l, e) := s.vprep h acc c0 ad v base t; ((k, ps) :: l, e)
    | r => ([], some (k, r))

/-- Whether an access has one micro-op for each register: unit stride, whole registers, mask and fault-only-first, without segments (R85). -/
def vUnit (ad : VAddr) (v : VShape) : Bool := v.nf == 1 && (match ad with | .unit | .whole _ | .mask | .faultFirst => true | _ => false)

/-- The elements of a load or store by micro-op: those of one register together, or each alone (R85). -/
def vGroups (ad : VAddr) (v : VShape) (ks : List Nat) : List (List Nat) :=
  if vUnit ad v then ks.splitBy fun a b => a * v.n / 32 == b * v.n / 32 else ks.map fun k => [k]

/-- Loads one micro-op: one load of all its elements, which the store buffer serves whole or not at all (R93). Where an element faults, waits for a walk or is not
in cacheable memory, its elements go one by one (R86, R87). -/
def State.vloadGroup (s : State) (h : HartId) (c0 : Hart) (ad : VAddr) (v : VShape) (vd : Nat) (base : Word) (ks : List Nat) : VStep :=
  let each : VStep := s.vloadElems h c0 ad v vd base ks
  let w := v.n * v.nf
  match s.vprep h .load c0 ad v base ks with
  | (l, none) =>
    let ps := (l.zip (List.range l.length)).flatMap fun ((_, ps), i) => ps.map fun p => { p with off := p.off + i * w }
    if ps.any fun p => p.tgt.region.uncached then each else
    let lat := s.loadLat h ps false true
    (match s.readParts h false ps with
    | .wait s => .stop (s.vBack h c0)
    | .value x s =>
      .go (s.updHart h fun c =>
        let c := (l.zip (List.range l.length)).foldl (fun c ((k, _), i) => c.putFields vd v k (x / 2 ^ (8 * w * i) % 2 ^ (8 * w))) c
        ((l.map fun (k, _) => 64 + vd + k * v.n / 32).dedup).foldl (fun c r => c.busy r lat) c)
    | _ => each)
  | _ => each

/-- Loads the micro-ops in order. -/
def State.vloadLoop (s : State) (h : HartId) (c0 : Hart) (ad : VAddr) (v : VShape) (vd : Nat) (base : Word) : List (List Nat) → State
  | [] => s.vmemDone h ad v 0x06
  | g :: t => match s.vloadGroup h c0 ad v vd base g with | .go s => s.vloadLoop h c0 ad v vd base t | .stop s => s

/-- Store-buffer entries of checked elements: one for a unit-stride, whole-register or mask micro-op, gaps and page crossings included, and one for each element of
the others (R85, R92); each field of a segment is an element (DESIGN CHOICE; log entry 9). -/
def vEntries (c0 : Hart) (ad : VAddr) (v : VShape) (vd seq : Nat) (l : List (Nat × List Part)) : List SbEntry :=
  if vUnit ad v then
    (l.splitBy fun a b => a.1 * v.n / 32 == b.1 * v.n / 32).map fun g =>
      sbOf (g.flatMap fun (k, ps) => ps.map fun p => { p with off := p.off + k * v.n % 32 }) ((g.map fun (k, _) => c0.getFields vd v k * 2 ^ (8 * (k * v.n % 32))).sum) seq false
  else
    l.flatMap fun (k, ps) => (List.range v.nf).map fun f =>
      sbOf ((ps.filter fun p => p.off / v.n == f).map fun p => { p with off := p.off - f * v.n }) (c0.getFields vd v k / 2 ^ (8 * v.n * f) % 2 ^ (8 * v.n)) seq false

/-- A vector store checks its elements, takes every entry at once or waits whole, and completes or traps with vstart at the element that faults, those below it
stored (R67, R85, R86, R92). -/
def State.vstore (s : State) (h : HartId) (c0 : Hart) (ad : VAddr) (v : VShape) (vd : Nat) (base : Word) (ks : List Nat) : State :=
  match s.vprep h .store c0 ad v base ks with
  | (_, some (_, .walk w)) => s.tlbMiss h w
  | (l, e) =>
    s.enterStores h (vEntries c0 ad v vd (s.hart h).seq l) fun s =>
      match e with
      | some (k, .trap tr) => (s.updHart h fun c => c.atElem k).trap h tr
      | _ => s.vmemDone h ad v 0x07

/-- A vector memory access with its checks. -/
def State.vecMem (s : State) (h : HartId) (store : Bool) (ad : VAddr) (eew : AccSize) (nf : Nat) (vd : Nat) (rs1 : Fin 32) (masked : Bool) : State :=
  let c := s.hart h
  s.legally h (c.vecLegal (isT h)) fun s =>
    match c.vShape ad (accBytes eew) nf vd masked store with
    | none => s.illegal h false
    | some v =>
      let ks := c.vActive masked (c.csrRaw 0x008).toNat v.evl
      let base := c.getX rs1.val
      if store then s.vstore h c ad v vd base ks
      else s.vloadLoop h c ad v vd base (vGroups ad v ks)

/-- VECTOR_INSTRUCTION: arithmetic, loads and stores of the vector unit (R81 to R87). -/
def execVectorInstruction (h : HartId) (i : VInstr) (s : State) : Res :=
  .next (s.onHart h 4 fun s =>
    match i with
    | .arith op vd vs2 src masked => s.vecArith h op vd.val vs2.val src masked
    | .load ad eew nf vd rs1 masked => s.vecMem h false ad eew nf.val vd.val rs1 masked
    | .store ad eew nf vs3 rs1 masked => s.vecMem h true ad eew nf.val vs3.val rs1 masked)

end Sys2Proof.Machine
end

