-- ==== Sys2Proof/Machine/Dispatch.lean ====
section
/-!
DEFINITION. The meaning of every command: one arm per constructor of `Instr`.
-/
namespace Sys2Proof.Machine

def exec (i : Instr) (s : State) : Host.Outcome State Fault Refusal :=
  match i with
  | .registerWrite who a size v => Sys2Proof.Machine.execRegisterWrite who a size v s
  | .pmaCommit who v => Sys2Proof.Machine.execPmaCommit who v s
  | .pmaCommitDone => Sys2Proof.Machine.execPmaCommitDone s
  | .pmaLock who v => Sys2Proof.Machine.execPmaLock who v s
  | .integerInstruction h op rd rs1 src c => Sys2Proof.Machine.execIntegerInstruction h op rd rs1 src c s
  | .fpInstruction h op rd rs1 rs2 rs3 rm => Sys2Proof.Machine.execFpInstruction h op rd rs1 rs2 rs3 rm s
  | .vectorInstruction h v_i => Sys2Proof.Machine.execVectorInstruction h v_i s
  | .vectorConfig h v_i => Sys2Proof.Machine.execVectorConfig h v_i s
  | .load h k virt rd rs1 imm ahead c => Sys2Proof.Machine.execLoad h k virt rd rs1 imm ahead c s
  | .store h k virt rs2 rs1 imm c => Sys2Proof.Machine.execStore h k virt rs2 rs1 imm c s
  | .storeDrain d => Sys2Proof.Machine.execStoreDrain d s
  | .streamEndTimeout h k => Sys2Proof.Machine.execStreamEndTimeout h k s
  | .amo h fn size rd rs2 rs1 => Sys2Proof.Machine.execAmo h fn size rd rs2 rs1 s
  | .lr h size rd rs1 => Sys2Proof.Machine.execLr h size rd rs1 s
  | .sc h size rd rs2 rs1 => Sys2Proof.Machine.execSc h size rd rs2 rs1 s
  | .amocas h bytes rd rs2 rs1 => Sys2Proof.Machine.execAmocas h bytes rd rs2 rs1 s
  | .lrDeferralExpiry h => Sys2Proof.Machine.execLrDeferralExpiry h s
  | .xpld h rd rs1 imm => Sys2Proof.Machine.execXpld h rd rs1 imm s
  | .xpst h rs2 rs1 imm => Sys2Proof.Machine.execXpst h rs2 rs1 imm s
  | .fence h pred succ => Sys2Proof.Machine.execFence h pred succ s
  | .fenceTso h => Sys2Proof.Machine.execFenceTso h s
  | .fenceWaitEnd h => Sys2Proof.Machine.execFenceWaitEnd h s
  | .xfenceP h => Sys2Proof.Machine.execXfenceP h s
  | .fenceI h => Sys2Proof.Machine.execFenceI h s
  | .cboClean h rs1 => Sys2Proof.Machine.execCboClean h rs1 s
  | .cboFlush h rs1 => Sys2Proof.Machine.execCboFlush h rs1 s
  | .cboInval h rs1 => Sys2Proof.Machine.execCboInval h rs1 s
  | .cboZero h rs1 => Sys2Proof.Machine.execCboZero h rs1 s
  | .prefetchHint h k rs1 imm => Sys2Proof.Machine.execPrefetchHint h k rs1 imm s
  | .csrWrite h op csr rd src writes => Sys2Proof.Machine.execCsrWrite h op csr rd src writes s
  | .wfi h => Sys2Proof.Machine.execWfi h s
  | .xret h k => Sys2Proof.Machine.execXret h k s
  | .ecall h => Sys2Proof.Machine.execEcall h s
  | .ebreak h c => Sys2Proof.Machine.execEbreak h c s
  | .pause h => Sys2Proof.Machine.execPause h s
  | .controlTransferResolve h k rd rs1 rs2 imm wrong c => Sys2Proof.Machine.execControlTransferResolve h k rd rs1 rs2 imm wrong c s
  | .exceptionTake h cause tval c => Sys2Proof.Machine.execExceptionTake h cause tval c s
  | .interruptTake h => Sys2Proof.Machine.execInterruptTake h s
  | .mdpClear h => Sys2Proof.Machine.execMdpClear h s
  | .xpredBar1 h => Sys2Proof.Machine.execXpredBar1 h s
  | .xpredBar0 h => Sys2Proof.Machine.execXpredBar0 h s
  | .xpredFlush h => Sys2Proof.Machine.execXpredFlush h s
  | .xwayClean h rs1 => Sys2Proof.Machine.execXwayClean h rs1 s
  | .xwayCinv h rs1 => Sys2Proof.Machine.execXwayCinv h rs1 s
  | .xbrDrain h => Sys2Proof.Machine.execXbrDrain h s
  | .xmouldModeSet h => Sys2Proof.Machine.execXmouldModeSet h s
  | .mouldEntry h => Sys2Proof.Machine.execMouldEntry h s
  | .xmouldModeClear h => Sys2Proof.Machine.execXmouldModeClear h s
  | .scoreTrapEntry h cause tval vectorFault => Sys2Proof.Machine.execScoreTrapEntry h cause tval vectorFault s
  | .lateArrivalTakeover h => Sys2Proof.Machine.execLateArrivalTakeover h s
  | .uncachedTimeout who tag => Sys2Proof.Machine.execUncachedTimeout who tag s
  | .ewaEndpointFailure stop req a sts => Sys2Proof.Machine.execEwaEndpointFailure stop req a sts s
  | .lineRead f => Sys2Proof.Machine.execLineRead f s
  | .lineOwn f => Sys2Proof.Machine.execLineOwn f s
  | .linePromote f => Sys2Proof.Machine.execLinePromote f s
  | .lineClaim f => Sys2Proof.Machine.execLineClaim f s
  | .maskFill f => Sys2Proof.Machine.execMaskFill f s
  | .cleanKeep f => Sys2Proof.Machine.execCleanKeep f s
  | .cleanDrop f => Sys2Proof.Machine.execCleanDrop f s
  | .discardLine f => Sys2Proof.Machine.execDiscardLine f s
  | .prefetchRead f => Sys2Proof.Machine.execPrefetchRead f s
  | .prefetchOwn f => Sys2Proof.Machine.execPrefetchOwn f s
  | .readNc f => Sys2Proof.Machine.execReadNc f s
  | .writeNc f => Sys2Proof.Machine.execWriteNc f s
  | .atomicNc f => Sys2Proof.Machine.execAtomicNc f s
  | .returnDirty f => Sys2Proof.Machine.execReturnDirty f s
  | .returnClean f => Sys2Proof.Machine.execReturnClean f s
  | .probeShare f => Sys2Proof.Machine.execProbeShare f s
  | .probeTake f => Sys2Proof.Machine.execProbeTake f s
  | .probeKill f => Sys2Proof.Machine.execProbeKill f s
  | .probeClean f => Sys2Proof.Machine.execProbeClean f s
  | .dataGrant f => Sys2Proof.Machine.execDataGrant f s
  | .grant f => Sys2Proof.Machine.execGrant f s
  | .probeAck f => Sys2Proof.Machine.execProbeAck f s
  | .probeData f => Sys2Proof.Machine.execProbeData f s
  | .grantAck f => Sys2Proof.Machine.execGrantAck f s
  | .writeDone f => Sys2Proof.Machine.execWriteDone f s
  | .readReturn f => Sys2Proof.Machine.execReadReturn f s
  | .dropped f => Sys2Proof.Machine.execDropped f s
  | .errorReply f => Sys2Proof.Machine.execErrorReply f s
  | .returnAck f => Sys2Proof.Machine.execReturnAck f s
  | .homeTransactionOpen a => Sys2Proof.Machine.execHomeTransactionOpen a s
  | .victimEntryFreed a ok => Sys2Proof.Machine.execVictimEntryFreed a ok s
  | .victimWriteIssue a => Sys2Proof.Machine.execVictimWriteIssue a s
  | .flitRoute stop out err => Sys2Proof.Machine.execFlitRoute stop out err s
  | .creditReturn stop out vc nxt => Sys2Proof.Machine.execCreditReturn stop out vc nxt s
  | .meshWheelReserve n => Sys2Proof.Machine.execMeshWheelReserve n s
  | .meshWheelRelease n => Sys2Proof.Machine.execMeshWheelRelease n s
  | .wheelReleaseSlotsFree rid => Sys2Proof.Machine.execWheelReleaseSlotsFree rid s
  | .meshWheelQuery n => Sys2Proof.Machine.execMeshWheelQuery n s
  | .memRead ch f => Sys2Proof.Machine.execMemRead ch f s
  | .memWrite ch f => Sys2Proof.Machine.execMemWrite ch f s
  | .memWriteMasked ch f => Sys2Proof.Machine.execMemWriteMasked ch f s
  | .channelLineAccess ch => Sys2Proof.Machine.execChannelLineAccess ch s
  | .writePhaseTimeout ch => Sys2Proof.Machine.execWritePhaseTimeout ch s
  | .readBurstReturn ch crcOk flips aerr => Sys2Proof.Machine.execReadBurstReturn ch crcOk flips aerr s
  | .writeCrcResult ch ok => Sys2Proof.Machine.execWriteCrcResult ch ok s
  | .shortRetrainDone ch ok ns => Sys2Proof.Machine.execShortRetrainDone ch ok ns s
  | .rowIdleClose ch bank => Sys2Proof.Machine.execRowIdleClose ch bank s
  | .refreshDue ch bank => Sys2Proof.Machine.execRefreshDue ch bank s
  | .deviceTempRead ch temp => Sys2Proof.Machine.execDeviceTempRead ch temp s
  | .writeTimingCheck ch => Sys2Proof.Machine.execWriteTimingCheck ch s
  | .scrubRead ch => Sys2Proof.Machine.execScrubRead ch s
  | .pageThreshold ch => Sys2Proof.Machine.execPageThreshold ch s
  | .mcInjArm who ch v => Sys2Proof.Machine.execMcInjArm who ch v s
  | .memTrain n ok => Sys2Proof.Machine.execMemTrain n ok s
  | .memChannelStatus n => Sys2Proof.Machine.execMemChannelStatus n s
  | .memScrubSet n => Sys2Proof.Machine.execMemScrubSet n s
  | .memPageRetire n => Sys2Proof.Machine.execMemPageRetire n s
  | .memRetireList n => Sys2Proof.Machine.execMemRetireList n s
  | .walkPteReadDone h k err => Sys2Proof.Machine.execWalkPteReadDone h k err s
  | .adUpdate h k => Sys2Proof.Machine.execAdUpdate h k s
  | .sfenceVma h rs1 rs2 => Sys2Proof.Machine.execSfenceVma h rs1 rs2 s
  | .hfenceVvma h rs1 rs2 => Sys2Proof.Machine.execHfenceVvma h rs1 rs2 s
  | .hfenceGvma h rs1 rs2 => Sys2Proof.Machine.execHfenceGvma h rs1 rs2 s
  | .iommuTranslate e r iova write size => Sys2Proof.Machine.execIommuTranslate e r iova write size s
  | .iotinvalVma e addr gscid pscid => Sys2Proof.Machine.execIotinvalVma e addr gscid pscid s
  | .iotinvalGvma e addr gscid pscid => Sys2Proof.Machine.execIotinvalGvma e addr gscid pscid s
  | .iodirInvalDdt e did => Sys2Proof.Machine.execIodirInvalDdt e did s
  | .iodirInvalPdt e did pid => Sys2Proof.Machine.execIodirInvalPdt e did pid s
  | .iofenceC e av pr pw wsi addr data => Sys2Proof.Machine.execIofenceC e av pr pw wsi addr data s
  | .iofenceCComplete e => Sys2Proof.Machine.execIofenceCComplete e s
  | .linkFrameSend l => Sys2Proof.Machine.execLinkFrameSend l s
  | .dataFrame l seq ack nak bad fixed cvc ccnt pkts => Sys2Proof.Machine.execDataFrame l seq ack nak bad fixed cvc ccnt pkts s
  | .idleFrame l ack nak cvc0 ccnt0 cvc1 ccnt1 => Sys2Proof.Machine.execIdleFrame l ack nak cvc0 ccnt0 cvc1 ccnt1 s
  | .syncFrame l sent peerSent peerArrived => Sys2Proof.Machine.execSyncFrame l sent peerSent peerArrived s
  | .trainFrame l => Sys2Proof.Machine.execTrainFrame l s
  | .helloFrame l pkg nbrLink => Sys2Proof.Machine.execHelloFrame l pkg nbrLink s
  | .syncSend l => Sys2Proof.Machine.execSyncSend l s
  | .frameLockLost l => Sys2Proof.Machine.execFrameLockLost l s
  | .linkRecoveryDone l how => Sys2Proof.Machine.execLinkRecoveryDone l how s
  | .linkDown l => Sys2Proof.Machine.execLinkDown l s
  | .linkRemoveFromGroup l => Sys2Proof.Machine.execLinkRemoveFromGroup l s
  | .linkRetry l trained nbr => Sys2Proof.Machine.execLinkRetry l trained nbr s
  | .fabricBringupTimeout => Sys2Proof.Machine.execFabricBringupTimeout s
  | .rdNc l p => Sys2Proof.Machine.execRdNc l p s
  | .wrNc l p => Sys2Proof.Machine.execWrNc l p s
  | .atomNc l p => Sys2Proof.Machine.execAtomNc l p s
  | .blkRd l p => Sys2Proof.Machine.execBlkRd l p s
  | .blkWr l p => Sys2Proof.Machine.execBlkWr l p s
  | .rdData l p => Sys2Proof.Machine.execRdData l p s
  | .wrAck l p => Sys2Proof.Machine.execWrAck l p s
  | .atomData l p => Sys2Proof.Machine.execAtomData l p s
  | .errResp l p => Sys2Proof.Machine.execErrResp l p s
  | .routeAdv l us => Sys2Proof.Machine.execRouteAdv l us s
  | .routeWithdraw l us => Sys2Proof.Machine.execRouteWithdraw l us s
  | .linkNotice l => Sys2Proof.Machine.execLinkNotice l s
  | .tagEntryTimeout l k => Sys2Proof.Machine.execTagEntryTimeout l k s
  | .glInjArm who l v => Sys2Proof.Machine.execGlInjArm who l v s
  | .fabricRouteQuery n => Sys2Proof.Machine.execFabricRouteQuery n s
  | .fabricLinkStatus n => Sys2Proof.Machine.execFabricLinkStatus n s
  | .fabricLinkDisable n => Sys2Proof.Machine.execFabricLinkDisable n s
  | .fabricLinkDisableDrained l => Sys2Proof.Machine.execFabricLinkDisableDrained l s
  | .fabricLinkEnable n trained nbr => Sys2Proof.Machine.execFabricLinkEnable n trained nbr s
  | .fabricInboundSet n => Sys2Proof.Machine.execFabricInboundSet n s
  | .fabricTimeStatus n => Sys2Proof.Machine.execFabricTimeStatus n s
  | .deCmdStart who c => Sys2Proof.Machine.execDeCmdStart who c s
  | .deCmdAbort who c => Sys2Proof.Machine.execDeCmdAbort who c s
  | .deCmdClear who c => Sys2Proof.Machine.execDeCmdClear who c s
  | .deCmdDropsh who c => Sys2Proof.Machine.execDeCmdDropsh who c s
  | .shCtlValidSet who c v => Sys2Proof.Machine.execShCtlValidSet who c v s
  | .engineIssue e => Sys2Proof.Machine.execEngineIssue e s
  | .channelSetLoad c => Sys2Proof.Machine.execChannelSetLoad c s
  | .descriptorFetchReturn c desc sts timeout => Sys2Proof.Machine.execDescriptorFetchReturn c desc sts timeout s
  | .inCtlReset who v_i => Sys2Proof.Machine.execInCtlReset who v_i s
  | .instanceResetDrainDone v_i => Sys2Proof.Machine.execInstanceResetDrainDone v_i s
  | .inDeniedRead who v_i => Sys2Proof.Machine.execInDeniedRead who v_i s
  | .instanceCreate n => Sys2Proof.Machine.execInstanceCreate n s
  | .instanceDestroy n => Sys2Proof.Machine.execInstanceDestroy n s
  | .instanceReset n => Sys2Proof.Machine.execInstanceReset n s
  | .instanceQuery n => Sys2Proof.Machine.execInstanceQuery n s
  | .wiredInputChange src level => Sys2Proof.Machine.execWiredInputChange src level s
  | .aplicSourcecfgWrite who sdom src v => Sys2Proof.Machine.execAplicSourcecfgWrite who sdom src v s
  | .aplicMsiSend src => Sys2Proof.Machine.execAplicMsiSend src s
  | .imsicSeteipnum h f v => Sys2Proof.Machine.execImsicSeteipnum h f v s
  | .imsicTopeiClaim h f => Sys2Proof.Machine.execImsicTopeiClaim h f s
  | .machineTimerMatch h => Sys2Proof.Machine.execMachineTimerMatch h s
  | .gpioEdge pin level => Sys2Proof.Machine.execGpioEdge pin level s
  | .evswPulse who v => Sys2Proof.Machine.execEvswPulse who v s
  | .tickGeneratorPulse j => Sys2Proof.Machine.execTickGeneratorPulse j s
  | .eventFlit stop line => Sys2Proof.Machine.execEventFlit stop line s
  | .coreCounterWrap h k => Sys2Proof.Machine.execCoreCounterWrap h k s
  | .bankCounterWrap stop b k gain => Sys2Proof.Machine.execBankCounterWrap stop b k gain s
  | .pmBankClr who stop b => Sys2Proof.Machine.execPmBankClr who stop b s
  | .bandwidthWindowEnd stop b => Sys2Proof.Machine.execBandwidthWindowEnd stop b s
  | .pmBwmaxRead who stop b => Sys2Proof.Machine.execPmBwmaxRead who stop b s
  | .ladleEnable who v => Sys2Proof.Machine.execLadleEnable who v s
  | .ladleSnap who => Sys2Proof.Machine.execLadleSnap who s
  | .ladlePeriodTrigger => Sys2Proof.Machine.execLadlePeriodTrigger s
  | .ladleLatch stop => Sys2Proof.Machine.execLadleLatch stop s
  | .ladleSnapshotDone => Sys2Proof.Machine.execLadleSnapshotDone s
  | .mbDoorbell who n v => Sys2Proof.Machine.execMbDoorbell who n v s
  | .mbStatusAck who n => Sys2Proof.Machine.execMbStatusAck who n s
  | .mbCommandComplete n => Sys2Proof.Machine.execMbCommandComplete n s
  | .i3cPrivateTransfer off write data => Sys2Proof.Machine.execI3cPrivateTransfer off write data s
  | .rennetInfo n => Sys2Proof.Machine.execRennetInfo n s
  | .mailboxAssign n => Sys2Proof.Machine.execMailboxAssign n s
  | .noticeRead n => Sys2Proof.Machine.execNoticeRead n s
  | .cacheWaygroupSet n => Sys2Proof.Machine.execCacheWaygroupSet n s
  | .waygroupScanDone o g => Sys2Proof.Machine.execWaygroupScanDone o g s
  | .powerLimitSet n => Sys2Proof.Machine.execPowerLimitSet n s
  | .powerFreqSet n => Sys2Proof.Machine.execPowerFreqSet n s
  | .powerMeshFreqSet n => Sys2Proof.Machine.execPowerMeshFreqSet n s
  | .powerStatus n => Sys2Proof.Machine.execPowerStatus n s
  | .powerDomainSet n => Sys2Proof.Machine.execPowerDomainSet n s
  | .brineStatus n => Sys2Proof.Machine.execBrineStatus n s
  | .brineJournalStore n => Sys2Proof.Machine.execBrineJournalStore n s
  | .brineJournalLoad n => Sys2Proof.Machine.execBrineJournalLoad n s
  | .attestQuote n sig => Sys2Proof.Machine.execAttestQuote n sig s
  | .certChainRead n chain => Sys2Proof.Machine.execCertChainRead n chain s
  | .debugLevelSet n tok => Sys2Proof.Machine.execDebugLevelSet n tok s
  | .fwStage n img => Sys2Proof.Machine.execFwStage n img s
  | .fwCommit n => Sys2Proof.Machine.execFwCommit n s
  | .errorLogRead n => Sys2Proof.Machine.execErrorLogRead n s
  | .rennetAccess t => Sys2Proof.Machine.execRennetAccess t s
  | .rindHeartbeat => Sys2Proof.Machine.execRindHeartbeat s
  | .heartbeatTimeout => Sys2Proof.Machine.execHeartbeatTimeout s
  | .lockstepMismatch => Sys2Proof.Machine.execLockstepMismatch s
  | .rennetRestartDone => Sys2Proof.Machine.execRennetRestartDone s
  | .errorRecordCopy t k => Sys2Proof.Machine.execErrorRecordCopy t k s
  | .esRecordFree who t k => Sys2Proof.Machine.execEsRecordFree who t k s
  | .coreFatalError h cause bad => Sys2Proof.Machine.execCoreFatalError h cause bad s
  | .pkgFatalError sl cause => Sys2Proof.Machine.execPkgFatalError sl cause s
  | .idleC2Entry h => Sys2Proof.Machine.execIdleC2Entry h s
  | .idleC3Entry h => Sys2Proof.Machine.execIdleC3Entry h s
  | .powerDomainOff h => Sys2Proof.Machine.execPowerDomainOff h s
  | .hartWake h => Sys2Proof.Machine.execHartWake h s
  | .packageRetentionEntry => Sys2Proof.Machine.execPackageRetentionEntry s
  | .packageRetentionExit why => Sys2Proof.Machine.execPackageRetentionExit why s
  | .powerSample slow fast => Sys2Proof.Machine.execPowerSample slow fast s
  | .thermalSample t hottest => Sys2Proof.Machine.execThermalSample t hottest s
  | .holdupEnergyRead mj => Sys2Proof.Machine.execHoldupEnergyRead mj s
  | .holdupReadingStale => Sys2Proof.Machine.execHoldupReadingStale s
  | .tokenRefill agent => Sys2Proof.Machine.execTokenRefill agent s
  | .pfailNFall => Sys2Proof.Machine.execPfailNFall s
  | .powerFailFlush => Sys2Proof.Machine.execPowerFailFlush s
  | .lifeLedgerSample t => Sys2Proof.Machine.execLifeLedgerSample t s
  | .lifeLedgerSave => Sys2Proof.Machine.execLifeLedgerSave s
  | .agingMonitorRead t mon steps windowLeft => Sys2Proof.Machine.execAgingMonitorRead t mon steps windowLeft s
  | .dbgAuthSubmit tok => Sys2Proof.Machine.execDbgAuthSubmit tok s
  | .tokenCheckDone => Sys2Proof.Machine.execTokenCheckDone s
  | .dbgWake => Sys2Proof.Machine.execDbgWake s
  | .dmHaltRequest h => Sys2Proof.Machine.execDmHaltRequest h s
  | .dmResumeRequest h => Sys2Proof.Machine.execDmResumeRequest h s
  | .dmAbstractCommand h cmd => Sys2Proof.Machine.execDmAbstractCommand h cmd s
  | .systemBusAccess a size write v => Sys2Proof.Machine.execSystemBusAccess a size write v s
  | .coldReset hostAccepted => Sys2Proof.Machine.execColdReset hostAccepted s
  | .warmReset ns => Sys2Proof.Machine.execWarmReset ns s
  | .hartReset who h v => Sys2Proof.Machine.execHartReset who h v s
  | .hartSelfTestDone h pass => Sys2Proof.Machine.execHartSelfTestDone h pass s
  | .firstHostInstruction => Sys2Proof.Machine.execFirstHostInstruction s
  | .pcieMemoryRead v_i rid pasid iova bytes => Sys2Proof.Machine.execPcieMemoryRead v_i rid pasid iova bytes s
  | .pcieMemoryWrite v_i rid pasid iova mask data poison => Sys2Proof.Machine.execPcieMemoryWrite v_i rid pasid iova mask data poison s
  | .pcieAtomicOp v_i rid pasid iova fn bytes operand compare => Sys2Proof.Machine.execPcieAtomicOp v_i rid pasid iova fn bytes operand compare s
  | .pcieMsiWrite v_i rid iova data => Sys2Proof.Machine.execPcieMsiWrite v_i rid iova data s
  | .pcieCompletion v_i tag cpl => Sys2Proof.Machine.execPcieCompletion v_i tag cpl s
  | .pcieLinkEvent v_i level => Sys2Proof.Machine.execPcieLinkEvent v_i level s
  | .supervisorTimerMatch h => Sys2Proof.Machine.execSupervisorTimerMatch h s

end Sys2Proof.Machine
end

