-- ==== Sys2Proof/Safety.lean ====
section
/-!
DEFINITION. The terms of the statements: the canonical form of every byte memory, PMA entries that R30 accepts, when a hart executes an instruction,
and what changes when it has done so.
-/
namespace Sys2Proof.Machine

/-- Every byte memory is canonical: strictly rising addresses, no entry equal to what an unlisted address reads as. -/
def Mems.wf (m : Mems) : Bool := memWf m.dram && memWf m.tcm && memWf m.sram && memWf m.mbox && tabWf (0 : Nat) m.tcmErr

/-- A PMA table holds at most 32 entries, each valid one such as a commit accepts (R30, R39). -/
def pmaLegal (t : Tab PmaEntry) : Bool := tabWf PmaEntry.empty t && t.all fun (k, e) => decide (k < 32) && e.err == 0

/-- The entries and the copies that the masters hold are legal, and the copies are the entries unless a commit is under way (R30, R38). -/
def Pma.wf (p : Pma) : Bool := pmaLegal p.entries && pmaLegal p.masters && (p.busy || p.masters == p.entries)

/-- A command's outcome is a next state. -/
def completes (c : Instr) (s : State) : Prop := ∃ t, exec c s = .next t

/-- A hart executes its next instruction, of `len` bytes: it issues (R93, R149, R451, R460, R468, R491, R515) and has not begun it before, neither a debugger nor a
trigger acts first (R489, R491) nor, on an S-core, an interrupt (R120, R124), and its bytes are at hand: the fetch finds no fault, no walk and no miss (R89). -/
def State.issues (s : State) (h : HartId) (len : Nat := 4) : Bool :=
  s.canIssue h && !(s.hart h).begun && (s.haltDue h).isNone && ((s.hart h).icountDue (isT h)).isNone &&
  ((s.hart h).trigHit (isT h) 2 (s.hart h).pc).isNone && (isT h || (s.irqDue h).isNone) && s.fetchReady h len

/-- The counters of a hart and the registers that counting changes: mcycle, minstret and the hpm counters, the overflow bits of mhpmevent (R398, R402),
and the icount triggers (R489). -/
def countingCsr (n : Nat) : Bool := (decide (0xB00 ≤ n) && decide (n ≤ 0xB1F)) || (decide (0x323 ≤ n) && decide (n ≤ 0x33F)) || decide (0x10000 ≤ n)

/-- Nothing of the package changes but hart `h` and its machine interrupt file, in which a counter that wraps sets an identity (R402), and the model's own counter
of free values. -/
def onlyHart (s t : State) (h : HartId) : Prop :=
  t = { s with tcores := t.tcores, scores := t.scores, irq := { s.irq with imsic := t.irq.imsic }, free := t.free } ∧
  (∀ g, g ≠ h → t.hart g = s.hart g) ∧
  ∀ k, k ≠ fileKey h .mach → tabGet ImFile.reset t.irq.imsic k = tabGet ImFile.reset s.irq.imsic k

/-- Hart `h` of `t` is `d` but for what counting changes and for the cycles, the interrupt entry of R123 and the replacement trees of its L1 caches (R161). -/
def hartIs (t : State) (h : HartId) (d : Hart) : Prop :=
  t.hart h = { d with
    csr := (t.hart h).csr, ready := (t.hart h).ready, clock := (t.hart h).clock, entry := (t.hart h).entry, itree := (t.hart h).itree, dtree := (t.hart h).dtree } ∧
  ∀ n, countingCsr n = false → (t.hart h).csrRaw n = d.csrRaw n

/-- Hart `h` becomes `d` and nothing else changes, up to counting and cycles. -/
def hartBecomes (s t : State) (h : HartId) (d : Hart) : Prop := onlyHart s t h ∧ hartIs t h d

/-- A hart that has retired an instruction of `len` bytes: the pc is past it, and what was read ahead for it is used up (R89). -/
def Hart.past (c : Hart) (len : Nat) : Hart :=
  { c with pc := c.pc + BitVec.ofNat 64 len, seq := c.seq + 1, begun := false, early := c.early.filter fun e => decide (c.seq < e.seq) }

/-- A hart that has taken a trap: its early loads are squashed, a fence's wait and held walk faults are gone (R100, R101, R150). -/
def Hart.trapped (t : Bool) (c : Hart) (i : Trap) : Hart := { (c.dropEarly.enterTrap t i) with fence := none, walks := c.orphanWalks, wfaults := [], begun := false }

/-- Nothing changes but what the home slices hold of line `ln`, the mesh, and what counting in a bank changes (R408, R413). -/
def homeOnly (s t : State) (ln : Nat) : Prop :=
  t = { s with coh := { s.coh with l3 := t.coh.l3, sf := t.coh.sf, txn := t.coh.txn }, mesh := t.mesh, perf := t.perf, irq := { s.irq with events := t.irq.events } } ∧
  ∀ j, j ≠ ln → t.l3 j = s.l3 j ∧ t.sf j = s.sf j ∧ t.txn j = s.txn j

/-- A request is in turn at its home slice, which no guaranteed request goes ahead to, and its line has no transaction and no waiting request (R167, R176, R210). -/
def State.homeTakes (s : State) (f : Flit) : Bool :=
  let ln := lineOf f.addr.toNat
  s.flitTurn f && !(s.guarFirst f) && (s.txn ln).isNone && !(s.coh.waitq.any fun g => lineOf g.addr.toNat == ln)

/-- Such a request finds a tracker free (R161, R184). -/
def State.homeFree (s : State) (f : Flit) : Bool :=
  let sl := homeSlice (64 * lineOf f.addr.toNat)
  s.homeTakes f && decide (s.trackers sl ≤ 96) && s.trackerFree sl (f.vc == 5)

/-- The flit that was last handed to the L input of a stop and still waits there (R195). -/
def State.lastSent (s : State) (stop : Nat) : Option Flit := (tabGet [] s.mesh.inject stop).getLast?.map Prod.snd

/-- From `s` to `t` a flit was handed to the L input of a stop, and it still waits there (R195). -/
def State.newlySent (s t : State) (stop : Nat) (f : Flit) : Prop := ∃ o, s.mesh.stamp ≤ o ∧ (o, f) ∈ tabGet [] t.mesh.inject stop

/-! ### Commands of Rennet (R429, R430) -/

/-- The command with this code is in turn in mailbox `n` and passes the checks of R429 (R430). -/
def State.serves (s : State) (n : Fin 32) (code : Nat) : Bool := s.inTurn n.val && s.reqCode n.val == code && s.cmdStatus n.val == 0

/-- The bytes of a response: the header, then the payload (R429). -/
def State.response (s : State) (n status : Nat) (resp : List Byte) : List Byte :=
  leBytes 2 (s.reqCode n) ++ leBytes 2 status ++ leBytes 2 resp.length ++ leBytes 2 0 ++ leBytes 4 (s.reqAt n 4 4) ++ leBytes 4 0 ++ resp

/-- From `s` to `t` the command of mailbox `n` has run with a status: its response stands from offset 0x800 of the page, every other byte and every
other piece of state is as it was. -/
def answered (s t : State) (n : Fin 32) (status : Nat) (resp : List Byte) : Prop :=
  t = { s with mem := { s.mem with mbox := t.mem.mbox }, ren := { s.ren with mbox := t.ren.mbox } } ∧
  t.mb n.val = { s.mb n.val with ran := some (BitVec.ofNat 16 status) } ∧ (∀ m, m ≠ n.val → t.mb m = s.mb m) ∧
  ∀ a, memByte t.mem.mbox a =
    if n.val * 0x1000 + 0x800 ≤ a ∧ a < n.val * 0x1000 + 0x800 + (s.response n.val status resp).length
    then (s.response n.val status resp).getD (a - (n.val * 0x1000 + 0x800)) 0 else memByte s.mem.mbox a

/-- The command runs with OK: its effect is `u`, and its response is written. -/
def runs (c : Instr) (s u : State) (n : Fin 32) (resp : List Byte) : Prop := ∃ t, exec c s = .next t ∧ answered u t n 0 resp
/-- The command fails: nothing changes but its response (R432). -/
def fails (c : Instr) (s : State) (n : Fin 32) (status : Nat) : Prop := ∃ t, exec c s = .next t ∧ answered s t n status []

/-- The commands of the command table that mailbox `n` may hold, with their codes (R434). -/
def rennetCommands (n : Fin 32) (ok : BitVec 48) (trained : Bool) (nbr : Fin 512) (sig chain : List Byte) (tok : DbgToken) (img : ImageInfo) :
    List (Instr × Nat) :=
  [(.rennetInfo n, 0x0001), (.mailboxAssign n, 0x0002), (.noticeRead n, 0x0003), (.memTrain n ok, 0x0301), (.memChannelStatus n, 0x0302),
   (.memScrubSet n, 0x0303), (.memPageRetire n, 0x0304), (.memRetireList n, 0x0305), (.instanceCreate n, 0x0401), (.instanceDestroy n, 0x0402),
   (.instanceReset n, 0x0403), (.instanceQuery n, 0x0404), (.meshWheelReserve n, 0x0501), (.meshWheelRelease n, 0x0502), (.meshWheelQuery n, 0x0503),
   (.cacheWaygroupSet n, 0x0610), (.fabricRouteQuery n, 0x0701), (.fabricLinkStatus n, 0x0702), (.fabricLinkDisable n, 0x0703),
   (.fabricLinkEnable n trained nbr, 0x0704), (.fabricInboundSet n, 0x0705), (.fabricTimeStatus n, 0x0706), (.powerLimitSet n, 0x0801),
   (.powerFreqSet n, 0x0802), (.powerMeshFreqSet n, 0x0803), (.powerStatus n, 0x0804), (.powerDomainSet n, 0x0805), (.brineStatus n, 0x0810),
   (.brineJournalStore n, 0x0811), (.brineJournalLoad n, 0x0812), (.attestQuote n sig, 0x0901), (.certChainRead n chain, 0x0902),
   (.debugLevelSet n tok, 0x0903), (.fwStage n img, 0x0904), (.fwCommit n, 0x0905), (.errorLogRead n, 0x0A01)]

end Sys2Proof.Machine
end

