-- ==== Sys2Proof/WellFormed.lean ====
section
/-!
DEFINITION. Well-formed commands: operands that the spec gives the row. The meanings are total; a term that is not well formed names no command.
-/
namespace Sys2Proof

/-- A message row carries a flit of its opcode (R201), with a payload where the opcode has one. -/
def flitWf (op : MsgOp) (f : Flit) : Bool :=
  f.op == op && (match op with | .writeNc | .atomicNc | .returnDirty | .probeData | .readReturn | .memWrite | .memWriteMasked => f.data.isSome | _ => true)
/-- A packet row carries a packet of its opcode, of at most 64 bytes (R306, R307). -/
def pktWf (op : PktOp) (p : Pkt) : Bool := p.op == op && decide (p.size ≤ 64)
/-- Sizes of LR, SC and the AMOs (R140). -/
def amoSizeWf (z : AccSize) : Bool := z == .b4 || z == .b8
/-- A number of registers that a whole-register instruction names. -/
def wholeWf (n : Nat) : Bool := n == 1 || n == 2 || n == 4 || n == 8
def addrWf : VAddr → Bool | .whole n => wholeWf n.val | _ => true
/-- A vector instruction: 1 to 8 fields, one outside segments of unit, strided and indexed form; whole-register counts (R85, R86). -/
def vecWf : VInstr → Bool
  | .arith op _ _ _ _ => (match op with | .mvnr n => wholeWf n.val | _ => true)
  | .load ad _ nf _ _ _ => addrWf ad && decide (1 ≤ nf.val) && decide (nf.val ≤ 8) && (match ad with | .whole _ | .mask => nf.val == 1 | _ => true)
  | .store ad _ nf _ _ _ =>
    addrWf ad && decide (1 ≤ nf.val) && decide (nf.val ≤ 8) && (match ad with | .whole _ | .mask => nf.val == 1 | .faultFirst => false | _ => true)
/-- HLV and HSV name integer accesses with no offset; HLVX names LHU and LWU (R268). -/
def loadWf (k : LdKind) (virt : Virt) (imm : BitVec 12) (ahead : Option Ahead) (c : Bool) : Bool :=
  match virt with
  | .no => true
  | .hlv => k != .flw && k != .fld && imm == 0 && ahead.isNone && !c
  | .hlvx => (k == .lhu || k == .lwu) && imm == 0 && ahead.isNone && !c
def storeWf (k : StKind) (virt : Virt) (imm : BitVec 12) (c : StForm) : Bool :=
  match virt with
  | .no => true
  | .hlv => k != .fsw && k != .fsd && imm == 0 && c == .now false
  | .hlvx => false
/-- AMOCAS of 4, 8 or 16 bytes; of 16, with even registers (R41, R140). -/
def casWf (bytes : Nat) (rd rs2 : Fin 32) : Bool := bytes == 4 || bytes == 8 || (bytes == 16 && rd.val % 2 == 0 && rs2.val % 2 == 0)
/-- Offsets of branches, JAL and JALR. -/
def ctWf (k : CtKind) (imm : BitVec 21) : Bool :=
  match k with
  | .jal => !(imm.getLsbD 0)
  | .jalr => decide (-2048 ≤ imm.toInt) && decide (imm.toInt < 2048)
  | _ => !(imm.getLsbD 0) && decide (-4096 ≤ imm.toInt) && decide (imm.toInt < 4096)
/-- An AtomicOp of PCI Express: FetchAdd and Swap of 4 or 8 bytes, CAS of 4, 8 or 16, naturally aligned (R523). -/
def pcieAtomicWf (fn : AmoFn) (bytes : Nat) (iova : Word) : Bool :=
  (((fn == .add || fn == .swap) && (bytes == 4 || bytes == 8)) || (fn == .cas && (bytes == 4 || bytes == 8 || bytes == 16))) && iova.toNat % bytes == 0
/-- A guest file is numbered from 1 (R380). -/
def fileWf : ImFileKind → Bool | .guest g => g.val != 0 | _ => true

/-- Whether a command is well formed. -/
def Instr.wf : Instr → Bool
  | .vectorInstruction _ i => vecWf i
  | .load _ k virt _ _ imm ahead c => loadWf k virt imm ahead c
  | .store _ k virt _ _ imm c => storeWf k virt imm c
  | .amo _ fn size _ _ _ => amoSizeWf size && fn != .cas
  | .lr _ size _ _ => amoSizeWf size
  | .sc _ size _ _ _ => amoSizeWf size
  | .amocas _ bytes rd rs2 _ => casWf bytes rd rs2
  | .csrWrite _ _ _ _ src _ => (match src with | .imm v => decide (v.toNat < 32) | .reg _ => true)
  | .controlTransferResolve _ k _ _ _ imm _ _ => ctWf k imm
  | .lineRead f => flitWf .lineRead f
  | .lineOwn f => flitWf .lineOwn f
  | .linePromote f => flitWf .linePromote f
  | .lineClaim f => flitWf .lineClaim f
  | .maskFill f => flitWf .maskFill f
  | .cleanKeep f => flitWf .cleanKeep f
  | .cleanDrop f => flitWf .cleanDrop f
  | .discardLine f => flitWf .discardLine f
  | .prefetchRead f => flitWf .prefetchRead f
  | .prefetchOwn f => flitWf .prefetchOwn f
  | .readNc f => flitWf .readNc f
  | .writeNc f => flitWf .writeNc f
  | .atomicNc f => flitWf .atomicNc f
  | .returnDirty f => flitWf .returnDirty f
  | .returnClean f => flitWf .returnClean f
  | .probeShare f => flitWf .probeShare f
  | .probeTake f => flitWf .probeTake f
  | .probeKill f => flitWf .probeKill f
  | .probeClean f => flitWf .probeClean f
  | .dataGrant f => flitWf .dataGrant f
  | .grant f => flitWf .grant f
  | .probeAck f => flitWf .probeAck f
  | .probeData f => flitWf .probeData f
  | .grantAck f => flitWf .grantAck f
  | .writeDone f => flitWf .writeDone f
  | .readReturn f => flitWf .readReturn f
  | .dropped f => flitWf .dropped f
  | .errorReply f => flitWf .errorReply f
  | .returnAck f => flitWf .returnAck f
  | .memRead _ f => flitWf .memRead f
  | .memWrite _ f => flitWf .memWrite f
  | .memWriteMasked _ f => flitWf .memWriteMasked f
  | .iommuTranslate _ _ _ _ size => decide (1 ≤ size) && decide (size ≤ 4096)
  | .rdNc _ p => pktWf .rdNc p
  | .wrNc _ p => pktWf .wrNc p
  | .atomNc _ p => pktWf .atomNc p
  | .blkRd _ p => pktWf .blkRd p
  | .blkWr _ p => pktWf .blkWr p
  | .rdData _ p => pktWf .rdData p
  | .wrAck _ p => pktWf .wrAck p
  | .atomData _ p => pktWf .atomData p
  | .errResp _ p => pktWf .errResp p
  | .routeAdv _ us => us.all fun u => decide (u.first ≤ u.last)
  | .routeWithdraw _ us => us.all fun u => decide (u.first ≤ u.last)
  | .wiredInputChange src _ => decide (1 ≤ src.val) && decide (src.val ≤ 354)
  | .aplicSourcecfgWrite _ _ src _ => decide (1 ≤ src.val)
  | .aplicMsiSend src => decide (1 ≤ src.val)
  | .imsicSeteipnum _ f _ => fileWf f
  | .imsicTopeiClaim _ f => fileWf f
  | .tokenRefill agent => decide (agent < 396)
  | .pcieMemoryRead _ _ _ _ bytes => decide (1 ≤ bytes) && decide (bytes ≤ 4096)
  | .pcieAtomicOp _ _ _ iova fn bytes _ _ => pcieAtomicWf fn bytes iova
  | _ => true

end Sys2Proof
end

