-- ==== Sys2Proof/Certificates/Slice0/Obligations.lean ====
section
/-!
DEFINITION. The statements for the provers: what the rows of the command table and the machine do, stated from the rules of spec/.
-/
open Sys2Proof Sys2Proof.Machine

/-- Where a hart executes an integer instruction that its core type has, exec answers a next state in which rd holds the operation's result (x0
keeps reading zero), the pc is past the instruction, and nothing else has changed but what counting, cycles and replacement trees change. (R41; R42;
R81) -/
def Obligations.IntegerInstructionsComplete : Prop :=
  ∀ (s : State) (h : HartId) (op : IntOp) (rd rs1 : Fin 32) (src : Src) (c : Bool),
    s.issues h (ilen c) = true → (isT h || !(tOnly op)) = true →
    ∃ t, exec (.integerInstruction h op rd rs1 src c) s = .next t ∧
      (∀ r : Fin 32, (t.hart h).getX r.val = if r.val = 0 then 0 else if r = rd
        then intValue op ((s.hart h).getX rs1.val) ((s.hart h).src src) (s.hart h).pc else (s.hart h).getX r.val) ∧
      hartBecomes s t h (((s.hart h).setX rd.val (intValue op ((s.hart h).getX rs1.val) ((s.hart h).src src) (s.hart h).pc)).past (ilen c))

/-- Where a T-core hart executes an F or D instruction with FS on and a legal rounding mode, exec answers a next state in which the destination
holds the result, the raised flags are accrued, mstatus.FS is dirty where a floating-point register is written, the pc is past the instruction, and
nothing else has changed but what counting changes. (R41; R42; R81) -/
def Obligations.FpInstructionsComplete : Prop :=
  ∀ (s : State) (h : HartId) (op : FpOp) (rd rs1 rs2 rs3 : Fin 32) (rm : Fin 8) (r : Nat),
    s.issues h = true → (s.hart h).fpLegal (isT h) = .ok →
    (if rounds op = true then (s.hart h).roundMode rm.val else some 0) = some r →
    ∃ t, exec (.fpInstruction h op rd rs1 rs2 rs3 rm) s = .next t ∧
      hartBecomes s t h
        ((match fpValue op r ((s.hart h).getF rs1.val) ((s.hart h).getF rs2.val) ((s.hart h).getF rs3.val) ((s.hart h).getX rs1.val) with
          | .f m bits fl => (((s.hart h).setF rd.val (boxF m bits)).dirtyFs).accrue fl
          | .x v fl => ((s.hart h).setX rd.val v).accrue fl).past 4)

/-- On an S-core every Zicond, floating-point and vector arithmetic instruction raises an illegal-instruction exception: exec answers the state that
entering that exception gives. (R42; R119) -/
def Obligations.MissingInstructionsTrap : Prop :=
  ∀ (s : State) (n : Fin 48), s.issues (.s n) = true →
    (∀ (op : IntOp) (rd rs1 : Fin 32) (src : Src) (c : Bool), tOnly op = true → s.issues (.s n) (ilen c) = true →
      exec (.integerInstruction (.s n) op rd rs1 src c) s = .next (s.trap (.s n) (excep 2 0))) ∧
    (∀ (op : FpOp) (rd rs1 rs2 rs3 : Fin 32) (rm : Fin 8),
      exec (.fpInstruction (.s n) op rd rs1 rs2 rs3 rm) s = .next (s.trap (.s n) (excep 2 0))) ∧
    ∀ (op : VArith) (vd vs2 : Fin 32) (src : VSrc) (masked : Bool),
      exec (.vectorInstruction (.s n) (.arith op vd vs2 src masked)) s = .next (s.trap (.s n) (excep 2 0))

/-- A control transfer that executes moves the pc to its target where it is taken and past itself otherwise, writes the link register where it is a
jump, and on a T-core trains the predictor; where fetch followed another address, what was read ahead and the walks of younger instructions are
dropped. PAUSE moves the pc alone; WFI moves the pc and stops issue in C1 unless an interrupt is pending and enabled in mie. Nothing else changes
but what counting changes. (R72; R73; R81; R119; R125) -/
def Obligations.ControlTransfersComplete : Prop :=
  (∀ (s : State) (h : HartId) (k : CtKind) (rd rs1 rs2 : Fin 32) (imm : BitVec 21) (wrong : List RasOp) (c : Bool), s.issues h (ilen c) = true →
    let ch := s.hart h
    let next := ch.pc + BitVec.ofNat 64 (ilen c)
    let target := if k = .jalr then (ch.getX rs1.val + imm.signExtend 64) &&& ~~~1 else ch.pc + imm.signExtend 64
    let taken := ctTaken k (ch.getX rs1.val) (ch.getX rs2.val)
    let dest := if taken = true then target else next
    let miss := if isT h = true then !ch.barred && decide ((ch.pred.follow k rd rs1 ch.pc next target).1 ≠ dest) else (sCost ch k taken ((imm.signExtend 64).slt 0)).2
    let linked := if isBranch k = true then ch.past 0 else (ch.past 0).setX rd.val next
    let trained := if isT h = true then linked.trainCt k rd rs1 ch.pc next target taken miss wrong else linked
    ∃ t, exec (.controlTransferResolve h k rd rs1 rs2 imm wrong c) s = .next t ∧
      hartBecomes s t h { (if miss = true then { trained.dropEarly with walks := trained.orphanWalks } else trained) with pc := dest }) ∧
  (∀ (s : State) (h : HartId), s.issues h = true → ∃ t, exec (.pause h) s = .next t ∧ hartBecomes s t h ((s.hart h).past 4)) ∧
  (∀ (s : State) (h : HartId), s.issues h = true → wfiLegal h (s.hart h) = .ok → ∃ t, exec (.wfi h) s = .next t ∧
    hartBecomes s t h (if s.wakes h = true then (s.hart h).past 4 else { (s.hart h).past 4 with idle := .c1, since := s.time }))

/-- On a T-core XPRED.BAR 1 sets the bar with the mode's rank, or the higher of two ranks; XPRED.BAR 0 clears it at a rank equal to or above the
recorded one and changes nothing otherwise; XPRED.FLUSH empties the direction predictor, target buffers and return stack; each drops what was read
ahead. On an S-core the three are no-ops. MDP_CLEAR empties a T-core's memory-dependence predictor. Nothing else changes but what counting changes.
(R47; R51; R52; R53; R90; R119) -/
def Obligations.PredictionInstructionsComplete : Prop :=
  (∀ (s : State) (h : HartId), s.issues h = true → isT h = true → ∃ t, exec (.xpredBar1 h) s = .next t ∧
    hartBecomes s t h ((((s.hart h).dropEarly).csrPut 0x5C0 (putFld ((s.hart h).csrRaw 0x5C0 ||| 1) 5 4
      (if ((s.hart h).csrRaw 0x5C0).getLsbD 0 = true then max (fld ((s.hart h).csrRaw 0x5C0) 5 4) (modeRank (s.hart h).mode) else modeRank (s.hart h).mode))).past 4)) ∧
  (∀ (s : State) (h : HartId), s.issues h = true → isT h = true → ∃ t, exec (.xpredBar0 h) s = .next t ∧
    hartBecomes s t h ((if ((s.hart h).csrRaw 0x5C0).getLsbD 0 = true ∧ fld ((s.hart h).csrRaw 0x5C0) 5 4 ≤ modeRank (s.hart h).mode
      then ((s.hart h).dropEarly).csrPut 0x5C0 (putFld ((s.hart h).csrRaw 0x5C0 &&& ~~~1) 5 4 0) else (s.hart h).dropEarly).past 4)) ∧
  (∀ (s : State) (h : HartId), s.issues h = true → isT h = true → ∃ t, exec (.xpredFlush h) s = .next t ∧
    hartBecomes s t h { ((s.hart h).dropEarly).past 4 with pred := { Pred.empty with mdp := (s.hart h).pred.mdp } }) ∧
  (∀ (s : State) (n : Fin 48) (i : Instr), s.issues (.s n) = true → i ∈ [Instr.xpredBar1 (.s n), .xpredBar0 (.s n), .xpredFlush (.s n)] →
    ∃ t, exec i s = .next t ∧ hartBecomes s t (.s n) ((s.hart (.s n)).past 4)) ∧
  (∀ (s : State) (n : Fin 192), exec (.mdpClear (.t n)) s =
    .next (s.setHart (.t n) { s.hart (.t n) with pred := { (s.hart (.t n)).pred with mdp := [] } }))

/-- ECALL, EBREAK and an instruction that raises an exception enter their trap: the hart is the one that Hart.enterTrap gives, any fence wait and
held walk faults are gone, and nothing else changes but what counting changes. EBREAK in a mode that dcsr sends to Debug Mode halts the hart
instead. An enabled pending interrupt is taken before the next instruction and ends a fence's wait and C1. MRET and SRET, where the mode may execute
them, restore the mode, the status and the pc, with the flush that FLUSHTRAP asks for. EXCEPTION_TAKE of a Xexy word traps only where the word is
one that R46 makes illegal, and then with cause 2: every word of R44 and R45 decodes to its instruction with its operands, what decodes has that one
word, and a custom-0 word is illegal exactly where no instruction has it. (R44; R45; R46; R100; R101; R121; R122; R280) -/
def Obligations.TrapsTaken : Prop :=
  (∀ (s : State) (h : HartId), s.issues h = true → ∃ t, exec (.ecall h) s = .next t ∧
    hartBecomes s t h ((s.hart h).trapped (isT h)
      (excep (match (s.hart h).mode with | .m => 11 | .hs => 9 | .vs => 10 | _ => 8) 0))) ∧
  (∀ (s : State) (h : HartId) (c : Bool), s.issues h (ilen c) = true →
    let bit := match (s.hart h).mode with | .m => 15 | .hs => 13 | .u => 12 | .vs => 17 | .vu => 16
    let halts := (s.hart h).csrBit 0x7B0 bit && s.mayHalt h
    (halts = true → exec (.ebreak h c) s = .next (s.setHart h ((s.hart h).enterDebug 1))) ∧
    (halts = false → ∃ t, exec (.ebreak h c) s = .next t ∧ hartBecomes s t h ((s.hart h).trapped (isT h) (excep 3 (s.hart h).pc)))) ∧
  (∀ (s : State) (h : HartId) (cause : Fin 64) (tval : Word) (c : Faulting), s.issues h (if c = .two then 2 else 4) = true →
    (∀ w, c = .word w → isXexy w = true → illegalXexy h w = true ∧ cause.val = 2) →
    let i : Trap := match (s.hart h).wfaults.find? fun w => w.va == tval && w.cause == cause.val with
      | some w => { cause := cause.val, intr := false, tval := tval, xwfd := w.xwfd, tval2 := w.tval2, tinst := w.tinst }
      | none => excep cause.val tval
    ∃ t, exec (.exceptionTake h cause tval c) s = .next t ∧ hartBecomes s t h ((s.hart h).trapped (isT h) i)) ∧
  (∀ (s : State) (h : HartId) (md : Mode) (i : Nat), s.mayEnter h = true → (s.hart h).stepMasks = false → s.topIrq h = some (md, i) →
    ∃ t, exec (.interruptTake h) s = .next t ∧
      hartBecomes s t h (((s.leaveWait h).hart h).trapped (isT h) (intrTrap md i))) ∧
  (∀ (s : State) (h : HartId) (k : XretKind), s.issues h = true → xretAccess (isT h) (s.hart h) k = .ok →
    let r := (s.hart h).past 0
    let d := match k with | .mret => r.mret (isT h) | .sret => r.sret
    ∃ t, exec (.xret h k) s = .next t ∧ hartBecomes s t h (if isT h = true ∧ (s.hart h).csrBit 0x5C0 2 = true then d.predFlush else d)) ∧
  (∀ (s : State) (h : HartId) (cause : Fin 64) (tval : Word) (w : BitVec 32), isXexy w = true → ¬(illegalXexy h w = true ∧ cause.val = 2) →
    exec (.exceptionTake h cause tval (.word w)) s = .next s) ∧
  (∀ (h : HartId) (rd rs1 rs2 : Fin 32) (imm : BitVec 12),
    decodeXexy h (xexyI 0 imm rs1 rd) = some (.xpld h rd rs1 imm) ∧ decodeXexy h (xexyS 1 imm rs2 rs1) = some (.xpst h rs2 rs1 imm) ∧
    decodeXexy h (xexyI 2 0x010 rs1 0) = some (.xwayClean h rs1) ∧ decodeXexy h (xexyI 2 0x011 rs1 0) = some (.xwayCinv h rs1)) ∧
  (∀ h : HartId, decodeXexy h (xexyI 2 0x000 0 0) = some (.xpredBar0 h) ∧ decodeXexy h (xexyI 2 0x001 0 0) = some (.xpredBar1 h) ∧
    decodeXexy h (xexyI 2 0x002 0 0) = some (.xpredFlush h) ∧ decodeXexy h (xexyI 2 0x020 0 0) = some (.xbrDrain h) ∧
    decodeXexy h (xexyI 2 0x030 0 0) = some (.xfenceP h)) ∧
  (∀ (h : HartId) (w : BitVec 32), (∀ i, decodeXexy h w = some i → encodeXexy i = some w) ∧
    (isXexy w = true → (illegalXexy h w = true ↔ ∀ i, encodeXexy i ≠ some w)))

/-- Entering a trap of an S-core saves the pc in mepc, the cause in mcause and the trap value in mtval, moves MIE to MPIE and the mode to MPP,
clears MIE, enters M-mode at the vector address formed from mtvec, and changes no other register. (R121) -/
def Obligations.MachineTrapEntry : Prop :=
  ∀ (c : Hart) (i : Trap), let d := c.enterTrap false i
    d.csrRaw 0x341 = c.pc ∧ d.csrRaw 0x342 = causeWord i false ∧ d.csrRaw 0x343 = i.tval ∧
    fld (d.csrRaw 0x300) 7 7 = fld (c.csrRaw 0x300) 3 3 ∧ fld (d.csrRaw 0x300) 3 3 = 0 ∧ fld (d.csrRaw 0x300) 12 11 = modePrv c.mode ∧
    d.mode = .m ∧ d.pc = vectorOf (c.csrRaw 0x305) i false ∧
    (∀ n, n ∉ [0x300, 0x341, 0x342, 0x343] → d.csrRaw n = c.csrRaw n) ∧ d = { c with csr := d.csr, mode := d.mode, pc := d.pc }

/-- SCORE_TRAP_ENTRY on an S-core enters the interrupt that ranks highest, and the trap of the instruction in IS where no interrupt is recognisable;
a fault on the fetch of the vector, or an error answer to it from C = 0 memory, then stops the core with a core-fatal record. LATE_ARRIVAL_TAKEOVER
by a higher-ranked interrupt rewrites mcause and mtval and forms the new vector address, and leaves mepc and mstatus. (R120; R121; R123; R124; R126;
R127) -/
def Obligations.SCoreEntry : Prop :=
  (∀ (s : State) (n : Fin 48) (cause : Option (Fin 64)) (tval : Word) (vectorFault : Bool) (md : Mode) (i : Nat),
    let h := HartId.s n
    s.mayEnter h = true → (s.hart h).stepMasks = false → s.topIrq h = some (md, i) →
    ∃ u t, exec (.scoreTrapEntry h cause tval vectorFault) s = .next t ∧ hartBecomes s u h (((s.leaveWait h).hart h).trapped false (intrTrap md i)) ∧
      ((∃ x, u.fetchTo h (u.hart h).pc = .trap x) ∨ (vectorFault = true ∧ ∃ pa g, u.fetchTo h (u.hart h).pc = .to pa g ∧ g.region = .c0) →
        t = u.coreFatal h 3) ∧
      ((∀ x, u.fetchTo h (u.hart h).pc ≠ .trap x) → (vectorFault = true → ∀ pa g, u.fetchTo h (u.hart h).pc = .to pa g → g.region ≠ .c0) → t = u)) ∧
  (∀ (s : State) (n : Fin 48) (e : Fin 64) (tval : Word) (vectorFault : Bool),
    let h := HartId.s n
    s.mayEnter h = true → (s.hart h).idle = .run → (s.hart h).fence = none → s.irqDue h = none →
    ∃ u t, exec (.scoreTrapEntry h (some e) tval vectorFault) s = .next t ∧ hartBecomes s u h (((s.leaveWait h).hart h).trapped false (excep e.val tval)) ∧
      ((∃ x, u.fetchTo h (u.hart h).pc = .trap x) ∨ (vectorFault = true ∧ ∃ pa g, u.fetchTo h (u.hart h).pc = .to pa g ∧ g.region = .c0) →
        t = u.coreFatal h 3) ∧
      ((∀ x, u.fetchTo h (u.hart h).pc ≠ .trap x) → (vectorFault = true → ∀ pa g, u.fetchTo h (u.hart h).pc = .to pa g → g.region ≠ .c0) → t = u)) ∧
  (∀ (s : State) (n : Fin 48) (old i : Nat), s.phase = .run → (s.hart (.s n)).runs = true → (s.hart (.s n)).begun = false → (s.hart (.s n)).entry = some old →
    topOf (s.mip (.s n) &&& (s.hart (.s n)).csrRaw 0x304) = some i → ((s.hart (.s n)).csrRaw 0x342).getLsbD 63 = true →
    irqOrder.idxOf i < irqOrder.idxOf old →
    let tr := intrTrap .m i
    let c := ((s.hart (.s n)).csrPut 0x342 (causeWord tr false)).csrPut 0x343 0
    ∃ t, exec (.lateArrivalTakeover (.s n)) s = .next t ∧ hartBecomes s t (.s n) { c with pc := vectorOf (c.csrRaw 0x305) tr false })

/-- On a T-core XPRED.BAR 1 sets BAR with BARRANK the rank of the mode, or the higher of the recorded rank and the mode's where BAR is set;
XPRED.BAR 0 clears BAR and BARRANK at a rank equal to or above the recorded one, and otherwise leaves xpredctl as it is. U and VU have rank 0, VS 1,
HS 2 and M 3. (R52) -/
def Obligations.PredictionBarRank : Prop :=
  modeRank .u = 0 ∧ modeRank .vu = 0 ∧ modeRank .vs = 1 ∧ modeRank .hs = 2 ∧ modeRank .m = 3 ∧
  ∀ (s : State) (n : Fin 192), s.issues (.t n) = true →
    let v := (s.hart (.t n)).csrRaw 0x5C0
    let rank := modeRank (s.hart (.t n)).mode
    (∃ t, exec (.xpredBar1 (.t n)) s = .next t ∧ ((t.hart (.t n)).csrRaw 0x5C0).getLsbD 0 = true ∧
      (v.getLsbD 0 = false → fld ((t.hart (.t n)).csrRaw 0x5C0) 5 4 = rank) ∧
      (v.getLsbD 0 = true → fld ((t.hart (.t n)).csrRaw 0x5C0) 5 4 = max (fld v 5 4) rank)) ∧
    (∃ t, exec (.xpredBar0 (.t n)) s = .next t ∧
      (v.getLsbD 0 = true → fld v 5 4 ≤ rank →
        ((t.hart (.t n)).csrRaw 0x5C0).getLsbD 0 = false ∧ fld ((t.hart (.t n)).csrRaw 0x5C0) 5 4 = 0) ∧
      (rank < fld v 5 4 → (t.hart (.t n)).csrRaw 0x5C0 = v))

/-- A CSR instruction that the mode may execute writes the CSR's old value to rd and moves the pc past itself, and then, if it writes, writes the
new value that its form gives: the operand, the old value with the operand's bits set, or with them cleared (of mip.SEIP the bit that software
wrote, log entry 8). A write that serializes drops what was read ahead, and yields to an interrupt that is due. A write that sets xmould.MODE keeps
ACTIVE and starts cleaning where ACTIVE is 0; one that clears MODE clears ACTIVE and the reservation with it. A write of xpredctl stores bits 3 to 1
of the value, keeps BAR and BARRANK, reads 0 in every reserved bit and changes no other CSR. (R57; R58; R62; R78; R81; R102; R119; R128; R131) -/
def Obligations.CsrInstructionsComplete : Prop :=
  (∀ (s : State) (h : HartId) (op : CsrOp) (csr : BitVec 12) (rd : Fin 32) (src : Src) (writes : Bool), s.issues h = true →
    let w := writes || op == CsrOp.rw
    let old := s.csrRead h csr.toNat
    let a := (s.hart h).src src
    let was := if csr.toNat = 0x344 && isT h then (old &&& ~~~0x200) ||| ((s.hart h).csrRaw 0x344 &&& 0x200) else old
    let v := match op with | .rw => a | .rs => was ||| a | .rc => was &&& ~~~a
    let serial := w && !(nonSerial h csr.toNat)
    csrAccess h (s.hart h) csr.toNat w = .ok →
    (∀ i, serial = true → s.irqDue h = some i →
      ∃ t, exec (.csrWrite h op csr rd src writes) s = .next t ∧ hartBecomes s t h ((s.hart h).trapped (isT h) i)) ∧
    ((serial = true → s.irqDue h = none) →
      ∃ u, hartBecomes s u h (let d := ((s.hart h).setX rd.val old).past 4; if serial = true then d.dropEarly else d) ∧
        exec (.csrWrite h op csr rd src writes) s =
          .next (if w = false then u else if csr.toNat = 0x7C0 then u.mouldWrite h v else u.csrWrite h csr.toNat v))) ∧
  (∀ (s : State) (h : HartId), s.issues h = true → csrAccess h (s.hart h) 0x7C0 true = .ok →
    let x := (s.hart h).csrRaw 0x7C0
    (x.getLsbD 1 = true → ∃ t, exec (.xmouldModeSet h) s = .next t ∧ hartBecomes s t h (((s.hart h).csrPut 0x7C0 (x ||| 1)).past 4)) ∧
    (x.getLsbD 1 = false → exec (.xmouldModeSet h) s =
      .next (((s.setHart h ((s.hart h).csrPut 0x7C0 (x ||| 5))).cleanShare h).retire h 4 4)) ∧
    ∃ t, exec (.xmouldModeClear h) s = .next t ∧
      hartBecomes s t h (({ s.hart h with resv := if x.getLsbD 1 = true then none else (s.hart h).resv }.csrPut 0x7C0 (x &&& ~~~3)).past 4)) ∧
  (∀ (n : Fin 192) (c : Hart) (v : Word), let d := c.csrWrite (.t n) 0x5C0 v
    (∀ i, 1 ≤ i → i ≤ 3 → (d.csrRaw 0x5C0).getLsbD i = v.getLsbD i) ∧
    (d.csrRaw 0x5C0).getLsbD 0 = (c.csrRaw 0x5C0).getLsbD 0 ∧ fld (d.csrRaw 0x5C0) 5 4 = fld (c.csrRaw 0x5C0) 5 4 ∧
    fld (d.csrRaw 0x5C0) 63 6 = 0 ∧ ∀ m, m ≠ 0x5C0 → d.csrRaw m = c.csrRaw m)

/-- With a clean running on an S-core that has begun no access and no maintenance outstanding, MOULD_ENTRY asks for the write-back of lines of the
share that are dirty; with none, it ends the clean, and enters Mould mode where MODE is still 1: ACTIVE is 1, CLEANING is 0, the reservation is
gone, the shares are empty, the next instruction issues 4 cycles later, and nothing else changes. With MODE back at 0 only CLEANING changes. (R62;
R63; R128; R132) -/
def Obligations.MouldEntry : Prop :=
  ∀ (s : State) (n : Fin 48), let h := HartId.s n
    let c := s.hart h
    let x := c.csrRaw 0x7C0
    c.cleaning = true → c.uload = [] → c.begun = false →
    (s.shareDirty h ≠ [] → exec (.mouldEntry h) s = .next (s.cleanShare h)) ∧
    (s.shareDirty h = [] → x.getLsbD 0 = false → exec (.mouldEntry h) s = .next (s.setHart h (c.csrPut 0x7C0 (x &&& ~~~4)))) ∧
    (s.shareDirty h = [] → x.getLsbD 0 = true → ∃ d, exec (.mouldEntry h) s = .next (s.setHart h d) ∧
      d.mould = true ∧ d.cleaning = false ∧ d.resv = none ∧ d.dl1 = [] ∧ d.il1 = [] ∧ d.clock = c.clock + 4 ∧ (∀ m, m ≠ 0x7C0 → d.csrRaw m = c.csrRaw m) ∧
      d = { c with csr := d.csr, resv := none, dl1 := [], il1 := [], dtree := [], itree := [], dfill := [], ifill := [], early := d.early, clock := d.clock })

/-- A vector configuration instruction on a hart with the vector unit on sets vtype and vl for its AVL and writes the new vl to rd. A vector
arithmetic instruction whose encoding vtype and vstart allow, with a legal rounding mode, has the effect of its elements on the registers, sets
vstart to 0 and marks the vector state dirty. A vector load of a defined shape accesses its active elements micro-op by micro-op, from vstart on;
with no active element it sets vstart to 0. A vector store whose active elements pass their checks enters all its store-buffer entries and sets
vstart to 0; where an element traps, those below it are entered, vstart names it, and the trap is taken. The pc moves past an instruction that
completes, and nothing else changes but what counting changes. (R41; R67; R81; R83; R85; R86; R87) -/
def Obligations.VectorInstructionsComplete : Prop :=
  (∀ (s : State) (h : HartId) (rd rs1 : Fin 32) (v : BitVec 11), s.issues h = true → (s.hart h).vecLegal (isT h) = .ok →
    let c := (s.hart h).setVtype (v.setWidth 64) ((s.hart h).avlOf rd rs1 (v.setWidth 64))
    ∃ t, exec (.vectorConfig h (.vsetvli rd rs1 v)) s = .next t ∧ hartBecomes s t h ((c.setX rd.val (c.csrRaw 0xC20)).past 4)) ∧
  (∀ (s : State) (h : HartId) (rd : Fin 32) (n : BitVec 5) (v : BitVec 10), s.issues h = true → (s.hart h).vecLegal (isT h) = .ok →
    let c := (s.hart h).setVtype (v.setWidth 64) (some n.toNat)
    ∃ t, exec (.vectorConfig h (.vsetivli rd n v)) s = .next t ∧ hartBecomes s t h ((c.setX rd.val (c.csrRaw 0xC20)).past 4)) ∧
  (∀ (s : State) (h : HartId) (rd rs1 rs2 : Fin 32), s.issues h = true → (s.hart h).vecLegal (isT h) = .ok →
    let c := (s.hart h).setVtype ((s.hart h).getX rs2.val) ((s.hart h).avlOf rd rs1 ((s.hart h).getX rs2.val))
    ∃ t, exec (.vectorConfig h (.vsetvl rd rs1 rs2)) s = .next t ∧ hartBecomes s t h ((c.setX rd.val (c.csrRaw 0xC20)).past 4)) ∧
  (∀ (s : State) (h : HartId) (op : VArith) (vd vs2 : Fin 32) (src : VSrc) (masked : Bool) (rm : Nat), s.issues h = true →
    let fp := vIsFp op || (match src with | .f _ => true | _ => false)
    (s.hart h).vecLegal (isT h) = .ok → (fp = true → (s.hart h).fpLegal (isT h) = .ok) → (if fp = true then (s.hart h).roundMode 7 else some 0) = some rm →
    (s.hart h).vArithOk op vd.val vs2.val src masked = true →
    ∃ t, exec (.vectorInstruction h (.arith op vd vs2 src masked)) s = .next t ∧
      hartBecomes s t h (((s.hart h).vArith op vd.val vs2.val src masked rm).past 4)) ∧
  (∀ (s : State) (h : HartId) (ad : VAddr) (eew : AccSize) (nf : Fin 9) (vd rs1 : Fin 32) (masked : Bool) (v : VShape),
    s.issues h = true → (s.hart h).vecLegal (isT h) = .ok →
    let c := s.hart h
    let ks := c.vActive masked (c.csrRaw 0x008).toNat v.evl
    (c.vShape ad (accBytes eew) nf.val vd.val masked false = some v →
      exec (.vectorInstruction h (.load ad eew nf vd rs1 masked)) s = .next (s.vloadLoop h c ad v vd.val (c.getX rs1.val) (vGroups ad v ks)) ∧
      (ks = [] → ∃ t, exec (.vectorInstruction h (.load ad eew nf vd rs1 masked)) s = .next t ∧ hartBecomes s t h ((c.atElem 0).past 4))) ∧
    (∀ (l : List (Nat × List Part)) (e : Option (Nat × Prep)), c.vShape ad (accBytes eew) nf.val vd.val masked true = some v →
      s.vprep h .store c ad v (c.getX rs1.val) ks = (l, e) →
      let es := vEntries c ad v vd.val c.seq l
      c.sb.length + es.length ≤ sbMax h → (∀ x ∈ es, c.violates x = none) →
      (e = none → ∃ t, exec (.vectorInstruction h (.store ad eew nf vd rs1 masked)) s = .next t ∧
        hartBecomes s t h (({ c with sb := c.sb ++ es }.atElem 0).past 4)) ∧
      (∀ (k : Nat) (tr : Trap), e = some (k, .trap tr) → tr.cause ≠ debugCause →
        ∃ t, exec (.vectorInstruction h (.store ad eew nf vd rs1 masked)) s = .next t ∧
          hartBecomes s t h (({ c with sb := c.sb ++ es }.atElem k).trapped (isT h) tr))))

/-- Where a hart executes a load whose form its mode and core type allow, whose bytes pass every check, and whose value can be read at once from the
store buffer, a TCM or the cache, exec answers a next state in which the destination holds the value read, extended as the form says, and the pc is
past the load: from the state that reading gave, nothing else changes but what counting changes. The same holds of a pair load and its two
registers. A load of a target that is not cached starts its requests when the store buffer is empty. A load of an instruction further on acts as R89
and R90 let it, and an S-core does nothing for it. (R49; R50; R81; R88; R89; R93; R107) -/
def Obligations.LoadsComplete : Prop :=
  (∀ (s u : State) (h : HartId) (k : LdKind) (virt : Virt) (rd rs1 : Fin 32) (imm : BitVec 12) (c : Bool) (ps : List Part) (v : Nat),
    s.issues h (ilen c) = true →
    (ldFp k = true → (s.hart h).fpLegal (isT h) = .ok) → (s.hart h).hlvLegal (isT h) virt = .ok →
    let va := (s.hart h).getX rs1.val + imm.signExtend 64
    s.addrTrig h 0 va = none → s.prep h virt .load va (ldBytes k) (ldBytes k) = .parts ps →
    ((ps.any fun p => p.tgt.region.uncached) = true → exec (.load h k virt rd rs1 imm none c) s = .next (s.startRead h (ldDest k rd.val) (ilen c) ps)) ∧
    ((ps.any fun p => p.tgt.region.uncached) = false → (s.trainLoad h (s.hart h).pc ps).readParts h false ps = .value v u →
      ∃ t, exec (.load h k virt rd rs1 imm none c) s = .next t ∧ hartBecomes u t h (((u.hart h).deliverV v (ldDest k rd.val)).past (ilen c)))) ∧
  (∀ (s u : State) (h : HartId) (rd rs1 : Fin 32) (imm : BitVec 12) (ps : List Part) (v : Nat),
    s.issues h = true → rd.val % 2 = 0 → rd ≠ 0 →
    let va := (s.hart h).getX rs1.val + imm.signExtend 64
    s.addrTrig h 0 va = none → s.prep h .no .load va 16 8 = .parts ps →
    ((ps.any fun p => p.tgt.region.uncached) = true → exec (.xpld h rd rs1 imm) s = .next (s.startRead h (.pair rd.val) 4 (halves ps))) ∧
    ((ps.any fun p => p.tgt.region.uncached) = false → (s.trainLoad h (s.hart h).pc ps).readParts h true ps = .value v u →
      ∃ t, exec (.xpld h rd rs1 imm) s = .next t ∧ hartBecomes u t h (((u.hart h).deliverV v (.pair rd.val)).past 4))) ∧
  (∀ (s : State) (h : HartId) (k : LdKind) (virt : Virt) (rd rs1 : Fin 32) (imm : BitVec 12) (a : Ahead) (c : Bool),
    exec (.load h k virt rd rs1 imm (some a) c) s = .next (s.loadAhead h a) ∧ (isT h = false → s.loadAhead h a = s))

/-- Of a load that has not been read ahead, the youngest store in the buffer that overlaps it decides: where it contains every byte and has no
uncached target, the load reads that store's bytes, and otherwise it waits. With no overlapping store, a naturally aligned load from a TCM whose
words hold no error reads the TCM's bytes and changes nothing. (R93; R107; R114) -/
def Obligations.LoadForwarding : Prop :=
  (∀ (s : State) (h : HartId) (pair : Bool) (ps : List Part) (e : SbEntry), ((ps.flatMap Part.pieces).all fun p => ((s.hart h).aheadPiece p).isSome) = false →
    sbHit (s.hart h).sb ps = some e →
    (e.forwards ps = true → ∃ u, s.readParts h pair ps = .value (e.valueOf ps) u ∧ hartBecomes s u h (s.hart h)) ∧
    (e.forwards ps = false → s.readParts h pair ps = .wait s)) ∧
  ∀ (s : State) (h : HartId) (pair : Bool) (p : Part), (s.hart h).early = [] → sbHit (s.hart h).sb [p] = none → p.tgt.region = .tcm → p.off = 0 →
    p.size ∈ [1, 2, 4, 8, 16] → p.pa % p.size = 0 → s.tcmBad (tcmKey h p.pa) p.size 1 = [] → s.tcmBad (tcmKey h p.pa) p.size 2 = [] →
    s.readParts h pair [p] = .value (memRead s.mem.tcm (tcmKey h p.pa) p.size) s

/-- Where a hart executes a store whose form its mode and core type allow, its bytes pass every check and the store buffer has room, exec answers a
next state in which the buffer has gained the store's one entry, as the youngest, with the register's bytes, and the pc is past the store; a load
that went ahead of it from bytes of the store is squashed with every younger instruction, and the memory-dependence predictor takes the pair;
nothing else changes but what counting changes, and memory is as it was. The same holds of a pair store. A store of an instruction further on asks
for ownership as R92 lets it, and an S-core does nothing for it. (R49; R81; R88; R90; R92; R114) -/
def Obligations.StoresComplete : Prop :=
  let enters (s : State) (h : HartId) (e : SbEntry) (len : Nat) (i : Instr) : Prop :=
    let c := s.hart h
    let d := { c with sb := c.sb ++ [e] }
    (c.violates e = none → ∃ t, exec i s = .next t ∧ t.mem = s.mem ∧ hartBecomes s t h (d.past len)) ∧
    ∀ x, c.violates e = some x → ∃ t, exec i s = .next t ∧ t.mem = s.mem ∧
      hartBecomes s t h ({ d.squashEarly (fun y => e.overlaps y.pa y.size) with pred := { c.pred with mdp := ((x.pc, c.pc) :: c.pred.mdp).take 2048 } }.past len)
  (∀ (s : State) (h : HartId) (k : StKind) (virt : Virt) (rs2 rs1 : Fin 32) (imm : BitVec 12) (c : Bool) (ps : List Part),
    s.issues h (ilen c) = true → (stFp k = true → (s.hart h).fpLegal (isT h) = .ok) → (s.hart h).hlvLegal (isT h) virt = .ok →
    let va := (s.hart h).getX rs1.val + imm.signExtend 64
    let v := if stFp k = true then ((s.hart h).getF rs2.val).toNat else ((s.hart h).getX rs2.val).toNat
    s.addrTrig h 1 va = none → s.prep h virt .store va (stBytes k) (stBytes k) = .parts ps → (s.hart h).sb.length < sbMax h →
    enters s h (sbOf ps v (s.hart h).seq false) (ilen c) (.store h k virt rs2 rs1 imm (.now c))) ∧
  (∀ (s : State) (h : HartId) (rs2 rs1 : Fin 32) (imm : BitVec 12) (ps : List Part), s.issues h = true → rs2.val % 2 = 0 →
    let va := (s.hart h).getX rs1.val + imm.signExtend 64
    let qs := if (ps.any fun p => p.tgt.region.uncached) = true then halves ps else ps
    s.addrTrig h 1 va = none → s.prep h .no .store va 16 8 = .parts ps → (s.hart h).sb.length < sbMax h →
    enters s h (sbOf qs ((s.hart h).pairX rs2.val 16) (s.hart h).seq false) 4 (.xpst h rs2 rs1 imm)) ∧
  (∀ (s : State) (h : HartId) (k : StKind) (virt : Virt) (rs2 rs1 : Fin 32) (imm : BitVec 12) (a : Ahead),
    exec (.store h k virt rs2 rs1 imm (.ahead a)) s = .next (s.storeAhead h a) ∧ (isT h = false → s.storeAhead h a = s))

/-- Where a piece of the oldest store of a hart is for a TCM whose words hold no error, STORE_DRAIN of that piece writes its bytes and takes it out
of the buffer: every byte of the TCMs outside the piece reads as before, the bytes of the piece read the store's data, the other memories are
unchanged, and nothing else of the package changes. A drain of two stores is, on a T-core whose first store has left the buffer, one drain after the
other, and one drain otherwise. (R92; R107; R114; R139) -/
def Obligations.TcmStoreDrain : Prop :=
  (∀ (s : State) (h : HartId) (e : SbEntry) (rest : List SbEntry) (k : Fin 64) (p : SbPart), (s.hart h).sb = e :: rest → e.retired = true → s.phase = .run →
    (s.hart h).writeWaits e.seq = false → e.parts[k.val % e.parts.length]? = some p → p.region = .tcm →
    s.tcmBad (tcmKey h p.pa) p.size 1 = [] → s.tcmBad (tcmKey h p.pa) p.size 2 = [] →
    ∃ t, exec (.storeDrain ⟨h, false, k⟩) s = .next t ∧
      (∀ a, memByte t.mem.tcm a = if tcmKey h p.pa ≤ a ∧ a < tcmKey h p.pa + p.size
        then BitVec.ofNat 8 (e.bytesOf p >>> (8 * (a - tcmKey h p.pa))) else memByte s.mem.tcm a) ∧
      (∀ w, tabGet 0 t.mem.tcmErr w = tabGet 0 s.mem.tcmErr w) ∧
      t.hart h = (s.hart h).popPart p ∧ (∀ g, g ≠ h → t.hart g = s.hart g) ∧
      t = { s with tcores := t.tcores, scores := t.scores, mem := { s.mem with tcm := t.mem.tcm, tcmErr := t.mem.tcmErr } }) ∧
  ∀ (s u : State) (h : HartId) (k : Fin 64), exec (.storeDrain ⟨h, false, k⟩) s = .next u →
    exec (.storeDrain ⟨h, true, k⟩) s = if isT h = true ∧ (u.hart h).sb.length < (s.hart h).sb.length then exec (.storeDrain ⟨h, false, k⟩) u else .next u

/-- Where the line of a piece of the oldest store is held writable and may become dirty, STORE_DRAIN writes the line and takes the piece out of the
buffer; where it is not held, the request for it is sent. An uncached piece with a free tag is sent as one WriteNC and tracked until its
acknowledgement; one that completes at the requester leaves the buffer at once. STREAM_END_TIMEOUT ends the stream of its slot. (R26; R92; R135;
R145; R147; R148; R180; R464) -/
def Obligations.StoreDrainsBeyondTheCore : Prop :=
  (∀ (s : State) (h : HartId) (e : SbEntry) (rest : List SbEntry) (k : Fin 64) (p : SbPart), (s.hart h).sb = e :: rest → e.retired = true → s.phase = .run →
    (s.hart h).writeWaits e.seq = false → e.parts[k.val % e.parts.length]? = some p →
    let la := paLa p.pa
    let ln := lineOf la
    let a := agentOf h
    let m := maskOf (la % 64) p.size
    let claim := e.zero || (isT h && (s.l2 a ln).st == .i && s.claims a ln)
    (p.region = .cached → s.missFailed a ln = false →
      (∀ u, s.own h ln 0 claim = none → s.dirty h la (atOffset (la % 64) (e.bytesOf p)) m p.held = some u →
        exec (.storeDrain ⟨h, false, k⟩) s = .next ((u.setHart h ((u.hart h).popPart p)).trainStream h ln m)) ∧
      (∀ u, s.own h ln 0 claim = some u → exec (.storeDrain ⟨h, false, k⟩) s = .next (u.trainL2 h ln true))) ∧
    (p.region.uncached = true →
      (s.dest p.pa p.tmo true = .done 0 → exec (.storeDrain ⟨h, false, k⟩) s = .next (s.setHart h ((s.hart h).popPart p))) ∧
      (∀ (nd : Node) (rpkg limit tag : Nat), s.dest p.pa p.tmo true = .node nd rpkg limit → s.guarRoom h = true → (s.hart h).writeTag (isT h) = some tag →
        ∃ t, exec (.storeDrain ⟨h, false, k⟩) s = .next t ∧
          t.hart h = { ((s.hart h).useTag tag).popPart p with track := (s.hart h).track ++ [{
            tag := tag, pa := p.pa, size := p.size, stop := if s.isLocal p.pa = true then nodeStop nd else 1000 + paPkg p.pa, remote := !(s.isLocal p.pa),
            ewa := s.isLocal p.pa && p.ewa, deadline := s.time + limit, seq := e.seq }] } ∧
          t.mesh = (s.send (s.hartClass h { ncFlit .writeNc (hartNode h) nd la tag rpkg m with
            data := some (atOffset (la % 64) (e.bytesOf p)), ewa := s.isLocal p.pa && p.ewa, tmo := p.tmo })).mesh ∧
          (∀ g, g ≠ h → t.hart g = s.hart g) ∧ t = { s with tcores := t.tcores, scores := t.scores, mesh := t.mesh }))) ∧
  (∀ (s : State) (h : HartId) (k : Fin 8) (e : Stream), (s.coh.streams.find? fun x => isT h && x.agent == agentOf h && x.slot == k.val) = some e →
    exec (.streamEndTimeout h k) s = .next ((s.dropStream (agentOf h) k.val).setHart h { s.hart h with clock := max (s.hart h).clock (e.since + 512) }))

/-- An aligned atomic with an empty store buffer, behind no fence that waits, whose bytes pass every check completes where its bytes are at hand
(loads that went ahead of it and whose line has left the L1 since are squashed): an AMO returns the old value and stores its function's result, LR
returns the value and takes the reservation on the block with the exact address and size, SC with a matching reservation stores and returns 0,
without one it stores nothing and returns 1, and either way the reservation is gone; AMOCAS returns the old value and stores where it equals the
comparand. An AMO or AMOCAS of an address that is not cached is sent to its target. LR_DEFERRAL_EXPIRY ends the deferral of snoops and keeps the
reservation. (R91; R94; R140; R141; R142; R143; R144; R530) -/
def Obligations.AtomicsComplete : Prop :=
  (∀ (s : State) (h : HartId) (fn : AmoFn) (size : AccSize) (rd rs2 rs1 : Fin 32) (p : Part), s.issues h = true →
    let n := accBytes size
    let va := (s.hart h).getX rs1.val
    let c := (s.hart h).squashEarly (·.lost)
    let q := s.setHart h c
    let v := ((s.hart h).getX rs2.val).toNat
    let k := tcmKey h p.pa
    va.toNat % n = 0 → (s.hart h).sb = [] → (s.hart h).writeWaits (s.hart h).seq = false → s.addrTrig h 1 va = none → s.prep h .no .store va n n = .parts [p] → p.tgt.io = false →
    (p.tgt.region = .tcm → s.tcmBad k n 1 = [] → s.tcmBad k n 2 = [] →
      ∃ t, exec (.amo h fn size rd rs2 rs1) s = .next t ∧
        hartBecomes (q.writeTcm h p.pa n (amoValue fn n (memRead s.mem.tcm k n) (v % 2 ^ (8 * n)) 0)) t h
          ((c.setX rd.val (sext (8 * n) (memRead s.mem.tcm k n))).past 4)) ∧
    (∀ u, p.tgt.region = .cached → s.missFailed (agentOf h) (lineOf (paLa p.pa)) = false →
      let l := s.l2 (agentOf h) (lineOf (paLa p.pa))
      let old := lineBytes l.data (paLa p.pa % 64) n
      q.own h (lineOf (paLa p.pa)) (maskOf (paLa p.pa % 64) n) false = none → l.poison = false →
      q.dirty h (paLa p.pa) (atOffset (paLa p.pa % 64) (amoValue fn n old (v % 2 ^ (8 * n)) 0)) (maskOf (paLa p.pa % 64) n) p.tgt.held = some u →
      ∃ t, exec (.amo h fn size rd rs2 rs1) s = .next t ∧ hartBecomes u t h (((u.hart h).setX rd.val (sext (8 * n) old)).past 4)) ∧
    (p.tgt.region.uncached = true → exec (.amo h fn size rd rs2 rs1) s = .next (q.atomicFar h p (.amo rd.val n) (amoEdit fn n (paLa p.pa) v)))) ∧
  (∀ (s : State) (h : HartId) (size : AccSize) (rd rs1 : Fin 32) (p : Part), s.issues h = true →
    let n := accBytes size
    let va := (s.hart h).getX rs1.val
    let c := (s.hart h).squashEarly (·.lost)
    let q := s.setHart h c
    let k := tcmKey h p.pa
    let resv (d : Bool) : Option Resv := some { block := paLa p.pa / 128, pa := p.pa, size := n, deferring := d }
    va.toNat % n = 0 → (s.hart h).sb = [] → (s.hart h).writeWaits (s.hart h).seq = false → s.addrTrig h 0 va = none → s.prep h .no .load va n n = .parts [p] → p.tgt.io = false →
    (p.tgt.region = .tcm → s.tcmBad k n 1 = [] → s.tcmBad k n 2 = [] →
      ∃ t, exec (.lr h size rd rs1) s = .next t ∧
        hartBecomes s t h ({ c.setX rd.val (sext (8 * n) (memRead s.mem.tcm k n)) with resv := resv false }.past 4)) ∧
    (p.tgt.region = .cached → s.missFailed (agentOf h) (lineOf (paLa p.pa)) = false →
      q.own h (lineOf (paLa p.pa)) (maskOf (paLa p.pa % 64) n) false = none → (s.l2 (agentOf h) (lineOf (paLa p.pa))).poison = false →
      ∃ t, exec (.lr h size rd rs1) s = .next t ∧ hartBecomes s t h
        ({ c.setX rd.val (sext (8 * n) (lineBytes (s.l2 (agentOf h) (lineOf (paLa p.pa))).data (paLa p.pa % 64) n)) with resv := resv true }.past 4))) ∧
  (∀ (s : State) (h : HartId) (size : AccSize) (rd rs2 rs1 : Fin 32) (p : Part), s.issues h = true →
    let n := accBytes size
    let va := (s.hart h).getX rs1.val
    let c := (s.hart h).squashEarly (·.lost)
    let q := s.setHart h c
    let v := ((s.hart h).getX rs2.val).toNat % 2 ^ (8 * n)
    let ok := (s.hart h).resv.any fun r => r.pa == p.pa && r.size == n
    va.toNat % n = 0 → (s.hart h).sb = [] → (s.hart h).writeWaits (s.hart h).seq = false → s.addrTrig h 1 va = none → s.prep h .no .store va n n = .parts [p] → p.tgt.io = false →
    p.tgt.region.uncached = false →
    (ok = false → ∃ t, exec (.sc h size rd rs2 rs1) s = .next t ∧ hartBecomes s t h ({ c.setX rd.val 1 with resv := none }.past 4)) ∧
    (ok = true → p.tgt.region = .tcm → s.tcmBad (tcmKey h p.pa) n 1 = [] → s.tcmBad (tcmKey h p.pa) n 2 = [] →
      ∃ t, exec (.sc h size rd rs2 rs1) s = .next t ∧
        hartBecomes (q.writeTcm h p.pa n v) t h ({ c.setX rd.val 0 with resv := none }.past 4)) ∧
    (∀ u, ok = true → p.tgt.region = .cached → s.missFailed (agentOf h) (lineOf (paLa p.pa)) = false →
      q.own h (lineOf (paLa p.pa)) (maskOf (paLa p.pa % 64) n) false = none → (s.l2 (agentOf h) (lineOf (paLa p.pa))).poison = false →
      q.dirty h (paLa p.pa) (atOffset (paLa p.pa % 64) v) (maskOf (paLa p.pa % 64) n) p.tgt.held = some u →
      ∃ t, exec (.sc h size rd rs2 rs1) s = .next t ∧ hartBecomes u t h ({ (u.hart h).setX rd.val 0 with resv := none }.past 4))) ∧
  (∀ (s : State) (h : HartId) (bytes : Nat) (rd rs2 rs1 : Fin 32) (p : Part), s.issues h = true → isT h = true →
    (Instr.amocas h bytes rd rs2 rs1).wf = true →
    let va := (s.hart h).getX rs1.val
    let c := (s.hart h).squashEarly (·.lost)
    let q := s.setHart h c
    let k := tcmKey h p.pa
    let cmp := (s.hart h).pairX rd.val bytes
    let v := (s.hart h).pairX rs2.val bytes
    va.toNat % bytes = 0 → (s.hart h).sb = [] → (s.hart h).writeWaits (s.hart h).seq = false → s.addrTrig h 1 va = none → s.prep h .no .store va bytes bytes = .parts [p] → p.tgt.io = false →
    (p.tgt.region = .tcm → s.tcmBad k bytes 1 = [] → s.tcmBad k bytes 2 = [] →
      ∃ t, exec (.amocas h bytes rd rs2 rs1) s = .next t ∧
        hartBecomes (if memRead s.mem.tcm k bytes = cmp then q.writeTcm h p.pa bytes v else q) t h
          ((c.setPair rd.val bytes (memRead s.mem.tcm k bytes)).past 4)) ∧
    (p.tgt.region = .cached → s.missFailed (agentOf h) (lineOf (paLa p.pa)) = false →
      let l := s.l2 (agentOf h) (lineOf (paLa p.pa))
      let old := lineBytes l.data (paLa p.pa % 64) bytes
      q.own h (lineOf (paLa p.pa)) (maskOf (paLa p.pa % 64) bytes) false = none → l.poison = false →
      (old ≠ cmp → ∃ t, exec (.amocas h bytes rd rs2 rs1) s = .next t ∧ hartBecomes s t h ((c.setPair rd.val bytes old).past 4)) ∧
      (∀ u, old = cmp → q.dirty h (paLa p.pa) (atOffset (paLa p.pa % 64) v) (maskOf (paLa p.pa % 64) bytes) p.tgt.held = some u →
        ∃ t, exec (.amocas h bytes rd rs2 rs1) s = .next t ∧ hartBecomes u t h (((u.hart h).setPair rd.val bytes old).past 4))) ∧
    (p.tgt.region.uncached = true → bytes ≠ 16 → exec (.amocas h bytes rd rs2 rs1) s = .next (q.atomicFar h p (.amo rd.val bytes) fun f =>
      { f with fn := .cas, size := bytes, data := some (atOffset (paLa p.pa % 64) v ||| atOffset (casOffset (paLa p.pa % 64)) cmp) }))) ∧
  (∀ (s : State) (h : HartId), exec (.lrDeferralExpiry h) s =
    .next (s.setHart h { s.hart h with resv := (s.hart h).resv.map fun r => { r with deferring := false } }))

/-- A walk that reads its PTE faults where the address check, an error or poison of the read, the PTE's V bit, a reserved encoding or the
permissions refuse it, ending the walk with the fault held; while the line of the PTE is not held the walk waits for it; a table PTE of a single
stage takes it one level down; a 4 KiB leaf with A set, and D where needed, fills the L2 TLB and the L1 TLB of its access with its page and ends the
walk, with memory and caches as the read left them. An A/D update writes the PTE with A, and D where needed, when the held line still holds the PTE
that was read, and otherwise the walk starts again; in C = 0 memory it sends a compare-and-swap to the home slice and goes on by the answer. An
access that misses its L1 TLB takes the entry of the L2 TLB, or starts a walk. A fence executed by a T-core with its stores drained removes exactly
the entries that its address, ASID and VMID name, every walk and what was read ahead; with stores undrained it waits; in U-mode and on an S-core it
is an illegal instruction. (R266; R269; R270; R272; R273; R275; R276; R277; R278; R281; R282; R283) -/
def Obligations.WalksAndFencesComplete : Prop :=
  (∀ (s : State) (h : HartId) (k : Nat) (err : Bool), let c := s.hart h
    ((∀ w ∈ c.walks, w.id ≠ k ∨ w.upd.isSome = true) → exec (.walkPteReadDone h k err) s = .next s) ∧
    (∀ w, (c.walks.find? fun w => w.id == k && w.upd.isNone) = some w → w.live = true →
      let faultsOn (u : State) (cause : Nat) : Prop := ∃ t f, exec (.walkPteReadDone h k err) s = .next t ∧ (t.hart h).wfaults = (u.hart h).wfaults ++ [f] ∧ f.va = w.va ∧
        f.acc = w.acc ∧ f.cause = cause ∧ (∀ x, x ∈ (t.hart h).walks ↔ x ∈ (u.hart h).walks ∧ x.id ≠ w.id) ∧ (t.hart h).tlb = (u.hart h).tlb ∧ (t.hart h).itlb = (u.hart h).itlb ∧ (t.hart h).dtlb = (u.hart h).dtlb ∧
        (∀ g, g ≠ h → t.hart g = u.hart g) ∧ t.mem = u.mem ∧ t.coh = u.coh
      (w.beyond c = true → faultsOn s (guestFault w.acc)) ∧
      (w.beyond c = false → (s.pteCheck h w.ptea).isSome = true → faultsOn s (accessFault w.acc)) ∧
      (w.beyond c = false → s.pteCheck h w.ptea = none → err = true → faultsOn s (accessFault w.acc)) ∧
      (w.beyond c = false → s.pteCheck h w.ptea = none → err = false →
        (∀ u, s.pteRead h w = .wait u → exec (.walkPteReadDone h k err) s = .next u) ∧
        (∀ u, s.pteRead h w = .poison u → faultsOn u (accessFault w.acc)) ∧
        (∀ u, s.pteRead h w = .tcmError u → faultsOn u (accessFault w.acc))) ∧
      (∀ v u, w.beyond c = false → s.pteCheck h w.ptea = none → err = false → s.pteRead h w = .value v u → w.stage ≠ .g →
        let p := BitVec.ofNat 64 v
        let d := u.hart h
        let faults := faultsOn u
        (p.getLsbD 0 = false ∨ pteReserved p w.level = true → faults (pageFault w.acc)) ∧
        (p.getLsbD 0 = true → pteReserved p w.level = false → p.getLsbD 1 = false → p.getLsbD 3 = false → w.stage = .single →
          ∃ t x, exec (.walkPteReadDone h k err) s = .next t ∧ x = { w with level := w.level - 1, ptea := pteAddr (fld p 53 10) w.va.toNat (w.level - 1) false, got := none } ∧
            (t.hart h).walks = d.walks.map (fun y => if y.id = w.id then x else y) ∧ (t.hart h).tlb = d.tlb ∧ t.mem = u.mem ∧ t.coh = u.coh) ∧
        (p.getLsbD 0 = true → pteReserved p 0 = false → (p.getLsbD 1 || p.getLsbD 3) = true → w.stage = .single → w.level = 0 → w.adw = false → w.outer = none →
          let ok := leafOk (p.getLsbD 1) (p.getLsbD 2) (p.getLsbD 3) (p.getLsbD 4) w.acc (modePrv w.eff == 0) w.sum w.mxr w.hlvx
          (ok = false → faults (pageFault w.acc)) ∧
          (ok = true → p.getLsbD 6 = true → (w.acc = .store → p.getLsbD 7 = true) →
            ∃ t e, exec (.walkPteReadDone h k err) s = .next t ∧ (t.hart h).tlb.head? = some e ∧ ((t.hart h).l1Tlb w.acc).head? = some e ∧ e.regime = .single ∧ e.vpn = w.va.toNat / 4096 ∧ e.level = 0 ∧
              e.ppn = fld p 53 10 ∧ e.r = p.getLsbD 1 ∧ e.w = p.getLsbD 2 ∧ e.x = p.getLsbD 3 ∧ e.u = p.getLsbD 4 ∧ e.g = p.getLsbD 5 ∧ e.d = p.getLsbD 7 ∧ e.asid = w.asid ∧
              (∀ x, x ∈ (t.hart h).walks ↔ x ∈ d.walks ∧ x.id ≠ w.id) ∧ (t.hart h).wfaults = d.wfaults ∧ t.mem = u.mem ∧ t.coh = u.coh) ∧
          (ok = true → p.getLsbD 6 = false ∨ (w.acc = .store ∧ p.getLsbD 7 = false) → d.csrBit 0x30A 61 = false → faults (pageFault w.acc)))))) ∧
  (∀ (s : State) (h : HartId) (k : Nat), let c := s.hart h
    ((∀ w, (c.walks.find? fun w => w.id == k) = some w → w.upd = none) → exec (.adUpdate h k) s = .next s) ∧
    (∀ w p e, (c.walks.find? fun w => w.id == k) = some w → w.upd = some p → c.pmpOk 1 w.ptea 8 1 = true → pmaFind s.pma.masters (paLa w.ptea) true = some e →
      w.stage = .single → w.ptea % 8 = 0 → w.live = true →
      let la := paLa w.ptea
      let ln := lineOf la
      let l := s.l2 (agentOf h) ln
      let again : Prop := ∃ t x, exec (.adUpdate h k) s = .next t ∧ x.id = w.id ∧ x.upd = none ∧ x.va = w.va ∧ x.acc = w.acc ∧
        (t.hart h).walks = c.walks.map (fun y => if y.id = w.id then x else y) ∧ t.mem = s.mem ∧ t.coh = s.coh
      (s.pteCached w.ptea = false →
        (w.got = none → exec (.adUpdate h k) s = .next (s.pteAsk h w .atomicNc fun f => { f with
          fn := .cas, size := 8, data := some (atOffset (w.ptea % 64) (w.newPte p).toNat ||| atOffset (casOffset (w.ptea % 64)) p.toNat) })) ∧
        (∀ a, w.got = some a → a.err = false → a.poison = false →
          (a.value = p.toNat → ∃ t, exec (.adUpdate h k) s = .next t ∧ (∀ x, x ∈ (t.hart h).walks ↔ x ∈ c.walks ∧ x.id ≠ w.id) ∧ t.mem = s.mem ∧ t.coh = s.coh) ∧
          (a.value ≠ p.toNat → again))) ∧
      (s.pteCached w.ptea = true → e.held = false → l.writable = true → s.mshr (agentOf h) ln = none → l.mask &&& maskOf (la % 64) 8 = maskOf (la % 64) 8 → l.poison = false →
        (lineBytes l.data (la % 64) 8 = p.toNat → ∃ t, exec (.adUpdate h k) s = .next t ∧ (t.l2 (agentOf h) ln).st = .m ∧
          lineBytes (t.l2 (agentOf h) ln).data (la % 64) 8 = (w.newPte p).toNat ∧ (∀ x, x ∈ (t.hart h).walks ↔ x ∈ c.walks ∧ x.id ≠ w.id) ∧ t.mem = s.mem) ∧
        (lineBytes l.data (la % 64) 8 ≠ p.toNat → again)))) ∧
  (∀ (s : State) (h : HartId) (w : Walk), let c := s.hart h
    (∀ e, c.leafIn c.tlb w.va w.acc w.eff w.hlvx = some e → hartBecomes s (s.tlbMiss h w) h (c.fillL1 w.acc e)) ∧
    (c.leafIn c.tlb w.va w.acc w.eff w.hlvx = none → hartBecomes s (s.tlbMiss h w) h (c.startWalk w))) ∧
  (∀ (s : State) (h : HartId) (rs1 rs2 : Fin 32), s.issues h = true → let c := s.hart h
    let fences (i : Instr) (gone : TlbEntry → Prop) : Prop := ∃ (t : State) (d : Hart), exec i s = .next t ∧ hartBecomes s t h (d.past 4) ∧
      d = { c with itlb := d.itlb, dtlb := d.dtlb, tlb := d.tlb, wcache := d.wcache, gcache := d.gcache, walks := [], wfaults := [], early := [] } ∧ (∀ e, e ∈ d.tlb ↔ e ∈ c.tlb ∧ ¬gone e) ∧
      (∀ e, e ∈ d.itlb ↔ e ∈ c.itlb ∧ ¬gone e) ∧ (∀ e, e ∈ d.dtlb ↔ e ∈ c.dtlb ∧ ¬gone e) ∧
      ∀ e ∈ d.wcache, e ∈ c.wcache
    let va := c.opt rs1 (2 ^ 64)
    let asid := c.opt rs2 (2 ^ 16)
    let named (rg : Regime) (e : TlbEntry) : Prop := e.regime = rg ∧ (rg = .vs → e.vmid = c.vmid) ∧ e.covers va = true ∧ ∀ a, asid = some a → e.asid = a ∧ e.g = false
    (isT h = false ∨ c.mode = .u → exec (.sfenceVma h rs1 rs2) s = .next (s.trap h (excep 2 0)) ∧ exec (.hfenceVvma h rs1 rs2) s = .next (s.trap h (excep 2 0)) ∧
      exec (.hfenceGvma h rs1 rs2) s = .next (s.trap h (excep 2 0))) ∧
    (isT h = true → c.quiet = false → (c.mode = .m ∨ (c.mode = .hs ∧ c.csrBit 0x300 20 = false)) →
      exec (.sfenceVma h rs1 rs2) s = .next s ∧ exec (.hfenceVvma h rs1 rs2) s = .next s ∧ exec (.hfenceGvma h rs1 rs2) s = .next s) ∧
    (isT h = true → c.quiet = true →
      (c.mode = .m ∨ (c.mode = .hs ∧ c.csrBit 0x300 20 = false) → fences (.sfenceVma h rs1 rs2) (named .single) ∧
        fences (.hfenceGvma h rs1 rs2) fun e => e.regime ≠ .single ∧ (∀ v, c.opt rs2 (2 ^ 14) = some v → e.vmid = v) ∧
          ∀ a, c.opt rs1 (2 ^ 62) = some a → e.gppn / 2 ^ (9 * e.level) = 4 * a / 4096 / 2 ^ (9 * e.level)) ∧
      (c.mode = .m ∨ c.mode = .hs → fences (.hfenceVvma h rs1 rs2) (named .vs)) ∧
      (c.mode = .vs → c.csrBit 0x600 20 = false → fences (.sfenceVma h rs1 rs2) (named .vs))))

/-- FENCE, FENCE.TSO and XFENCE.P retire at once when every store and write that their sets name has drained and been acknowledged. Otherwise, on a
T-core, one that orders no read and no cacheable store after older writes retires and its place is noted, behind which younger writes wait; any
other records its wait and issues nothing. A fence that orders reads squashes what was read ahead: all of it where it orders them after writes, and
else the loads whose line has left the L1 since. FENCE_WAIT_END retires a fence whose wait is over; FENCE.I retires when the store buffer is empty,
and drops what was read ahead. Nothing else changes but what counting changes. (R56; R96; R111; R134; R149; R150; R151; R152) -/
def Obligations.FencesComplete : Prop :=
  (∀ (s : State) (h : HartId) (i : Instr) (w : FenceWait) (c : Hart), s.issues h = true →
    (∃ pred succ, i = .fence h pred succ ∧ c = s.hart h ∧
      w = { writes := pred.o || pred.w, cached := pred.i || pred.r || (succ.i || succ.r), posted := false, reads := succ.i || succ.r, cost := w.cost }) ∨
      (i = .fenceTso h ∧ c = (if isT h = true then (s.hart h).squashEarly (·.lost) else s.hart h) ∧
        w = { writes := true, cached := false, posted := false, reads := false, cost := w.cost }) ∨
      (i = .xfenceP h ∧ c = s.hart h ∧ w = { writes := true, cached := true, posted := true, reads := true, cost := w.cost }) →
    (c.fenceReady w = true → ∃ t, exec i s = .next t ∧ hartBecomes s t h ((c.fencePassed w).past 4)) ∧
    (c.fenceReady w = false → isT h = true → w.cached = false →
      ∃ t, exec i s = .next t ∧ hartBecomes s t h ({ c with wfences := c.wfences ++ [c.seq] }.past 4)) ∧
    (c.fenceReady w = false → isT h = false ∨ w.cached = true →
      ∃ t k, exec i s = .next t ∧ onlyHart s t h ∧ (t.hart h).fence = some { w with cost := k } ∧ hartIs t h { c with fence := (t.hart h).fence })) ∧
  (∀ (s : State) (h : HartId) (w : FenceWait), (s.hart h).fence = some w → (s.hart h).fenceReady w = true → s.phase = .run →
    (s.hart h).stopped = false → (s.hart h).halted = false → (s.hart h).held = false → (s.hart h).fatal = false →
    ∃ t, exec (.fenceWaitEnd h) s = .next t ∧ hartBecomes s t h ({ (s.hart h).fencePassed w with fence := none }.past 4)) ∧
  (∀ (s : State) (h : HartId), s.issues h = true → (s.hart h).sb = [] → ∃ t, exec (.fenceI h) s = .next t ∧ hartBecomes s t h ((s.hart h).dropEarly.past 4))

/-- Where envcfg permits a cache-block operation on a block that passes its checks with the store buffer empty, CBO.CLEAN, CBO.FLUSH and CBO.INVAL
send the clean operation of the line and wait for its end, and retire at once on an address that is not local cacheable memory; CBO.ZERO puts a
store of 64 zero bytes into the buffer. XWAY.CLEAN and XBR.DRAIN write back the dirty lines that they name and retire at once where there is none;
XWAY.CINV takes the clean lines of its way out. A prefetch hint asks for a line that is absent and retires, and on an S-core or with HINTS = 0 does
nothing else. (R41; R54; R55; R183; R186; R187; R188) -/
def Obligations.CacheBlockOperationsComplete : Prop :=
  (∀ (s : State) (h : HartId) (rs1 : Fin 32) (i : Instr) (op : MsgOp) (p : Part), s.issues h = true → (s.hart h).sb = [] →
    (i = .cboClean h rs1 ∧ (s.hart h).cboBit (isT h) 6 = .ok ∧ op = .cleanKeep) ∨ (i = .cboFlush h rs1 ∧ (s.hart h).cboBit (isT h) 6 = .ok ∧ op = .cleanDrop) ∨
      (i = .cboInval h rs1 ∧ (s.hart h).cboInval (isT h) = .ok ∧ op = .discardLine) ∨ (i = .cboInval h rs1 ∧ (s.hart h).cboInval (isT h) = .flush ∧ op = .cleanDrop) →
    s.addrTrig h 1 ((s.hart h).getX rs1.val) = none → s.prep h .no .load ((s.hart h).getX rs1.val &&& ~~~63) 64 1 = .parts [p] →
    (p.tgt.region ≠ .cached → ∃ t, exec i s = .next t ∧ hartBecomes s t h ((s.hart h).past 4)) ∧
    (p.tgt.region = .cached → s.canClean h (lineOf (paLa p.pa)) op = true →
      exec i s = .next ((s.sendClean h (lineOf (paLa p.pa)) op).updHart h fun c => c.waitLine (lineOf (paLa p.pa)) 4 1024 none))) ∧
  (∀ (s : State) (h : HartId) (rs1 : Fin 32) (ps : List Part), s.issues h = true → isT h = true → (s.hart h).cboBit true 7 = .ok → (s.hart h).sb = [] →
    s.addrTrig h 1 ((s.hart h).getX rs1.val) = none → s.prep h .no .store ((s.hart h).getX rs1.val &&& ~~~63) 64 1 = .parts ps →
    (ps.any fun p => p.tgt.io) = false → (s.hart h).violates (sbOf ps 0 (s.hart h).seq true) = none →
    ∃ t, exec (.cboZero h rs1) s = .next t ∧ t.mem = s.mem ∧
      hartBecomes s t h ({ s.hart h with sb := [sbOf ps 0 (s.hart h).seq true] }.past 4)) ∧
  (∀ (s : State) (h : HartId) (rs1 : Fin 32), s.issues h = true → (s.hart h).sb = [] → xwayLegal h (s.hart h) false = .ok →
    let w := ((s.hart h).getX rs1.val).toNat % 16
    let ls := (s.agentLines (agentOf h)).filter fun (_, l) => l.way.val == w
    exec (.xwayClean h rs1) s = .next (s.drainLines h (fun _ l => l.way.val == w) 1025) ∧
    ((ls.any fun (_, l) => l.dirtyLine) = true → exec (.xwayCinv h rs1) s = .next (s.drainLines h (fun _ l => l.way.val == w) (1026 + w))) ∧
    ((ls.any fun (_, l) => l.dirtyLine) = false → exec (.xwayCinv h rs1) s = .next ((s.emptyWay (agentOf h) w).retire h 4 1))) ∧
  (∀ (s : State) (h : HartId), s.issues h = true → (s.hart h).sb = [] → xwayLegal h (s.hart h) true = .ok →
    exec (.xbrDrain h) s = .next (s.drainLines h (fun ln l => s.heldAt (64 * ln) && ownLine h l) 1025)) ∧
  (∀ (s : State) (h : HartId) (p : Nat → CLine → Bool) (len : Nat), (∀ q ∈ s.agentLines (agentOf h), q.2.dirtyLine = true → p q.1 q.2 = false) →
    hartBecomes s (s.drainLines h p len) h ((s.hart h).past 4)) ∧
  (∀ (s : State) (h : HartId) (k : PfKind) (rs1 : Fin 32) (imm : BitVec 12), s.issues h = true →
    let va := (s.hart h).getX rs1.val + imm.signExtend 64
    ((isT h = false ∨ (s.pfctlOf (agentOf h)).getLsbD 0 = false) → ∃ t, exec (.prefetchHint h k rs1 imm) s = .next t ∧ hartBecomes s t h ((s.hart h).past 4)) ∧
    (∀ p, isT h = true → (s.pfctlOf (agentOf h)).getLsbD 0 = true →
      s.prep h .no (match k with | .i => .fetch | _ => .load) va 1 1 = .parts [p] →
      let a := agentOf h
      let ln := lineOf (paLa p.pa)
      let asks := p.tgt.region = .cached ∧ (s.l2 a ln).st = .i ∧ s.mshr a ln = none ∧ s.prefetchable ln = true ∧ (k = .w → s.prefetchW h va p.pa = true)
      let u := s.request a ln (if k = .w then .lineOwn else .lineRead) none
      (asks → (u.mshr a ln).isSome = true → exec (.prefetchHint h k rs1 imm) s = .next (u.retire h 4 1)) ∧
      (asks → u.mshr a ln = none → exec (.prefetchHint h k rs1 imm) s = .next (u.waits h)) ∧
      (¬asks → ∃ t, exec (.prefetchHint h k rs1 imm) s = .next t ∧ hartBecomes s t h ((s.hart h).past 4))))

/-- A LineRead or PrefetchRead of a line in the L3 that no agent holds grants it in E with the L3's data and records the requester; a LineOwn or
PrefetchOwn grants it in M with data and token where the L3 copy is dirty and in E otherwise, and takes the L3 copy away; a LinePromote of a holder
of an otherwise unheld line grants E, or M to the owner, without data; a LineClaim of an absent line grants E without data; a MaskFill answers with
the line's data and closes. A prefetch that finds more than 96 trackers in use is dropped. Nothing changes but the line at its home, the mesh and
counters. (R163; R165; R166; R167; R172; R181; R184) -/
def Obligations.LineRequestsGranted : Prop :=
  (∀ (s : State) (f : Flit) (i : Instr) (w : Fin 24), (i = .lineRead f ∧ f.op = .lineRead) ∨ (i = .prefetchRead f ∧ f.op = .prefetchRead) →
    let ln := lineOf f.addr.toNat
    s.homeFree f = true → s.sf ln = .empty → s.sfWay ln = some w → (s.l3 ln).valid = true →
    ∃ t g, exec i s = .next t ∧ homeOnly s t ln ∧ t.sf ln = sfOnly f.who true w ∧ t.l3 ln = { s.l3 ln with rrpv := 0 } ∧
      t.lastSent (nodeStop f.dst) = some g ∧ g.op = .dataGrant ∧ g.gst = .e ∧ g.data = some (s.l3 ln).data ∧ g.dst = f.src ∧ g.tag = f.tag ∧ g.token = false) ∧
  (∀ (s : State) (f : Flit) (i : Instr) (w : Fin 24), (i = .lineOwn f ∧ f.op = .lineOwn) ∨ (i = .prefetchOwn f ∧ f.op = .prefetchOwn) →
    let ln := lineOf f.addr.toNat
    let e := s.l3 ln
    s.homeFree f = true → s.sf ln = .empty → s.sfWay ln = some w → e.valid = true →
    ∃ t g, exec i s = .next t ∧ homeOnly s t ln ∧ t.sf ln = sfOnly f.who true w ∧ t.l3 ln = .invalid ∧
      t.lastSent (nodeStop f.dst) = some g ∧ g.op = .dataGrant ∧ g.gst = (if e.dirty = true then .m else .e) ∧ g.data = some e.data ∧ g.dst = f.src ∧
      g.token = (e.dirty && e.token)) ∧
  (∀ (s : State) (f : Flit) (o : Option Nat) (w : Fin 24), f.op = .linePromote →
    let ln := lineOf f.addr.toNat
    s.homeFree f = true → s.sf ln = { holders := [f.who], owner := o, coarse := none, way := w } → (o = none ∨ o = some f.who) → (s.l3 ln).dirty = false → (s.l3 ln).token = false →
    ∃ t g, exec (.linePromote f) s = .next t ∧ homeOnly s t ln ∧ t.sf ln = sfOnly f.who true w ∧ t.l3 ln = .invalid ∧
      t.lastSent (nodeStop f.dst) = some g ∧ g.op = .grant ∧ g.gst = (if o = none then .e else .m) ∧ g.data = none ∧ g.dst = f.src) ∧
  (∀ (s : State) (f : Flit) (w : Fin 24), f.op = .lineClaim →
    let ln := lineOf f.addr.toNat
    s.homeFree f = true → s.sf ln = .empty → s.sfWay ln = some w → (s.l3 ln).valid = false →
    ∃ t g, exec (.lineClaim f) s = .next t ∧ homeOnly s t ln ∧ t.sf ln = sfOnly f.who true w ∧
      t.lastSent (nodeStop f.dst) = some g ∧ g.op = .grant ∧ g.gst = .e ∧ g.data = none ∧ g.dst = f.src) ∧
  (∀ (s : State) (f : Flit), f.op = .maskFill →
    let ln := lineOf f.addr.toNat
    s.homeFree f = true → (s.l3 ln).valid = true →
    ∃ t g, exec (.maskFill f) s = .next t ∧ homeOnly s t ln ∧ t.txn ln = none ∧ t.sf ln = s.sf ln ∧ t.l3 ln = { s.l3 ln with rrpv := 0 } ∧
      t.lastSent (nodeStop f.dst) = some g ∧ g.op = .dataGrant ∧ g.data = some (s.l3 ln).data ∧ g.dst = f.src) ∧
  (∀ (s : State) (f : Flit) (i : Instr), (i = .prefetchRead f ∧ f.op = .prefetchRead) ∨ (i = .prefetchOwn f ∧ f.op = .prefetchOwn) →
    s.flitTurn f = true → s.guarFirst f = false → 96 < s.trackers (homeSlice (64 * lineOf f.addr.toNat)) →
    ∃ t g, exec i s = .next t ∧ t.coh = s.coh ∧ t.lastSent (nodeStop f.dst) = some g ∧ g.op = .dropped ∧ g.dst = f.src)

/-- A CleanKeep, CleanDrop or DiscardLine of a line that is dirty nowhere is granted at once and closes; CleanDrop and DiscardLine leave no copy
recorded and none in the L3. A ReturnDirty from the line's owner with every byte is kept dirty in a free way of the L3 and acknowledged, one that a
snoop has overtaken is acknowledged as superseded and changes nothing; a ReturnClean removes the holder. HOME_TRANSACTION_OPEN opens the oldest
waiting request of a line with no transaction. (R163; R165; R167; R187; R188; R194) -/
def Obligations.CleanOperationsAnswered : Prop :=
  (∀ (s : State) (f : Flit) (i : Instr), (i = .cleanKeep f ∧ f.op = .cleanKeep) ∨ (i = .cleanDrop f ∧ f.op = .cleanDrop) ∨ (i = .discardLine f ∧ f.op = .discardLine) →
    let ln := lineOf f.addr.toNat
    s.homeFree f = true → (s.sf ln).owner = none → ((s.sf ln).agents.filter fun a => decide (a ≠ f.who)) = [] → f.data = none →
    (s.l3 ln).dirty = false → (s.l3 ln).token = false →
    ∃ t g, exec i s = .next t ∧ homeOnly s t ln ∧ t.txn ln = none ∧
      (f.op = .cleanKeep → t.sf ln = (s.sf ln).cleaned f [] ∧ t.l3 ln = s.l3 ln) ∧ (f.op ≠ .cleanKeep → t.sf ln = .empty ∧ t.l3 ln = .invalid) ∧
      t.lastSent (nodeStop f.dst) = some g ∧ g.op = .grant ∧ g.data = none ∧ g.dst = f.src) ∧
  (∀ (s : State) (f : Flit) (w : Fin 16), f.op = .returnDirty →
    let ln := lineOf f.addr.toNat
    s.homeTakes f = true → (s.sf ln).owner = some f.who → f.mask = BitVec.allOnes 64 → f.fwd = false → s.heldAt (64 * ln) = false →
    (s.l3 ln).valid = false → (s.coh.vb.filter fun v => v.la == 64 * ln) = [] →
    ((s.openWays (homeSlice (64 * ln))).find? fun w => (inWay (s.l3Set ln) w).isNone) = some w →
    ∃ t g, exec (.returnDirty f) s = .next t ∧ homeOnly s t ln ∧ t.txn ln = none ∧ t.sf ln = (s.sf ln).drop f.who ∧
      t.l3 ln = { valid := true, dirty := true, data := f.data.getD 0, poison := f.poison, token := f.token, rrpv := 1, way := w } ∧
      t.lastSent (nodeStop f.dst) = some g ∧ g.op = .returnAck ∧ g.fwd = false ∧ g.dst = f.src) ∧
  (∀ (s : State) (f : Flit), f.op = .returnDirty →
    let ln := lineOf f.addr.toNat
    s.homeTakes f = true → (s.sf ln).owner ≠ some f.who →
    ∃ t g, exec (.returnDirty f) s = .next t ∧ t.coh = s.coh ∧ t.lastSent (nodeStop f.dst) = some g ∧ g.op = .returnAck ∧ g.fwd = true ∧ g.dst = f.src) ∧
  (∀ (s : State) (f : Flit), f.op = .returnClean →
    let ln := lineOf f.addr.toNat
    s.homeTakes f = true → ∃ t, exec (.returnClean f) s = .next t ∧ homeOnly s t ln ∧ t.txn ln = none ∧ t.sf ln = (s.sf ln).drop f.who ∧ t.l3 ln = s.l3 ln) ∧
  (∀ (s u : State) (a : La) (f : Flit),
    let ln := lineOf a.toNat
    (s.coh.waitq.find? fun f => lineOf f.addr.toNat == ln) = some f → s.txn ln = none →
    ({ s with coh := { s.coh with waitq := s.coh.waitq.erase f } } : State).openTxn f ln = some u → exec (.homeTransactionOpen a) s = .next u)

/-- A ReadNC of a C = 1 line that the L3 holds and no agent owns is answered with its data; of a C = 0 line it asks memory. A WriteNC of a C = 0
line goes to its channel with its data and mask, loses reservations on its block, and is acknowledged at once and tracked to its endpoint where it
carries EWA = 1. An AtomicNC on an unheld C = 1 line in the L3 stores its function's result there and returns the old value. (R143; R145; R155;
R160; R169) -/
def Obligations.UncoherentRequestsServed : Prop :=
  (∀ (s : State) (f : Flit), f.op = .readNc →
    let ln := lineOf f.addr.toNat
    s.homeFree f = true → s.homeC f.addr.toNat = true → (s.sf ln).owner = none → (s.l3 ln).valid = true →
    ∃ t g, exec (.readNc f) s = .next t ∧ homeOnly s t ln ∧ t.txn ln = none ∧ t.l3 ln = { s.l3 ln with rrpv := 0 } ∧ t.sf ln = s.sf ln ∧
      t.lastSent (nodeStop f.dst) = some g ∧ g.op = .readReturn ∧ g.data = some (s.l3 ln).data ∧ g.dst = f.src ∧ g.tag = f.tag ∧
      g.sts = (if (s.l3 ln).poison = true then 4 else 0)) ∧
  (∀ (s : State) (f : Flit), f.op = .readNc →
    let ln := lineOf f.addr.toNat
    s.homeFree f = true → s.homeC f.addr.toNat = false →
    ∃ t g, exec (.readNc f) s = .next t ∧ homeOnly s t ln ∧ (t.txn ln).isSome = true ∧ t.lastSent (nodeStop (sliceNode (homeSlice (64 * ln)))) = some g ∧
      g.op = .memRead ∧ g.dst = chanNode (s.chanOf (64 * ln)) ∧ g.addr = BitVec.ofNat 47 (64 * ln)) ∧
  (∀ (s : State) (f : Flit) (d : Line), f.op = .writeNc →
    let ln := lineOf f.addr.toNat
    s.homeFree f = true → s.homeC f.addr.toNat = false → f.data = some d →
    ∃ t g, exec (.writeNc f) s = .next t ∧ (t.txn ln).isSome = true ∧ (∀ h, t.hart h = (s.hart h).loseResv (64 * ln)) ∧
      t.coh.l3 = s.coh.l3 ∧ t.coh.sf = s.coh.sf ∧ t.coh.l2 = s.coh.l2 ∧ t.mem = s.mem ∧
      (f.ewa = true → t.lastSent (nodeStop f.dst) = some g ∧ g.op = .writeDone ∧ g.dst = f.src ∧ g.tag = f.tag ∧
        t.mesh.ewa = s.mesh.ewa ++ [{ stop := sliceNode (homeSlice (64 * ln)), la := f.addr.toNat, req := f.src, rpkg := f.rpkg.val, tag := f.tag.toNat, deadline := s.time + f.tmo }]) ∧
      (f.ewa = false → t.lastSent (nodeStop (sliceNode (homeSlice (64 * ln)))) = some g ∧ t.mesh.ewa = s.mesh.ewa ∧
        g.op = (if f.mask = BitVec.allOnes 64 then .memWrite else .memWriteMasked) ∧ g.data = some d ∧ g.mask = f.mask ∧ g.dst = chanNode (s.chanOf (64 * ln)))) ∧
  (∀ (s : State) (f : Flit), f.op = .atomicNc → f.fn ≠ .cas →
    let ln := lineOf f.addr.toNat
    let e := s.l3 ln
    s.homeFree f = true → s.homeC f.addr.toNat = true → s.sf ln = .empty → s.heldAt (64 * ln) = false → e.valid = true → e.poison = false →
    (s.openWays (homeSlice (64 * ln))).contains e.way = true →
    ∃ t g, exec (.atomicNc f) s = .next t ∧ t.txn ln = none ∧ (∀ h, t.hart h = (s.hart h).loseResv (64 * ln)) ∧
      t.l3 ln = { e with dirty := true, data := (atomicLine f e.data).1, rrpv := 1 } ∧ t.sf ln = .empty ∧
      (∀ j, j ≠ ln → t.l3 j = s.l3 j ∧ t.sf j = s.sf j) ∧
      t.lastSent (nodeStop f.dst) = some g ∧ g.op = .readReturn ∧ g.dst = f.src ∧ g.data = some (atOffset (f.addr.toNat % 64) (atomicLine f e.data).2))

/-- A probe acts on the agent's line or, where it holds none, on its copy in the write-back buffer. A ProbeShare takes M to O and E to S and leaves
O and S; a ProbeTake or ProbeKill takes every state to I, with the L1 copies; a ProbeClean takes M to E and O to S and leaves E and S. On ProbeShare
and ProbeTake a holder in M, O or E with every byte forwards its data to the requester where the probe asks for that, and sends it home otherwise;
on ProbeKill and ProbeClean it sends M and O data home with the token, and for a DiscardLine discards the data and frees the token. A copy in the
write-back buffer comes home on ProbeShare and ProbeClean, marked as given up. Every answer carries the copy's former state, and an agent without a
copy answers a miss. A ProbeTake or ProbeKill of a block under a fresh reservation is deferred: nothing changes. (R144; R162; R166; R181; R194) -/
def Obligations.ProbesAnswered : Prop :=
  let holds (s t : State) (a ln : Nat) (d : CLine) : Prop :=
    t = { s with tcores := t.tcores, scores := t.scores, coh := { s.coh with l2 := t.coh.l2, wb := t.coh.wb }, mesh := t.mesh, brine := t.brine, irq := t.irq } ∧
    (∀ h, t.hart h = { s.hart h with dl1 := (t.hart h).dl1, il1 := (t.hart h).il1, resv := (t.hart h).resv, early := (t.hart h).early }) ∧
    if (s.l2 a ln).st = .i then t.coh.l2 = s.coh.l2 ∧ (t.holderLine a ln).st = d.st
    else t.coh.wb = s.coh.wb ∧ t.l2 a ln = (if d.st = .i then .invalid else d) ∧ (∀ b j, l2Key b j ≠ l2Key a ln → t.l2 b j = s.l2 b j) ∧
      (d.st = .i → ∀ h, agentOf h = a → (t.hart h).inD ln = false ∧ (t.hart h).inI ln = false)
  ∀ (s : State) (f : Flit) (a : Nat), agentOfNode f.dst = some a → s.flitTurn f = true →
    let ln := lineOf f.addr.toNat
    let c := s.holderLine a ln
    let wb : Bool := (s.l2 a ln).st == .i
    let direct : Bool := f.fwd && fullMask c.mask
    let k := nodeStop (agentNode a)
    let ack := answerFlit f .probeAck a c
    let gone : CLine := { c with st := .i }
    (∃ t, exec (.probeShare f) s = .next t ∧ t.brine = s.brine ∧ t.irq = s.irq ∧
      holds s t a ln (match c.st with | .m | .o => (if wb = true then gone else { c with st := .o }) | .e => (if wb = true then gone else { c with st := .s }) | _ => c) ∧
      t.lastSent k = some (match c.st with
        | .i | .s => ack
        | _ => if wb = true then { answerData f a c c.token with fwd := true } else if direct = true then ack else answerData f a c false) ∧
      (c.st ∈ [Moesi.m, .o, .e] → wb = false → direct = true → forwardFlit f a c .s false ∈ (tabGet [] t.mesh.inject k).map Prod.snd)) ∧
    (s.deferred a ln = false → ∃ t, exec (.probeTake f) s = .next t ∧ t.brine = s.brine ∧ t.irq = s.irq ∧ holds s t a ln gone ∧
      t.lastSent k = some (match c.st with | .i | .s => ack | _ => if direct = true then ack else answerData f a c c.token) ∧
      (c.st ∈ [Moesi.m, .o, .e] → direct = true → forwardFlit f a c (if c.st = .e then .e else .m) c.token ∈ (tabGet [] t.mesh.inject k).map Prod.snd)) ∧
    (s.deferred a ln = false → ∃ t, exec (.probeKill f) s = .next t ∧ holds s t a ln gone ∧
      t.brine = (s.freeTokenIf (c.dirtyLine && f.size == 1 && c.token)).brine ∧
      t.lastSent k = some (if c.dirtyLine = true ∧ f.size ≠ 1 then answerData f a c c.token else ack)) ∧
    (∃ t, exec (.probeClean f) s = .next t ∧ t.brine = s.brine ∧ t.irq = s.irq ∧
      holds s t a ln (if c.dirtyLine = true then { c with st := if wb = true then .i else if c.st = .m then .e else .s, token := false } else c) ∧
      t.lastSent k = some (if c.dirtyLine = true then { answerData f a c c.token with fwd := wb } else ack)) ∧
    (s.deferred a ln = true → exec (.probeTake f) s = .next s ∧ exec (.probeKill f) s = .next s)

/-- A DataGrant from the home with a free way installs the line in the state granted and sends GrantAck; a Grant raises a line that the agent holds,
or gives an empty line to a LineClaim, and sends GrantAck; after a clean operation it makes the agent's own copy clean and ends the wait of the
instruction. What waits at the agent goes on then. A probe's answer is struck off the transaction's list, which goes on when the list is empty.
GrantAck closes the transaction and retries those that wait at its slice. Dropped ends a prefetch's request, ReturnAck frees the write-back buffer's
entry, VICTIM_WRITE_ISSUE sends the oldest victim of the line to its channel, and VICTIM_ENTRY_FREED ends it. (R165; R166; R167; R177; R178; R179;
R184; R192; R194) -/
def Obligations.GrantsAndAnswersTaken : Prop :=
  (∀ (s : State) (f : Flit) (a : Nat) (w : Fin 16) (d : Line), agentOfNode f.dst = some a → s.flitTurn f = true →
    let ln := lineOf f.addr.toNat
    (s.mshr a ln).isSome = true → f.size ≠ 2 → (s.l2 a ln).st = .i → s.freeWay a ln = some w → f.src.sub.val = 1 → f.data = some d →
    ∃ (t : State) (g : Flit), exec (.dataGrant f) s = .next (t.goesOn a) ∧ (t.l2 a ln).st = (if f.size = 1 ∧ f.gst = .e then .m else f.gst) ∧ (t.l2 a ln).data = d ∧
      (t.l2 a ln).way = w ∧ (t.l2 a ln).token = (f.token || (s.l2 a ln).token) ∧ t.mshr a ln = none ∧ (∀ b j, l2Key b j ≠ l2Key a ln → t.l2 b j = s.l2 b j) ∧
      t = { s with tcores := t.tcores, scores := t.scores, coh := { s.coh with l2 := t.coh.l2, mshr := t.coh.mshr, tree := t.coh.tree }, mesh := t.mesh } ∧
      t.lastSent (nodeStop (agentNode a)) = some g ∧ g.op = .grantAck ∧ g.dst = sliceNode (homeSlice f.addr.toNat)) ∧
  (∀ (s : State) (f : Flit) (a : Nat) (op : MsgOp), agentOfNode f.dst = some a → s.flitTurn f = true →
    let ln := lineOf f.addr.toNat
    let old := s.l2 a ln
    s.mshr a ln = some op → op ∉ [MsgOp.cleanKeep, .cleanDrop, .discardLine] → (f.fwd = true → (s.mshrOf a ln).any (·.got) = true) →
    (old.st ≠ .i → ∃ (t : State) (g : Flit), exec (.grant f) s = .next (t.goesOn a) ∧
      t.l2 a ln = { old with st := if old.dirtyLine = true ∧ f.gst = .e then .m else f.gst, token := old.token || f.token } ∧ t.mshr a ln = none ∧
      (∀ b j, l2Key b j ≠ l2Key a ln → t.l2 b j = s.l2 b j) ∧
      t = { s with coh := { s.coh with l2 := t.coh.l2, mshr := t.coh.mshr }, mesh := t.mesh } ∧
      t.lastSent (nodeStop (agentNode a)) = some g ∧ g.op = .grantAck) ∧
    (∀ w, old.st = .i → s.freeWay a ln = some w →
      ∃ (t : State) (g : Flit), exec (.grant f) s = .next (t.goesOn a) ∧ (t.l2 a ln).st = f.gst ∧ (t.l2 a ln).mask = 0 ∧ (t.l2 a ln).way = w ∧
        (∀ b j, l2Key b j ≠ l2Key a ln → t.l2 b j = s.l2 b j) ∧ t.lastSent (nodeStop (agentNode a)) = some g ∧ g.op = .grantAck)) ∧
  (∀ (s : State) (f : Flit) (a : Nat) (op : MsgOp), agentOfNode f.dst = some a → s.flitTurn f = true → f.op = .grant →
    let ln := lineOf f.addr.toNat
    s.mshr a ln = some op → op ∈ [MsgOp.cleanKeep, .cleanDrop, .discardLine] →
    exec (.grant f) s = .next ((((agentHarts a).filter fun h => (s.hart h).uload ≠ []).foldl (fun s h => s.maintDone h ln)
      (((s.accept f).endMshr a ln).cleaned a ln)).goesOn a)) ∧
  (∀ (s : State) (f : Flit) (x : Txn) (i : Instr), i = .probeAck f ∨ i = .probeData f → s.flitTurn f = true →
    let ln := lineOf f.addr.toNat
    s.txn ln = some x → f.who ∈ x.waits →
    ∃ u y, u.txn ln = some y ∧ y.waits = x.waits.erase f.who ∧ y.req = x.req ∧ (∀ d, f.data = some d → y.data = some d ∧ y.mask = f.mask) ∧ homeOnly s u ln ∧
      exec i s = .next (if x.waits.erase f.who = [] then u.advance ln else u)) ∧
  (∀ (s : State) (f : Flit) (x : Txn), s.flitTurn f = true → s.txn (lineOf f.addr.toNat) = some x → x.ack = true → x.req.who = f.who →
    exec (.grantAck f) s = .next (((s.accept f).closeTxn (lineOf f.addr.toNat)).retrySlice (homeSlice (64 * lineOf f.addr.toNat)))) ∧
  (∀ (s : State) (f : Flit) (a : Nat), agentOfNode f.dst = some a → s.flitTurn f = true →
    exec (.dropped f) s = .next ((((s.accept f).endMshr a (lineOf f.addr.toNat)).eventL2 a 0x1A).goesOn a)) ∧
  (∀ (s : State) (f : Flit) (a : Nat) (e : WbEntry), agentOfNode f.dst = some a → s.flitTurn f = true →
    (s.coh.wb.find? fun e => e.agent == a && lineOf e.la == lineOf f.addr.toNat) = some e →
    exec (.returnAck f) s = .next (({ s.accept f with coh := { s.coh with wb := s.coh.wb.erase e } } : State).goesOn a)) ∧
  (∀ (s : State) (a : Nat), (s.coh.fills.filter fun f => agentOfNode f.dst == some a) = [] → tabGet false s.coh.noAlloc a = false →
    (∀ h ∈ agentHarts a, ((s.hart h).uload.any fun u => u.dest == .maint && u.wait.isSome) = false) → s.goesOn a = s) ∧
  (∀ (s : State) (a : La) (e : VbEntry), (s.coh.vb.find? fun e => e.la == 64 * lineOf a.toNat) = some e → e.issued = false →
    ∃ (t : State) (g : Flit), exec (.victimWriteIssue a) s = .next t ∧ t.coh.vb = s.coh.vb.map (fun x => if x = e then { x with issued := true } else x) ∧
      t.lastSent (nodeStop (sliceNode (homeSlice (64 * lineOf a.toNat)))) = some g ∧ g.data = some e.data ∧ g.mask = e.mask ∧
      g.dst = chanNode (s.chanOf (64 * lineOf a.toNat)) ∧ t = { s with coh := { s.coh with vb := t.coh.vb }, mesh := t.mesh }) ∧
  (∀ (s : State) (a : La) (ok : Bool) (e : VbEntry), (s.coh.vb.find? fun e => e.la == 64 * lineOf a.toNat) = some e → e.issued = true →
    let u := ({ s.acceptWriteDone (lineOf a.toNat) with coh := { s.coh with vb := s.coh.vb.erase e } } : State).freeTokenIf e.token
    exec (.victimEntryFreed a ok) s = .next ((if e.txn = true then u.memEnded (lineOf a.toNat) ok else u).retrySlice (homeSlice (64 * lineOf a.toNat))))

/-- REGISTER_WRITE to a register whose own width is the access's performs the register's write when its guard admits the master; a write of an
executing hart below M-mode that the rule of R31 refuses raises a store access fault, and another master's refused write is ignored and logged. A
write of a register that a write does not change changes nothing. MTIMECMP then reads the value written, and nothing else has changed. A write
outside the device range has no effect; an executing hart's misaligned write raises an address-misaligned exception and its aligned write of 1 or 2
bytes an access fault, and such a write of another master has no effect. (R10; R11; R26; R31; R393) -/
def Obligations.RegisterWritesComplete : Prop :=
  (∀ (s : State) (who : Master) (a : La) (size : AccSize) (v : Word),
    let n := accBytes size
    let r := (locate a.toNat).1
    areaOf s a.toNat = .device → 4 ≤ n → a.toNat % n = 0 → s.pageOff a.toNat = false → (locate a.toNat).2 = (n, a.toNat) →
    (mayWrite r.guard who = true → (∀ h md, who = .hart h md → md ≠ .m → r31At a.toNat n = false) →
      exec (.registerWrite who a size v) s = .next (s.regWrite who r (BitVec.ofNat 64 (v.toNat % 2 ^ (8 * n))) (BitVec.ofNat 64 (2 ^ (8 * n) - 1)))) ∧
    (∀ h md, mayWrite r.guard who = false → who = .hart h md → s.issues h = true →
      exec (.registerWrite who a size v) s = .next (s.trap h (excep 7 (BitVec.ofNat 64 (s.pma.pkgId.toNat * 2 ^ 47 + a.toNat))))) ∧
    (mayWrite r.guard who = false → (∀ h md, who ≠ .hart h md) →
      exec (.registerWrite who a size v) s = .next (s.writeIgnored r a.toNat ((devNode a.toNat).getD mgmtNode) who) ∧
      ∃ t, exec (.registerWrite who a size v) s = .next t ∧ t = { s with err := t.err, irq := t.irq }) ∧
    (mayWrite r.guard who = true → (∀ h md, who = .hart h md → md ≠ .m → r31At a.toNat n = false) →
      (r ∈ [DevReg.none, .pkgId, .dramTop, .mcMap, .mtime] ∨ (∃ i, r = .stopId i) ∨ (∃ n, r = .entBase n ∨ r = .entLimit n ∨ r = .entAttr n) ∨
        (∃ c, r = .chStatus c) ∨ (∃ l, r = .glStatus l) ∨ (∃ e, r = .dePool e) ∨ (∃ t, r = .esStatus t)) →
      exec (.registerWrite who a size v) s = .next s) ∧
    (∀ h, size = .b8 → r = .mtimecmp h → mayWrite r.guard who = true →
      (∀ g md, who = .hart g md → md = .m) → ∃ t, exec (.registerWrite who a size v) s = .next t ∧ t.mtimecmp h = v ∧ t.regValue who r = v ∧
        t = { s with irq := { s.irq with mtimecmp := t.irq.mtimecmp } } ∧ ∀ g, hartIdx g ≠ hartIdx h → t.mtimecmp g = s.mtimecmp g)) ∧
  (∀ (s : State) (who : Master) (a : La) (size : AccSize) (v : Word),
    (areaOf s a.toNat ≠ .device → exec (.registerWrite who a size v) s = .next s) ∧
    (areaOf s a.toNat = .device → (∀ h md, who ≠ .hart h md) → (accBytes size < 4 ∨ a.toNat % accBytes size ≠ 0) →
      exec (.registerWrite who a size v) s = .next s) ∧
    (∀ h md, areaOf s a.toNat = .device → who = .hart h md → s.issues h = true →
      (a.toNat % accBytes size ≠ 0 →
        exec (.registerWrite who a size v) s = .next (s.trap h (excep 6 (BitVec.ofNat 64 (s.pma.pkgId.toNat * 2 ^ 47 + a.toNat))))) ∧
      (a.toNat % accBytes size = 0 → accBytes size < 4 →
        exec (.registerWrite who a size v) s = .next (s.trap h (excep 7 (BitVec.ofNat 64 (s.pma.pkgId.toNat * 2 ^ 47 + a.toNat)))))))

/-- A PMA_COMMIT that is admitted, with LOCK not written: under LOCK it leaves code 4; while the last commit goes out, code 3; with a staged entry
that R30 refuses, its code; else the staged entry stands at INDEX, BUSY is set, and the masters' copies have not changed. PMA_COMMIT_DONE brings the
masters' copies up to date and clears BUSY. PMA_LOCK with COMMIT not written sets LOCK and, of the rest, INDEX at most. An executing hart below
M-mode takes a store access fault by either. (R28; R30; R31; R34; R38) -/
def Obligations.PmaRegistersComplete : Prop :=
  (∀ (s : State) (who : Master) (v : BitVec 32), mayWrite .r31 who = true → v.getLsbD 31 = false →
    ∃ t, exec (.pmaCommit who v) s = .next t ∧ t = { s with pma := t.pma, irq := { s.irq with src := t.irq.src } } ∧
      (∀ n, n ≠ 353 → t.source n = s.source n) ∧
      (s.pma.lock = true → t.pma = { s.pma with err := 4 }) ∧
      (s.pma.lock = false → s.pma.busy = true → t.pma = { s.pma with index := v.setWidth 5, err := 3 }) ∧
      (s.pma.lock = false → s.pma.busy = false → s.pma.staged.err ≠ 0 →
        t.pma = { s.pma with index := v.setWidth 5, err := BitVec.ofNat 4 s.pma.staged.err }) ∧
      (s.pma.lock = false → s.pma.busy = false → s.pma.staged.err = 0 →
        t.pma = { s.pma with index := v.setWidth 5, err := 0, busy := true, entries := t.pma.entries } ∧
        ∀ n, t.pmaEnt n = if n = v.toNat % 32 then s.pma.staged else s.pmaEnt n)) ∧
  (∀ s : State, (s.pma.busy = true → exec .pmaCommitDone s = .next { s with pma := { s.pma with masters := s.pma.entries, busy := false } }) ∧
    (s.pma.busy = false → exec .pmaCommitDone s = .next s)) ∧
  (∀ (s : State) (who : Master) (v : BitVec 32), mayWrite .r31 who = true → v.getLsbD 12 = false →
    ∃ t, exec (.pmaLock who v) s = .next t ∧ t = { s with pma := t.pma, irq := { s.irq with src := t.irq.src } } ∧
      (∀ n, n ≠ 353 → t.source n = s.source n) ∧
      t.pma = { s.pma with index := if s.pma.lock then s.pma.index else v.setWidth 5, lock := true }) ∧
  (∀ (s : State) (h : HartId) (md : Mode) (v : BitVec 32), md ≠ .m → s.issues h = true →
    let t := s.trap h (excep 7 (BitVec.ofNat 64 (s.pma.pkgId.toNat * 2 ^ 47 + 0x1020_1010)))
    exec (.pmaCommit (.hart h md) v) s = .next t ∧ exec (.pmaLock (.hart h md) v) s = .next t)

/-- An answer in turn at a hart ends its access: an acknowledged write leaves the tracker, a failed one is an imprecise bus error; the data of the
last outstanding read is delivered and the instruction retires, and its error is a load access fault or, of an atomic, a store access fault. An
answer that no access awaits is discarded and counted. At a caching agent that waits for the line, an ErrorReply drops a prefetch, and is kept for
the next ask of an access. At an arrival link stop an answer frees the home-table entry and leaves as a response packet; at a PCIe controller it
frees the tag, data going to the device in a completion; at a home slice memory data moves the transaction on, and an acknowledged C = 0 write is
answered; at debug system bus access it ends the access with its data or its error code. An ErrorReply whose status is 0, 1 or above 5 has no
effect. UNCACHED_TIMEOUT moves time to the end of the access's time and ends it with its error; of Rennet or a remote package it does nothing.
(R145; R147; R153; R169; R202; R293; R324; R332; R490; R502; R504; R523) -/
def Obligations.UncachedAnswersTaken : Prop :=
  let sole (c : Hart) (u : ULoad) (tag : Nat) : Prop := (c.track.any fun w => w.tag == tag) = false ∧ c.uload = [u] ∧ u.tag = tag ∧
    ((∃ r n b, u.dest = .x r n b) ∨ (∃ r n, u.dest = .f r n) ∨ ∃ r n, u.dest = .amo r n)
  let cause (u : ULoad) : Nat := match u.dest with | .amo .. => 7 | _ => 5
  (∀ (s : State) (f : Flit) (h : HartId), hartOfNode f.dst = some h →
    let c := s.hart h
    let tag := f.tag.toNat
    let wd : Flit := { f with op := .writeDone }
    let rr : Flit := { f with op := .readReturn }
    let er : Flit := { f with op := .errorReply }
    c.rstBusy = false → (c.late.find? fun x => x.tag == tag && paLa x.pa == f.addr.toNat) = none →
    (∀ w, s.flitTurn wd = true → (c.track.find? fun w => w.tag == tag) = some w → f.sts = 0 →
      ∃ t, exec (.writeDone f) s = .next t ∧ t.hart h = { c with track := c.track.erase w } ∧ (∀ g, g ≠ h → t.hart g = s.hart g) ∧
        t = { s with tcores := t.tcores, scores := t.scores, mesh := (s.accept wd).mesh }) ∧
    (s.flitTurn wd = true → c.awaits tag = false → exec (.writeDone f) s = .next ((s.accept wd).lateResponse f.dst f.addr.toNat)) ∧
    (∀ u, s.flitTurn rr = true → sole c u tag → f.sts = 0 → f.poison = false →
      ∃ t, exec (.readReturn f) s = .next t ∧ hartBecomes (s.accept rr) t h
        (({ c with uload := [], uacc := mergeLine c.uacc (atOffset u.off (lineBytes (f.data.getD 0) (u.pa % 64) u.size)) (maskOf u.off u.size) }.deliver u.dest).past u.len)) ∧
    ((∀ a, agentOfNode f.dst = some a → ((s.mshrOf a (lineOf f.addr.toNat)).any fun m => m.tag == tag) = false) → s.flitTurn er = true →
      2 ≤ f.sts.toNat → f.sts.toNat ≤ 5 →
      (∀ w, (c.track.find? fun w => w.tag == tag) = some w →
        exec (.errorReply f) s = .next (((s.accept er).setHart h { c with track := c.track.erase w }).writeFail h w.pa f.sts.toNat 1)) ∧
      (∀ u, sole c u tag → f.sts ≠ 4 → f.poison = false →
        ∃ t, exec (.errorReply f) s = .next t ∧
          hartBecomes ((s.accept er).readFail h u.pa f.sts.toNat false) t h ({ c with uload := [] }.trapped (isT h) (excep (cause u) u.va))))) ∧
  (∀ (s : State) (f : Flit) (a : Nat) (m : Mshr), agentOfNode f.dst = some a → s.mshrOf a (lineOf f.addr.toNat) = some m → m.tag = f.tag.toNat →
    let er : Flit := { f with op := .errorReply }
    2 ≤ f.sts.toNat → f.sts.toNat ≤ 5 → s.flitTurn er = true →
    (m.op = .prefetchRead ∨ m.op = .prefetchOwn → exec (.errorReply f) s = .next (((s.accept er).endMshr a (lineOf f.addr.toNat)).goesOn a)) ∧
    (m.op ≠ .prefetchRead → m.op ≠ .prefetchOwn → ∃ t, exec (.errorReply f) s = .next t ∧ t.mshr a (lineOf f.addr.toNat) = some .errorReply ∧
      t = { s with coh := { s.coh with mshr := t.coh.mshr }, mesh := (s.accept er).mesh })) ∧
  (∀ (s : State) (f : Flit), hartOfNode f.dst = none →
    let k := nodeStop f.dst
    let ln := lineOf f.addr.toNat
    let wd : Flit := { f with op := .writeDone }
    let rr : Flit := { f with op := .readReturn }
    let er : Flit := { f with op := .errorReply }
    (∀ e l, stopType k = 0x11 → s.flitTurn rr = true → (s.graop.homes.find? fun e => e.link == stopUnit k && e.tag == f.tag.toNat) = some e → f.sts = 0 →
      e.spkg < 512 → (s.route e.spkg).v = true → s.memberLink (s.route e.spkg).group f.addr.toNat = some l →
      ∃ t p, exec (.readReturn f) s = .next t ∧ t.graop.homes = s.graop.homes.erase e ∧ (t.link l).queue = (s.link l).queue ++ [p] ∧
        p.op = (if e.op = .rdNc ∨ e.op = .blkRd then PktOp.rdData else if e.op = .atomNc then .atomData else .wrAck) ∧ p.dpkg.val = e.spkg ∧
        p.glink = Fin.ofNat 8 e.glink ∧ p.gtag = Fin.ofNat 4096 e.gtag ∧ p.data = f.data.getD 0 ∧
        t = { s with graop := { s.graop with homes := t.graop.homes, links := t.graop.links }, mesh := t.mesh }) ∧
    (∀ a, let i := stopUnit k
      stopType k = 0x12 → ((s.iommuSt (i / 3)).inflight.find? fun a => a.tag == rootIo i f.tag.toNat) = some a →
      (s.flitTurn rr = true → exec (.readReturn f) s = .next (((s.accept rr).rootEnd i f.tag.toNat).tlpSent i (popN 64 f.mask.toNat))) ∧
      (s.flitTurn wd = true → exec (.writeDone f) s = .next ((s.accept wd).rootEnd i f.tag.toNat)) ∧
      (s.flitTurn er = true → 2 ≤ f.sts.toNat → f.sts.toNat ≤ 5 → agentOfNode f.dst = none →
        exec (.errorReply f) s = .next (((s.accept er).rootEnd i f.tag.toNat).rootFail i f.tag.toNat a f.sts.toNat))) ∧
    (∀ x, stopType k = 0x02 → f.dst.sub.val = 1 → s.txn ln = some x → x.mem ≠ 0 →
      (x.done = false → s.flitTurn rr = true →
        let d := match x.data with | some y => mergeLine (f.data.getD 0) y x.mask | none => f.data.getD 0
        exec (.readReturn f) s = .next (((s.accept rr).setTxn ln (some { x with
          mem := 0, data := some d, mask := BitVec.allOnes 64, poison := x.poison || (f.poison || f.sts == 4) })).advance ln)) ∧
      (x.done = true → x.req.op = .writeNc → x.c1 = false → x.req.ewa = false → f.tag ≠ 1 → f.sts = 0 → s.flitTurn wd = true →
        exec (.writeDone f) s = .next ((((s.accept wd).send (reply s x.req .writeDone 0)).closeTxn ln).retrySlice (homeSlice (64 * ln))))) ∧
    (stopType k = 0x08 → s.sec.sbBusy.isSome = true →
      (s.flitTurn rr = true → f.sts = 0 → exec (.readReturn f) s = .next ({ s.accept rr with
        sec := { s.sec with sbBusy := none, sberror := 0, sbdata := BitVec.ofNat 64 (lineBytes (f.data.getD 0) (f.addr.toNat % 64) f.size) } } : State)) ∧
      (s.flitTurn wd = true → f.sts = 0 → exec (.writeDone f) s = .next ({ s.accept wd with sec := { s.sec with sbBusy := none, sberror := 0 } } : State)) ∧
      (s.flitTurn er = true → 2 ≤ f.sts.toNat → f.sts.toNat ≤ 5 → agentOfNode f.dst = none →
        exec (.errorReply f) s = .next ({ s.accept er with sec := { s.sec with sbBusy := none, sberror := if f.sts = 2 then 2 else 7 } } : State)))) ∧
  (∀ (s : State) (f : Flit), (f.sts.toNat < 2 ∨ 5 < f.sts.toNat) → exec (.errorReply f) s = .next s) ∧
  (∀ (s : State) (tag : Nat) (h : HartId) (md : Mode), (s.hart h).rstBusy = false →
    let c := s.hart h
    (∀ w, (c.track.find? fun w => w.tag == tag) = some w →
      ∃ t, exec (.uncachedTimeout (.hart h md) tag) s = .next t ∧ t.time = max s.time w.deadline ∧ (∀ g, g ≠ h → t.hart g = s.hart g) ∧
        t.hart h = { c with track := c.track.filter (fun x => x.stop != w.stop), sb := (s.passTo w.deadline).sbWithout w.stop c.sb,
                            late := c.late ++ (c.track.filter fun x => x.stop == w.stop).map fun x => ({ tag := x.tag, pa := x.pa } : LateTag) }) ∧
    (∀ u, sole c u tag → u.wait = none →
      ∃ t, exec (.uncachedTimeout (.hart h md) tag) s = .next t ∧ hartBecomes ((s.passTo u.deadline).readFail h u.pa 0xFF (cause u == 7)) t h
        ({ c with uload := [], late := c.late ++ [({ tag := u.tag, pa := u.pa } : LateTag)] }.trapped (isT h) (excep (cause u) u.va))) ∧
    (c.awaits tag = false → exec (.uncachedTimeout (.hart h md) tag) s = .next s)) ∧
  (∀ (s : State) (tag : Nat),
    (∀ (i : Fin 6) a, ((s.iommuSt (i.val / 3)).inflight.find? fun a => a.tag == rootIo i.val tag) = some a →
      exec (.uncachedTimeout (.root i) tag) s = .next (((s.passTo a.deadline).rootEnd i.val tag).rootFail i.val tag a 0xFF)) ∧
    (∀ d, s.sec.sbBusy = some d → ∃ t, exec (.uncachedTimeout .sba tag) s = .next t ∧ t.time = max s.time d ∧
      t = { s with time := t.time, mesh := t.mesh, sec := { s.sec with sbBusy := none, sberror := 1 } }) ∧
    exec (.uncachedTimeout .rennet tag) s = .next s ∧ ∀ p, exec (.uncachedTimeout (.remote p) tag) s = .next s)

/-- From every stop toward every other, the output port of the route leads along the row to a stop one column nearer while the columns differ, then
along the column to a stop one row nearer, and at the destination it is L; the flit that an output sends in any state is one whose route leaves by
that output, so nothing in the state changes a route. (R205) -/
def Obligations.RoutesGoXThenY : Prop :=
  (∀ id d : Nat, id < 320 → d < 320 →
    (id % 32 ≠ d % 32 → ∃ n, n < 320 ∧ neighbour id (routePort id d) = some n ∧ n / 32 = id / 32 ∧ distN (n % 32) (d % 32) + 1 = distN (id % 32) (d % 32)) ∧
    (id % 32 = d % 32 → id ≠ d →
      ∃ n, n < 320 ∧ neighbour id (routePort id d) = some n ∧ n % 32 = id % 32 ∧ distN (n / 32) (d / 32) + 1 = distN (id / 32) (d / 32)) ∧
    routePort d d = .l) ∧
  ∀ (s : State) (id : Nat) (out : Port) (w : Waiting), s.chooseFlit id out = some w → routePort id (nodeStop w.flit.dst) = out

/-- FLIT_ROUTE at an output that has not sent in this mesh cycle and has a flit to send, not corrupt in its header: the flit leaves the input where
it waited, whose buffer's credit starts back, and enters the next stop's input buffer, one credit of that link being used, or is delivered at its
own stop, with POISON set where its payload is corrupt; an Event flit enters once for every branch of its tree, its pulse being at that stop;
nothing else changes but the arbiter and what counting changes. An orphan travels as GX, with a record. A flit whose header is corrupt, or of an
unused opcode, is discarded where it is received, with a record, and its credit starts back. An output that has sent in this mesh cycle sends in the
next, and with no flit to send a mesh cycle passes. CREDIT_RETURN gives the sender back one credit that is on its way. (R195; R202; R203; R205;
R211; R212; R214; R221; R388) -/
def Obligations.FlitsMove : Prop :=
  let fresh (s : State) (stop : Fin 320) (out : Port) : Prop := tabGet 0 s.mesh.sentAt (stop.val * 5 + portIdx out) ≠ s.mesh.cycle + 1
  let moved (s t : State) : Prop :=
    t = { s with mesh := { s.mesh with arrived := t.mesh.arrived, bufs := t.mesh.bufs, inject := t.mesh.inject, used := t.mesh.used, ret := t.mesh.ret,
                                       rr := t.mesh.rr, stamp := t.mesh.stamp, sentAt := t.mesh.sentAt, orphans := t.mesh.orphans },
                 perf := t.perf, err := t.err, irq := { s.irq with events := t.irq.events, src := t.irq.src } }
  let sent (s t : State) (stop : Fin 320) (out : Port) : Prop :=
    tabGet 0 t.mesh.sentAt (stop.val * 5 + portIdx out) = s.mesh.cycle + 1 ∧
      ∀ j, j ≠ stop.val * 5 + portIdx out → tabGet 0 t.mesh.sentAt j = tabGet 0 s.mesh.sentAt j
  let left (s t : State) (stop : Fin 320) (w : Waiting) : Prop :=
    (w.inp = .l → ∃ es, tabGet [] t.mesh.inject stop.val = ((tabGet [] s.mesh.inject stop.val).filter fun p => p.1 != w.ord) ++ es ∧
      ∀ e ∈ es, e.2.op = .event) ∧
    (w.inp ≠ .l → tabGet [] t.mesh.bufs (bufKey stop.val w.inp w.flit.vc.val) =
      (tabGet [] s.mesh.bufs (bufKey stop.val w.inp w.flit.vc.val)).filter fun p => p.1 != w.ord)
  let back (s : State) (stop : Fin 320) (out : Port) (w : Waiting) : Tab Nat :=
    match w.inp, neighbour stop.val w.inp with
    | .l, _ => s.mesh.ret
    | _, none => s.mesh.ret
    | _, some u => bump s.mesh.ret [creditKey u (oppPort w.inp) w.flit.vc.val out]
  (∀ (s : State) (stop : Fin 320) (out : Port) (w : Waiting) (err : FlitErr), fresh s stop out → s.chooseFlit stop.val out = some w →
    w.flit.op ≠ .unused → err ≠ .header →
    let f : Flit := if s.isOrphan w then { w.flit with vc := 7 } else w.flit
    ∃ t, exec (.flitRoute stop out err) s = .next t ∧ moved s t ∧ sent s t stop out ∧ left s t stop w ∧ t.mesh.ret = back s stop out w ∧
      (s.isOrphan w = false → t.mesh.orphans = s.mesh.orphans) ∧
      (s.isOrphan w = true → t.mesh.orphans = s.mesh.orphans.erase w.ord ∧ t.err.orders = s.err.orders + 1) ∧
      (s.isOrphan w = false → err ≠ .corrected → t.err = s.err ∧ t.irq.src = s.irq.src) ∧
      (neighbour stop.val out = none → t.mesh.used = s.mesh.used ∧
        t.mesh.arrived = s.mesh.arrived ++ [if err = .payload ∧ f.data.isSome = true then { f with poison := true } else f]) ∧
      (∀ d, neighbour stop.val out = some d → t.mesh.arrived = s.mesh.arrived ∧
        (f.op ≠ .event → (∃ n, s.mesh.stamp ≤ n ∧
            tabGet [] t.mesh.bufs (bufKey d (oppPort out) f.vc.val) = tabGet [] s.mesh.bufs (bufKey d (oppPort out) f.vc.val) ++ [(n, f)]) ∧
          t.mesh.used = bump s.mesh.used [creditKey stop.val out f.vc.val (routePort d (nodeStop f.dst))]) ∧
        (f.op = .event → (d, f.addr.toNat) ∈ t.irq.events ∧
          t.mesh.used = bump s.mesh.used ((treeOuts d (oppPort out)).map fun p => creditKey stop.val out f.vc.val p) ∧
          ∃ n, s.mesh.stamp ≤ n ∧ tabGet [] t.mesh.bufs (bufKey d (oppPort out) f.vc.val) = tabGet [] s.mesh.bufs (bufKey d (oppPort out) f.vc.val) ++
            (treeOuts d (oppPort out)).zipIdx.map fun (p, i) =>
              (n + i, match neighbour d p with | some e => { f with dst := mkNode e 0 } | none => f)))) ∧
  (∀ (s : State) (stop : Fin 320) (out : Port) (w : Waiting) (err : FlitErr) (d : Nat), fresh s stop out → s.chooseFlit stop.val out = some w →
    w.flit.op ≠ .event → neighbour stop.val out = some d → (err = .header ∨ w.flit.op = .unused) →
    let vc := if s.isOrphan w then 7 else w.flit.vc.val
    let k := creditKey stop.val out vc (routePort d (nodeStop w.flit.dst))
    ∃ t, exec (.flitRoute stop out err) s = .next t ∧ moved s t ∧ sent s t stop out ∧ left s t stop w ∧ t.mesh.arrived = s.mesh.arrived ∧
      t.mesh.used = bump s.mesh.used [k] ∧ t.mesh.ret = bump (back s stop out w) [k] ∧
      t.err.orders = s.err.orders + (if s.isOrphan w then 2 else 1)) ∧
  (∀ (s : State) (stop : Fin 320) (out : Port) (err : FlitErr),
    (fresh s stop out → s.chooseFlit stop.val out = none → exec (.flitRoute stop out err) s = .next s.nextCycle) ∧
    (¬fresh s stop out → exec (.flitRoute stop out err) s = .next (s.nextCycle.routeFlit stop.val out err)) ∧
    (1 ≤ s.pow.meshMhz → (s.mesh.ahead = 0 ∨ s.mesh.ahead < (s.time + 1) * s.pow.meshMhz / 1000 - s.time * s.pow.meshMhz / 1000) → s.mesh.cycle < s.nextCycle.mesh.cycle) ∧
    s.nextCycle = { s with time := s.nextCycle.time, mesh := { s.mesh with cycle := s.nextCycle.mesh.cycle, ahead := s.nextCycle.mesh.ahead } }) ∧
  (∀ (s : State) (stop : Fin 320) (out : Port) (vc : Fin 8) (nxt : Port),
    let k := creditKey stop.val out vc.val nxt
    (tabGet 0 s.mesh.ret k = 0 → exec (.creditReturn stop out vc nxt) s = .next s) ∧
    (tabGet 0 s.mesh.ret k ≠ 0 → ∃ t, exec (.creditReturn stop out vc nxt) s = .next t ∧
      tabGet 0 t.mesh.used k = tabGet 0 s.mesh.used k - 1 ∧ tabGet 0 t.mesh.ret k = tabGet 0 s.mesh.ret k - 1 ∧
      (∀ j, j ≠ k → tabGet 0 t.mesh.used j = tabGet 0 s.mesh.used j ∧ tabGet 0 t.mesh.ret j = tabGet 0 s.mesh.ret j) ∧
      t = { s with mesh := { s.mesh with used := t.mesh.used, ret := t.mesh.ret } }))

/-- MESH_WHEEL_RESERVE completes with BAD_FIELD, EXISTS or NO_RESOURCE where R437 and R216 say so, and otherwise with the reservation made; a
reservation that is made takes only slots that were free and changes no other slot. MESH_WHEEL_RELEASE refuses RID 0 and RIDs above 127, one that
does not exist and one that an instance owns, and otherwise stops injection at once and waits; when the bound has passed, WHEEL_RELEASE_SLOTS_FREE
frees the slots and the RID, and not before. MESH_WHEEL_QUERY gives the reservation's form, class, slots, ends, owner and bound, and V = 0 where
there is none. (R213; R215; R216; R219; R221; R222; R434; R437) -/
def Obligations.WheelCommandsComplete : Prop :=
  (∀ (s : State) (n : Fin 32), s.serves n 0x0501 = true →
    let a (o : Nat) : Nat := s.arg n.val o 1
    let form : WheelForm := match a 0 with | 0 => .path | 1 => .fan | _ => .gather
    let src := if a 0 = 2 then 32 * a 7 + a 6 else 32 * a 5 + a 4
    let dst := if a 0 = 1 then 32 * a 5 + a 4 else 32 * a 7 + a 6
    let bound := if a 1 = 5 then 32 * a 5 + a 4 else 32 * a 7 + a 6
    let bad := 2 < a 0 ∨ (a 1 ≠ 5 ∧ a 1 ≠ 6) ∨ a 2 ∉ [1, 2, 4, 8, 16] ∨ (a 0 ≠ 2 ∧ (31 < a 4 ∨ 9 < a 5)) ∨ (a 0 ≠ 1 ∧ (31 < a 6 ∨ 9 < a 7)) ∨
      (a 0 = 1 ∧ a 1 = 6) ∨ (a 0 = 2 ∧ a 1 = 5) ∨ a 3 ≠ 4 ∨ isCluster bound = false
    let held := form ≠ .path ∧ (s.mesh.resv.any fun p => p.2.any fun r => r.form == form && r.boundStop == bound && r.agent == 4) = true
    (bad → fails (.meshWheelReserve n) s n 3) ∧ (¬bad → held → fails (.meshWheelReserve n) s n 7) ∧
    (¬bad → ¬held → 8 ≤ s.bindings bound → fails (.meshWheelReserve n) s n 5) ∧
    (¬bad → ¬held → s.bindings bound < 8 → s.reserve form (a 1) (a 2) src dst none 4 = none → fails (.meshWheelReserve n) s n 5) ∧
    (¬bad → ¬held → s.bindings bound < 8 → ∀ u rid, s.reserve form (a 1) (a 2) src dst none 4 = some (u, rid) →
      runs (.meshWheelReserve n) s u n (leBytes 1 rid.val ++ leBytes 1 0 ++ leBytes 2 (reservationBound form src dst (a 2))))) ∧
  (∀ (s u : State) (form : WheelForm) (vc k src dst : Nat) (owner : Option Nat) (agent : Nat) (rid : Fin 128),
    s.reserve form vc k src dst owner agent = some (u, rid) →
    rid ≠ 0 ∧ tabGet none s.mesh.resv rid.val = none ∧
    (tabGet none u.mesh.resv rid.val).map (fun r => (r.form, r.vc, r.k, r.src, r.dst, r.owner, r.agent, r.inject)) = some (form, vc, k, src, dst, owner, agent, true) ∧
    (∀ j, j ≠ rid.val → tabGet none u.mesh.resv j = tabGet none s.mesh.resv j) ∧
    (∀ j, tabGet 0 u.mesh.wheel j = tabGet 0 s.mesh.wheel j ∨ (tabGet 0 s.mesh.wheel j = 0 ∧ tabGet 0 u.mesh.wheel j = rid.val + 1)) ∧
    u = { s with mesh := { s.mesh with wheel := u.mesh.wheel, resv := u.mesh.resv, pair := u.mesh.pair } }) ∧
  (∀ (s : State) (n : Fin 32), s.serves n 0x0502 = true →
    let r := s.arg n.val 0 1
    (r = 0 ∨ 127 < r → fails (.meshWheelRelease n) s n 3) ∧
    (r ≠ 0 → r ≤ 127 → tabGet none s.mesh.resv r = none → fails (.meshWheelRelease n) s n 6) ∧
    (∀ v, r ≠ 0 → r ≤ 127 → tabGet none s.mesh.resv r = some v → v.owner.isSome = true → fails (.meshWheelRelease n) s n 4) ∧
    (∀ v, r ≠ 0 → r ≤ 127 → tabGet none s.mesh.resv r = some v → v.owner = none →
      ∃ t, exec (.meshWheelRelease n) s = .next t ∧
        (tabGet none t.mesh.resv r) = some { v with inject := false, releaseAt := some (s.mesh.cycle + v.bound) } ∧
        (∀ j, j ≠ r → tabGet none t.mesh.resv j = tabGet none s.mesh.resv j) ∧
        t.ren.unfinished = s.ren.unfinished ++ [(.release (Fin.ofNat 128 r), some n)] ∧
        t = { s with mesh := { s.mesh with resv := t.mesh.resv }, ren := { s.ren with unfinished := t.ren.unfinished } })) ∧
  (∀ (s : State) (rid : Fin 128) (r : Reservation) (c : Nat), tabGet none s.mesh.resv rid.val = some r → r.releaseAt = some c →
    (s.mesh.cycle < c → exec (.wheelReleaseSlotsFree rid) s = .next s) ∧
    (c ≤ s.mesh.cycle → ∃ t, exec (.wheelReleaseSlotsFree rid) s = .next t ∧ tabGet none t.mesh.resv rid.val = none ∧
      (∀ j, tabGet 0 t.mesh.wheel j ≠ rid.val + 1) ∧
      (tabWf 0 s.mesh.wheel = true → ∀ j, tabGet 0 s.mesh.wheel j ≠ rid.val + 1 → tabGet 0 t.mesh.wheel j = tabGet 0 s.mesh.wheel j) ∧
      t.mesh.orphans = s.mesh.orphans ++ s.flitsOf rid.val ∧
      t = { s with mesh := { s.mesh with wheel := t.mesh.wheel, resv := t.mesh.resv, pair := t.mesh.pair, orphans := t.mesh.orphans }, ren := t.ren,
                   mem := { s.mem with mbox := t.mem.mbox } })) ∧
  (∀ (s : State) (n : Fin 32), s.serves n 0x0503 = true →
    let r := s.arg n.val 0 1
    let out (l : List Nat) (b : Nat) : List Byte := l.map (BitVec.ofNat 8) ++ leBytes 2 b
    (127 < r → fails (.meshWheelQuery n) s n 3) ∧
    (r = 0 → runs (.meshWheelQuery n) s s n (out [1, 3, 5, 2, 0, 0, 0, 0, 0xFF, 0] 246)) ∧
    (r ≠ 0 → r ≤ 127 → tabGet none s.mesh.resv r = none → runs (.meshWheelQuery n) s s n (out [0, 0, 0, 0, 0, 0, 0, 0, 0, 0] 0)) ∧
    (∀ v, r ≠ 0 → r ≤ 127 → tabGet none s.mesh.resv r = some v →
      runs (.meshWheelQuery n) s s n
        (out [1, formCode v.form, v.vc, v.k, v.src % 32, v.src / 32, v.dst % 32, v.dst / 32, v.owner.getD 0xFF, v.agent] v.bound)))

/-- A link that is up sends first the frames to be replayed, then a new DATA frame with the next SEQ, kept for retry, when packets with credits wait
and an entry is free; else nothing of its state changes. A received frame returns credits and frees retry entries up to ACK; NAK replays the rest,
and more than 256 replays within 1 ms start recovery. Good DATA in SEQ order enters the receive buffers; packets whose opcode, VC or DLEN does not
fit are discarded with a record; a frame with a CRC failure or more than 6 wrong symbols is bad; bad frames, and those out of order, ask for NAK,
the expected frame bad for the eighth time in a row starts recovery, as does losing frame lock. TRAIN and SYNC_SEND leave no trace; SYNC steps or
slews the timebase on the sync parent's link alone. Recovery ends up, replaying, or after three failures down; a down link loses its retry frames
with a record and, while Rennet serves, its group. HELLO of the expected neighbour joins the group; another leaves the link held. The bring-up
timeout starts the host. GL_INJ_CTL arms kinds 1 to 4. A link that is not up carries no frame. (R301; R303; R304; R305; R311; R316; R317; R328;
R329; R331; R333; R336) -/
def Obligations.LinksCarryFrames : Prop :=
  (∀ (s : State) (l : Fin 8), (s.link l.val).st ≠ .up → exec (.linkFrameSend l) s = .next s ∧ exec (.frameLockLost l) s = .next s ∧
    (∀ a n c0 x0 c1 x1, exec (.idleFrame l a n c0 x0 c1 x1) s = .next s) ∧ (∀ q a n e y c x ps, exec (.dataFrame l q a n e y c x ps) s = .next s) ∧
    ∀ a b c, exec (.syncFrame l a b c) s = .next s) ∧
  (∀ (s : State) (l : Fin 8), exec (.trainFrame l) s = .next s ∧ exec (.syncSend l) s = .next s) ∧
  (∀ (s : State) (l : Fin 8), let k := s.link l.val
    let f := packFrame k.credUsed 25 [] k.queue
    k.st = .up →
    (∀ r rest, k.replay = r :: rest → (k.inj.getLsbD 31 = false ∨ fld k.inj 27 24 ≠ 4) → ∃ t, exec (.linkFrameSend l) s = .next t ∧
      t = s.setLink l.val { k with replay := rest, inj := if k.inj.getLsbD 31 = true then k.inj &&& ~~~0x8000_0000 else k.inj }) ∧
    (k.replay = [] → (k.inj.getLsbD 31 = false ∨ fld k.inj 27 24 ≠ 4) → f.1 = [] ∨ 128 ≤ k.retry.length → exec (.linkFrameSend l) s = .next s) ∧
    (k.replay = [] → (k.inj.getLsbD 31 = false ∨ fld k.inj 27 24 ≠ 4) → f.1 ≠ [] → k.retry.length < 128 → ∃ t, exec (.linkFrameSend l) s = .next t ∧
      t.link l.val = { k with retry := k.retry ++ [{ seq := k.txSeq, pkts := f.1 }], txSeq := (k.txSeq + 1) % 4096, sent := k.sent + 1, credUsed := f.2.1, queue := f.2.2,
                              inj := if k.inj.getLsbD 31 = true then k.inj &&& ~~~0x8000_0000 else k.inj } ∧
      (∀ j, j ≠ l.val → t.link j = s.link j) ∧ t = { s with graop := { s.graop with links := t.graop.links }, perf := t.perf, mesh := t.mesh, irq := { s.irq with events := t.irq.events } }) ∧
    (k.inj.getLsbD 31 = true → fld k.inj 27 24 = 4 → ∃ t, exec (.linkFrameSend l) s = .next t ∧ (t.link l.val).st = .recovery ∧ (t.link l.val).retry = k.retry)) ∧
  (∀ (s : State) (l : Fin 8), let k := s.link l.val
    let only (t : State) : Prop := (∀ j, j ≠ l.val → t.link j = s.link j) ∧ t.mem = s.mem ∧ t.graop = { s.graop with links := t.graop.links }
    k.st = .up →
    (∃ t, exec (.frameLockLost l) s = .next t ∧ only t ∧ t.link l.val = { k with st := .recovery, recoveries := k.recoveries + 1, streak := 0, replayAt := [] }) ∧
    (∀ ack c0 x0 c1 x1, ∃ t, exec (.idleFrame l ack false c0 x0 c1 x1) s = .next t ∧ only t ∧ (t.link l.val).st = .up ∧ (t.link l.val).rxQ = k.rxQ ∧
      (∀ i, k.retry.findIdx? (fun f => f.seq == ack.val) = some i → (t.link l.val).retry = k.retry.drop (i + 1) ∧ (t.link l.val).acked = k.acked + i + 1) ∧
      (k.retry.findIdx? (fun f => f.seq == ack.val) = none → (t.link l.val).retry = k.retry) ∧
      (c0 ≠ c1 → tabGet 0 (t.link l.val).credUsed c0.val = tabGet 0 k.credUsed c0.val - (x0.val + 256 - tabGet 0 k.credSeen c0.val) % 256) ∧
      ∀ v, v ≠ c0.val → v ≠ c1.val → tabGet 0 (t.link l.val).credUsed v = tabGet 0 k.credUsed v) ∧
    (∀ ack c0 x0 c1 x1, (k.retry.findIdx? (fun f => f.seq == ack.val) = none) → k.replayAt.length < 256 → ∃ t, exec (.idleFrame l ack true c0 x0 c1 x1) s = .next t ∧ only t ∧
      (t.link l.val).st = .up ∧ (t.link l.val).replay = k.retry ∧ (t.link l.val).retry = k.retry ∧ (t.link l.val).replays = k.replays + 1) ∧
    (∀ ack c0 x0 c1 x1, (k.retry.findIdx? (fun f => f.seq == ack.val) = none) → 256 ≤ k.replayAt.length → (∀ x ∈ k.replayAt.take 256, s.time ≤ x + 1000000) →
      ∃ t, exec (.idleFrame l ack true c0 x0 c1 x1) s = .next t ∧ only t ∧ (t.link l.val).st = .recovery ∧ (t.link l.val).retry = k.retry) ∧
    (∀ (seq ack : Fin 4096) nak e (y : Fin 225) c x ps, e = true ∨ 6 < y.val → ∃ t, exec (.dataFrame l seq ack nak e y c x ps) s = .next t ∧ only t ∧
      (t.link l.val).nak = true ∧ (t.link l.val).bad = k.bad + 1 ∧ (t.link l.val).rxQ = k.rxQ ∧ (t.link l.val).rxNext = k.rxNext ∧
      (8 ≤ k.streak + 1 → seq.val = k.rxNext → (t.link l.val).st = .recovery) ∧
      (k.streak + 1 < 8 → (t.link l.val).st = .up ∧ (t.link l.val).streak = if seq.val = k.rxNext then k.streak + 1 else k.streak)) ∧
    (∀ (seq ack : Fin 4096) (y : Fin 225) c x ps, y.val ≤ 6 → seq.val ≠ k.rxNext → ∃ t, exec (.dataFrame l seq ack false false y c x ps) s = .next t ∧ only t ∧
      (t.link l.val).nak = true ∧ (t.link l.val).rxQ = k.rxQ ∧ (t.link l.val).rxNext = k.rxNext) ∧
    (∀ (seq ack : Fin 4096) (y : Fin 225) c x ps, y.val ≤ 6 → seq.val = k.rxNext → ∃ t, exec (.dataFrame l seq ack false false y c x ps) s = .next t ∧ only t ∧
      (t.link l.val).nak = false ∧ (t.link l.val).rxNext = (k.rxNext + 1) % 4096 ∧ (t.link l.val).streak = 0 ∧
      (t.link l.val).rxQ = k.rxQ ++ (ps.filter pktGood).map (·.1) ∧
      (t.link l.val).corrected = k.corrected + (if 0 < y.val then 1 else 0) ∧
      (c.1 ≠ c.2 → tabGet 0 (t.link l.val).credUsed c.1.val = tabGet 0 k.credUsed c.1.val - (x.1.val + 256 - tabGet 0 k.credSeen c.1.val) % 256) ∧
      ((∃ p ∈ ps, p.1.op = .unused ∨ p.1.vc.val = 7 ∨ (p.1.op = .rdNc ∧ p.2.val ≠ 0) ∨ (p.1.op = .routeAdv ∧ 8 < p.2.val)) → s.err.orders < t.err.orders)) ∧
    (∀ sent peerSent peerArrived : Word, let off : Int := (((s.time : Int) - sent.toNat) - ((peerArrived.toNat : Int) - peerSent.toNat)) / 2
      ∃ t, exec (.syncFrame l sent peerSent peerArrived) s = .next t ∧ t.link l.val = { k with syncSent := sent, syncArr := BitVec.ofNat 64 s.time } ∧
        (k.syncpar = false → t.time = s.time ∧ t.graop = { s.graop with links := t.graop.links }) ∧
        (k.syncpar = true → s.ren.started = false → t.time = ((s.time : Int) - off).toNat ∧ t.graop.offset = off) ∧
        (k.syncpar = true → s.ren.started = true → t.time = s.time ∧ t.graop.offset = off ∧ -200000 ≤ t.graop.rate ∧ t.graop.rate ≤ 200000) ∧ t.mem = s.mem)) ∧
  (∀ (s : State) (l : Fin 8), let k := s.link l.val
    let dies (c : Instr) (why : Nat) : Prop := ∃ t, exec c s = .next t ∧ (t.link l.val).st = .down ∧ (t.link l.val).retry = [] ∧ (t.link l.val).replay = [] ∧
      (t.link l.val).downs = k.downs + 1 ∧ (t.link l.val).cause = why ∧ (t.link l.val).downAt = s.time ∧ (t.link l.val).group = k.group ∧ (t.link l.val).queue = k.queue ∧ (t.link l.val).rxQ = k.rxQ ∧
      (∀ j, j ≠ l.val → t.link j = s.link j) ∧ t.err = ((s.setLink l.val k).linkErr l.val k.retry.length).err ∧ t.graop.routes = s.graop.routes
    (k.st ≠ .recovery → exec (.linkDown l) s = .next s ∧ ∀ h, exec (.linkRecoveryDone l h) s = .next s) ∧
    (k.st = .recovery → dies (.linkDown l) 2 ∧ (2 ≤ k.recFails → dies (.linkRecoveryDone l .failed) 1) ∧
      (k.recFails < 2 → exec (.linkRecoveryDone l .failed) s = .next (s.setLink l.val { k with recFails := k.recFails + 1 })) ∧
      ∀ h, h ≠ .failed → exec (.linkRecoveryDone l h) s =
        .next (s.setLink l.val { k with st := .up, width := if h = .full then 2 else 1, recFails := 0, replay := k.retry })) ∧
    (s.ren.up = false ∨ k.st ≠ .down → exec (.linkRemoveFromGroup l) s = .next s ∧ ∀ ok n, exec (.linkRetry l ok n) s = .next s) ∧
    (s.ren.up = true → k.st = .down → k.group = none → exec (.linkRemoveFromGroup l) s = .next s) ∧
    (∀ g, s.ren.up = true → k.st = .down → k.group = some g → ∃ t, exec (.linkRemoveFromGroup l) s = .next t ∧ (t.link l.val).group = none ∧ t.mem = s.mem ∧
      (s.groupLinks g = [] → s.plat.topo ≠ .ring → ∀ p, (s.route p).v = true → (s.route p).group = g → tabWf Route.none s.graop.routes = true → t.route p = Route.none) ∧
      (s.groupLinks g ≠ [] → t.graop.routes = s.graop.routes)) ∧
    (s.ren.up = true → k.st = .down → ∀ n, ∃ t, exec (.linkRetry l false n) s = .next t ∧ t.time = max s.time (k.downAt + 10000000000) ∧ t.link l.val = { k with downAt := t.time }) ∧
    (∀ (n : Fin 512) g want, s.ren.up = true → k.st = .down → k.group = none → tabGet none s.plat.linkGroup l.val = some (g, want) → want = n →
      ∃ t, exec (.linkRetry l true n) s = .next t ∧ (t.link l.val).st = .up ∧ (t.link l.val).group = some g)) ∧
  (∀ (s : State) (l nb : Fin 8) (p : Fin 512), let k := s.link l.val
    (k.st ≠ .training ∨ tabGet none s.plat.linkGroup l.val = none → exec (.helloFrame l p nb) s = .next s) ∧
    (∀ g want, k.st = .training → tabGet none s.plat.linkGroup l.val = some (g, want) →
      (want = p → ∃ t, exec (.helloFrame l p nb) s = .next t ∧ (t.link l.val).st = .up ∧ (t.link l.val).group = some g ∧ (t.link l.val).nbr = BitVec.ofNat 9 p.val ∧
        (s.wayTo p.val = some g → t.route p.val = { v := true, group := g, hops := 1 })) ∧
      (want ≠ p → ∃ t, exec (.helloFrame l p nb) s = .next t ∧ (t.link l.val).st = .held ∧ (t.link l.val).group = none ∧ t.graop.routes = s.graop.routes ∧
        t.err.orders = s.err.orders + 1))) ∧
  (∀ s : State, (s.mayStart = false → exec .fabricBringupTimeout s = .next s) ∧
    (s.mayStart = true → ∃ t, exec .fabricBringupTimeout s = .next t ∧ t.phase = .run ∧ t.hart (.t 0) = { s.hart (.t 0) with held := false, pc := (s.hart (.t 0)).rvec } ∧
      memRead t.mem.sram 32 8 = s.time % 2 ^ 64 ∧ t.graop = s.graop)) ∧
  (∀ (s : State) (who : Master) (l : Fin 8) (v : BitVec 32), mayWrite .r31 who = true → ∃ t, exec (.glInjArm who l v) s = .next t ∧
    (t.link l.val) = { s.link l.val with inj := (t.link l.val).inj } ∧ fld (t.link l.val).inj 27 24 = fld v 27 24 ∧
    (t.link l.val).inj.getLsbD 31 = decide (1 ≤ fld v 27 24 ∧ fld v 27 24 ≤ 4) ∧ t = { s with graop := { s.graop with links := t.graop.links } })

/-- A request for another package leaves by its route with HOP one higher, or is discarded with a record past 511 links. One at its home is refused
with STS 5 while requests are refused, with STS 2 where the rules for inbound accesses refuse it, and otherwise takes a home-table entry and enters
the mesh as the access that its opcode names, waiting in the receive buffer while the table is full. A response at its requester frees the tag entry
and answers the master; without an entry it is discarded with a record. A RouteAdv gives the advertised hops plus 1 to the IDs that its group
serves, a RouteWithdraw makes the IDs of the group invalid; a tag entry is freed at its time. LinkNotice takes the link out of its group and
switches it off. (R26; R307; R308; R319; R320; R321; R322; R323; R324; R325; R331; R332) -/
def Obligations.PacketsCrossTheFabric : Prop :=
  (∀ (s : State) (l : Fin 8) (q : Pkt),
    let turn (p : Pkt) : Prop := ((s.link l.val).st = .up ∨ (s.link l.val).rxQ.contains p = true) ∧ s.pktTurn l.val p = true
    let reqs : List (Instr × PktOp × MsgOp) := [(.rdNc l q, .rdNc, .readNc), (.wrNc l q, .wrNc, .writeNc), (.atomNc l q, .atomNc, .atomicNc),
      (.blkRd l q, .blkRd, .readNc), (.blkWr l q, .blkWr, .writeNc)]
    let resps : List (Instr × PktOp) := [(.rdData l q, .rdData), (.wrAck l q, .wrAck), (.atomData l q, .atomData), (.errResp l q, .errResp)]
    let transit (c : Instr) (p : Pkt) : Prop := let u := s.takePkt l.val p
      (511 < p.hop + 1 → exec c s = .next (u.linkErr l.val 1)) ∧
      (p.hop + 1 ≤ 511 → ∀ v, u.forward { p with hop := p.hop + 1 } = some v →
        ∃ t, exec c s = .next t ∧ t = { v with perf := t.perf, mesh := t.mesh, irq := { v.irq with events := t.irq.events } }) ∧
      (p.hop + 1 ≤ 511 → u.forward { p with hop := p.hop + 1 } = none → exec c s = .next (u.noRoute l.val { p with hop := p.hop + 1 }))
    (∀ c op m, (c, op, m) ∈ reqs → let p : Pkt := { q with op := op }
      let u := s.takePkt l.val p
      turn p → (p.dpkg.val ≠ s.ownPkg → transit c p) ∧
      (p.dpkg.val = s.ownPkg → (s.route p.spkg.val).v = false → exec c s = .next (u.linkErr l.val 1)) ∧
      (p.dpkg.val = s.ownPkg → (s.route p.spkg.val).v = true →
        (s.graop.refuse = true → exec c s = .next ((u.forward (u.errPkt p 5)).getD u)) ∧
        (s.graop.refuse = false → s.refusesInbound p = true ∨ (m = .atomicNc ∧ s.homeIo p.addr.toNat = true) → exec c s = .next ((u.forward (u.errPkt p 2)).getD u)) ∧
        (s.graop.refuse = false → s.refusesInbound p = false → (m = .atomicNc → s.homeIo p.addr.toNat = false) →
          (s.dest (s.ownPkg * 2 ^ 47 + p.addr.toNat) 0 (m == .writeNc) = .done 0 → exec c s = .next ((u.forward (u.zeroPkt p)).getD s)) ∧
          (∀ sts, s.dest (s.ownPkg * 2 ^ 47 + p.addr.toNat) 0 (m == .writeNc) = .done sts → sts ≠ 0 → exec c s = .next ((u.forward (u.errPkt p sts)).getD u)) ∧
          ∀ n pk lim, s.dest (s.ownPkg * 2 ^ 47 + p.addr.toNat) 0 (m == .writeNc) = .node n pk lim →
            ((List.range 1024).all (fun k => s.graop.homes.any fun e => e.link == l.val && e.tag == k) = true → exec c s = .next s) ∧
            (∀ k, ((List.range 1024).find? fun k => !(s.graop.homes.any fun e => e.link == l.val && e.tag == k)) = some k → ∃ t f, exec c s = .next t ∧
              t.graop.homes = s.graop.homes ++ [{ spkg := p.spkg.val, glink := p.glink.val, gtag := p.gtag.val, link := l.val, tag := k, op := p.op }] ∧
              t.lastSent (nodeStop (linkNode l.val)) = some f ∧ f.op = m ∧ f.dst = n ∧ f.tag = BitVec.ofNat 10 k ∧ f.addr = BitVec.ofNat 47 p.addr.toNat ∧
              f.poison = p.poison ∧ f.fn = p.fn ∧ f.size = p.size ∧ f.rpkg = p.spkg ∧ (m ≠ .readNc → f.data = some p.data ∧ f.mask = p.mask) ∧
              (m = .readNc → f.mask = maskOf (p.addr.toNat % 64) p.size) ∧
              t = { u with graop := { u.graop with homes := t.graop.homes }, mesh := t.mesh })))) ∧
    (∀ c op, (c, op) ∈ resps → let p : Pkt := { q with op := op }
      let u := s.takePkt l.val p
      turn p → (p.dpkg.val ≠ s.ownPkg → transit c p) ∧
      (p.dpkg.val = s.ownPkg → s.tagEntry p.glink.val p.gtag.val = none → exec c s = .next (u.lateResponse (linkNode l.val) (p.spkg.val * 2 ^ 47 + p.addr.toNat))) ∧
      (∀ e, p.dpkg.val = s.ownPkg → s.tagEntry p.glink.val p.gtag.val = some e → ∃ t f, exec c s = .next t ∧ t.graop.tags = s.graop.tags.erase e ∧
        t.lastSent (nodeStop (linkNode e.link)) = some f ∧ f.dst = e.node ∧ f.tag = e.tag ∧ f.sts = p.sts ∧ (p.sts = 4 → f.poison = true) ∧
        (op = .rdData ∨ op = .atomData → f.op = .readReturn ∧ f.data = some p.data ∧ f.mask = p.mask) ∧ (op = .wrAck → f.op = .writeDone) ∧
        (op = .errResp → f.op = .errorReply) ∧ t = { u with graop := { u.graop with tags := t.graop.tags }, mesh := t.mesh }))) ∧
  (∀ (s : State) (l : Fin 8) (us : List RouteUnit), (s.link l.val).group = none →
    exec (.routeAdv l us) s = .next (s.takeMgt l.val .routeAdv) ∧ exec (.routeWithdraw l us) s = .next (s.takeMgt l.val .routeWithdraw)) ∧
  (∀ (s : State) (l : Fin 8) (x : RouteUnit) (g : Fin 8), (s.link l.val).group = some g →
    (x.hops.val + 1 ≤ 511 → ∃ t, exec (.routeAdv l [x]) s = .next t ∧
      (∀ p, x.first.val ≤ p → p ≤ x.last.val → p ≠ s.ownPkg → s.wayTo p = some g → t.route p = { v := true, group := g, hops := x.hops.val + 1 }) ∧
      (∀ p, p < x.first.val ∨ x.last.val < p ∨ p = s.ownPkg ∨ s.wayTo p ≠ some g → t.route p = s.route p) ∧ (∀ h, h ≠ .t 0 → t.hart h = s.hart h) ∧ t.coh = s.coh) ∧
    (∃ t, exec (.routeWithdraw l [x]) s = .next t ∧
      (∀ p, x.first.val ≤ p → p ≤ x.last.val → (s.route p).v = true → (s.route p).group = g → t.route p = Route.none) ∧
      (∀ p, p < x.first.val ∨ x.last.val < p ∨ (s.route p).v = false ∨ (s.route p).group ≠ g → t.route p = s.route p) ∧ t.mem = s.mem ∧ t.coh = s.coh)) ∧
  (∀ (s : State) (l : Fin 8) (k : Fin 4096),
    (s.tagEntry l.val k.val = none → exec (.tagEntryTimeout l k) s = .next s) ∧
    (∀ e, s.tagEntry l.val k.val = some e → ∃ t, exec (.tagEntryTimeout l k) s = .next t ∧ t.time = max s.time e.freeAt ∧
      t = { s with graop := { s.graop with tags := s.graop.tags.erase e }, time := t.time, mesh := { s.mesh with cycle := t.mesh.cycle, ahead := t.mesh.ahead } })) ∧
  (∀ (s : State) (l : Fin 8), ((s.link l.val).st ≠ .up → exec (.linkNotice l) s = .next (s.takeMgt l.val .linkNotice)) ∧
    ((s.link l.val).st = .up → ∃ t, exec (.linkNotice l) s = .next t ∧ (t.link l.val).st = .off ∧ (t.link l.val).width = 0 ∧ (t.link l.val).group = none ∧ t.mem = s.mem))

/-- The home slice of a local address is 64 times PA[46:6] mod 3 plus six bits, each the exclusive or of every sixth address bit from its own, bit 5
without PA[47]; it lies from 0 to 191, its stop is core stop n mod 32 of the tile with C-tile ordinal n div 32, and no state takes part: the slice
of a physical address is that of its local address on every package. (R170) -/
def Obligations.HomeSliceOfALine : Prop :=
  ∀ pa : Nat, let la := paLa pa
    let n := homeSlice la
    n / 64 = la / 64 % 3 ∧ n < 192 ∧
    (∀ i, i < 5 → n.testBit i = (la.testBit (6 + i) ^^ la.testBit (12 + i) ^^ la.testBit (18 + i) ^^ la.testBit (24 + i) ^^ la.testBit (30 + i) ^^
      la.testBit (36 + i) ^^ la.testBit (42 + i))) ∧
    n.testBit 5 = (la.testBit 11 ^^ la.testBit 17 ^^ la.testBit 23 ^^ la.testBit 29 ^^ la.testBit 35 ^^ la.testBit 41) ∧
    n / 64 = (((List.range 41).filter fun i => i % 2 = 0 ∧ la.testBit (i + 6)).length + 2 * ((List.range 41).filter fun i => i % 2 = 1 ∧ la.testBit (i + 6)).length) % 3 ∧
    ordOf (tileOf (nodeStop (sliceNode n))) = some (n / 32) ∧ stopIdx (nodeStop (sliceNode n)) = n % 32

/-- For every value of MC_MAP, the channel, bank, row and line of the address that R231 gives a data line are that line's own; and every line
address from 0x8000_0000 up is the address that R231 gives to its channel, bank, row and line, which are a channel below 48, a bank below 16 and a
line below 28. (R229; R230; R231) -/
def Obligations.DramMapIsOneToOne : Prop :=
  (∀ (map : BitVec 32) (p : DramPos), p.chan < 48 → p.bank < 16 → p.line < 28 → dramPos map (dramAddr map p) = p) ∧
  ∀ (map : BitVec 32) (la : Nat), 0x8000_0000 ≤ la → la % 64 = 0 →
    dramAddr map (dramPos map la) = la ∧ (dramPos map la).chan < 48 ∧ (dramPos map la).bank < 16 ∧ (dramPos map la).line < 28

/-- A read or write that reaches an online channel with nothing staged and room in its bank queue enters the queue, a write being acknowledged; a
read of a line with a queued whole write is answered from it; with its staging buffer full it waits. An offline channel acknowledges writes and
answers reads with poison; a port that is off answers with status 3; a channel in any other state lets the request wait. CHANNEL_LINE_ACCESS
performs the request that R240 picks: first the check line that it puts out goes to DRAM; a read, a masked write and a write that needs its check
line send a read out; another whole write is stored with its poison mark and two bursts await their CRC. READ_BURST_RETURN answers a line with what
its stored symbols decode to, counts a corrected one, answers an uncorrectable one with poison and retires its page, and either is written again; a
write that has read goes on to its write, merged where it is masked; a burst that fails its CRC is read again, and the fourth failure in a row
starts a short retrain. WRITE_CRC_RESULT confirms the oldest burst or replays. (R202; R234; R235; R237; R238; R239; R240; R241; R249; R250; R253;
R454) -/
def Obligations.DramRequestsServed : Prop :=
  let only (s t : State) (ch : Fin 48) : Prop :=
    t = { s with dram := { s.dram with chans := t.dram.chans }, mesh := t.mesh, perf := t.perf, irq := { s.irq with events := t.irq.events } } ∧
    ∀ c, c ≠ ch.val → t.chan c = s.chan c
  let stored (s t : State) (ch : Fin 48) : Prop :=
    t = { s with mem := { s.mem with dram := t.mem.dram }, dram := { s.dram with chans := t.dram.chans, marks := t.dram.marks }, mesh := t.mesh, perf := t.perf,
                 irq := { s.irq with events := t.irq.events } } ∧
    ∀ c, c ≠ ch.val → t.chan c = s.chan c
  let stop (ch : Fin 48) : Nat := nodeStop (chanNode ch.val)
  let empty (c : Chan) : Prop := c.staging = [] ∧ c.gstaging = [] ∧ c.repairq = []
  (∀ (s : State) (ch : Fin 48) (f : Flit), let c := s.chan ch.val
    s.pow.portOff.getLsbD (ch.val / 2) = false →
    (c.st = .online ∨ c.st = .shortRetrain → (if f.vc = 7 then 8 ≤ c.gstaging.length else 32 ≤ c.staging.length) →
      exec (.memRead ch f) s = .next s ∧ exec (.memWrite ch f) s = .next s ∧ exec (.memWriteMasked ch f) s = .next s) ∧
    (c.st = .online → empty c →
      (let r := s.memReqOf .read f
       c.room r = true →
        (c.writeTo r.la = none → ∃ t, exec (.memRead ch f) s = .next t ∧ only s t ch ∧
          t.chan ch.val = { c with bankq := c.bankq ++ [r], writePhase := c.writePhase && !r.guar }) ∧
        (∀ w, c.writeTo r.la = some w → w.kind ≠ .masked → ∃ t, exec (.memRead ch f) s = .next t ∧ only s t ch ∧ t.chan ch.val = c ∧
          t.lastSent (stop ch) = some (readAnswer ch.val r w.data w.poison)) ∧
        (∀ w, c.writeTo r.la = some w → w.kind = .masked → ∃ t, exec (.memRead ch f) s = .next t ∧ only s t ch ∧
          t.chan ch.val = { c with bankq := c.bankq ++ [r] })) ∧
      (∀ k, c.injCtl.getLsbD 31 = false →
        (k = .write ∨ (k = .masked ∧ f.mask ≠ BitVec.allOnes 64)) →
        let r := s.memReqOf k f
        c.room r = true → ∃ t, exec (if k = .write then .memWrite ch f else .memWriteMasked ch f) s = .next t ∧ only s t ch ∧
          t.chan ch.val = { c with bankq := (c.bankq.filter fun q => !(q.kind == .repair && q.la == r.la)) ++ [r] } ∧
          t.lastSent (stop ch) = some (memReply ch.val r .writeDone)))) ∧
  (∀ (s : State) (ch : Fin 48) (f : Flit), s.pow.portOff.getLsbD (ch.val / 2) = false →
    ((s.chan ch.val).st = .offline →
      (∀ c ∈ [Instr.memWrite ch f, .memWriteMasked ch f], ∃ t, exec c s = .next t ∧ only s t ch ∧ t.chan ch.val = s.chan ch.val ∧
        t.lastSent (stop ch) = some (memReply ch.val (s.memReqOf .write f) .writeDone)) ∧
      (∃ t, exec (.memRead ch f) s = .next t ∧ only s t ch ∧ t.chan ch.val = s.chan ch.val ∧ t.lastSent (stop ch) = some (readAnswer ch.val (s.memReqOf .read f) 0 true))) ∧
    ((s.chan ch.val).st ∉ [ChState.online, .shortRetrain, .offline] →
      exec (.memRead ch f) s = .next s ∧ exec (.memWrite ch f) s = .next s ∧ exec (.memWriteMasked ch f) s = .next s)) ∧
  (∀ (s : State) (ch : Fin 48) (f : Flit), s.pow.portOff.getLsbD (ch.val / 2) = true → ∀ c ∈ [Instr.memRead ch f, .memWrite ch f, .memWriteMasked ch f],
    ∃ t g, exec c s = .next t ∧ only s t ch ∧ t.chan ch.val = s.chan ch.val ∧ t.lastSent (stop ch) = some g ∧ g.op = .errorReply ∧ g.sts = 3) ∧
  (∀ (s : State) (ch : Fin 48), let a := (s.chan ch.val).phaseIn
    let c := if a.pick.isNone = true then a.phaseOut else a
    empty (s.chan ch.val) →
    ((s.chan ch.val).st ≠ .online → exec (.channelLineAccess ch) s = .next s) ∧
    ((s.chan ch.val).st = .online →
      (c.pick = none → exec (.channelLineAccess ch) s = .next (s.setChan ch.val c)) ∧
      ∀ r late, c.pick = some (r, late) →
        (∀ k, c.before r = some k → ∃ t, exec (.channelLineAccess ch) s = .next t ∧ only s t ch ∧ t.chan ch.val = if c.retryRoom 2 = true then c.writeBack k else c) ∧
        (c.before r = none →
          (c.reads r = true → ∃ t, exec (.channelLineAccess ch) s = .next t ∧ only s t ch ∧
            (t.chan ch.val).reading = c.reading ++ [r] ∧ (t.chan ch.val).bankq = c.bankq.erase r ∧ (t.chan ch.val).retry = c.retry ∧
            tabGet 0 (t.chan ch.val).open_ r.bank = r.row + 1) ∧
          (c.reads r = false → c.retryRoom 2 = false → ∃ t, exec (.channelLineAccess ch) s = .next t ∧ only s t ch ∧ t.chan ch.val = c) ∧
          (c.reads r = false → c.retryRoom 2 = true → r.inj = 0 → ∃ t, exec (.channelLineAccess ch) s = .next t ∧ stored s t ch ∧
            t.mem.dram = memLinePut s.mem.dram r.la (BitVec.allOnes 64) r.data ∧
            t.mark r.la = { err := 0, poison := r.poison, aerr := 0 } ∧ (∀ a, a / 64 ≠ r.la / 64 → t.mark a = s.mark a) ∧
            (t.chan ch.val).retry = c.retry ++ [(r.la, 0), (r.la, 1)] ∧ (t.chan ch.val).reading = c.reading ∧ (t.chan ch.val).bankq = c.bankq.erase r ∧
            tabGet 0 (t.chan ch.val).open_ r.bank = r.row + 1)))) ∧
  (∀ (s : State) (ch : Fin 48) (r : MemReq) (rest : List MemReq) (flips : BitVec 576) (aerr : BitVec 32), let c := s.chan ch.val
    let m : LineMark := { s.mark r.la with err := (s.mark r.la).err ^^^ flips, aerr := (s.mark r.la).aerr ^^^ aerr }
    let d := m.read (memLine s.mem.dram r.la)
    let again (t : State) (poison : Bool) : Prop := c.staging = [] → c.gstaging = [] →
      (c.bankq.any fun q => q.isWrite && q.la == r.la) = true ∨
        ∃ q, q ∈ (t.chan ch.val).bankq ++ (t.chan ch.val).repairq ∧ q.kind = .repair ∧ q.la = r.la ∧ q.data = d ∧ q.poison = poison
    c.st = .online → c.reading = r :: rest → c.injected 7 = false →
    (r.kind = .read →
      (m.decode = .clean → ∃ t, exec (.readBurstReturn ch true flips aerr) s = .next t ∧ t.lastSent (stop ch) = some (readAnswer ch.val r d false) ∧
        t.chan ch.val = { c.crcPassed false with reading := rest } ∧ t.mark r.la = m ∧ t.mem = s.mem) ∧
      (∀ x, m.decode = .corrected x → ∃ t, exec (.readBurstReturn ch true flips aerr) s = .next t ∧ s.newlySent t (stop ch) (readAnswer ch.val r d false) ∧
        (t.chan ch.val).corrected = c.corrected + 1 ∧ (t.chan ch.val).reading = rest ∧ again t false ∧ t.mem = s.mem) ∧
      (∀ x, m.decode = .poisoned x → ∃ t, exec (.readBurstReturn ch true flips aerr) s = .next t ∧ t.lastSent (stop ch) = some (readAnswer ch.val r d true) ∧
        t.chan ch.val = { c.crcPassed false with reading := rest } ∧ t.mem = s.mem) ∧
      (∀ x, m.decode = .bad x → ∃ t, exec (.readBurstReturn ch true flips aerr) s = .next t ∧ s.newlySent t (stop ch) (readAnswer ch.val r d true) ∧
        t.err.orders = s.err.orders + 1 ∧ (t.chan ch.val).reading = rest ∧ again t true ∧ t.mem = s.mem ∧
        (s.ren.up = true → s.dram.retired.length < 4096 →
          (t.dram.retired.any fun p => p.ch == ch.val && p.bank == r.bank && p.row == r.row) = true))) ∧
    (r.kind = .scrub → m.decode = .clean → ∃ t, exec (.readBurstReturn ch true flips aerr) s = .next t ∧ t.mem = s.mem ∧ t.mesh = s.mesh ∧
      t.chan ch.val = { c.crcPassed false with reading := rest, scrubBusy := false, scrubAt := (c.scrubAt + 1) % max 1 s.scrubLines }) ∧
    (r.isWrite = true → c.retryRoom 2 = false → exec (.readBurstReturn ch true flips aerr) s = .next s) ∧
    (r.isWrite = true → c.retryRoom 2 = true → r.inj = 0 → ∃ t, exec (.readBurstReturn ch true flips aerr) s = .next t ∧
      t.mem = { s.mem with dram := memLinePut s.mem.dram r.la (BitVec.allOnes 64) (if r.kind = .masked then mergeLine d r.data r.mask else r.data) } ∧
      t.mark r.la = { err := 0, poison := r.poison || (r.kind == .masked && m.lost), aerr := 0 } ∧ (∀ a, a / 64 ≠ r.la / 64 → t.mark a = s.mark a) ∧
      (t.chan ch.val).retry = c.retry ++ [(r.la, 0), (r.la, 1)] ∧ (t.chan ch.val).reading = rest ∧ ∀ k, k ≠ ch.val → t.chan k = s.chan k) ∧
    (c.justRetrained = false → c.streak < 3 → c.wstreak < 4 → c.replayAt.length < 63 →
      ∃ t, exec (.readBurstReturn ch false flips aerr) s = .next t ∧ only s t ch ∧
        t.chan ch.val = { c with replays := c.replays + 1, streak := c.streak + 1, replayAt := s.time :: c.replayAt }) ∧
    (c.justRetrained = false → 3 ≤ c.streak → c.retrainEnd = none → ∃ t, exec (.readBurstReturn ch false flips aerr) s = .next t ∧ only s t ch ∧
      t.chan ch.val = { c with replays := c.replays + 1, streak := 0, wstreak := 0, replayAt := [], st := .shortRetrain })) ∧
  (∀ (s : State) (ch : Fin 48) (x : Nat × Nat) (rest : List (Nat × Nat)), let c := s.chan ch.val
    c.st = .online → c.retry = x :: rest → c.injected 6 = false →
    (∃ t, exec (.writeCrcResult ch true) s = .next t ∧ only s t ch ∧ t.chan ch.val = { c.crcPassed true with retry := rest, confirmed := c.confirmed + 1 }) ∧
    (c.justRetrained = false → c.wstreak < 3 → c.streak < 4 → c.replayAt.length < 63 → ∃ t, exec (.writeCrcResult ch false) s = .next t ∧ only s t ch ∧
      t.chan ch.val = { c with replays := c.replays + 1, wstreak := c.wstreak + 1, replayAt := s.time :: c.replayAt }) ∧
    (c.justRetrained = false → 3 ≤ c.wstreak → c.retrainEnd = none → ∃ t, exec (.writeCrcResult ch false) s = .next t ∧ only s t ch ∧
      t.chan ch.val = { c with replays := c.replays + 1, streak := 0, wstreak := 0, replayAt := [], st := .shortRetrain }))

/-- WRITE_PHASE_TIMEOUT starts the write phase at 10 us after the oldest write entered. A short retrain that ends well brings the channel online and
is recorded, one whose check fails takes it offline. ROW_IDLE_CLOSE closes the row of a bank without requests and no other row, where the
write-backs of its check lines find room. REFRESH_DUE, of the bank whose turn it is, postpones the refresh of a bank with requests up to eight
times, or uses one pulled forward, makes up for what was postponed on an idle one, and waits during a short retrain; of another bank it does
nothing. DEVICE_TEMP_READ takes the temperature, hot above 85 until 80 or less. WRITE_TIMING_CHECK changes nothing. SCRUB_READ queues one read of
the next data line. PAGE_THRESHOLD retires the page reported. MC_INJ_ARM takes KIND, and ARMED or the refusal bit. (R241; R242; R245; R247; R251;
R254; R255; R256; R258; R260; R261; R263) -/
def Obligations.DramUpkeepComplete : Prop :=
  let only (s t : State) (ch : Fin 48) : Prop := t = { s with dram := { s.dram with chans := t.dram.chans } } ∧ ∀ c, c ≠ ch.val → t.chan c = s.chan c
  (∀ (s : State) (ch : Fin 48),
    (∀ r, ((s.chan ch.val).bankq.find? fun r => r.isWrite) = some r → ∃ t, exec (.writePhaseTimeout ch) s = .next t ∧ t.time = max s.time (r.at_ + 10000) ∧
      t.chan ch.val = { s.chan ch.val with writePhase := true, wDone := 0 } ∧ (∀ c, c ≠ ch.val → t.chan c = s.chan c) ∧
      t = { s with dram := { s.dram with chans := t.dram.chans }, time := t.time, mesh := { s.mesh with cycle := t.mesh.cycle, ahead := t.mesh.ahead } }) ∧
    (((s.chan ch.val).bankq.find? fun r => r.isWrite) = none → exec (.writePhaseTimeout ch) s = .next s)) ∧
  (∀ (s : State) (ch : Fin 48) (ns : Nat), let c := s.chan ch.val
    (c.st ≠ .shortRetrain → ∀ ok, exec (.shortRetrainDone ch ok ns) s = .next s) ∧
    (c.st = .shortRetrain →
      (∃ t, exec (.shortRetrainDone ch true ns) s = .next t ∧ t.err.orders = s.err.orders + 1 ∧
        t.chan ch.val = { c with st := .online, retrains := c.retrains + 1, lastRetrain := ns, retrainEnd := some s.time, justRetrained := true, streak := 0, wstreak := 0 } ∧
        t = { s with dram := { s.dram with chans := t.dram.chans }, err := t.err, irq := { s.irq with src := t.irq.src } }) ∧
      (∃ t, exec (.shortRetrainDone ch false ns) s = .next t ∧ (t.chan ch.val).st = .offline ∧ (t.chan ch.val).bankq = [] ∧ (t.chan ch.val).reading = [] ∧
        (t.chan ch.val).retry = [] ∧ t.mem = s.mem ∧ ∀ c, c ≠ ch.val → t.chan c = s.chan c))) ∧
  (∀ (s : State) (ch : Fin 48) (bank : Fin 16), (s.chan ch.val).st = .online →
    ((s.chan ch.val).bankq.any fun r => r.bank == bank.val) = false → ((s.chan ch.val).reading.any fun r => r.bank == bank.val) = false →
    ∃ t, exec (.rowIdleClose ch bank) s = .next t ∧ only s t ch ∧ (t.chan ch.val).bankq = (s.chan ch.val).bankq ∧
      ((s.chan ch.val).mayClose bank.val = false → t.chan ch.val = s.chan ch.val) ∧
      ((s.chan ch.val).mayClose bank.val = true → tabGet 0 (t.chan ch.val).open_ bank.val = 0) ∧
      (∀ b, b ≠ bank.val → tabGet 0 (t.chan ch.val).open_ b = tabGet 0 (s.chan ch.val).open_ b)) ∧
  (∀ (s : State) (ch : Fin 48) (bank : Fin 16), let c := s.chan ch.val
    let busy := c.bankq.any fun r => r.bank == bank.val
    let next := (bank.val + 1) % 16
    ∃ t, exec (.refreshDue ch bank) s = .next t ∧ (∀ k, k ≠ ch.val → t.chan k = s.chan k) ∧
      t = { s with dram := { s.dram with chans := t.dram.chans }, perf := t.perf, mesh := t.mesh, irq := { s.irq with events := t.irq.events } } ∧
      (bank.val ≠ c.refAt ∨ (c.st ≠ .online ∧ c.st ≠ .shortRetrain) → t.chan ch.val = c) ∧
      (bank.val = c.refAt → c.st = .shortRetrain →
        t.chan ch.val = { c with postponed := tabSet 0 c.postponed bank.val (tabGet 0 c.postponed bank.val + 1), refAt := next }) ∧
      (bank.val = c.refAt → c.st = .online →
        (busy = true → 0 < tabGet 0 c.pulled bank.val →
          t.chan ch.val = { c with pulled := tabSet 0 c.pulled bank.val (tabGet 0 c.pulled bank.val - 1), refAt := next }) ∧
        (busy = true → tabGet 0 c.pulled bank.val = 0 → tabGet 0 c.postponed bank.val < 8 →
          t.chan ch.val = { c with postponed := tabSet 0 c.postponed bank.val (tabGet 0 c.postponed bank.val + 1), refAt := next }) ∧
        (busy = false → c.mayClose bank.val = true → (t.chan ch.val).refAt = next ∧
          tabGet 0 (t.chan ch.val).postponed bank.val = 0 ∧ tabGet 0 (t.chan ch.val).open_ bank.val = 0 ∧
          c.refreshes + tabGet 0 c.postponed bank.val + 1 ≤ (t.chan ch.val).refreshes ∧ tabGet 0 c.pulled bank.val ≤ tabGet 0 (t.chan ch.val).pulled bank.val))) ∧
  (∀ (s : State) (ch : Fin 48) (temp : BitVec 8), (s.chan ch.val).st = .online ∨ (s.chan ch.val).st = .shortRetrain →
    ∃ t, exec (.deviceTempRead ch temp) s = .next t ∧ only s t ch ∧
      t.chan ch.val = { s.chan ch.val with temp := temp, hot := (t.chan ch.val).hot } ∧
      (85 < temp.toInt → (t.chan ch.val).hot = true) ∧ (temp.toInt ≤ 80 → (t.chan ch.val).hot = false) ∧
      (80 < temp.toInt → temp.toInt ≤ 85 → (t.chan ch.val).hot = (s.chan ch.val).hot)) ∧
  (∀ (s : State) (ch : Fin 48), exec (.writeTimingCheck ch) s = .next s) ∧
  (∀ (s : State) (ch : Fin 48), let c := s.chan ch.val
    let p : DramPos := { chan := ch.val, bank := c.scrubAt / 28 % 16, row := c.scrubAt / 28 / 16, line := c.scrubAt % 28 }
    c.st = .online → c.scrubBusy = false → s.dram.scrubHours ≠ 0 → (c.bankq.filter fun q => q.bank == p.bank).length < 30 →
    ∃ t r, exec (.scrubRead ch) s = .next t ∧ only s t ch ∧ t.chan ch.val = { c with bankq := c.bankq ++ [r], scrubBusy := true } ∧
      r.kind = .scrub ∧ r.la = dramAddr s.dram.map p ∧ r.bank = p.bank ∧ r.row = p.row ∧ r.line = p.line) ∧
  (∀ (s : State) (ch : Fin 48) (p : Nat), (s.chan ch.val).report = some p → s.ren.up = true → s.dram.retired.length < 4096 →
    (s.dram.retired.any fun r => r.ch == ch.val && r.bank == p % 16 && r.row == p / 16) = false →
    ∃ t, exec (.pageThreshold ch) s = .next t ∧ t.dram.retired = s.dram.retired ++ [{ ch := ch.val, bank := p % 16, row := p / 16, cause := 0 }] ∧
      t.chan ch.val = { s.chan ch.val with report := none } ∧
      t = { s with dram := { s.dram with chans := t.dram.chans, retired := t.dram.retired }, ren := { s.ren with notices := t.ren.notices, lostn := t.ren.lostn },
                   irq := { s.irq with src := t.irq.src } }) ∧
  (∀ (s : State) (who : Master) (ch : Fin 48) (v : BitVec 32), mayWrite .r31 who = true →
    let kind := fld v 27 24
    let la := fld (s.chan ch.val).injLine 46 6 * 64
    let line := kind ∈ [1, 2, 3, 4, 5, 8]
    let here := areaOf s la = .dram ∧ s.chanOf la = ch.val
    ∃ t, exec (.mcInjArm who ch v) s = .next t ∧ only s t ch ∧ t.chan ch.val = { s.chan ch.val with injCtl := (t.chan ch.val).injCtl } ∧
      fld (t.chan ch.val).injCtl 27 24 = kind ∧ ((t.chan ch.val).injCtl.getLsbD 31 = true ↔ (line ∧ here) ∨ kind = 6 ∨ kind = 7) ∧
      ((t.chan ch.val).injCtl.getLsbD 30 = true ↔ line ∧ ¬here))

/-- For every command of the command table: while it is not in turn, or when the mailbox holds another code, nothing changes; when it is in turn and
fails a check of R429, its response carries that check's status and no payload, and nothing else changes. The status is BAD_FIELD for a must-be-zero
byte of the header, then BAD_CMD for an unknown code, then BAD_LEN, then DENIED for a class or a binding that the mailbox lacks and for
MAILBOX_ASSIGN elsewhere than in mailbox 0. (R429; R430; R431; R432; R433; R434) -/
def Obligations.RennetCommandsChecked : Prop :=
  (∀ (s : State) (n : Fin 32) (ok : BitVec 48) (trained : Bool) (nbr : Fin 512) (sig chain : List Byte) (tok : DbgToken) (img : ImageInfo) (c : Instr) (code : Nat),
    (c, code) ∈ rennetCommands n ok trained nbr sig chain tok img →
    ((s.inTurn n.val = false ∨ s.reqCode n.val ≠ code) → exec c s = .next s) ∧
    (s.inTurn n.val = true → s.reqCode n.val = code → s.cmdStatus n.val ≠ 0 → fails c s n (s.cmdStatus n.val))) ∧
  ∀ (s : State) (n : Fin 32),
    (s.reqAt n.val 8 8 ≠ 0 → s.cmdStatus n.val = 3) ∧
    (s.reqAt n.val 8 8 = 0 → cmdRow (s.reqCode n.val) = none → s.cmdStatus n.val = 1) ∧
    ∀ cls len buf, s.reqAt n.val 8 8 = 0 → cmdRow (s.reqCode n.val) = some (cls, len, buf) →
      (s.reqLen n.val ≠ len.getD (72 + 16 * s.arg n.val 2 1) → s.cmdStatus n.val = 2) ∧
      (s.reqLen n.val = len.getD (72 + 16 * s.arg n.val 2 1) → s.reqLen n.val ≤ 1776 →
        ((s.mb n.val).cls.getLsbD cls = false → s.cmdStatus n.val = 4) ∧ (s.bindingOk n.val (s.reqCode n.val) = false → s.cmdStatus n.val = 4) ∧
        (s.reqCode n.val = 0x0002 → n ≠ 0 → s.cmdStatus n.val = 4) ∧
        ((s.mb n.val).cls.getLsbD cls = true → s.bindingOk n.val (s.reqCode n.val) = true → (s.reqCode n.val = 0x0002 → n = 0) → s.cmdStatus n.val = 0))

/-- The queries of the command table that read no buffer answer with what the package holds and change nothing else: RENNET_INFO,
MEM_CHANNEL_STATUS, FABRIC_ROUTE_QUERY, FABRIC_LINK_STATUS, FABRIC_TIME_STATUS, POWER_STATUS, BRINE_STATUS, INSTANCE_QUERY; a field out of range
completes with BAD_FIELD, an instance that does not exist with NOT_FOUND. NOTICE_READ returns the oldest notices and takes them from the queue.
MEM_RETIRE_LIST and ERROR_LOG_READ complete with BAD_FIELD for a reserved field that is not zero, with BUF_FAULT for a buffer that breaks R442, and
otherwise write what fits of the retired pages and of the log into the buffer. (R191; R256; R319; R330; R337; R434; R440; R441; R442; R461; R462;
R500) -/
def Obligations.RennetQueriesAnswered : Prop :=
  ∀ (s : State) (n : Fin 32), let a (o k : Nat) : Nat := s.arg n.val o k
  (s.serves n 0x0001 = true → runs (.rennetInfo n) s s n
    (leBytes 4 s.fwVer.toNat ++ leBytes 4 Config.ruleVersion.toNat ++ leBytes 2 s.ownPkg ++ leBytes 1 (b2n s.ren.started) ++ leBytes 1 (min 255 s.ren.restarts) ++
      leBytes 4 s.ren.violations)) ∧
  (s.serves n 0x0302 = true →
    (47 < a 0 1 → fails (.memChannelStatus n) s n 3) ∧
    (a 0 1 ≤ 47 → let c := s.chan (a 0 1)
      runs (.memChannelStatus n) s s n (leBytes 1 (chStateCode c.st) ++ leBytes 1 c.temp.toNat ++ leBytes 1 (min 255 c.trainFail) ++ leBytes 1 0 ++
        leBytes 4 c.retrains ++ leBytes 8 c.corrected ++ leBytes 8 c.replays ++ leBytes 4 c.lastRetrain))) ∧
  (s.serves n 0x0701 = true →
    (a 2 2 = 0 ∨ 256 < a 2 2 ∨ 512 < a 0 2 + a 2 2 → fails (.fabricRouteQuery n) s n 3) ∧
    (a 2 2 ≠ 0 → a 2 2 ≤ 256 → a 0 2 + a 2 2 ≤ 512 → ∃ head body, runs (.fabricRouteQuery n) s s n (head ++ body) ∧ head.length = 8 ∧ body.length = 4 * a 2 2 ∧
      (∀ l, l < 8 → head.getD l 0 = BitVec.ofNat 8 (b2n ((s.link l).st == .up) * 128 + (match (s.link l).group with | some g => 64 + g.val | none => 0))) ∧
      ∀ i, i < a 2 2 → (body.drop (4 * i)).take 4 =
        leBytes 4 (if (s.route (a 0 2 + i)).v then 2 ^ 31 + (s.route (a 0 2 + i)).group.val * 2 ^ 24 + (s.route (a 0 2 + i)).hops % 512 else 0))) ∧
  (s.serves n 0x0702 = true →
    (7 < a 0 1 → fails (.fabricLinkStatus n) s n 3) ∧
    (a 0 1 ≤ 7 → let k := s.link (a 0 1)
      runs (.fabricLinkStatus n) s s n (leBytes 1 (linkCode k.st) ++ leBytes 1 k.width.toNat ++ leBytes 2 k.nbr.toNat ++
        leBytes 2 (match tabGet none s.plat.linkGroup (a 0 1) with | some (_, p) => p.val | none => 0) ++ leBytes 2 0 ++ leBytes 8 k.corrected ++ leBytes 8 k.bad ++
        leBytes 8 k.replays ++ leBytes 4 k.recoveries ++ leBytes 4 k.downs ++ leBytes 1 k.cause))) ∧
  (s.serves n 0x0706 = true → runs (.fabricTimeStatus n) s s n
    (leBytes 2 (if s.graop.timeState = .root then s.ownPkg else s.graop.root) ++ leBytes 2 s.graop.rootHops ++ leBytes 1 (timeStCode s.graop.timeState) ++
      leBytes 3 0 ++ intBytes 8 s.graop.offset ++ intBytes 4 s.graop.rate)) ∧
  (s.serves n 0x0804 = true → runs (.powerStatus n) s s n
    (leBytes 2 s.pow.slowW ++ leBytes 2 s.pow.limitW ++ intBytes 1 s.tjMax ++ leBytes 3 0 ++ leBytes 4 s.pow.throttle.toNat)) ∧
  (s.serves n 0x0810 = true → runs (.brineStatus n) s s n
    (leBytes 4 s.brine.budget ++ leBytes 4 s.brine.free ++ leBytes 4 s.brine.energy ++ leBytes 4 0 ++ leBytes 8 s.brine.fallback)) ∧
  (s.serves n 0x0404 = true →
    (63 < a 0 1 → fails (.instanceQuery n) s n 3) ∧ (a 0 1 ≤ 63 → (s.instance_ (a 0 1)).st = .none → fails (.instanceQuery n) s n 6) ∧
    (a 0 1 ≤ 63 → (s.instance_ (a 0 1)).st ≠ .none → let v := s.instance_ (a 0 1)
      runs (.instanceQuery n) s s n (leBytes 1 (inStCode v.st) ++ leBytes 1 v.slots.length ++ leBytes 1 v.wins.length ++ leBytes 1 v.bw ++ leBytes 2 v.first ++
        leBytes 2 v.last ++ leBytes 8 v.chmap ++ leBytes 1 v.ridq ++ leBytes 1 v.ridr ++ leBytes 2 v.bound ++ leBytes 4 0 ++
        v.wins.flatMap fun w => leBytes 8 (w.base + b2n w.r + 2 * b2n w.w) ++ leBytes 8 w.limit))) ∧
  (s.serves n 0x0003 = true →
    (a 0 1 = 0 ∨ 64 < a 0 1 → fails (.noticeRead n) s n 3) ∧
    (a 0 1 ≠ 0 → a 0 1 ≤ 64 → let out := s.ren.notices.take (a 0 1)
      runs (.noticeRead n) s { s with ren := { s.ren with notices := s.ren.notices.drop (a 0 1) } } n
        (leBytes 1 out.length ++ leBytes 1 0 ++ leBytes 2 s.ren.lostn ++ leBytes 4 0 ++ out.flatMap Notice.bytes))) ∧
  (s.serves n 0x0305 = true →
    (a 2 6 ≠ 0 → fails (.memRetireList n) s n 3) ∧ (a 2 6 = 0 → s.bufOk n.val = false → fails (.memRetireList n) s n 12) ∧
    (a 2 6 = 0 → s.bufOk n.val = true → let out := (s.dram.retired.drop (a 0 2)).take ((s.buf n.val).2 / 64)
      runs (.memRetireList n) s (s.bufPut n.val (out.flatMap fun r => r.bytes s.dram.map)) n (leBytes 2 s.dram.retired.length ++ leBytes 2 out.length))) ∧
  (s.serves n 0x0A01 = true →
    (a 4 4 ≠ 0 → fails (.errorLogRead n) s n 3) ∧ (a 4 4 = 0 → s.bufOk n.val = false → fails (.errorLogRead n) s n 12) ∧
    (a 4 4 = 0 → s.bufOk n.val = true → let out := (s.ren.log.filter fun r => decide (a 0 4 ≤ r.index)).take ((s.buf n.val).2 / 64)
      runs (.errorLogRead n) s (s.bufPut n.val (out.flatMap LogRec.bytes)) n
        (leBytes 4 (match out.getLast? with | some r => r.index + 1 | none => s.ren.logNext) ++ leBytes 4 out.length)))

/-- Commands about mailboxes, memory, the fabric, the L3 and power, served with fields in range, take effect and complete with OK: MAILBOX_ASSIGN
rewrites MB_OWNER of its target, or waits while that is BUSY; MEM_TRAIN trains the channels of its mask before the first host instruction and
completes with STATE after it; MEM_SCRUB_SET sets the period; MEM_PAGE_RETIRE retires the page, with BAD_FIELD, EXISTS and NO_RESOURCE where R438
says; FABRIC_INBOUND_SET sets the filter; FABRIC_LINK_ENABLE trains a link that is off, which then passes the HELLO check or is down;
CACHE_WAYGROUP_SET opens and closes groups; POWER_LIMIT_SET, POWER_FREQ_SET, POWER_MESH_FREQ_SET and POWER_DOMAIN_SET set limits, ceilings, the mesh
frequency, which a reservation forbids, and domains. A field out of range completes with BAD_FIELD. (R191; R196; R246; R254; R256; R325; R435; R438;
R449; R457; R459; R466) -/
def Obligations.RennetSettingsTaken : Prop :=
  ∀ (s : State) (n : Fin 32), let a (o k : Nat) : Nat := s.arg n.val o k
  (s.serves n 0x0002 = true →
    let bad := a 0 1 = 0 ∨ 30 < a 0 1 ∨ (63 < a 1 1 ∧ a 1 1 ≠ 0xFF) ∨ 255 < a 2 2 ∨ 511 < a 4 2 ∨ 511 < a 6 2 ∨ someHart (a 4 2) (a 6 2) = false
    (bad → fails (.mailboxAssign n) s n 3) ∧
    (¬bad → (s.mb (a 0 1)).st = .busy → exec (.mailboxAssign n) s =
      .next { s with ren := { s.ren with waitAssign := s.ren.waitAssign.filter (fun k => k != n) ++ [n] } }) ∧
    (¬bad → (s.mb (a 0 1)).st ≠ .busy → ∃ u, runs (.mailboxAssign n) s u n [] ∧
      u.mb (a 0 1) = { s.mb (a 0 1) with
        valid := a 2 2 != 0, inst := BitVec.ofNat 8 (a 1 1), cls := BitVec.ofNat 9 (a 2 2), first := a 4 2, last := a 6 2 } ∧
      (∀ m, m ≠ a 0 1 → u.mb m = s.mb m) ∧ u = { s with ren := { s.ren with mbox := u.ren.mbox, waitAssign := s.ren.waitAssign.filter fun k => k != n } })) ∧
  (s.serves n 0x0301 = true → ∀ ok : BitVec 48,
    (1 < a 0 1 ∨ 2 ^ 48 ≤ a 8 8 ∨ a 1 7 ≠ 0 → fails (.memTrain n ok) s n 3) ∧
    (a 0 1 ≤ 1 → a 8 8 < 2 ^ 48 → a 1 7 = 0 → s.ren.started = true → fails (.memTrain n ok) s n 8) ∧
    (a 0 1 ≤ 1 → a 8 8 < 2 ^ 48 → a 1 7 = 0 → s.ren.started = false → ∃ u pass, runs (.memTrain n ok) s u n (leBytes 8 pass ++ leBytes 8 (a 8 8 - pass)) ∧
      (∀ ch, ch < 48 → pass.testBit ch = (bitOf (a 8 8) ch && s.trainPasses ch (a 0 1 == 1) ok)) ∧
      (∀ ch, u.chan ch = if ch < 48 ∧ bitOf (a 8 8) ch then (s.chan ch).trained (s.trainPasses ch (a 0 1 == 1) ok) else s.chan ch))) ∧
  (s.serves n 0x0303 = true →
    (168 < a 0 2 → fails (.memScrubSet n) s n 3) ∧
    (a 0 2 ≤ 168 → runs (.memScrubSet n) s { s with dram := { s.dram with scrubHours := a 0 2 } } n [])) ∧
  (s.serves n 0x0304 = true → let p := dramPos s.dram.map (a 0 8)
    let held := (s.dram.retired.any fun r => r.ch == p.chan && r.bank == p.bank && r.row == p.row) = true
    (areaOf s (a 0 8) ≠ .dram → fails (.memPageRetire n) s n 3) ∧ (areaOf s (a 0 8) = .dram → held → fails (.memPageRetire n) s n 7) ∧
    (areaOf s (a 0 8) = .dram → ¬held → 4096 ≤ s.dram.retired.length → fails (.memPageRetire n) s n 5) ∧
    (areaOf s (a 0 8) = .dram → ¬held → s.dram.retired.length < 4096 → ∃ u, u.dram.retired = s.dram.retired ++ [{ ch := p.chan, bank := p.bank, row := p.row, cause := 2 }] ∧
      runs (.memPageRetire n) s u n (leBytes 1 p.chan ++ leBytes 1 p.bank ++ leBytes 2 0 ++ leBytes 4 p.row ++ leBytes 2 s.dram.retired.length) ∧
      u = { s with dram := { s.dram with retired := u.dram.retired }, ren := { s.ren with notices := u.ren.notices, lostn := u.ren.lostn },
                   irq := { s.irq with src := u.irq.src } })) ∧
  (s.serves n 0x0705 = true → runs (.fabricInboundSet n) s { s with graop := { s.graop with inbound := ~~~(BitVec.ofNat 512 (a 0 64)) } } n []) ∧
  (s.serves n 0x0704 = true → ∀ (trained : Bool) (nbr : Fin 512), let k := s.link (a 0 1)
    (7 < a 0 1 → fails (.fabricLinkEnable n trained nbr) s n 3) ∧
    (a 0 1 ≤ 7 → (k.st ≠ .domainOff ∧ k.st ≠ .off) ∨ tabGet none s.plat.linkGroup (a 0 1) = none →
      runs (.fabricLinkEnable n trained nbr) s s n (leBytes 1 (linkCode k.st))) ∧
    (a 0 1 ≤ 7 → k.st = .domainOff ∨ k.st = .off → ∀ g want, tabGet none s.plat.linkGroup (a 0 1) = some (g, want) →
      (trained = false → runs (.fabricLinkEnable n trained nbr) s (s.setLink (a 0 1) { k with st := .down, downAt := s.time, disabling := false }) n (leBytes 1 4)) ∧
      (trained = true → ∃ u, runs (.fabricLinkEnable n trained nbr) s u n (leBytes 1 (if want = nbr then 2 else 5)) ∧
        (u.link (a 0 1)).st = (if want = nbr then .up else .held) ∧ (u.link (a 0 1)).group = if want = nbr then some g else none))) ∧
  (s.serves n 0x0610 = true → let ord := a 0 1
    ((5 < ord ∧ ord ≠ 0xFF) ∨ 15 < a 1 1 ∨ 15 < a 2 1 → fails (.cacheWaygroupSet n) s n 3) ∧
    ((ord ≤ 5 ∨ ord = 0xFF) → a 1 1 ≤ 15 → a 2 1 ≤ 15 → ∃ u, u = { s with coh := { s.coh with wayOff := u.coh.wayOff, wayDown := u.coh.wayDown } } ∧
      (∀ o, o < 6 → ∀ g, g < 4 → (tabGet 0 u.coh.wayOff o).getLsbD g =
        if (ord = 0xFF ∨ o = ord) ∧ bitOf (a 1 1) g then !(bitOf (a 2 1) g) else (tabGet 0 s.coh.wayOff o).getLsbD g) ∧
      (u.scansDone = true → runs (.cacheWaygroupSet n) s u n u.waygroups) ∧
      (u.scansDone = false → exec (.cacheWaygroupSet n) s = .next { u with ren := { s.ren with unfinished := s.ren.unfinished ++ [(.waygroup, some n)] } }))) ∧
  (s.serves n 0x0801 = true →
    (a 0 2 < 450 ∨ 750 < a 0 2 → fails (.powerLimitSet n) s n 3) ∧
    (450 ≤ a 0 2 → a 0 2 ≤ 750 → runs (.powerLimitSet n) s { s with pow := { s.pow with limitW := a 0 2 } } n [])) ∧
  (s.serves n 0x0802 = true → let mhz := a 24 2
    (mhz < 1000 ∨ 3600 < mhz ∨ mhz % 100 ≠ 0 → fails (.powerFreqSet n) s n 3) ∧
    (1000 ≤ mhz → mhz ≤ 3600 → mhz % 100 = 0 → ∃ u p, runs (.powerFreqSet n) s u n (leBytes 2 p) ∧
      (∀ h : Fin 192, u.hart (.t h) = if bitOf (a 0 24) h.val then { s.hart (.t h) with ceil := mhz } else s.hart (.t h)) ∧
      u.scores = s.scores ∧ u.mem = s.mem ∧ u.coh = s.coh ∧ u.mesh = s.mesh)) ∧
  (s.serves n 0x0803 = true → let mhz := a 0 2
    (mhz < 1000 ∨ 2000 < mhz ∨ mhz % 100 ≠ 0 → fails (.powerMeshFreqSet n) s n 3) ∧
    (1000 ≤ mhz → mhz ≤ 2000 → mhz % 100 = 0 → s.reserved = true → fails (.powerMeshFreqSet n) s n 8) ∧
    (1000 ≤ mhz → mhz ≤ 2000 → mhz % 100 = 0 → s.reserved = false → runs (.powerMeshFreqSet n) s { s with pow := { s.pow with meshMhz := mhz } } n [])) ∧
  (s.serves n 0x0805 = true → let i := a 1 1
    let on := a 2 1
    (1 < a 0 1 ∨ 1 < on ∨ (a 0 1 = 0 ∧ 5 < i) ∨ (a 0 1 = 1 ∧ 1 < i) → fails (.powerDomainSet n) s n 3) ∧
    (a 0 1 = 0 → i ≤ 5 → on ≤ 1 → s.bifurOff i = true → fails (.powerDomainSet n) s n 8) ∧
    (a 0 1 = 0 → i ≤ 5 → on ≤ 1 → s.bifurOff i = false → ∃ u, runs (.powerDomainSet n) s u n [] ∧
      (∀ j, j < 6 → u.pow.pcieOff.getLsbD j = if j = i then on == 0 else s.pow.pcieOff.getLsbD j) ∧
      (on = 1 → u.pcie = s.pcie) ∧ u = { s with pow := { s.pow with pcieOff := u.pow.pcieOff }, pcie := u.pcie }) ∧
    (a 0 1 = 1 → i ≤ 1 → on ≤ 1 → (∃ k, 32 * i ≤ k ∧ k < 32 * i + 32 ∧ ((s.instance_ k).st ≠ .none ∨ (s.dma k).busy = true)) → fails (.powerDomainSet n) s n 8) ∧
    (a 0 1 = 1 → i ≤ 1 → on ≤ 1 → (∀ k, 32 * i ≤ k → k < 32 * i + 32 → (s.instance_ k).st = .none ∧ (s.dma k).busy = false) →
      ∃ u, runs (.powerDomainSet n) s u n [] ∧ (∀ j, j < 2 → u.pow.engOff.getLsbD j = if j = i then on == 0 else s.pow.engOff.getLsbD j) ∧
        (∀ c, u.dma c = if on = 0 ∧ s.pow.engOff.getLsbD i = false ∧ 32 * i ≤ c ∧ c < 32 * i + 32 then .reset else s.dma c) ∧
        u = { s with pow := { s.pow with engOff := u.pow.engOff }, eng := { s.eng with chans := u.eng.chans } }))

/-- ATTEST_QUOTE writes body, signature and zeros, and completes with STATE once the seed is erased; CERT_CHAIN_READ, BRINE_JOURNAL_STORE and
BRINE_JOURNAL_LOAD move certificates and journal through the buffer, which must meet R442. DEBUG_LEVEL_SET lowers the level at once; to raise it the
token goes to the identity block, Open needing CONFIRM = 0xA5. TOKEN_CHECK_DONE enters the level of a valid token, erasing the seed for Open, and
ends its command with OK or AUTH. DBG_AUTH_SUBMIT queues a token. FW_STAGE writes an image that R475 accepts to the spare slot and otherwise
completes with AUTH; FW_COMMIT marks a staged image and completes with STATE without one. (R439; R442; R471; R472; R475; R477; R478; R480; R481;
R483; R484; R485) -/
def Obligations.SecurityCommandsComplete : Prop :=
  (∀ (s : State) (n : Fin 32), let a (o k : Nat) : Nat := s.arg n.val o k
    (s.serves n 0x0901 = true → ∀ sig : List Byte,
      (a 72 4 < 8192 → fails (.attestQuote n sig) s n 3) ∧ (8192 ≤ a 72 4 → s.bufOk n.val = false → fails (.attestQuote n sig) s n 12) ∧
      (8192 ≤ a 72 4 → s.bufOk n.val = true → s.sec.seedErased = true → fails (.attestQuote n sig) s n 8) ∧
      (8192 ≤ a 72 4 → s.bufOk n.val = true → s.sec.seedErased = false → sig.length = 4627 →
        runs (.attestQuote n sig) s (s.bufPut n.val (s.quoteBody n.val ++ sig ++ List.replicate 45 0)) n (leBytes 4 5139))) ∧
    (s.serves n 0x0902 = true → ∀ chain : List Byte,
      (s.bufOk n.val = false → fails (.certChainRead n chain) s n 12) ∧
      (s.bufOk n.val = true → runs (.certChainRead n chain) s (s.bufPut n.val chain) n (leBytes 4 (min chain.length (s.buf n.val).2)))) ∧
    (s.serves n 0x0811 = true → let len := a 8 4
      (len < 64 ∨ 65536 < len → fails (.brineJournalStore n) s n 3) ∧
      (64 ≤ len → len ≤ 65536 → s.bufOk n.val = false ∨ s.bufGet n.val len = none → fails (.brineJournalStore n) s n 12) ∧
      (∀ bs, 64 ≤ len → len ≤ 65536 → s.bufOk n.val = true → s.bufGet n.val len = some bs →
        runs (.brineJournalStore n) s { s with ren := { s.ren with jrnlGen := s.ren.jrnlGen + 1, jrnl := bs } } n (leBytes 4 (s.ren.jrnlGen + 1)))) ∧
    (s.serves n 0x0812 = true →
      (s.bufOk n.val = false → fails (.brineJournalLoad n) s n 12) ∧
      (s.bufOk n.val = true → runs (.brineJournalLoad n) s (s.bufPut n.val (s.outcomeRec ++ s.ren.jrnl)) n
        (leBytes 4 s.ren.jrnlGen ++ leBytes 4 (min s.ren.jrnl.length ((s.buf n.val).2 - 64))))) ∧
    (s.serves n 0x0903 = true → ∀ tok : DbgToken, let l := a 0 1
      (3 < l ∨ a 2 6 ≠ 0 → fails (.debugLevelSet n tok) s n 3) ∧
      (l < s.sec.level.val → a 2 6 = 0 → a 8 8 = 0 → a 16 4 = 0 →
        runs (.debugLevelSet n tok) s (s.setLevel (Fin.ofNat 4 l) (if l = 1 then s.sec.inst else 0xFF)) n (leBytes 1 l)) ∧
      (l = 3 → a 2 6 = 0 → a 1 1 ≠ 0xA5 → fails (.debugLevelSet n tok) s n 3) ∧
      (s.sec.level.val ≤ l → l ≤ 3 → a 2 6 = 0 → (l = 3 ∨ tok.level = 3 → a 1 1 = 0xA5) → s.bufOk n.val = false → fails (.debugLevelSet n tok) s n 12) ∧
      (s.sec.level.val ≤ l → l ≤ 3 → a 2 6 = 0 → (l = 3 ∨ tok.level = 3 → a 1 1 = 0xA5) → s.bufOk n.val = true →
        s.peekPoison (s.buf n.val).1 4800 = false → 4800 ≤ (s.buf n.val).2 →
        exec (.debugLevelSet n tok) s = .next { s with
          sec := { s.sec with toks := s.sec.toks ++ [(tok, some n)] }, ren := { s.ren with unfinished := s.ren.unfinished ++ [(.token, some n)] } })) ∧
    (s.serves n 0x0904 = true → ∀ img : ImageInfo, let t := a 12 1
      let len := (s.buf n.val).2
      (1 < t → fails (.fwStage n img) s n 3) ∧ (t ≤ 1 → s.bufOk n.val = false → fails (.fwStage n img) s n 12) ∧
      (t ≤ 1 → s.bufOk n.val = true → s.peekPoison (s.buf n.val).1 (min (7424 + img.length) len) = false → (t = 1 → 7424 + img.length ≤ s.plat.hsize) →
        (s.imageOk t img = false ∨ len < 7424 + img.length → fails (.fwStage n img) s n 13) ∧
        (s.imageOk t img = true → 7424 + img.length ≤ len → ∃ u, runs (.fwStage n img) s u n (leBytes 4 img.version.toNat) ∧
          u.slot t (1 - s.activeSlot t) = some img ∧ u.slot t (s.activeSlot t) = s.slot t (s.activeSlot t) ∧
          tabGet false u.ren.staged t = true ∧ tabGet false u.ren.commit t = false ∧
          u = { s with ren := { s.ren with slots := u.ren.slots, staged := u.ren.staged, commit := u.ren.commit } }))) ∧
    (s.serves n 0x0905 = true → let t := a 0 1
      (1 < t → fails (.fwCommit n) s n 3) ∧ (t ≤ 1 → tabGet false s.ren.staged t = false → fails (.fwCommit n) s n 8) ∧
      (t ≤ 1 → tabGet false s.ren.staged t = true →
        runs (.fwCommit n) s { s with ren := { s.ren with commit := tabSet false s.ren.commit t true, raiseOtp := true } } n []))) ∧
  (∀ (s : State) (k : DbgToken) (rest : List (DbgToken × Option (Fin 32))),
    (s.sec.toks = (k, none) :: rest → s.tokenValid k = false → exec .tokenCheckDone s = .next { s with sec := { s.sec with toks := rest, authErr := true } }) ∧
    (∀ n, s.sec.toks = (k, n) :: rest → s.tokenValid k = true → ∃ t, exec .tokenCheckDone s = .next t ∧ t.sec.level = k.level ∧ t.sec.toks = rest ∧
      t.sec.authErr = false ∧ (k.level = 3 → t.sec.seedErased = true) ∧ (k.level ≠ 3 → t.sec.seedErased = s.sec.seedErased) ∧ k.level ≤ t.sec.dbgmax) ∧
    (∀ n, s.sec.toks = (k, some n) :: rest → s.tokenValid k = false → (s.ren.unfinished.find? fun x => x.1 == .token) = some (.token, some n) →
      ∃ u, u = { s with sec := { s.sec with toks := rest, authErr := true }, ren := { s.ren with unfinished := s.ren.unfinished.filter fun x => x.1 != .token } } ∧
        ∃ t, exec .tokenCheckDone s = .next t ∧ answered u t n 13 [])) ∧
  ∀ (s : State) (tok : DbgToken), s.flushed = false → exec (.dbgAuthSubmit tok) s = .next { s with sec := { s.sec with toks := s.sec.toks ++ [(tok, none)] } }

/-- INSTANCE_CREATE refuses fields out of range, an instance that exists, and a pool without the channels or windows; otherwise the instance is
active with the lowest free channels of its engine. INSTANCE_RESET and INSTANCE_DESTROY stop its channels from issuing and wait; IN_CTL_RESET does
so for an owner hart, and any other access is counted as denied; IN_DENIED_READ returns the count and clears it. INSTANCE_RESET_DRAIN_DONE waits
while a write is outstanding; then the instance is active with RSTDONE and as many free channels as it had, or is gone with its slots scrubbed, its
device context out of the IOMMU. (R366; R367; R368; R369; R371; R372; R375; R434; R435; R436) -/
def Obligations.InstancesLiveAndDie : Prop :=
  (∀ (s : State) (n : Fin 32), let a (o k : Nat) : Nat := s.arg n.val o k
    (s.serves n 0x0401 = true → let i := a 0 1
      let nch := a 1 1
      let nwin := a 2 1
      let bw := a 3 1
      let e := i / 32
      let bad := 63 < i ∨ nch = 0 ∨ 7 < nch ∨ nwin = 0 ∨ 16 < nwin ∨ 5 < bw ∨ s.windowsBad n.val nwin = true ∨ fld (s.argDc n.val) 3 1 ≠ 0
      (bad → fails (.instanceCreate n) s n 3) ∧ (¬bad → (s.instance_ i).st ≠ .none → fails (.instanceCreate n) s n 7) ∧
      (¬bad → (s.instance_ i).st = .none → (s.freeChans e).length < nch ∨ s.freeWins e < nwin → fails (.instanceCreate n) s n 5) ∧
      (¬bad → (s.instance_ i).st = .none → nch ≤ (s.freeChans e).length → nwin ≤ s.freeWins e → s.reservePair i bw = none → fails (.instanceCreate n) s n 5) ∧
      (¬bad → (s.instance_ i).st = .none → nch ≤ (s.freeChans e).length → nwin ≤ s.freeWins e → ∀ r, s.reservePair i bw = some r →
        ∃ u resp, runs (.instanceCreate n) s u n resp ∧ (u.instance_ i).st = .active ∧ (u.instance_ i).slots = (s.freeChans e).take nch ∧
          (u.instance_ i).wins = s.argWindows n.val nwin ∧ (u.instance_ i).first = a 4 2 ∧ (u.instance_ i).last = a 6 2 ∧ (u.instance_ i).bw = bw ∧
          (∀ c ∈ (s.freeChans e).take nch, u.dma c = { s.dma c with inst := some (Fin.ofNat 64 i) }) ∧
          (∀ c, c ∉ (s.freeChans e).take nch → u.dma c = s.dma c) ∧ (∀ j, j ≠ i → u.instance_ j = s.instance_ j) ∧
          tabGet none (u.iommuSt e).insts i = some (s.argDc n.val) ∧ u.tcores = s.tcores ∧ u.scores = s.scores ∧ u.mem = s.mem ∧ u.coh = s.coh)) ∧
    (s.serves n 0x0402 = true →
      (63 < a 0 1 → fails (.instanceDestroy n) s n 3) ∧ (a 0 1 ≤ 63 → (s.instance_ (a 0 1)).st = .none → fails (.instanceDestroy n) s n 6) ∧
      (a 0 1 ≤ 63 → (s.instance_ (a 0 1)).st ≠ .none → ∃ t, exec (.instanceDestroy n) s = .next t ∧ (t.instance_ (a 0 1)).st = .draining ∧
        (t.instance_ (a 0 1)).destroying = true ∧ t.ren.unfinished = s.ren.unfinished ++ [(.destroy (Fin.ofNat 64 (a 0 1)), some n)] ∧ t.mem = s.mem)) ∧
    (s.serves n 0x0403 = true →
      (63 < a 0 1 → fails (.instanceReset n) s n 3) ∧ (a 0 1 ≤ 63 → (s.instance_ (a 0 1)).st = .none → fails (.instanceReset n) s n 6) ∧
      (a 0 1 ≤ 63 → (s.instance_ (a 0 1)).st ≠ .none → ∃ t, exec (.instanceReset n) s = .next t ∧ (t.instance_ (a 0 1)).st = .draining ∧
        t.ren.unfinished = s.ren.unfinished ++ [(.reset (Fin.ofNat 64 (a 0 1)), some n)] ∧ t.mem = s.mem))) ∧
  (∀ (s : State) (who : Master) (i : Fin 64), let v := s.instance_ i.val
    (v.st = .none → exec (.inCtlReset who i) s = .next s) ∧
    (v.st ≠ .none → v.admits who true = true → ∃ t, exec (.inCtlReset who i) s = .next t ∧ (t.instance_ i.val).st = .draining ∧
      (t.instance_ i.val).resetReq = true ∧ (∀ j, j ≠ i.val → t.instance_ j = s.instance_ j)) ∧
    (v.st ≠ .none → v.admits who true = false → exec (.inCtlReset who i) s = .next (s.setInstance i.val { v with denied := v.denied + 1 })) ∧
    (v.admits who false = true → exec (.inDeniedRead who i) s = .next (s.setInstance i.val { v with denied := 0 })) ∧
    (v.admits who false = false → v.st ≠ .none → exec (.inDeniedRead who i) s = .next (s.setInstance i.val { v with denied := v.denied + 1 }))) ∧
  (∀ (s : State) (i : Fin 64), let v := s.instance_ i.val
    ((v.st ≠ .draining ∨ ∃ c ∈ v.slots, (s.dma c).writesOut = true) → exec (.instanceResetDrainDone i) s = .next s) ∧
    (v.st = .draining → (∀ c ∈ v.slots, (s.dma c).writesOut = false) →
      (v.destroying = true → ∃ t, exec (.instanceResetDrainDone i) s = .next t ∧ t.instance_ i.val = .reset ∧ tabGet none (t.iommuSt (i.val / 32)).insts i.val = none ∧
        (∀ c ∈ v.slots, (t.dma c).inst = none ∧ (t.dma c).st = .idle)) ∧
      (v.destroying = false → ∃ t, exec (.instanceResetDrainDone i) s = .next t ∧ (t.instance_ i.val).st = .active ∧ (t.instance_ i.val).rstDone = true ∧
        (t.instance_ i.val).resetReq = false ∧ (t.instance_ i.val).wins = v.wins ∧ (∀ c ∈ (t.instance_ i.val).slots, (t.dma c).inst = some i ∧ (t.dma c).st = .idle) ∧
        t.tcores = s.tcores ∧ t.scores = s.scores ∧ t.coh = s.coh)))

/-- A doorbell write of an owner to a mailbox that is idle or done latches SEQ and the buffer grant and makes it BUSY; to any other it sets LOST
alone. ACK takes DONE to IDLE. A command that has run enters DONE with its RESULT when Rennet completes it, and an unknown code completes with
BAD_CMD; writes by I3C reach the page of mailbox 31 alone. FABRIC_LINK_DISABLE takes the link out of its group and waits until nothing that it
carries is outstanding; the link is then off. WAYGROUP_SCAN_DONE switches a closed group off once its lines are gone and no victim write of its tile
is outstanding. Masters that do not own the mailbox change nothing. (R191; R333; R424; R425; R427; R428; R430; R432; R433) -/
def Obligations.MailboxesChangeState : Prop :=
  (∀ (s : State) (who : Master) (n : Fin 32) (v : BitVec 32), let m := s.mb n.val
    (s.mbAdmits n.val who = false → exec (.mbDoorbell who n v) s = .next s ∧ exec (.mbStatusAck who n) s = .next s) ∧
    (s.mbAdmits n.val who = true → m.st = .busy ∨ m.st = .down → ∃ t, exec (.mbDoorbell who n v) s = .next t ∧ t.mb n.val = { m with lost := true } ∧
      (∀ k, k ≠ n.val → t.mb k = s.mb k) ∧ t = { s with ren := { s.ren with mbox := t.ren.mbox } }) ∧
    (s.mbAdmits n.val who = true → m.st = .idle ∨ m.st = .done → ∃ t, exec (.mbDoorbell who n v) s = .next t ∧
      t.mb n.val = { m with st := .busy, seq := v.setWidth 16, order := s.ren.doorbells + 1, ran := none, grant := s.grantOf n.val } ∧
      (∀ k, k ≠ n.val → t.mb k = s.mb k) ∧ t = { s with ren := { s.ren with mbox := t.ren.mbox, doorbells := s.ren.doorbells + 1 } }) ∧
    (s.mbAdmits n.val who = true → ∃ t, exec (.mbStatusAck who n) s = .next t ∧ t.mb n.val = { m with st := if m.st = .done then .idle else m.st } ∧
      (∀ k, k ≠ n.val → t.mb k = s.mb k) ∧ t = { s with ren := { s.ren with mbox := t.ren.mbox } })) ∧
  (∀ (s : State) (n : Fin 32) (r : BitVec 16), let m := s.mb n.val
    m.st = .busy → m.ran = some r → ∃ t, exec (.mbCommandComplete n) s = .next t ∧
      t.mb n.val = { m with st := .done, result := r, ran := none, grant := none, valid := m.valid && !m.closing, closing := false } ∧
      (∀ k, k ≠ n.val → t.mb k = s.mb k) ∧ (m.irq = false → t.irq = s.irq) ∧ (∀ k, k ≠ 273 + n.val → t.source k = s.source k) ∧
      t = { s with ren := { s.ren with mbox := t.ren.mbox }, irq := { s.irq with src := t.irq.src } }) ∧
  (∀ (s : State) (n : Fin 32), s.inTurn n.val = true → s.reqAt n.val 8 8 = 0 → cmdRow (s.reqCode n.val) = none →
    ∃ u t, answered s u n 1 [] ∧ exec (.mbCommandComplete n) s = .next t ∧ (t.mb n.val).st = .done ∧ (t.mb n.val).result = 1 ∧ t.mem = u.mem) ∧
  (∀ (s : State) (off : BitVec 16) (data : List Byte),
    exec (.i3cPrivateTransfer off false data) s = .next s ∧
    ((off.toNat % 4 ≠ 0 ∨ data.length % 4 ≠ 0 ∨ 0x1000 < off.toNat + data.length) → exec (.i3cPrivateTransfer off true data) s = .next s) ∧
    (off.toNat % 4 = 0 → data.length % 4 = 0 → 0x100 ≤ off.toNat → off.toNat + data.length ≤ 0x800 → (s.mb 31).st ≠ .busy →
      ∃ t, exec (.i3cPrivateTransfer off true data) s = .next t ∧
        (∀ a, memByte t.mem.mbox a = if 0x1F000 + off.toNat ≤ a ∧ a < 0x1F000 + off.toNat + data.length then data.getD (a - (0x1F000 + off.toNat)) 0 else memByte s.mem.mbox a) ∧
        t = { s with mem := { s.mem with mbox := t.mem.mbox } })) ∧
  (∀ (s : State) (n : Fin 32), s.serves n 0x0703 = true → let l := s.arg n.val 0 1
    (7 < l → fails (.fabricLinkDisable n) s n 3) ∧ (l ≤ 7 → (s.link l).st = .domainOff → runs (.fabricLinkDisable n) s s n []) ∧
    (l ≤ 7 → (s.link l).st ≠ .domainOff → ∃ t, exec (.fabricLinkDisable n) s = .next t ∧ (t.link l).disabling = true ∧ (t.link l).group = none ∧
      t.ren.unfinished = s.ren.unfinished ++ [(.linkDisable (Fin.ofNat 8 l), some n)])) ∧
  (∀ (s : State) (l : Fin 8), let k := s.link l.val
    ((k.disabling = false ∨ s.linkBusy l.val = true) → exec (.fabricLinkDisableDrained l) s = .next s) ∧
    (k.disabling = true → s.linkBusy l.val = false → ∃ t, exec (.fabricLinkDisableDrained l) s = .next t ∧ (t.link l.val).st = .domainOff ∧
      (t.link l.val).disabling = false ∧ (t.link l.val).group = none ∧ (∀ j, j ≠ l.val → t.link j = s.link j) ∧
      t = { s with graop := { s.graop with links := t.graop.links }, ren := t.ren, mem := { s.mem with mbox := t.mem.mbox }, perf := t.perf, mesh := t.mesh,
                   irq := { s.irq with events := t.irq.events } })) ∧
  (∀ (s : State) (o : Fin 6) (g : Fin 4), let off := (tabGet 0 s.coh.wayOff o.val).getLsbD g.val
    let down := (tabGet 0 s.coh.wayDown o.val).getLsbD g.val
    ((off = false ∨ down = true) → exec (.waygroupScanDone o g) s = .next s) ∧
    (off = true → down = false → s.groupLines o.val g.val = [] → (∀ e ∈ s.coh.vb, homeSlice e.la / 32 ≠ o.val) →
      ∃ t, exec (.waygroupScanDone o g) s = .next t ∧ (tabGet 0 t.coh.wayDown o.val).getLsbD g.val = true ∧
        (∀ j, j ≠ g.val → (tabGet 0 t.coh.wayDown o.val).getLsbD j = (tabGet 0 s.coh.wayDown o.val).getLsbD j) ∧
        t = { s with coh := { s.coh with wayDown := t.coh.wayDown }, ren := t.ren, mem := { s.mem with mbox := t.mem.mbox } }))

/-- RENNET_ACCESS of memory inside a buffer grant is sent to its target, and of an identity, flash, thermal, budget, clock, rail, slot, route or
pool resource within the rules of R444 is performed, and outside them refused with a record and a violation counted; while Rennet does not serve it
changes nothing. A heartbeat is noted. A Rennet reset, by mismatch or by 100 ms without a heartbeat, takes every mailbox DOWN, completes a BUSY
command with RESULT 0x000B, and stops Rennet; a fenced Rennet is not reset again. RENNET_RESTART_DONE with no interrupted work makes Rennet serve
and every mailbox that was DOWN idle. (R428; R430; R440; R444; R445; R446; R447) -/
def Obligations.RennetRunsAndRestarts : Prop :=
  (∀ (s : State) (t : RennetTarget), s.ren.up = false → exec (.rennetAccess t) s = .next s) ∧
  (∀ s : State, s.ren.up = true →
    (∀ (n : Nat), n ≤ s.brineLimit → exec (.rennetAccess (.budget n)) s = .next (s.setBudget n)) ∧
    (∀ (mhz : Nat), s.reserved = false → exec (.rennetAccess (.clockMesh mhz)) s = .next { s with pow := { s.pow with meshMhz := mhz } }) ∧
    (∀ (h : Fin 192) (mhz : Nat), mhz ≤ min 3600 (s.lifeLimit h.val) →
      exec (.rennetAccess (.clockTcore h mhz)) s = .next (s.setHart (.t h) { s.hart (.t h) with ceil := mhz })) ∧
    (∀ (c : Nat), c ≤ 112 → exec (.rennetAccess (.thermal false c)) s = .next { s with pow := { s.pow with tripAt := c } }) ∧
    (exec (.rennetAccess (.rail true false false)) s = .next s) ∧ (exec (.rennetAccess (.flash false false false)) s = .next s) ∧
    (∀ (stop : Fin 320) (out : Port) (slot : Fin 64), tabGet 0 s.mesh.wheel (wheelKey stop.val out slot.val) ≠ 1 →
      exec (.rennetAccess (.wheel stop out slot none)) s =
        .next { s with mesh := { s.mesh with wheel := tabSet 0 s.mesh.wheel (wheelKey stop.val out slot.val) 0 } }) ∧
    (∀ (a : Nat) (w : Bool) (pa : Pa) (v : Line), pa.toNat = a → s.granted a w = none →
      exec (.rennetAccess (.mem pa w v)) s = .next (s.rindRefuse 1)) ∧
    (∀ (pa : Pa) (w : Bool) (v : Line) (k : Nat) (nd : Node) (pk lim : Nat), s.granted pa.toNat w = some k →
      (pmaFind s.pma.masters (paLa pa.toNat) (s.isLocal pa.toNat)).isSome = true → (s.isLocal pa.toNat = true → rangeFault s (paLa pa.toNat) w = false) →
      s.dest pa.toNat 100000 w = .node nd pk lim →
      ∃ t f, exec (.rennetAccess (.mem pa w v)) s = .next t ∧ t = { s with mesh := t.mesh } ∧ t.lastSent (nodeStop mgmtNode) = some f ∧
        f.op = (if w = true then .writeNc else .readNc) ∧ f.dst = nd ∧ f.addr = BitVec.ofNat 47 (paLa pa.toNat) ∧ f.mask = maskOf (paLa pa.toNat % 64) k) ∧
    (∀ rule, resetsRennet rule = false → ∃ t, s.rindRefuse rule = t ∧ t.ren.violations = s.ren.violations + 1 ∧ t.err.orders = s.err.orders + 1 ∧
      t.ren.up = true ∧ t = { s with err := t.err, irq := { s.irq with src := t.irq.src }, ren := { s.ren with violations := t.ren.violations, notices := t.ren.notices, lostn := t.ren.lostn } })) ∧
  (∀ s : State, s.ren.up = true → exec .rindHeartbeat s = .next { s with ren := { s.ren with lastBeat := s.time } }) ∧
  (∀ s : State, s.ren.fenced = true → exec .lockstepMismatch s = .next s) ∧
  (∀ s : State, s.ren.fenced = false → s.ren.up = true → ∃ t, exec .lockstepMismatch s = .next t ∧ t.ren.up = false ∧ t.ren.restarts = s.ren.restarts + 1 ∧
    (∀ n, n < 32 → (t.mb n).st = .down ∧ ((s.mb n).st = .busy → (t.mb n).result = 11) ∧ (t.mb n).grant = none) ∧
    t.tcores = s.tcores ∧ t.scores = s.scores ∧ t.mem = { s.mem with mbox := t.mem.mbox }) ∧
  (∀ s : State, s.ren.up = true → s.ren.fenced = false → ∃ t, exec .heartbeatTimeout s = .next t ∧ t.ren.up = false ∧
    t.time = max s.time (s.ren.lastBeat + 100000000) ∧ ∀ n, n < 32 → (t.mb n).st = .down) ∧
  (∀ s : State, s.ren.fenced = false → s.ren.up = false → s.phase ≠ .inert → s.sec.boot ≠ 0 → s.sec.boot ≠ 8 → s.ren.unfinished = [] →
    ∃ t, exec .rennetRestartDone s = .next t ∧ t.ren.up = true ∧ t.ren.lastBeat = s.time ∧
      (∀ n, n < 32 → (t.mb n).st = if (s.mb n).st = .down then .idle else (s.mb n).st) ∧ t.scores = s.scores ∧ t.coh = s.coh)

/-- A change of a wired input gives the source its level, sets the pending bit on the edge or level of its mode and touches no other source. The
fall of source 354, PFAIL_N rising, also ends a detection that has not lasted 1 us. A sourcecfg write of the machine domain delegates a source that
may be delegated, or takes it back, at its reset fields; a write of the owner sets an admitted mode and changes nothing for any other; the other
domain's write changes nothing. A pending and enabled source of a domain with IE sends its EIID to its target's file and is pending no longer,
except at an address without a file, where nothing is sent. Writing seteipnum sets that identity, and 0, an identity above 2047 or a missing file
changes nothing; a claim clears the top identity. At its compare value the machine timer of a hart is pending, and a hart that is not waiting sees
only time pass; likewise stimecmp on a T-core. (R41; R379; R380; R381; R382; R383; R386; R387; R451; R531) -/
def Obligations.InterruptsReachTheHarts : Prop :=
  (∀ (s : State) (n : Fin 1024) (lv : Bool), let c := s.source n.val
    (n.val = 0 ∨ 354 < n.val → exec (.wiredInputChange n lv) s = .next s) ∧
    (n.val ≠ 0 → n.val ≤ 354 → ∃ t, exec (.wiredInputChange n lv) s = .next t ∧
      t = { s with irq := { s.irq with src := t.irq.src }, pow := (if n.val = 354 ∧ lv = false then s.pfailRises else s).pow } ∧
      (∀ j, j ≠ n.val → t.source j = s.source j) ∧
      t.source n.val = { c with level := lv, ip := match c.mode with
        | .edge1 => c.ip || (lv && !c.level) | .edge0 => c.ip || (c.level && !lv)
        | .level1 => lv && (c.ip || !c.level) | .level0 => !lv && (c.ip || c.level) | .inactive | .detached => c.ip })) ∧
  (∀ (s : State) (who : Master) (n : Fin 1024) (v : BitVec 32), n.val ≠ 0 → let c := s.source n.val
    (v.getLsbD 10 = true → (delegable n.val = true → c.deleg = false →
        exec (.aplicSourcecfgWrite who false n v) s = .next (s.setSource n.val { Source.reset with deleg := true, level := c.level })) ∧
      (delegable n.val = false ∨ c.deleg = true → exec (.aplicSourcecfgWrite who false n v) s = .next s) ∧ exec (.aplicSourcecfgWrite who true n v) s = .next s) ∧
    (v.getLsbD 10 = false → c.deleg = true →
      exec (.aplicSourcecfgWrite who false n v) s = .next (s.setSource n.val { Source.reset with deleg := false, level := c.level })) ∧
    (c.deleg = false → exec (.aplicSourcecfgWrite who true n v) s = .next s) ∧
    (∀ sdom, v.getLsbD 10 = false → c.deleg = sdom →
      (∀ m, modeOfCode (fld v 2 0) = some m → modeOk n.val m = false → exec (.aplicSourcecfgWrite who sdom n v) s = .next s) ∧
      (modeOfCode (fld v 2 0) = none → exec (.aplicSourcecfgWrite who sdom n v) s = .next s) ∧
      (fld v 2 0 = 0 → exec (.aplicSourcecfgWrite who sdom n v) s = .next (s.setSource n.val { Source.reset with deleg := sdom, level := c.level })) ∧
      (∀ m, modeOfCode (fld v 2 0) = some m → m ≠ .inactive → modeOk n.val m = true →
        ∃ t, exec (.aplicSourcecfgWrite who sdom n v) s = .next t ∧ (∀ j, j ≠ n.val → t.source j = s.source j) ∧
          t.source n.val = { c with mode := m, ip := (t.source n.val).ip } ∧ (c.ip = true → (t.source n.val).ip = true) ∧
          (({ c with mode := m } : Source).rectified = false → (t.source n.val).ip = c.ip) ∧
          t = { s with irq := { s.irq with src := t.irq.src }, free := t.free }))) ∧
  (∀ (s : State) (n : Fin 1024), let c := s.source n.val
    let on := c.ip = true ∧ c.ie = true ∧ c.mode ≠ .inactive ∧ (if c.deleg = true then s.irq.ieS else s.irq.ieM) = true
    let hart := fld c.target 26 18
    let la := if c.deleg = true then 0x2C00_0000 + hart * 0x8000 + fld c.target 14 12 * 0x1000 else 0x2800_0000 + hart * 0x1000
    (¬on → exec (.aplicMsiSend n) s = .next s) ∧
    (on → devNode la = none → exec (.aplicMsiSend n) s = .next (s.setSource n.val { c with ip := false })) ∧
    (∀ d, on → devNode la = some d → ∃ t f, exec (.aplicMsiSend n) s = .next t ∧ t.source n.val = { c with ip := false } ∧
      (∀ j, j ≠ n.val → t.source j = s.source j) ∧ t.lastSent aplicStop = some f ∧ f.op = .writeNc ∧ f.dst = d ∧ f.addr = BitVec.ofNat 47 la ∧
      f.size = 4 ∧ (∃ l, f.data = some l ∧ lineBytes l (la % 64) 4 = fld c.target 10 0) ∧
      t = { s with irq := { s.irq with src := t.irq.src }, mesh := { s.mesh with inject := t.mesh.inject, stamp := s.mesh.stamp + 1 } })) ∧
  (∀ (s : State) (h : HartId) (f : ImFileKind) (v : BitVec 32),
    (v.toNat = 0 ∨ 2047 < v.toNat ∨ fileExists h f = false → exec (.imsicSeteipnum h f v) s = .next s) ∧
    (v.toNat ≠ 0 → v.toNat ≤ 2047 → fileExists h f = true → ∃ t, exec (.imsicSeteipnum h f v) s = .next t ∧
      (∀ i, (t.file h f).eip.getLsbD i = ((s.file h f).eip.getLsbD i || decide (i = v.toNat))) ∧ t.file h f = { s.file h f with eip := (t.file h f).eip } ∧
      (∀ k, k ≠ fileKey h f → tabGet ImFile.reset t.irq.imsic k = tabGet ImFile.reset s.irq.imsic k) ∧
      t = { s with irq := { s.irq with imsic := t.irq.imsic } }) ∧
    (fileExists h f = false ∨ (s.file h f).top = 0 → exec (.imsicTopeiClaim h f) s = .next s) ∧
    (fileExists h f = true → (s.file h f).top ≠ 0 → ∃ t, exec (.imsicTopeiClaim h f) s = .next t ∧
      (∀ i, (t.file h f).eip.getLsbD i = ((s.file h f).eip.getLsbD i && decide (i ≠ (s.file h f).top))) ∧ t.file h f = { s.file h f with eip := (t.file h f).eip } ∧
      (∀ k, k ≠ fileKey h f → tabGet ImFile.reset t.irq.imsic k = tabGet ImFile.reset s.irq.imsic k) ∧
      t = { s with irq := { s.irq with imsic := t.irq.imsic } })) ∧
  (∀ (s : State) (h : HartId), (s.hart h).idle = .run → s.time < 2 ^ 64 →
    ∃ t, exec (.machineTimerMatch h) s = .next t ∧ t.time = max s.time (s.mtimecmp h).toNat ∧ (t.mip h).getLsbD 7 = true ∧
      t = { s with time := t.time, mesh := { s.mesh with cycle := t.mesh.cycle, ahead := t.mesh.ahead } }) ∧
  (∀ (s : State) (h : HartId), s.stimer h = none → exec (.supervisorTimerMatch h) s = .next s) ∧
  (∀ (s : State) (n : Fin 192), let c := s.hart (.t n)
    c.csrBit 0x30A 63 = true → c.csrBit 0x60A 63 = false → c.idle = .run → s.time < 2 ^ 64 →
    ∃ t, exec (.supervisorTimerMatch (.t n)) s = .next t ∧ t.time = max s.time (c.csrRaw 0x14D).toNat ∧ (t.mip (.t n)).getLsbD 5 = true ∧
      t = { s with time := t.time, mesh := { s.mesh with cycle := t.mesh.cycle, ahead := t.mesh.ahead } })

/-- A GPIO edge changes the pin's level and its APLIC source, and pulses the pin's event source where EDGE selects the edge; a level that does not
change has no effect. EVSW emits one pulse for each 1 that an admitted master writes, from sources 144 on. A tick generator that is on, with PERIOD
of at least 100, pulses at the next multiple of its period, and otherwise not. A pulse of a source that is on is at its own stop at once, and leaves
it as one Event flit for each branch of the tree. The pulse that has come first to a stop is consumed there, and another one is not; where no sink
listens nothing else happens; at the APLIC's stop it also pulses source LINE + 1; a listening S-core sink sets its identity, a listening start sink
of an engine that is on starts its channel, a listening output pin pulses, and a listening gate toggles. (R31; R201; R220; R381; R388; R389; R390;
R393; R394; R395; R396; R410) -/
def Obligations.EventLinesCarryPulses : Prop :=
  (∀ (s : State) (g : Fin 16) (lv : Bool),
    (s.irq.gpioIn.getLsbD g.val = lv → exec (.gpioEdge g lv) s = .next s) ∧
    (s.irq.gpioIn.getLsbD g.val ≠ lv →
      let e := fld (s.evsrc (128 + g.val)) 25 24
      let hit := e = 2 ∨ (e = 0 ∧ lv = true) ∨ (e = 1 ∧ lv = false)
      ∃ t, exec (.gpioEdge g lv) s = .next t ∧ t.irq.gpioIn.getLsbD g.val = lv ∧ (∀ i, i ≠ g.val → t.irq.gpioIn.getLsbD i = s.irq.gpioIn.getLsbD i) ∧
        t.source (257 + g.val) = (s.wire (257 + g.val) lv).source (257 + g.val) ∧ (∀ j, j ≠ 257 + g.val → t.source j = s.source j) ∧
        (hit → t.irq.events = (s.pulse (128 + g.val)).irq.events ∧ t.mesh = (s.pulse (128 + g.val)).mesh) ∧
        (¬hit → t.irq.events = s.irq.events ∧ t.mesh = s.mesh) ∧
        t = { s with irq := { s.irq with gpioIn := t.irq.gpioIn, src := t.irq.src, events := t.irq.events }, mesh := t.mesh })) ∧
  (∀ (s : State) (n : Nat), let r := tabGet 0 s.irq.evsrc n
    let st := evStop n
    (r.getLsbD 31 = false → s.pulse n = s) ∧
    (r.getLsbD 31 = true → ∃ t, s.pulse n = t ∧ t.irq.events = s.irq.events ++ [(st, fld r 7 0)] ∧
      (tabGet [] t.mesh.inject st).map Prod.snd = (tabGet [] s.mesh.inject st).map Prod.snd ++
        (treeOuts st .l).filterMap (fun p => (neighbour st p).map fun d => eventFlit st d (fld r 7 0)) ∧
      (∀ k, k ≠ st → tabGet [] t.mesh.inject k = tabGet [] s.mesh.inject k) ∧
      t = { s with irq := { s.irq with events := t.irq.events }, mesh := { s.mesh with inject := t.mesh.inject, stamp := t.mesh.stamp } })) ∧
  (∀ (s : State) (who : Master) (v : BitVec 32), mayWrite .r31 who = true →
    ∃ t, exec (.evswPulse who v) s = .next t ∧
      t = { s with irq := { s.irq with events := t.irq.events }, mesh := { s.mesh with inject := t.mesh.inject, stamp := t.mesh.stamp } } ∧
      t.irq.events = s.irq.events ++ ((List.range 16).filter fun b => v.getLsbD b && (s.evsrc (144 + b)).getLsbD 31).map
        fun b => (aplicStop, fld (s.evsrc (144 + b)) 7 0)) ∧
  (∀ (s : State) (h : HartId) (md : Mode) (v : BitVec 32), md ≠ .m → s.issues h = true →
    exec (.evswPulse (.hart h md) v) s = .next (s.trap h (excep 7 (BitVec.ofNat 64 (s.pma.pkgId.toNat * 2 ^ 47 + 0x1022_0100))))) ∧
  (∀ (s : State) (j : Fin 8), let r := tabGet 0 s.irq.evtick j.val
    let p := fld r 31 0
    (r.getLsbD 63 = false ∨ p < 100 → exec (.tickGeneratorPulse j) s = .next s) ∧
    (r.getLsbD 63 = true → 100 ≤ p → ∃ t, exec (.tickGeneratorPulse j) s = .next t ∧ t.time % p = 0 ∧ s.time ≤ t.time ∧ t.time < s.time + p ∧
      t.irq = (s.pulse (160 + j.val)).irq ∧ t.mesh.inject = (s.pulse (160 + j.val)).mesh.inject ∧
      t = { s with irq := t.irq, time := t.time,
                   mesh := { s.mesh with cycle := t.mesh.cycle, ahead := t.mesh.ahead, inject := t.mesh.inject, stamp := t.mesh.stamp } })) ∧
  (∀ (s : State) (stop : Fin 320) (line : Fin 256),
    let noGate := ∀ j, j < 16 → s.listens (128 + j) line.val = false
    let only (k : Nat) := ∀ m, m < 128 ∨ m = 144 → m ≠ k → sinkStop m = stop.val → s.listens m line.val = false
    let u : State := { s with irq := { s.irq with events := s.irq.events.erase (stop.val, line.val) } }
    ((s.irq.events.find? fun e => e.1 == stop.val) ≠ some (stop.val, line.val) → exec (.eventFlit stop line) s = .next s) ∧
    ((s.irq.events.find? fun e => e.1 == stop.val) = some (stop.val, line.val) →
      (noGate → (∀ k, only k) → stop.val ≠ aplicStop → exec (.eventFlit stop line) s = .next u) ∧
      (noGate → (∀ k, only k) → stop.val = aplicStop → exec (.eventFlit stop line) s = .next (u.wirePulse (line.val + 1))) ∧
      (∀ j, j < 16 → s.listens (128 + j) line.val = true → (∀ i, i < 16 → i ≠ j → s.listens (128 + i) line.val = false) → (∀ k, only k) → stop.val ≠ aplicStop →
        exec (.eventFlit stop line) s = .next { u with irq := { u.irq with
          gates := tabSet false u.irq.gates (stop.val * 16 + j) (!(tabGet false u.irq.gates (stop.val * 16 + j))) } }) ∧
      (∀ k, k < 128 → sinkStop k = stop.val → noGate → only k → s.listens k line.val = true → stop.val ≠ aplicStop →
        (k < 64 → s.engineOff (k / 32) = false → exec (.eventFlit stop line) s = .next (u.dmaPulse k)) ∧
        (64 ≤ k → k < 112 → exec (.eventFlit stop line) s = .next (u.setIdentity (.s (Fin.ofNat 48 (k - 64))) .mach (fld (s.evsnk k) 18 8))) ∧
        (112 ≤ k → exec (.eventFlit stop line) s = .next (u.gpioPulse (k - 112))))))

/-- A hart's hpm counter at its largest value that counts once more is 0 and reads 0; with OF clear it sets OF and identity EIID, with OF set it
raises nothing, and it goes on counting; mcycle and minstret wrap to 0. A bank counter that counts gains its events and wraps to the remainder past
2^48, setting OVF and pulsing with OVFEV; one that does not count keeps its value. CLR clears the counters alone. A bandwidth window that ends gives
BWLAST and a larger BWMAX, and reading BWMAX clears it. Enabling Ladle checks the ring; a trigger is dropped while a snapshot is in progress or for
want of space, and otherwise arms T; a stop latches its banks once, at T or late; the completed snapshot advances HEAD and pulses source 176, and a
failed ring write stops Ladle with a record and no pulse, OVF bits merged back. (R31; R402; R406; R407; R408; R410; R413; R414; R416; R417; R418;
R422) -/
def Obligations.CountersAndSnapshots : Prop :=
  (∀ (s : State) (h : HartId) (k : Fin 32), let c := s.hart h
    let ev := c.csrRaw (0x320 + k.val)
    c.csrBit 0x320 k.val = false → c.csrRaw (0xB00 + k.val) = BitVec.allOnes 64 →
    (3 ≤ k.val → k.val ≤ hpmTop h → ∃ t, exec (.coreCounterWrap h k) s = .next t ∧ (t.hart h).csrRaw (0xB00 + k.val) = 0 ∧ t.csrRead h (0xB00 + k.val) = 0 ∧
      ((t.bumpHpm h k.val 1).hart h).csrRaw (0xB00 + k.val) = 1 ∧ (t.hart h).csrRaw (0x320 + k.val) = ev ||| 0x8000_0000_0000_0000 ∧
      (∀ n, n ≠ 0xB00 + k.val → n ≠ 0x320 + k.val → (t.hart h).csrRaw n = c.csrRaw n) ∧
      t.irq = (if ev.getLsbD 63 = true then s else s.setIdentity h .mach (fld ev 42 32)).irq ∧
      (∀ g, g ≠ h → t.hart g = s.hart g) ∧ t.hart h = { c with csr := (t.hart h).csr } ∧
      t = { s with tcores := t.tcores, scores := t.scores, irq := t.irq }) ∧
    (k.val = 0 ∨ k.val = 2 → exec (.coreCounterWrap h k) s = .next (s.setHart h (c.csrPut (0xB00 + k.val) 0))) ∧
    (k.val = 1 ∨ hpmTop h < k.val → exec (.coreCounterWrap h k) s = .next s)) ∧
  (∀ (s : State) (st : Fin 320) (b : Fin 3) (k : Fin 4) (gain : Nat), let v := s.bankOf st.val b.val
    let e := v.sel k.val
    let on := hasBank st.val b.val = true ∧ e.getLsbD 31 = true ∧ v.freeze = false ∧ s.agentOff st.val b.val = false ∧
      (e.getLsbD 26 = true → tabGet false s.irq.gates (st.val * 16 + fld e 25 22) = true)
    let x := (v.count k.val).toNat + gain
    (¬on → exec (.bankCounterWrap st b k gain) s = .next s) ∧
    (on → ∃ t, exec (.bankCounterWrap st b k gain) s = .next t ∧ ((t.bankOf st.val b.val).count k.val).toNat = x % 2 ^ 48 ∧
      (∀ j, j ≠ k.val → (t.bankOf st.val b.val).count j = v.count j) ∧
      (t.bankOf st.val b.val).ovf = (if x < 2 ^ 48 then v.ovf else v.ovf ||| BitVec.ofNat 4 (2 ^ k.val)) ∧
      t.bankOf st.val b.val = { v with cnt := (t.bankOf st.val b.val).cnt, ovf := (t.bankOf st.val b.val).ovf } ∧
      (∀ j, j ≠ bankKey st.val b.val → tabGet Bank.reset t.perf.banks j = tabGet Bank.reset s.perf.banks j) ∧
      t.irq = (if 2 ^ 48 ≤ x ∧ e.getLsbD 30 = true then s.pulseAtStop (168 + tileOf st.val) st.val else s).irq ∧
      t.mesh = (if 2 ^ 48 ≤ x ∧ e.getLsbD 30 = true then s.pulseAtStop (168 + tileOf st.val) st.val else s).mesh ∧
      t = { s with perf := { s.perf with banks := t.perf.banks }, irq := t.irq, mesh := t.mesh })) ∧
  (∀ (s : State) (who : Master) (st : Fin 320) (b : Fin 3), mayWrite .r31 who = true → hasBank st.val b.val = true →
    exec (.pmBankClr who st b) s = .next (s.setBank st.val b.val { s.bankOf st.val b.val with cnt := [] }) ∧
    ∀ k, tabGet (0 : BitVec 48) [] k = 0) ∧
  (∀ (s : State) (st : Fin 320) (b : Fin 3), let v := s.bankOf st.val b.val
    (bwBank st.val b.val = true → hasBank st.val b.val = true → v.window ≠ 0 → s.time % (v.window.toNat * 1000) = 0 →
      exec (.bandwidthWindowEnd st b) s = .next (s.setBank st.val b.val { v with
        bwCur := 0, bwLast := BitVec.ofNat 48 v.bwCur, bwMax := if v.bwMax < BitVec.ofNat 48 v.bwCur then BitVec.ofNat 48 v.bwCur else v.bwMax })) ∧
    (v.window = 0 ∨ s.time % (v.window.toNat * 1000) ≠ 0 → exec (.bandwidthWindowEnd st b) s = .next s) ∧
    (∀ who, bwBank st.val b.val = true → hasBank st.val b.val = true → exec (.pmBwmaxRead who st b) s = .next (s.setBank st.val b.val { v with bwMax := 0 }))) ∧
  (∀ (s : State) (who : Master) (v : BitVec 32), mayWrite .r31 who = true → let l := s.perf.ladle
    let k := { l with trigev := v.getLsbD 16, lead := if fld v 15 8 < 2 then 2 else BitVec.ofNat 8 (fld v 15 8), log2sz := BitVec.ofNat 5 (fld v 4 0) }
    (l.en = true → exec (.ladleEnable who v) s = .next (s.setLadle { l with en := v.getLsbD 31 })) ∧
    (l.en = false → v.getLsbD 31 = false → exec (.ladleEnable who v) s = .next (s.setLadle k)) ∧
    (l.en = false → v.getLsbD 31 = true → s.ringOk k = true → exec (.ladleEnable who v) s = .next (s.setLadle { k with en := true, head := 0, err := 0 })) ∧
    (l.en = false → v.getLsbD 31 = true → s.ringOk k = false → exec (.ladleEnable who v) s = .next (s.setLadle { k with err := 1 }))) ∧
  (∀ (s : State) (who : Master), mayWrite .r31 who = true → let l := s.perf.ladle
    let used := (l.head + l.size - l.tail.toNat % l.size) % l.size
    (l.en = false → exec (.ladleSnap who) s = .next s) ∧
    (l.en = true → l.armed = true ∨ l.collect = true → exec (.ladleSnap who) s = .next (s.setLadle { l with dropbusy := l.dropbusy + 1 })) ∧
    (l.en = true → l.armed = false → l.collect = false → l.size - 64 < used + 37888 →
      exec (.ladleSnap who) s = .next (s.setLadle { l with seq := l.seq + 1, dropring := l.dropring + 1 })) ∧
    (l.en = true → l.armed = false → l.collect = false → used + 37888 ≤ l.size - 64 →
      exec (.ladleSnap who) s = .next (s.setLadle { l with seq := l.seq + 1, t := s.time + 1000 * l.lead.toNat, armed := true, cause := 0, late := false }))) ∧
  (∀ s : State, let l := s.perf.ladle
    (l.period.toNat < 10 → exec .ladlePeriodTrigger s = .next s) ∧
    (10 ≤ l.period.toNat → l.en = true → l.armed = true ∨ l.collect = true → ∃ t, exec .ladlePeriodTrigger s = .next t ∧
      t.time % (l.period.toNat * 1000) = 0 ∧ s.time ≤ t.time ∧ t.time < s.time + l.period.toNat * 1000 ∧ t.perf.ladle = { l with dropbusy := l.dropbusy + 1 }) ∧
    (10 ≤ l.period.toNat → l.en = false → ∃ t, exec .ladlePeriodTrigger s = .next t ∧ t.perf = s.perf ∧ t.time % (l.period.toNat * 1000) = 0)) ∧
  (∀ (s : State) (st : Fin 320), let l := s.perf.ladle
    ((l.armed = false ∧ l.collect = false) ∨ (s.bankOf st.val 0).latch.isSome = true → exec (.ladleLatch st) s = .next s) ∧
    ((l.armed = true ∨ l.collect = true) → (s.bankOf st.val 0).latch = none → ∃ t, exec (.ladleLatch st) s = .next t ∧ t.time = max s.time l.t ∧
      t.perf.ladle = { l with armed := false, collect := true, late := l.late || decide (l.t < s.time), tok := if l.armed = true then s.brineLedger else l.tok } ∧
      (∀ b, b < banksOf st.val → ∃ c, t.bankOf st.val b = { s.bankOf st.val b with latch := some c, ovf := 0 } ∧ c.ovf = (s.bankOf st.val b).ovf ∧
        c.cnt = (List.range 4).map (s.bankOf st.val b).count ∧ c.late = decide (l.t < s.time) ∧ c.off = s.agentOff st.val b ∧
        c.fix0 = BitVec.ofNat 64 ((s.passTo l.t).fixOf st.val b).1 ∧ c.fix1 = BitVec.ofNat 64 ((s.passTo l.t).fixOf st.val b).2) ∧
      (∀ j, (∀ b, b < banksOf st.val → j ≠ bankKey st.val b) → tabGet Bank.reset t.perf.banks j = tabGet Bank.reset s.perf.banks j) ∧
      t = { s with perf := t.perf, time := t.time, mesh := { s.mesh with cycle := t.mesh.cycle, ahead := t.mesh.ahead } })) ∧
  (∀ s : State, let l := s.perf.ladle
    (l.collect = false ∨ (∃ st ∈ stopsInOrder, (s.bankOf st 0).latch = none) → exec .ladleSnapshotDone s = .next s) ∧
    (l.collect = true → (∀ st ∈ stopsInOrder, (s.bankOf st 0).latch.isSome = true) →
      ((s.ringWrite l.head s.snapshot).2 = none → ∃ t, exec .ladleSnapshotDone s = .next t ∧
        t.perf.ladle = { l with head := (l.head + 37888) % l.size, collect := false } ∧ t.irq.events = (s.pulse 176).irq.events ∧ t.err = s.err ∧
        (∀ p ∈ banksInOrder, t.bankOf p.1 p.2 = { s.bankOf p.1 p.2 with latch := none })) ∧
      (∀ o, (s.ringWrite l.head s.snapshot).2 = some o → ∃ t, exec .ladleSnapshotDone s = .next t ∧
        t.perf.ladle = { l with en := false, err := 2, collect := false } ∧ t.irq.events = s.irq.events ∧
        t.err = (s.logErr { mkErr 0x14 3 (stopId 0 36) true with pa := some (s.pma.pkgId.toNat * 2 ^ 47 + l.base.toNat + o), detail := o }).err ∧
        (∀ p ∈ banksInOrder, ∀ c, (s.bankOf p.1 p.2).latch = some c →
          t.bankOf p.1 p.2 = { s.bankOf p.1 p.2 with latch := none, ovf := (s.bankOf p.1 p.2).ovf ||| c.ovf }))))

/-- From C1, ten microseconds on and with PW_LTOL admitting it, a hart enters C2: its reservation is lost, a T-core's L1 data is clean, an S-core's
share is gone. From C2, 200 microseconds on, it enters C3: a T-core's L2 allocates no more and its lines leave, all of them where none has a request
outstanding and the write-back buffer has room. A domain in C3 switches off: translations and predictions are lost, and TCM contents; a T-core's
stays on until its caches are empty and the snoop filter does not record its agent. A pending enabled interrupt wakes the hart, whatever state it
waits in; no other hart changes. When the conditions of retention hold, every cache is empty, lines of online channels stand in memory, and the
ports are off; a wake cause that may end it, or DBG_WAKE above Sealed, brings ports and channels back. Where a condition fails nothing changes.
(R107; R143; R192; R248; R449; R451; R452; R454; R455; R456; R487; R492) -/
def Obligations.IdleStatesAndRetention : Prop :=
  (∀ (s : State) (h : HartId), let c := s.hart h
    let p := s.passTo (c.since + 10000)
    (c.idle ≠ .c1 ∨ p.mayDeepen h = false ∨ c.admits 1 (if isT h then 2000 else 3000) = false → exec (.idleC2Entry h) s = .next s) ∧
    (c.idle = .c1 → p.mayDeepen h = true → c.admits 1 (if isT h then 2000 else 3000) = true →
      ∃ t, exec (.idleC2Entry h) s = .next t ∧ t.time = max s.time (c.since + 10000) ∧ 
        t.hart h = { (if isT h then { c with dl1 := c.dl1.map fun x => { x with dirty := false } } else c.emptyL1) with idle := .c2, since := t.time, resv := none } ∧
        (∀ g, g ≠ h → t.hart g = s.hart g) ∧
        t = { s with tcores := t.tcores, scores := t.scores, time := t.time, mesh := { s.mesh with cycle := t.mesh.cycle, ahead := t.mesh.ahead } })) ∧
  (∀ (s : State) (h : HartId), let c := s.hart h
    let p := s.passTo (c.since + 200000)
    let a := agentOf h
    (c.idle ≠ .c2 ∨ p.mayDeepen h = false ∨ c.admits 2 40000 = false → exec (.idleC3Entry h) s = .next s) ∧
    (c.idle = .c2 → p.mayDeepen h = true → c.admits 2 40000 = true →
      ∃ t, exec (.idleC3Entry h) s = .next t ∧ t.time = max s.time (c.since + 200000) ∧ (t.hart h).idle = .c3 ∧ (t.hart h).since = t.time ∧ (t.hart h).resv = none ∧
        (isT h = true → c.rstBusy = false → tabGet false t.coh.noAlloc a = true) ∧
        (isT h = true → (s.coh.fills.filter fun f => agentOfNode f.dst == some a) = [] →
          (∀ ln, t.l2 a ln = s.l2 a ln ∨ (t.l2 a ln).st = .i) ∧
          ((∀ ln, s.mshrOf a ln = none) → s.wbCount a + (s.agentLines a).length ≤ 16 → ∀ ln, ln < 2 ^ 41 → (t.l2 a ln).st = .i)) ∧
        (isT h = false → t = { s with scores := t.scores, time := t.time, mesh := { s.mesh with cycle := t.mesh.cycle, ahead := t.mesh.ahead } }) ∧
        t = { s with tcores := t.tcores, scores := t.scores, coh := t.coh, mesh := t.mesh, time := t.time })) ∧
  (∀ (s : State) (h : HartId),
    ((s.hart h).idle ≠ .c3 ∨ hartIdx h ∈ s.pow.coreOff ∨ (isT h = true ∧ (s.recorded (agentOf h) = true ∨ s.emptied (agentOf h) = false)) → exec (.powerDomainOff h) s = .next s) ∧
    ((s.hart h).idle = .c3 → hartIdx h ∉ s.pow.coreOff → (isT h = true → s.recorded (agentOf h) = false ∧ s.emptied (agentOf h) = true) →
      ∃ t, exec (.powerDomainOff h) s = .next t ∧ t.pow.coreOff = s.pow.coreOff ++ [hartIdx h] ∧
        t.hart h = { s.hart h with itlb := [], dtlb := [], tlb := [], wcache := [], gcache := [], walks := [], wfaults := [], pred := .empty, pfL1 := [], pfL2 := [] } ∧
        (∀ g, g ≠ h → t.hart g = s.hart g) ∧
        (isT h = true → t.mem = s.mem) ∧
        (isT h = false → ∀ k, memByte t.mem.tcm k = if k / 0x2_0000 = hartIdx h then 0 else memByte s.mem.tcm k) ∧
        t = { s with tcores := t.tcores, scores := t.scores, mem := { s.mem with tcm := t.mem.tcm, tcmErr := t.mem.tcmErr }, pow := { s.pow with coreOff := t.pow.coreOff } })) ∧
  (∀ (s : State) (h : HartId),
    ((s.hart h).idle = .run ∨ s.wakes h = false ∨ s.pow.retention = true ∨ s.phase ≠ .run → exec (.hartWake h) s = .next s) ∧
    ((s.hart h).idle ≠ .run → s.wakes h = true → s.pow.retention = false → s.phase = .run →
      ∃ t, exec (.hartWake h) s = .next t ∧ t.hart h = { s.hart h with idle := .run, since := s.time } ∧ (∀ g, g ≠ h → t.hart g = s.hart g) ∧
        (∀ k, k ∈ t.pow.coreOff ↔ k ∈ s.pow.coreOff ∧ k ≠ hartIdx h) ∧ (isT h = true → tabGet false t.coh.noAlloc (agentOf h) = false) ∧
        t = { s with tcores := t.tcores, scores := t.scores, pow := { s.pow with coreOff := t.pow.coreOff }, coh := { s.coh with noAlloc := t.coh.noAlloc } })) ∧
  (∀ s : State, let p := s.passTo (s.idleSince + 1000000)
    (p.mayRetain = false → exec .packageRetentionEntry s = .next s) ∧
    (p.mayRetain = true → ∃ t, exec .packageRetentionEntry s = .next t ∧ t.coh.l2 = [] ∧ t.coh.l3 = [] ∧ t.coh.sf = [] ∧ t.coh.vb = [] ∧ t.coh.wb = [] ∧
      (∀ ln ∈ s.dirtyLines, (s.chan (s.chanOf (64 * ln))).st = .online → memLine t.mem.dram (64 * ln) = (s.newest ln).1) ∧
      t.pow = { s.pow with retention := true, portOff := BitVec.allOnes 24 } ∧ t.tcores = s.tcores ∧ t.scores = s.scores ∧ t.ren = s.ren)) ∧
  (∀ (s : State) (why : WakeCause),
    (s.pow.retention = false ∨ s.wakeOk why = false → exec (.packageRetentionExit why) s = .next s) ∧
    (s.pow.retention = true → s.wakeOk why = true → ∃ t, exec (.packageRetentionExit why) s = .next t ∧
      t.pow = { s.pow with retention := false, portOff := 0 } ∧ t.time = (if why = .timer then max s.time s.firstTimer else s.time) ∧
      (∀ ch, ch < 48 → t.chan ch = { s.chan ch with st := if (s.chan ch).st = .selfRefresh then .online else (s.chan ch).st }) ∧
      t = { s with pow := t.pow, dram := { s.dram with chans := t.dram.chans }, time := t.time, mesh := { s.mesh with cycle := t.mesh.cycle, ahead := t.mesh.ahead } })) ∧
  (∀ s : State, (s.pow.retention = false ∨ s.sec.level = 0 → exec .dbgWake s = .next s) ∧
    (s.pow.retention = true → s.sec.level ≠ 0 → ∃ t, exec .dbgWake s = .next t ∧ t.pow = { s.pow with retention := false, portOff := 0 } ∧
      (∀ ch, ch < 48 → t.chan ch = { s.chan ch with st := if (s.chan ch).st = .selfRefresh then .online else (s.chan ch).st }) ∧
      t = { s with pow := t.pow, dram := { s.dram with chans := t.dram.chans } }))

/-- While Rennet serves, a power sample above the limit lowers the T-cores by 100 MHz and one within it raises them (the step is the model's choice,
log entry 64). A thermal sample drives source 352, HWTHR from 103 degrees on until every sensor is below 100, and THERMTRIP_N, which stops every
hart for good. An energy reading sets LIMIT; a higher goal adds the difference to the free tokens and ends a reduction; a lower one takes as many
free tokens as there are at once and leaves the rest pending; a second without a reading makes the goal 0. A refill fills the allowance to 16 from
the pool, the free count unchanged. A ledger second adds to H and A by the band; saving copies the ledger; a monitor's step is a record and 5 mV, or
100 MHz. Without Rennet none of its parts happens. (R440; R457; R459; R460; R461; R462; R466; R467; R508; R509) -/
def Obligations.LimitsAndBudgetFollowReadings : Prop :=
  (∀ (s : State) (slow fast : Nat), let hot := s.pow.limitW < slow ∨ 11 * s.pow.limitW < 10 * fast
    (s.ren.up = false → exec (.powerSample slow fast) s = .next s) ∧
    (s.ren.up = true → ∃ t, exec (.powerSample slow fast) s = .next t ∧
      (hot → t.pow.cut = min 2600 (s.pow.cut + 100)) ∧ (¬hot → t.pow.cut = s.pow.cut - 100) ∧ t.pow.throttle = t.causes ∧
      (t.pow.throttle = s.pow.throttle → t.ren = s.ren) ∧
      t = { s with pow := { s.pow with slowW := slow, fastW := fast, cut := t.pow.cut, throttle := t.pow.throttle }, ren := t.ren, irq := { s.irq with src := t.irq.src } })) ∧
  (∀ (s : State) (tl : Fin 8) (c : Int), ∃ t, exec (.thermalSample tl c) s = .next t ∧ t.sensorOf tl.val = c ∧ (∀ j, j ≠ tl.val → t.sensorOf j = s.sensorOf j) ∧
    (t.source 352).level = ((List.range 8).any fun i => decide (s.tctlOf i ≤ t.sensorOf i)) ∧ (∀ n, n ≠ 351 → n ≠ 352 → t.source n = s.source n) ∧
    ((∃ i, i < 8 ∧ 103 ≤ t.sensorOf i) → t.pow.hwthr = true) ∧ ((∀ i, i < 8 → t.sensorOf i < 100) → t.pow.hwthr = false) ∧
    ((∀ i, i < 8 → t.sensorOf i < 103) → (∃ i, i < 8 ∧ 100 ≤ t.sensorOf i) → t.pow.hwthr = s.pow.hwthr) ∧
    (t.pow.trip = true ↔ s.pow.trip = true ∨ ∃ i, i < 8 ∧ s.pow.tripAt ≤ t.sensorOf i) ∧
    (t.pow.trip = true → s.pow.trip = false → ∀ h, t.hart h = { s.hart h with stopped := true }) ∧
    (t.pow.trip = s.pow.trip → t.tcores = s.tcores ∧ t.scores = s.scores) ∧
    (t.pow.thermCut = if s.ren.up = false then s.pow.thermCut
      else if (∃ i, i < 8 ∧ s.tctlOf i < t.sensorOf i) then min 2600 (s.pow.thermCut + 100) else s.pow.thermCut - 100) ∧
    t = { s with tcores := t.tcores, scores := t.scores, ren := t.ren, irq := { s.irq with src := t.irq.src },
                 pow := { s.pow with sensor := t.pow.sensor, thermCut := t.pow.thermCut, hwthr := t.pow.hwthr, trip := t.pow.trip, throttle := t.pow.throttle } }) ∧
  (∀ (s : State) (mj : BitVec 32), let limit := min (2 ^ 24) (8000 * mj.toNat - 10000000)
    let n := match s.plat.budgetCap with | some c => min c limit | none => limit
    let b := s.brine
    (s.ren.up = false → exec (.holdupEnergyRead mj) s = .next s) ∧
    (s.ren.up = true → n = s.budgetGoal → exec (.holdupEnergyRead mj) s = .next { s with brine := { b with energy := mj.toNat, readAt := some s.time } }) ∧
    (s.ren.up = true → n ≠ s.budgetGoal → b.budget ≤ n → ∃ t, exec (.holdupEnergyRead mj) s = .next t ∧
      t.brine = { b with energy := mj.toNat, readAt := some s.time, budget := n, pool := b.pool + (n - b.budget), cutPend := 0 } ∧
      t = { s with brine := t.brine, ren := t.ren, irq := { s.irq with src := t.irq.src } }) ∧
    (s.ren.up = true → n ≠ s.budgetGoal → n < b.budget → ∃ t, exec (.holdupEnergyRead mj) s = .next t ∧
      t.brine.energy = mj.toNat ∧ t.brine.readAt = some s.time ∧ t.brine.budget = b.budget - min (b.budget - n) b.free ∧
      t.brine.cutPend = b.budget - n - min (b.budget - n) b.free ∧ t.budgetGoal = n ∧
      t.mem = s.mem ∧ t.tcores = s.tcores ∧ t.scores = s.scores)) ∧
  (∀ s : State, (s.ren.up = false ∨ s.brine.readAt = none → exec .holdupReadingStale s = .next s) ∧
    (∀ r, s.ren.up = true → s.brine.readAt = some r → ∃ t, exec .holdupReadingStale s = .next t ∧ t.time = max s.time (r + 1000000000) ∧ t.brine.readAt = none ∧
      t.budgetGoal = 0 ∧ t.mem = s.mem ∧ t.tcores = s.tcores ∧ t.scores = s.scores)) ∧
  (∀ (s : State) (k : Nat), let a := tabGet 0 s.brine.allow k
    (396 ≤ k → exec (.tokenRefill k) s = .next s) ∧
    (k < 396 → tabWf (0 : Nat) s.brine.allow = true → ∃ t, exec (.tokenRefill k) s = .next t ∧ tabGet 0 t.brine.allow k = a + min (16 - a) s.brine.pool ∧
      (∀ j, j ≠ k → tabGet 0 t.brine.allow j = tabGet 0 s.brine.allow j) ∧ t.brine.free = s.brine.free ∧
      t = { s with brine := { s.brine with allow := t.brine.allow, pool := s.brine.pool - min (16 - a) s.brine.pool } })) ∧
  (∀ (s : State) (tl : Fin 8), (s.ren.up = false → exec (.lifeLedgerSample tl) s = .next s) ∧
    (s.ren.up = true → ∃ t, exec (.lifeLedgerSample tl) s = .next t ∧ (t.ledger tl.val).h = (s.ledger tl.val).h + 10 ∧
      (∃ fast, (t.ledger tl.val).a = (s.ledger tl.val).a + lifeFactor (s.sensorOf tl.val) fast ∧
        (ordOf tl.val = none → fast = false) ∧
        ∀ o, ordOf tl.val = some o → (fast = true ↔ ∃ i, i < 32 ∧ 2800 < s.freqOf (32 * o + i))) ∧
      ((t.ledger tl.val).a ≤ (t.ledger tl.val).h → (t.ledger tl.val).lim1 = false ∧ (t.ledger tl.val).lim2 = false) ∧
      ((t.ledger tl.val).h + 18000000 < (t.ledger tl.val).a → (t.ledger tl.val).lim1 = true) ∧
      ((t.ledger tl.val).h + 72000000 < (t.ledger tl.val).a → (t.ledger tl.val).lim2 = true) ∧
      (∀ j, j ≠ tl.val → t.ledger j = s.ledger j) ∧
      t = { s with pow := { s.pow with ledger := t.pow.ledger, throttle := t.pow.throttle }, ren := t.ren, irq := { s.irq with src := t.irq.src } })) ∧
  (∀ s : State, exec .lifeLedgerSave s = .next (if s.ren.up = true then { s with pow := { s.pow with ledgerSaved := s.pow.ledger } } else s)) ∧
  (∀ (s : State) (tl : Fin 8) (mon : Fin 16) (steps : Nat) (w : Bool), let k := tl.val * 16 + mon.val
    let old := tabGet 0 s.pow.margin k
    (s.ren.up = false → exec (.agingMonitorRead tl mon steps w) s = .next s) ∧
    (s.ren.up = true → ∃ t, exec (.agingMonitorRead tl mon steps w) s = .next t ∧ tabGet 0 t.pow.margin k = max old steps ∧
      t.err.orders = s.err.orders + (steps - old) ∧
      (w = true → tabGet 0 t.pow.agingMv tl.val = tabGet 0 s.pow.agingMv tl.val + 5 * (steps - old) ∧ t.pow.agingCut = s.pow.agingCut) ∧
      (w = false → tabGet 0 t.pow.agingCut k = tabGet 0 s.pow.agingCut k + 100 * (steps - old) ∧ t.pow.agingMv = s.pow.agingMv) ∧
      t = { s with pow := { s.pow with margin := t.pow.margin, agingMv := t.pow.agingMv, agingCut := t.pow.agingCut, throttle := t.pow.throttle },
                   err := t.err, ren := t.ren, irq := { s.irq with src := t.irq.src } }))

/-- While Rennet serves, a valid record not copied yet goes to the end of the log with the next index, from class 2 on to the journal too; a copied
one not again. An admitted write frees a record and nothing else of its bank. An endpoint that fails a write acknowledged early, or does not answer
within TMO, leaves a record that names the requester, and the write is tracked no longer. A core-fatal error stops the hart with a record, its
reservation lost; a T-core's L2 allocates no more and empties, its unreadable lines at once, all of it where no request is outstanding and the
write-back buffer has room; a hart that is fatal already is left alone. A package-fatal error is recorded in the journal and on the console, and
stops every hart and the package. PFAIL_N pulses source 177 and raises 354; a microsecond later the flush stops every hart, empties every cache,
leaves the newest value of every held dirty line of an online channel in memory, and programs its record; a package that has flushed does not flush
again. (R31; R155; R381; R389; R468; R469; R494; R495; R498; R500; R505; R506) -/
def Obligations.ErrorsFlushAndStop : Prop :=
  (∀ (s : State) (tl : Fin 8) (k : Fin 64), let r := s.errRec tl.val k.val
    ((s.ren.up = false ∨ r.v = false ∨ (tl.val, k.val, r.order) ∈ s.ren.logCopied) → exec (.errorRecordCopy tl k) s = .next s) ∧
    (s.ren.up = true → r.v = true → (tl.val, k.val, r.order) ∉ s.ren.logCopied → ∃ t e, exec (.errorRecordCopy tl k) s = .next t ∧
      e.index = s.ren.logNext ∧ e.tile = tl.val ∧ e.cls = r.cls ∧ e.hdr = BitVec.ofNat 64 r.hdr ∧ e.addr = BitVec.ofNat 64 r.pa ∧ e.detail = r.detail ∧
      e.time = BitVec.ofNat 64 r.time ∧ t.ren.log.getLast? = some e ∧ t.ren.log.length ≤ 16384 ∧ (s.ren.log.length < 16384 → t.ren.log = s.ren.log ++ [e]) ∧
      t.ren.logNext = s.ren.logNext + 1 ∧ (r.cls < 2 → t.ren.journal = s.ren.journal) ∧ (2 ≤ r.cls → t.ren.journal.getLast? = some e) ∧
      (tl.val, k.val, r.order) ∈ t.ren.logCopied ∧
      t = { s with ren := { s.ren with log := t.ren.log, logNext := t.ren.logNext, journal := t.ren.journal, logCopied := t.ren.logCopied } })) ∧
  (∀ (s : State) (who : Master) (tl : Fin 8) (k : Fin 64), mayWrite .r31 who = true →
    ∃ t, exec (.esRecordFree who tl k) s = .next t ∧ t.errRec tl.val k.val = { s.errRec tl.val k.val with v := false } ∧
      (∀ j, j ≠ k.val → t.errRec tl.val j = s.errRec tl.val j) ∧ (∀ u, u ≠ tl.val → t.errBank u = s.errBank u) ∧
      (∀ n, n ≠ 335 + tl.val → n ≠ 343 + tl.val → t.source n = s.source n) ∧
      t = { s with err := { s.err with banks := t.err.banks }, irq := { s.irq with src := t.irq.src } }) ∧
  (∀ (s : State) (h : HartId) (md : Mode) (tl : Fin 8) (k : Fin 64), md ≠ .m → s.issues h = true →
    exec (.esRecordFree (.hart h md) tl k) s = .next (s.trap h (excep 7 (BitVec.ofNat 64 (s.pma.pkgId.toNat * 2 ^ 47 + (stopPage (errStop tl.val) + 0x4000 + 0x40 * k.val)))))) ∧
  (∀ (s : State) (stop req : Node) (a : Pa) (sts : BitVec 8), let w := s.mesh.ewa.find? (fun e => e.stop == stop && e.req == req && e.la == paLa a.toNat)
    (w = none → exec (.ewaEndpointFailure stop req a sts) s = .next s) ∧
    (∀ e, w = some e → ∃ t, exec (.ewaEndpointFailure stop req a sts) s = .next t ∧ t.err.orders = s.err.orders + 1 ∧ t.mesh.ewa = s.mesh.ewa.erase e ∧
      t.time = (if sts = 0xFF then max s.time e.deadline else s.time) ∧
      t.err = (State.logErr { s with time := t.time }
              { cause := 0x0A, cls := 3, stop := nodeStop stop, sub := stop.sub.val, ras := true,
                pa := some (s.pma.pkgId.toNat * 2 ^ 47 + paLa a.toNat), req := some (if e.rpkg = 0 then s.pma.pkgId.toNat else e.rpkg, req, e.tag),
                detail := sts.toNat, count := 1 }).err ∧
      t = { s with err := t.err, irq := { s.irq with src := t.irq.src }, time := t.time,
                   mesh := { s.mesh with ewa := t.mesh.ewa, cycle := t.mesh.cycle, ahead := t.mesh.ahead } })) ∧
  (∀ (s : State) (h : HartId) (why : CoreFatal) (bad : List La),
    ((s.hart h).fatal = true → exec (.coreFatalError h why bad) s = .next s) ∧
    ((s.hart h).fatal = false → ∃ t, exec (.coreFatalError h why bad) s = .next t ∧ (t.hart h).fatal = true ∧ (t.hart h).resv = none ∧
      s.err.orders + 1 ≤ t.err.orders ∧ (∀ g, g ≠ h → t.hart g = s.hart g) ∧
      (isT h = true → ((s.hart h).rstBusy = false → tabGet false t.coh.noAlloc (agentOf h) = true) ∧
        ((s.coh.fills.filter fun f => agentOfNode f.dst == some (agentOf h)) = [] → (∀ ln, t.l2 (agentOf h) ln = s.l2 (agentOf h) ln ∨ (t.l2 (agentOf h) ln).st = .i) ∧
          (∀ la ∈ bad, (t.l2 (agentOf h) (lineOf la.toNat)).st = .i) ∧
          ((∀ ln, s.mshrOf (agentOf h) ln = none) → s.wbCount (agentOf h) + (s.agentLines (agentOf h)).length ≤ 16 →
            ∀ ln, ln < 2 ^ 41 → (t.l2 (agentOf h) ln).st = .i)) ∧ t.mem = s.mem ∧ t.time = s.time) ∧
      (isT h = false → t.hart h = { s.hart h with fatal := true, resv := none } ∧
        t = { s with scores := t.scores, err := t.err, irq := { s.irq with src := t.irq.src } }))) ∧
  (∀ (s : State) (sl : Fin 192) (why : PkgFatal),
    (s.phase = .inert → exec (.pkgFatalError sl why) s = .next s) ∧
    (s.phase ≠ .inert → ∃ t, exec (.pkgFatalError sl why) s = .next t ∧ t.phase = .inert ∧ (∀ h, (t.hart h).stopped = true) ∧
      t.ren.console = s.ren.console ++ [0x11] ∧ (∃ e, t.ren.journal.getLast? = some e ∧ e.cls = 5 ∧ e.detail = BitVec.ofNat 64 (pkgFatalCode why)) ∧
      t.ren.logNext = s.ren.logNext + 1 ∧ t.coh.l2 = [] ∧ t.coh.l3 = [] ∧ t.ren.flush.valid = true ∧ t.ren.flush.t0 = s.time)) ∧
  (∀ s : State, ∃ t, exec .pfailNFall s = .next t ∧ t.pow = { s.pow with pfail := some s.time } ∧ t.source 354 = (s.wire 354 true).source 354 ∧
    (t.source 354).level = true ∧ t.irq.events = (s.pulse 177).irq.events ∧ (∀ n, n ≠ 354 → t.source n = s.source n) ∧
    t.mesh = (s.pulse 177).mesh ∧ t = { s with pow := t.pow, irq := { s.irq with src := t.irq.src, events := t.irq.events }, mesh := t.mesh }) ∧
  (∀ s : State, (s.pow.pfail = none ∨ s.flushed = true → exec .powerFailFlush s = .next s) ∧
    (∀ t0, s.pow.pfail = some t0 → s.flushed = false → ∃ t, exec .powerFailFlush s = .next t ∧ t.phase = .inert ∧ t.flushed = true ∧
      (∀ h, (t.hart h).stopped = true ∧ ∀ e ∈ (t.hart h).sb, e.retired = true) ∧ t.coh.l2 = [] ∧ t.coh.l3 = [] ∧ t.coh.wb = [] ∧ t.coh.vb = [] ∧
      t.time = max s.time (t0 + 1000) ∧ t.ren.flush.t0 = t.time ∧ t.ren.flush.complete = true ∧ t.ren.flush.energy = s.brine.energy ∧ t.ren.flush.map = s.dram.map ∧
      (s.heldStores = [] → (∀ f ∈ s.flits ++ s.coh.waitq, f.op ≠ .writeNc) → ∀ ln ∈ s.dirtyLines, s.heldAt (64 * ln) = true →
        (s.chan (s.chanOf (64 * ln))).st = .online → memLine t.mem.dram (64 * ln) = (s.newest ln).1)))

/-- A reset pin is ignored while the flush runs. A cold reset without a Rennet image waits with boot status 8; with one, Rennet serves, time is 0,
the level is Sealed, the platform gives package ID and, where Rennet accepts it, the mapping, channels are trained and one that fails three times
stops the boot, harts but hart 0 are held at the reset values, and memory is kept only after a matching flush. A warm reset that is not ignored
leaves no cached line, no instance and no IOMMU state, takes harts but hart 0 to their reset values, and lowers Tenant to Sealed. PW_HRST releases a
held hart at RVEC; it resets a hart with nothing outstanding at once, its files empty and its TLB gone, other harts as they were, and a T-core's
reset is over when its L2 is empty; a hart with writes outstanding waits; a fatal hart's self-test decides, once its L2 is empty. The first host
instruction, with every channel trained, runs at ENTRY with a0 and a1 set, and is given only once. (R100; R470; R478; R511; R512; R513; R515; R516;
R520; R521; R522) -/
def Obligations.ResetsAndTheFirstInstruction : Prop :=
  (∀ (s : State) (ok : Bool), (s.flushing = true → exec (.coldReset ok) s = .next s) ∧
    (s.flushing = false → let u := ((s.coldBase (s.flushOutcome == 1)).applyCommit 0).applyCommit 1
      (u.bootSlot 0 = none → ∃ t, exec (.coldReset ok) s = .next t ∧ t.sec.boot = 8 ∧ t.ren.up = false ∧ t.phase = .boot ∧ t.tcores = [] ∧ t.scores = [] ∧ t.mem.dram = u.mem.dram) ∧
      (∀ k, u.bootSlot 0 = some k → ∃ t, exec (.coldReset ok) s = .next t ∧ t.ren.up = true ∧ t.sec.boot = 1 ∧ t.sec.level = 0 ∧ t.time = 0 ∧
        t.pma.pkgId = BitVec.ofNat 9 s.plat.pkgId.val ∧ (s.plat.mapOk = true → t.dram.map = s.plat.map) ∧
        (s.plat.mapOk = false → t.dram.map.getLsbD 31 = false ∧ t.phase = .boot) ∧
        (s.plat.mapOk = true → ∀ ch, ch < 48 → (s.plat.trainOk.getLsbD ch = true → (t.chan ch).st = .online) ∧
          (s.plat.trainOk.getLsbD ch = false → s.plat.savedOk.getLsbD ch = false → t.phase = .inert)) ∧ t.ren.outcome = s.flushOutcome ∧
        t.coh = Coh.reset ∧ t.iommu = [] ∧ t.sec.nonce = s.sec.nonce + 1 ∧ t.sec.rsvn = s.sec.rsvn ∧ t.sec.keymin = s.sec.keymin ∧
        (s.flushOutcome = 1 → t.mem.dram = s.mem.dram) ∧ (s.flushOutcome ≠ 1 → t.mem.dram = []) ∧
        (∀ h, h ≠ .t 0 → t.hart h = { (if isT h then Hart.resetT else Hart.resetS) with rvec := BitVec.ofNat 64 (s.plat.pkgId.val * 2 ^ 47) }) ∧
        t.plat = s.plat ∧ t.pending = s.pending))) ∧
  (∀ (s : State) (ns : Nat), let off := s.flushing = true ∨ s.phase = .inert ∨ s.pow.trip = true ∨ s.sec.boot = 0 ∨ s.sec.boot = 8
    (off → exec (.warmReset ns) s = .next s) ∧
    (¬off → ∃ t, exec (.warmReset ns) s = .next t ∧ t.coh = Coh.reset ∧ t.eng = State.reset.eng ∧ t.iommu = [] ∧ t.perf = State.reset.perf ∧
      (∃ rv, ∀ h, h ≠ .t 0 → t.hart h = { (if isT h then Hart.resetT else Hart.resetS) with rvec := rv }) ∧
      ((∀ h, (s.hart h).sb = []) → (∀ f ∈ s.flits ++ s.coh.waitq, f.op ≠ .writeNc) →
        t.sec.level = (if s.sec.level = 1 then 0 else s.sec.level) ∧ t.time = s.time + ns ∧ t.pma.dramTop = s.pma.dramTop ∧ t.pma.pkgId = s.pma.pkgId ∧ t.plat = s.plat ∧
        ∀ ln ∈ s.dirtyLines, (s.chan (s.chanOf (64 * ln))).st = .online → memLine t.mem.dram (64 * ln) = (s.newest ln).1))) ∧
  (∀ (s : State) (h : HartId) (who : Master) (v : Word), let c := s.hart h
    let rv := v &&& 0x00FF_FFFF_FFFF_FFFC
    mayWrite .r31 who = true → c.rstBusy = false →
    (c.held = true → c.setResetHalt = false → ∃ t, exec (.hartReset who h v) s = .next t ∧
      t.hart h = { c with rvec := rv, pc := rv, held := false, haveReset := true } ∧ (∀ g, g ≠ h → t.hart g = s.hart g) ∧
      t = { s with tcores := t.tcores, scores := t.scores }) ∧
    (c.held = false → c.fatal = false → c.sb = [] → c.early = [] → c.track = [] → c.uload = [] → ∃ t, exec (.hartReset who h v) s = .next t ∧
      (t.hart h).x = [] ∧ (t.hart h).f = [] ∧ (t.hart h).mode = .m ∧ (t.hart h).resv = none ∧ (t.hart h).tlb = [] ∧ (t.hart h).itlb = [] ∧ (t.hart h).dtlb = [] ∧ (t.hart h).rvec = rv ∧
      (t.hart h).idle = .run ∧ (t.hart h).held = false ∧ (t.hart h).haveReset = true ∧
      (c.setResetHalt = false → (t.hart h).pc = rv ∧ (t.hart h).csr = csrReset ∧ (t.hart h).halted = false) ∧
      (c.setResetHalt = true → s.permitted h = true → (t.hart h).halted = true ∧ (t.hart h).csrRaw 0x7B1 = rv) ∧
      (∀ g, g ≠ h → t.hart g = s.hart g) ∧ (∀ f, fileExists h f = true → t.file h f = ImFile.reset) ∧
      (isT h = false → (t.hart h).rstBusy = false) ∧
      (isT h = true → (t.hart h).rstBusy = !(t.emptied (agentOf h)) ∧
        ((s.coh.fills.filter fun f => agentOfNode f.dst == some (agentOf h)) = [] → (∀ ln, t.l2 (agentOf h) ln = s.l2 (agentOf h) ln ∨ (t.l2 (agentOf h) ln).st = .i) ∧
          ((∀ ln, s.mshrOf (agentOf h) ln = none) → s.wbCount (agentOf h) + (s.agentLines (agentOf h)).length ≤ 16 →
            ∀ ln, ln < 2 ^ 41 → (t.l2 (agentOf h) ln).st = .i))) ∧ t.mem = s.mem) ∧
    (c.held = false → c.fatal = false → c.sb = [] → c.early = [] → c.idle = .run → c.track ≠ [] → ∃ t, exec (.hartReset who h v) s = .next t ∧
      (t.hart h).rstBusy = true ∧ (t.hart h).pc = c.pc ∧ (t.hart h).x = c.x ∧ (t.hart h).track = c.track ∧ t.mem = s.mem)) ∧
  (∀ (s : State) (h g : HartId) (md : Mode) (v : Word), md ≠ .m → s.issues g = true →
    exec (.hartReset (.hart g md) h v) s = .next (s.trap g (excep 7 (BitVec.ofNat 64 (s.pma.pkgId.toNat * 2 ^ 47 + hrstAddr h))))) ∧
  (∀ (s : State) (h : HartId), let c := s.hart h
    let emptying := isT h = true ∧ tabGet false s.coh.noAlloc (agentOf h) = true
    (c.fatal = false ∨ c.rstBusy = false ∨ emptying → ∀ pass, exec (.hartSelfTestDone h pass) s = .next s) ∧
    (c.fatal = true → c.rstBusy = true → ¬emptying →
      exec (.hartSelfTestDone h true) s = .next (s.setHart h { c with fatal := false, rstBusy := false }) ∧
      ∃ t, exec (.hartSelfTestDone h false) s = .next t ∧ t.hart h = { c with rstBusy := false } ∧ t.err.orders = s.err.orders + 1 ∧
        (∀ g, g ≠ h → t.hart g = s.hart g) ∧ t.mem = s.mem)) ∧
  (∀ s : State, (s.phase ≠ .run ∨ s.allTrained = false ∨ s.ren.started = true ∨ s.ren.hostOk = false ∨ s.canIssue (.t 0) = false → exec .firstHostInstruction s = .next s) ∧
    (s.phase = .run → s.allTrained = true → s.ren.started = false → s.ren.hostOk = true → s.canIssue (.t 0) = true → ∃ t, exec .firstHostInstruction s = .next t ∧
      let c := t.hart (.t 0)
      c.pc = BitVec.ofNat 64 (s.ownPkg * 2 ^ 47 + s.plat.imgBase) ∧ c.mode = .m ∧ c.getX 10 = 0 ∧ c.getX 11 = BitVec.ofNat 64 (s.ownPkg * 2 ^ 47 + 0x400_0000) ∧
      c.csr = csrReset ∧ (∀ g, g ≠ .t 0 → t.hart g = s.hart g) ∧ t.ren.started = true ∧ t.sec.boot = 2 ∧ t.graop = { s.graop with refuse := false } ∧
      (s.ren.raiseOtp = false → t.sec = { s.sec with boot := 2 }) ∧ s.sec.rsvn ≤ t.sec.rsvn ∧ s.sec.hsvn ≤ t.sec.hsvn ∧ s.sec.keymin ≤ t.sec.keymin ∧
      t.mem = s.mem ∧ t.coh = s.coh))

/-- Where the debug modules do not answer or the level does not permit the hart, no request has an effect. Otherwise a halt request halts a running
hart at its next boundary, dpc holding its pc, and with it the running members of its halt group; on a hart that may not halt yet it stays
requested; a halted hart resumes at dpc in the mode that dcsr names. Abstract commands fail with an error code for a hart in C3, one that runs, an
absent register, the program buffer, and at Tenant for machine-level CSRs and physical memory accesses; at a halted hart they read and write integer
registers, and write memory through its store buffer. System bus access is for Platform and Open: it sends a read or a write of the local package to
the stop that serves the address, memory's home slice among them, and one at a time is outstanding; misaligned and refused accesses are reported by
their codes (codes and layouts are the family's, log entry 8). (R482; R486; R489; R490; R491; R492) -/
def Obligations.DebuggersReachTheHarts : Prop :=
  (∀ (s : State) (h : HartId), s.debugUp = false ∨ s.permitted h = false →
    exec (.dmHaltRequest h) s = .next s ∧ exec (.dmResumeRequest h) s = .next s ∧ ∀ cmd, exec (.dmAbstractCommand h cmd) s = .next s) ∧
  (∀ (s : State) (h : HartId), let c := s.hart h
    s.debugUp = true → s.permitted h = true →
    (c.halted = false → c.idle = .run → c.early = [] → c.runs = true → s.mayHalt h = true → ∃ t, exec (.dmHaltRequest h) s = .next t ∧
      (t.hart h).halted = true ∧ (t.hart h).haltReq = false ∧ (t.hart h).csrRaw 0x7B1 = c.pc ∧ fld ((t.hart h).csrRaw 0x7B0) 8 6 = 3 ∧
      fld ((t.hart h).csrRaw 0x7B0) 1 0 = modePrv c.mode ∧ (t.hart h).x = c.x ∧ (t.hart h).pc = c.pc ∧
      (c.haltGroup = 0 → ∀ g, g ≠ h → t.hart g = s.hart g) ∧
      (c.haltGroup ≠ 0 → ∀ g, g ≠ h → (s.hart g).haltGroup = c.haltGroup → s.permitted g = true → (s.hart g).idle = .run → (s.hart g).runs = true →
        s.mayHalt g = true → (t.hart g).halted = true) ∧
      t = { s with tcores := t.tcores, scores := t.scores, pow := { s.pow with coreOff := t.pow.coreOff }, coh := { s.coh with noAlloc := t.coh.noAlloc } }) ∧
    (c.halted = false → c.idle = .run → c.runs = false ∨ s.mayHalt h = false →
      exec (.dmHaltRequest h) s = .next (s.setHart h { c with haltReq := true })) ∧
    (c.halted = false → exec (.dmResumeRequest h) s = .next s) ∧
    (c.halted = true → let d := c.csrRaw 0x7B0
      ∃ t, exec (.dmResumeRequest h) s = .next t ∧ (t.hart h).halted = false ∧ (t.hart h).pc = c.csrRaw 0x7B1 ∧
        (t.hart h).mode = modeOf (fld d 1 0) (isT h && d.getLsbD 5 && decide (fld d 1 0 ≠ 3)) ∧ (t.hart h).x = c.x ∧
        (d.getLsbD 2 = false → (t.hart h).stepAt = none) ∧ (d.getLsbD 2 = true → (t.hart h).stepAt = some (c.seq, c.csrRaw 0x7B1)) ∧
        (∀ g, g ≠ h → t.hart g = s.hart g) ∧ t = { s with tcores := t.tcores, scores := t.scores })) ∧
  (∀ (s : State) (h : HartId) (cmd : AbsCmd), let c := s.hart h
    let ends (e : Nat) : State := { s with sec := { s.sec with cmderr := tabSet 0 s.sec.cmderr (dmOf h) e } }
    s.debugUp = true → s.permitted h = true →
    (c.idle = .c3 → exec (.dmAbstractCommand h cmd) s = .next (ends 1)) ∧
    (c.idle ≠ .c3 → c.halted = false → exec (.dmAbstractCommand h cmd) s = .next (ends 4)) ∧
    (c.idle ≠ .c3 → c.halted = true →
      (∀ n : Fin 65536, 0x1000 ≤ n.val → n.val < 0x1020 →
        (∃ t, exec (.dmAbstractCommand h (.readReg n)) s = .next t ∧ tabGet 0 t.sec.dmdata (dmOf h) = c.getX (n.val - 0x1000) ∧ tabGet 0 t.sec.cmderr (dmOf h) = 0 ∧
          t = { s with sec := { s.sec with dmdata := t.sec.dmdata, cmderr := t.sec.cmderr } }) ∧
        (∀ v, exec (.dmAbstractCommand h (.writeReg n v)) s = .next ((s.setHart h (c.setX (n.val - 0x1000) v)).absEnd h 0))) ∧
      (∀ n : Fin 65536, 0x1040 ≤ n.val → exec (.dmAbstractCommand h (.readReg n)) s = .next (ends 2) ∧ ∀ v, exec (.dmAbstractCommand h (.writeReg n v)) s = .next (ends 2)) ∧
      (exec (.dmAbstractCommand h .progbuf) s = .next (ends (if s.sec.level = 1 then 2 else 3))) ∧
      (s.sec.level = 1 → ∀ n : Fin 65536, n.val < 0x1000 → n.val / 0x100 % 4 = 3 → exec (.dmAbstractCommand h (.readReg n)) s = .next (ends 2)) ∧
      (s.sec.level = 1 → ∀ a sz v, exec (.dmAbstractCommand h (.readMem false a sz)) s = .next (ends 2) ∧ exec (.dmAbstractCommand h (.writeMem false a sz v)) s = .next (ends 2)) ∧
      (∀ virt a sz v tr, (s.sec.level = 1 → virt = true) → s.absPrep h virt .store a (accBytes sz) = .trap tr →
        exec (.dmAbstractCommand h (.writeMem virt a sz v)) s = .next ((s.setHart h { c with wfaults := [] }).absEnd h 3)) ∧
      (∀ virt a sz v ps, (s.sec.level = 1 → virt = true) → s.absPrep h virt .store a (accBytes sz) = .parts ps → c.sb.length < sbMax h →
        exec (.dmAbstractCommand h (.writeMem virt a sz v)) s =
          .next ((s.setHart h { c with sb := c.sb ++ [sbOf ps (v.toNat % 2 ^ (8 * accBytes sz)) c.seq false] }).absEnd h 0)))) ∧
  (∀ (s : State) (a : Pa) (size : AccSize) (w : Bool) (v : Word), let la := paLa a.toNat
    let n := accBytes size
    (s.debugUp = false ∨ s.sec.level < 2 ∨ s.sec.sbBusy.isSome = true → exec (.systemBusAccess a size w v) s = .next s) ∧
    (s.debugUp = true → 2 ≤ s.sec.level → s.sec.sbBusy = none →
      (a.toNat % n ≠ 0 → exec (.systemBusAccess a size w v) s = .next { s with sec := { s.sec with sberror := 3 } }) ∧
      (a.toNat % n = 0 → s.isLocal a.toNat = false ∨ pmaFind s.pma.masters la true = none →
        exec (.systemBusAccess a size w v) s = .next { s with sec := { s.sec with sberror := 2 } }) ∧
      (s.sbCheck a.toNat n w = 0 → let tmo := match pmaFind s.pma.masters la true with | some e => e.tmo.toNat * 1000 | none => 0
        (∀ sts, s.dest a.toNat tmo w = .done sts →
          exec (.systemBusAccess a size w v) s = .next { s with sec := { s.sec with sberror := if sts = 0 then 0 else if sts = 2 then 2 else 7 } }) ∧
        (∀ nd pk lim, s.dest a.toNat tmo w = .node nd pk lim → ∃ t f, exec (.systemBusAccess a size w v) s = .next t ∧
          t.lastSent (nodeStop (masterNode .sba)) = some f ∧ f.op = (if w = true then .writeNc else .readNc) ∧ f.src = masterNode .sba ∧ f.dst = nd ∧
          f.addr = BitVec.ofNat 47 la ∧ f.mask = maskOf (la % 64) n ∧ f.size = n ∧
          (w = true → f.data = some (atOffset (la % 64) (v.toNat % 2 ^ (8 * n)))) ∧
          t = { s with sec := { s.sec with sbBusy := some (s.time + lim) }, mesh := { s.mesh with inject := t.mesh.inject, stamp := s.mesh.stamp + 1 } }))))

/-- A controller that is off, in retention or stopped takes no request. A read within one line, a write of a line's bytes and a FetchAdd, Swap or
CAS of 4 or 8 aligned bytes are translated and checked; one that passes goes out under a free tag to the node that serves the address, a write noted
as posted; one whose translation needs a walk waits for it; one that is refused is completed as Unsupported Request, a refused write discarded. Any
other AtomicOp is Unsupported. A read for which tags are short waits. An MSI waits while a posted write of its requester is unacknowledged. A
completion ends the outbound request of its tag and answers its master: a write acknowledged early is tracked no longer, another is acknowledged
now, unless its link is down; a read takes data, or for a memory read an ErrorReply with status 3, and for a configuration read all ones; an unknown
tag changes nothing. A link event drives source 329 + i. (R140; R147; R289; R295; R381; R384; R454; R523; R525) -/
def Obligations.RootPortsAnswer : Prop :=
  (∀ (s : State) (i : Fin 6), s.pcieUp i.val = false → ∀ rid pasid iova, (∀ n, exec (.pcieMemoryRead i rid pasid iova n) s = .next s) ∧
    (∀ m d p, exec (.pcieMemoryWrite i rid pasid iova m d p) s = .next s) ∧ (∀ fn n a b, exec (.pcieAtomicOp i rid pasid iova fn n a b) s = .next s) ∧
    ∀ d, exec (.pcieMsiWrite i rid iova d) s = .next s) ∧
  (∀ (s : State) (i : Fin 6) (rid : BitVec 16) (pasid : Option (BitVec 20)) (iova : Word) (n tag : Nat), s.pcieUp i.val = true → s.rootTag i.val = some tag →
    0 < n → iova.toNat % 64 + n ≤ 64 →
    let r := s.tlpReceived i.val 0
    (∀ u, s.rootPa i.val rid pasid iova false 0 = .wait u → exec (.pcieMemoryRead i rid pasid iova n) s = .next u) ∧
    ((∀ u, s.rootPa i.val rid pasid iova false 0 ≠ .wait u) →
      (∀ u, r.rootPa i.val rid pasid iova false tag = .refused u → exec (.pcieMemoryRead i rid pasid iova n) s = .next ((u.rootUr i.val).rootTaken i.val rid pasid)) ∧
      (∀ u pa e nd pk lim, r.rootPa i.val rid pasid iova false tag = .ok u pa e → u.dest pa (e.tmo.toNat * 1000) false = .node nd pk lim →
        ∃ t f, exec (.pcieMemoryRead i rid pasid iova n) s = .next t ∧ t.lastSent (pcieStop i.val) = some f ∧ f.op = .readNc ∧ f.dst = nd ∧
          f.addr = BitVec.ofNat 47 (paLa pa) ∧ f.tag = BitVec.ofNat 10 tag ∧ f.size = n ∧ f.mask = maskOf (pa % 64) n ∧
          (∃ a ∈ (t.iommuSt (i.val / 3)).inflight, a.tag = rootIo i.val tag ∧ a.write = false) ∧ t.mem = u.mem ∧ t.tcores = u.tcores))) ∧
  (∀ (s : State) (i : Fin 6) (rid : BitVec 16) (pasid : Option (BitVec 20)) (iova : Word) (n : Nat), 0 < n → s.rootTag i.val = none →
    exec (.pcieMemoryRead i rid pasid iova n) s = .next s) ∧
  (∀ (s : State) (i : Fin 6) (rid : BitVec 16) (pasid : Option (BitVec 20)) (iova : Word) (m : LineMask) (d : Line) (p : Bool) (tag : Nat), s.pcieUp i.val = true →
    s.rootTag i.val = some tag →
    let took (u : State) : State := (u.tlpReceived i.val (popN 64 m.toNat)).rootTaken i.val rid pasid
    let base := BitVec.ofNat 64 (iova.toNat / 64 * 64)
    (∀ u, s.rootPa i.val rid pasid base true tag = .wait u → exec (.pcieMemoryWrite i rid pasid iova m d p) s = .next u) ∧
    (∀ u, s.rootPa i.val rid pasid base true tag = .refused u → exec (.pcieMemoryWrite i rid pasid iova m d p) s = .next (took u)) ∧
    (∀ u pa e nd pk lim, s.rootPa i.val rid pasid base true tag = .ok u pa e → u.dest pa (e.tmo.toNat * 1000) true = .node nd pk lim →
      ∃ t f, exec (.pcieMemoryWrite i rid pasid iova m d p) s = .next t ∧ t.lastSent (pcieStop i.val) = some f ∧ f.op = .writeNc ∧ f.dst = nd ∧
        f.addr = BitVec.ofNat 47 (paLa pa) ∧ f.tag = BitVec.ofNat 10 tag ∧ f.data = some d ∧ f.mask = m ∧ f.poison = p ∧
        t.pcie.posted = u.pcie.posted ++ [(i.val, rid.toNat, tag)] ∧ t.err.orders = (if p = true then u.err.orders + 1 else u.err.orders) ∧ t.mem = u.mem)) ∧
  (∀ (s : State) (i : Fin 6) (rid : BitVec 16) (pasid : Option (BitVec 20)) (iova : Word) (fn : AmoFn) (n : Nat) (a b : Word) (tag : Nat),
    let bytes := if fn = .cas then 2 * n else n
    let took (u : State) : State := (u.tlpReceived i.val bytes).rootTaken i.val rid pasid
    s.pcieUp i.val = true →
    (pcieAtomic fn n iova = false → exec (.pcieAtomicOp i rid pasid iova fn n a b) s = .next ((s.tlpReceived i.val bytes).rootUr i.val)) ∧
    (pcieAtomic fn n iova = true → s.rootTag i.val = some tag →
      (∀ u, s.rootPa i.val rid pasid iova true tag = .wait u → exec (.pcieAtomicOp i rid pasid iova fn n a b) s = .next u) ∧
      (∀ u, s.rootPa i.val rid pasid iova true tag = .refused u → exec (.pcieAtomicOp i rid pasid iova fn n a b) s = .next ((took u).rootUr i.val)) ∧
      (∀ u pa e, s.rootPa i.val rid pasid iova true tag = .ok u pa e → e.io = true → exec (.pcieAtomicOp i rid pasid iova fn n a b) s = .next ((took u).rootUr i.val)) ∧
      (∀ u pa e nd pk lim, s.rootPa i.val rid pasid iova true tag = .ok u pa e → e.io = false → u.dest pa (e.tmo.toNat * 1000) false = .node nd pk lim →
        ∃ t f, exec (.pcieAtomicOp i rid pasid iova fn n a b) s = .next t ∧ t.lastSent (pcieStop i.val) = some f ∧ f.op = .atomicNc ∧ f.dst = nd ∧ f.fn = fn ∧
          f.size = n ∧ f.addr = BitVec.ofNat 47 (paLa pa) ∧ f.tag = BitVec.ofNat 10 tag ∧ t.mem = u.mem))) ∧
  (∀ (s : State) (i : Fin 6) (rid : BitVec 16) (iova : Word) (data : BitVec 32) (tag : Nat), s.pcieUp i.val = true →
    ((∃ p ∈ s.pcie.posted, p.1 = i.val ∧ p.2.1 = rid.toNat) → exec (.pcieMsiWrite i rid iova data) s = .next s) ∧
    ((∀ p ∈ s.pcie.posted, ¬(p.1 = i.val ∧ p.2.1 = rid.toNat)) → iova.toNat % 4 = 0 → s.rootTag i.val = some tag →
      (∀ u, s.rootPa i.val rid none iova true tag = .wait u → exec (.pcieMsiWrite i rid iova data) s = .next u) ∧
      ∀ u pa e nd pk lim, s.rootPa i.val rid none iova true tag = .ok u pa e → u.dest pa (e.tmo.toNat * 1000) true = .node nd pk lim →
        ∃ t f, exec (.pcieMsiWrite i rid iova data) s = .next t ∧ t.lastSent (pcieStop i.val) = some f ∧ f.op = .writeNc ∧ f.dst = nd ∧
          f.addr = BitVec.ofNat 47 (paLa pa) ∧ (∃ l, f.data = some l ∧ lineBytes l (iova.toNat % 64) 4 = data.toNat) ∧
          t.pcie.posted = u.pcie.posted ++ [(i.val, rid.toNat, tag)])) ∧
  (∀ (s : State) (i : Fin 6) (tag : Nat) (cpl : PcieCpl),
    ((∀ r ∈ s.pcie.reqs, ¬(r.ctl = i.val ∧ r.tag = tag)) → exec (.pcieCompletion i tag cpl) s = .next s) ∧
    (∀ r, (s.pcie.reqs.find? fun r => r.ctl == i.val && r.tag == tag) = some r → let rest := { s.pcie with reqs := s.pcie.reqs.erase r }
      (r.req.op = .writeNc → cpl = .absent → r.cfg = false → exec (.pcieCompletion i tag cpl) s = .next { s with pcie := rest }) ∧
      (r.req.op = .writeNc → cpl ≠ .absent ∨ r.cfg = true → ∃ t, exec (.pcieCompletion i tag cpl) s = .next t ∧ t.pcie = rest ∧ t.mem = s.mem ∧
        t.tcores = s.tcores ∧ t.scores = s.scores ∧
        (r.req.ewa = true → ∀ w, (s.mesh.ewa.find? fun e => e.is (pcieNode r.ctl) r.req) = some w → t.mesh.ewa = s.mesh.ewa.erase w) ∧
        (r.req.ewa = false → ∃ f, t.lastSent (nodeStop r.req.dst) = some f ∧ f.op = .writeDone ∧ f.sts = 0 ∧ f.dst = r.req.src ∧ f.tag = r.req.tag)) ∧
      (r.req.op ≠ .writeNc → ∃ t f, exec (.pcieCompletion i tag cpl) s = .next t ∧ t.pcie = rest ∧
        t.lastSent (nodeStop r.req.dst) = some f ∧ f.dst = r.req.src ∧ f.tag = r.req.tag ∧ (∀ v, cpl = .data v → f.op = .readReturn ∧ f.data = some v) ∧
        ((∀ v, cpl ≠ .data v) → r.cfg = true → f.op = .readReturn ∧ f.data = some (BitVec.allOnes 512)) ∧
        ((∀ v, cpl ≠ .data v) → r.cfg = false → f.op = .errorReply ∧ f.sts = 3) ∧ t.mem = s.mem ∧ t.tcores = s.tcores ∧ t.scores = s.scores))) ∧
  (∀ (s : State) (i : Fin 6) (lv : Bool), ∃ t, exec (.pcieLinkEvent i lv) s = .next t ∧ t.source (329 + i.val) = (s.wire (329 + i.val) lv).source (329 + i.val) ∧
    (t.source (329 + i.val)).level = lv ∧ (∀ n, n ≠ 329 + i.val → t.source n = s.source n) ∧ t = { s with irq := { s.irq with src := t.irq.src } })

/-- A hart that may not reach a channel changes nothing. START of an idle channel begins its set with fresh counts: ARMED with TRIG, RUN without,
ERROR with BAD_PARAM for a set that R351 refuses. ABORT of a running or armed channel with nothing outstanding ends in ABORTED, otherwise in DRAIN,
but a chain whose last write was acknowledged first is COMPLETE; CLEAR of a channel that is not busy takes it to IDLE; DROPSH clears VALID, and
SH_CTL with VALID loads the shadow control, ignored while VALID is set. A start pulse starts an armed set, is latched, or is lost with TRIGOVR; a
latched one starts a set at once. When a set has issued its requests, the shadow set or the descriptor is loaded, the chain ends, or it stops with
LOOP_LIMIT, the descriptor's error or DESC_INVALID. The engine serves the next ready channel in rotation, whose next piece goes out under a tag; an
access that misses the IOTLB waits for its walk, and a refused one stops the channel with its code. A read's data waits to be written in the order
of its bytes, an acknowledged write is no longer outstanding, and a request whose timer expires stops the channel with code 0x0A. A returned
descriptor is held with its error. (R339; R341; R345; R346; R347; R352; R353; R356; R357; R361; R363; R365) -/
def Obligations.ChannelsRunTheirSets : Prop :=
  let quiet (s t : State) : Prop :=
    t = { s with eng := t.eng, irq := { s.irq with events := t.irq.events }, mesh := { s.mesh with inject := t.mesh.inject, stamp := t.mesh.stamp } }
  (∀ (s : State) (h : HartId) (md : Mode) (c : Fin 64), (∃ i, (s.dma c.val).inst = some i ∧
      ((s.instance_ i.val).st ≠ .active ∨ hartNum h < (s.instance_ i.val).first ∨ (s.instance_ i.val).last < hartNum h)) →
    exec (.deCmdStart (.hart h md) c) s = .next s ∧ exec (.deCmdAbort (.hart h md) c) s = .next s ∧ exec (.deCmdClear (.hart h md) c) s = .next s ∧
    exec (.deCmdDropsh (.hart h md) c) s = .next s ∧ ∀ v, exec (.shCtlValidSet (.hart h md) c v) s = .next s) ∧
  (∀ (s : State) (h : HartId) (md : Mode) (c : Fin 64), let d := s.dma c.val
    let who : Master := .hart h md
    let only (t : State) : Prop := (∀ k, k ≠ c.val → t.dma k = s.dma k) ∧ t = { s with eng := { s.eng with chans := t.eng.chans } }
    (d.inst = none ∨ ∃ i, d.inst = some i ∧ (s.instance_ i.val).st = .active ∧ (s.instance_ i.val).first ≤ hartNum h ∧ hartNum h ≤ (s.instance_ i.val).last) →
    (d.busy = true → exec (.deCmdStart who c) s = .next s ∧ exec (.deCmdClear who c) s = .next s) ∧
    (d.busy = false → d.act.badParam = false → d.act.trig = true ∨ d.act.total ≠ 0 → ∃ t, exec (.deCmdStart who c) s = .next t ∧
      (∀ k, k ≠ c.val → t.dma k = s.dma k) ∧ t = { s with eng := { s.eng with chans := t.eng.chans }, iommu := (s.ioTaken (c.val / 32) (.channel (Fin.ofNat 32 c.val))).iommu } ∧
      (t.dma c.val).st = (if d.act.trig = true then .armed else .run) ∧ (t.dma c.val).pos = 0 ∧ (t.dma c.val).loads = 1 ∧ (t.dma c.val).code = 0 ∧
      (t.dma c.val).faddr = 0 ∧ (t.dma c.val).dsc = false ∧ (t.dma c.val).trigPend = false ∧ (t.dma c.val).trigOvr = false ∧
      (t.dma c.val).remain.toNat = fld d.cfg 31 16 ∧ (t.dma c.val).act = d.act ∧ (t.dma c.val).sh = d.sh ∧ (t.dma c.val).shValid = d.shValid ∧ (t.dma c.val).out = d.out) ∧
    (d.busy = false → d.act.badParam = true → d.writesOut = false → ∃ t, exec (.deCmdStart who c) s = .next t ∧ (t.dma c.val).st = .error ∧
      (t.dma c.val).code = 1 ∧ (t.dma c.val).loads = 1 ∧ (∀ k, k ≠ c.val → t.dma k = s.dma k) ∧ quiet (s.ioTaken (c.val / 32) (.channel (Fin.ofNat 32 c.val))) t) ∧
    (d.st ≠ .run → d.st ≠ .armed → exec (.deCmdAbort who c) s = .next s) ∧
    (d.chainDone = true → ∃ t, exec (.deCmdAbort who c) s = .next t ∧ (t.dma c.val).st = .complete ∧ (t.dma c.val).act = d.act ∧ (∀ k, k ≠ c.val → t.dma k = s.dma k) ∧
      quiet s t) ∧
    (d.st = .run ∨ d.st = .armed → d.chainDone = false → ∃ t, exec (.deCmdAbort who c) s = .next t ∧ only t ∧ (t.dma c.val).st = (if d.live = [] then .aborted else .drain) ∧
      (t.dma c.val).wr = [] ∧ (t.dma c.val).out = d.out ∧ (t.dma c.val).act = d.act) ∧
    (d.busy = false → exec (.deCmdClear who c) s = .next (s.setDma c.val { d with
      st := .idle, code := 0, dsc := false, faddr := 0, loads := 0, trigPend := false, trigOvr := false, shValid := false })) ∧
    (exec (.deCmdDropsh who c) s = .next (s.setDma c.val { d with shValid := false })) ∧
    (∀ v, exec (.shCtlValidSet who c v) s =
      .next (s.setDma c.val (if d.shValid = true then d else { d with sh := { d.sh with ctl := v &&& 0x003F_00D0 }, shValid := true })))) ∧
  (∀ (s : State) (c : Nat), let d := s.dma c
    (d.st = .armed → d.act.total ≠ 0 → (d.ending = none) → ((s.dmaPulse c).dma c).st = .run ∧ ((s.dmaPulse c).dma c).trigPend = d.trigPend) ∧
    (d.st ≠ .armed → d.trigPend = false → s.dmaPulse c = s.setDma c { d with trigPend := true }) ∧
    (d.st ≠ .armed → d.trigPend = true → s.dmaPulse c = s.setDma c { d with trigOvr := true }) ∧
    (d.act.trig = true → d.trigPend = true → d.enter.st = .run ∧ d.enter.trigPend = false)) ∧
  (∀ (s : State) (c : Fin 64), let d := s.dma c.val
    let spent := fld d.cfg 31 16 ≠ 0 ∧ d.remain = 0
    let stops (code : Nat) (dsc : Bool) : Prop := ∃ t, exec (.channelSetLoad c) s = .next t ∧ (t.dma c.val).st = .error ∧ (t.dma c.val).code = BitVec.ofNat 8 code ∧
      (t.dma c.val).dsc = dsc ∧ (∀ k, k ≠ c.val → t.dma k = s.dma k) ∧ quiet s t
    let loads (a : DmaSet) : Prop := ∃ t, exec (.channelSetLoad c) s = .next t ∧ (t.dma c.val).act = a.legal ∧ (t.dma c.val).pos = 0 ∧ (t.dma c.val).loads = d.loads + 1 ∧
      (t.dma c.val).shValid = false ∧ (a.legal.trig = false → (t.dma c.val).st = .run) ∧
      (a.legal.trig = true → (t.dma c.val).st = if d.trigPend = true then .run else .armed) ∧ (∀ k, k ≠ c.val → t.dma k = s.dma k) ∧ quiet s t
    (d.issued = false ∨ d.ending.isSome = true → exec (.channelSetLoad c) s = .next s) ∧
    (d.issued = true → d.ending = none →
      (d.shValid = true → ¬spent → d.sh.legal.badParam = false → d.sh.legal.total ≠ 0 → loads d.sh) ∧
      (d.shValid = true ∨ d.act.next ≠ 0 → spent → d.writesOut = false → stops 0x0B false) ∧
      (d.shValid = false → d.act.next = 0 → d.writesOut = false → ∃ t, exec (.channelSetLoad c) s = .next t ∧ (t.dma c.val).st = .complete ∧
        (t.dma c.val).act = d.act ∧ (∀ k, k ≠ c.val → t.dma k = s.dma k) ∧ quiet s t) ∧
      (d.shValid = false → d.act.next = 0 → d.writesOut = true → ∃ t, exec (.channelSetLoad c) s = .next t ∧ (t.dma c.val).st = .run ∧ (t.dma c.val).ending = some (0, false)) ∧
      (d.shValid = false → d.act.next ≠ 0 → ¬spent → d.desc = none → exec (.channelSetLoad c) s = .next s) ∧
      (∀ l code, d.shValid = false → d.act.next ≠ 0 → ¬spent → d.desc = some (l, code) →
        (code ≠ 0 → d.writesOut = false → stops code.toNat true) ∧
        (code = 0 → descBad l = true → d.writesOut = false → stops 2 false) ∧
        (code = 0 → descBad l = false → (descSet l).legal.badParam = false → (descSet l).legal.total ≠ 0 → loads (descSet l))))) ∧
  (∀ (s : State) (e : Fin 2), let order := (List.range 32).map fun k => 32 * e.val + (tabGet 0 s.eng.rot e.val + 1 + k) % 32
    ((∀ c ∈ order, s.dmaReady c = false) → exec (.engineIssue e) s = .next s) ∧
    (∀ c tag, (order.find? fun c => s.dmaReady c) = some c → s.engineTag c = some tag → let d := s.dma c
      let r := { s with eng := { s.eng with rot := tabSet 0 s.eng.rot e.val (c % 32) } }
      d.wantsDesc = false → d.wantsWrite = false →
      (d.act.fill = false → d.act.sfix = false → let va := d.act.srcAt d.pos
        let n := pieceLen va (d.act.len.toNat - d.pos % d.act.len.toNat)
        (∀ u, r.dmaAddr c va n false tag = .wait u → exec (.engineIssue e) s = .next u) ∧
        (∀ u a nd pk lim, r.dmaAddr c va n false tag = .ok u a → a.io = false → u.dest a.pa a.tmo false = .node nd pk lim →
          ∃ t f, exec (.engineIssue e) s = .next t ∧ t.lastSent (engineStop (c / 32)) = some f ∧ f.op = .readNc ∧ f.dst = nd ∧ f.addr = BitVec.ofNat 47 (paLa a.pa) ∧
            f.size = n ∧ f.tag = BitVec.ofNat 10 tag ∧ (t.dma c).pos = d.pos + n ∧ (t.dma c).out.length = d.out.length + 1 ∧ tabGet 0 t.eng.rot e.val = c % 32 ∧ t.mem = u.mem) ∧
        (∀ u code, r.dmaAddr c va n false tag = .refused u code → d.live = [] → ∃ t, exec (.engineIssue e) s = .next t ∧ (t.dma c).st = .error ∧
          (t.dma c).code = BitVec.ofNat 8 code ∧ (t.dma c).faddr = va ∧ t.mem = u.mem)) ∧
      (d.act.fill = true → d.act.dfix = false → let va := d.act.dstAt d.pos
        let bs := (d.act.fillBytes d.pos 64).take (d.act.len.toNat - d.pos % d.act.len.toNat)
        let n := pieceLen va bs.length
        (∀ u, r.dmaAddr c va n true tag = .wait u → exec (.engineIssue e) s = .next u) ∧
        (∀ u code, r.dmaAddr c va n true tag = .refused u code → d.live = [] → ∃ t, exec (.engineIssue e) s = .next t ∧ (t.dma c).st = .error ∧
          (t.dma c).code = BitVec.ofNat 8 code ∧ (t.dma c).faddr = va ∧ t.mem = u.mem) ∧
        ∀ u a nd pk lim, r.dmaAddr c va n true tag = .ok u a → a.io = false → u.dest a.pa a.tmo true = .node nd pk lim →
          ∃ t f, exec (.engineIssue e) s = .next t ∧ s.newlySent t (engineStop (c / 32)) f ∧ f.op = .writeNc ∧ f.dst = nd ∧ f.addr = BitVec.ofNat 47 (paLa a.pa) ∧
            f.data = some (atOffset (paLa a.pa % 64) (leNat (bs.take n))) ∧ f.mask = maskOf (paLa a.pa % 64) n ∧ (t.dma c).pos = d.pos + n ∧ t.mem = u.mem))) ∧
  (∀ (s : State) (e : Fin 2) (tag c : Nat) (r : DmaReq), ((s.engineOut e.val).find? fun x => x.2.tag == tag) = some (c, r) → let d := s.dma c
    r.desc = false → r.set_ = d.setNo → r.set_ ≠ 0 → d.st = .run → d.ending = none →
    (d.live = [r] → ∃ t, exec (.uncachedTimeout (.engine e) tag) s = .next t ∧ t.time = max s.time r.deadline ∧ (t.dma c).st = .error ∧ (t.dma c).code = 0x0A ∧
      (t.dma c).faddr = r.va ∧ (∀ k, k ≠ c → t.dma k = s.dma k) ∧ t.mem = s.mem ∧ t.coh = s.coh ∧ t.tcores = s.tcores ∧ t.scores = s.scores) ∧
    (∀ f : Flit, f.dst = engineNode e.val → f.tag.toNat = tag → f.sts = 0 → f.poison = false →
      let rr : Flit := { f with op := .readReturn }
      let wd : Flit := { f with op := .writeDone }
      (r.write = false → s.flitTurn rr = true → ∃ t, exec (.readReturn f) s = .next t ∧ (t.dma c).out = d.out.erase r ∧
        (t.dma c).wr = putWr d.wr { pos := r.pos, data := (List.range r.bytes).map fun i => byteAt (f.data.getD 0) (f.addr.toNat % 64 + i), poison := false } ∧
        (∀ k, k ≠ c → t.dma k = s.dma k) ∧ quiet ((s.accept rr).ioEnd e.val tag) t) ∧
      (r.write = true → s.flitTurn wd = true → ∃ t, exec (.writeDone f) s = .next t ∧ (t.dma c).out = d.out.erase r ∧ (t.dma c).st = .run ∧
        (∀ k, k ≠ c → t.dma k = s.dma k) ∧ quiet ((s.accept wd).ioEnd e.val tag) t))) ∧
  (∀ (s : State) (e : Fin 2) (tag : Nat), (∀ x ∈ s.engineOut e.val, x.2.tag ≠ tag) → exec (.uncachedTimeout (.engine e) tag) s = .next s) ∧
  (∀ (s : State) (c : Fin 64) (desc : Line) (sts : BitVec 8), let d := s.dma c.val
    ((∀ r ∈ d.out, r.desc = false) → ∀ tmo, exec (.descriptorFetchReturn c desc sts tmo) s = .next s) ∧
    (∀ r, (d.out.find? fun r => r.desc) = some r → ((s.engineOut (c.val / 32)).find? fun x => x.2.tag == r.tag) = some (c.val, r) →
      r.set_ = d.setNo → d.st = .run ∨ d.st = .armed → d.ending = none → d.desc = none →
      (∃ t, exec (.descriptorFetchReturn c desc sts false) s = .next t ∧ (t.dma c.val).desc = some (desc, BitVec.ofNat 8 (stsCode sts.toNat)) ∧
        (t.dma c.val).out = d.out.erase r ∧ (∀ k, k ≠ c.val → t.dma k = s.dma k) ∧ quiet (s.ioEnd (c.val / 32) r.tag) t) ∧
      (∃ t, exec (.descriptorFetchReturn c desc sts true) s = .next t ∧ (t.dma c.val).desc = some (0, 9) ∧ (t.dma c.val).out = d.out.erase r ∧ t.mem = s.mem)))

/-- IOMMU_TRANSLATE translates the page of the first byte, and that of the last where it is another and the first passed; an access that needs a
walk waits for it. With the mode Off every access is refused with cause 256; in Bare mode a PCIe access without a process ID keeps its address below
2^56; an instance without a context is refused with cause 258, and one with an IOTLB entry that hits gets its page. A walk takes one of 12 walkers,
or for a guaranteed-class request one of 4 of its own, and sends ordinary-class reads; an answer lets its walk go on with what it brought. A command
is processed only while the queue is ready: an invalidation removes exactly the entries that its operands name and the walk cache, moves the head
on, marks accesses in flight and makes walks begin again; naming a PSCID in IOTINVAL.GVMA, and WSI in IOFENCE.C, is illegal and stops the queue.
IOFENCE.C waits for the accesses that may have used removed entries and, with PR and PW, for earlier reads and writes; when none is left, its data
is written with AV, and the head moves on. (R286; R287; R288; R289; R292; R293; R294; R295; R296; R436) -/
def Obligations.IommuTranslatesAndIsCommanded : Prop :=
  (∀ (s : State) (e : Fin 2) (r : IoReq) (iova : Word) (w : Bool) (size : Nat), let last := iova + BitVec.ofNat 64 (size - 1)
    let page := BitVec.ofNat 64 (last.toNat / 4096 * 4096)
    (∀ u, s.inbound e.val r iova w 0 = .wait u → exec (.iommuTranslate e r iova w size) s = .next u) ∧
    (∀ u, s.inbound e.val r iova w 0 = .refused u → exec (.iommuTranslate e r iova w size) s = .next (u.ioTaken e.val r)) ∧
    (∀ u pa, s.inbound e.val r iova w 0 = .ok u pa →
      (iova.toNat / 4096 = last.toNat / 4096 → exec (.iommuTranslate e r iova w size) s = .next (u.ioTaken e.val r)) ∧
      (iova.toNat / 4096 ≠ last.toNat / 4096 →
        (∀ v, u.inbound e.val r page w 0 = .wait v → exec (.iommuTranslate e r iova w size) s = .next v) ∧
        (∀ v, (u.inbound e.val r page w 0 = .refused v ∨ ∃ pb, u.inbound e.val r page w 0 = .ok v pb) →
          exec (.iommuTranslate e r iova w size) s = .next (v.ioTaken e.val r))))) ∧
  (∀ (s : State) (e : Fin 2) (r : IoReq) (iova : Word) (w : Bool) (tag : Nat), let q := s.iommuSt e.val
    let k := (s.ioCount e.val 1 (s.ioIds e.val r).1).count (iommuStop e.val) 1 1 1 none
    (∀ h ∈ q.held, h.req ≠ r) →
    (fld q.ddtp 3 0 = 0 → s.inbound e.val r iova w tag = .refused (k.refuse e.val r iova w tag (ioFault 256))) ∧
    (∀ c rid, r = .pcie c rid none → fld q.ddtp 3 0 = 1 → iova.toNat < 2 ^ 56 → s.inbound e.val r iova w tag = .ok k iova.toNat) ∧
    (∀ c i, r = .channel c → (s.dma (32 * e.val + c.val)).inst = some i → fld q.ddtp 3 0 ≠ 0 → tabGet none q.insts i.val = none →
      s.inbound e.val r iova w tag = .refused (k.refuse e.val r iova w tag (ioFault 258))) ∧
    (∀ c i dc x, r = .channel c → (s.dma (32 * e.val + c.val)).inst = some i → fld q.ddtp 3 0 ≠ 0 → tabGet none q.insts i.val = some dc →
      (dcTc dc).getLsbD 5 = false → fld (dcWord dc 4) 63 60 = 0 →
      (q.iotlb.find? fun x => x.hits (fld (dcWord dc 1) 59 44) (fld (dcWord dc 2) 31 12) (iova.toNat / 4096) (atpLevels (dcWord dc 3) != 0) (atpLevels (dcWord dc 1) != 0) w) = some x →
      x.level = 0 → s.inbound e.val r iova w tag = .ok k (x.ppn * 4096 + iova.toNat % 4096))) ∧
  (∀ (s : State) (e : Fin 2) (req : Option IoReq) (iova : Word) (w g : Bool) (la : Nat), let r := s.iommuSt e.val
    let mine := (r.walkers.filter fun x => x.guar == g).length
    let most := if g = true then 4 else 12
    (∀ x ∈ r.walkers, ¬(x.req = req ∧ x.iova = iova ∧ x.write = w)) →
    (most ≤ mine → s.walkStart e.val req iova w g (.read la) = s) ∧
    (∀ nd pk lim, mine < most → r.walkers.length < 16 → s.dest (s.pma.pkgId.toNat * 2 ^ 47 + la) 100000 false = .node nd pk lim →
      ∃ x f, (s.walkStart e.val req iova w g (.read la)).iommuSt e.val = { r with walkers := r.walkers ++ [x] } ∧ x.guar = g ∧ x.req = req ∧ x.iova = iova ∧
        x.write = w ∧ x.asked = .read la ∧ x.reads = [] ∧ (∀ y ∈ r.walkers, y.tag ≠ x.tag) ∧
        (s.walkStart e.val req iova w g (.read la)).lastSent (iommuStop e.val) = some f ∧ f.op = .readNc ∧ f.vc = vcOf .readNc ∧ f.dst = nd ∧
        f.addr = BitVec.ofNat 47 la ∧ f.size = 64 ∧ f.tag = BitVec.ofNat 10 x.tag)) ∧
  (∀ (s : State) (f : Flit) (e : Fin 2) (x : IoWalker) (la : Nat), f.dst = iommuNode e.val → ((s.iommuSt e.val).walkers.find? fun y => y.tag == f.tag.toNat) = some x →
    f.tag.toNat < 16 → x.restart = false → x.asked = .read la → f.poison = false →
    let rr : Flit := { f with op := .readReturn }
    let er : Flit := { f with op := .errorReply }
    (f.sts = 0 → s.flitTurn rr = true → exec (.readReturn f) s = .next ((s.accept rr).walkRun e.val
      { x with reads := (la / 64, { data := f.data.getD 0, poison := false, err := false }) :: x.reads })) ∧
    (f.sts = 3 → s.flitTurn er = true → exec (.errorReply f) s = .next ((s.accept er).walkRun e.val
      { x with reads := (la / 64, { data := 0, poison := false, err := true }) :: x.reads }))) ∧
  (∀ (s : State) (e : Fin 2), let r := s.iommuSt e.val
    r.cmdReady = false → (∀ a g p, exec (.iotinvalVma e a g p) s = .next s ∧ exec (.iotinvalGvma e a g p) s = .next s) ∧
      (∀ d, exec (.iodirInvalDdt e d) s = .next s) ∧ (∀ d p, exec (.iodirInvalPdt e d p) s = .next s) ∧
      ∀ av pr pw wsi a d, exec (.iofenceC e av pr pw wsi a d) s = .next s) ∧
  (∀ (s : State) (e : Fin 2), let r := s.iommuSt e.val
    r.cmdReady = true →
    let done (c : Instr) (keep : IoTlb → Prop) (keepD : Nat → Prop) (keepP : Nat → Prop) : Prop := ∃ t, exec c s = .next t ∧ t = { s with iommu := t.iommu } ∧
      (∀ k, k ≠ e.val → t.iommuSt k = s.iommuSt k) ∧
      t.iommuSt e.val = { r with iotlb := (t.iommuSt e.val).iotlb, dcache := (t.iommuSt e.val).dcache, pcache := (t.iommuSt e.val).pcache,
                                 wcache := [], held := [], walkers := r.walkers.map fun x => { x with reads := [], restart := true },
                                 cqh := BitVec.ofNat 32 ((r.cqh.toNat + 1) % queueSize r.cqb), inflight := r.inflight.map fun a => { a with stale := true } } ∧
      (∀ x, x ∈ (t.iommuSt e.val).iotlb ↔ x ∈ r.iotlb ∧ keep x) ∧ (∀ x, x ∈ (t.iommuSt e.val).dcache ↔ x ∈ r.dcache ∧ keepD x.1) ∧
      (∀ x, x ∈ (t.iommuSt e.val).pcache ↔ x ∈ r.pcache ∧ keepP x.1)
    let all : Nat → Prop := fun _ => True
    let stopped (c : Instr) : Prop := ∃ t, exec c s = .next t ∧ (t.iommuSt e.val).cqcsr.getLsbD 10 = true ∧ (t.iommuSt e.val).cqh = r.cqh ∧
      (t.iommuSt e.val).iotlb = r.iotlb ∧ (t.iommuSt e.val).fence = none ∧ (r.cqcsr.getLsbD 1 = true → (t.iommuSt e.val).ipsr.getLsbD 0 = true) ∧ t.mem = s.mem
    (∀ a g p, done (.iotinvalVma e a g p) (fun x => ¬(x.first = true ∧ (∀ v, g = some v → x.second = true ∧ x.gscid = v.toNat) ∧ (g = none → x.second = false) ∧
        (∀ v, p = some v → x.pscid = v.toNat ∧ x.g = false) ∧ (∀ v, a = some v → x.vpn / 2 ^ (9 * x.level) = v.toNat / 4096 / 2 ^ (9 * x.level)))) all all) ∧
    (∀ a g, done (.iotinvalGvma e a g none) (fun x => ¬(x.second = true ∧ ∀ v, g = some v → x.gscid = v.toNat ∧
        ∀ b, a = some b → x.gvpn / 2 ^ (9 * x.level) = b.toNat / 4096 / 2 ^ (9 * x.level))) all all) ∧
    (∀ a g p, stopped (.iotinvalGvma e a g (some p))) ∧
    (done (.iodirInvalDdt e none) (fun _ => True) (fun _ => False) (fun _ => False)) ∧
    (∀ d : BitVec 24, done (.iodirInvalDdt e (some d)) (fun _ => True) (fun k => k ≠ d.toNat) (fun k => k / 2 ^ 20 ≠ d.toNat)) ∧
    (∀ (d : BitVec 24) (p : BitVec 20), done (.iodirInvalPdt e d p) (fun _ => True) all (fun k => k ≠ d.toNat * 2 ^ 20 + p.toNat)) ∧
    (∀ av pr pw a d, stopped (.iofenceC e av pr pw true a d)) ∧
    (∀ av pr pw (a : Pa) d, ∃ t f, exec (.iofenceC e av pr pw false a d) s = .next t ∧ t = s.setIommu e.val { r with fence := some f } ∧
      f.av = av ∧ f.addr = a.toNat ∧ f.data = d ∧
      ∀ k, k ∈ f.waits ↔ ∃ x ∈ r.inflight, x.tag = k ∧ (x.stale = true ∨ (pw = true ∧ x.write = true) ∨ (pr = true ∧ x.write = false)))) ∧
  (∀ (s : State) (e : Fin 2), let r := s.iommuSt e.val
    let next : Iommu := { r with cqh := BitVec.ofNat 32 ((r.cqh.toNat + 1) % queueSize r.cqb), fence := none }
    (r.fence = none → exec (.iofenceCComplete e) s = .next s) ∧
    (∀ f, r.fence = some f → f.waits ≠ [] → exec (.iofenceCComplete e) s = .next s) ∧
    (∀ f, r.fence = some f → f.waits = [] → f.av = false → exec (.iofenceCComplete e) s = .next (s.setIommu e.val next)) ∧
    (∀ f n pk lim, r.fence = some f → f.waits = [] → f.av = true → s.dest f.addr 100000 true = .node n pk lim → ∃ t g, exec (.iofenceCComplete e) s = .next t ∧
      t.iommuSt e.val = next ∧ t.lastSent (iommuStop e.val) = some g ∧ g.op = .writeNc ∧ g.dst = n ∧ g.addr = BitVec.ofNat 47 (paLa f.addr) ∧
      g.mask = maskOf (f.addr % 64) 4 ∧ g.data = some (atOffset (f.addr % 64) f.data.toNat) ∧ t.mem = s.mem))

/-- A step takes the command at the front of the queue and answers what exec answers for it on the state with the rest of the queue. On an empty
queue one nanosecond of the package timebase passes (the model's choice: log entry 14). (R386) -/
def Obligations.StepRunsTheFrontCommand : Prop :=
  ∀ s : State, (∀ c rest, s.pending = c :: rest → step s = exec c { s with pending := rest }) ∧ (s.pending = [] → step s = .next s.tick)

/-- At reset every hart is held in M-mode with its integer registers and minstret 0 and no reservation, both ADUE bits are 1, Mould mode is off, TOL
is 0xFFFF and MAXC is C3 on a T-core and C2 on an S-core. The PMA table holds the four entries of R39 and nothing else; every mailbox is IDLE,
mailbox 0 belongs to every hart and mailbox 31 to the sideband; no way is off; MC_MAP is 0; pages are scrubbed every 24 hours; the power limit is
750 W (the shipped platform configuration: log entry 17); the debug level is Sealed; nothing waits. The memories are canonical and the PMA table is
legal. (R39; R128; R191; R230; R254; R267; R426; R428; R453; R459; R482; R515) -/
def Obligations.ResetState : Prop :=
  let s := State.reset
  (∀ h : HartId, (s.hart h).held = true ∧ (s.hart h).mode = .m ∧ (∀ r, (s.hart h).getX r = 0) ∧ (s.hart h).csrRaw 0xB02 = 0 ∧ (s.hart h).resv = none ∧
    ((s.hart h).csrRaw 0x30A).getLsbD 61 = true ∧ ((s.hart h).csrRaw 0x60A).getLsbD 61 = true ∧ (s.hart h).csrRaw 0x7C0 = 0 ∧
    (s.hart h).tol = 0xFFFF ∧ (s.hart h).maxc = if isT h = true then 0b10 else 0b01) ∧
  (∀ k, tabGet PmaEntry.empty s.pma.entries k =
    if k = 0 then { PmaEntry.empty with base := 0x0, limit := 0xFFFF, tmo := 100, valid := true }
    else if k = 1 then { PmaEntry.empty with base := 0x10000, limit := 0x7FFFF, tmo := 100, io := true, valid := true }
    else if k = 2 then { PmaEntry.empty with base := 0x80000, limit := 0x3FFFFFF, tmo := 100, c := true, valid := true }
    else if k = 3 then { PmaEntry.empty with base := 0x4000000, limit := 0x3FFFFFFFF, tmo := 100, io := true, valid := true }
    else PmaEntry.empty) ∧
  (∀ n : Fin 32, (s.mb n.val).st = .idle ∧ ((s.mb n.val).valid = true ↔ n = 0 ∨ n = 31)) ∧
  ((s.mb 0).cls = 0x1FF ∧ (s.mb 0).first = 0 ∧ (s.mb 0).last = 303 ∧ (s.mb 31).sideband = true ∧ (s.mb 31).cls = 0x0E3) ∧
  s.coh.wayOff = [] ∧ s.dram.map = 0 ∧ s.dram.scrubHours = 24 ∧ s.pow.limitW = 750 ∧ s.sec.level = 0 ∧ s.pending = [] ∧
  s.mem.wf = true ∧ s.pma.wf = true

/-- For every state, whichever command stands in front of the queue: where DRAM, the TCMs, the scratch SRAM and the mailbox pages are in their
canonical form (addresses strictly rising, no entry equal to what an unlisted address reads as) before a step, they are in it after the step. (R92;
R107; R114; R230; R237; R429) -/
def Obligations.MemoriesStayCanonical : Prop :=
  ∀ s t : State, s.mem.wf = true → step s = .next t → t.mem.wf = true

/-- For every state, whichever command stands in front of the queue: where every valid entry of the PMA table and of the masters' copies is one that
a commit accepts, and the copies are the entries unless a commit is under way, before a step, the same holds after the step. (R30; R34; R38; R39) -/
def Obligations.PmaTableStaysLegal : Prop :=
  ∀ s t : State, s.pma.wf = true → step s = .next t → t.pma.wf = true
end

