-- ==== Sys2Proof/Laws/Direct.lean ====
section
/-!
SUPPORT. What a write at the home slice by an agent without a cache changes (log entry 11): harts, memories, cached copies, flits that carry the line,
and the line's mark. Nothing else of the package changes, and so a Ladle ring whose lines are all memory takes every record.
-/
namespace Sys2Proof.Machine

/-- From `s` to `t` only harts, memories, caches, the mesh, tokens with their interrupt source and the marks of lines may differ. -/
def State.sameBut (s t : State) : Prop :=
  t = { s with
    tcores := t.tcores, scores := t.scores, mem := t.mem, coh := t.coh, mesh := t.mesh, irq := t.irq, brine := t.brine,
    dram := { s.dram with marks := t.dram.marks } }

theorem sameBut_refl (s : State) : s.sameBut s := rfl
theorem sameBut_trans {s t u : State} (h : s.sameBut t) (k : t.sameBut u) : s.sameBut u := by
  unfold State.sameBut at *; rw [k, h]

theorem setHart_sameBut (s : State) (h : HartId) (c : Hart) : s.sameBut (s.setHart h c) := by cases h <;> rfl

theorem mapHarts_sameBut (f : Hart → Hart) : ∀ (l : List HartId) (s : State), s.sameBut (s.mapHarts f l)
  | [], _ => rfl
  | h :: t, s => sameBut_trans (setHart_sameBut s h _) (mapHarts_sameBut f t _)

theorem setL2_sameBut (s : State) (a ln : Nat) (c : CLine) : s.sameBut (s.setL2 a ln c) := rfl

theorem foldl_setL2_sameBut (f : CLine → CLine) (ln : Nat) : ∀ (l : List (Nat × CLine)) (s : State),
    s.sameBut (l.foldl (fun s (k, c) => s.setL2 (k / 2 ^ 41) ln (f c)) s)
  | [], _ => rfl
  | (k, c) :: t, s => sameBut_trans (setL2_sameBut s (k / 2 ^ 41) ln (f c)) (foldl_setL2_sameBut f ln t _)

theorem pokeCopies_sameBut (s : State) (ln : Nat) (d : Line) (m : LineMask) : s.sameBut (s.pokeCopies ln d m) := by
  unfold State.pokeCopies
  dsimp only
  have h := foldl_setL2_sameBut (fun c => { c with data := mergeLine c.data d m, mask := if c.st = .i then c.mask else c.mask ||| m, poison := c.poison && !(fullMask m) })
    ln (s.coh.l2.filter fun (k, _) => k % 2 ^ 41 == ln) s
  refine sameBut_trans h (sameBut_trans ?_ rfl)
  split <;> rfl

theorem setMark_sameBut (s : State) (la : Nat) (m : LineMark) : s.sameBut (s.setMark la m) := rfl

/-- A write of a line changes harts (reservations, early loads), memories, copies and the line's mark, and nothing else. -/
theorem pokeLine_sameBut (s : State) (la : Nat) (d : Line) (m : LineMask) : s.sameBut (s.pokeLine la d m) := by
  unfold State.pokeLine
  dsimp only
  split
  · unfold State.killResv
    refine sameBut_trans (sameBut_trans (pokeCopies_sameBut s (la / 64 * 64 / 64) d m) ?_) (mapHarts_sameBut _ _ _)
    refine sameBut_trans ?_ (mapHarts_sameBut _ _ _)
    generalize s.pokeCopies (la / 64 * 64 / 64) d m = u
    split
    · exact sameBut_trans (t := { u with mem := { u.mem with dram := memLinePut u.mem.dram (la / 64 * 64) m d } }) rfl (setMark_sameBut _ _ _)
    · rfl
  · rfl
  · rfl

theorem pokeBytes_sameBut : ∀ (n : Nat) (s : State) (la : Nat) (bs : List Byte), s.sameBut (s.pokeBytes la bs n)
  | 0, _, _, _ => rfl
  | n + 1, s, la, bs => by
    unfold State.pokeBytes
    split
    · rfl
    · exact sameBut_trans (pokeLine_sameBut s la _ _) (pokeBytes_sameBut n _ _ _)

/-! ### The L3 and tokens -/

theorem driveBrine_sameBut (s : State) : s.sameBut s.driveBrine := rfl

theorem takeToken_sameBut {s t : State} {k : Nat} (h : s.takeToken k = .taken t) : s.sameBut t := by
  unfold State.takeToken at h
  dsimp only at h
  split at h
  · split at h <;> exact absurd h (by simp)
  · cases h; exact driveBrine_sameBut _

theorem freeTokenIf_sameBut (s : State) (p : Bool) : s.sameBut (s.freeTokenIf p) := by
  unfold State.freeTokenIf State.freeToken
  split
  · split <;> exact driveBrine_sameBut _
  · rfl

theorem foldl_sameBut {α : Type} (f : State → α → State) (hf : ∀ (s : State) (a : α), s.sameBut (f s a)) : ∀ (l : List α) (s : State), s.sameBut (l.foldl f s)
  | [], _ => rfl
  | a :: l, s => sameBut_trans (hf s a) (foldl_sameBut f hf l _)

theorem ageSet_sameBut (s : State) (ln n : Nat) : s.sameBut (s.ageSet ln n) := by
  unfold State.ageSet
  refine foldl_sameBut _ (fun s a => ?_) _ s
  obtain ⟨k, e⟩ := a
  dsimp only
  split <;> rfl

theorem setL3_sameBut (s : State) (ln : Nat) (v : L3Line) : s.sameBut (s.setL3 ln v) := rfl
theorem vbPut_sameBut (s : State) (ln : Nat) (d : Line) (m : LineMask) (p k x : Bool) : s.sameBut (s.vbPut ln d m p k x) := rfl
theorem vbPush_sameBut (s : State) (ln : Nat) (d : Line) (m : LineMask) (p k : Bool) : s.sameBut (s.vbPush ln d m p k) := rfl
theorem countFallback_sameBut (s : State) : s.sameBut s.countFallback := rfl

theorem l3Way_sameBut {s t : State} {ln : Nat} {w : Option (Fin 16)} (h : s.l3Way ln = some (t, w)) : s.sameBut t := by
  unfold State.l3Way at h
  dsimp only at h
  have stays {u : State} {v : Option (Fin 16)} (k : some (u, v) = some (t, w)) : u = t := (Prod.mk.inj (Option.some.inj k)).1
  split at h
  · exact stays h ▸ sameBut_refl s
  · split at h
    · exact stays h ▸ sameBut_refl s
    · split at h
      · exact stays h ▸ sameBut_refl s
      · split at h
        · exact stays h ▸ sameBut_refl s
        · split at h
          · exact absurd h (by simp)
          · have e := stays h
            subst e
            split
            · exact sameBut_trans (sameBut_trans (ageSet_sameBut s ln _) (setL3_sameBut _ _ _)) (vbPush_sameBut _ _ _ _ _ _)
            · exact sameBut_trans (ageSet_sameBut s ln _) (setL3_sameBut _ _ _)

theorem l3Put_sameBut {s t : State} {ln : Nat} {d : Line} {a p k : Bool} {r : Fin 4} (h : s.l3Put ln d a p k r = some t) : s.sameBut t := by
  unfold State.l3Put at h
  split at h
  · exact absurd h (by simp)
  · next u w hw => cases h; exact sameBut_trans (l3Way_sameBut hw) (setL3_sameBut _ _ _)
  · next u hw =>
    repeat' split at h
    · exact absurd h (by simp)
    · cases h; exact sameBut_trans (l3Way_sameBut hw) (sameBut_trans (setL3_sameBut _ _ _) (vbPush_sameBut _ _ _ _ _ _))
    · cases h; exact l3Way_sameBut hw

theorem writeCore_sameBut {s t : State} {ln : Nat} {a k b p : Bool} {d : Line} (h : s.writeCore ln a k d p = some (t, b)) : s.sameBut t := by
  unfold State.writeCore at h
  dsimp only at h
  split at h
  · simp only [Option.map_eq_some_iff, Prod.mk.injEq] at h
    obtain ⟨u, hu, rfl, -⟩ := h
    exact l3Put_sameBut hu
  · split at h
    · next u hu =>
      simp only [Option.map_eq_some_iff, Prod.mk.injEq] at h
      obtain ⟨v, hv, rfl, -⟩ := h
      exact sameBut_trans (takeToken_sameBut hu) (l3Put_sameBut hv)
    · exact absurd h (by simp)
    · split at h
      · exact absurd h (by simp)
      · cases h; exact sameBut_trans (sameBut_trans (setL3_sameBut _ _ _) (vbPut_sameBut _ _ _ _ _ _ _)) (countFallback_sameBut _)

theorem killResv_sameBut (s : State) (la : Nat) (e : Option HartId) : s.sameBut (s.killResv la e) := mapHarts_sameBut _ _ _
theorem lineLost_sameBut (s : State) (a ln : Nat) : s.sameBut (s.lineLost a ln) := mapHarts_sameBut _ _ _

/-- A coherent write changes what a write of a line does, and tokens. -/
theorem homeWrite_sameBut (s : State) (la : Nat) (d : Line) (m : LineMask) : s.sameBut (s.homeWrite la d m) := by
  unfold State.homeWrite
  dsimp only
  split
  · exact pokeLine_sameBut s la d m
  · split
    · refine sameBut_trans ?_ (killResv_sameBut _ _ _)
      split
      · exact sameBut_trans (t := { s with mem := { s.mem with dram := memLinePut s.mem.dram (la / 64 * 64) m d } }) rfl (setMark_sameBut _ _ _)
      · rfl
    · split
      · exact pokeLine_sameBut s la d m
      · split
        · next h =>
          refine sameBut_trans (sameBut_trans ?_ (killResv_sameBut _ _ _)) (writeCore_sameBut h)
          refine sameBut_trans (foldl_sameBut _ (fun u a => ?_) _ s) rfl
          exact sameBut_trans (lineLost_sameBut u a _) (setL2_sameBut _ _ _ _)
        · exact pokeLine_sameBut s la d m

theorem homeBytes_sameBut : ∀ (n : Nat) (s : State) (la : Nat) (bs : List Byte), s.sameBut (s.homeBytes la bs n)
  | 0, _, _, _ => rfl
  | n + 1, s, la, bs => by
    unfold State.homeBytes
    split
    · rfl
    · exact sameBut_trans (homeWrite_sameBut s la _ _) (homeBytes_sameBut n _ _ _)

/-- Whether a ring line can be written depends on nothing that a write of memory changes. -/
theorem ringWritable_sameBut {s t : State} (h : s.sameBut t) (la : Nat) : t.ringWritable la = s.ringWritable la := by
  rw [h]; rfl

/-- A ring whose lines all are memory takes every record. -/
theorem ringWrite_none : ∀ (rs : List (List Byte)) (s : State) (o : Nat),
    (∀ i, i < rs.length → s.ringWritable (s.perf.ladle.base.toNat + (o + 64 * i) % s.perf.ladle.size) = true) → (s.ringWrite o rs).2 = none
  | [], _, _, _ => rfl
  | r :: t, s, o, h => by
    unfold State.ringWrite
    have h0 := h 0 (by simp)
    simp only [Nat.mul_zero, Nat.add_zero] at h0
    simp only [h0, if_true]
    have e := homeBytes_sameBut 2 s (s.perf.ladle.base.toNat + o % s.perf.ladle.size) r
    refine ringWrite_none t _ (o + 64) fun i hi => ?_
    rw [ringWritable_sameBut e]
    have p : (s.homeBytes (s.perf.ladle.base.toNat + o % s.perf.ladle.size) r 2).perf = s.perf := by rw [e]
    rw [p]
    have := h (i + 1) (by simpa using hi)
    rwa [show o + 64 * (i + 1) = o + 64 + 64 * i by omega] at this

/-- A snapshot has at most a record for every bank, a header and a trailer. -/
theorem snapshot_length (s : State) : s.snapshot.length ≤ banksInOrder.length + 2 := by
  unfold State.snapshot
  simp only [List.length_append, List.length_cons, List.length_nil]
  have := List.length_filterMap_le (fun p : Nat × Nat => (s.bankOf p.1 p.2).latch.map fun c => bankRecord s.perf.ladle.seq.toNat p.1 p.2 c) banksInOrder
  omega

end Sys2Proof.Machine
end

