-- ==== Sys2Proof/Laws/Tab.lean ====
section
/-!
SUPPORT. Laws of the sparse tables: reading what was written, reading elsewhere, and the canonical form.
-/
namespace Sys2Proof

variable {α : Type}

@[simp] theorem tabGet_nil (d : α) (k : Nat) : tabGet d [] k = d := rfl

theorem tabGet_filter_ne (d : α) (t : Tab α) (k j : Nat) (h : j ≠ k) : tabGet d (t.filter fun p => p.1 != k) j = tabGet d t j := by
  induction t with
  | nil => rfl
  | cons p t ih =>
    obtain ⟨i, v⟩ := p
    by_cases hi : i = k
    · subst hi; simp [tabGet, ih, Ne.symm h]
    · simp [hi, tabGet, ih]

theorem tabGet_filter_same (d : α) (t : Tab α) (k : Nat) : tabGet d (t.filter fun p => p.1 != k) k = d := by
  induction t with
  | nil => rfl
  | cons p t ih =>
    obtain ⟨i, v⟩ := p
    by_cases hi : i = k
    · subst hi; simpa using ih
    · simp [hi, tabGet, ih]

theorem tabGet_tabPut_same (d : α) (t : Tab α) (k : Nat) (v : α) : tabGet d (tabPut t k v) k = v := by
  induction t with
  | nil => simp [tabPut, tabGet]
  | cons p t ih =>
    obtain ⟨i, w⟩ := p
    simp only [tabPut]
    split
    · simp [tabGet]
    · split
      · simp [tabGet]
      · rename_i h; simp [tabGet, Ne.symm h, ih]

theorem tabGet_tabPut_ne (d : α) (t : Tab α) (k j : Nat) (v : α) (h : j ≠ k) : tabGet d (tabPut t k v) j = tabGet d t j := by
  induction t with
  | nil => simp [tabPut, tabGet, Ne.symm h]
  | cons p t ih =>
    obtain ⟨i, w⟩ := p
    simp only [tabPut]
    split
    · simp [tabGet, Ne.symm h]
    · split
      · rename_i e; subst e; simp [tabGet, Ne.symm h]
      · simp [tabGet, ih]

/-- Reading the key that was written. -/
@[simp] theorem tabGet_tabSet_same [DecidableEq α] (d : α) (t : Tab α) (k : Nat) (v : α) : tabGet d (tabSet d t k v) k = v := by
  unfold tabSet
  split
  · rename_i h; rw [h]; exact tabGet_filter_same d t k
  · exact tabGet_tabPut_same d t k v

/-- Reading another key. -/
theorem tabGet_tabSet_ne [DecidableEq α] (d : α) (t : Tab α) (k j : Nat) (v : α) (h : j ≠ k) :
    tabGet d (tabSet d t k v) j = tabGet d t j := by
  unfold tabSet
  split
  · exact tabGet_filter_ne d t k j h
  · exact tabGet_tabPut_ne d t k j v h

theorem tabGet_tabSet [DecidableEq α] (d : α) (t : Tab α) (k j : Nat) (v : α) :
    tabGet d (tabSet d t k v) j = if j = k then v else tabGet d t j := by
  split
  · rename_i h; rw [h]; simp
  · rename_i h; exact tabGet_tabSet_ne d t k j v h

/-! ### The canonical form -/

theorem tabWfFrom_mono [DecidableEq α] (d : α) (t : Tab α) (i j : Nat) (hij : i ≤ j) (h : tabWfFrom d (some j) t = true) :
    tabWfFrom d (some i) t = true := by
  cases t with
  | nil => rfl
  | cons p t =>
    obtain ⟨k, v⟩ := p
    simp only [tabWfFrom, Bool.and_eq_true, decide_eq_true_eq] at h ⊢
    exact ⟨⟨by omega, h.1.2⟩, h.2⟩

theorem tabWfFrom_filterKey [DecidableEq α] (d : α) (t : Tab α) (lo : Option Nat) (p : Nat → Bool) (h : tabWfFrom d lo t = true) :
    tabWfFrom d lo (t.filter fun x => p x.1) = true := by
  induction t generalizing lo with
  | nil => simp [tabWfFrom]
  | cons q t ih =>
    obtain ⟨i, v⟩ := q
    simp only [tabWfFrom, Bool.and_eq_true, decide_eq_true_eq] at h
    by_cases hi : p i = true
    · have hf : ((i, v) :: t).filter (fun x => p x.1) = (i, v) :: t.filter fun x => p x.1 := by simp [hi]
      rw [hf]
      simp only [tabWfFrom, Bool.and_eq_true, decide_eq_true_eq]
      exact ⟨h.1, ih (some i) h.2⟩
    · have hf : ((i, v) :: t).filter (fun x => p x.1) = t.filter fun x => p x.1 := by simp [hi]
      rw [hf]
      apply ih
      have h2 := h.2
      cases lo with
      | none =>
        cases t with
        | nil => rfl
        | cons q t => obtain ⟨a, b⟩ := q; simp only [tabWfFrom, Bool.and_eq_true, decide_eq_true_eq] at h2 ⊢; exact ⟨⟨trivial, h2.1.2⟩, h2.2⟩
      | some l => exact tabWfFrom_mono d t l i (by have := h.1.1; simp at this; omega) h2

theorem tabWfFrom_put [DecidableEq α] (d : α) (t : Tab α) (lo : Option Nat) (k : Nat) (v : α) (hv : v ≠ d)
    (hlo : ∀ l, lo = some l → l < k) (h : tabWfFrom d lo t = true) : tabWfFrom d lo (tabPut t k v) = true := by
  induction t generalizing lo with
  | nil =>
    cases lo with
    | none => simp [tabPut, tabWfFrom, hv]
    | some l => simp [tabPut, tabWfFrom, hv, hlo l rfl]
  | cons p t ih =>
    obtain ⟨i, w⟩ := p
    simp only [tabWfFrom, Bool.and_eq_true, decide_eq_true_eq] at h
    simp only [tabPut]
    split
    · rename_i hk
      simp only [tabWfFrom, Bool.and_eq_true, decide_eq_true_eq]
      refine ⟨⟨?_, hv⟩, ⟨hk, h.1.2⟩, h.2⟩
      cases lo with
      | none => rfl
      | some l => simpa using hlo l rfl
    · split
      · rename_i hk; subst hk
        simp only [tabWfFrom, Bool.and_eq_true, decide_eq_true_eq]
        exact ⟨⟨h.1.1, hv⟩, h.2⟩
      · simp only [tabWfFrom, Bool.and_eq_true, decide_eq_true_eq]
        exact ⟨h.1, ih (some i) (fun l hl => by cases hl; omega) h.2⟩

/-- A write keeps the canonical form. -/
theorem tabWf_tabSet [DecidableEq α] (d : α) (t : Tab α) (k : Nat) (v : α) (h : tabWf d t = true) : tabWf d (tabSet d t k v) = true := by
  unfold tabSet
  split
  · exact tabWfFrom_filterKey d t none (· != k) h
  · rename_i hv; exact tabWfFrom_put d t none k v hv (fun l hl => by cases hl) h

end Sys2Proof
end

