-- ==== Sys2Proof/Laws/State.lean ====
section
/-!
SUPPORT. What each update of State leaves alone, one lemma per field, and what the registers of a hart read after a write.
-/
namespace Sys2Proof.Machine

variable (s : State)

/-! ### setHart -/

@[simp] theorem setHart_mem (h : HartId) (v : Hart) : (s.setHart h v).mem = s.mem := by cases h <;> rfl
@[simp] theorem setHart_pma (h : HartId) (v : Hart) : (s.setHart h v).pma = s.pma := by cases h <;> rfl
@[simp] theorem setHart_coh (h : HartId) (v : Hart) : (s.setHart h v).coh = s.coh := by cases h <;> rfl
@[simp] theorem setHart_mesh (h : HartId) (v : Hart) : (s.setHart h v).mesh = s.mesh := by cases h <;> rfl
@[simp] theorem setHart_dram (h : HartId) (v : Hart) : (s.setHart h v).dram = s.dram := by cases h <;> rfl
@[simp] theorem setHart_iommu (h : HartId) (v : Hart) : (s.setHart h v).iommu = s.iommu := by cases h <;> rfl
@[simp] theorem setHart_graop (h : HartId) (v : Hart) : (s.setHart h v).graop = s.graop := by cases h <;> rfl
@[simp] theorem setHart_eng (h : HartId) (v : Hart) : (s.setHart h v).eng = s.eng := by cases h <;> rfl
@[simp] theorem setHart_irq (h : HartId) (v : Hart) : (s.setHart h v).irq = s.irq := by cases h <;> rfl
@[simp] theorem setHart_perf (h : HartId) (v : Hart) : (s.setHart h v).perf = s.perf := by cases h <;> rfl
@[simp] theorem setHart_ren (h : HartId) (v : Hart) : (s.setHart h v).ren = s.ren := by cases h <;> rfl
@[simp] theorem setHart_pow (h : HartId) (v : Hart) : (s.setHart h v).pow = s.pow := by cases h <;> rfl
@[simp] theorem setHart_brine (h : HartId) (v : Hart) : (s.setHart h v).brine = s.brine := by cases h <;> rfl
@[simp] theorem setHart_sec (h : HartId) (v : Hart) : (s.setHart h v).sec = s.sec := by cases h <;> rfl
@[simp] theorem setHart_err (h : HartId) (v : Hart) : (s.setHart h v).err = s.err := by cases h <;> rfl
@[simp] theorem setHart_pcie (h : HartId) (v : Hart) : (s.setHart h v).pcie = s.pcie := by cases h <;> rfl
@[simp] theorem setHart_plat (h : HartId) (v : Hart) : (s.setHart h v).plat = s.plat := by cases h <;> rfl
@[simp] theorem setHart_phase (h : HartId) (v : Hart) : (s.setHart h v).phase = s.phase := by cases h <;> rfl
@[simp] theorem setHart_time (h : HartId) (v : Hart) : (s.setHart h v).time = s.time := by cases h <;> rfl
@[simp] theorem setHart_free (h : HartId) (v : Hart) : (s.setHart h v).free = s.free := by cases h <;> rfl
@[simp] theorem setHart_pending (h : HartId) (v : Hart) : (s.setHart h v).pending = s.pending := by cases h <;> rfl

/-! ### setL2 -/

@[simp] theorem setL2_tcores (a ln : Nat) (v : CLine) : (s.setL2 a ln v).tcores = s.tcores := rfl
@[simp] theorem setL2_scores (a ln : Nat) (v : CLine) : (s.setL2 a ln v).scores = s.scores := rfl
@[simp] theorem setL2_mem (a ln : Nat) (v : CLine) : (s.setL2 a ln v).mem = s.mem := rfl
@[simp] theorem setL2_pma (a ln : Nat) (v : CLine) : (s.setL2 a ln v).pma = s.pma := rfl
@[simp] theorem setL2_mesh (a ln : Nat) (v : CLine) : (s.setL2 a ln v).mesh = s.mesh := rfl
@[simp] theorem setL2_dram (a ln : Nat) (v : CLine) : (s.setL2 a ln v).dram = s.dram := rfl
@[simp] theorem setL2_iommu (a ln : Nat) (v : CLine) : (s.setL2 a ln v).iommu = s.iommu := rfl
@[simp] theorem setL2_graop (a ln : Nat) (v : CLine) : (s.setL2 a ln v).graop = s.graop := rfl
@[simp] theorem setL2_eng (a ln : Nat) (v : CLine) : (s.setL2 a ln v).eng = s.eng := rfl
@[simp] theorem setL2_irq (a ln : Nat) (v : CLine) : (s.setL2 a ln v).irq = s.irq := rfl
@[simp] theorem setL2_perf (a ln : Nat) (v : CLine) : (s.setL2 a ln v).perf = s.perf := rfl
@[simp] theorem setL2_ren (a ln : Nat) (v : CLine) : (s.setL2 a ln v).ren = s.ren := rfl
@[simp] theorem setL2_pow (a ln : Nat) (v : CLine) : (s.setL2 a ln v).pow = s.pow := rfl
@[simp] theorem setL2_brine (a ln : Nat) (v : CLine) : (s.setL2 a ln v).brine = s.brine := rfl
@[simp] theorem setL2_sec (a ln : Nat) (v : CLine) : (s.setL2 a ln v).sec = s.sec := rfl
@[simp] theorem setL2_err (a ln : Nat) (v : CLine) : (s.setL2 a ln v).err = s.err := rfl
@[simp] theorem setL2_pcie (a ln : Nat) (v : CLine) : (s.setL2 a ln v).pcie = s.pcie := rfl
@[simp] theorem setL2_plat (a ln : Nat) (v : CLine) : (s.setL2 a ln v).plat = s.plat := rfl
@[simp] theorem setL2_phase (a ln : Nat) (v : CLine) : (s.setL2 a ln v).phase = s.phase := rfl
@[simp] theorem setL2_time (a ln : Nat) (v : CLine) : (s.setL2 a ln v).time = s.time := rfl
@[simp] theorem setL2_free (a ln : Nat) (v : CLine) : (s.setL2 a ln v).free = s.free := rfl
@[simp] theorem setL2_pending (a ln : Nat) (v : CLine) : (s.setL2 a ln v).pending = s.pending := rfl

/-! ### putMshr -/

@[simp] theorem putMshr_tcores (a ln : Nat) (v : Option Mshr) : (s.putMshr a ln v).tcores = s.tcores := rfl
@[simp] theorem putMshr_scores (a ln : Nat) (v : Option Mshr) : (s.putMshr a ln v).scores = s.scores := rfl
@[simp] theorem putMshr_mem (a ln : Nat) (v : Option Mshr) : (s.putMshr a ln v).mem = s.mem := rfl
@[simp] theorem putMshr_pma (a ln : Nat) (v : Option Mshr) : (s.putMshr a ln v).pma = s.pma := rfl
@[simp] theorem putMshr_mesh (a ln : Nat) (v : Option Mshr) : (s.putMshr a ln v).mesh = s.mesh := rfl
@[simp] theorem putMshr_dram (a ln : Nat) (v : Option Mshr) : (s.putMshr a ln v).dram = s.dram := rfl
@[simp] theorem putMshr_iommu (a ln : Nat) (v : Option Mshr) : (s.putMshr a ln v).iommu = s.iommu := rfl
@[simp] theorem putMshr_graop (a ln : Nat) (v : Option Mshr) : (s.putMshr a ln v).graop = s.graop := rfl
@[simp] theorem putMshr_eng (a ln : Nat) (v : Option Mshr) : (s.putMshr a ln v).eng = s.eng := rfl
@[simp] theorem putMshr_irq (a ln : Nat) (v : Option Mshr) : (s.putMshr a ln v).irq = s.irq := rfl
@[simp] theorem putMshr_perf (a ln : Nat) (v : Option Mshr) : (s.putMshr a ln v).perf = s.perf := rfl
@[simp] theorem putMshr_ren (a ln : Nat) (v : Option Mshr) : (s.putMshr a ln v).ren = s.ren := rfl
@[simp] theorem putMshr_pow (a ln : Nat) (v : Option Mshr) : (s.putMshr a ln v).pow = s.pow := rfl
@[simp] theorem putMshr_brine (a ln : Nat) (v : Option Mshr) : (s.putMshr a ln v).brine = s.brine := rfl
@[simp] theorem putMshr_sec (a ln : Nat) (v : Option Mshr) : (s.putMshr a ln v).sec = s.sec := rfl
@[simp] theorem putMshr_err (a ln : Nat) (v : Option Mshr) : (s.putMshr a ln v).err = s.err := rfl
@[simp] theorem putMshr_pcie (a ln : Nat) (v : Option Mshr) : (s.putMshr a ln v).pcie = s.pcie := rfl
@[simp] theorem putMshr_plat (a ln : Nat) (v : Option Mshr) : (s.putMshr a ln v).plat = s.plat := rfl
@[simp] theorem putMshr_phase (a ln : Nat) (v : Option Mshr) : (s.putMshr a ln v).phase = s.phase := rfl
@[simp] theorem putMshr_time (a ln : Nat) (v : Option Mshr) : (s.putMshr a ln v).time = s.time := rfl
@[simp] theorem putMshr_free (a ln : Nat) (v : Option Mshr) : (s.putMshr a ln v).free = s.free := rfl
@[simp] theorem putMshr_pending (a ln : Nat) (v : Option Mshr) : (s.putMshr a ln v).pending = s.pending := rfl

/-! ### setTree -/

@[simp] theorem setTree_tcores (a ln bits : Nat) : (s.setTree a ln bits).tcores = s.tcores := rfl
@[simp] theorem setTree_scores (a ln bits : Nat) : (s.setTree a ln bits).scores = s.scores := rfl
@[simp] theorem setTree_mem (a ln bits : Nat) : (s.setTree a ln bits).mem = s.mem := rfl
@[simp] theorem setTree_pma (a ln bits : Nat) : (s.setTree a ln bits).pma = s.pma := rfl
@[simp] theorem setTree_mesh (a ln bits : Nat) : (s.setTree a ln bits).mesh = s.mesh := rfl
@[simp] theorem setTree_dram (a ln bits : Nat) : (s.setTree a ln bits).dram = s.dram := rfl
@[simp] theorem setTree_iommu (a ln bits : Nat) : (s.setTree a ln bits).iommu = s.iommu := rfl
@[simp] theorem setTree_graop (a ln bits : Nat) : (s.setTree a ln bits).graop = s.graop := rfl
@[simp] theorem setTree_eng (a ln bits : Nat) : (s.setTree a ln bits).eng = s.eng := rfl
@[simp] theorem setTree_irq (a ln bits : Nat) : (s.setTree a ln bits).irq = s.irq := rfl
@[simp] theorem setTree_perf (a ln bits : Nat) : (s.setTree a ln bits).perf = s.perf := rfl
@[simp] theorem setTree_ren (a ln bits : Nat) : (s.setTree a ln bits).ren = s.ren := rfl
@[simp] theorem setTree_pow (a ln bits : Nat) : (s.setTree a ln bits).pow = s.pow := rfl
@[simp] theorem setTree_brine (a ln bits : Nat) : (s.setTree a ln bits).brine = s.brine := rfl
@[simp] theorem setTree_sec (a ln bits : Nat) : (s.setTree a ln bits).sec = s.sec := rfl
@[simp] theorem setTree_err (a ln bits : Nat) : (s.setTree a ln bits).err = s.err := rfl
@[simp] theorem setTree_pcie (a ln bits : Nat) : (s.setTree a ln bits).pcie = s.pcie := rfl
@[simp] theorem setTree_plat (a ln bits : Nat) : (s.setTree a ln bits).plat = s.plat := rfl
@[simp] theorem setTree_phase (a ln bits : Nat) : (s.setTree a ln bits).phase = s.phase := rfl
@[simp] theorem setTree_time (a ln bits : Nat) : (s.setTree a ln bits).time = s.time := rfl
@[simp] theorem setTree_free (a ln bits : Nat) : (s.setTree a ln bits).free = s.free := rfl
@[simp] theorem setTree_pending (a ln bits : Nat) : (s.setTree a ln bits).pending = s.pending := rfl

/-! ### setBank -/

@[simp] theorem setBank_tcores (stop b : Nat) (v : Bank) : (s.setBank stop b v).tcores = s.tcores := rfl
@[simp] theorem setBank_scores (stop b : Nat) (v : Bank) : (s.setBank stop b v).scores = s.scores := rfl
@[simp] theorem setBank_mem (stop b : Nat) (v : Bank) : (s.setBank stop b v).mem = s.mem := rfl
@[simp] theorem setBank_pma (stop b : Nat) (v : Bank) : (s.setBank stop b v).pma = s.pma := rfl
@[simp] theorem setBank_coh (stop b : Nat) (v : Bank) : (s.setBank stop b v).coh = s.coh := rfl
@[simp] theorem setBank_mesh (stop b : Nat) (v : Bank) : (s.setBank stop b v).mesh = s.mesh := rfl
@[simp] theorem setBank_dram (stop b : Nat) (v : Bank) : (s.setBank stop b v).dram = s.dram := rfl
@[simp] theorem setBank_iommu (stop b : Nat) (v : Bank) : (s.setBank stop b v).iommu = s.iommu := rfl
@[simp] theorem setBank_graop (stop b : Nat) (v : Bank) : (s.setBank stop b v).graop = s.graop := rfl
@[simp] theorem setBank_eng (stop b : Nat) (v : Bank) : (s.setBank stop b v).eng = s.eng := rfl
@[simp] theorem setBank_irq (stop b : Nat) (v : Bank) : (s.setBank stop b v).irq = s.irq := rfl
@[simp] theorem setBank_ren (stop b : Nat) (v : Bank) : (s.setBank stop b v).ren = s.ren := rfl
@[simp] theorem setBank_pow (stop b : Nat) (v : Bank) : (s.setBank stop b v).pow = s.pow := rfl
@[simp] theorem setBank_brine (stop b : Nat) (v : Bank) : (s.setBank stop b v).brine = s.brine := rfl
@[simp] theorem setBank_sec (stop b : Nat) (v : Bank) : (s.setBank stop b v).sec = s.sec := rfl
@[simp] theorem setBank_err (stop b : Nat) (v : Bank) : (s.setBank stop b v).err = s.err := rfl
@[simp] theorem setBank_pcie (stop b : Nat) (v : Bank) : (s.setBank stop b v).pcie = s.pcie := rfl
@[simp] theorem setBank_plat (stop b : Nat) (v : Bank) : (s.setBank stop b v).plat = s.plat := rfl
@[simp] theorem setBank_phase (stop b : Nat) (v : Bank) : (s.setBank stop b v).phase = s.phase := rfl
@[simp] theorem setBank_time (stop b : Nat) (v : Bank) : (s.setBank stop b v).time = s.time := rfl
@[simp] theorem setBank_free (stop b : Nat) (v : Bank) : (s.setBank stop b v).free = s.free := rfl
@[simp] theorem setBank_pending (stop b : Nat) (v : Bank) : (s.setBank stop b v).pending = s.pending := rfl

/-! ### setFile -/

@[simp] theorem setFile_tcores (h : HartId) (f : ImFileKind) (v : ImFile) : (s.setFile h f v).tcores = s.tcores := rfl
@[simp] theorem setFile_scores (h : HartId) (f : ImFileKind) (v : ImFile) : (s.setFile h f v).scores = s.scores := rfl
@[simp] theorem setFile_mem (h : HartId) (f : ImFileKind) (v : ImFile) : (s.setFile h f v).mem = s.mem := rfl
@[simp] theorem setFile_pma (h : HartId) (f : ImFileKind) (v : ImFile) : (s.setFile h f v).pma = s.pma := rfl
@[simp] theorem setFile_coh (h : HartId) (f : ImFileKind) (v : ImFile) : (s.setFile h f v).coh = s.coh := rfl
@[simp] theorem setFile_mesh (h : HartId) (f : ImFileKind) (v : ImFile) : (s.setFile h f v).mesh = s.mesh := rfl
@[simp] theorem setFile_dram (h : HartId) (f : ImFileKind) (v : ImFile) : (s.setFile h f v).dram = s.dram := rfl
@[simp] theorem setFile_iommu (h : HartId) (f : ImFileKind) (v : ImFile) : (s.setFile h f v).iommu = s.iommu := rfl
@[simp] theorem setFile_graop (h : HartId) (f : ImFileKind) (v : ImFile) : (s.setFile h f v).graop = s.graop := rfl
@[simp] theorem setFile_eng (h : HartId) (f : ImFileKind) (v : ImFile) : (s.setFile h f v).eng = s.eng := rfl
@[simp] theorem setFile_perf (h : HartId) (f : ImFileKind) (v : ImFile) : (s.setFile h f v).perf = s.perf := rfl
@[simp] theorem setFile_ren (h : HartId) (f : ImFileKind) (v : ImFile) : (s.setFile h f v).ren = s.ren := rfl
@[simp] theorem setFile_pow (h : HartId) (f : ImFileKind) (v : ImFile) : (s.setFile h f v).pow = s.pow := rfl
@[simp] theorem setFile_brine (h : HartId) (f : ImFileKind) (v : ImFile) : (s.setFile h f v).brine = s.brine := rfl
@[simp] theorem setFile_sec (h : HartId) (f : ImFileKind) (v : ImFile) : (s.setFile h f v).sec = s.sec := rfl
@[simp] theorem setFile_err (h : HartId) (f : ImFileKind) (v : ImFile) : (s.setFile h f v).err = s.err := rfl
@[simp] theorem setFile_pcie (h : HartId) (f : ImFileKind) (v : ImFile) : (s.setFile h f v).pcie = s.pcie := rfl
@[simp] theorem setFile_plat (h : HartId) (f : ImFileKind) (v : ImFile) : (s.setFile h f v).plat = s.plat := rfl
@[simp] theorem setFile_phase (h : HartId) (f : ImFileKind) (v : ImFile) : (s.setFile h f v).phase = s.phase := rfl
@[simp] theorem setFile_time (h : HartId) (f : ImFileKind) (v : ImFile) : (s.setFile h f v).time = s.time := rfl
@[simp] theorem setFile_free (h : HartId) (f : ImFileKind) (v : ImFile) : (s.setFile h f v).free = s.free := rfl
@[simp] theorem setFile_pending (h : HartId) (f : ImFileKind) (v : ImFile) : (s.setFile h f v).pending = s.pending := rfl

/-! ### setPma -/

@[simp] theorem setPma_tcores (v : Pma) : (s.setPma v).tcores = s.tcores := rfl
@[simp] theorem setPma_scores (v : Pma) : (s.setPma v).scores = s.scores := rfl
@[simp] theorem setPma_mem (v : Pma) : (s.setPma v).mem = s.mem := rfl
@[simp] theorem setPma_coh (v : Pma) : (s.setPma v).coh = s.coh := rfl
@[simp] theorem setPma_mesh (v : Pma) : (s.setPma v).mesh = s.mesh := rfl
@[simp] theorem setPma_dram (v : Pma) : (s.setPma v).dram = s.dram := rfl
@[simp] theorem setPma_iommu (v : Pma) : (s.setPma v).iommu = s.iommu := rfl
@[simp] theorem setPma_graop (v : Pma) : (s.setPma v).graop = s.graop := rfl
@[simp] theorem setPma_eng (v : Pma) : (s.setPma v).eng = s.eng := rfl
@[simp] theorem setPma_irq (v : Pma) : (s.setPma v).irq = s.irq := rfl
@[simp] theorem setPma_perf (v : Pma) : (s.setPma v).perf = s.perf := rfl
@[simp] theorem setPma_ren (v : Pma) : (s.setPma v).ren = s.ren := rfl
@[simp] theorem setPma_pow (v : Pma) : (s.setPma v).pow = s.pow := rfl
@[simp] theorem setPma_brine (v : Pma) : (s.setPma v).brine = s.brine := rfl
@[simp] theorem setPma_sec (v : Pma) : (s.setPma v).sec = s.sec := rfl
@[simp] theorem setPma_err (v : Pma) : (s.setPma v).err = s.err := rfl
@[simp] theorem setPma_pcie (v : Pma) : (s.setPma v).pcie = s.pcie := rfl
@[simp] theorem setPma_plat (v : Pma) : (s.setPma v).plat = s.plat := rfl
@[simp] theorem setPma_phase (v : Pma) : (s.setPma v).phase = s.phase := rfl
@[simp] theorem setPma_time (v : Pma) : (s.setPma v).time = s.time := rfl
@[simp] theorem setPma_free (v : Pma) : (s.setPma v).free = s.free := rfl
@[simp] theorem setPma_pending (v : Pma) : (s.setPma v).pending = s.pending := rfl

/-! ### setCoh -/

@[simp] theorem setCoh_tcores (v : Coh) : (s.setCoh v).tcores = s.tcores := rfl
@[simp] theorem setCoh_scores (v : Coh) : (s.setCoh v).scores = s.scores := rfl
@[simp] theorem setCoh_mem (v : Coh) : (s.setCoh v).mem = s.mem := rfl
@[simp] theorem setCoh_pma (v : Coh) : (s.setCoh v).pma = s.pma := rfl
@[simp] theorem setCoh_mesh (v : Coh) : (s.setCoh v).mesh = s.mesh := rfl
@[simp] theorem setCoh_dram (v : Coh) : (s.setCoh v).dram = s.dram := rfl
@[simp] theorem setCoh_iommu (v : Coh) : (s.setCoh v).iommu = s.iommu := rfl
@[simp] theorem setCoh_graop (v : Coh) : (s.setCoh v).graop = s.graop := rfl
@[simp] theorem setCoh_eng (v : Coh) : (s.setCoh v).eng = s.eng := rfl
@[simp] theorem setCoh_irq (v : Coh) : (s.setCoh v).irq = s.irq := rfl
@[simp] theorem setCoh_perf (v : Coh) : (s.setCoh v).perf = s.perf := rfl
@[simp] theorem setCoh_ren (v : Coh) : (s.setCoh v).ren = s.ren := rfl
@[simp] theorem setCoh_pow (v : Coh) : (s.setCoh v).pow = s.pow := rfl
@[simp] theorem setCoh_brine (v : Coh) : (s.setCoh v).brine = s.brine := rfl
@[simp] theorem setCoh_sec (v : Coh) : (s.setCoh v).sec = s.sec := rfl
@[simp] theorem setCoh_err (v : Coh) : (s.setCoh v).err = s.err := rfl
@[simp] theorem setCoh_pcie (v : Coh) : (s.setCoh v).pcie = s.pcie := rfl
@[simp] theorem setCoh_plat (v : Coh) : (s.setCoh v).plat = s.plat := rfl
@[simp] theorem setCoh_phase (v : Coh) : (s.setCoh v).phase = s.phase := rfl
@[simp] theorem setCoh_time (v : Coh) : (s.setCoh v).time = s.time := rfl
@[simp] theorem setCoh_free (v : Coh) : (s.setCoh v).free = s.free := rfl
@[simp] theorem setCoh_pending (v : Coh) : (s.setCoh v).pending = s.pending := rfl

/-! ### setDma -/

@[simp] theorem setDma_tcores (c : Nat) (v : Dma) : (s.setDma c v).tcores = s.tcores := rfl
@[simp] theorem setDma_scores (c : Nat) (v : Dma) : (s.setDma c v).scores = s.scores := rfl
@[simp] theorem setDma_mem (c : Nat) (v : Dma) : (s.setDma c v).mem = s.mem := rfl
@[simp] theorem setDma_pma (c : Nat) (v : Dma) : (s.setDma c v).pma = s.pma := rfl
@[simp] theorem setDma_coh (c : Nat) (v : Dma) : (s.setDma c v).coh = s.coh := rfl
@[simp] theorem setDma_mesh (c : Nat) (v : Dma) : (s.setDma c v).mesh = s.mesh := rfl
@[simp] theorem setDma_dram (c : Nat) (v : Dma) : (s.setDma c v).dram = s.dram := rfl
@[simp] theorem setDma_iommu (c : Nat) (v : Dma) : (s.setDma c v).iommu = s.iommu := rfl
@[simp] theorem setDma_graop (c : Nat) (v : Dma) : (s.setDma c v).graop = s.graop := rfl
@[simp] theorem setDma_irq (c : Nat) (v : Dma) : (s.setDma c v).irq = s.irq := rfl
@[simp] theorem setDma_perf (c : Nat) (v : Dma) : (s.setDma c v).perf = s.perf := rfl
@[simp] theorem setDma_ren (c : Nat) (v : Dma) : (s.setDma c v).ren = s.ren := rfl
@[simp] theorem setDma_pow (c : Nat) (v : Dma) : (s.setDma c v).pow = s.pow := rfl
@[simp] theorem setDma_brine (c : Nat) (v : Dma) : (s.setDma c v).brine = s.brine := rfl
@[simp] theorem setDma_sec (c : Nat) (v : Dma) : (s.setDma c v).sec = s.sec := rfl
@[simp] theorem setDma_err (c : Nat) (v : Dma) : (s.setDma c v).err = s.err := rfl
@[simp] theorem setDma_pcie (c : Nat) (v : Dma) : (s.setDma c v).pcie = s.pcie := rfl
@[simp] theorem setDma_plat (c : Nat) (v : Dma) : (s.setDma c v).plat = s.plat := rfl
@[simp] theorem setDma_phase (c : Nat) (v : Dma) : (s.setDma c v).phase = s.phase := rfl
@[simp] theorem setDma_time (c : Nat) (v : Dma) : (s.setDma c v).time = s.time := rfl
@[simp] theorem setDma_free (c : Nat) (v : Dma) : (s.setDma c v).free = s.free := rfl
@[simp] theorem setDma_pending (c : Nat) (v : Dma) : (s.setDma c v).pending = s.pending := rfl

/-! ### setInstance -/

@[simp] theorem setInstance_tcores (i : Nat) (v : Instance) : (s.setInstance i v).tcores = s.tcores := rfl
@[simp] theorem setInstance_scores (i : Nat) (v : Instance) : (s.setInstance i v).scores = s.scores := rfl
@[simp] theorem setInstance_mem (i : Nat) (v : Instance) : (s.setInstance i v).mem = s.mem := rfl
@[simp] theorem setInstance_pma (i : Nat) (v : Instance) : (s.setInstance i v).pma = s.pma := rfl
@[simp] theorem setInstance_coh (i : Nat) (v : Instance) : (s.setInstance i v).coh = s.coh := rfl
@[simp] theorem setInstance_mesh (i : Nat) (v : Instance) : (s.setInstance i v).mesh = s.mesh := rfl
@[simp] theorem setInstance_dram (i : Nat) (v : Instance) : (s.setInstance i v).dram = s.dram := rfl
@[simp] theorem setInstance_iommu (i : Nat) (v : Instance) : (s.setInstance i v).iommu = s.iommu := rfl
@[simp] theorem setInstance_graop (i : Nat) (v : Instance) : (s.setInstance i v).graop = s.graop := rfl
@[simp] theorem setInstance_irq (i : Nat) (v : Instance) : (s.setInstance i v).irq = s.irq := rfl
@[simp] theorem setInstance_perf (i : Nat) (v : Instance) : (s.setInstance i v).perf = s.perf := rfl
@[simp] theorem setInstance_ren (i : Nat) (v : Instance) : (s.setInstance i v).ren = s.ren := rfl
@[simp] theorem setInstance_pow (i : Nat) (v : Instance) : (s.setInstance i v).pow = s.pow := rfl
@[simp] theorem setInstance_brine (i : Nat) (v : Instance) : (s.setInstance i v).brine = s.brine := rfl
@[simp] theorem setInstance_sec (i : Nat) (v : Instance) : (s.setInstance i v).sec = s.sec := rfl
@[simp] theorem setInstance_err (i : Nat) (v : Instance) : (s.setInstance i v).err = s.err := rfl
@[simp] theorem setInstance_pcie (i : Nat) (v : Instance) : (s.setInstance i v).pcie = s.pcie := rfl
@[simp] theorem setInstance_plat (i : Nat) (v : Instance) : (s.setInstance i v).plat = s.plat := rfl
@[simp] theorem setInstance_phase (i : Nat) (v : Instance) : (s.setInstance i v).phase = s.phase := rfl
@[simp] theorem setInstance_time (i : Nat) (v : Instance) : (s.setInstance i v).time = s.time := rfl
@[simp] theorem setInstance_free (i : Nat) (v : Instance) : (s.setInstance i v).free = s.free := rfl
@[simp] theorem setInstance_pending (i : Nat) (v : Instance) : (s.setInstance i v).pending = s.pending := rfl

/-! ### setChan -/

@[simp] theorem setChan_tcores (ch : Nat) (v : Chan) : (s.setChan ch v).tcores = s.tcores := rfl
@[simp] theorem setChan_scores (ch : Nat) (v : Chan) : (s.setChan ch v).scores = s.scores := rfl
@[simp] theorem setChan_mem (ch : Nat) (v : Chan) : (s.setChan ch v).mem = s.mem := rfl
@[simp] theorem setChan_pma (ch : Nat) (v : Chan) : (s.setChan ch v).pma = s.pma := rfl
@[simp] theorem setChan_coh (ch : Nat) (v : Chan) : (s.setChan ch v).coh = s.coh := rfl
@[simp] theorem setChan_mesh (ch : Nat) (v : Chan) : (s.setChan ch v).mesh = s.mesh := rfl
@[simp] theorem setChan_iommu (ch : Nat) (v : Chan) : (s.setChan ch v).iommu = s.iommu := rfl
@[simp] theorem setChan_graop (ch : Nat) (v : Chan) : (s.setChan ch v).graop = s.graop := rfl
@[simp] theorem setChan_eng (ch : Nat) (v : Chan) : (s.setChan ch v).eng = s.eng := rfl
@[simp] theorem setChan_irq (ch : Nat) (v : Chan) : (s.setChan ch v).irq = s.irq := rfl
@[simp] theorem setChan_perf (ch : Nat) (v : Chan) : (s.setChan ch v).perf = s.perf := rfl
@[simp] theorem setChan_ren (ch : Nat) (v : Chan) : (s.setChan ch v).ren = s.ren := rfl
@[simp] theorem setChan_pow (ch : Nat) (v : Chan) : (s.setChan ch v).pow = s.pow := rfl
@[simp] theorem setChan_brine (ch : Nat) (v : Chan) : (s.setChan ch v).brine = s.brine := rfl
@[simp] theorem setChan_sec (ch : Nat) (v : Chan) : (s.setChan ch v).sec = s.sec := rfl
@[simp] theorem setChan_err (ch : Nat) (v : Chan) : (s.setChan ch v).err = s.err := rfl
@[simp] theorem setChan_pcie (ch : Nat) (v : Chan) : (s.setChan ch v).pcie = s.pcie := rfl
@[simp] theorem setChan_plat (ch : Nat) (v : Chan) : (s.setChan ch v).plat = s.plat := rfl
@[simp] theorem setChan_phase (ch : Nat) (v : Chan) : (s.setChan ch v).phase = s.phase := rfl
@[simp] theorem setChan_time (ch : Nat) (v : Chan) : (s.setChan ch v).time = s.time := rfl
@[simp] theorem setChan_free (ch : Nat) (v : Chan) : (s.setChan ch v).free = s.free := rfl
@[simp] theorem setChan_pending (ch : Nat) (v : Chan) : (s.setChan ch v).pending = s.pending := rfl

/-! ### setMark -/

@[simp] theorem setMark_tcores (la : Nat) (v : LineMark) : (s.setMark la v).tcores = s.tcores := rfl
@[simp] theorem setMark_scores (la : Nat) (v : LineMark) : (s.setMark la v).scores = s.scores := rfl
@[simp] theorem setMark_mem (la : Nat) (v : LineMark) : (s.setMark la v).mem = s.mem := rfl
@[simp] theorem setMark_pma (la : Nat) (v : LineMark) : (s.setMark la v).pma = s.pma := rfl
@[simp] theorem setMark_coh (la : Nat) (v : LineMark) : (s.setMark la v).coh = s.coh := rfl
@[simp] theorem setMark_mesh (la : Nat) (v : LineMark) : (s.setMark la v).mesh = s.mesh := rfl
@[simp] theorem setMark_iommu (la : Nat) (v : LineMark) : (s.setMark la v).iommu = s.iommu := rfl
@[simp] theorem setMark_graop (la : Nat) (v : LineMark) : (s.setMark la v).graop = s.graop := rfl
@[simp] theorem setMark_eng (la : Nat) (v : LineMark) : (s.setMark la v).eng = s.eng := rfl
@[simp] theorem setMark_irq (la : Nat) (v : LineMark) : (s.setMark la v).irq = s.irq := rfl
@[simp] theorem setMark_perf (la : Nat) (v : LineMark) : (s.setMark la v).perf = s.perf := rfl
@[simp] theorem setMark_ren (la : Nat) (v : LineMark) : (s.setMark la v).ren = s.ren := rfl
@[simp] theorem setMark_pow (la : Nat) (v : LineMark) : (s.setMark la v).pow = s.pow := rfl
@[simp] theorem setMark_brine (la : Nat) (v : LineMark) : (s.setMark la v).brine = s.brine := rfl
@[simp] theorem setMark_sec (la : Nat) (v : LineMark) : (s.setMark la v).sec = s.sec := rfl
@[simp] theorem setMark_err (la : Nat) (v : LineMark) : (s.setMark la v).err = s.err := rfl
@[simp] theorem setMark_pcie (la : Nat) (v : LineMark) : (s.setMark la v).pcie = s.pcie := rfl
@[simp] theorem setMark_plat (la : Nat) (v : LineMark) : (s.setMark la v).plat = s.plat := rfl
@[simp] theorem setMark_phase (la : Nat) (v : LineMark) : (s.setMark la v).phase = s.phase := rfl
@[simp] theorem setMark_time (la : Nat) (v : LineMark) : (s.setMark la v).time = s.time := rfl
@[simp] theorem setMark_free (la : Nat) (v : LineMark) : (s.setMark la v).free = s.free := rfl
@[simp] theorem setMark_pending (la : Nat) (v : LineMark) : (s.setMark la v).pending = s.pending := rfl

/-! ### setLink -/

@[simp] theorem setLink_tcores (l : Nat) (v : Link) : (s.setLink l v).tcores = s.tcores := rfl
@[simp] theorem setLink_scores (l : Nat) (v : Link) : (s.setLink l v).scores = s.scores := rfl
@[simp] theorem setLink_mem (l : Nat) (v : Link) : (s.setLink l v).mem = s.mem := rfl
@[simp] theorem setLink_pma (l : Nat) (v : Link) : (s.setLink l v).pma = s.pma := rfl
@[simp] theorem setLink_coh (l : Nat) (v : Link) : (s.setLink l v).coh = s.coh := rfl
@[simp] theorem setLink_mesh (l : Nat) (v : Link) : (s.setLink l v).mesh = s.mesh := rfl
@[simp] theorem setLink_dram (l : Nat) (v : Link) : (s.setLink l v).dram = s.dram := rfl
@[simp] theorem setLink_iommu (l : Nat) (v : Link) : (s.setLink l v).iommu = s.iommu := rfl
@[simp] theorem setLink_eng (l : Nat) (v : Link) : (s.setLink l v).eng = s.eng := rfl
@[simp] theorem setLink_irq (l : Nat) (v : Link) : (s.setLink l v).irq = s.irq := rfl
@[simp] theorem setLink_perf (l : Nat) (v : Link) : (s.setLink l v).perf = s.perf := rfl
@[simp] theorem setLink_ren (l : Nat) (v : Link) : (s.setLink l v).ren = s.ren := rfl
@[simp] theorem setLink_pow (l : Nat) (v : Link) : (s.setLink l v).pow = s.pow := rfl
@[simp] theorem setLink_brine (l : Nat) (v : Link) : (s.setLink l v).brine = s.brine := rfl
@[simp] theorem setLink_sec (l : Nat) (v : Link) : (s.setLink l v).sec = s.sec := rfl
@[simp] theorem setLink_err (l : Nat) (v : Link) : (s.setLink l v).err = s.err := rfl
@[simp] theorem setLink_pcie (l : Nat) (v : Link) : (s.setLink l v).pcie = s.pcie := rfl
@[simp] theorem setLink_plat (l : Nat) (v : Link) : (s.setLink l v).plat = s.plat := rfl
@[simp] theorem setLink_phase (l : Nat) (v : Link) : (s.setLink l v).phase = s.phase := rfl
@[simp] theorem setLink_time (l : Nat) (v : Link) : (s.setLink l v).time = s.time := rfl
@[simp] theorem setLink_free (l : Nat) (v : Link) : (s.setLink l v).free = s.free := rfl
@[simp] theorem setLink_pending (l : Nat) (v : Link) : (s.setLink l v).pending = s.pending := rfl

/-! ### setRoute -/

@[simp] theorem setRoute_tcores (p : Nat) (v : Route) : (s.setRoute p v).tcores = s.tcores := rfl
@[simp] theorem setRoute_scores (p : Nat) (v : Route) : (s.setRoute p v).scores = s.scores := rfl
@[simp] theorem setRoute_mem (p : Nat) (v : Route) : (s.setRoute p v).mem = s.mem := rfl
@[simp] theorem setRoute_pma (p : Nat) (v : Route) : (s.setRoute p v).pma = s.pma := rfl
@[simp] theorem setRoute_coh (p : Nat) (v : Route) : (s.setRoute p v).coh = s.coh := rfl
@[simp] theorem setRoute_mesh (p : Nat) (v : Route) : (s.setRoute p v).mesh = s.mesh := rfl
@[simp] theorem setRoute_dram (p : Nat) (v : Route) : (s.setRoute p v).dram = s.dram := rfl
@[simp] theorem setRoute_iommu (p : Nat) (v : Route) : (s.setRoute p v).iommu = s.iommu := rfl
@[simp] theorem setRoute_eng (p : Nat) (v : Route) : (s.setRoute p v).eng = s.eng := rfl
@[simp] theorem setRoute_irq (p : Nat) (v : Route) : (s.setRoute p v).irq = s.irq := rfl
@[simp] theorem setRoute_perf (p : Nat) (v : Route) : (s.setRoute p v).perf = s.perf := rfl
@[simp] theorem setRoute_ren (p : Nat) (v : Route) : (s.setRoute p v).ren = s.ren := rfl
@[simp] theorem setRoute_pow (p : Nat) (v : Route) : (s.setRoute p v).pow = s.pow := rfl
@[simp] theorem setRoute_brine (p : Nat) (v : Route) : (s.setRoute p v).brine = s.brine := rfl
@[simp] theorem setRoute_sec (p : Nat) (v : Route) : (s.setRoute p v).sec = s.sec := rfl
@[simp] theorem setRoute_err (p : Nat) (v : Route) : (s.setRoute p v).err = s.err := rfl
@[simp] theorem setRoute_pcie (p : Nat) (v : Route) : (s.setRoute p v).pcie = s.pcie := rfl
@[simp] theorem setRoute_plat (p : Nat) (v : Route) : (s.setRoute p v).plat = s.plat := rfl
@[simp] theorem setRoute_phase (p : Nat) (v : Route) : (s.setRoute p v).phase = s.phase := rfl
@[simp] theorem setRoute_time (p : Nat) (v : Route) : (s.setRoute p v).time = s.time := rfl
@[simp] theorem setRoute_free (p : Nat) (v : Route) : (s.setRoute p v).free = s.free := rfl
@[simp] theorem setRoute_pending (p : Nat) (v : Route) : (s.setRoute p v).pending = s.pending := rfl

/-! ### setL3 -/

@[simp] theorem setL3_tcores (ln : Nat) (v : L3Line) : (s.setL3 ln v).tcores = s.tcores := rfl
@[simp] theorem setL3_scores (ln : Nat) (v : L3Line) : (s.setL3 ln v).scores = s.scores := rfl
@[simp] theorem setL3_mem (ln : Nat) (v : L3Line) : (s.setL3 ln v).mem = s.mem := rfl
@[simp] theorem setL3_pma (ln : Nat) (v : L3Line) : (s.setL3 ln v).pma = s.pma := rfl
@[simp] theorem setL3_mesh (ln : Nat) (v : L3Line) : (s.setL3 ln v).mesh = s.mesh := rfl
@[simp] theorem setL3_dram (ln : Nat) (v : L3Line) : (s.setL3 ln v).dram = s.dram := rfl
@[simp] theorem setL3_iommu (ln : Nat) (v : L3Line) : (s.setL3 ln v).iommu = s.iommu := rfl
@[simp] theorem setL3_graop (ln : Nat) (v : L3Line) : (s.setL3 ln v).graop = s.graop := rfl
@[simp] theorem setL3_eng (ln : Nat) (v : L3Line) : (s.setL3 ln v).eng = s.eng := rfl
@[simp] theorem setL3_irq (ln : Nat) (v : L3Line) : (s.setL3 ln v).irq = s.irq := rfl
@[simp] theorem setL3_perf (ln : Nat) (v : L3Line) : (s.setL3 ln v).perf = s.perf := rfl
@[simp] theorem setL3_ren (ln : Nat) (v : L3Line) : (s.setL3 ln v).ren = s.ren := rfl
@[simp] theorem setL3_pow (ln : Nat) (v : L3Line) : (s.setL3 ln v).pow = s.pow := rfl
@[simp] theorem setL3_brine (ln : Nat) (v : L3Line) : (s.setL3 ln v).brine = s.brine := rfl
@[simp] theorem setL3_sec (ln : Nat) (v : L3Line) : (s.setL3 ln v).sec = s.sec := rfl
@[simp] theorem setL3_err (ln : Nat) (v : L3Line) : (s.setL3 ln v).err = s.err := rfl
@[simp] theorem setL3_pcie (ln : Nat) (v : L3Line) : (s.setL3 ln v).pcie = s.pcie := rfl
@[simp] theorem setL3_plat (ln : Nat) (v : L3Line) : (s.setL3 ln v).plat = s.plat := rfl
@[simp] theorem setL3_phase (ln : Nat) (v : L3Line) : (s.setL3 ln v).phase = s.phase := rfl
@[simp] theorem setL3_time (ln : Nat) (v : L3Line) : (s.setL3 ln v).time = s.time := rfl
@[simp] theorem setL3_free (ln : Nat) (v : L3Line) : (s.setL3 ln v).free = s.free := rfl
@[simp] theorem setL3_pending (ln : Nat) (v : L3Line) : (s.setL3 ln v).pending = s.pending := rfl

/-! ### setSf -/

@[simp] theorem setSf_tcores (ln : Nat) (v : SfEntry) : (s.setSf ln v).tcores = s.tcores := rfl
@[simp] theorem setSf_scores (ln : Nat) (v : SfEntry) : (s.setSf ln v).scores = s.scores := rfl
@[simp] theorem setSf_mem (ln : Nat) (v : SfEntry) : (s.setSf ln v).mem = s.mem := rfl
@[simp] theorem setSf_pma (ln : Nat) (v : SfEntry) : (s.setSf ln v).pma = s.pma := rfl
@[simp] theorem setSf_mesh (ln : Nat) (v : SfEntry) : (s.setSf ln v).mesh = s.mesh := rfl
@[simp] theorem setSf_dram (ln : Nat) (v : SfEntry) : (s.setSf ln v).dram = s.dram := rfl
@[simp] theorem setSf_iommu (ln : Nat) (v : SfEntry) : (s.setSf ln v).iommu = s.iommu := rfl
@[simp] theorem setSf_graop (ln : Nat) (v : SfEntry) : (s.setSf ln v).graop = s.graop := rfl
@[simp] theorem setSf_eng (ln : Nat) (v : SfEntry) : (s.setSf ln v).eng = s.eng := rfl
@[simp] theorem setSf_irq (ln : Nat) (v : SfEntry) : (s.setSf ln v).irq = s.irq := rfl
@[simp] theorem setSf_perf (ln : Nat) (v : SfEntry) : (s.setSf ln v).perf = s.perf := rfl
@[simp] theorem setSf_ren (ln : Nat) (v : SfEntry) : (s.setSf ln v).ren = s.ren := rfl
@[simp] theorem setSf_pow (ln : Nat) (v : SfEntry) : (s.setSf ln v).pow = s.pow := rfl
@[simp] theorem setSf_brine (ln : Nat) (v : SfEntry) : (s.setSf ln v).brine = s.brine := rfl
@[simp] theorem setSf_sec (ln : Nat) (v : SfEntry) : (s.setSf ln v).sec = s.sec := rfl
@[simp] theorem setSf_err (ln : Nat) (v : SfEntry) : (s.setSf ln v).err = s.err := rfl
@[simp] theorem setSf_pcie (ln : Nat) (v : SfEntry) : (s.setSf ln v).pcie = s.pcie := rfl
@[simp] theorem setSf_plat (ln : Nat) (v : SfEntry) : (s.setSf ln v).plat = s.plat := rfl
@[simp] theorem setSf_phase (ln : Nat) (v : SfEntry) : (s.setSf ln v).phase = s.phase := rfl
@[simp] theorem setSf_time (ln : Nat) (v : SfEntry) : (s.setSf ln v).time = s.time := rfl
@[simp] theorem setSf_free (ln : Nat) (v : SfEntry) : (s.setSf ln v).free = s.free := rfl
@[simp] theorem setSf_pending (ln : Nat) (v : SfEntry) : (s.setSf ln v).pending = s.pending := rfl

/-! ### setTxn -/

@[simp] theorem setTxn_tcores (ln : Nat) (v : Option Txn) : (s.setTxn ln v).tcores = s.tcores := rfl
@[simp] theorem setTxn_scores (ln : Nat) (v : Option Txn) : (s.setTxn ln v).scores = s.scores := rfl
@[simp] theorem setTxn_mem (ln : Nat) (v : Option Txn) : (s.setTxn ln v).mem = s.mem := rfl
@[simp] theorem setTxn_pma (ln : Nat) (v : Option Txn) : (s.setTxn ln v).pma = s.pma := rfl
@[simp] theorem setTxn_mesh (ln : Nat) (v : Option Txn) : (s.setTxn ln v).mesh = s.mesh := rfl
@[simp] theorem setTxn_dram (ln : Nat) (v : Option Txn) : (s.setTxn ln v).dram = s.dram := rfl
@[simp] theorem setTxn_iommu (ln : Nat) (v : Option Txn) : (s.setTxn ln v).iommu = s.iommu := rfl
@[simp] theorem setTxn_graop (ln : Nat) (v : Option Txn) : (s.setTxn ln v).graop = s.graop := rfl
@[simp] theorem setTxn_eng (ln : Nat) (v : Option Txn) : (s.setTxn ln v).eng = s.eng := rfl
@[simp] theorem setTxn_irq (ln : Nat) (v : Option Txn) : (s.setTxn ln v).irq = s.irq := rfl
@[simp] theorem setTxn_perf (ln : Nat) (v : Option Txn) : (s.setTxn ln v).perf = s.perf := rfl
@[simp] theorem setTxn_ren (ln : Nat) (v : Option Txn) : (s.setTxn ln v).ren = s.ren := rfl
@[simp] theorem setTxn_pow (ln : Nat) (v : Option Txn) : (s.setTxn ln v).pow = s.pow := rfl
@[simp] theorem setTxn_brine (ln : Nat) (v : Option Txn) : (s.setTxn ln v).brine = s.brine := rfl
@[simp] theorem setTxn_sec (ln : Nat) (v : Option Txn) : (s.setTxn ln v).sec = s.sec := rfl
@[simp] theorem setTxn_err (ln : Nat) (v : Option Txn) : (s.setTxn ln v).err = s.err := rfl
@[simp] theorem setTxn_pcie (ln : Nat) (v : Option Txn) : (s.setTxn ln v).pcie = s.pcie := rfl
@[simp] theorem setTxn_plat (ln : Nat) (v : Option Txn) : (s.setTxn ln v).plat = s.plat := rfl
@[simp] theorem setTxn_phase (ln : Nat) (v : Option Txn) : (s.setTxn ln v).phase = s.phase := rfl
@[simp] theorem setTxn_time (ln : Nat) (v : Option Txn) : (s.setTxn ln v).time = s.time := rfl
@[simp] theorem setTxn_free (ln : Nat) (v : Option Txn) : (s.setTxn ln v).free = s.free := rfl
@[simp] theorem setTxn_pending (ln : Nat) (v : Option Txn) : (s.setTxn ln v).pending = s.pending := rfl

/-! ### setIommu -/

@[simp] theorem setIommu_tcores (e : Nat) (v : Iommu) : (s.setIommu e v).tcores = s.tcores := rfl
@[simp] theorem setIommu_scores (e : Nat) (v : Iommu) : (s.setIommu e v).scores = s.scores := rfl
@[simp] theorem setIommu_mem (e : Nat) (v : Iommu) : (s.setIommu e v).mem = s.mem := rfl
@[simp] theorem setIommu_pma (e : Nat) (v : Iommu) : (s.setIommu e v).pma = s.pma := rfl
@[simp] theorem setIommu_coh (e : Nat) (v : Iommu) : (s.setIommu e v).coh = s.coh := rfl
@[simp] theorem setIommu_mesh (e : Nat) (v : Iommu) : (s.setIommu e v).mesh = s.mesh := rfl
@[simp] theorem setIommu_dram (e : Nat) (v : Iommu) : (s.setIommu e v).dram = s.dram := rfl
@[simp] theorem setIommu_graop (e : Nat) (v : Iommu) : (s.setIommu e v).graop = s.graop := rfl
@[simp] theorem setIommu_eng (e : Nat) (v : Iommu) : (s.setIommu e v).eng = s.eng := rfl
@[simp] theorem setIommu_irq (e : Nat) (v : Iommu) : (s.setIommu e v).irq = s.irq := rfl
@[simp] theorem setIommu_perf (e : Nat) (v : Iommu) : (s.setIommu e v).perf = s.perf := rfl
@[simp] theorem setIommu_ren (e : Nat) (v : Iommu) : (s.setIommu e v).ren = s.ren := rfl
@[simp] theorem setIommu_pow (e : Nat) (v : Iommu) : (s.setIommu e v).pow = s.pow := rfl
@[simp] theorem setIommu_brine (e : Nat) (v : Iommu) : (s.setIommu e v).brine = s.brine := rfl
@[simp] theorem setIommu_sec (e : Nat) (v : Iommu) : (s.setIommu e v).sec = s.sec := rfl
@[simp] theorem setIommu_err (e : Nat) (v : Iommu) : (s.setIommu e v).err = s.err := rfl
@[simp] theorem setIommu_pcie (e : Nat) (v : Iommu) : (s.setIommu e v).pcie = s.pcie := rfl
@[simp] theorem setIommu_plat (e : Nat) (v : Iommu) : (s.setIommu e v).plat = s.plat := rfl
@[simp] theorem setIommu_phase (e : Nat) (v : Iommu) : (s.setIommu e v).phase = s.phase := rfl
@[simp] theorem setIommu_time (e : Nat) (v : Iommu) : (s.setIommu e v).time = s.time := rfl
@[simp] theorem setIommu_free (e : Nat) (v : Iommu) : (s.setIommu e v).free = s.free := rfl
@[simp] theorem setIommu_pending (e : Nat) (v : Iommu) : (s.setIommu e v).pending = s.pending := rfl

/-! ### setMb -/

@[simp] theorem setMb_tcores (n : Nat) (v : Mbox) : (s.setMb n v).tcores = s.tcores := rfl
@[simp] theorem setMb_scores (n : Nat) (v : Mbox) : (s.setMb n v).scores = s.scores := rfl
@[simp] theorem setMb_mem (n : Nat) (v : Mbox) : (s.setMb n v).mem = s.mem := rfl
@[simp] theorem setMb_pma (n : Nat) (v : Mbox) : (s.setMb n v).pma = s.pma := rfl
@[simp] theorem setMb_coh (n : Nat) (v : Mbox) : (s.setMb n v).coh = s.coh := rfl
@[simp] theorem setMb_mesh (n : Nat) (v : Mbox) : (s.setMb n v).mesh = s.mesh := rfl
@[simp] theorem setMb_dram (n : Nat) (v : Mbox) : (s.setMb n v).dram = s.dram := rfl
@[simp] theorem setMb_iommu (n : Nat) (v : Mbox) : (s.setMb n v).iommu = s.iommu := rfl
@[simp] theorem setMb_graop (n : Nat) (v : Mbox) : (s.setMb n v).graop = s.graop := rfl
@[simp] theorem setMb_eng (n : Nat) (v : Mbox) : (s.setMb n v).eng = s.eng := rfl
@[simp] theorem setMb_irq (n : Nat) (v : Mbox) : (s.setMb n v).irq = s.irq := rfl
@[simp] theorem setMb_perf (n : Nat) (v : Mbox) : (s.setMb n v).perf = s.perf := rfl
@[simp] theorem setMb_pow (n : Nat) (v : Mbox) : (s.setMb n v).pow = s.pow := rfl
@[simp] theorem setMb_brine (n : Nat) (v : Mbox) : (s.setMb n v).brine = s.brine := rfl
@[simp] theorem setMb_sec (n : Nat) (v : Mbox) : (s.setMb n v).sec = s.sec := rfl
@[simp] theorem setMb_err (n : Nat) (v : Mbox) : (s.setMb n v).err = s.err := rfl
@[simp] theorem setMb_pcie (n : Nat) (v : Mbox) : (s.setMb n v).pcie = s.pcie := rfl
@[simp] theorem setMb_plat (n : Nat) (v : Mbox) : (s.setMb n v).plat = s.plat := rfl
@[simp] theorem setMb_phase (n : Nat) (v : Mbox) : (s.setMb n v).phase = s.phase := rfl
@[simp] theorem setMb_time (n : Nat) (v : Mbox) : (s.setMb n v).time = s.time := rfl
@[simp] theorem setMb_free (n : Nat) (v : Mbox) : (s.setMb n v).free = s.free := rfl
@[simp] theorem setMb_pending (n : Nat) (v : Mbox) : (s.setMb n v).pending = s.pending := rfl

/-! ### setSource -/

@[simp] theorem setSource_tcores (n : Nat) (v : Source) : (s.setSource n v).tcores = s.tcores := rfl
@[simp] theorem setSource_scores (n : Nat) (v : Source) : (s.setSource n v).scores = s.scores := rfl
@[simp] theorem setSource_mem (n : Nat) (v : Source) : (s.setSource n v).mem = s.mem := rfl
@[simp] theorem setSource_pma (n : Nat) (v : Source) : (s.setSource n v).pma = s.pma := rfl
@[simp] theorem setSource_coh (n : Nat) (v : Source) : (s.setSource n v).coh = s.coh := rfl
@[simp] theorem setSource_mesh (n : Nat) (v : Source) : (s.setSource n v).mesh = s.mesh := rfl
@[simp] theorem setSource_dram (n : Nat) (v : Source) : (s.setSource n v).dram = s.dram := rfl
@[simp] theorem setSource_iommu (n : Nat) (v : Source) : (s.setSource n v).iommu = s.iommu := rfl
@[simp] theorem setSource_graop (n : Nat) (v : Source) : (s.setSource n v).graop = s.graop := rfl
@[simp] theorem setSource_eng (n : Nat) (v : Source) : (s.setSource n v).eng = s.eng := rfl
@[simp] theorem setSource_perf (n : Nat) (v : Source) : (s.setSource n v).perf = s.perf := rfl
@[simp] theorem setSource_ren (n : Nat) (v : Source) : (s.setSource n v).ren = s.ren := rfl
@[simp] theorem setSource_pow (n : Nat) (v : Source) : (s.setSource n v).pow = s.pow := rfl
@[simp] theorem setSource_brine (n : Nat) (v : Source) : (s.setSource n v).brine = s.brine := rfl
@[simp] theorem setSource_sec (n : Nat) (v : Source) : (s.setSource n v).sec = s.sec := rfl
@[simp] theorem setSource_err (n : Nat) (v : Source) : (s.setSource n v).err = s.err := rfl
@[simp] theorem setSource_pcie (n : Nat) (v : Source) : (s.setSource n v).pcie = s.pcie := rfl
@[simp] theorem setSource_plat (n : Nat) (v : Source) : (s.setSource n v).plat = s.plat := rfl
@[simp] theorem setSource_phase (n : Nat) (v : Source) : (s.setSource n v).phase = s.phase := rfl
@[simp] theorem setSource_time (n : Nat) (v : Source) : (s.setSource n v).time = s.time := rfl
@[simp] theorem setSource_free (n : Nat) (v : Source) : (s.setSource n v).free = s.free := rfl
@[simp] theorem setSource_pending (n : Nat) (v : Source) : (s.setSource n v).pending = s.pending := rfl

/-! ### setLadle -/

@[simp] theorem setLadle_tcores (v : Ladle) : (s.setLadle v).tcores = s.tcores := rfl
@[simp] theorem setLadle_scores (v : Ladle) : (s.setLadle v).scores = s.scores := rfl
@[simp] theorem setLadle_mem (v : Ladle) : (s.setLadle v).mem = s.mem := rfl
@[simp] theorem setLadle_pma (v : Ladle) : (s.setLadle v).pma = s.pma := rfl
@[simp] theorem setLadle_coh (v : Ladle) : (s.setLadle v).coh = s.coh := rfl
@[simp] theorem setLadle_mesh (v : Ladle) : (s.setLadle v).mesh = s.mesh := rfl
@[simp] theorem setLadle_dram (v : Ladle) : (s.setLadle v).dram = s.dram := rfl
@[simp] theorem setLadle_iommu (v : Ladle) : (s.setLadle v).iommu = s.iommu := rfl
@[simp] theorem setLadle_graop (v : Ladle) : (s.setLadle v).graop = s.graop := rfl
@[simp] theorem setLadle_eng (v : Ladle) : (s.setLadle v).eng = s.eng := rfl
@[simp] theorem setLadle_irq (v : Ladle) : (s.setLadle v).irq = s.irq := rfl
@[simp] theorem setLadle_ren (v : Ladle) : (s.setLadle v).ren = s.ren := rfl
@[simp] theorem setLadle_pow (v : Ladle) : (s.setLadle v).pow = s.pow := rfl
@[simp] theorem setLadle_brine (v : Ladle) : (s.setLadle v).brine = s.brine := rfl
@[simp] theorem setLadle_sec (v : Ladle) : (s.setLadle v).sec = s.sec := rfl
@[simp] theorem setLadle_err (v : Ladle) : (s.setLadle v).err = s.err := rfl
@[simp] theorem setLadle_pcie (v : Ladle) : (s.setLadle v).pcie = s.pcie := rfl
@[simp] theorem setLadle_plat (v : Ladle) : (s.setLadle v).plat = s.plat := rfl
@[simp] theorem setLadle_phase (v : Ladle) : (s.setLadle v).phase = s.phase := rfl
@[simp] theorem setLadle_time (v : Ladle) : (s.setLadle v).time = s.time := rfl
@[simp] theorem setLadle_free (v : Ladle) : (s.setLadle v).free = s.free := rfl
@[simp] theorem setLadle_pending (v : Ladle) : (s.setLadle v).pending = s.pending := rfl

/-! ### setErrBank -/

@[simp] theorem setErrBank_tcores (n : Nat) (v : ErrBank) : (s.setErrBank n v).tcores = s.tcores := rfl
@[simp] theorem setErrBank_scores (n : Nat) (v : ErrBank) : (s.setErrBank n v).scores = s.scores := rfl
@[simp] theorem setErrBank_mem (n : Nat) (v : ErrBank) : (s.setErrBank n v).mem = s.mem := rfl
@[simp] theorem setErrBank_pma (n : Nat) (v : ErrBank) : (s.setErrBank n v).pma = s.pma := rfl
@[simp] theorem setErrBank_coh (n : Nat) (v : ErrBank) : (s.setErrBank n v).coh = s.coh := rfl
@[simp] theorem setErrBank_mesh (n : Nat) (v : ErrBank) : (s.setErrBank n v).mesh = s.mesh := rfl
@[simp] theorem setErrBank_dram (n : Nat) (v : ErrBank) : (s.setErrBank n v).dram = s.dram := rfl
@[simp] theorem setErrBank_iommu (n : Nat) (v : ErrBank) : (s.setErrBank n v).iommu = s.iommu := rfl
@[simp] theorem setErrBank_graop (n : Nat) (v : ErrBank) : (s.setErrBank n v).graop = s.graop := rfl
@[simp] theorem setErrBank_eng (n : Nat) (v : ErrBank) : (s.setErrBank n v).eng = s.eng := rfl
@[simp] theorem setErrBank_irq (n : Nat) (v : ErrBank) : (s.setErrBank n v).irq = s.irq := rfl
@[simp] theorem setErrBank_perf (n : Nat) (v : ErrBank) : (s.setErrBank n v).perf = s.perf := rfl
@[simp] theorem setErrBank_ren (n : Nat) (v : ErrBank) : (s.setErrBank n v).ren = s.ren := rfl
@[simp] theorem setErrBank_pow (n : Nat) (v : ErrBank) : (s.setErrBank n v).pow = s.pow := rfl
@[simp] theorem setErrBank_brine (n : Nat) (v : ErrBank) : (s.setErrBank n v).brine = s.brine := rfl
@[simp] theorem setErrBank_sec (n : Nat) (v : ErrBank) : (s.setErrBank n v).sec = s.sec := rfl
@[simp] theorem setErrBank_pcie (n : Nat) (v : ErrBank) : (s.setErrBank n v).pcie = s.pcie := rfl
@[simp] theorem setErrBank_plat (n : Nat) (v : ErrBank) : (s.setErrBank n v).plat = s.plat := rfl
@[simp] theorem setErrBank_phase (n : Nat) (v : ErrBank) : (s.setErrBank n v).phase = s.phase := rfl
@[simp] theorem setErrBank_time (n : Nat) (v : ErrBank) : (s.setErrBank n v).time = s.time := rfl
@[simp] theorem setErrBank_free (n : Nat) (v : ErrBank) : (s.setErrBank n v).free = s.free := rfl
@[simp] theorem setErrBank_pending (n : Nat) (v : ErrBank) : (s.setErrBank n v).pending = s.pending := rfl

variable (c : Hart)

/-! ### Hart.setX -/

@[simp] theorem setX_f (r : Nat) (v : Word) : (c.setX r v).f = c.f := by unfold Hart.setX; split <;> rfl
@[simp] theorem setX_v (r : Nat) (v : Word) : (c.setX r v).v = c.v := by unfold Hart.setX; split <;> rfl
@[simp] theorem setX_pc (r : Nat) (v : Word) : (c.setX r v).pc = c.pc := by unfold Hart.setX; split <;> rfl
@[simp] theorem setX_mode (r : Nat) (v : Word) : (c.setX r v).mode = c.mode := by unfold Hart.setX; split <;> rfl
@[simp] theorem setX_csr (r : Nat) (v : Word) : (c.setX r v).csr = c.csr := by unfold Hart.setX; split <;> rfl
@[simp] theorem setX_seq (r : Nat) (v : Word) : (c.setX r v).seq = c.seq := by unfold Hart.setX; split <;> rfl
@[simp] theorem setX_clock (r : Nat) (v : Word) : (c.setX r v).clock = c.clock := by unfold Hart.setX; split <;> rfl
@[simp] theorem setX_ready (r : Nat) (v : Word) : (c.setX r v).ready = c.ready := by unfold Hart.setX; split <;> rfl
@[simp] theorem setX_sb (r : Nat) (v : Word) : (c.setX r v).sb = c.sb := by unfold Hart.setX; split <;> rfl
@[simp] theorem setX_early (r : Nat) (v : Word) : (c.setX r v).early = c.early := by unfold Hart.setX; split <;> rfl
@[simp] theorem setX_track (r : Nat) (v : Word) : (c.setX r v).track = c.track := by unfold Hart.setX; split <;> rfl
@[simp] theorem setX_uload (r : Nat) (v : Word) : (c.setX r v).uload = c.uload := by unfold Hart.setX; split <;> rfl
@[simp] theorem setX_late (r : Nat) (v : Word) : (c.setX r v).late = c.late := by unfold Hart.setX; split <;> rfl
@[simp] theorem setX_begun (r : Nat) (v : Word) : (c.setX r v).begun = c.begun := by unfold Hart.setX; split <;> rfl
@[simp] theorem setX_dl1 (r : Nat) (v : Word) : (c.setX r v).dl1 = c.dl1 := by unfold Hart.setX; split <;> rfl
@[simp] theorem setX_il1 (r : Nat) (v : Word) : (c.setX r v).il1 = c.il1 := by unfold Hart.setX; split <;> rfl
@[simp] theorem setX_dtree (r : Nat) (v : Word) : (c.setX r v).dtree = c.dtree := by unfold Hart.setX; split <;> rfl
@[simp] theorem setX_itree (r : Nat) (v : Word) : (c.setX r v).itree = c.itree := by unfold Hart.setX; split <;> rfl
@[simp] theorem setX_dfill (r : Nat) (v : Word) : (c.setX r v).dfill = c.dfill := by unfold Hart.setX; split <;> rfl
@[simp] theorem setX_ifill (r : Nat) (v : Word) : (c.setX r v).ifill = c.ifill := by unfold Hart.setX; split <;> rfl
@[simp] theorem setX_uacc (r : Nat) (v : Word) : (c.setX r v).uacc = c.uacc := by unfold Hart.setX; split <;> rfl
@[simp] theorem setX_resv (r : Nat) (v : Word) : (c.setX r v).resv = c.resv := by unfold Hart.setX; split <;> rfl
@[simp] theorem setX_fence (r : Nat) (v : Word) : (c.setX r v).fence = c.fence := by unfold Hart.setX; split <;> rfl
@[simp] theorem setX_wfences (r : Nat) (v : Word) : (c.setX r v).wfences = c.wfences := by unfold Hart.setX; split <;> rfl
@[simp] theorem setX_idle (r : Nat) (v : Word) : (c.setX r v).idle = c.idle := by unfold Hart.setX; split <;> rfl
@[simp] theorem setX_since (r : Nat) (v : Word) : (c.setX r v).since = c.since := by unfold Hart.setX; split <;> rfl
@[simp] theorem setX_pred (r : Nat) (v : Word) : (c.setX r v).pred = c.pred := by unfold Hart.setX; split <;> rfl
@[simp] theorem setX_itlb (r : Nat) (v : Word) : (c.setX r v).itlb = c.itlb := by unfold Hart.setX; split <;> rfl
@[simp] theorem setX_dtlb (r : Nat) (v : Word) : (c.setX r v).dtlb = c.dtlb := by unfold Hart.setX; split <;> rfl
@[simp] theorem setX_tlb (r : Nat) (v : Word) : (c.setX r v).tlb = c.tlb := by unfold Hart.setX; split <;> rfl
@[simp] theorem setX_wcache (r : Nat) (v : Word) : (c.setX r v).wcache = c.wcache := by unfold Hart.setX; split <;> rfl
@[simp] theorem setX_gcache (r : Nat) (v : Word) : (c.setX r v).gcache = c.gcache := by unfold Hart.setX; split <;> rfl
@[simp] theorem setX_walks (r : Nat) (v : Word) : (c.setX r v).walks = c.walks := by unfold Hart.setX; split <;> rfl
@[simp] theorem setX_wreqs (r : Nat) (v : Word) : (c.setX r v).wreqs = c.wreqs := by unfold Hart.setX; split <;> rfl
@[simp] theorem setX_pfL1 (r : Nat) (v : Word) : (c.setX r v).pfL1 = c.pfL1 := by unfold Hart.setX; split <;> rfl
@[simp] theorem setX_pfL2 (r : Nat) (v : Word) : (c.setX r v).pfL2 = c.pfL2 := by unfold Hart.setX; split <;> rfl
@[simp] theorem setX_wfaults (r : Nat) (v : Word) : (c.setX r v).wfaults = c.wfaults := by unfold Hart.setX; split <;> rfl
@[simp] theorem setX_held (r : Nat) (v : Word) : (c.setX r v).held = c.held := by unfold Hart.setX; split <;> rfl
@[simp] theorem setX_fatal (r : Nat) (v : Word) : (c.setX r v).fatal = c.fatal := by unfold Hart.setX; split <;> rfl
@[simp] theorem setX_rstBusy (r : Nat) (v : Word) : (c.setX r v).rstBusy = c.rstBusy := by unfold Hart.setX; split <;> rfl
@[simp] theorem setX_rvec (r : Nat) (v : Word) : (c.setX r v).rvec = c.rvec := by unfold Hart.setX; split <;> rfl
@[simp] theorem setX_stopped (r : Nat) (v : Word) : (c.setX r v).stopped = c.stopped := by unfold Hart.setX; split <;> rfl
@[simp] theorem setX_halted (r : Nat) (v : Word) : (c.setX r v).halted = c.halted := by unfold Hart.setX; split <;> rfl
@[simp] theorem setX_haltReq (r : Nat) (v : Word) : (c.setX r v).haltReq = c.haltReq := by unfold Hart.setX; split <;> rfl
@[simp] theorem setX_stepAt (r : Nat) (v : Word) : (c.setX r v).stepAt = c.stepAt := by unfold Hart.setX; split <;> rfl
@[simp] theorem setX_haltGroup (r : Nat) (v : Word) : (c.setX r v).haltGroup = c.haltGroup := by unfold Hart.setX; split <;> rfl
@[simp] theorem setX_setResetHalt (r : Nat) (v : Word) : (c.setX r v).setResetHalt = c.setResetHalt := by unfold Hart.setX; split <;> rfl
@[simp] theorem setX_haveReset (r : Nat) (v : Word) : (c.setX r v).haveReset = c.haveReset := by unfold Hart.setX; split <;> rfl
@[simp] theorem setX_entry (r : Nat) (v : Word) : (c.setX r v).entry = c.entry := by unfold Hart.setX; split <;> rfl
@[simp] theorem setX_tol (r : Nat) (v : Word) : (c.setX r v).tol = c.tol := by unfold Hart.setX; split <;> rfl
@[simp] theorem setX_maxc (r : Nat) (v : Word) : (c.setX r v).maxc = c.maxc := by unfold Hart.setX; split <;> rfl
@[simp] theorem setX_ceil (r : Nat) (v : Word) : (c.setX r v).ceil = c.ceil := by unfold Hart.setX; split <;> rfl

/-! ### Hart.setF -/

@[simp] theorem setF_x (r : Nat) (v : Word) : (c.setF r v).x = c.x := rfl
@[simp] theorem setF_v (r : Nat) (v : Word) : (c.setF r v).v = c.v := rfl
@[simp] theorem setF_pc (r : Nat) (v : Word) : (c.setF r v).pc = c.pc := rfl
@[simp] theorem setF_mode (r : Nat) (v : Word) : (c.setF r v).mode = c.mode := rfl
@[simp] theorem setF_csr (r : Nat) (v : Word) : (c.setF r v).csr = c.csr := rfl
@[simp] theorem setF_seq (r : Nat) (v : Word) : (c.setF r v).seq = c.seq := rfl
@[simp] theorem setF_clock (r : Nat) (v : Word) : (c.setF r v).clock = c.clock := rfl
@[simp] theorem setF_ready (r : Nat) (v : Word) : (c.setF r v).ready = c.ready := rfl
@[simp] theorem setF_sb (r : Nat) (v : Word) : (c.setF r v).sb = c.sb := rfl
@[simp] theorem setF_early (r : Nat) (v : Word) : (c.setF r v).early = c.early := rfl
@[simp] theorem setF_track (r : Nat) (v : Word) : (c.setF r v).track = c.track := rfl
@[simp] theorem setF_uload (r : Nat) (v : Word) : (c.setF r v).uload = c.uload := rfl
@[simp] theorem setF_late (r : Nat) (v : Word) : (c.setF r v).late = c.late := rfl
@[simp] theorem setF_begun (r : Nat) (v : Word) : (c.setF r v).begun = c.begun := rfl
@[simp] theorem setF_dl1 (r : Nat) (v : Word) : (c.setF r v).dl1 = c.dl1 := rfl
@[simp] theorem setF_il1 (r : Nat) (v : Word) : (c.setF r v).il1 = c.il1 := rfl
@[simp] theorem setF_dtree (r : Nat) (v : Word) : (c.setF r v).dtree = c.dtree := rfl
@[simp] theorem setF_itree (r : Nat) (v : Word) : (c.setF r v).itree = c.itree := rfl
@[simp] theorem setF_dfill (r : Nat) (v : Word) : (c.setF r v).dfill = c.dfill := rfl
@[simp] theorem setF_ifill (r : Nat) (v : Word) : (c.setF r v).ifill = c.ifill := rfl
@[simp] theorem setF_uacc (r : Nat) (v : Word) : (c.setF r v).uacc = c.uacc := rfl
@[simp] theorem setF_resv (r : Nat) (v : Word) : (c.setF r v).resv = c.resv := rfl
@[simp] theorem setF_fence (r : Nat) (v : Word) : (c.setF r v).fence = c.fence := rfl
@[simp] theorem setF_wfences (r : Nat) (v : Word) : (c.setF r v).wfences = c.wfences := rfl
@[simp] theorem setF_idle (r : Nat) (v : Word) : (c.setF r v).idle = c.idle := rfl
@[simp] theorem setF_since (r : Nat) (v : Word) : (c.setF r v).since = c.since := rfl
@[simp] theorem setF_pred (r : Nat) (v : Word) : (c.setF r v).pred = c.pred := rfl
@[simp] theorem setF_itlb (r : Nat) (v : Word) : (c.setF r v).itlb = c.itlb := rfl
@[simp] theorem setF_dtlb (r : Nat) (v : Word) : (c.setF r v).dtlb = c.dtlb := rfl
@[simp] theorem setF_tlb (r : Nat) (v : Word) : (c.setF r v).tlb = c.tlb := rfl
@[simp] theorem setF_wcache (r : Nat) (v : Word) : (c.setF r v).wcache = c.wcache := rfl
@[simp] theorem setF_gcache (r : Nat) (v : Word) : (c.setF r v).gcache = c.gcache := rfl
@[simp] theorem setF_walks (r : Nat) (v : Word) : (c.setF r v).walks = c.walks := rfl
@[simp] theorem setF_wreqs (r : Nat) (v : Word) : (c.setF r v).wreqs = c.wreqs := rfl
@[simp] theorem setF_pfL1 (r : Nat) (v : Word) : (c.setF r v).pfL1 = c.pfL1 := rfl
@[simp] theorem setF_pfL2 (r : Nat) (v : Word) : (c.setF r v).pfL2 = c.pfL2 := rfl
@[simp] theorem setF_wfaults (r : Nat) (v : Word) : (c.setF r v).wfaults = c.wfaults := rfl
@[simp] theorem setF_held (r : Nat) (v : Word) : (c.setF r v).held = c.held := rfl
@[simp] theorem setF_fatal (r : Nat) (v : Word) : (c.setF r v).fatal = c.fatal := rfl
@[simp] theorem setF_rstBusy (r : Nat) (v : Word) : (c.setF r v).rstBusy = c.rstBusy := rfl
@[simp] theorem setF_rvec (r : Nat) (v : Word) : (c.setF r v).rvec = c.rvec := rfl
@[simp] theorem setF_stopped (r : Nat) (v : Word) : (c.setF r v).stopped = c.stopped := rfl
@[simp] theorem setF_halted (r : Nat) (v : Word) : (c.setF r v).halted = c.halted := rfl
@[simp] theorem setF_haltReq (r : Nat) (v : Word) : (c.setF r v).haltReq = c.haltReq := rfl
@[simp] theorem setF_stepAt (r : Nat) (v : Word) : (c.setF r v).stepAt = c.stepAt := rfl
@[simp] theorem setF_haltGroup (r : Nat) (v : Word) : (c.setF r v).haltGroup = c.haltGroup := rfl
@[simp] theorem setF_setResetHalt (r : Nat) (v : Word) : (c.setF r v).setResetHalt = c.setResetHalt := rfl
@[simp] theorem setF_haveReset (r : Nat) (v : Word) : (c.setF r v).haveReset = c.haveReset := rfl
@[simp] theorem setF_entry (r : Nat) (v : Word) : (c.setF r v).entry = c.entry := rfl
@[simp] theorem setF_tol (r : Nat) (v : Word) : (c.setF r v).tol = c.tol := rfl
@[simp] theorem setF_maxc (r : Nat) (v : Word) : (c.setF r v).maxc = c.maxc := rfl
@[simp] theorem setF_ceil (r : Nat) (v : Word) : (c.setF r v).ceil = c.ceil := rfl

/-! ### Hart.setV -/

@[simp] theorem setV_x (r : Nat) (v : BitVec 256) : (c.setV r v).x = c.x := rfl
@[simp] theorem setV_f (r : Nat) (v : BitVec 256) : (c.setV r v).f = c.f := rfl
@[simp] theorem setV_pc (r : Nat) (v : BitVec 256) : (c.setV r v).pc = c.pc := rfl
@[simp] theorem setV_mode (r : Nat) (v : BitVec 256) : (c.setV r v).mode = c.mode := rfl
@[simp] theorem setV_csr (r : Nat) (v : BitVec 256) : (c.setV r v).csr = c.csr := rfl
@[simp] theorem setV_seq (r : Nat) (v : BitVec 256) : (c.setV r v).seq = c.seq := rfl
@[simp] theorem setV_clock (r : Nat) (v : BitVec 256) : (c.setV r v).clock = c.clock := rfl
@[simp] theorem setV_ready (r : Nat) (v : BitVec 256) : (c.setV r v).ready = c.ready := rfl
@[simp] theorem setV_sb (r : Nat) (v : BitVec 256) : (c.setV r v).sb = c.sb := rfl
@[simp] theorem setV_early (r : Nat) (v : BitVec 256) : (c.setV r v).early = c.early := rfl
@[simp] theorem setV_track (r : Nat) (v : BitVec 256) : (c.setV r v).track = c.track := rfl
@[simp] theorem setV_uload (r : Nat) (v : BitVec 256) : (c.setV r v).uload = c.uload := rfl
@[simp] theorem setV_late (r : Nat) (v : BitVec 256) : (c.setV r v).late = c.late := rfl
@[simp] theorem setV_begun (r : Nat) (v : BitVec 256) : (c.setV r v).begun = c.begun := rfl
@[simp] theorem setV_dl1 (r : Nat) (v : BitVec 256) : (c.setV r v).dl1 = c.dl1 := rfl
@[simp] theorem setV_il1 (r : Nat) (v : BitVec 256) : (c.setV r v).il1 = c.il1 := rfl
@[simp] theorem setV_dtree (r : Nat) (v : BitVec 256) : (c.setV r v).dtree = c.dtree := rfl
@[simp] theorem setV_itree (r : Nat) (v : BitVec 256) : (c.setV r v).itree = c.itree := rfl
@[simp] theorem setV_dfill (r : Nat) (v : BitVec 256) : (c.setV r v).dfill = c.dfill := rfl
@[simp] theorem setV_ifill (r : Nat) (v : BitVec 256) : (c.setV r v).ifill = c.ifill := rfl
@[simp] theorem setV_uacc (r : Nat) (v : BitVec 256) : (c.setV r v).uacc = c.uacc := rfl
@[simp] theorem setV_resv (r : Nat) (v : BitVec 256) : (c.setV r v).resv = c.resv := rfl
@[simp] theorem setV_fence (r : Nat) (v : BitVec 256) : (c.setV r v).fence = c.fence := rfl
@[simp] theorem setV_wfences (r : Nat) (v : BitVec 256) : (c.setV r v).wfences = c.wfences := rfl
@[simp] theorem setV_idle (r : Nat) (v : BitVec 256) : (c.setV r v).idle = c.idle := rfl
@[simp] theorem setV_since (r : Nat) (v : BitVec 256) : (c.setV r v).since = c.since := rfl
@[simp] theorem setV_pred (r : Nat) (v : BitVec 256) : (c.setV r v).pred = c.pred := rfl
@[simp] theorem setV_itlb (r : Nat) (v : BitVec 256) : (c.setV r v).itlb = c.itlb := rfl
@[simp] theorem setV_dtlb (r : Nat) (v : BitVec 256) : (c.setV r v).dtlb = c.dtlb := rfl
@[simp] theorem setV_tlb (r : Nat) (v : BitVec 256) : (c.setV r v).tlb = c.tlb := rfl
@[simp] theorem setV_wcache (r : Nat) (v : BitVec 256) : (c.setV r v).wcache = c.wcache := rfl
@[simp] theorem setV_gcache (r : Nat) (v : BitVec 256) : (c.setV r v).gcache = c.gcache := rfl
@[simp] theorem setV_walks (r : Nat) (v : BitVec 256) : (c.setV r v).walks = c.walks := rfl
@[simp] theorem setV_wreqs (r : Nat) (v : BitVec 256) : (c.setV r v).wreqs = c.wreqs := rfl
@[simp] theorem setV_pfL1 (r : Nat) (v : BitVec 256) : (c.setV r v).pfL1 = c.pfL1 := rfl
@[simp] theorem setV_pfL2 (r : Nat) (v : BitVec 256) : (c.setV r v).pfL2 = c.pfL2 := rfl
@[simp] theorem setV_wfaults (r : Nat) (v : BitVec 256) : (c.setV r v).wfaults = c.wfaults := rfl
@[simp] theorem setV_held (r : Nat) (v : BitVec 256) : (c.setV r v).held = c.held := rfl
@[simp] theorem setV_fatal (r : Nat) (v : BitVec 256) : (c.setV r v).fatal = c.fatal := rfl
@[simp] theorem setV_rstBusy (r : Nat) (v : BitVec 256) : (c.setV r v).rstBusy = c.rstBusy := rfl
@[simp] theorem setV_rvec (r : Nat) (v : BitVec 256) : (c.setV r v).rvec = c.rvec := rfl
@[simp] theorem setV_stopped (r : Nat) (v : BitVec 256) : (c.setV r v).stopped = c.stopped := rfl
@[simp] theorem setV_halted (r : Nat) (v : BitVec 256) : (c.setV r v).halted = c.halted := rfl
@[simp] theorem setV_haltReq (r : Nat) (v : BitVec 256) : (c.setV r v).haltReq = c.haltReq := rfl
@[simp] theorem setV_stepAt (r : Nat) (v : BitVec 256) : (c.setV r v).stepAt = c.stepAt := rfl
@[simp] theorem setV_haltGroup (r : Nat) (v : BitVec 256) : (c.setV r v).haltGroup = c.haltGroup := rfl
@[simp] theorem setV_setResetHalt (r : Nat) (v : BitVec 256) : (c.setV r v).setResetHalt = c.setResetHalt := rfl
@[simp] theorem setV_haveReset (r : Nat) (v : BitVec 256) : (c.setV r v).haveReset = c.haveReset := rfl
@[simp] theorem setV_entry (r : Nat) (v : BitVec 256) : (c.setV r v).entry = c.entry := rfl
@[simp] theorem setV_tol (r : Nat) (v : BitVec 256) : (c.setV r v).tol = c.tol := rfl
@[simp] theorem setV_maxc (r : Nat) (v : BitVec 256) : (c.setV r v).maxc = c.maxc := rfl
@[simp] theorem setV_ceil (r : Nat) (v : BitVec 256) : (c.setV r v).ceil = c.ceil := rfl

/-! ### Hart.csrPut -/

@[simp] theorem csrPut_x (n : Nat) (v : Word) : (c.csrPut n v).x = c.x := rfl
@[simp] theorem csrPut_f (n : Nat) (v : Word) : (c.csrPut n v).f = c.f := rfl
@[simp] theorem csrPut_v (n : Nat) (v : Word) : (c.csrPut n v).v = c.v := rfl
@[simp] theorem csrPut_pc (n : Nat) (v : Word) : (c.csrPut n v).pc = c.pc := rfl
@[simp] theorem csrPut_mode (n : Nat) (v : Word) : (c.csrPut n v).mode = c.mode := rfl
@[simp] theorem csrPut_seq (n : Nat) (v : Word) : (c.csrPut n v).seq = c.seq := rfl
@[simp] theorem csrPut_clock (n : Nat) (v : Word) : (c.csrPut n v).clock = c.clock := rfl
@[simp] theorem csrPut_ready (n : Nat) (v : Word) : (c.csrPut n v).ready = c.ready := rfl
@[simp] theorem csrPut_sb (n : Nat) (v : Word) : (c.csrPut n v).sb = c.sb := rfl
@[simp] theorem csrPut_early (n : Nat) (v : Word) : (c.csrPut n v).early = c.early := rfl
@[simp] theorem csrPut_track (n : Nat) (v : Word) : (c.csrPut n v).track = c.track := rfl
@[simp] theorem csrPut_uload (n : Nat) (v : Word) : (c.csrPut n v).uload = c.uload := rfl
@[simp] theorem csrPut_late (n : Nat) (v : Word) : (c.csrPut n v).late = c.late := rfl
@[simp] theorem csrPut_begun (n : Nat) (v : Word) : (c.csrPut n v).begun = c.begun := rfl
@[simp] theorem csrPut_dl1 (n : Nat) (v : Word) : (c.csrPut n v).dl1 = c.dl1 := rfl
@[simp] theorem csrPut_il1 (n : Nat) (v : Word) : (c.csrPut n v).il1 = c.il1 := rfl
@[simp] theorem csrPut_dtree (n : Nat) (v : Word) : (c.csrPut n v).dtree = c.dtree := rfl
@[simp] theorem csrPut_itree (n : Nat) (v : Word) : (c.csrPut n v).itree = c.itree := rfl
@[simp] theorem csrPut_dfill (n : Nat) (v : Word) : (c.csrPut n v).dfill = c.dfill := rfl
@[simp] theorem csrPut_ifill (n : Nat) (v : Word) : (c.csrPut n v).ifill = c.ifill := rfl
@[simp] theorem csrPut_uacc (n : Nat) (v : Word) : (c.csrPut n v).uacc = c.uacc := rfl
@[simp] theorem csrPut_resv (n : Nat) (v : Word) : (c.csrPut n v).resv = c.resv := rfl
@[simp] theorem csrPut_fence (n : Nat) (v : Word) : (c.csrPut n v).fence = c.fence := rfl
@[simp] theorem csrPut_wfences (n : Nat) (v : Word) : (c.csrPut n v).wfences = c.wfences := rfl
@[simp] theorem csrPut_idle (n : Nat) (v : Word) : (c.csrPut n v).idle = c.idle := rfl
@[simp] theorem csrPut_since (n : Nat) (v : Word) : (c.csrPut n v).since = c.since := rfl
@[simp] theorem csrPut_pred (n : Nat) (v : Word) : (c.csrPut n v).pred = c.pred := rfl
@[simp] theorem csrPut_itlb (n : Nat) (v : Word) : (c.csrPut n v).itlb = c.itlb := rfl
@[simp] theorem csrPut_dtlb (n : Nat) (v : Word) : (c.csrPut n v).dtlb = c.dtlb := rfl
@[simp] theorem csrPut_tlb (n : Nat) (v : Word) : (c.csrPut n v).tlb = c.tlb := rfl
@[simp] theorem csrPut_wcache (n : Nat) (v : Word) : (c.csrPut n v).wcache = c.wcache := rfl
@[simp] theorem csrPut_gcache (n : Nat) (v : Word) : (c.csrPut n v).gcache = c.gcache := rfl
@[simp] theorem csrPut_walks (n : Nat) (v : Word) : (c.csrPut n v).walks = c.walks := rfl
@[simp] theorem csrPut_wreqs (n : Nat) (v : Word) : (c.csrPut n v).wreqs = c.wreqs := rfl
@[simp] theorem csrPut_pfL1 (n : Nat) (v : Word) : (c.csrPut n v).pfL1 = c.pfL1 := rfl
@[simp] theorem csrPut_pfL2 (n : Nat) (v : Word) : (c.csrPut n v).pfL2 = c.pfL2 := rfl
@[simp] theorem csrPut_wfaults (n : Nat) (v : Word) : (c.csrPut n v).wfaults = c.wfaults := rfl
@[simp] theorem csrPut_held (n : Nat) (v : Word) : (c.csrPut n v).held = c.held := rfl
@[simp] theorem csrPut_fatal (n : Nat) (v : Word) : (c.csrPut n v).fatal = c.fatal := rfl
@[simp] theorem csrPut_rstBusy (n : Nat) (v : Word) : (c.csrPut n v).rstBusy = c.rstBusy := rfl
@[simp] theorem csrPut_rvec (n : Nat) (v : Word) : (c.csrPut n v).rvec = c.rvec := rfl
@[simp] theorem csrPut_stopped (n : Nat) (v : Word) : (c.csrPut n v).stopped = c.stopped := rfl
@[simp] theorem csrPut_halted (n : Nat) (v : Word) : (c.csrPut n v).halted = c.halted := rfl
@[simp] theorem csrPut_haltReq (n : Nat) (v : Word) : (c.csrPut n v).haltReq = c.haltReq := rfl
@[simp] theorem csrPut_stepAt (n : Nat) (v : Word) : (c.csrPut n v).stepAt = c.stepAt := rfl
@[simp] theorem csrPut_haltGroup (n : Nat) (v : Word) : (c.csrPut n v).haltGroup = c.haltGroup := rfl
@[simp] theorem csrPut_setResetHalt (n : Nat) (v : Word) : (c.csrPut n v).setResetHalt = c.setResetHalt := rfl
@[simp] theorem csrPut_haveReset (n : Nat) (v : Word) : (c.csrPut n v).haveReset = c.haveReset := rfl
@[simp] theorem csrPut_entry (n : Nat) (v : Word) : (c.csrPut n v).entry = c.entry := rfl
@[simp] theorem csrPut_tol (n : Nat) (v : Word) : (c.csrPut n v).tol = c.tol := rfl
@[simp] theorem csrPut_maxc (n : Nat) (v : Word) : (c.csrPut n v).maxc = c.maxc := rfl
@[simp] theorem csrPut_ceil (n : Nat) (v : Word) : (c.csrPut n v).ceil = c.ceil := rfl

/-! ### Reading what was written -/

@[simp] theorem getF_setF_same (r : Nat) (v : Word) : (c.setF r v).getF r = v := by simp [Hart.setF, Hart.getF]
theorem getF_setF_ne (r q : Nat) (v : Word) (h : q ≠ r) : (c.setF r v).getF q = c.getF q := by
  simp [Hart.setF, Hart.getF, tabGet_tabSet_ne _ _ _ _ _ h]
@[simp] theorem getV_setV_same (r : Nat) (v : BitVec 256) : (c.setV r v).getV r = v := by simp [Hart.setV, Hart.getV]
theorem getV_setV_ne (r q : Nat) (v : BitVec 256) (h : q ≠ r) : (c.setV r v).getV q = c.getV q := by
  simp [Hart.setV, Hart.getV, tabGet_tabSet_ne _ _ _ _ _ h]

end Sys2Proof.Machine
end

