-- ==== Sys2Proof/Laws/Frames.lean ====
section
/-!
SUPPORT. What the shared operations on the package leave alone: sending and accepting a flit, counting in a bank, notices, wired sources and error
records, and the tables of the home slices and caching agents.
-/
namespace Sys2Proof.Machine

variable (s : State)

/-! ### Counting in a bank changes the bank, and with an overflow the events taken and the mesh (R408, R413) -/

theorem sendAll_eq : ∀ (l : List Flit) (s : State), ∃ m, s.sendAll l = { s with mesh := m }
  | [], s => ⟨s.mesh, rfl⟩
  | f :: l, s => by
    obtain ⟨m, h⟩ := sendAll_eq l (s.send f)
    exact ⟨m, by rw [State.sendAll, h]; rfl⟩

theorem bumpBank_eq (stop b k n : Nat) : ∃ p e m, s.bumpBank stop b k n = { s with perf := p, mesh := m, irq := { s.irq with events := e } } := by
  unfold State.bumpBank
  dsimp only
  split
  · exact ⟨_, s.irq.events, s.mesh, rfl⟩
  · split
    · unfold State.pulseAtStop
      dsimp only
      split
      · unfold State.pulseFrom
        obtain ⟨m, h⟩ := sendAll_eq _ _
        exact ⟨_, _, m, h⟩
      · exact ⟨_, s.irq.events, s.mesh, rfl⟩
    · exact ⟨_, s.irq.events, s.mesh, rfl⟩

theorem foldl_bumpBank_eq (stop b n : Nat) (l : List Nat) :
    ∀ s : State, ∃ p e m, l.foldl (fun s k => s.bumpBank stop b k n) s = { s with perf := p, mesh := m, irq := { s.irq with events := e } } := by
  induction l with
  | nil => exact fun s => ⟨s.perf, s.irq.events, s.mesh, rfl⟩
  | cons k l ih =>
    intro s
    obtain ⟨p, e, m, h⟩ := bumpBank_eq s stop b k n
    obtain ⟨p', e', m', h'⟩ := ih (s.bumpBank stop b k n)
    exact ⟨p', e', m', by rw [List.foldl_cons, h', h]⟩

theorem count_eq (stop b code n : Nat) (c : Option Counted) :
    ∃ p e m, s.count stop b code n c = { s with perf := p, mesh := m, irq := { s.irq with events := e } } := by
  unfold State.count
  split
  · exact ⟨s.perf, s.irq.events, s.mesh, rfl⟩
  · exact foldl_bumpBank_eq stop b n _ s

@[simp] theorem count_tcores (stop b code n : Nat) (c : Option Counted) : (s.count stop b code n c).tcores = s.tcores := by
  obtain ⟨p, e, m, h⟩ := count_eq s stop b code n c; rw [h]
@[simp] theorem count_scores (stop b code n : Nat) (c : Option Counted) : (s.count stop b code n c).scores = s.scores := by
  obtain ⟨p, e, m, h⟩ := count_eq s stop b code n c; rw [h]
@[simp] theorem count_mem (stop b code n : Nat) (c : Option Counted) : (s.count stop b code n c).mem = s.mem := by
  obtain ⟨p, e, m, h⟩ := count_eq s stop b code n c; rw [h]
@[simp] theorem count_pma (stop b code n : Nat) (c : Option Counted) : (s.count stop b code n c).pma = s.pma := by
  obtain ⟨p, e, m, h⟩ := count_eq s stop b code n c; rw [h]
@[simp] theorem count_coh (stop b code n : Nat) (c : Option Counted) : (s.count stop b code n c).coh = s.coh := by
  obtain ⟨p, e, m, h⟩ := count_eq s stop b code n c; rw [h]
@[simp] theorem count_dram (stop b code n : Nat) (c : Option Counted) : (s.count stop b code n c).dram = s.dram := by
  obtain ⟨p, e, m, h⟩ := count_eq s stop b code n c; rw [h]
@[simp] theorem count_iommu (stop b code n : Nat) (c : Option Counted) : (s.count stop b code n c).iommu = s.iommu := by
  obtain ⟨p, e, m, h⟩ := count_eq s stop b code n c; rw [h]
@[simp] theorem count_graop (stop b code n : Nat) (c : Option Counted) : (s.count stop b code n c).graop = s.graop := by
  obtain ⟨p, e, m, h⟩ := count_eq s stop b code n c; rw [h]
@[simp] theorem count_eng (stop b code n : Nat) (c : Option Counted) : (s.count stop b code n c).eng = s.eng := by
  obtain ⟨p, e, m, h⟩ := count_eq s stop b code n c; rw [h]
@[simp] theorem count_ren (stop b code n : Nat) (c : Option Counted) : (s.count stop b code n c).ren = s.ren := by
  obtain ⟨p, e, m, h⟩ := count_eq s stop b code n c; rw [h]
@[simp] theorem count_pow (stop b code n : Nat) (c : Option Counted) : (s.count stop b code n c).pow = s.pow := by
  obtain ⟨p, e, m, h⟩ := count_eq s stop b code n c; rw [h]
@[simp] theorem count_brine (stop b code n : Nat) (c : Option Counted) : (s.count stop b code n c).brine = s.brine := by
  obtain ⟨p, e, m, h⟩ := count_eq s stop b code n c; rw [h]
@[simp] theorem count_sec (stop b code n : Nat) (c : Option Counted) : (s.count stop b code n c).sec = s.sec := by
  obtain ⟨p, e, m, h⟩ := count_eq s stop b code n c; rw [h]
@[simp] theorem count_err (stop b code n : Nat) (c : Option Counted) : (s.count stop b code n c).err = s.err := by
  obtain ⟨p, e, m, h⟩ := count_eq s stop b code n c; rw [h]
@[simp] theorem count_pcie (stop b code n : Nat) (c : Option Counted) : (s.count stop b code n c).pcie = s.pcie := by
  obtain ⟨p, e, m, h⟩ := count_eq s stop b code n c; rw [h]
@[simp] theorem count_plat (stop b code n : Nat) (c : Option Counted) : (s.count stop b code n c).plat = s.plat := by
  obtain ⟨p, e, m, h⟩ := count_eq s stop b code n c; rw [h]
@[simp] theorem count_phase (stop b code n : Nat) (c : Option Counted) : (s.count stop b code n c).phase = s.phase := by
  obtain ⟨p, e, m, h⟩ := count_eq s stop b code n c; rw [h]
@[simp] theorem count_time (stop b code n : Nat) (c : Option Counted) : (s.count stop b code n c).time = s.time := by
  obtain ⟨p, e, m, h⟩ := count_eq s stop b code n c; rw [h]
@[simp] theorem count_free (stop b code n : Nat) (c : Option Counted) : (s.count stop b code n c).free = s.free := by
  obtain ⟨p, e, m, h⟩ := count_eq s stop b code n c; rw [h]
@[simp] theorem count_pending (stop b code n : Nat) (c : Option Counted) : (s.count stop b code n c).pending = s.pending := by
  obtain ⟨p, e, m, h⟩ := count_eq s stop b code n c; rw [h]

/-! ### Sending and accepting a flit change the mesh alone (R195) -/

@[simp] theorem send_tcores (f : Flit) : (s.send f).tcores = s.tcores := rfl
@[simp] theorem accept_tcores (f : Flit) : (s.accept f).tcores = s.tcores := rfl
@[simp] theorem send_scores (f : Flit) : (s.send f).scores = s.scores := rfl
@[simp] theorem accept_scores (f : Flit) : (s.accept f).scores = s.scores := rfl
@[simp] theorem send_mem (f : Flit) : (s.send f).mem = s.mem := rfl
@[simp] theorem accept_mem (f : Flit) : (s.accept f).mem = s.mem := rfl
@[simp] theorem send_pma (f : Flit) : (s.send f).pma = s.pma := rfl
@[simp] theorem accept_pma (f : Flit) : (s.accept f).pma = s.pma := rfl
@[simp] theorem send_coh (f : Flit) : (s.send f).coh = s.coh := rfl
@[simp] theorem accept_coh (f : Flit) : (s.accept f).coh = s.coh := rfl
@[simp] theorem send_dram (f : Flit) : (s.send f).dram = s.dram := rfl
@[simp] theorem accept_dram (f : Flit) : (s.accept f).dram = s.dram := rfl
@[simp] theorem send_iommu (f : Flit) : (s.send f).iommu = s.iommu := rfl
@[simp] theorem accept_iommu (f : Flit) : (s.accept f).iommu = s.iommu := rfl
@[simp] theorem send_graop (f : Flit) : (s.send f).graop = s.graop := rfl
@[simp] theorem accept_graop (f : Flit) : (s.accept f).graop = s.graop := rfl
@[simp] theorem send_eng (f : Flit) : (s.send f).eng = s.eng := rfl
@[simp] theorem accept_eng (f : Flit) : (s.accept f).eng = s.eng := rfl
@[simp] theorem send_irq (f : Flit) : (s.send f).irq = s.irq := rfl
@[simp] theorem accept_irq (f : Flit) : (s.accept f).irq = s.irq := rfl
@[simp] theorem send_perf (f : Flit) : (s.send f).perf = s.perf := rfl
@[simp] theorem accept_perf (f : Flit) : (s.accept f).perf = s.perf := rfl
@[simp] theorem send_ren (f : Flit) : (s.send f).ren = s.ren := rfl
@[simp] theorem accept_ren (f : Flit) : (s.accept f).ren = s.ren := rfl
@[simp] theorem send_pow (f : Flit) : (s.send f).pow = s.pow := rfl
@[simp] theorem accept_pow (f : Flit) : (s.accept f).pow = s.pow := rfl
@[simp] theorem send_brine (f : Flit) : (s.send f).brine = s.brine := rfl
@[simp] theorem accept_brine (f : Flit) : (s.accept f).brine = s.brine := rfl
@[simp] theorem send_sec (f : Flit) : (s.send f).sec = s.sec := rfl
@[simp] theorem accept_sec (f : Flit) : (s.accept f).sec = s.sec := rfl
@[simp] theorem send_err (f : Flit) : (s.send f).err = s.err := rfl
@[simp] theorem accept_err (f : Flit) : (s.accept f).err = s.err := rfl
@[simp] theorem send_pcie (f : Flit) : (s.send f).pcie = s.pcie := rfl
@[simp] theorem accept_pcie (f : Flit) : (s.accept f).pcie = s.pcie := rfl
@[simp] theorem send_plat (f : Flit) : (s.send f).plat = s.plat := rfl
@[simp] theorem accept_plat (f : Flit) : (s.accept f).plat = s.plat := rfl
@[simp] theorem send_phase (f : Flit) : (s.send f).phase = s.phase := rfl
@[simp] theorem accept_phase (f : Flit) : (s.accept f).phase = s.phase := rfl
@[simp] theorem send_time (f : Flit) : (s.send f).time = s.time := rfl
@[simp] theorem accept_time (f : Flit) : (s.accept f).time = s.time := rfl
@[simp] theorem send_free (f : Flit) : (s.send f).free = s.free := rfl
@[simp] theorem accept_free (f : Flit) : (s.accept f).free = s.free := rfl
@[simp] theorem send_pending (f : Flit) : (s.send f).pending = s.pending := rfl
@[simp] theorem accept_pending (f : Flit) : (s.accept f).pending = s.pending := rfl

@[simp] theorem countSlice_coh (ln code : Nat) (f : Flit) : (s.countSlice ln code f).coh = s.coh := by simp [State.countSlice]
@[simp] theorem countSlice_pma (ln code : Nat) (f : Flit) : (s.countSlice ln code f).pma = s.pma := by simp [State.countSlice]

/-! ### The tables of coherence -/


@[simp] theorem txn_setTxn_same (ln : Nat) (v : Option Txn) : (s.setTxn ln v).txn ln = v := by simp [State.txn, State.setTxn]
@[simp] theorem sf_setSf_same (ln : Nat) (v : SfEntry) : (s.setSf ln v).sf ln = v := by simp [State.sf, State.setSf]
@[simp] theorem l3_setL3_same (ln : Nat) (v : L3Line) : (s.setL3 ln v).l3 ln = v := by simp [State.l3, State.setL3]
@[simp] theorem l2_setL2_same (a ln : Nat) (c : CLine) : (s.setL2 a ln c).l2 a ln = c := by simp [State.l2, State.setL2]
@[simp] theorem mshrOf_putMshr_same (a ln : Nat) (m : Option Mshr) : (s.putMshr a ln m).mshrOf a ln = m := by simp [State.mshrOf, State.putMshr]
@[simp] theorem mshr_endMshr_same (a ln : Nat) : (s.endMshr a ln).mshr a ln = none := by simp [State.endMshr, State.mshr]
@[simp] theorem sf_setTxn (ln j : Nat) (v : Option Txn) : (s.setTxn ln v).sf j = s.sf j := rfl
@[simp] theorem l3_setTxn (ln j : Nat) (v : Option Txn) : (s.setTxn ln v).l3 j = s.l3 j := rfl
@[simp] theorem txn_setSf (ln j : Nat) (v : SfEntry) : (s.setSf ln v).txn j = s.txn j := rfl
@[simp] theorem l3_setSf (ln j : Nat) (v : SfEntry) : (s.setSf ln v).l3 j = s.l3 j := rfl
@[simp] theorem txn_setL3 (ln j : Nat) (v : L3Line) : (s.setL3 ln v).txn j = s.txn j := rfl
@[simp] theorem sf_setL3 (ln j : Nat) (v : L3Line) : (s.setL3 ln v).sf j = s.sf j := rfl
@[simp] theorem txn_send (f : Flit) (j : Nat) : (s.send f).txn j = s.txn j := rfl
@[simp] theorem sf_send (f : Flit) (j : Nat) : (s.send f).sf j = s.sf j := rfl
@[simp] theorem l3_send (f : Flit) (j : Nat) : (s.send f).l3 j = s.l3 j := rfl
@[simp] theorem txn_accept (f : Flit) (j : Nat) : (s.accept f).txn j = s.txn j := rfl
@[simp] theorem sf_accept (f : Flit) (j : Nat) : (s.accept f).sf j = s.sf j := rfl
@[simp] theorem l3_accept (f : Flit) (j : Nat) : (s.accept f).l3 j = s.l3 j := rfl
@[simp] theorem txn_countSlice (ln code : Nat) (f : Flit) (j : Nat) : (s.countSlice ln code f).txn j = s.txn j := by simp [State.txn]
@[simp] theorem sf_countSlice (ln code : Nat) (f : Flit) (j : Nat) : (s.countSlice ln code f).sf j = s.sf j := by simp [State.sf]
@[simp] theorem l3_countSlice (ln code : Nat) (f : Flit) (j : Nat) : (s.countSlice ln code f).l3 j = s.l3 j := by simp [State.l3]

/-- The last flit sent from a stop. -/
@[simp] theorem lastSent_send (f : Flit) : (s.send f).lastSent (nodeStop f.src) = some f := by
  simp [State.lastSent, State.send]

end Sys2Proof.Machine
end

