-- ==== Sys2Proof/Laws/Hart.lean ====
section
/-!
SUPPORT. Laws of harts in the state, of counting, and of retiring an instruction.
-/
namespace Sys2Proof.Machine

variable (s t : State) (h g : HartId) (c d : Hart)

/-! ### Harts in the state -/

@[simp] theorem hart_setHart_same (v : Hart) : (s.setHart h v).hart h = v := by
  cases h <;> simp [State.setHart, State.hart]

theorem hart_setHart_ne (v : Hart) (hg : g ≠ h) : (s.setHart h v).hart g = s.hart g := by
  cases h with
  | t n =>
    cases g with
    | t m =>
      have : m.val ≠ n.val := fun e => hg (congrArg HartId.t (Fin.ext e))
      simp [State.setHart, State.hart, tabGet_tabSet_ne _ _ _ _ _ this]
    | s m => simp [State.setHart, State.hart]
  | s n =>
    cases g with
    | t m => simp [State.setHart, State.hart]
    | s m =>
      have : m.val ≠ n.val := fun e => hg (congrArg HartId.s (Fin.ext e))
      simp [State.setHart, State.hart, tabGet_tabSet_ne _ _ _ _ _ this]

@[simp] theorem setHart_imsic (v : Hart) : (s.setHart h v).irq = s.irq := by cases h <;> rfl

theorem onlyHart_setHart (v : Hart) : onlyHart s (s.setHart h v) h := by
  refine ⟨?_, fun g hg => hart_setHart_ne s h g v hg, fun k _ => by simp⟩
  cases h <;> rfl

theorem onlyHart_refl : onlyHart s s h := ⟨rfl, fun _ _ => rfl, fun _ _ => rfl⟩

theorem onlyHart_trans {s t u : State} {h : HartId} (h1 : onlyHart s t h) (h2 : onlyHart t u h) : onlyHart s u h := by
  refine ⟨?_, fun g hg => (h2.2.1 g hg).trans (h1.2.1 g hg), fun k hk => (h2.2.2 k hk).trans (h1.2.2 k hk)⟩
  have a := h1.1
  have b := h2.1
  rw [b, a]

/-! ### Registers of a hart -/

@[simp] theorem csrRaw_csrPut_same (n : Nat) (v : Word) : (c.csrPut n v).csrRaw n = v := by simp [Hart.csrPut, Hart.csrRaw]

theorem csrRaw_csrPut_ne (n m : Nat) (v : Word) (hm : m ≠ n) : (c.csrPut n v).csrRaw m = c.csrRaw m := by
  simp [Hart.csrPut, Hart.csrRaw, tabGet_tabSet_ne _ _ _ _ _ hm]

/-- Writing an integer register: x0 keeps reading zero, `r` reads the value, every other register its old one. -/
theorem getX_setX (r q : Nat) (v : Word) : (c.setX r v).getX q = if q = 0 then 0 else if q = r then v else c.getX q := by
  unfold Hart.setX Hart.getX
  by_cases hq : q = 0
  · simp [hq]
  · by_cases hr : r = 0
    · simp [hr, hq]
    · simp [hr, hq, tabGet_tabSet]

/-! ### Same hart up to counting -/

/-- Two harts that differ at most in what counting changes. -/
def sameHart (c d : Hart) : Prop :=
  c = { d with csr := c.csr, ready := c.ready, clock := c.clock, entry := c.entry, itree := c.itree, dtree := c.dtree } ∧
  ∀ n, countingCsr n = false → c.csrRaw n = d.csrRaw n

theorem hartIs_iff : hartIs t h d ↔ sameHart (t.hart h) d := Iff.rfl

theorem sameHart_refl : sameHart c c := ⟨rfl, fun _ _ => rfl⟩

theorem sameHart_trans {a b c : Hart} (h1 : sameHart a b) (h2 : sameHart b c) : sameHart a c := by
  refine ⟨?_, fun n hn => (h1.2 n hn).trans (h2.2 n hn)⟩
  have x := h1.1
  have y := h2.1
  rw [x, y]

theorem sameHart_csrPut (n : Nat) (v : Word) (hn : countingCsr n = true) : sameHart (c.csrPut n v) c := by
  refine ⟨rfl, fun m hm => csrRaw_csrPut_ne c n m v ?_⟩
  rintro rfl
  simp [hn] at hm

/-! ### Counting (R400 to R402) -/

theorem hpm_counting (k : Nat) (hk : k ≤ 31) : countingCsr (0xB00 + k) = true := by
  simp only [countingCsr, Bool.or_eq_true, Bool.and_eq_true, decide_eq_true_eq]; omega

theorem mhpmevent_counting (k : Nat) (h3 : 3 ≤ k) (hk : k ≤ 31) : countingCsr (0x320 + k) = true := by
  simp only [countingCsr, Bool.or_eq_true, Bool.and_eq_true, decide_eq_true_eq]; omega

theorem onlyHart_setIdentity_mach (n : Nat) : onlyHart s (s.setIdentity h .mach n) h := by
  unfold State.setIdentity
  split
  · exact onlyHart_refl s h
  · refine ⟨rfl, fun g _ => by cases g <;> rfl, fun k hk => ?_⟩
    simp [State.setFile, tabGet_tabSet_ne _ _ _ _ _ hk]

@[simp] theorem hart_setIdentity (f : ImFileKind) (n : Nat) : (s.setIdentity g f n).hart h = s.hart h := by
  unfold State.setIdentity State.setFile
  split <;> cases h <;> rfl

/-- Adding to an hpm counter changes the counter, its overflow bit and at most one identity of the machine file. -/
theorem bumpHpm_spec (k n : Nat) (h3 : 3 ≤ k) (hk : k ≤ 31) :
    onlyHart s (s.bumpHpm h k n) h ∧ sameHart ((s.bumpHpm h k n).hart h) (s.hart h) := by
  have a := sameHart_csrPut (s.hart h) (0xB00 + k) (BitVec.ofNat 64 (((s.hart h).csrRaw (0xB00 + k)).toNat + n)) (hpm_counting k hk)
  unfold State.bumpHpm
  dsimp only
  split
  · exact ⟨onlyHart_setHart s h _, by simpa using a⟩
  · split
    · exact ⟨onlyHart_setHart s h _, by simpa using a⟩
    · refine ⟨onlyHart_trans (onlyHart_setHart s h _) (onlyHart_setIdentity_mach _ h _), ?_⟩
      rw [hart_setIdentity, hart_setHart_same]
      exact sameHart_trans (sameHart_csrPut _ _ _ (mhpmevent_counting k h3 hk)) a

theorem foldl_bumpHpm_spec (n : Nat) (l : List Nat) (hl : ∀ k ∈ l, 3 ≤ k ∧ k ≤ 31) :
    ∀ s : State, onlyHart s (l.foldl (fun s k => s.bumpHpm h k n) s) h ∧
      sameHart ((l.foldl (fun s k => s.bumpHpm h k n) s).hart h) (s.hart h) := by
  induction l with
  | nil => exact fun s => ⟨onlyHart_refl s h, sameHart_refl _⟩
  | cons k l ih =>
    intro s
    have hk := hl k (by simp)
    have a := bumpHpm_spec s h k n hk.1 hk.2
    have b := ih (fun j hj => hl j (by simp [hj])) (s.bumpHpm h k n)
    exact ⟨onlyHart_trans a.1 b.1, sameHart_trans b.2 a.2⟩

/-- An event changes nothing but what counting changes. -/
theorem event_spec (code n : Nat) : onlyHart s (s.event h code n) h ∧ sameHart ((s.event h code n).hart h) (s.hart h) := by
  unfold State.event
  apply foldl_bumpHpm_spec
  intro k hk
  have hm := (List.mem_filter.mp hk).1
  rw [List.mem_range'_1] at hm
  have : hpmTop h ≤ 18 := by unfold hpmTop; split <;> omega
  omega

/-! ### Retiring -/

theorem sameHart_icountTick (n : Nat) : sameHart (c.icountTick n) c := by
  unfold Hart.icountTick
  suffices H : ∀ (l : List Nat) (c : Hart), sameHart (l.foldl (fun c i =>
      if (fld (c.tdata1 i) 63 60 == 3 && fld (c.tdata1 i) 23 10 != 0 && c.trigOn (c.tdata1 i) true) = true
      then c.csrPut (0x10000 + 4 * i + 1) (putFld (putFld (c.tdata1 i) 23 10 (fld (c.tdata1 i) 23 10 - 1)) 8 8 (b2n (fld (c.tdata1 i) 23 10 == 1))) else c) c) c from
    H (List.range n) c
  intro l
  induction l with
  | nil => exact fun c => sameHart_refl c
  | cons i l ih =>
    intro c
    refine sameHart_trans (ih _) ?_
    dsimp only
    split
    · exact sameHart_csrPut _ _ _ (by simp [countingCsr]; omega)
    · exact sameHart_refl c

theorem sameHart_past {c d : Hart} (len : Nat) (h : sameHart c d) : sameHart (c.past len) (d.past len) := by
  refine ⟨?_, h.2⟩
  have e := h.1
  rw [e]; rfl

/-- Fetching touches the replacement tree of the I side and nothing else. -/
theorem fetched_spec : onlyHart s (s.fetched h) h ∧ sameHart ((s.fetched h).hart h) (s.hart h) := by
  unfold State.fetched
  dsimp only
  split
  · split
    · exact ⟨onlyHart_setHart s h _, by rw [hart_setHart_same]; exact ⟨rfl, fun _ _ => rfl⟩⟩
    · exact ⟨onlyHart_refl s h, sameHart_refl _⟩
  · exact ⟨onlyHart_refl s h, sameHart_refl _⟩

/-- Retiring moves the pc, counts, and changes nothing else. -/
theorem retire_spec (len n : Nat) : hartBecomes s (s.retire h len n) h ((s.hart h).past len) := by
  unfold State.retire
  dsimp only
  have e := fun u : State => event_spec u h 0x01 1
  have fs := fetched_spec s h
  refine ⟨onlyHart_trans fs.1 (onlyHart_trans (onlyHart_setHart _ h _) (e _).1), ?_⟩
  rw [hartIs_iff]
  refine sameHart_trans (e _).2 (sameHart_trans ?_ (sameHart_past len fs.2))
  generalize (s.fetched h).hart h = c
  rw [hart_setHart_same]
  refine sameHart_trans (sameHart_icountTick _ _) ?_
  have mc : countingCsr 0xB00 = true := by decide
  have mi : countingCsr 0xB02 = true := by decide
  have base : sameHart { c with
      pc := c.pc + BitVec.ofNat 64 len, seq := c.seq + 1, clock := c.clock + n, entry := none, begun := false,
      early := c.early.filter fun e => decide (c.seq < e.seq) } (c.past len) := ⟨rfl, fun _ _ => rfl⟩
  split <;> split
  · exact base
  · exact sameHart_trans (sameHart_csrPut _ _ _ mi) base
  · exact sameHart_trans (sameHart_csrPut _ _ _ mc) base
  · exact sameHart_trans (sameHart_csrPut _ _ _ mi) (sameHart_trans (sameHart_csrPut _ _ _ mc) base)

/-- A parcel that is at hand is fetched, and nothing changes. -/
theorem fetchParcel_ready (va : Word) (hr : s.parcelReady h va = true) : s.fetchParcel h va = .ok s := by
  unfold State.parcelReady at hr
  unfold State.fetchParcel
  dsimp only
  split at hr
  next pa g hg =>
    rw [hg]
    dsimp only
    split at hr
    · next hc =>
      simp only [Bool.and_eq_true, Bool.not_eq_true', beq_iff_eq] at hr
      obtain ⟨⟨h1, h2⟩, h3⟩ := hr
      simp [State.fetchLine, h1, h2, h3]
    · next ht =>
      have bad : s.tcmBad (tcmKey h pa) 2 2 = [] := by
        rw [List.eq_nil_iff_forall_not_mem]
        intro w hw
        have all : s.tcmBad (tcmKey h pa) 2 1 = [] := by simpa using hr
        have hin : w ∈ s.tcmBad (tcmKey h pa) 2 1 := by
          simp only [State.tcmBad, List.mem_filter, Bool.and_eq_true, decide_eq_true_eq] at hw ⊢
          exact ⟨hw.1, hw.2.1, by omega⟩
        rw [all] at hin; simp at hin
      have all : s.tcmBad (tcmKey h pa) 2 1 = [] := by simpa using hr
      simp [State.readTcm, State.tcmScrub, bad, all]
    · rfl
  next => simp at hr

/-- An instruction whose bytes are at hand is fetched, and nothing changes. -/
theorem fetchAt_ready (len : Nat) (hr : s.fetchReady h len = true) : s.fetchAt h len = .ok s := by
  unfold State.fetchReady at hr
  unfold State.fetchAt
  simp only [Bool.and_eq_true, Bool.or_eq_true, decide_eq_true_eq] at hr
  rw [fetchParcel_ready s h _ hr.1]
  dsimp only
  split
  · rfl
  · exact fetchParcel_ready s h _ (hr.2.resolve_left ‹_›)

/-- When a hart executes its next instruction, `onHart` runs its effect. -/
theorem onHart_of_issues (len : Nat) (f : State → State) (hi : s.issues h len = true) : s.onHart h len f = f s := by
  simp only [State.issues, Bool.and_eq_true, Bool.or_eq_true, Option.isNone_iff_eq_none, Bool.not_eq_true'] at hi
  obtain ⟨⟨⟨⟨⟨⟨h1, h2⟩, h3⟩, h4⟩, h5⟩, h6⟩, h7⟩ := hi
  have h6' : (if isT h = true then none else s.irqDue h) = none := by
    cases h6 with
    | inl e => simp [e]
    | inr e => simp [e]
  simp [State.onHart, h1, h2, h3, h4, h5, h6', fetchAt_ready s h len h7]

/-! ### Updates around retiring -/

theorem sameHart_put {c d : Hart} (h : sameHart c d) (n : Nat) (v : Word) : sameHart (c.csrPut n v) (d.csrPut n v) := by
  refine ⟨?_, fun m hm => ?_⟩
  · have e := h.1
    unfold Hart.csrPut
    rw [e]
  · by_cases e : m = n
    · subst e; simp
    · rw [csrRaw_csrPut_ne _ _ _ _ e, csrRaw_csrPut_ne _ _ _ _ e]; exact h.2 m hm

theorem sameHart_setX {c d : Hart} (h : sameHart c d) (r : Nat) (v : Word) : sameHart (c.setX r v) (d.setX r v) := by
  unfold Hart.setX; split
  · exact h
  · refine ⟨?_, h.2⟩
    have e := h.1
    rw [e]

theorem sameHart_busy (r l : Nat) : sameHart (c.busy r l) c := by
  unfold Hart.busy; split
  · exact sameHart_refl _
  · exact ⟨rfl, fun _ _ => rfl⟩

/-- An update of a hart after it has retired. -/
theorem retire_then_update {s : State} {h : HartId} (f : Hart → Hart) (len n : Nat) (d : Hart) (hd : sameHart (f ((s.retire h len n).hart h)) d) :
    hartBecomes s ((s.retire h len n).updHart h f) h d := by
  refine ⟨onlyHart_trans (retire_spec s h len n).1 (onlyHart_setHart _ _ _), ?_⟩
  rw [hartIs_iff]; unfold State.updHart; rw [hart_setHart_same]; exact hd

/-- An update of a hart that then retires, from a state that differs from `s` in counting alone. -/
theorem update_then_retire {s u : State} {h : HartId} (hu : onlyHart s u h) (f : Hart → Hart) (len n : Nat) (d : Hart) (hd : sameHart (f (u.hart h)) d) :
    hartBecomes s ((u.updHart h f).retire h len n) h (d.past len) := by
  have r := retire_spec (u.updHart h f) h len n
  refine ⟨onlyHart_trans hu (onlyHart_trans (onlyHart_setHart _ _ _) r.1), ?_⟩
  have e := r.2
  rw [hartIs_iff] at e ⊢
  refine sameHart_trans e (sameHart_past _ ?_)
  unfold State.updHart; rw [hart_setHart_same]; exact hd

/-! ### Traps -/

/-- Taking a trap other than a trigger's entry to Debug Mode: the hart enters the trap, and nothing else changes. -/
theorem trap_spec (i : Trap) (hi : i.cause ≠ debugCause) :
    hartBecomes s (s.trap h i) h ((s.hart h).trapped (isT h) i) := by
  unfold State.trap Hart.trapped
  rw [if_neg hi]
  dsimp only
  split
  · refine ⟨onlyHart_setHart _ _ _, ?_⟩
    rw [hartIs_iff]; unfold State.updHart; rw [hart_setHart_same]
    exact ⟨rfl, fun _ _ => rfl⟩
  · have e := fun u : State => event_spec u h 0x0B 1
    refine ⟨onlyHart_trans (onlyHart_setHart _ _ _) (e _).1, sameHart_trans (e _).2 ?_⟩
    unfold State.updHart; rw [hart_setHart_same]
    exact ⟨rfl, fun _ _ => rfl⟩

end Sys2Proof.Machine
end

