-- ==== Sys2Proof/Laws/Memory.lean ====
section
/-!
SUPPORT. Laws of the byte memories: a read after a write, and that every memory operation keeps the canonical form.
-/
namespace Sys2Proof.Machine

variable (m : List Host.Cell) (a : Nat)

theorem memByte_memSetByte (x : Nat) (b : Byte) : memByte (memSetByte m a b) x = if x = a then b else memByte m x := by
  simp [memByte, memSetByte, tabGet_tabSet]

theorem memByte_memPut (bs : List Byte) : ∀ (m : List Host.Cell) (a x : Nat),
    memByte (memPut m a bs) x = if a ≤ x ∧ x < a + bs.length then bs.getD (x - a) 0 else memByte m x := by
  induction bs with
  | nil => intro m a x; simp only [memPut, List.length_nil]; rw [if_neg (by omega)]
  | cons b t ih =>
    intro m a x
    rw [memPut, ih, memByte_memSetByte]
    by_cases hx : x = a
    · subst hx; simp
    · by_cases hr : a + 1 ≤ x ∧ x < a + 1 + t.length
      · have h2 : a ≤ x ∧ x < a + (b :: t).length := by simp; omega
        obtain ⟨k, hk⟩ : ∃ k, x - a = k + 1 := ⟨x - a - 1, by omega⟩
        have hk' : x - (a + 1) = k := by omega
        rw [if_pos hr, if_pos h2, hk, hk']; simp
      · have h2 : ¬ (a ≤ x ∧ x < a + (b :: t).length) := by simp; omega
        rw [if_neg hr, if_neg h2, if_neg hx]

/-- A masked write of a line changes the bytes the mask names and no other. -/
theorem memByte_memPutMasked (mask : LineMask) (v : Line) (n : Nat) : ∀ (m : List Host.Cell) (i x : Nat),
    memByte (memPutMasked m a mask v i n) x =
      if a + i ≤ x ∧ x < a + i + n ∧ mask.getLsbD (x - a) = true then byteAt v (x - a) else memByte m x := by
  induction n with
  | zero => intro m i x; rw [memPutMasked, if_neg (by omega)]
  | succ n ih =>
    intro m i x
    rw [memPutMasked, ih]
    by_cases hx : x = a + i
    · subst hx
      cases hm : mask.getLsbD i <;> simp [hm, memByte_memSetByte]
    · by_cases hr : a + (i + 1) ≤ x ∧ x < a + (i + 1) + n ∧ mask.getLsbD (x - a) = true
      · rw [if_pos hr, if_pos ⟨by omega, by omega, hr.2.2⟩]
      · have h2 : ¬ (a + i ≤ x ∧ x < a + i + (n + 1) ∧ mask.getLsbD (x - a) = true) := by
          intro h; exact hr ⟨by omega, by omega, h.2.2⟩
        rw [if_neg hr, if_neg h2]
        split
        · rw [memByte_memSetByte, if_neg hx]
        · rfl

theorem memByte_memLinePut (mask : LineMask) (v : Line) (x : Nat) :
    memByte (memLinePut m a mask v) x = if a ≤ x ∧ x < a + 64 ∧ mask.getLsbD (x - a) = true then byteAt v (x - a) else memByte m x := by
  simpa [memLinePut] using memByte_memPutMasked a mask v 64 m 0 x

/-! ### The canonical form -/

theorem memWf_memSetByte (b : Byte) (h : memWf m = true) : memWf (memSetByte m a b) = true := tabWf_tabSet 0 m a b h

theorem memWf_memPut (bs : List Byte) : ∀ (m : List Host.Cell) (a : Nat), memWf m = true → memWf (memPut m a bs) = true := by
  induction bs with
  | nil => intro m a h; exact h
  | cons b t ih => intro m a h; exact ih _ _ (memWf_memSetByte m a b h)

theorem memWf_memWrite (n v : Nat) (h : memWf m = true) : memWf (memWrite m a n v) = true := memWf_memPut _ m a h

theorem memWf_memPutMasked (mask : LineMask) (v : Line) (n : Nat) : ∀ (m : List Host.Cell) (i : Nat), memWf m = true →
    memWf (memPutMasked m a mask v i n) = true := by
  induction n with
  | zero => intro m i h; exact h
  | succ n ih =>
    intro m i h
    rw [memPutMasked]
    apply ih
    split
    · exact memWf_memSetByte _ _ _ h
    · exact h

theorem memWf_memLinePut (mask : LineMask) (v : Line) (h : memWf m = true) : memWf (memLinePut m a mask v) = true :=
  memWf_memPutMasked a mask v 64 m 0 h

theorem memWf_nil : memWf [] = true := rfl

/-- Dropping a hart's TCM keeps the canonical forms (R452). -/
theorem wf_dropTcm (m : Mems) (h : HartId) (hm : m.wf = true) : (m.dropTcm h).wf = true := by
  simp only [Mems.wf, Mems.dropTcm, memWf, tabWf, Bool.and_eq_true] at hm ⊢
  exact ⟨⟨⟨⟨hm.1.1.1.1, tabWfFrom_filterKey _ _ _ (fun k => k / 0x2_0000 != hartIdx h) hm.1.1.1.2⟩, hm.1.1.2⟩, hm.1.2⟩,
    tabWfFrom_filterKey _ _ _ (fun k => k / 0x4000 != hartIdx h) hm.2⟩

end Sys2Proof.Machine
end

