-- ==== Sys2Proof/Laws/Mailbox.lean ====
section
/-!
SUPPORT. What running a Rennet command does: bytes written to a byte memory, the response of `finishCmd`, and the four ends of `runCmd`.
-/
namespace Sys2Proof.Machine

@[simp] theorem mb_setMb_same (s : State) (n : Nat) (v : Mbox) : (s.setMb n v).mb n = v := by simp [State.mb, State.setMb, tabGet_tabSet_same]
theorem mb_setMb_ne (s : State) (n m : Nat) (v : Mbox) (h : m ≠ n) : (s.setMb n v).mb m = s.mb m := by
  simp only [State.mb, State.setMb]; exact tabGet_tabSet_ne (h := h) ..

/-- What the end of a command does. -/
theorem finishCmd_answered (s : State) (n : Fin 32) (st : Nat) (resp : List Byte) (h : st ≠ 0 → resp = []) : answered s (s.finishCmd n.val st resp) n st resp := by
  have hr : (if st = 0 then resp else []) = resp := by
    by_cases h0 : st = 0
    · simp [h0]
    · simp [h0, h h0]
  unfold State.finishCmd
  simp only [hr]
  refine ⟨by simp only [State.updMb, State.setMb], ?_, ?_, ?_⟩
  · simp only [State.updMb, mb_setMb_same]; rfl
  · intro m hm
    simp only [State.updMb]
    rw [mb_setMb_ne _ _ _ _ hm]; rfl
  · intro a
    simp only [State.updMb, State.setMb, State.response]
    exact memByte_memPut _ _ _ _

theorem serves_iff (s : State) (n : Fin 32) (code : Nat) :
    s.serves n code = true ↔ s.inTurn n.val = true ∧ s.reqCode n.val = code ∧ s.cmdStatus n.val = 0 := by
  simp [State.serves, and_assoc]

/-- A command that is in turn and passes the checks runs its body. -/
theorem runCmd_serves (s : State) (n : Fin 32) (code : Nat) (body : State → CmdEnd) (h : s.serves n code = true) :
    s.runCmd n code body = match body s with
      | .ok s' resp => s'.finishCmd n.val 0 resp
      | .fail st => s.finishCmd n.val st []
      | .failIn s' st => s'.finishCmd n.val st []
      | .waits s' => s' := by
  obtain ⟨h1, h2, h3⟩ := (serves_iff s n code).1 h
  simp only [State.runCmd, h1, h2, h3, Bool.not_true, bne_self_eq_false, Bool.or_self, Bool.false_eq_true, if_false]
  all_goals (cases body s <;> rfl)

/-- A command that is not in turn, or whose request carries another code, changes nothing. -/
theorem runCmd_not (s : State) (n : Fin 32) (code : Nat) (body : State → CmdEnd) (h : s.inTurn n.val = false ∨ s.reqCode n.val ≠ code) :
    s.runCmd n code body = s := by
  rcases h with h | h <;> simp [State.runCmd, h]

end Sys2Proof.Machine
end

