-- ==== Sys2Proof/Machine/Frame.lean ====
section
/-!
DEFINITION. The bytes of a Graop frame (R301, R302) and the units of its packets (R306, R307): what a link puts on its lanes for a frame of its retry buffer, or for an
IDLE frame.
-/
namespace Sys2Proof.Machine

/-! ### Packets (R306, R307) -/

/-- Opcodes. -/
def pktCode : PktOp → Nat
  | .rdNc => 0x01 | .wrNc => 0x02 | .atomNc => 0x03 | .blkRd => 0x08 | .blkWr => 0x09
  | .rdData => 0x10 | .wrAck => 0x11 | .atomData => 0x12 | .errResp => 0x13
  | .routeAdv => 0x20 | .routeWithdraw => 0x21 | .linkNotice => 0x22
  | .unused => 0

/-- STS: a response's code; in an AtomNC the AMO function and size, as in the mesh header; otherwise 0. -/
def pktSts (p : Pkt) : Nat :=
  match p.op with
  | .rdData | .wrAck | .atomData | .errResp => p.sts.toNat
  | .atomNc => amoSts p.fn p.size
  | _ => 0

/-- The 16-byte header. -/
def pktHeader (p : Pkt) : BitVec 128 :=
  BitVec.ofNat 128 (p.addr.toNat + 2 ^ 57 * p.hop + 2 ^ 66 * p.size + 2 ^ 73 * pktSts p + 2 ^ 81 * p.gtag.val + 2 ^ 93 * (p.glink.val % 8) +
    2 ^ 96 * (pktUnits p - 2) + 2 ^ 100 * b2n p.poison + 2 ^ 101 * p.vc.val + 2 ^ 104 * pktCode p.op + 2 ^ 110 * p.spkg.val + 2 ^ 119 * p.dpkg.val)

/-- Unit `i` of a line. -/
def lineUnit (d : Line) (i : Nat) : Nat := fld d (64 * i + 63) (64 * i)
/-- The units of a line that a mask touches, lowest first. -/
def touched (m : LineMask) : List Nat := (List.range 8).filter fun i => m &&& maskOf (8 * i) 8 != 0

/-- The data units of a packet; a mask unit comes before the data, and the compare value of an AMOCAS before the new one. -/
def pktData (p : Pkt) : List Nat :=
  let o := p.addr.toNat % 64 / 8
  match p.op with
  | .wrNc | .blkWr =>
    if oneUnit p.mask then ((touched p.mask).map (lineUnit p.data)).take 1
    else (if fullMask p.mask then [] else [p.mask.toNat]) ++ (List.range 8).map (lineUnit p.data)
  | .atomNc => if p.fn = .cas then [lineBytes p.data (casOffset (p.addr.toNat % 64)) p.size, lineUnit p.data o] else [lineUnit p.data o]
  | .rdData => (touched p.mask).map (lineUnit p.data)
  | .atomData => [lineUnit p.data o]
  | .routeAdv | .routeWithdraw => (List.range (pktUnits p - 2)).map (lineUnit p.data)
  | .linkNotice => [0]
  | _ => []

/-- The units of a packet: its header, low half first, and its data. -/
def pktWords (p : Pkt) : List Nat := fld (pktHeader p) 63 0 :: fld (pktHeader p) 127 64 :: pktData p

/-! ### Frames (R301, R302) -/

/-- TYPE. -/
inductive FrameType where
  | data | idle | sync | train | hello
  deriving DecidableEq, Repr

def frameCode : FrameType → Nat | .data => 0 | .idle => 1 | .sync => 2 | .train => 3 | .hello => 4

/-- The control word; SEQ is zero but in a DATA frame. -/
def controlWord (ty : FrameType) (seq ack : Nat) (nak : Bool) (cvc0 ccnt0 cvc1 ccnt1 : Nat) : BitVec 64 :=
  BitVec.ofNat 64 ((if ty = .data then seq % 4096 else 0) * 2 ^ 52 + ack % 4096 * 2 ^ 40 + b2n nak * 2 ^ 39 + frameCode ty * 2 ^ 35 + cvc0 % 8 * 2 ^ 32 +
    ccnt0 % 256 * 2 ^ 24 + cvc1 % 8 * 2 ^ 21 + ccnt1 % 256 * 2 ^ 13)

/-- One byte through the CRC of polynomial 0x04C1_1DB7, its highest bit first. -/
def crcByte (c : BitVec 32) (b : Byte) : BitVec 32 :=
  (List.range 8).foldl (fun c _ => if c.getLsbD 31 then (c <<< 1) ^^^ 0x04C1_1DB7 else c <<< 1) (c ^^^ (b.setWidth 32 <<< 24))
/-- The CRC-32 of the bytes of a frame (log entry 179). -/
def crc32 (bs : List Byte) : BitVec 32 := bs.foldl crcByte Config.crcFirst ^^^ Config.crcLast

/-- A frame of 224 bytes: the control word, 25 units, the CRC, and 12 check symbols over them all. -/
def frameBytes (ctl : BitVec 64) (units : List Nat) : List Byte :=
  let body := leBytes 8 ctl.toNat ++ ((units ++ List.replicate 25 0).take 25).flatMap (leBytes 8)
  let coded := body ++ leBytes 4 (crc32 body).toNat
  coded ++ (rsSymbols 12 (coded.map (·.toNat))).map (BitVec.ofNat 8)

/-- The virtual channels that CVC0 and CVC1 name in the frame of a sequence number: they rotate over those with credits returned (R311). -/
def creditPair (k : Link) : Nat × Nat :=
  let vs := (k.credRet.map (·.1)).filter fun v => decide (v < 8)
  (vs.getD (k.sent * 2 % max 1 vs.length) 0, vs.getD ((k.sent * 2 + 1) % max 1 vs.length) 0)

/-- The control word that a link sends now: ACK is the last DATA frame received in order, and the counts are those of R311. -/
def Link.control (k : Link) (ty : FrameType) (seq : Nat) : BitVec 64 :=
  let (a, b) := creditPair k
  controlWord ty seq (k.rxNext + 4095) k.nak a (tabGet 0 k.credRet a) b (tabGet 0 k.credRet b)

/-- The bytes of a stored DATA frame, as the link sends it now. -/
def Link.dataBytes (k : Link) (f : Frame) : List Byte := frameBytes (k.control .data f.seq) (f.pkts.flatMap pktWords)
/-- The bytes of an IDLE frame. -/
def Link.idleBytes (k : Link) : List Byte := frameBytes (k.control .idle 0) []

end Sys2Proof.Machine
end

