-- ==== Sys2Proof/Tests/Slice0.lean ====
section
/-!
SUPPORT. Tests: for every statement concrete states and operands that meet its hypotheses, one ill-formed term for every check of WellFormed, and
single steps on small states whose expected results come from the spec.
-/
namespace Sys2Proof.Tests
open Sys2Proof Sys2Proof.Machine
-- One theorem after the other: each waiting theorem would hold a thread with a large stack of its own.
set_option Elab.async false

/-! ### Small states -/

/-- A hart that runs in M-mode in the shared SRAM, memory of TYPE 0 and C 0, from which a fetch never misses. -/
def tHart : Hart := { Hart.resetT with held := false, pc := 0x400_0000, x := [(1, 7), (2, 5)] }
def sHart : Hart := { Hart.resetS with held := false, pc := 0x400_0000, x := [(1, 7), (2, 5)] }
/-- The package with 192 GiB of DRAM, T-core hart 0 and S-core hart 0 running. -/
def running : State := { State.reset with phase := .run, pma := { Pma.reset with dramTop := 0x30_8000_0000 }, tcores := [(0, tHart)], scores := [(0, sHart)] }
def t0 : HartId := .t 0
def s0 : HartId := .s 0
/-- `running` with another T-core hart 0, or S-core hart 0. -/
def withT (c : Hart) : State := { running with tcores := [(0, c)] }
def withS (c : Hart) : State := { running with scores := [(0, c)] }

/-! ### Hypotheses that hold: instructions of the harts -/

theorem witness_IntegerInstructionsComplete :
    running.issues t0 = true ∧ (isT t0 || !(tOnly .czeroeqz)) = true ∧ running.issues s0 = true ∧ (isT s0 || !(tOnly .add)) = true := by decide

/-- FS on, and both a static and the dynamic rounding mode. -/
def fpHart : Hart := tHart.csrPut 0x300 0x2000
theorem witness_FpInstructionsComplete : (withT fpHart).issues t0 = true ∧ fpHart.fpLegal true = .ok ∧
    (if rounds (.add .d) = true then fpHart.roundMode 4 else some 0) = some 4 ∧ (if rounds (.add .s) = true then fpHart.roundMode 7 else some 0) = some 0 ∧
    (if rounds (.min .s) = true then fpHart.roundMode 7 else some 0) = some 0 := by decide

theorem witness_MissingInstructionsTrap : running.issues (.s 0) = true ∧ tOnly .czeronez = true := by decide

theorem witness_ControlTransfersComplete : running.issues t0 = true ∧ running.issues s0 = true ∧ wfiLegal t0 tHart = .ok := by decide

theorem witness_PredictionInstructionsComplete : running.issues t0 = true ∧ isT t0 = true ∧ running.issues (.s 0) = true ∧
    Instr.xpredBar0 (.s 0) ∈ [Instr.xpredBar1 (.s 0), .xpredBar0 (.s 0), .xpredFlush (.s 0)] := by decide

/-- A hart with a machine timer interrupt pending and enabled, and one with dcsr.ebreakm at debug level Open. -/
def irqHart : Hart := (tHart.csrPut 0x304 0x80).csrPut 0x300 0x8
def irqState : State := { withT irqHart with irq := { Irq.reset with mtimecmp := [(0, ~~~0)] }, time := 10 }
/-- The same on S-core hart 0. -/
def irqS : State :=
  { withS ((sHart.csrPut 0x304 0x80).csrPut 0x300 0x8) with irq := { Irq.reset with mtimecmp := [(192, ~~~0)] }, time := 10 }
def openState : State := { withT (tHart.csrPut 0x7B0 0x4000_8403) with sec := { Sec.reset with level := 3 } }
theorem witness_TrapsTaken_ecall : running.issues t0 = true := by decide
theorem witness_TrapsTaken_ebreak : openState.issues t0 = true ∧ ((openState.hart t0).csrBit 0x7B0 15 && openState.mayHalt t0) = true ∧
    ((running.hart t0).csrBit 0x7B0 15 && running.mayHalt t0) = false := by decide
theorem witness_TrapsTaken_exception : (withT { tHart with wfaults := [{ va := 5, acc := .load, cause := 13, xwfd := 1, tval2 := 0, tinst := 0 }] }).issues t0 = true ∧
    running.issues s0 = true := by decide
theorem witness_TrapsTaken_interrupt : irqState.phase = .run ∧ { irqHart with fence := none, idle := .run }.runs = true ∧ (irqState.hart t0).idle = .run ∧
    (irqState.hart t0).stepMasks = false ∧ irqState.topIrq t0 = some (.m, 7) := by decide
theorem witness_TrapsTaken_return : running.issues t0 = true ∧ xretAccess true tHart .mret = .ok ∧ xretAccess true tHart .sret = .ok ∧
    xretAccess false sHart .mret = .ok := by decide
theorem witness_SCoreEntry_interrupt : irqS.phase = .run ∧ { irqS.hart s0 with fence := none, idle := .run }.runs = true ∧ (irqS.hart s0).idle = .run ∧
    (irqS.hart s0).stepMasks = false ∧ irqS.topIrq s0 = some (.m, 7) := by decide
theorem witness_SCoreEntry_exception : running.issues s0 = true ∧ running.topIrq s0 = none := by decide
/-- An entry for the timer interrupt is under way, and the external interrupt has become pending. -/
def lateHart : Hart := { (sHart.csrPut 0x304 0x880).csrPut 0x342 0x8000_0000_0000_0007 with entry := some 7 }
def lateState : State := { irqS with scores := [(0, lateHart)], irq := { irqS.irq with imsic := [(fileKey s0 .mach, { ImFile.reset with deliv := 1, eip := 2, eie := 2 })] } }
theorem witness_SCoreEntry_late : lateState.canIssue s0 = true ∧ (lateState.hart s0).entry = some 7 ∧
    topOf (lateState.mip s0 &&& (lateState.hart s0).csrRaw 0x304) = some 11 ∧ ((lateState.hart s0).csrRaw 0x342).getLsbD 63 = true ∧
    irqOrder.idxOf 11 < irqOrder.idxOf 7 := by decide +kernel
/-- All of memory readable, writable and executable below M-mode. -/
def openPmp (c : Hart) : Hart := (c.csrPut 0x3A0 0x1F).csrPut 0x3B0 0x3F_FFFF_FFFF_FFFF
theorem witness_PredictionBarRank : running.issues (.t 0) = true ∧ (withT (tHart.csrPut 0x5C0 0x31)).issues (.t 0) = true ∧
    ((tHart.csrPut 0x5C0 0x31).csrRaw 0x5C0).getLsbD 0 = true ∧ fld ((tHart.csrPut 0x5C0 0x31).csrRaw 0x5C0) 5 4 ≤ modeRank .m ∧
    modeRank .u < fld ((tHart.csrPut 0x5C0 0x31).csrRaw 0x5C0) 5 4 ∧ (withT { openPmp (tHart.csrPut 0x5C0 0x31) with mode := .u }).issues (.t 0) = true := by decide

theorem witness_CsrInstructionsComplete : csrAccess t0 tHart 0x340 true = .ok ∧ csrAccess s0 sHart 0x340 false = .ok ∧ csrAccess s0 sHart 0x7C0 true = .ok ∧
    running.issues s0 = true ∧ (((sHart.csrPut 0x7C0 2).csrRaw 0x7C0).getLsbD 1 = true ∧ (withS (sHart.csrPut 0x7C0 2)).issues s0 = true ∧
    csrAccess s0 (sHart.csrPut 0x7C0 2) 0x7C0 true = .ok) ∧ (sHart.csrRaw 0x7C0).getLsbD 1 = false := by decide +kernel

/-- A line of DRAM that T-core 0 holds, and one that cluster 0 holds for S-core 0. -/
def line0 : Nat := 0x8000_0040 / 64
def heldLine : CLine := { CLine.invalid with st := .m, data := 0x1122_3344_5566_7788 }
def withLine (s : State) (l : CLine) : State := { s with coh := { s.coh with l2 := [(l2Key 0 line0, l), (l2Key 192 line0, l)] } }
def moulding (v : Word) (l : CLine) : State := withLine (withS (sHart.csrPut 0x7C0 v)) l
theorem witness_MouldEntry : ((moulding 5 heldLine).hart s0).cleaning = true ∧ ((moulding 5 heldLine).hart s0).uload = [] ∧ ((moulding 5 heldLine).hart s0).begun = false ∧ (moulding 5 heldLine).shareDirty s0 ≠ [] ∧
    ((moulding 4 { heldLine with st := .e }).hart s0).cleaning = true ∧ (moulding 4 { heldLine with st := .e }).shareDirty s0 = [] ∧
    ((sHart.csrPut 0x7C0 4).csrRaw 0x7C0).getLsbD 0 = false ∧ (moulding 5 { heldLine with st := .e }).shareDirty s0 = [] ∧
    ((sHart.csrPut 0x7C0 5).csrRaw 0x7C0).getLsbD 0 = true := by decide +kernel

/-- The vector state on, SEW = 8, LMUL = 1, and the scalar floating point with it. -/
def vHart : Hart := ((tHart.csrPut 0x300 0x2200).csrPut 0xC21 0).csrPut 0xC20 4
theorem witness_VectorInstructionsComplete : (withT vHart).issues t0 = true ∧ vHart.vecLegal true = .ok ∧ vHart.vArithOk .add 3 1 (.v 2) false = true ∧
    (if (vIsFp .add || false) = true then vHart.roundMode 7 else some 0) = some 0 ∧ vHart.fpLegal true = .ok ∧
    (vHart.vShape .unit 1 1 3 false false).isSome = true ∧ (vHart.vShape .unit 1 1 3 false true).isSome = true ∧
    ((vHart.csrPut 0x008 4).vShape .unit 1 1 3 false true).isSome = true ∧ (vHart.csrPut 0x008 4).vActive false 4 4 = [] := by decide +kernel

/-- T-core 0 with x3 the address of its TCM, x4 that of the held line, x5 that of a device register. -/
def addrHart (c : Hart) : Hart := { c with x := [(1, 7), (2, 5), (3, 0x101_0000), (4, 0x8000_0040), (5, 0x1000_0000), (6, 0x8000_1000)] }
def memT : State := withLine { running with tcores := [(0, addrHart tHart)], scores := [(0, addrHart sHart)] } heldLine
def isParts (p : Prep) (f : List Part → Bool) : Bool := match p with | .parts ps => f ps | _ => false
theorem witness_LoadsComplete : memT.issues t0 = true ∧ tHart.hlvLegal true .no = .ok ∧ memT.addrTrig t0 0 0x8000_0040 = none ∧
    isParts (memT.prep t0 .no .load 0x8000_0040 8 8) (fun ps => !(ps.any fun p => p.tgt.region.uncached) &&
      (match (memT.trainLoad t0 (memT.hart t0).pc ps).readParts t0 false ps with | .value _ _ => true | _ => false)) = true ∧
    memT.issues s0 = true ∧ memT.addrTrig s0 0 0x101_0000 = none ∧
    isParts (memT.prep s0 .no .load 0x101_0000 4 4) (fun ps => !(ps.any fun p => p.tgt.region.uncached) &&
      (match (memT.trainLoad s0 (memT.hart s0).pc ps).readParts s0 false ps with | .value _ _ => true | _ => false)) = true ∧
    isParts (memT.prep t0 .no .load 0x1000_0000 8 8) (fun ps => ps.any fun p => p.tgt.region.uncached) = true := by decide +kernel
theorem witness_LoadsComplete_pair : isParts (memT.prep t0 .no .load 0x8000_0040 16 8) (fun ps => !(ps.any fun p => p.tgt.region.uncached) &&
      (match (memT.trainLoad t0 (memT.hart t0).pc ps).readParts t0 true ps with | .value _ _ => true | _ => false)) = true ∧
    isParts (memT.prep t0 .no .load 0x1000_0000 16 8) (fun ps => ps.any fun p => p.tgt.region.uncached) = true ∧ (8 : Fin 32).val % 2 = 0 ∧ (8 : Fin 32) ≠ 0 := by decide +kernel
/-- A hart with one store in its buffer: to its TCM, to the held line, to a line that it does not hold, and to a device register. -/
def sbHart (c : Hart) (pa : Nat) (r : Region) : Hart :=
  { addrHart c with sb := [{ parts := [{ pa := pa, size := 8, off := 0, region := r, ewa := false, tmo := 100000, held := false }], data := 0xAABB, seq := 0, zero := false, retired := true }] }
def sbState (h : HartId) (pa : Nat) (r : Region) : State := memT.setHart h (sbHart (memT.hart h) pa r)
def partAt (pa n : Nat) (r : Region) : Part := { va := BitVec.ofNat 64 pa, pa := pa, size := n, off := 0, tgt := { region := r, io := false, ewa := false, tmo := 100000, held := false } }
theorem witness_LoadForwarding :
    ((([partAt 0x101_0004 4 .tcm].flatMap Part.pieces).all fun p => ((sbHart tHart 0x101_0000 .tcm).aheadPiece p).isSome) = false) ∧
    (sbHit (sbHart tHart 0x101_0000 .tcm).sb [partAt 0x101_0004 4 .tcm]).any (fun e => e.forwards [partAt 0x101_0004 4 .tcm]) = true ∧
    (sbHit (sbHart tHart 0x101_0000 .tcm).sb [partAt 0x101_0004 8 .tcm]).any (fun e => !(e.forwards [partAt 0x101_0004 8 .tcm])) = true ∧
    tHart.early = [] ∧ sbHit tHart.sb [partAt 0x101_0000 4 .tcm] = none ∧ memT.tcmBad (tcmKey s0 0x101_0000) 4 1 = [] ∧ memT.tcmBad (tcmKey s0 0x101_0000) 4 2 = [] := by decide +kernel

/-- A hart that has read its TCM ahead of its next store. -/
def earlyHart : Hart := { addrHart tHart with early := [{ seq := 3, pc := 0x400_0010, pa := 0x8000_0044, size := 4, value := 0, fwd := false, lost := false }] }
theorem witness_StoresComplete : memT.issues t0 = true ∧ (addrHart tHart).hlvLegal true .no = .ok ∧ memT.addrTrig t0 1 0x8000_0040 = none ∧
    isParts (memT.prep t0 .no .store 0x8000_0040 8 8) (fun ps => ((memT.hart t0).violates (sbOf ps 7 0 false)).isNone && (earlyHart.violates (sbOf ps 7 0 false)).isSome) = true ∧
    (memT.hart t0).sb.length < sbMax t0 ∧ (memT.hart s0).sb.length < sbMax s0 ∧ isParts (memT.prep s0 .no .store 0x101_0001 4 4) (fun ps => decide (0 < ps.length)) = true ∧
    isParts (memT.prep t0 .no .store 0x8000_0040 16 8) (fun ps => !(ps.any fun p => p.tgt.region.uncached)) = true ∧
    isParts (memT.prep t0 .no .store 0x1000_0000 16 8) (fun ps => ps.any fun p => p.tgt.region.uncached) = true ∧
    (8 : Fin 32).val % 2 = 0 ∧ isT s0 = false := by decide +kernel

theorem witness_TcmStoreDrain : ((sbState s0 0x101_0000 .tcm).hart s0).sb = (sbHart sHart 0x101_0000 .tcm).sb ++ [] ∧ (sbState s0 0x101_0000 .tcm).phase = .run ∧
    ((sbState s0 0x101_0000 .tcm).hart s0).sb.all (fun e => e.retired && (e.parts[0 % e.parts.length]?).any fun p => p.region == .tcm) = true ∧
    ((sbState s0 0x101_0000 .tcm).hart s0).writeWaits 0 = false ∧
    (sbState s0 0x101_0000 .tcm).tcmBad (tcmKey s0 0x101_0000) 8 1 = [] ∧ (sbState s0 0x101_0000 .tcm).tcmBad (tcmKey s0 0x101_0000) 8 2 = [] := by decide +kernel

def streamState : State := { memT with coh := { memT.coh with streams := [{ agent := 0, slot := 3, cur := line0, mask := 0, up := none, count := 0, since := 0 }] } }
theorem witness_StoreDrainsBeyondTheCore_cached : let u := sbState t0 0x8000_0040 .cached
    let v := sbState t0 0x8000_1000 .cached
    u.phase = .run ∧ (u.hart t0).sb.all (fun e => e.retired && (e.parts[0 % e.parts.length]?).any fun p => p.region == .cached) = true ∧ (u.hart t0).writeWaits 0 = false ∧ u.missFailed (agentOf t0) line0 = false ∧
    u.own t0 line0 0 (isT t0 && u.claims (agentOf t0) line0) = none ∧ (u.dirty t0 0x8000_0040 (atOffset 0 0xAABB) (maskOf 0 8) false).isSome = true ∧
    v.missFailed (agentOf t0) (0x8000_1000 / 64) = false ∧ (v.own t0 (0x8000_1000 / 64) 0 (isT t0 && v.claims (agentOf t0) (0x8000_1000 / 64))).isSome = true := by decide +kernel
/-- A tracked store to a device register, and one to a device page with no unit, which completes at the requester. -/
theorem witness_StoreDrainsBeyondTheCore_uncached : let u := sbState t0 0x1000_0000 .io
    (match u.dest 0x1000_0000 100000 true with | .node _ _ _ => true | _ => false) = true ∧ u.guarRoom t0 = true ∧ ((u.hart t0).writeTag true).isSome = true ∧
    (match u.dest 0x7FFF_0000 100000 true with | .done n => n == 0 | _ => false) = true ∧
    (streamState.coh.streams.find? fun x => isT t0 && x.agent == agentOf t0 && x.slot == 3).isSome = true := by decide +kernel

def resvT (h : HartId) (pa n : Nat) : State := memT.setHart h { memT.hart h with resv := some { block := pa / 128, pa := pa, size := n, deferring := true } }
def sramHart : Hart := { addrHart sHart with x := [(3, 0x400_0000)] }
def isOne (p : Prep) (r : Region) : Bool := match p with | .parts [p] => p.tgt.region == r && !p.tgt.io | _ => false
theorem witness_AtomicsComplete : memT.issues t0 = true ∧ memT.issues s0 = true ∧ (memT.hart t0).sb = [] ∧ (memT.hart t0).writeWaits 0 = false ∧ memT.addrTrig t0 1 0x8000_0040 = none ∧
    isOne (memT.prep t0 .no .store 0x8000_0040 8 8) .cached = true ∧ memT.missFailed (agentOf t0) line0 = false ∧ memT.own t0 line0 (maskOf 0 8) false = none ∧
    (memT.l2 (agentOf t0) line0).poison = false ∧ (memT.dirty t0 0x8000_0040 (atOffset 0 9) (maskOf 0 8) false).isSome = true ∧
    isOne (memT.prep s0 .no .store 0x101_0000 4 4) .tcm = true ∧ memT.tcmBad (tcmKey s0 0x101_0000) 4 1 = [] ∧
    isOne ((withS sramHart).prep s0 .no .store 0x400_0000 8 8) .c0 = true ∧ (withS sramHart).issues s0 = true ∧
    isOne (memT.prep t0 .no .load 0x8000_0040 8 8) .cached = true ∧ isOne (memT.prep s0 .no .load 0x101_0000 4 4) .tcm = true ∧
    memT.addrTrig t0 0 0x8000_0040 = none := by decide +kernel
theorem witness_AtomicsComplete_sc : (resvT t0 0x8000_0040 8).issues t0 = true ∧ ((resvT t0 0x8000_0040 8).hart t0).resv.any (fun r => r.pa == 0x8000_0040 && r.size == 8) = true ∧
    isOne ((resvT t0 0x8000_0040 8).prep t0 .no .store 0x8000_0040 8 8) .cached = true ∧
    ((resvT t0 0x8000_0040 8).dirty t0 0x8000_0040 (atOffset 0 5) (maskOf 0 8) false).isSome = true ∧ (resvT t0 0x8000_0040 8).own t0 line0 (maskOf 0 8) false = none ∧
    ((resvT s0 0x101_0000 4).hart s0).resv.any (fun r => r.pa == 0x101_0000 && r.size == 4) = true ∧ isOne ((resvT s0 0x101_0000 4).prep s0 .no .store 0x101_0000 4 4) .tcm = true ∧
    (memT.hart t0).resv.any (fun r => r.pa == 0x8000_0040 && r.size == 8) = false := by decide +kernel
theorem witness_AtomicsComplete_amocas : (Instr.amocas t0 8 7 2 4).wf = true ∧ isOne (memT.prep t0 .no .store 0x8000_0040 8 8) .cached = true ∧
    lineBytes (memT.l2 (agentOf t0) line0).data 0 8 ≠ (memT.hart t0).pairX 7 8 ∧
    lineBytes (memT.l2 (agentOf t0) line0).data 0 8 = ((memT.hart t0).setX 7 0x1122_3344_5566_7788).pairX 7 8 ∧ (Instr.amocas t0 16 8 2 4).wf = true := by decide +kernel

/-- What a full fence waits for, and one of writes alone; a hart whose fence waits. -/
def fullFence : FenceWait := { writes := true, cached := true, posted := false, reads := true, cost := 4 }
def ioFence : FenceWait := { writes := true, cached := false, posted := false, reads := false, cost := 0 }
def fenceHart (sb : List SbEntry) : Hart := { tHart with sb := sb, fence := some fullFence }
theorem witness_FencesComplete : running.issues t0 = true ∧ tHart.fenceReady fullFence = true ∧
    (sbState t0 0x8000_0040 .cached).issues t0 = true ∧ ((sbState t0 0x8000_0040 .cached).hart t0).fenceReady fullFence = false ∧
    ((sbState t0 0x1000_0000 .io).hart t0).fenceReady ioFence = false ∧ (sbState t0 0x1000_0000 .io).issues t0 = true ∧ isT t0 = true ∧ fullFence.cached = true ∧
    ioFence.cached = false ∧
    (fenceHart []).fenceReady fullFence = true ∧ (withT (fenceHart [])).phase = .run ∧ (fenceHart []).stopped = false ∧ (fenceHart []).held = false ∧
    (fenceHart []).halted = false ∧ (fenceHart []).fatal = false ∧ tHart.sb = [] := by decide

theorem witness_CacheBlockOperationsComplete : memT.issues t0 = true ∧ (memT.hart t0).sb = [] ∧ (memT.hart t0).cboBit true 6 = .ok ∧ (memT.hart t0).cboInval true = .ok ∧
    ({ (tHart.csrPut 0x30A 0x10) with mode := .hs }).cboInval true = .flush ∧ memT.addrTrig t0 1 0x8000_0040 = none ∧
    isOne (memT.prep t0 .no .load 0x8000_0040 64 1) .cached = true ∧ isOne (memT.prep t0 .no .store 0x8000_0040 64 1) .cached = true ∧ memT.canClean t0 line0 .cleanKeep = true ∧
    isOne (memT.prep s0 .no .load 0x101_0000 64 1) .tcm = true ∧ (memT.hart t0).cboBit true 7 = .ok ∧
    xwayLegal t0 (memT.hart t0) false = .ok ∧ xwayLegal s0 (memT.hart s0) true = .ok ∧
    (((memT.agentLines (agentOf t0)).filter fun (_, l) => l.way.val == 0).any fun (_, l) => l.dirtyLine) = true ∧
    (((withLine memT { heldLine with st := .e }).agentLines (agentOf t0)).any fun (_, l) => l.dirtyLine) = false ∧
    ((memT.pfctlOf (agentOf t0)).getLsbD 0) = true ∧ isOne (memT.prep t0 .no .load 0x8000_1000 1 1) .cached = true ∧
    (memT.l2 (agentOf t0) (0x8000_1000 / 64)).st = .i ∧ memT.prefetchable (0x8000_1000 / 64) = true := by decide +kernel

/-- HS-mode with PMP entry 0 open to everything, and a walk that reads the PTE at 0x8010_0008. -/
def hsHart : Hart := { (tHart.csrPut 0x3A0 0x1F).csrPut 0x3B0 0x003F_FFFF_FFFF_FFFF with mode := .hs, x := [(4, 0x1000)] }
def walkAt (level : Nat) (acc : Acc) : Walk :=
  { id := 1, va := 0x1000, acc := acc, eff := .hs, sum := false, mxr := false, hlvx := false, live := true, stage := .single, level := level, top := 3, ptea := 0x8010_0008, gpa := 0, outer := none,
    vleaf := none, asid := 0, vmid := 0, upd := none, adw := false, got := none }
def pteState (w : Walk) (pte : Nat) : State :=
  { withT { hsHart with walks := [w] } with coh := { Coh.reset with l2 := [(l2Key 0 (0x8010_0000 / 64), { CLine.invalid with st := .m, data := BitVec.ofNat 512 pte <<< 64 })] } }
def pteSeen (s : State) : Word := match s.pteRead t0 (walkAt 0 .load) with | .value v _ => BitVec.ofNat 64 v | _ => 0
theorem witness_WalksAndFencesComplete_walk :
    (pteState (walkAt 0 .load) 0xC7).pteCheck t0 0x8010_0008 = none ∧
    pteSeen (pteState (walkAt 0 .load) 0xC7) = 0xC7 ∧ pteReserved 0xC7 0 = false ∧ leafOk true true false false .load false false false false = true ∧
    leafOk true true false true .load false false false false = false ∧ pteReserved 0x03 0 = false ∧ pteReserved 0x1000_0000_0000_0001 0 = true ∧
    (running.pteCheck t0 0x1000_0000).isSome = true ∧ pteReserved 0x2000_0001 2 = false ∧ (hsHart.csrPut 0x30A 0).csrBit 0x30A 61 = false := by decide +kernel
/-- A walk that waits to set A in the PTE that it has read. -/
def adWalk : Walk := { walkAt 0 .load with upd := some 0x87 }
def pteLine : CLine := { CLine.invalid with st := .m, data := 0x87 <<< 64 }
def adState (l : CLine) : State := { withT { hsHart with walks := [adWalk] } with coh := { Coh.reset with l2 := [(l2Key 0 (0x8010_0000 / 64), l)] } }
theorem witness_WalksAndFencesComplete_ad : hsHart.pmpOk 1 0x8010_0008 8 1 = true ∧
    (pmaFind (adState pteLine).pma.masters 0x8010_0008 true).any (fun e => e.c && !e.held) = true ∧
    ((adState pteLine).l2 (agentOf t0) (0x8010_0000 / 64)).writable = true ∧ lineBytes pteLine.data 8 8 = 0x87 ∧ lineBytes CLine.invalid.data 8 8 ≠ 0x87 ∧
    (adState pteLine).mshr (agentOf t0) (0x8010_0000 / 64) = none ∧ (pteLine.mask &&& maskOf 8 8) = maskOf 8 8 ∧
    (adState pteLine).pteCached 0x8010_0008 = true := by decide +kernel
/-- A page table in memory that is not cached. -/
def flatPma (s : State) : State := { s with pma := { s.pma with masters := [(0, { PmaEntry.empty with base := 0x80000, limit := 0xFFFFF, tmo := 1, valid := true })] } }
theorem witness_WalksAndFencesComplete_home : (flatPma (adState pteLine)).pteCached 0x8010_0008 = false ∧ adWalk.got = none ∧ adWalk.live = true ∧ adWalk.stage = .single ∧
    (pmaFind (flatPma (adState pteLine)).pma.masters 0x8010_0008 true).isSome = true ∧ adWalk.upd = some 0x87 ∧
    ((adState pteLine).hart t0).walks.find? (fun w => w.id == 1) = some adWalk := by decide +kernel
/-- R269: a 2 MiB page and a 4 KiB page that share a set of the L2 TLB, whose ninth entry puts one out. -/
def tlbAt (vpn level : Nat) : TlbEntry :=
  { regime := .single, vpn := vpn, level := level, ppn := 0, gppn := 0, r := true, w := false, x := false, mv := true, mh := true, u := false, g := false, a := true, d := false, asid := 0, vmid := 0 }
theorem test_tlb_sets : (tlbAt 5 0).set = (tlbAt (5 * 512) 1).set ∧
    ((List.range 9).foldl (fun l k => tlbPut l (tlbAt (5 + 512 * k) 0)) [tlbAt 6 0]).length = 9 ∧
    ((List.range 33).foldl (fun l k => tlbPut l (tlbAt (2 ^ 18 * k) 2)) []).length = 32 := by decide +kernel
theorem witness_WalksAndFencesComplete_tlb : ({ hsHart with tlb := [tlbAt 1 0] } : Hart).leafIn [tlbAt 1 0] 0x1008 .load .hs false = some (tlbAt 1 0) ∧
    hsHart.leafIn hsHart.tlb 0x1008 .load .hs false = none := by decide +kernel
theorem witness_WalksAndFencesComplete_fence : (withT hsHart).issues t0 = true ∧ hsHart.mode = .hs ∧ hsHart.csrBit 0x300 20 = false ∧ hsHart.quiet = true ∧
    (withT { hsHart with sb := (sbHart tHart 0x8000_0040 .cached).sb }).issues t0 = true ∧ { hsHart with sb := (sbHart tHart 0x8000_0040 .cached).sb }.quiet = false ∧
    (withT { hsHart with mode := .u }).issues t0 = true ∧ (withT { hsHart with mode := .vs }).issues t0 = true ∧ hsHart.csrBit 0x600 20 = false := by decide +kernel

theorem witness_SCoreEntry_vector : (match (withS sramHart).fetchTo s0 0x400_0000 with | .to _ g => g.region == .c0 | _ => false) = true ∧
    (match (withS sramHart).fetchTo s0 0x1000_0000 with | .trap _ => true | _ => false) = true ∧ running.mayEnter s0 = true := by decide +kernel
theorem witness_TrapsTaken_word : running.issues t0 (if Faulting.word 0x0000_0033 = .two then 2 else 4) = true ∧ barred t0 2 (.word 0x0000_300B) = false ∧
    barred t0 2 (.word 0x0000_200B) = true ∧ running.issues t0 (if Faulting.two = .two then 2 else 4) = true := by decide +kernel

/-! ### Hypotheses that hold: coherence -/

/-- The home slice of the line of `heldLine`, and a request of T-core 0 to it. -/
def home0 : Node := sliceNode (homeSlice (64 * line0))
def req0 (op : MsgOp) : Flit := { mkFlit op (agentNode 0) home0 (64 * line0) with tag := 5, who := 0 }
def l3Line : L3Line := { valid := true, dirty := false, data := 0x55, poison := false, token := false, rrpv := 3, way := 2 }
/-- The line in the L3, and an owner or holders in the snoop filter. -/
def homeState (l : L3Line) (e : SfEntry) : State := ((running.setL3 line0 l).setSf line0 e)
theorem witness_LineRequestsGranted : (homeState l3Line .empty).homeFree (req0 .lineRead) = true ∧ (homeState l3Line .empty).sf line0 = .empty ∧
    ((homeState l3Line .empty).sfWay line0).isSome = true ∧ ((homeState l3Line .empty).l3 line0).valid = true ∧
    ((homeState { l3Line with dirty := true, token := true } .empty).l3 line0).dirty = true ∧ lineOf (req0 .lineOwn).addr.toNat = line0 ∧
    (homeState .invalid (sfOnly 0 false 3)).homeFree (req0 .linePromote) = true ∧
    (homeState .invalid (sfOnly 0 false 3)).sf line0 = { holders := [(req0 .linePromote).who], owner := none, coarse := none, way := 3 } ∧
    (homeState .invalid (sfOnly 0 true 3)).sf line0 = { holders := [(req0 .linePromote).who], owner := some 0, coarse := none, way := 3 } ∧
    ((homeState .invalid .empty).l3 line0).valid = false ∧ ((homeState .invalid .empty).sfWay line0).isSome = true := by decide +kernel
theorem witness_LineRequestsGranted_fill : (homeState l3Line (sfOnly 5 true 3)).homeFree (req0 .maskFill) = true ∧
    96 < ({ running with coh := { Coh.reset with waitq := List.replicate 97 (req0 .lineRead) } } : State).trackers (homeSlice (64 * line0)) := by decide +kernel

def returned : Flit := { req0 .returnDirty with data := some 0x99, mask := BitVec.allOnes 64, token := true }
theorem witness_CleanOperationsAnswered : (homeState l3Line (sfOnly 0 false 3)).homeFree (req0 .cleanDrop) = true ∧
    ((homeState l3Line (sfOnly 0 false 3)).sf line0).owner = none ∧ (((sfOnly 0 false 3).agents.filter fun a => decide (a ≠ (req0 .cleanDrop).who)) = []) ∧
    (homeState .invalid (sfOnly 0 true 3)).txn line0 = none ∧ ((homeState .invalid (sfOnly 0 true 3)).sf line0).owner = some returned.who ∧
    returned.mask = BitVec.allOnes 64 ∧ running.heldAt (64 * line0) = false ∧ (running.coh.vb.filter fun v => v.la == 64 * line0) = [] ∧ running.homeTakes returned = true ∧ returned.fwd = false ∧ running.flitTurn (req0 .prefetchRead) = true ∧ running.guarFirst (req0 .prefetchRead) = false ∧
    ((running.openWays (homeSlice (64 * line0))).find? fun w => (inWay (running.l3Set line0) w).isNone).isSome = true ∧
    (sfOnly 5 true 3).owner ≠ some returned.who ∧
    (({ running with coh := { Coh.reset with waitq := [req0 .lineClaim] } } : State).coh.waitq.find? fun f => lineOf f.addr.toNat == line0).isSome = true ∧
    (running.openTxn (req0 .lineClaim) line0).isSome = true := by decide +kernel

/-- PMA entry 0 as memory with C = 0 over all DRAM. -/
def plainPma (ewa : Bool) : State :=
  let e := [(0, { PmaEntry.empty with base := 0x80000, limit := 0xFFFFF, tmo := 1, ewa := ewa, valid := true })]
  { running with pma := { running.pma with entries := e, masters := e } }
theorem witness_UncoherentRequestsServed : (homeState l3Line (sfOnly 5 false 3)).homeFree (req0 .readNc) = true ∧ running.homeC (64 * line0) = true ∧
    ((sfOnly 5 false 3).owner = none) ∧ (plainPma false).homeFree (req0 .writeNc) = true ∧ (plainPma false).homeC (64 * line0) = false ∧
    { req0 .writeNc with ewa := true }.ewa = true ∧ (plainPma false).homeFree { req0 .writeNc with ewa := true } = true ∧ (req0 .writeNc).ewa = false ∧ l3Line.poison = false ∧ running.heldAt (64 * line0) = false ∧
    ((homeState l3Line .empty).openWays (homeSlice (64 * line0))).contains l3Line.way = true ∧ { req0 .atomicNc with fn := .add }.fn ≠ .cas := by decide +kernel

/-- A probe of the line that T-core 0 holds. -/
def probe0 (op : MsgOp) : Flit := { mkFlit op home0 (agentNode 0) (64 * line0) with who := 7, fwd := true }
theorem witness_ProbesAnswered : running.flitTurn (probe0 .probeShare) = true ∧ agentOfNode (probe0 .probeShare).dst = some 0 ∧ (memT.l2 0 line0).st ≠ .i ∧ (memT.l2 0 line0).mask = BitVec.allOnes 64 ∧
    (probe0 .probeShare).fwd = true ∧ memT.deferred 0 line0 = false ∧ (probe0 .probeKill).size ≠ 1 ∧ (memT.l2 0 line0).dirtyLine = true ∧
    ((withLine memT { heldLine with st := .e }).l2 0 line0).dirtyLine = false ∧ (resvT t0 0x8000_0040 8).deferred 0 line0 = true := by decide +kernel

/-- A grant for T-core 0, which has asked for the line. -/
def grant0 (op : MsgOp) : Flit := { mkFlit op home0 (agentNode 0) (64 * line0) with gst := .e, data := some 0x77 }
def asked (op : MsgOp) (l : CLine) : State := (withLine running l).putMshr 0 line0 (some { op := op, tag := 5, got := false, core := none })
def openTxn0 (waits : List Nat) (ack : Bool) : State :=
  running.setTxn line0 (some { req := { req0 .lineOwn with who := 3 }, waits := waits, mem := 0, ack := ack, data := none, mask := 0, dirty := false, poison := false, token := false, fwd := false, done := ack, way := none, seen := [], c1 := true, held := false })
def answer0 (op : MsgOp) : Flit := { mkFlit op (agentNode 5) home0 (64 * line0) with who := 5 }
def vb0 (issued : Bool) : State :=
  { running with coh := { Coh.reset with vb := [{ la := 64 * line0, data := 3, mask := BitVec.allOnes 64, poison := false, token := true, issued := issued, txn := false }] } }
def wb0 : State :=
  { running with coh := { Coh.reset with wb := [{ agent := 0, la := 64 * line0, st := .m, data := 3, mask := BitVec.allOnes 64, poison := false, token := true }] } }
theorem witness_GrantsAndAnswersTaken : agentOfNode (grant0 .dataGrant).dst = some 0 ∧ (asked .lineRead .invalid).flitTurn (grant0 .dataGrant) = true ∧
    ((asked .lineRead .invalid).mshr 0 line0).isSome = true ∧ (grant0 .grant).fwd = false ∧ (openTxn0 [5, 6] false).flitTurn (answer0 .probeAck) = true ∧
    (running.coh.fills.filter fun f => agentOfNode f.dst == some 0) = [] ∧ tabGet false running.coh.noAlloc 0 = false ∧
    ((agentHarts 0).all fun h => !((running.hart h).uload.any fun u => u.dest == .maint && u.wait.isSome)) = true ∧ (grant0 .dataGrant).size ≠ 2 ∧ (running.l2 0 line0).st = .i ∧
    (running.freeWay 0 line0).isSome = true ∧ (grant0 .dataGrant).src.sub.val = 1 ∧ (asked .linePromote { heldLine with st := .s }).mshr 0 line0 = some .linePromote ∧
    ((asked .linePromote { heldLine with st := .s }).l2 0 line0).st ≠ .i ∧ ((asked .lineClaim .invalid).l2 0 line0).st = .i ∧
    (asked .lineClaim .invalid).mshr 0 line0 = some .lineClaim ∧ ((asked .lineClaim .invalid).freeWay 0 line0).isSome = true ∧
    (asked .cleanKeep heldLine).mshr 0 line0 = some .cleanKeep ∧ ((openTxn0 [5, 6] false).txn line0).any (fun x => x.waits.contains 5 && x.waits.erase 5 != []) = true ∧
    ((openTxn0 [5] false).txn line0).any (fun x => x.waits.erase 5 == [] && x.req.who != 1023) = true ∧
    ((openTxn0 [] true).txn line0).any (fun x => x.ack && x.req.who == 3) = true ∧
    (wb0.coh.wb.find? fun e => e.agent == 0 && lineOf e.la == line0).isSome = true ∧ ((vb0 false).coh.vb.find? fun e => e.la == 64 * line0 && !e.issued).isSome = true ∧
    ((vb0 true).coh.vb.find? fun e => e.la == 64 * line0 && e.issued).isSome = true := by decide +kernel

/-! ### Hypotheses that hold: registers, mesh, links -/

/-- MTIMECMP of T-core 0, and the address of PW_HRST of T-core 0. -/
def mtimecmp0 : La := 0x1023_1000
theorem witness_RegisterWritesComplete : areaOf running mtimecmp0.toNat = .device ∧ running.pageOff mtimecmp0.toNat = false ∧
    locate mtimecmp0.toNat = (.mtimecmp t0, 8, mtimecmp0.toNat) ∧ mayWrite (DevReg.mtimecmp t0).guard (.hart t0 .m) = true ∧
    (locate 0x1020_1010) = (.pmaCtl, 4, 0x1020_1010) ∧ mayWrite DevReg.pmaCtl.guard (.hart t0 .hs) = false ∧ mayWrite DevReg.pmaCtl.guard (.engine 0) = false ∧
    locate 0x1020_1000 = (.pkgId, 4, 0x1020_1000) ∧ mayWrite DevReg.pkgId.guard (.hart t0 .m) = true ∧ areaOf running 0x8000_0000 ≠ .device ∧ accBytes .b2 < 4 ∧
    running.pageOff 0x1020_1010 = false ∧ running.issues t0 = true ∧ (0x1020_1012 : La).toNat % accBytes .b4 ≠ 0 ∧ (0x1020_1012 : La).toNat % accBytes .b2 = 0 ∧
    areaOf running (0x1020_1012 : La).toNat = .device ∧ r31At 0x1020_1010 4 = true ∧ r31At 0x2000_0000 8 = false := by decide +kernel

def pmaStaged (lock busy : Bool) (base : BitVec 35) : State :=
  { running with pma := { running.pma with base := base, limit := 0x9FFFF, attr := 0x0001_9005, lock := lock, busy := busy } }
theorem witness_PmaRegistersComplete : mayWrite .r31 (.hart t0 .m) = true ∧ (0x0000_1005 : BitVec 32).getLsbD 31 = false ∧ (0x8000_0005 : BitVec 32).getLsbD 12 = false ∧
    (pmaStaged true false 0x90000).pma.lock = true ∧ (pmaStaged false true 0x90000).pma.busy = true ∧ (pmaStaged false false 0xA0000).pma.staged.err ≠ 0 ∧
    (pmaStaged false false 0x90000).pma.staged.err = 0 ∧ running.issues t0 = true ∧ Mode.u ≠ Mode.m := by decide +kernel

def answerTo (dst : Node) (op : MsgOp) (sts : BitVec 8) : Flit := { mkFlit op home0 dst (64 * line0) with tag := 256, data := some 9, mask := 0xFF, sts := sts, size := 8 }
def awaiting : State :=
  withT { tHart with track := [{ tag := 256, pa := 64 * line0, size := 8, stop := nodeStop home0, remote := false, ewa := false, deadline := 100, seq := 0 }] }
/-- A link that is up in group 2 toward package 3, with an entry of the home table for its request. -/
def linked : State :=
  { running with graop := { Graop.reset with links := [(1, { Link.reset with st := .up, group := some 2 })], routes := [(3, { v := true, group := 2, hops := 1 })],
                                             homes := [{ spkg := 3, glink := 1, gtag := 17, link := 1, tag := 256, op := .rdNc }] } }
def rootBusy : State := running.setIommu 0 { Iommu.reset with inflight := [{ tag := rootIo 1 0, write := false, stale := false, pa := 0x9000_0000, deadline := 100 }] }
def sbaBusy : State := { running with sec := { Sec.reset with sbBusy := some 500 } }
theorem witness_UncachedAnswersTaken : hartOfNode (answerTo (hartNode t0) .writeDone 0).dst = some t0 ∧ (awaiting.hart t0).awaits 256 = true ∧
    agentOfNode (answerTo (agentNode 0) .errorReply 3).dst = some 0 ∧ (((running.putMshr 0 line0 (some { op := .prefetchRead, tag := 256, got := false, core := none })).mshrOf 0 line0).any fun m => m.tag == (answerTo (agentNode 0) .errorReply 3).tag.toNat) = true ∧
    awaiting.flitTurn (answerTo (hartNode t0) .writeDone 0) = true ∧ (awaiting.hart t0).rstBusy = false ∧ (awaiting.hart t0).late = [] ∧
    (running.hart t0).awaits 256 = false ∧ hartOfNode (linkNode 1) = none ∧ stopType (nodeStop (linkNode 1)) = 0x11 ∧
    (linked.graop.homes.find? fun e => e.link == stopUnit (nodeStop (linkNode 1)) && e.tag == 256).isSome = true ∧ (linked.route 3).v = true ∧
    linked.memberLink (linked.route 3).group (64 * line0) = some 1 ∧ stopType (nodeStop (pcieNode 1)) = 0x12 ∧ hartOfNode (pcieNode 1) = none ∧
    ((rootBusy.iommuSt (stopUnit (nodeStop (pcieNode 1)) / 3)).inflight.any fun a => a.tag == rootIo (stopUnit (nodeStop (pcieNode 1))) 0) = true ∧
    hartOfNode mgmtNode = none ∧ stopType (nodeStop (mkNode (stopId 0 32) 0)) = 0x08 ∧ hartOfNode (mkNode (stopId 0 32) 0) = none ∧
    agentOfNode (mkNode (stopId 0 32) 0) = none ∧ sbaBusy.sec.sbBusy = some 500 ∧ sbaBusy.time < 500 ∧ { sbaBusy with time := 500 }.sec.sbBusy = some 500 := by decide +kernel

theorem witness_RoutesGoXThenY : 33 % 32 ≠ 70 % 32 ∧ 33 % 32 = 65 % 32 := by decide
/-- A flit at the L input of stop 0 for stop 40, and one for a node of stop 0 itself. -/
def flitAt (dst : Node) : State := running.send (mkFlit .lineRead (mkNode 0 0) dst 64)
theorem witness_FlitsMove : ((flitAt (mkNode 40 0)).chooseFlit 0 .e).any (fun w => w.inp == .l && w.flit.op != .unused && !((flitAt (mkNode 40 0)).isOrphan w)) = true ∧
    ((flitAt (mkNode 0 1)).chooseFlit 0 .l).isSome = true ∧ (neighbour 0 .l) = none ∧ (neighbour 0 .e).isSome = true ∧ running.chooseFlit 0 .e = none ∧ tabGet 0 running.mesh.sentAt (0 * 5 + 1) ≠ running.mesh.cycle + 1 ∧
    tabGet 0 ({ running.mesh with ret := [(creditKey 0 .e 2 .l, 1)] } : Mesh).ret (creditKey 0 .e 2 .l) ≠ 0 := by decide +kernel

/-- Mailbox 0 busy with a request: the header of R429 with the code and the length, then the payload. -/
def mail (code : Nat) (pl : List Byte) : State :=
  { running with
    ren := { Rennet.reset with up := true, started := true, mbox := [(0, { Mbox.reset with st := .busy, valid := true, cls := 0x1FF, last := 303, seq := 7 })] },
    mem := { State.reset.mem with mbox := memPut [] 0x100 (leBytes 2 code ++ leBytes 2 pl.length ++ leBytes 4 0xCAFE ++ leBytes 8 0 ++ pl) } }
def bytes (l : List Nat) : List Byte := l.map (BitVec.ofNat 8)
/-- MESH_WHEEL_RESERVE of a path of one slot from stop (0,0) toward the cluster of C-tile 0. -/
def reserveMail (l : List Nat) : State := mail 0x0501 (bytes l)
def pathReq : List Nat := [0, 6, 1, 4, 0, 0, clusterStop 0 % 32, clusterStop 0 / 32]
def reserved : State := match running.reserve .path 6 1 0 (clusterStop 0) none 4 with | some (u, _) => u | none => running
/-- A mailbox request in a state that holds that reservation. -/
def wheelMail (code r : Nat) : State := let s := mail code (bytes [r]); { s with mesh := reserved.mesh }
def releasing (at_ : Nat) : State :=
  { reserved with mesh := { reserved.mesh with
      cycle := 50, resv := reserved.mesh.resv.map fun (k, r) => (k, r.map fun v => { v with inject := false, releaseAt := some at_ }) } }
theorem witness_WheelCommandsComplete : (reserveMail pathReq).serves 0 0x0501 = true ∧ isCluster (clusterStop 0) = true ∧
    (reserveMail pathReq).mesh.resv = [] ∧ (reserveMail pathReq).bindings (clusterStop 0) < 8 ∧
    ((reserveMail pathReq).reserve .path 6 1 0 (clusterStop 0) none 4).isSome = true ∧ (running.reserve .path 6 1 0 (clusterStop 0) none 4).isSome = true ∧
    (wheelMail 0x0502 1).serves 0 0x0502 = true ∧ (tabGet none (wheelMail 0x0502 1).mesh.resv 1).any (fun v => v.owner.isNone) = true ∧
    (wheelMail 0x0502 0).serves 0 0x0502 = true ∧ tabGet none (wheelMail 0x0502 5).mesh.resv 5 = none ∧
    (tabGet none (releasing 60).mesh.resv 1).any (fun r => r.releaseAt == some 60) = true ∧ (releasing 60).mesh.cycle < 60 ∧ 40 ≤ (releasing 40).mesh.cycle ∧
    tabWf 0 reserved.mesh.wheel = true ∧ (wheelMail 0x0503 1).serves 0 0x0503 = true ∧ (wheelMail 0x0503 200).serves 0 0x0503 = true := by decide +kernel

/-! ### Hypotheses that hold: Graop -/

def pkt0 (op : PktOp) (dpkg : Fin 512) : Pkt :=
  { op := op, dpkg := dpkg, spkg := 3, vc := 0, poison := false, glink := 1, gtag := 17, sts := 0, size := 8, hop := 0, addr := 0x8000_0040, data := 5, mask := 0xFF, fn := .add }
/-- Link 1 in a state; link 2 of group 1 is up toward package 5. -/
def linkState (k : Link) : State :=
  { running with
    graop := { Graop.reset with links := [(1, k), (2, { Link.reset with st := .up, group := some 1 })], routes := [(3, { v := true, group := 2, hops := 1 }), (5, { v := true, group := 1, hops := 1 })] },
    plat := { Platform.shipped with topo := .tree, npkg := 6, children := [(2, 3, 3), (1, 5, 5)], linkGroup := [(1, some (2, 3)), (2, some (1, 5))] } }
def upLink : Link := { Link.reset with st := .up, width := 2, group := some 2, nbr := 3, retry := [{ seq := 4094, pkts := [] }, { seq := 4095, pkts := [] }], rxNext := 7 }
def served (s : State) : State := { s with ren := { s.ren with up := true } }
theorem witness_LinksCarryFrames : ((linkState { upLink with st := .recovery }).link 1).st ≠ .up ∧ ((linkState upLink).link 1).st = .up ∧
    ({ upLink with replay := [{ seq := 3, pkts := [] }] }).replay = [{ seq := 3, pkts := [] }] ∧ (upLink.inj.getLsbD 31 = false) ∧
    (packFrame upLink.credUsed 25 [] [pkt0 .rdNc 3]).1 ≠ [] ∧ (packFrame upLink.credUsed 25 [] upLink.queue).1 = [] ∧ upLink.retry.length < 128 ∧
    (0x8400_0000 : BitVec 32).getLsbD 31 = true ∧ fld (0x8400_0000 : BitVec 32) 27 24 = 4 ∧
    upLink.retry.findIdx? (fun f => f.seq == (4094 : Fin 4096).val) = some 0 ∧ upLink.retry.findIdx? (fun f => f.seq == (9 : Fin 4096).val) = none ∧ upLink.replayAt.length < 256 ∧ 256 ≤ (List.replicate 257 0).length ∧ (∀ x ∈ (List.replicate 257 0).take 256, upLink.downAt ≤ x + 1000000) ∧ 6 < (7 : Fin 225).val ∧ (6 : Fin 225).val ≤ 6 ∧ (0 : Fin 8) ≠ 1 ∧
    8 ≤ ({ upLink with streak := 7 }).streak + 1 ∧ upLink.streak + 1 < 8 ∧ (8 : Fin 4096).val ≠ upLink.rxNext ∧ (7 : Fin 4096).val = upLink.rxNext ∧
    (∃ p ∈ [(pkt0 .unused 3, (0 : Fin 16))], p.1.op = .unused ∨ p.1.vc.val = 7) ∧ ((pkt0 .rdNc 3).op = .rdNc ∧ (1 : Fin 16).val ≠ 0) ∧
    ((pkt0 .routeAdv 3).op = .routeAdv ∧ 8 < (9 : Fin 16).val) ∧ upLink.syncpar = false ∧ running.ren.started = false := by decide +kernel
/-- A package whose boot flow has set the memory map and waits for the fabric. -/
def starting : State := served { State.reset with dram := { State.reset.dram with map := 0x8000_0000, chans := (List.range 48).map fun i => (i, { Chan.reset with st := .online }) } }
theorem witness_LinksCarryFrames_life : ((linkState { upLink with st := .recovery, recFails := 2 }).link 1).st = .recovery ∧ 2 ≤ ({ upLink with recFails := 2 }).recFails ∧
    upLink.recFails < 2 ∧ RecEnd.full ≠ .failed ∧ ((linkState { upLink with st := .down }).link 1).st = .down ∧ (served (linkState upLink)).ren.up = true ∧
    (linkState { upLink with st := .down }).groupLinks 2 = [] ∧ (linkState upLink).plat.topo ≠ .ring ∧ ((linkState upLink).route 3).v = true ∧
    ((linkState upLink).route 3).group = 2 ∧ tabWf Route.none (linkState upLink).graop.routes = true ∧ (linkState upLink).groupLinks 2 ≠ [] ∧
    tabGet none (linkState upLink).plat.linkGroup 1 = some (2, 3) ∧ ((linkState { upLink with st := .training }).link 1).st = .training ∧
    ({ upLink with st := .down, group := none }).group = none ∧ (linkState upLink).wayTo 3 = some 2 ∧
    running.mayStart = false ∧ starting.mayStart = true ∧ mayWrite .r31 (.hart t0 .m) = true := by decide +kernel
/-- The 12 check symbols make a message a codeword: every root of the generator is a root (R301). -/
theorem test_frame_codeword : let w := [3, 200, 17, 96] ++ rsSymbols 12 [3, 200, 17, 96]
    w.length = 16 ∧ (List.range 12).all (fun k => gfEval w.reverse (gfAlpha k) == 0) = true := by decide +kernel
/-- Header of an RdNC: DPKG, OP, VC and ADDR stand where R306 puts them. -/
theorem test_packet_header : pktHeader { pkt0 .rdNc 5 with vc := 3 } =
    BitVec.ofNat 128 (5 * 2 ^ 119 + 3 * 2 ^ 110 + 0x01 * 2 ^ 104 + 3 * 2 ^ 101 + 1 * 2 ^ 93 + 17 * 2 ^ 81 + 8 * 2 ^ 66 + 0x8000_0040) := by decide +kernel
theorem witness_PacketsCrossTheFabric : let s := linkState upLink
    (s.link 1).st = .up ∧ (pkt0 .rdNc 5).dpkg.val ≠ s.ownPkg ∧ 511 < ({ pkt0 .rdNc 5 with hop := 511 }).hop + 1 ∧
    ((s.takePkt 1 (pkt0 .rdNc 5)).forward { pkt0 .rdNc 5 with hop := 1 }).isSome = true ∧ (pkt0 .rdNc 0).dpkg.val = s.ownPkg ∧ (s.route 3).v = true ∧ (s.route 9).v = false ∧
    s.graop.refuse = false ∧ s.refusesInbound (pkt0 .rdNc 0) = false ∧ s.refusesInbound { pkt0 .rdNc 0 with addr := 0x400_0000 } = true ∧
    s.homeIo 0x8000_0040 = false ∧ s.homeIo 0x1023_1000 = true ∧
    (match s.dest (s.ownPkg * 2 ^ 47 + 0x8000_0040) 0 false with | .node _ _ _ => true | _ => false) = true ∧
    ((List.range 1024).find? fun k => !(s.graop.homes.any fun e => e.link == 1 && e.tag == k)).isSome = true ∧ s.tagEntry 1 17 = none ∧
    ({ upLink with group := none }).group = none ∧ (s.link 1).group = some 2 := by decide +kernel
def tagged : State :=
  let s := linkState upLink
  { s with graop := { s.graop with tags := [{ link := 1, idx := 17, node := hartNode t0, tag := 256, freeAt := 900, op := .rdNc, dpkg := 3, la := 0x8000_0040, via := { v := true, group := 2, hops := 1 } }] } }
theorem witness_PacketsCrossTheFabric_tag : (tagged.tagEntry 1 17).isSome = true ∧ ((linkState { upLink with st := .down }).link 1).st ≠ .up := by decide +kernel

theorem witness_DramMapIsOneToOne : (47 : Nat) < 48 ∧ 15 < 16 ∧ 27 < 28 ∧ 0x8000_0000 ≤ 0x8000_0040 ∧ 0x8000_0040 % 64 = 0 := by decide

/-! ### Hypotheses that hold: memory channels -/

/-- The channel of the line, online, with what its queues hold. -/
def ch0 : Fin 48 := Fin.ofNat 48 (running.chanOf (64 * line0))
def onlineCh : Chan := { Chan.reset with st := .online }
def chanState (c : Chan) : State := running.setChan ch0.val c
def memFlit (op : MsgOp) : Flit := { mkFlit op home0 (chanNode ch0.val) (64 * line0) with tag := 5, data := some 0x66, mask := BitVec.allOnes 64 }
def memReq (k : MemKind) : MemReq := running.memReqOf k (memFlit .memRead)
/-- A channel that holds the check line of the request, and one with another, dirty, of its bank's other row. -/
def cachedCh : Chan := { onlineCh with clc := [(checkKey (memReq .write), false)] }
def dirtyCh : Chan := { onlineCh.useCheck { memReq .write with row := (memReq .write).row + 1 } true with open_ := [((memReq .write).bank, (memReq .write).row + 2)] }
theorem witness_DramRequestsServed : ((chanState onlineCh).chan ch0.val).st = .online ∧ (chanState onlineCh).pow.portOff.getLsbD (ch0.val / 2) = false ∧
    onlineCh.room (memReq .read) = true ∧ onlineCh.writeTo (memReq .read).la = none ∧
    (({ onlineCh with bankq := [memReq .write] }).writeTo (memReq .read).la).any (fun (w : MemReq) => w.kind != MemKind.masked) = true ∧
    ({ onlineCh with bankq := [memReq .write] }).room (memReq .read) = true ∧ onlineCh.injCtl.getLsbD 31 = false ∧
    ({ memFlit .memWriteMasked with mask := 0xFF }).mask ≠ BitVec.allOnes 64 ∧ ({ onlineCh with st := .offline }).st = .offline ∧
    Chan.reset.st ∉ [ChState.online, .shortRetrain, .offline] ∧ (BitVec.allOnes 24).getLsbD (ch0.val / 2) = true ∧
    onlineCh.phaseIn.pick = none ∧ onlineCh.staging = [] ∧ onlineCh.gstaging = [] ∧ onlineCh.repairq = [] ∧
    (({ onlineCh with bankq := [memReq .read] }).phaseIn.pick).any (fun (p : MemReq × Bool) => !p.1.isWrite && onlineCh.reads p.1 && (onlineCh.before p.1).isNone) = true ∧
    (({ cachedCh with bankq := [memReq .write] }).phaseIn.pick).any (fun (p : MemReq × Bool) => p.1.kind == MemKind.write && p.1.inj == 0 && !cachedCh.reads p.1 && (cachedCh.before p.1).isNone) = true ∧
    cachedCh.retryRoom 2 = true ∧ ({ onlineCh with retry := List.replicate 15 (0, 0) }).retryRoom 2 = false ∧
    (({ dirtyCh with bankq := [memReq .masked] }).phaseIn.pick).any (fun (p : MemReq × Bool) => p.1.kind == MemKind.masked && (dirtyCh.before p.1).isSome) = true ∧
    onlineCh.retrainEnd = none ∧ 3 ≤ ({ onlineCh with streak := 3 }).streak ∧ (running.chan ch0.val).st ≠ .online ∧
    (running.mark (64 * line0)).decode = .clean ∧ LineMark.decode { err := 0x5A, poison := false, aerr := 0 } = .corrected 0x5A ∧
    LineMark.decode { err := 0, poison := true, aerr := 0 } = .poisoned 0 ∧ LineMark.decode { err := 0, poison := false, aerr := 1 } = .bad true ∧
    onlineCh.injected 7 = false ∧ onlineCh.injected 6 = false ∧ onlineCh.streak < 3 ∧ onlineCh.wstreak < 3 ∧ onlineCh.replayAt.length < 63 ∧ onlineCh.justRetrained = false := by decide +kernel
theorem witness_DramUpkeepComplete : (([memReq .write].find? fun r => r.isWrite)).isSome = true ∧ ({ onlineCh with st := .shortRetrain }).st = .shortRetrain ∧
    ([memReq .read].any fun r => r.bank == (memReq .read).bank) = true ∧ tabGet 0 onlineCh.pulled 3 = 0 ∧ tabGet 0 onlineCh.postponed 3 < 8 ∧
    85 < (86 : BitVec 8).toInt ∧ (0x80 : BitVec 8).toInt ≤ 80 ∧ 80 < (85 : BitVec 8).toInt ∧ running.dram.scrubHours ≠ 0 ∧ onlineCh.scrubBusy = false ∧
    ({ onlineCh with report := some 35 }).report = some 35 ∧ (served running).ren.up = true ∧ mayWrite .r31 (.hart t0 .m) = true ∧
    running.chanOf (64 * line0) = ch0.val ∧ areaOf running (64 * line0) = .dram := by decide +kernel

/-! ### Hypotheses that hold: Rennet's commands -/

/-- A request in mailbox 0 with its payload padded to `len` bytes. -/
def req (code len : Nat) (l : List Nat) : State :=
  let s := mail code (bytes l ++ List.replicate (len - l.length) 0)
  { s with ren := { s.ren with notices := [{ code := 1, detail := 5, time := 7 }] } }
/-- The same request with a buffer of `k` bytes at `a` granted. -/
def reqBuf (code len : Nat) (l : List Nat) (a k : Nat) : State :=
  let s := req code len l
  s.setMb 0 { s.mb 0 with grant := some (a, k, true) }
/-- A request in mailbox 31 before the first host instruction. -/
def req31 (code len : Nat) (l : List Nat) : State :=
  let pl := bytes l ++ List.replicate (len - l.length) 0
  { running with
    ren := { Rennet.reset with up := true, started := false, mbox := [(31, { Mbox.reset with st := .busy, valid := true, cls := 0x1FF, last := 303, seq := 7 })] },
    mem := { State.reset.mem with mbox := memPut [] 0x1F100 (leBytes 2 code ++ leBytes 2 len ++ leBytes 4 0xCAFE ++ leBytes 8 0 ++ pl) } }
/-- A request about link 1, which is in state `st`. -/
def reqLink (code : Nat) (st : LinkState) : State :=
  let s := req code 1 [1]
  { s with graop := (linkState { upLink with st := st }).graop, plat := (linkState upLink).plat }

theorem witness_RennetCommandsChecked : (mail 0x0001 []).inTurn 0 = true ∧ (mail 0x0001 []).reqCode 0 = 0x0001 ∧
    (mail 0x0001 (bytes [0])).cmdStatus 0 = 2 ∧ (mail 0x1234 []).cmdStatus 0 = 1 ∧ (mail 0x0001 []).inTurn 1 = false := by decide +kernel
theorem witness_RennetCommandsChecked_status : (mail 0x0001 []).reqAt 0 8 8 = 0 ∧ cmdRow 0x1234 = none ∧ cmdRow 0x0001 = some (0, some 0, none) ∧
    (mail 0x0001 []).reqLen 0 = 0 ∧ ((mail 0x0001 []).setMb 0 { (mail 0x0001 []).mb 0 with cls := 0 }).cmdStatus 0 = 4 ∧
    (mail 0x0001 []).bindingOk 0 0x0001 = true ∧ (mail 0x0001 []).cmdStatus 0 = 0 ∧
    ({ mail 0x0001 [] with mem := { State.reset.mem with mbox := [(0x108, 1)] } } : State).reqAt 0 8 8 ≠ 0 := by decide +kernel
theorem witness_RennetQueriesAnswered : (req 0x0001 0 []).serves 0 0x0001 = true ∧ (req 0x0302 1 [48]).serves 0 0x0302 = true ∧ 47 < (req 0x0302 1 [48]).arg 0 0 1 ∧
    (req 0x0302 1 [47]).arg 0 0 1 ≤ 47 ∧ (req 0x0701 4 [0, 1, 1, 1]).serves 0 0x0701 = true ∧ 256 < (req 0x0701 4 [0, 1, 1, 1]).arg 0 2 2 ∧
    (req 0x0701 4 [0, 1, 0, 1]).arg 0 2 2 = 256 ∧ (req 0x0701 4 [0, 1, 0, 1]).arg 0 0 2 + 256 ≤ 512 ∧ (req 0x0701 4 []).arg 0 2 2 = 0 ∧
    (req 0x0702 1 [8]).serves 0 0x0702 = true ∧ (req 0x0702 1 [8]).arg 0 0 1 = 8 ∧ (req 0x0702 1 [7]).arg 0 0 1 ≤ 7 ∧
    (req 0x0706 0 []).serves 0 0x0706 = true ∧ (req 0x0804 0 []).serves 0 0x0804 = true ∧ (req 0x0810 0 []).serves 0 0x0810 = true := by decide +kernel
theorem witness_RennetQueriesAnswered_lists : (req 0x0404 1 [63]).serves 0 0x0404 = true ∧ (req 0x0404 1 [64]).arg 0 0 1 = 64 ∧
    ((req 0x0404 1 [63]).instance_ 63).st = .none ∧ (((req 0x0404 1 [63]).setInstance 63 { Instance.reset with st := .active }).instance_ 63).st ≠ .none ∧
    (req 0x0003 1 [64]).serves 0 0x0003 = true ∧ (req 0x0003 1 [64]).arg 0 0 1 = 64 ∧ (req 0x0003 1 []).arg 0 0 1 = 0 ∧
    (reqBuf 0x0305 20 [] 0x8010_0000 64).serves 0 0x0305 = true ∧ (reqBuf 0x0305 20 [] 0x8010_0000 64).bufOk 0 = true ∧
    (reqBuf 0x0305 20 [0, 0, 1] 0x8010_0000 64).arg 0 2 6 ≠ 0 ∧ (reqBuf 0x0305 20 [] 0x8010_0020 64).bufOk 0 = false ∧
    (reqBuf 0x0A01 20 [] 0x8010_0000 64).serves 0 0x0A01 = true ∧ (reqBuf 0x0A01 20 [] 0x8010_0000 64).bufOk 0 = true ∧
    (reqBuf 0x0A01 20 [0, 0, 0, 0, 1] 0x8010_0000 64).arg 0 4 4 ≠ 0 := by decide +kernel
theorem witness_RennetSettingsTaken : (req 0x0002 8 [3, 0xFF, 1, 0, 0, 0, 4, 0]).serves 0 0x0002 = true ∧ someHart 0 4 = true ∧ someHart 5 4 = false ∧
    ((req 0x0002 8 [3, 0xFF, 1, 0, 0, 0, 4, 0]).mb 3).st ≠ .busy ∧ ((mail 2 []).mb 0).st = .busy ∧
    (req 0x0301 16 []).serves 0 0x0301 = true ∧ (req 0x0301 16 []).ren.started = true ∧ (req31 0x0301 16 [0, 0, 0, 0, 0, 0, 0, 0, 5]).serves 31 0x0301 = true ∧
    (req31 0x0301 16 [0, 0, 0, 0, 0, 0, 0, 0, 5]).arg 31 8 8 = 5 ∧ 1 < (req 0x0301 16 [2]).arg 0 0 1 ∧
    (req 0x0303 2 [168]).serves 0 0x0303 = true ∧ (req 0x0303 2 [168]).arg 0 0 2 = 168 ∧ 168 < (req 0x0303 2 [169]).arg 0 0 2 ∧
    (req 0x0304 8 [0, 0, 0, 0x90]).serves 0 0x0304 = true ∧ areaOf running ((req 0x0304 8 [0, 0, 0, 0x90]).arg 0 0 8) = .dram ∧
    areaOf running ((req 0x0304 8 [0, 0, 0, 0x10]).arg 0 0 8) ≠ .dram ∧ (req 0x0304 8 []).dram.retired.length < 4096 ∧
    4096 ≤ ({ running.dram with retired := List.replicate 4096 { ch := 0, bank := 0, row := 0, cause := 0 } }).retired.length ∧
    (req 0x0705 64 [1]).serves 0 0x0705 = true := by decide +kernel
theorem witness_RennetSettingsTaken_power : (reqLink 0x0704 .off).serves 0 0x0704 = true ∧ ((reqLink 0x0704 .off).link ((reqLink 0x0704 .off).arg 0 0 1)).st = .off ∧
    tabGet none (reqLink 0x0704 .off).plat.linkGroup 1 = some (2, 3) ∧ ((reqLink 0x0704 .up).link 1).st ≠ .off ∧ 7 < (req 0x0704 1 [8]).arg 0 0 1 ∧
    (req 0x0610 3 [5, 15, 1]).serves 0 0x0610 = true ∧ 5 < (req 0x0610 3 [6, 15, 1]).arg 0 0 1 ∧ (req 0x0610 3 [0xFF, 15, 15]).scansDone = true ∧
    ({ req 0x0610 3 [0, 1, 0] with coh := { running.coh with wayOff := [(0, 1)] } }).scansDone = false ∧
    (req 0x0801 2 [0xEE, 2]).serves 0 0x0801 = true ∧ (req 0x0801 2 [0xEE, 2]).arg 0 0 2 = 750 ∧ (req 0x0801 2 [0xC1, 1]).arg 0 0 2 = 449 ∧
    (req 0x0802 26 (List.replicate 24 0 ++ [0x10, 0x0E])).serves 0 0x0802 = true ∧ (req 0x0802 26 (List.replicate 24 0 ++ [0x10, 0x0E])).arg 0 24 2 = 3600 ∧
    (req 0x0802 26 []).arg 0 24 2 < 1000 ∧ (req 0x0803 2 [0xD0, 7]).serves 0 0x0803 = true ∧ (req 0x0803 2 [0xD0, 7]).arg 0 0 2 = 2000 ∧
    (req 0x0803 2 [0xD0, 7]).reserved = false ∧ State.reserved { req 0x0803 2 [0xD0, 7] with mesh := reserved.mesh } = true ∧
    (req 0x0805 3 [0, 5, 1]).serves 0 0x0805 = true ∧ (req 0x0805 3 [0, 5, 1]).bifurOff 5 = false ∧ (req 0x0805 3 [1, 1, 0]).arg 0 1 1 = 1 ∧
    ((req 0x0805 3 [1, 1, 0]).instance_ 32).st = .none ∧ ((req 0x0805 3 [1, 1, 0]).dma 32).busy = false ∧ 1 < (req 0x0805 3 [2]).arg 0 0 1 ∧
    State.bifurOff { running with plat := { running.plat with bifur0 := .x16x8 } } 1 = true := by decide +kernel

/-! ### Hypotheses that hold: security, instances, mailboxes, Rennet -/

/-- A debug token with correct fields. -/
def tokOf (l : Fin 4) (inst : Nat) (cf : BitVec 8) : DbgToken :=
  { magicOk := true, level := l, inst := inst, confirm := cf, zerosOk := true, uidOk := true, nonceOk := true, keyOk := true, sigOk := true }
def imgOf (len : Nat) : ImageInfo :=
  { headerOk := true, sigOk := true, hashOk := true, keyOk := true, svn := 9, keyslot := 0, version := 7, length := len }
def quoteReq (k : Nat) : State := reqBuf 0x0901 76 (List.replicate 72 0 ++ [0, 0x20]) 0x8010_0000 k
def tokReq (l : List Nat) (lev : Fin 4) (k : Nat) : State := let s := reqBuf 0x0903 20 l 0x8010_0000 k; { s with sec := { s.sec with level := lev } }
def imgReq (t k : Nat) : State := reqBuf 0x0904 13 (List.replicate 12 0 ++ [t]) 0x8010_0000 k
def tokens (k : DbgToken) (n : Option (Fin 32)) : State :=
  { mail 0x0903 [] with sec := { running.sec with toks := [(k, n)] }, ren := { (mail 0x0903 []).ren with unfinished := [(.token, some 0)] } }

theorem witness_SecurityCommandsComplete : (quoteReq 8192).serves 0 0x0901 = true ∧ 8192 ≤ (quoteReq 8192).arg 0 72 4 ∧ (quoteReq 8192).bufOk 0 = true ∧
    (quoteReq 8191).bufOk 0 = false ∧ (quoteReq 8192).sec.seedErased = false ∧ (List.replicate 4627 (0 : Byte)).length = 4627 ∧ (req 0x0901 76 []).arg 0 72 4 < 8192 ∧
    (reqBuf 0x0902 12 [] 0x8010_0000 64).serves 0 0x0902 = true ∧ (reqBuf 0x0902 12 [] 0x8010_0000 64).bufOk 0 = true ∧
    (reqBuf 0x0811 12 [0, 0, 0, 0, 0, 0, 0, 0, 64] 0x8010_0000 64).serves 0 0x0811 = true ∧ (reqBuf 0x0811 12 [0, 0, 0, 0, 0, 0, 0, 0, 64] 0x8010_0000 64).arg 0 8 4 = 64 ∧
    ((reqBuf 0x0811 12 [0, 0, 0, 0, 0, 0, 0, 0, 64] 0x8010_0000 64).bufGet 0 64).isSome = true ∧ (reqBuf 0x0812 12 [] 0x8010_0000 64).serves 0 0x0812 = true ∧
    (tokReq [1] 2 4864).serves 0 0x0903 = true ∧ (tokReq [1] 2 4864).arg 0 0 1 < 2 ∧ (tokReq [1] 2 4864).arg 0 8 8 = 0 ∧ (tokReq [2] 2 4000).bufOk 0 = false ∧
    (tokReq [2] 2 4864).bufOk 0 = true ∧ (tokReq [2] 2 4864).peekPoison ((tokReq [2] 2 4864).buf 0).1 4800 = false ∧ (tokReq [3, 0xA5] 2 4864).arg 0 1 1 = 0xA5 := by
  decide +kernel
theorem witness_SecurityCommandsComplete_images : (imgReq 1 7488).serves 0 0x0904 = true ∧ (imgReq 1 7488).bufOk 0 = true ∧ (imgReq 1 7488).imageOk 1 (imgOf 64) = true ∧
    7424 + (imgOf 64).length ≤ (imgReq 1 7488).plat.hsize ∧ (imgReq 1 7488).peekPoison ((imgReq 1 7488).buf 0).1 7488 = false ∧ 1 < (imgReq 2 64).arg 0 12 1 ∧
    (imgReq 1 7487).bufOk 0 = false ∧ (imgReq 1 7488).imageOk 1 { imgOf 64 with sigOk := false } = false ∧
    (req 0x0905 1 [1]).serves 0 0x0905 = true ∧ tabGet false (req 0x0905 1 [1]).ren.staged 1 = false ∧ 1 < (req 0x0905 1 [2]).arg 0 0 1 ∧
    (tokens (tokOf 2 0xFF 0) none).tokenValid (tokOf 2 0xFF 0) = true ∧ (tokens (tokOf 2 3 0) none).tokenValid (tokOf 2 3 0) = false ∧
    (tokens (tokOf 2 3 0) (some 0)).sec.toks = [(tokOf 2 3 0, some 0)] ∧ (tokens (tokOf 3 0xFF 0xA5) none).tokenValid (tokOf 3 0xFF 0xA5) = true ∧
    ((tokens (tokOf 2 3 0) (some 0)).ren.unfinished.find? fun x => x.1 == .token) = some (.token, some 0) ∧ running.flushed = false := by decide +kernel

/-- INSTANCE_CREATE with windows of 4 KiB at 0x8000_0000. -/
def createReq (i nch nwin bw : Nat) : State :=
  req 0x0401 (72 + 16 * nwin) ([i, nch, nwin, bw, 0, 0, 191, 0] ++ List.replicate 64 0 ++
    (List.range nwin).flatMap fun j => [3, 0x10 * j, 0, 0x80, 0, 0, 0, 0, 0, 0x10 * j, 0, 0x80, 0, 0, 0, 0])
def inst33 : Instance :=
  { Instance.reset with st := .active, slots := [32, 33], first := 3, last := 9, wins := [{ base := 0, limit := 0, r := true, w := true }], denied := 5, ridq := 1, ridr := 2, bw := 1 }
def instState (v : Instance) (s : State) : State :=
  { s with eng := { s.eng with chans := [(32, { Dma.reset with inst := some 33 }), (33, { Dma.reset with inst := some 33 })], insts := [(33, v)] } }

theorem witness_InstancesLiveAndDie : (createReq 33 7 16 0).serves 0 0x0401 = true ∧ (createReq 33 7 16 0).windowsBad 0 16 = false ∧
    fld ((createReq 33 7 16 0).argDc 0) 3 1 = 0 ∧ ((createReq 33 7 16 0).instance_ 33).st = .none ∧ 7 ≤ ((createReq 33 7 16 0).freeChans 1).length ∧
    16 ≤ (createReq 33 7 16 0).freeWins 1 ∧ ((createReq 33 7 16 0).reservePair 33 0).isSome = true ∧ (createReq 33 7 16 0).arg 0 0 1 = 33 ∧
    63 < (createReq 64 1 1 0).arg 0 0 1 ∧ (req 0x0402 1 [33]).serves 0 0x0402 = true ∧ ((instState inst33 (req 0x0402 1 [33])).instance_ 33).st ≠ .none ∧
    (instState inst33 (req 0x0402 1 [33])).serves 0 0x0402 = true ∧ (instState inst33 (req 0x0403 1 [33])).serves 0 0x0403 = true ∧
    ((req 0x0403 1 [33]).instance_ 33).st = .none ∧ 63 < (req 0x0403 1 [64]).arg 0 0 1 := by decide +kernel
theorem witness_InstancesLiveAndDie_full : (State.reservePair { running with mesh := { running.mesh with resv :=
      ((List.range' 1 7).map fun k => (k, some { form := .fan, vc := 5, k := 1, src := engineStop 0, dst := 0, owner := none, agent := 1, bound := 0, inject := true, releaseAt := none })) } } 0 1).isNone = true := by decide +kernel
theorem witness_InstancesLiveAndDie_page : inst33.st ≠ .none ∧ inst33.admits (.hart (.t 3) .u) true = true ∧ inst33.admits (.hart (.t 2) .u) true = false ∧
    inst33.admits .rennet false = true ∧ inst33.admits .sba false = false ∧ Instance.reset.st = .none ∧
    ((instState { inst33 with st := .draining } running).instance_ 33).st = .draining ∧ (∀ c ∈ inst33.slots, ((instState inst33 running).dma c).writesOut = false) ∧
    ({ inst33 with destroying := true }).destroying = true ∧ inst33.destroying = false := by decide +kernel

def boxState (st : MbState) (last : Nat) : State := let s := mail 0x0903 []; s.setMb 0 { s.mb 0 with st := st, last := last }
theorem witness_MailboxesChangeState : (boxState .idle 0).mbAdmits 0 (.hart (.t 4) .m) = false ∧ (boxState .idle 303).mbAdmits 0 (.hart (.t 4) .m) = true ∧
    ((boxState .idle 303).mb 0).st = .idle ∧ ((boxState .busy 303).mb 0).st = .busy ∧ ((boxState .done 303).mb 0).st = .done ∧ ((boxState .down 303).mb 0).st = .down ∧
    (((boxState .busy 303).setMb 0 { (boxState .busy 303).mb 0 with ran := some 4 }).mb 0).ran = some 4 ∧ (mail 0x1234 []).inTurn 0 = true ∧
    (mail 0x1234 []).reqAt 0 8 8 = 0 ∧ cmdRow 0x1234 = none ∧ (running.mb 31).st ≠ .busy ∧ (0x7FC : Nat) + 4 ≤ 0x800 ∧ (0x101 : Nat) % 4 ≠ 0 ∧
    (reqLink 0x0703 .up).serves 0 0x0703 = true ∧ ((reqLink 0x0703 .up).link 1).st ≠ .domainOff ∧ ((reqLink 0x0703 .domainOff).link 1).st = .domainOff ∧
    7 < (req 0x0703 1 [8]).arg 0 0 1 ∧ ((linkState { upLink with disabling := true }).link 1).disabling = true ∧
    (linkState { upLink with disabling := true, queue := [], replay := [], retry := [] }).linkBusy 1 = false ∧ (linkState upLink).linkBusy 1 = true := by decide +kernel
theorem witness_MailboxesChangeState_scan : (tabGet 0 ([(2, 1)] : Tab (BitVec 4)) 2).getLsbD 0 = true ∧
    State.groupLines { running with coh := { running.coh with wayOff := [(2, 1)] } } 2 0 = [] ∧ running.coh.vb = [] := by decide +kernel
theorem witness_RennetRunsAndRestarts : running.ren.up = false ∧ (served running).ren.up = true ∧ 0 ≤ (served running).brineLimit ∧ (served running).reserved = false ∧
    3600 ≤ min 3600 ((served running).lifeLimit 3) ∧ tabGet 0 (served running).mesh.wheel (wheelKey 3 .e 5) ≠ 1 ∧ (0x8000_0000 : Pa).toNat = 0x8000_0000 ∧
    (served running).granted 0x8000_0000 true = none ∧ resetsRennet 1 = false ∧ (served running).ren.fenced = false ∧
    ({ running.ren with fenced := true }).fenced = true ∧ running.phase ≠ .inert ∧ ({ running.sec with boot := 7 }).boot ≠ 8 ∧ running.ren.unfinished = [] := by
  decide +kernel

/-! ### Hypotheses that hold: interrupts, events, counters -/

def srcState (n : Nat) (c : Source) : State := let s := running.setSource n c; { s with irq := { s.irq with ieM := true, ieS := true } }
def pendingSrc (target : BitVec 32) (sup : Bool) : Source := { Source.reset with mode := .edge1, ip := true, ie := true, target := target, deleg := sup }
theorem witness_InterruptsReachTheHarts : (1 : Fin 1024).val ≠ 0 ∧ (354 : Fin 1024).val ≤ 354 ∧ 354 < (355 : Fin 1024).val ∧
    (0x400 : BitVec 32).getLsbD 10 = true ∧ delegable 1 = true ∧ delegable 354 = false ∧ ((srcState 7 (pendingSrc 9 true)).source 7).deleg = true ∧
    (running.source 7).deleg = false ∧ (4 : BitVec 32).getLsbD 10 = false ∧ modeOfCode (fld (4 : BitVec 32) 2 0) = some .edge1 ∧ modeOk 7 .edge1 = true ∧
    modeOfCode (fld (2 : BitVec 32) 2 0) = none ∧ modeOk 7 .level0 = false ∧ modeOfCode (fld (7 : BitVec 32) 2 0) = some .level0 ∧
    (({ Source.reset with mode := .edge1 } : Source).rectified = false) ∧ ((srcState 7 (pendingSrc 9 false)).source 7).ip = true ∧
    (srcState 7 (pendingSrc 9 false)).irq.ieM = true ∧ (devNode 0x2800_0000).isSome = true ∧ devNode (0x2800_0000 + 192 * 0x1000) = none ∧
    fileExists t0 .mach = true ∧ fileExists s0 .sup = false ∧ (running.file t0 .mach).top = 0 := by decide +kernel
theorem witness_InterruptsReachTheHarts_timers : ({ ImFile.reset with deliv := 1, eip := 2, eie := 2 } : ImFile).top ≠ 0 ∧ (running.hart t0).idle = .run ∧
    running.time < 2 ^ 64 ∧ running.stimer s0 = none ∧ (let c : Hart := { tHart with csr := [(0x14D, 500), (0x30A, 0x8000_0000_0000_0000)] }
    c.csrBit 0x30A 63 = true ∧ c.csrBit 0x60A 63 = false ∧ c.idle = .run) := by decide +kernel

def evState (src : List (Nat × BitVec 32)) (snk : List (Nat × BitVec 32)) : State :=
  { running with irq := { running.irq with evsrc := src, evsnk := snk, events := [(2 ^ 320 - 1, 9)] } }
theorem witness_EventLinesCarryPulses : running.irq.gpioIn.getLsbD 3 = false ∧ fld ((evState [(131, 0x8200_0011)] []).evsrc 131) 25 24 = 2 ∧
    (tabGet 0 (evState [(5, 0x8000_00AA)] []).irq.evsrc 5).getLsbD 31 = true ∧ (tabGet 0 running.irq.evsrc 5).getLsbD 31 = false ∧
    mayWrite .r31 (.hart t0 .m) = true ∧ Mode.u ≠ Mode.m ∧ (tabGet 0 ([(1, 0x8000_0000_0000_0064)] : Tab Word) 1).getLsbD 63 = true ∧
    100 ≤ fld (0x8000_0000_0000_0064 : Word) 31 0 ∧ fld (0x8000_0000_0000_0063 : Word) 31 0 < 100 := by decide +kernel
theorem witness_EventLinesCarryPulses_sinks : (∀ j, j < 16 → (evState [] []).listens (128 + j) 9 = false) ∧
    (∀ m, m < 128 ∨ m = 144 → sinkStop m = 3 → (evState [] []).listens m 9 = false) ∧ (3 : Fin 320).val ≠ aplicStop ∧
    (evState [] [(5, 0x8000_0009)]).listens 5 9 = true ∧ (evState [] [(64, 0x8000_0009)]).listens 64 9 = true ∧ sinkStop 5 ≠ aplicStop ∧ sinkStop 64 ≠ aplicStop ∧
    (∀ j, j < 16 → (evState [] [(5, 0x8000_0009)]).listens (128 + j) 9 = false) ∧ (evState [] []).engineOff 0 = false := by
  refine ⟨by decide +kernel, ?_, by decide, by decide +kernel, by decide +kernel, by decide +kernel, by decide +kernel, by decide +kernel, by decide +kernel⟩
  intro m hm _
  rcases hm with hm | hm
  · exact (by decide +kernel : ∀ m, m < 128 → (evState [] []).listens m 9 = false) m hm
  · subst hm; decide +kernel
/-- No other sink at the stop of sink 5, or of sink 64, listens. -/
theorem witness_EventLinesCarryPulses_one : (∀ m, m < 128 → m ≠ 5 → sinkStop m = sinkStop 5 → (evState [] [(5, 0x8000_0009)]).listens m 9 = false) ∧
    (evState [] [(5, 0x8000_0009)]).listens 144 9 = false ∧ (∀ m, m < 128 → m ≠ 64 → sinkStop m = sinkStop 64 → (evState [] [(64, 0x8000_0009)]).listens m 9 = false) ∧
    (evState [] [(64, 0x8000_0009)]).listens 144 9 = false := by decide +kernel

def fullHart : Hart := { tHart with csr := [(0x323, 0x0000_0045_0000_0001), (0xB00, BitVec.allOnes 64), (0xB02, BitVec.allOnes 64), (0xB03, BitVec.allOnes 64)] }
def countBank (sel : BitVec 32) : Bank := { Bank.reset with evsel := [(2, sel)], cnt := [(1, 7), (2, 0xFFFF_FFFF_FFFE)] }
def ladle0 : Ladle := { running.perf.ladle with log2sz := 16, base := 0x8010_0000, lead := 3, seq := 4 }
/-- A channel stop. -/
def chanStop : Nat := ((List.range 320).find? fun i => bwBank i 1 && hasBank i 1).getD 0
/-- Ladle after every stop has latched its banks. -/
def latchedState (base : Word) : State :=
  { running with perf := { running.perf with
      banks := stopsInOrder.map fun st => (bankKey st 0, { Bank.reset with latch := some { cnt := [], ev := [], ovf := 1, late := false, off := false, fix0 := 0, fix1 := 0 } }),
      ladle := { ladle0 with en := true, collect := true, base := base, head := 64 } } }

theorem witness_CountersAndSnapshots : ((withT fullHart).hart t0).csrBit 0x320 3 = false ∧ ((withT fullHart).hart t0).csrRaw 0xB03 = BitVec.allOnes 64 ∧ 3 ≤ hpmTop t0 ∧
    ((withT fullHart).hart t0).csrRaw 0xB00 = BitVec.allOnes 64 ∧ hpmTop s0 < 31 ∧ hasBank 3 0 = true ∧ (countBank 0x8000_0001).freeze = false ∧
    ((countBank 0x8000_0001).sel 2).getLsbD 31 = true ∧ ((countBank 0x8000_0001).sel 2).getLsbD 26 = false ∧ running.agentOff 3 0 = false ∧
    mayWrite .r31 (.hart t0 .m) = true ∧ bwBank chanStop 1 = true ∧ hasBank chanStop 1 = true ∧ (5 : BitVec 16) ≠ 0 ∧ 5000 % ((5 : BitVec 16).toNat * 1000) = 0 ∧
    5001 % ((5 : BitVec 16).toNat * 1000) ≠ 0 ∧ Bank.reset.window = 0 := by decide +kernel
theorem witness_CountersAndSnapshots_ladle : running.perf.ladle.en = false ∧ running.ringOk ladle0 = true ∧ running.ringOk { ladle0 with log2sz := 15 } = false ∧
    (0 + ladle0.size - ladle0.tail.toNat % ladle0.size) % ladle0.size + 37888 ≤ ladle0.size - 64 ∧
    ladle0.size - 64 < (27648 + ladle0.size - ladle0.tail.toNat % ladle0.size) % ladle0.size + 37888 ∧ running.perf.ladle.period.toNat < 10 ∧ 10 ≤ (10 : BitVec 32).toNat ∧
    (running.bankOf 3 0).latch = none ∧ ((latchedState 0x8010_0000).bankOf 3 0).latch.isSome = true ∧ (∃ st ∈ stopsInOrder, (running.bankOf st 0).latch = none) := by
  refine ⟨by decide +kernel, by decide +kernel, by decide +kernel, by decide +kernel, by decide +kernel, by decide +kernel, by decide +kernel, by decide +kernel,
    by decide +kernel, 0, by decide +kernel, by decide +kernel⟩
theorem latched_writable : ∀ i, i < banksInOrder.length + 2 → (latchedState 0x8010_0000).ringWritable
    ((latchedState 0x8010_0000).perf.ladle.base.toNat + (64 + 64 * i) % (latchedState 0x8010_0000).perf.ladle.size) = true := by decide +kernel
theorem witness_CountersAndSnapshots_done : (∀ st ∈ stopsInOrder, ((latchedState 0x8010_0000).bankOf st 0).latch.isSome = true) ∧
    ((latchedState 0x8010_0000).ringWrite 64 (latchedState 0x8010_0000).snapshot).2 = none ∧
    ((latchedState 0x1000).ringWrite 64 (latchedState 0x1000).snapshot).2 = some 64 :=
  ⟨by decide +kernel, ringWrite_none _ _ _ fun i hi => latched_writable i (Nat.lt_of_lt_of_le hi (snapshot_length _)), by decide +kernel⟩

/-! ### Hypotheses that hold: power, errors, resets -/

def idleAt (h : HartId) (i : Idle) : State := running.setHart h { running.hart h with idle := i, since := 1000, maxc := 2, tol := 0xFFFF }
def wakeReady (h : HartId) : State := let s := idleAt h .c3; { s.setHart h { s.hart h with csr := [(0x304, 0x80)] } with time := 2 ^ 64 - 1 }
theorem witness_IdleStatesAndRetention : ((idleAt t0 .c1).hart t0).idle = .c1 ∧ ((idleAt t0 .c1).passTo 11000).mayDeepen t0 = true ∧
    ((idleAt t0 .c1).hart t0).admits 1 2000 = true ∧ ((idleAt s0 .c2).hart s0).idle = .c2 ∧ ((idleAt s0 .c2).passTo 201000).mayDeepen s0 = true ∧
    ((idleAt s0 .c2).hart s0).admits 2 40000 = true ∧ (running.hart t0).idle ≠ .c1 ∧ tabWf CLine.invalid (memT).coh.l2 = true ∧
    ((idleAt t0 .c3).hart t0).idle = .c3 ∧ hartIdx t0 ∉ (idleAt t0 .c3).pow.coreOff ∧ (idleAt t0 .c3).recorded (agentOf t0) = false ∧
    (wakeReady t0).wakes t0 = true ∧ (wakeReady s0).wakes s0 = true ∧ running.pow.retention = false ∧ running.phase = .run ∧ (running.passTo (running.idleSince + 1000000)).mayRetain = false ∧
    ({ running.pow with retention := true }).retention = true ∧ running.wakeOk .timer = true ∧ running.wakeOk .gpio = false ∧ running.sec.level = 0 := by decide +kernel
/-- Every hart in C3, with nothing in progress. -/
def restful : State :=
  let f (r : Hart) (i : Nat) : Nat × Hart := (i, { r with idle := .c3, since := 500, tol := 0xFFFF, maxc := 2 })
  { served running with
    tcores := (List.range 192).map (f Hart.resetT), scores := (List.range 48).map (f Hart.resetS), dram := { running.dram with chans := (List.range 48).map fun i => (i, onlineCh) },
    coh := { running.coh with l3 := [(line0, { L3Line.invalid with valid := true, dirty := true, data := 0x777 })] } }
theorem witness_IdleStatesAndRetention_package : (restful.passTo (restful.idleSince + 1000000)).mayRetain = true ∧ line0 ∈ restful.dirtyLines ∧
    (restful.chan (restful.chanOf (64 * line0))).st = .online := by decide +kernel
theorem witness_LimitsAndBudgetFollowReadings : running.ren.up = false ∧ (served running).ren.up = true ∧ running.pow.limitW < 751 ∧ ¬ (running.pow.limitW < 750) ∧
    11 * running.pow.limitW < 10 * 826 ∧ min (2 ^ 24) (8000 * (1300 : BitVec 32).toNat - 10000000) ≠ (served running).budgetGoal ∧
    (served running).plat.budgetCap = none ∧ min (2 ^ 24) (8000 * (1250 : BitVec 32).toNat - 10000000) = (served running).budgetGoal ∧ running.brine.readAt = none ∧
    ({ running.brine with readAt := some 44 }).readAt = some 44 ∧ tabWf (0 : Nat) running.brine.allow = true ∧ (395 : Nat) < 396 ∧ ordOf 1 = none ∧ (ordOf 0).isSome = true ∧
    400000 < ({ running.brine with budget := 500000 }).budget := by decide +kernel

/-- Two error records of tile 0. -/
def logged : State := served ((running.logErr (mkErr 0x14 3 (stopId 0 36) true)).logErr (mkErr 0x0A 1 (stopId 0 36) true))
def failing : State :=
  { served running with
    pow := { running.pow with pfail := some 50 }, pma := { running.pma with entries := running.pma.entries.map fun (k, e) => (k, { e with held := true }) },
    dram := { running.dram with chans := (List.range 48).map fun i => (i, onlineCh) },
    coh := { running.coh with l3 := [(line0, { L3Line.invalid with valid := true, dirty := true, data := 0x777 })] } }
theorem witness_ErrorsFlushAndStop : logged.ren.up = true ∧ (logged.errRec 0 0).v = true ∧ (logged.errRec 0 1).v = true ∧ (logged.errRec 1 0).v = false ∧ (logged.errRec 0 1).cls < 2 ∧
    2 ≤ (logged.errRec 0 0).cls ∧ ((0, 0, (logged.errRec 0 0).order) : Nat × Nat × Nat) ∉ logged.ren.logCopied ∧ logged.ren.log.length < 16384 ∧
    mayWrite .r31 (.hart t0 .m) = true ∧ Mode.u ≠ Mode.m ∧ (running.hart t0).fatal = false ∧ ({ tHart with fatal := true }).fatal = true ∧ running.phase ≠ .inert ∧
    failing.pow.pfail = some 50 ∧ failing.flushed = false ∧ failing.heldStores = [] ∧ (failing.flits ++ failing.coh.waitq) = [] ∧ line0 ∈ failing.dirtyLines ∧
    failing.heldAt (64 * line0) = true ∧ (failing.chan (failing.chanOf (64 * line0))).st = .online ∧ running.pow.pfail = none := by decide +kernel
/-- A package in whose boot flash both slots of Rennet's image fail. -/
def imageless : State := { running with ren := { running.ren with slots := [(0, some { imgOf 64 with sigOk := false }), (1, some { imgOf 64 with sigOk := false })] } }
def booted (s : State) : State := ((s.coldBase (s.flushOutcome == 1)).applyCommit 0).applyCommit 1
theorem witness_ResetsAndTheFirstInstruction : running.flushing = false ∧
    State.flushing { running with pow := { running.pow with pfail := some 0 }, time := 5000 } = true ∧ (booted imageless).bootSlot 0 = none ∧
    (booted State.reset).bootSlot 0 = some 0 ∧ State.reset.plat.mapOk = true ∧ State.reset.flushOutcome ≠ 1 ∧ running.phase ≠ .inert ∧ running.pow.trip = false ∧
    ({ running.sec with boot := 2 }).boot ≠ 0 ∧ ({ running.sec with boot := 2 }).boot ≠ 8 ∧ running.sec.boot = 0 ∧ mayWrite .r31 (.hart t0 .m) = true ∧ Mode.u ≠ Mode.m ∧
    ({ tHart with held := true }).setResetHalt = false ∧ ({ tHart with held := true }).rstBusy = false ∧ tHart.held = false ∧ tHart.fatal = false ∧ tHart.sb = [] ∧
    tHart.early = [] ∧ tHart.track = [] ∧ tHart.uload = [] ∧ tHart.idle = .run ∧ State.permitted { running with sec := { running.sec with level := 2 } } t0 = true ∧
    (running.hart t0).fatal = false ∧ State.canIssue { served running with ren := { running.ren with hostOk := true } } (.t 0) = true ∧
    running.ren.started = false ∧ running.ren.raiseOtp = false := by decide +kernel
/-- A flush has completed, and the platform finds what it saved. -/
def savedState : State :=
  { running with phase := .inert, plat := { running.plat with savedOk := BitVec.allOnes 48 },
                 ren := { running.ren with flush := { running.ren.flush with
                            valid := true, complete := true, consumed := false, map := running.plat.map, popDens := running.plat.dens.toNat, popClam := running.plat.clam } } }
theorem witness_ResetsAndTheFirstInstruction_saved : savedState.flushOutcome = 1 ∧ savedState.flushed = true ∧
    ({ tHart with fatal := true, rstBusy := true }).fatal = true ∧ (running.hart s0).sb = [] ∧ (running.flits ++ running.coh.waitq) = [] := by decide +kernel

/-! ### Hypotheses that hold: debug, root ports, transfer engines, IOMMUs, the machine -/

def atLevel (l : Fin 4) (s : State) : State := { s with sec := { s.sec with level := l } }
def haltedAt (h : HartId) : State := atLevel 3 (running.setHart h { running.hart h with halted := true })
theorem witness_DebuggersReachTheHarts : running.permitted t0 = false ∧ (atLevel 3 running).debugUp = true ∧ (atLevel 3 running).permitted s0 = true ∧
    (running.hart t0).halted = false ∧ (running.hart t0).idle = .run ∧ (running.hart t0).early = [] ∧ (running.hart t0).runs = true ∧ (atLevel 3 running).mayHalt t0 = true ∧
    (running.hart t0).haltGroup = 0 ∧ ({ tHart with haltGroup := 2 }).haltGroup ≠ 0 ∧ ({ tHart with stopped := true }).runs = false ∧ ((haltedAt t0).hart t0).halted = true ∧
    (Idle.c3 ≠ Idle.run) ∧ (0x1000 : Fin 65536).val < 0x1020 ∧ (0x1FFF : Fin 65536).val ≥ 0x1040 ∧ (0x342 : Fin 65536).val / 0x100 % 4 = 3 := by decide +kernel
theorem witness_DebuggersReachTheHarts_memory : (match (haltedAt t0).absPrep t0 true .store 0x20_0000 4 with | .trap _ => true | _ => false) = true ∧
    (match (haltedAt t0).absPrep t0 true .store 0x8000_0000 8 with | .parts ps => decide (ps.length ≤ sbMax t0) | _ => false) = true ∧
    2 ≤ (atLevel 2 running).sec.level ∧ (atLevel 2 running).sec.sbBusy = none ∧ (atLevel 2 running).sbCheck 0x8000_0008 8 true = 0 ∧
    (match (atLevel 2 running).dest 0x8000_0008 100000 true with | .node _ _ _ => true | _ => false) = true ∧ running.isLocal 0x8000_0008 = true ∧
    (match (atLevel 2 running).dest 0x7FFF_0000 100000 true with | .done n => n == 0 | _ => false) = true ∧ (0x8000_0001 : Pa).toNat % accBytes .b2 ≠ 0 ∧
    pmaFind running.pma.masters 0x1_0000_0000_0000 true = none ∧ running.isLocal 0x8000_8000_0000 = false := by decide +kernel

/-- IOMMU 0 in Bare mode. -/
def bare : State := running.setIommu 0 { Iommu.reset with ddtp := 1 }
def rootOk (a : Word) (write : Bool) : Bool :=
  match bare.rootTag 1 with
  | some tag => (match (bare.tlpReceived 1 0).rootPa 1 5 none a write tag with
    | .ok u pa e => !e.io && (match u.dest pa (e.tmo.toNat * 1000) write with | .node _ _ _ => true | _ => false)
    | _ => false)
  | none => false
def rootSays (q : Iommu) (a : Word) (write : Bool) : Nat :=
  match (running.setIommu 0 q).rootPa 1 5 none a write 0 with | .ok _ _ e => (if e.io then 1 else 0) | .refused _ => 2 | .wait _ => 3
def cplReq (op : MsgOp) (cfg : Bool) : PcieReq := { ctl := 1, tag := 7, req := { mkFlit op (hartNode t0) (pcieNode 1) 0x40_0000_0000 with tag := 5, size := 8 }, cfg := cfg }
theorem witness_RootPortsAnswer : bare.pcieUp 1 = true ∧ State.pcieUp { bare with pow := { bare.pow with retention := true } } 1 = false ∧ bare.rootTag 1 = some 0 ∧
    rootOk 0x8000_0000 false = true ∧ rootOk 0x8000_0000 true = true ∧ rootSays Iommu.reset 0x8000_0000 false = 2 ∧
    rootSays { Iommu.reset with ddtp := 4 + 0x80100 * 1024 } 0x8000_0000 false = 3 ∧
    pcieAtomic .add 8 0x8000_0000 = true ∧ pcieAtomic .xor 8 0x8000_0000 = false ∧ rootSays { Iommu.reset with ddtp := 1 } 0x2800_0000 true = 1 ∧
    ((bare.setIommu 0 { Iommu.reset with inflight := (List.range 256).map fun t => { tag := rootIo 1 t, write := false, stale := false, pa := 0x9000_0000, deadline := 100 } }).rootTag 1) = none ∧
    bare.pcie.posted = [] ∧ (∃ p ∈ [(1, 5, 9)], p.1 = (1 : Fin 6).val ∧ p.2.1 = (5 : BitVec 16).toNat) ∧
    ([cplReq .readNc false].find? fun r => r.ctl == 1 && r.tag == 7) = some (cplReq .readNc false) ∧ (cplReq .readNc true).cfg = true ∧
    (cplReq .writeNc false).req.op = .writeNc ∧ bare.pcie.reqs = [] := by decide +kernel

def copySet : DmaSet := { ctl := 0x0010_0000, src := 0x8000_0000, dst := 0x8000_2000, len := 256, rows := 0, sstride := 0, dstride := 0, next := 0 }
def fillSet : DmaSet := { copySet with ctl := 0x0012_0000 }
def chan5 (d : Dma) : State := bare.setDma 5 d
/-- A channel whose set has issued its requests. -/
def issuedSet : Dma := { Dma.reset with act := copySet, st := .run, pos := 256, setNo := 1, loads := 1, evs := [(1, false)] }
def descReq : DmaReq := { tag := 3, write := false, va := 0x8000_1000, pos := 0, bytes := 64, set_ := 1, deadline := 100, desc := true }
def descLine : Line := BitVec.ofNat 512 (0x8000_0000 + 0x8000_3000 * 2 ^ 64 + 128 * 2 ^ 128 + 0x0010_0000 * 2 ^ 256)
theorem witness_ChannelsRunTheirSets : (chan5 issuedSet).instance_ 3 = .reset ∧ ((chan5 { issuedSet with inst := some 3 }).dma 5).inst = some 3 ∧
    ((chan5 { issuedSet with inst := some 3 }).instance_ 3).st ≠ .active ∧ issuedSet.inst = none ∧ issuedSet.busy = true ∧ ({ issuedSet with st := .error }).busy = false ∧
    copySet.badParam = false ∧ copySet.total ≠ 0 ∧ ({ copySet with ctl := 0x20_0000 }).badParam = true ∧ issuedSet.writesOut = false ∧ issuedSet.issued = true ∧ issuedSet.chainDone = true ∧ ({ issuedSet with pos := 64 }).chainDone = false ∧
    issuedSet.ending = none ∧ copySet.legal.badParam = false ∧ copySet.legal.total ≠ 0 ∧ (fld ({ issuedSet with cfg := 0x1_0000 }).cfg 31 16 ≠ 0 ∧ issuedSet.remain = 0) ∧
    fld issuedSet.cfg 31 16 = 0 ∧ copySet.next = 0 ∧ ({ copySet with next := 0x8000_1000 }).next ≠ 0 ∧ descBad descLine = false ∧ descBad (descLine ||| (1 <<< 300)) = true ∧
    (descSet descLine).legal.badParam = false ∧ (descSet descLine).legal.total ≠ 0 ∧ ({ issuedSet with st := .armed }).st = .armed ∧ ({ issuedSet with trigPend := true }).trigPend = true ∧
    ({ copySet with ctl := 0x10_0040 }).trig = true := by decide +kernel
def order0 (s : State) : List Nat := (List.range 32).map fun k => 32 * (0 : Fin 2).val + (tabGet 0 s.eng.rot (0 : Fin 2).val + 1 + k) % 32
def reading : Dma := { issuedSet with pos := 64 }
def filling : Dma := { issuedSet with act := fillSet, pos := 64 }
/-- Whether the engine's next piece of channel 5 passes its checks and has a target. -/
def pieceOk (s : State) (va : Word) (n : Nat) (write : Bool) (tag : Nat) : Bool :=
  match ({ s with eng := { s.eng with rot := tabSet 0 s.eng.rot 0 5 } } : State).dmaAddr 5 va n write tag with
  | .ok u a => !a.io && (match u.dest a.pa a.tmo write with | .node _ _ _ => true | _ => false)
  | _ => false
theorem witness_ChannelsRunTheirSets_issue : (∀ c ∈ order0 bare, bare.dmaReady c = false) ∧ ((order0 (chan5 reading)).find? fun c => (chan5 reading).dmaReady c) = some 5 ∧
    (chan5 reading).engineTag 5 = some 0 ∧ reading.wantsDesc = false ∧ reading.wantsWrite = false ∧ reading.act.fill = false ∧ reading.act.sfix = false ∧
    pieceOk (chan5 reading) (reading.act.srcAt 64) 64 false 0 = true ∧ ((order0 (chan5 filling)).find? fun c => (chan5 filling).dmaReady c) = some 5 ∧
    filling.act.fill = true ∧ filling.act.dfix = false ∧ pieceOk (chan5 filling) (filling.act.dstAt 64) 64 true 0 = true ∧ reading.live = [] ∧
    (match (chan5 reading).dmaAddr 5 0x20_0000 64 false 0 with | .refused _ _ => true | _ => false) = true := by decide +kernel
theorem witness_ChannelsRunTheirSets_fetch : ([descReq].find? fun r => r.desc) = some descReq ∧
    (((chan5 { issuedSet with out := [descReq] }).engineOut 0).find? fun x => x.2.tag == descReq.tag) = some (5, descReq) ∧ descReq.set_ = issuedSet.setNo ∧
    issuedSet.desc = none ∧ (∀ r ∈ issuedSet.out, r.desc = false) := by decide +kernel

/-- An IOMMU whose command queue is ready, with an access in flight. -/
def ready0 : Iommu := { Iommu.reset with ddtp := 2, cqb := 3, cqh := 2, cqt := 9, cqcsr := 0x1_0003, inflight := [{ tag := 1, write := true, stale := false, pa := 0x9000_0000, deadline := 100 }] }
def hit0 : IoTlb := { gscid := 0, pscid := 9, vpn := 0x12345, level := 0, ppn := 0x80077, r := true, w := true, first := true, second := false, g := false, gvpn := 0 }
/-- A device context of an instance with one-stage translation. -/
def dc0 : BitVec 512 := BitVec.ofNat 512 (1 + 9 * 2 ^ 12 * 2 ^ 128 + (8 * 2 ^ 60 + 5) * 2 ^ 192)
def instCtx : State := (bare.setIommu 0 { ready0 with iotlb := [hit0], insts := [(3, some dc0)] }).setDma 5 { Dma.reset with inst := some 3 }
theorem witness_IommuTranslatesAndIsCommanded : fld (running.iommuSt 0).ddtp 3 0 = 0 ∧ fld (bare.iommuSt 0).ddtp 3 0 = 1 ∧ (0x8000_0000 : Word).toNat < 2 ^ 56 ∧
    (instCtx.dma (32 * (0 : Fin 2).val + (5 : Fin 32).val)).inst = some 3 ∧ fld (instCtx.iommuSt 0).ddtp 3 0 ≠ 0 ∧ tabGet none (instCtx.iommuSt 0).insts 3 = some dc0 ∧
    tabGet none ready0.insts 3 = none ∧ (dcTc dc0).getLsbD 5 = false ∧ fld (dcWord dc0 4) 63 60 = 0 ∧
    ((instCtx.iommuSt 0).iotlb.find? fun x => x.hits (fld (dcWord dc0 1) 59 44) (fld (dcWord dc0 2) 31 12) 0x12345 (atpLevels (dcWord dc0 3) != 0) (atpLevels (dcWord dc0 1) != 0) true) = some hit0 ∧
    hit0.level = 0 ∧ ready0.cmdReady = true ∧ Iommu.reset.cmdReady = false ∧ ready0.cqcsr.getLsbD 1 = true ∧ ready0.fence = none ∧
    ({ ready0 with fence := some { av := true, pw := false, addr := 0x8000_0004, data := 5, waits := [] } }).fence = some { av := true, pw := false, addr := 0x8000_0004, data := 5, waits := [] } ∧
    (match running.dest 0x8000_0004 100000 true with | .node _ _ _ => true | _ => false) = true ∧
    (0x8000_0FFF : Word).toNat / 4096 ≠ ((0x8000_0FFF : Word) + BitVec.ofNat 64 (8 - 1)).toNat / 4096 := by decide +kernel

theorem witness_StepRunsTheFrontCommand : ({ running with pending := [.wfi t0, .pause t0] } : State).pending = .wfi t0 :: [.pause t0] ∧ running.pending = [] := by decide +kernel
/-- Whether a step answers a next state. -/
def steps (s : State) : Bool := match step s with | .next _ => true | _ => false
theorem witness_MemoriesStayCanonical : State.reset.mem.wf = true ∧ (mail 0x0903 []).mem.wf = true ∧ steps { mail 0x0903 [] with pending := [.rindHeartbeat] } = true := by
  decide +kernel
theorem witness_PmaTableStaysLegal : State.reset.pma.wf = true ∧ running.pma.wf = true ∧ steps { running with pending := [.rindHeartbeat] } = true := by decide +kernel

/-! ### Hypotheses that hold: walks, timers, tracked writes -/

def walker0 : IoWalker := { tag := 3, req := some (.channel 5), iova := 0x1000, write := false, guar := false, reads := [], asked := .read 0x8010_0000, restart := false }
def walking : State := running.setIommu 0 { ready0 with walkers := [walker0] }
def walkAnswer (op : MsgOp) (sts : BitVec 8) : Flit := { mkFlit op home0 (iommuNode 0) 0x8010_0000 with tag := 3, sts := sts, data := some 7 }
theorem witness_IommuTranslatesAndIsCommanded_walks : (match instCtx.inbound 0 (.channel 5) 0x7777_7000 false 0 with | .wait _ => true | _ => false) = true ∧
    (match instCtx.inbound 0 (.channel 5) 0x1234_5008 true 0 with | .ok _ _ => true | _ => false) = true ∧
    (match running.inbound 0 (.channel 5) 0x1000 true 0 with | .refused _ => true | _ => false) = true ∧ (instCtx.iommuSt 0).held = [] ∧
    (instCtx.iommuSt 0).walkers = [] ∧ (match instCtx.dest (instCtx.pma.pkgId.toNat * 2 ^ 47 + 0x8010_0000) 100000 false with | .node _ _ _ => true | _ => false) = true ∧
    4 ≤ (List.filter (fun x : IoWalker => x.guar == true) (List.replicate 4 { walker0 with guar := true })).length ∧
    ((walking.iommuSt 0).walkers.find? fun y => y.tag == (walkAnswer .readReturn 0).tag.toNat) = some walker0 ∧
    walking.flitTurn (walkAnswer .readReturn 0) = true ∧ walking.flitTurn (walkAnswer .errorReply 3) = true := by decide +kernel

def dataReq (write : Bool) : DmaReq := { tag := 3, write := write, va := 0x8000_1000, pos := 0, bytes := 64, set_ := 1, deadline := 100, desc := false }
def awaitsOne (write : Bool) : State := chan5 { issuedSet with out := [dataReq write] }
def engineAnswer (op : MsgOp) : Flit := { mkFlit op home0 (engineNode 0) 0x8000_1000 with tag := 3, data := some 7 }
theorem witness_ChannelsRunTheirSets_answers : (((awaitsOne true).engineOut 0).find? fun x => x.2.tag == 3) = some (5, dataReq true) ∧
    ((awaitsOne true).dma 5).live = [dataReq true] ∧ (dataReq true).set_ = ((awaitsOne true).dma 5).setNo ∧ ((awaitsOne true).dma 5).st = .run ∧
    ((awaitsOne true).dma 5).ending = none ∧ (awaitsOne true).flitTurn (engineAnswer .writeDone) = true ∧ (awaitsOne false).flitTurn (engineAnswer .readReturn) = true ∧
    (∀ x ∈ (awaitsOne true).engineOut 0, x.2.tag ≠ 9) ∧
    (match (chan5 { reading with inst := some 3 }).dmaAddr 5 0x8000_1000 64 false 0 with | .refused _ _ => true | _ => false) = true := by decide +kernel

def ewaState : State :=
  { running with mesh := { running.mesh with ewa := [{ stop := pcieNode 1, la := 0x40_0000_0000, req := hartNode t0, rpkg := 0, tag := 5, deadline := 900 }] },
                 pcie := { running.pcie with reqs := [{ cplReq .writeNc false with req := { (cplReq .writeNc false).req with ewa := true } }] } }
theorem witness_ErrorsFlushAndStop_early : (ewaState.mesh.ewa.find? fun e => e.stop == pcieNode 1 && e.req == hartNode t0 && e.la == paLa (0x40_0000_0000 : Pa).toNat).isSome = true ∧
    (running.mesh.ewa.find? fun e => e.stop == pcieNode 1) = none ∧ (running.coh.fills.filter fun f => agentOfNode f.dst == some 0) = [] ∧
    running.coh.mshr = [] ∧ running.wbCount 0 + (running.agentLines 0).length ≤ 16 := by decide +kernel
theorem witness_RootPortsAnswer_early : (ewaState.mesh.ewa.find? fun e => e.is (pcieNode 1) { (cplReq .writeNc false).req with ewa := true }).isSome = true ∧
    (ewaState.pcie.reqs.find? fun r => r.ctl == 1 && r.tag == 7).isSome = true := by decide +kernel
def bufState : State := reqBuf 0x0901 76 [] 0x8010_0000 8192
theorem witness_RennetRunsAndRestarts_buffer : bufState.ren.up = true ∧ bufState.granted 0x8010_0040 true = some 64 ∧
    (pmaFind bufState.pma.masters (paLa 0x8010_0040) (bufState.isLocal 0x8010_0040)).isSome = true ∧ rangeFault bufState (paLa 0x8010_0040) true = false ∧
    (match bufState.dest 0x8010_0040 100000 true with | .node _ _ _ => true | _ => false) = true := by decide +kernel

/-! ### Ill-formed terms, one for each check -/

def badFlit : Flit := mkFlit .unused home0 (chanNode 0) 0
def flitRows : List (Flit → Instr) :=
  [.lineRead, .lineOwn, .linePromote, .lineClaim, .maskFill, .cleanKeep, .cleanDrop, .discardLine, .prefetchRead, .prefetchOwn, .readNc, .writeNc, .atomicNc,
   .returnDirty, .returnClean, .probeShare, .probeTake, .probeKill, .probeClean, .dataGrant, .grant, .probeAck, .probeData, .grantAck, .writeDone, .readReturn,
   .dropped, .errorReply, .returnAck, .memRead 0, .memWrite 0, .memWriteMasked 0]
theorem smoke_flit : flitRows.all (fun c => !(c badFlit).wf) = true := by decide
theorem smoke_flit_data : (Instr.writeNc (mkFlit .writeNc home0 (chanNode 0) 0)).wf = false ∧ (Instr.memWrite 0 (mkFlit .memWrite home0 (chanNode 0) 0)).wf = false ∧
    (Instr.lineRead (mkFlit .lineRead home0 (chanNode 0) 0)).wf = true := by decide
def pktRows : List (Pkt → Instr) := [.rdNc 1, .wrNc 1, .atomNc 1, .blkRd 1, .blkWr 1, .rdData 1, .wrAck 1, .atomData 1, .errResp 1]
theorem smoke_pkt : pktRows.all (fun c => !(c (pkt0 .unused 3)).wf) = true ∧ (Instr.blkRd 1 { pkt0 .blkRd 3 with size := 65 }).wf = false ∧
    (Instr.blkRd 1 { pkt0 .blkRd 3 with size := 64 }).wf = true := by decide
theorem smoke_amo : (Instr.amo t0 .add .b2 1 2 3).wf = false ∧ (Instr.amo t0 .cas .b8 1 2 3).wf = false ∧ (Instr.lr t0 .b1 1 2).wf = false ∧
    (Instr.sc t0 .b2 1 2 3).wf = false ∧ (Instr.amocas t0 2 1 2 3).wf = false ∧ (Instr.amocas t0 16 1 2 3).wf = false ∧ (Instr.amocas t0 16 2 4 3).wf = true := by decide
theorem smoke_load : (Instr.load t0 .ld .hlv 1 2 8 none false).wf = false ∧ (Instr.load t0 .fld .hlv 1 2 0 none false).wf = false ∧
    (Instr.load t0 .lw .hlvx 1 2 0 none false).wf = false ∧ (Instr.load t0 .lwu .hlvx 1 2 0 none true).wf = false ∧ (Instr.load t0 .lwu .hlvx 1 2 0 (some { n := 1, pc := 0, va := 0, bytes := 8, stores := [] }) false).wf = false ∧
    (Instr.store t0 .sd .hlvx 1 2 0 (.now false)).wf = false ∧ (Instr.store t0 .fsd .hlv 1 2 0 (.now false)).wf = false ∧ (Instr.store t0 .sd .hlv 1 2 8 (.now false)).wf = false := by decide
theorem smoke_vector : (Instr.vectorInstruction t0 (.load .unit .b4 0 1 2 false)).wf = false ∧ (Instr.vectorInstruction t0 (.load (.whole 3) .b4 1 8 2 false)).wf = false ∧
    (Instr.vectorInstruction t0 (.load .mask .b1 2 1 2 false)).wf = false ∧ (Instr.vectorInstruction t0 (.store .faultFirst .b4 1 1 2 false)).wf = false ∧
    (Instr.vectorInstruction t0 (.arith (.mvnr 3) 8 16 (.v 0) false)).wf = false ∧ (Instr.vectorInstruction t0 (.load (.whole 8) .b4 1 8 2 false)).wf = true := by decide
theorem smoke_control : (Instr.csrWrite t0 .rw 0x300 1 (.imm 32) true).wf = false ∧ (Instr.controlTransferResolve t0 .beq 0 1 2 4096 [] false).wf = false ∧
    (Instr.controlTransferResolve t0 .beq 0 1 2 3 [] false).wf = false ∧ (Instr.controlTransferResolve t0 .jal 1 0 0 5 [] false).wf = false ∧
    (Instr.controlTransferResolve t0 .jalr 1 2 0 2048 [] false).wf = false ∧ (Instr.controlTransferResolve t0 .jalr 1 2 0 2047 [] false).wf = true := by decide
theorem smoke_ranges : (Instr.iommuTranslate 0 (.channel 1) 0 false 0).wf = false ∧ (Instr.iommuTranslate 0 (.channel 1) 0 false 4097).wf = false ∧
    (Instr.routeAdv 1 [{ first := 5, last := 4, hops := 1 }]).wf = false ∧ (Instr.routeWithdraw 1 [{ first := 5, last := 4, hops := 1 }]).wf = false ∧
    (Instr.wiredInputChange 0 true).wf = false ∧ (Instr.wiredInputChange 355 true).wf = false ∧ (Instr.aplicSourcecfgWrite .rennet false 0 0).wf = false ∧
    (Instr.aplicMsiSend 0).wf = false ∧ (Instr.imsicSeteipnum t0 (.guest 0) 1).wf = false ∧ (Instr.imsicTopeiClaim t0 (.guest 0)).wf = false ∧
    (Instr.tokenRefill 396).wf = false := by decide
theorem smoke_pcie : (Instr.pcieMemoryRead 0 0 none 0 0).wf = false ∧ (Instr.pcieMemoryRead 0 0 none 0 4097).wf = false ∧ (Instr.pcieAtomicOp 0 0 none 0 .xor 4 0 0).wf = false ∧
    (Instr.pcieAtomicOp 0 0 none 4 .add 8 0 0).wf = false ∧ (Instr.pcieAtomicOp 0 0 none 0 .add 16 0 0).wf = false ∧ (Instr.pcieAtomicOp 0 0 none 16 .cas 16 0 0).wf = true := by decide

/-! ### Single steps and tables whose expected results stand in the spec -/

def check (r : Host.Outcome State Fault Refusal) (p : State → Bool) : Bool := match r with | .next t => p t | _ => false

/-- Tiles and Addresses, Worked example 1. -/
theorem test_locations : hartStop (.t 137) = stopId 5 9 ∧ stopId 5 9 = 32 * 6 + 9 ∧ hartNum (.s 27) = 283 ∧ hartStop (.s 27) = stopId 4 33 ∧ stopId 4 33 = 32 * 9 + 1 ∧
    nodeStop (chanNode 34) = stopId 6 6 ∧ nodeStop (chanNode 35) = stopId 6 6 ∧ stopId 6 6 = 32 * 5 + 22 ∧ linkStop 5 = stopId 6 24 ∧ stopId 6 24 = 32 * 8 + 16 := by decide
/-- Tiles and Addresses, Worked example 2. -/
theorem test_remote_pa : paLa 0x96_0000_8000_1040 = 0x8000_1040 ∧ 0x96_0000_8000_1040 / 2 ^ 47 = 300 ∧ running.isLocal 0x96_0000_8000_1040 = false := by decide +kernel
/-- Caches and Coherence, Worked example 1. -/
theorem test_home_slices : homeSlice 0x8000_1040 = 66 ∧ homeSlice 0x8000_1080 = 129 ∧ homeSlice 0x8000_10C0 = 0 := by decide +kernel
/-- GDDR6 Memory Subsystem, Worked example 1. -/
theorem test_dram_decode : dramPos 0x8028_1812 0x8000_1040 = { chan := 16, bank := 0, row := 0, line := 1 } ∧
    dramPos 0x8028_1812 0x8F42_4A88 = { chan := 25, bank := 10, row := 186, line := 6 } := by decide +kernel
/-- GDDR6 Memory Subsystem, Worked example 2. -/
theorem test_retired_frames : retiredFrames 0x8028_1812 { ch := 25, bank := 10, row := 186, cause := 0 } =
    [0x8F42_1000, 0x8F42_4000, 0x8F42_7000, 0x8F42_A000, 0x8F42_D000, 0x8F43_0000, 0x8F43_3000] := by decide +kernel
/-- Mesh and Slot Wheel, Worked example 1: 39 hops and 28 mesh cycles hold 35 hops within tiles, 4 bridges, 5 tiles. -/
theorem test_farthest_path : routeHops (stopId 0 0) (stopId 7 31) = (35, 4, 5) := by decide +kernel
/-- Performance Monitoring, Worked example 1: record index 447 of the snapshot, whose header is record 0. -/
theorem test_bank_index : banksInOrder[446]? = some (stopId 6 1, 2) := by decide +kernel
/-- Security, Identity and Debug, Worked example 1. -/
theorem test_debug_module : dmOf (.t 137) = 4 ∧ dmOf (.s 27) = 3 := by decide
/-- Power and Brine, Worked example 1. -/
theorem test_budget : check (execHoldupEnergyRead 2500 (served running)) (fun t => t.brine.budget == 10000000) = true ∧
    check (execHoldupEnergyRead 2000 { served running with brine := { running.brine with budget := 10000000, pool := 3000000 } })
      (fun t => t.brine.budget == 7000000 && t.brine.free == 0 && t.brine.cutPend == 1000000) = true := by decide +kernel
/-- Address Translation, Worked example 1: the walk meets an I/O region. -/
def walkVa : Word := 0x0000_7F3A_9C21_5408
def walkState (level ptea : Nat) (at_ pte : Nat) : State :=
  { withT { (hsHart.csrPut 0x180 0x9000_0000_0008_0100) with
      x := [(5, walkVa)], walks := [{ walkAt level .load with id := 0, va := walkVa, ptea := ptea }] } with
    coh := { Coh.reset with l2 := [(l2Key 0 (at_ / 64), { CLine.invalid with st := .m, data := BitVec.ofNat 512 pte <<< (8 * (at_ % 64)) })] } }
theorem test_walk_to_io : check (execWalkPteReadDone t0 0 false (walkState 1 0x1050_0708 0x8020_0750 0)) (fun t =>
    (t.hart t0).wfaults.map (fun f => (f.cause, f.xwfd)) == [(5, 0x84C0_0000_020A_00E1)]) = true := by decide +kernel
theorem test_walk_not_valid : check (execWalkPteReadDone t0 0 false (walkState 2 0x8020_0750 0x8020_0750 0)) (fun t =>
    (t.hart t0).wfaults.map (fun f => (f.cause, f.xwfd)) == [(13, 0x8820_0000_1004_00EA)]) = true := by decide +kernel
theorem test_walk_non_leaf : check (execWalkPteReadDone t0 0 false (walkState 2 0x8020_0750 0x8020_0750 (0x1_0500 * 1024 + 1))) (fun t =>
    (t.hart t0).walks.map (fun w => (w.level, w.ptea)) == [(1, 0x1050_0708)]) = true := by decide +kernel
theorem test_walk_asks_home : check (execWalkPteReadDone t0 1 false (flatPma (pteState (walkAt 0 .load) 0))) (fun t =>
    ((t.hart t0).wreqs.map fun r => (r.walk, r.pa)) == [(1, 0x8010_0008)] && (t.lastSent (hartStop t0)).any fun f => f.op == .readNc) = true := by decide +kernel
/-- Graop Fabric, Worked example 1: a ring of 12 packages at package 10; group 1 leads to package 11, group 2 to package 9. -/
def ring12 : State :=
  { running with pma := { running.pma with pkgId := 10 }, plat := { running.plat with npkg := 12, topo := .ring, linkGroup := [(0, some (1, 11)), (1, some (2, 9))] } }
theorem test_ring_routes : ring12.wayTo 1 = some 1 ∧ ring12.wayTo 4 = some 1 ∧ ring12.wayTo 5 = some 2 ∧ ring12.wayTo 9 = some 2 := by decide +kernel
/-- Throughput Core, Worked example 3: what a load takes from two buffered stores. -/
def twoStores : List SbEntry :=
  let at_ (pa n : Nat) : SbPart := { pa := pa, size := n, off := 0, region := .cached, ewa := false, tmo := 100000, held := false }
  [{ parts := [at_ 0x8000_1000 8], data := 0x1111_2222_3333_4444, seq := 0, zero := false, retired := true },
   { parts := [at_ 0x8000_1004 4], data := 0xAABB_CCDD, seq := 1, zero := false, retired := true }]
/-- The store that gives a load its bytes, or none where the load waits for a drain. -/
def giver (pa n : Nat) : Option Nat := (sbHit twoStores [partAt pa n .cached]).map fun e => if e.forwards [partAt pa n .cached] then e.seq else 99
theorem test_forwarding : giver 0x8000_1004 4 = some 1 ∧ giver 0x8000_1006 2 = some 1 ∧ giver 0x8000_1000 4 = some 0 ∧ giver 0x8000_1000 8 = some 99 ∧
    giver 0x8000_1004 8 = some 99 ∧ giver 0x8000_1010 8 = none := by decide
/-- The instruction set that R81 takes over: arithmetic of RV64. -/
def afterInt (op : IntOp) (a : Word) (b : Word) : Word :=
  match execIntegerInstruction t0 op 3 1 (.imm b) false (withT { tHart with x := [(1, a)] }) with | .next t => (t.hart t0).getX 3 | _ => 0
theorem test_int_add : afterInt .add 0xFFFF_FFFF_FFFF_FFFF 1 = 0 ∧ afterInt .addw 0x7FFF_FFFF 1 = 0xFFFF_FFFF_8000_0000 := by decide +kernel
theorem test_int_div : afterInt .div 7 0 = 0xFFFF_FFFF_FFFF_FFFF ∧ afterInt .rem 7 0 = 7 ∧ afterInt .div 0x8000_0000_0000_0000 0xFFFF_FFFF_FFFF_FFFF = 0x8000_0000_0000_0000 := by
  decide +kernel
theorem test_int_shift : afterInt .sraw 0x8000_0000 31 = 0xFFFF_FFFF_FFFF_FFFF ∧ afterInt .rol 0x8000_0000_0000_0001 1 = 3 ∧ afterInt .clz 1 0 = 63 := by decide +kernel
theorem test_x0 : check (execIntegerInstruction t0 .add 0 1 (.imm 5) false (withT tHart)) (fun t => (t.hart t0).getX 0 == 0 && (t.hart t0).pc == 0x400_0004) = true := by
  decide +kernel
theorem test_ecall : check (execEcall t0 (withT { openPmp (tHart.csrPut 0x305 0x8000_0100) with mode := .u })) (fun t =>
    let c := t.hart t0
    c.mode == .m && c.pc == 0x8000_0100 && c.csrRaw 0x342 == 8 && c.csrRaw 0x341 == 0x400_0000) = true := by decide +kernel
/-- Performance Monitoring, Worked example 1: the snapshot is accepted. -/
theorem test_snapshot_accepted : check (execLadleSnap (.hart t0 .m) (running.setLadle { ladle0 with en := true, log2sz := 20, head := 0xF_A000, tail := 0x4_0000 })) (fun t =>
    t.perf.ladle.armed && t.perf.ladle.dropring == 0) = true := by decide +kernel

/-- R10 and R31: the exceptions of a hart's write that a register does not take. -/
theorem test_register_write_faults :
    check (execRegisterWrite (.hart t0 .hs) 0x1020_1020 .b8 0 running) (fun t => (t.hart t0).csrRaw 0x342 == 7 && (t.hart t0).csrRaw 0x343 == 0x1020_1020) = true ∧
    check (execRegisterWrite (.hart t0 .m) 0x1020_1021 .b2 0 running) (fun t => (t.hart t0).csrRaw 0x342 == 6) = true ∧
    check (execRegisterWrite (.hart t0 .m) 0x1020_1022 .b2 0 running) (fun t => (t.hart t0).csrRaw 0x342 == 7) = true := by decide +kernel
/-! Instruction Set Profile, R44 and R45: words written out field by field. -/
theorem test_xexy_loads : decodeXexy t0 0b000000100000_01100_000_01010_0001011 = some (.xpld t0 10 12 32) ∧
    decodeXexy t0 0b1111111_00110_00101_001_11000_0001011 = some (.xpst t0 6 5 (BitVec.ofInt 12 (-8))) := by decide
theorem test_xexy_control : decodeXexy t0 0b000000000000_00000_010_00000_0001011 = some (.xpredBar0 t0) ∧
    decodeXexy t0 0b000000000001_00000_010_00000_0001011 = some (.xpredBar1 t0) ∧ decodeXexy t0 0b000000000010_00000_010_00000_0001011 = some (.xpredFlush t0) ∧
    decodeXexy t0 0b000000010000_00111_010_00000_0001011 = some (.xwayClean t0 7) ∧ decodeXexy t0 0b000000010001_00111_010_00000_0001011 = some (.xwayCinv t0 7) ∧
    decodeXexy t0 0b000000100000_00000_010_00000_0001011 = some (.xbrDrain t0) ∧ decodeXexy t0 0b000000110000_00000_010_00000_0001011 = some (.xfenceP t0) := by decide
/-- R46: a reserved funct3, an unlisted code, and fields that must be zero; a word of another opcode is none of Xexy's. -/
theorem test_xexy_illegal : illegalXexy t0 0b000000100000_01100_011_01010_0001011 = true ∧ illegalXexy t0 0b000000000011_00000_010_00000_0001011 = true ∧
    illegalXexy t0 0b000000000000_00001_010_00000_0001011 = true ∧ illegalXexy t0 0b000000010000_00111_010_00001_0001011 = true ∧
    illegalXexy t0 0b000000010000_00111_010_00000_0001011 = false ∧ isXexy 0b000000000000_00000_010_00000_0110011 = false := by decide
end Sys2Proof.Tests
end

section
/-!
Register writes (R10, R11, R26, R31, R387): what REGISTER_WRITE comes to at each kind of address and for each kind of master.
-/
namespace Sys2Proof.Machine

/-! ### Masks, guards and widths -/

/-- A write of all bytes replaces the value. -/
theorem mergeW_allOnes (old v : Word) : mergeW old v (BitVec.allOnes 64) = v := by
  simp only [mergeW, BitVec.setWidth_eq, BitVec.not_allOnes, BitVec.and_zero, BitVec.and_allOnes, BitVec.zero_or]

/-- A register refuses an executing hart only under the rule of R31, and only below M-mode. -/
theorem mayWrite_hart_eq_false {g : Guard} {h : HartId} {md : Mode} (hg : mayWrite g (.hart h md) = false) : g = .r31 ∧ md ≠ .m := by
  cases g with
  | r31 => exact ⟨rfl, by simpa [mayWrite] using hg⟩
  | harts => cases hg
  | open_ => cases hg

/-- An access of 4 or 8 bytes that begins at a register under the rule of R31 meets it. -/
theorem r31At_of_guard {la n : Nat} (hla : la % 4 = 0) (hg : (locate la).1.guard = .r31) : r31At la n = true := by
  have hbase : la / 4 * 4 = la := Nat.div_mul_cancel (Nat.dvd_of_mod_eq_zero hla)
  simp [r31At, hbase, hg]

theorem accBytes_of_four_le {size : AccSize} (h : 4 ≤ accBytes size) : size = .b4 ∨ size = .b8 := by
  cases size with
  | b1 | b2 => simp [accBytes] at h
  | b4 => exact .inl rfl
  | b8 => exact .inr rfl

theorem mod_four_of_aligned {size : AccSize} {la : Nat} (h4 : 4 ≤ accBytes size) (hla : la % accBytes size = 0) : la % 4 = 0 := by
  obtain rfl | rfl := accBytes_of_four_le h4
  · exact hla
  · simp only [accBytes] at hla; omega

/-! ### A write that reaches a register -/

theorem devPut_admitted {s : State} {who : Master} {la : Nat} (v m : Word) (hoff : s.pageOff la = false)
    (hw : mayWrite (locate la).1.guard who = true) : s.devPut who la v m = s.regWrite who (locate la).1 v m := by
  simp [State.devPut, hoff, hw]

theorem devPut_ignored {s : State} {who : Master} {la : Nat} (v m : Word) (hoff : s.pageOff la = false)
    (hw : mayWrite (locate la).1.guard who = false) (hh : ∀ h md, who ≠ .hart h md) :
    s.devPut who la v m = s.writeIgnored (locate la).1 la ((devNode la).getD mgmtNode) who := by
  cases who with
  | hart h md => exact absurd rfl (hh h md)
  | _ => simp [State.devPut, hoff, hw]

/-- A write of a register's own width at its own address writes all its bytes. -/
theorem devWrite_own_width {s : State} {who : Master} {la : Nat} {size : AccSize} (v : Word) (h4 : 4 ≤ accBytes size)
    (hloc : (locate la).2 = (accBytes size, la)) :
    s.devWrite who la (accBytes size) (v.toNat % 2 ^ (8 * accBytes size)) =
      s.devPut who la (BitVec.ofNat 64 (v.toNat % 2 ^ (8 * accBytes size))) (BitVec.ofNat 64 (2 ^ (8 * accBytes size) - 1)) := by
  obtain rfl | rfl := accBytes_of_four_le h4
  · simp only [accBytes] at hloc ⊢
    simp [State.devWrite, State.devWrite4, hloc]
  · simp only [accBytes] at hloc ⊢
    simp [State.devWrite, hloc]

/-- A report changes the error banks and the wired inputs that they drive, and nothing else (R494). -/
theorem logErr_frame (s : State) (e : ErrInfo) : s.logErr e = { s with err := (s.logErr e).err, irq := (s.logErr e).irq } := rfl

theorem writeIgnored_frame (s : State) (r : DevReg) (la : Nat) (n : Node) (who : Master) :
    s.writeIgnored r la n who = { s with err := (s.writeIgnored r la n who).err, irq := (s.writeIgnored r la n who).irq } :=
  logErr_frame s _

/-! ### The registers -/

/-- The registers that a write does not change. -/
def DevReg.readOnly (r : DevReg) : Prop :=
  r ∈ [DevReg.none, .pkgId, .dramTop, .mcMap, .mtime] ∨ (∃ i, r = .stopId i) ∨ (∃ n, r = .entBase n ∨ r = .entLimit n ∨ r = .entAttr n) ∨
    (∃ c, r = .chStatus c) ∨ (∃ l, r = .glStatus l) ∨ (∃ e, r = .dePool e) ∨ (∃ t, r = .esStatus t)

theorem regWrite_readOnly {r : DevReg} (hr : r.readOnly) (s : State) (who : Master) (v m : Word) : s.regWrite who r v m = s := by
  obtain hr | ⟨_, rfl⟩ | ⟨_, rfl | rfl | rfl⟩ | ⟨_, rfl⟩ | ⟨_, rfl⟩ | ⟨_, rfl⟩ | ⟨_, rfl⟩ := hr
  · simp only [List.mem_cons, List.not_mem_nil, or_false] at hr
    obtain rfl | rfl | rfl | rfl | rfl := hr <;> rfl
  all_goals rfl

/-- MTIMECMP of `h` set to `v` (R387). -/
def State.setMtimecmp (s : State) (h : HartId) (v : Word) : State :=
  { s with irq := { s.irq with mtimecmp := tabSet 0 s.irq.mtimecmp (hartIdx h) (~~~v) } }

theorem regWrite_mtimecmp (s : State) (who : Master) (h : HartId) (v : Word) :
    s.regWrite who (.mtimecmp h) v (BitVec.allOnes 64) = s.setMtimecmp h v := by
  simp only [State.regWrite, mergeW_allOnes, State.setMtimecmp]

@[simp] theorem mtimecmp_setMtimecmp_same (s : State) (h : HartId) (v : Word) : (s.setMtimecmp h v).mtimecmp h = v := by
  simp [State.mtimecmp, State.setMtimecmp]

theorem mtimecmp_setMtimecmp_ne (s : State) {h g : HartId} (v : Word) (hg : hartIdx g ≠ hartIdx h) :
    (s.setMtimecmp h v).mtimecmp g = s.mtimecmp g := by
  simp [State.mtimecmp, State.setMtimecmp, tabGet_tabSet_ne (h := hg)]

/-! ### REGISTER_WRITE -/

section
variable {s : State} {who : Master} {a : La} {size : AccSize}

theorem registerWrite_outside (v : Word) (harea : areaOf s a.toNat ≠ .device) : exec (.registerWrite who a size v) s = .next s := by
  simp [exec, execRegisterWrite, harea]

theorem registerWrite_hart_misaligned {h : HartId} {md : Mode} (v : Word) (harea : areaOf s a.toNat = .device) (hi : s.issues h = true)
    (hla : a.toNat % accBytes size ≠ 0) :
    exec (.registerWrite (.hart h md) a size v) s =
      .next (s.trap h (excep 6 (BitVec.ofNat 64 (s.pma.pkgId.toNat * 2 ^ 47 + a.toNat)))) := by
  simp [exec, execRegisterWrite, harea, hla, State.refuseStore, onHart_of_issues _ _ _ _ hi]

theorem registerWrite_hart_refused {h : HartId} {md : Mode} (v : Word) (harea : areaOf s a.toNat = .device) (hi : s.issues h = true)
    (hla : a.toNat % accBytes size = 0) (hr : accBytes size < 4 ∨ md ≠ .m ∧ r31At a.toNat (accBytes size) = true) :
    exec (.registerWrite (.hart h md) a size v) s =
      .next (s.trap h (excep 7 (BitVec.ofNat 64 (s.pma.pkgId.toNat * 2 ^ 47 + a.toNat)))) := by
  simp [exec, execRegisterWrite, harea, hla, hr, State.refuseStore, onHart_of_issues _ _ _ _ hi]

theorem registerWrite_other_noAccess (v : Word) (harea : areaOf s a.toNat = .device) (hh : ∀ h md, who ≠ .hart h md)
    (hr : accBytes size < 4 ∨ a.toNat % accBytes size ≠ 0) : exec (.registerWrite who a size v) s = .next s := by
  cases who with
  | hart h md => exact absurd rfl (hh h md)
  | _ => simp [exec, execRegisterWrite, harea, hr]

/-- An aligned write of 4 or 8 bytes goes to the registers, but for a hart's below M-mode that the rule of R31 refuses. -/
theorem registerWrite_performed (v : Word) (harea : areaOf s a.toNat = .device) (h4 : 4 ≤ accBytes size) (hla : a.toNat % accBytes size = 0)
    (hh : ∀ h md, who = .hart h md → md ≠ .m → r31At a.toNat (accBytes size) = false) :
    exec (.registerWrite who a size v) s = .next (s.devWrite who a.toNat (accBytes size) (v.toNat % 2 ^ (8 * accBytes size))) := by
  have h4' : ¬ accBytes size < 4 := Nat.not_lt.mpr h4
  cases who with
  | hart h md =>
    have hmd : ¬ (md ≠ .m ∧ r31At a.toNat (accBytes size) = true) := fun ⟨hne, hr⟩ => by simp [hh h md rfl hne] at hr
    simp [exec, execRegisterWrite, harea, hla, h4', hmd]
  | _ => simp [exec, execRegisterWrite, harea, hla, h4']

end

/-- A write of a register's own width at its own address, in a page that is not off, reaches the register that admits the master. -/
theorem registerWrite_admitted {s : State} {who : Master} {a : La} {size : AccSize} (v : Word) (harea : areaOf s a.toNat = .device)
    (h4 : 4 ≤ accBytes size) (hla : a.toNat % accBytes size = 0) (hoff : s.pageOff a.toNat = false)
    (hloc : (locate a.toNat).2 = (accBytes size, a.toNat)) (hw : mayWrite (locate a.toNat).1.guard who = true)
    (hh : ∀ h md, who = .hart h md → md ≠ .m → r31At a.toNat (accBytes size) = false) :
    exec (.registerWrite who a size v) s = .next (s.regWrite who (locate a.toNat).1
      (BitVec.ofNat 64 (v.toNat % 2 ^ (8 * accBytes size))) (BitVec.ofNat 64 (2 ^ (8 * accBytes size) - 1))) := by
  rw [registerWrite_performed v harea h4 hla hh, devWrite_own_width v h4 hloc, devPut_admitted _ _ hoff hw]

/-- An 8-byte write of MTIMECMP sets it; of the harts, those in M-mode alone may write it (R31, R387). -/
theorem registerWrite_mtimecmp {s : State} {who : Master} {a : La} {h : HartId} (v : Word) (harea : areaOf s a.toNat = .device)
    (hla : a.toNat % 8 = 0) (hoff : s.pageOff a.toNat = false) (hloc : locate a.toNat = (.mtimecmp h, 8, a.toNat))
    (hw : mayWrite (locate a.toNat).1.guard who = true) (hm : ∀ g md, who = .hart g md → md = .m) :
    exec (.registerWrite who a .b8 v) s = .next (s.setMtimecmp h v) := by
  have hv : BitVec.ofNat 64 (v.toNat % 2 ^ (8 * accBytes .b8)) = v := by
    rw [Nat.mod_eq_of_lt (by exact v.isLt), BitVec.ofNat_toNat, BitVec.setWidth_eq]
  have hadm := registerWrite_admitted (size := .b8) v harea (by decide) hla hoff (by rw [hloc]; rfl) hw fun g md hg hne => absurd (hm g md hg) hne
  rw [hadm, hv, hloc]
  exact congrArg Host.Outcome.next (regWrite_mtimecmp s who h v)

/-- Such a write of another master than a hart, to a register that does not admit it, is ignored and logged. -/
theorem registerWrite_ignored {s : State} {who : Master} {a : La} {size : AccSize} (v : Word) (harea : areaOf s a.toNat = .device)
    (h4 : 4 ≤ accBytes size) (hla : a.toNat % accBytes size = 0) (hoff : s.pageOff a.toNat = false)
    (hloc : (locate a.toNat).2 = (accBytes size, a.toNat)) (hw : mayWrite (locate a.toNat).1.guard who = false)
    (hh : ∀ h md, who ≠ .hart h md) :
    exec (.registerWrite who a size v) s =
      .next (s.writeIgnored (locate a.toNat).1 a.toNat ((devNode a.toNat).getD mgmtNode) who) := by
  rw [registerWrite_performed v harea h4 hla fun h md e => absurd e (hh h md), devWrite_own_width v h4 hloc, devPut_ignored _ _ hoff hw hh]

/-- Settles O27: a write that the register admits is `registerWrite_admitted`, which gives the read-only registers and MTIMECMP too; a hart's
refused write is one under the rule of R31 below M-mode; the others are the remaining branches of REGISTER_WRITE. -/
theorem registerWritesComplete : Obligations.RegisterWritesComplete := by
  unfold Obligations.RegisterWritesComplete
  refine ⟨?_, ?_⟩
  · intro s who a size v n r harea h4 hla hoff hloc
    refine ⟨registerWrite_admitted v harea h4 hla hoff hloc, ?_, ?_, ?_, ?_⟩
    · rintro h md hw rfl hi
      obtain ⟨hg, hmd⟩ := mayWrite_hart_eq_false hw
      exact registerWrite_hart_refused v harea hi hla (.inr ⟨hmd, r31At_of_guard (mod_four_of_aligned h4 hla) hg⟩)
    · intro hw hh
      have hexec := registerWrite_ignored v harea h4 hla hoff hloc hw hh
      exact ⟨hexec, _, hexec, writeIgnored_frame ..⟩
    · intro hw hh hr
      rw [registerWrite_admitted v harea h4 hla hoff hloc hw hh, regWrite_readOnly hr]
    · rintro h rfl hr hw hm
      have hexec := registerWrite_mtimecmp v harea hla hoff (Prod.ext hr hloc) hw hm
      refine ⟨_, hexec, mtimecmp_setMtimecmp_same s h v, ?_, rfl, fun g hg => mtimecmp_setMtimecmp_ne s v hg⟩
      rw [hr]
      exact mtimecmp_setMtimecmp_same s h v
  · intro s who a size v
    refine ⟨registerWrite_outside v, registerWrite_other_noAccess v, ?_⟩
    rintro h md harea rfl hi
    exact ⟨registerWrite_hart_misaligned v harea hi, fun hla hn => registerWrite_hart_refused v harea hi hla (.inl hn)⟩

end Sys2Proof.Machine
end


section
/-!
SUPPORT. What leaves the PMA registers alone (R30, R34): one lemma for every function of the model that answers a state, in the order of the
definitions, up to the commands. The few that write these registers are in the next section.
-/
namespace Sys2Proof.Machine

/-! ### Carriers of a state, choices and folds -/

theorem ite_pma (c : Prop) [Decidable c] (a b : State) : (if c then a else b).pma = if c then a.pma else b.pma := apply_ite ..

/-- The state that an outcome carries has the PMA registers `p`. -/
@[simp] def Fetch.pmaIs (p : Pma) : Fetch → Prop | .ok t | .trap t _ | .walk t _ | .wait t => t.pma = p
@[simp] def ReadRes.pmaIs (p : Pma) : ReadRes → Prop | .value _ t | .wait t | .poison t | .tcmError t => t.pma = p
@[simp] def VStep.pmaIs (p : Pma) : VStep → Prop | .go t | .stop t => t.pma = p
@[simp] def TokenTake.pmaIs (p : Pma) : TokenTake → Prop | .taken t => t.pma = p | .wait | .fallback => True
@[simp] def IoRes.pmaIs (p : Pma) : IoRes → Prop | .ok t _ | .fault t _ _ => t.pma = p | .wait _ => True
@[simp] def IoWalk.pmaIs (p : Pma) : IoWalk → Prop | .leaf t _ _ | .fault t _ => t.pma = p | .wait _ => True
@[simp] def IoStep.pmaIs (p : Pma) : IoStep → Prop | .table t _ => t.pma = p | .done r => r.pmaIs p
@[simp] def IoG.pmaIs (p : Pma) : IoG → Prop | .ok t _ _ _ | .fault t _ => t.pma = p | .wait _ => True
@[simp] def IoAddr.pmaIs (p : Pma) : IoAddr → Prop | .ok t _ | .fault t _ => t.pma = p | .wait _ => True
@[simp] def IoCtx.pmaIs (p : Pma) : IoCtx → Prop | .ok t _ | .bare t | .fault t _ => t.pma = p | .wait _ => True
@[simp] def IoPc.pmaIs (p : Pma) : IoPc → Prop | .ok t _ | .fault t _ => t.pma = p | .wait _ => True
@[simp] def IoGo.pmaIs (p : Pma) : IoGo → Prop | .ok t _ | .refused t | .wait t => t.pma = p
@[simp] def RootGo.pmaIs (p : Pma) : RootGo → Prop | .ok t _ _ | .refused t | .wait t => t.pma = p
@[simp] def DmaGo.pmaIs (p : Pma) : DmaGo → Prop | .ok t _ | .refused t _ | .wait t => t.pma = p
@[simp] def CmdEnd.pmaIs (p : Pma) : CmdEnd → Prop | .ok t _ | .failIn t _ | .waits t => t.pma = p | .fail _ => True

theorem foldl_pma {α : Type} {f : State → α → State}
    (hf : ∀ u a, (f u a).pma = u.pma) (l : List α) (s : State) : (l.foldl f s).pma = s.pma := by
  induction l generalizing s with
  | nil => rfl
  | cons a l ih => rw [List.foldl_cons, ih, hf]

theorem getD_pma {o : Option State} {u : State} {p : Pma} (ho : ∀ {r}, o = some r → r.pma = p) (hu : u.pma = p) : (o.getD u).pma = p := by
  cases o with
  | none => exact hu
  | some r => exact ho rfl

theorem ite_pma_of {c : Prop} [Decidable c] {a b : State} {p : Pma} (ha : a.pma = p) (hb : b.pma = p) : (if c then a else b).pma = p := by
  split <;> assumption

/-! ### Machine/Ops.lean -/

@[simp] theorem updHart_pma (s : State) (h : HartId) (f : Hart → Hart) : (s.updHart h f).pma = s.pma := by simp [State.updHart]
@[simp] theorem takeWord_pma (s : State) : (s.takeWord).2.pma = s.pma := by
  unfold State.takeWord
  grind

@[simp] theorem takeLine_pma (s : State) : (s.takeLine).2.pma = s.pma := by
  unfold State.takeLine
  grind

@[simp] theorem takeNat_pma (s : State) : (s.takeNat).2.pma = s.pma := by
  unfold State.takeNat
  grind

@[simp] theorem sendAll_pma (s : State) (l : List Flit) : (s.sendAll l).pma = s.pma := by
  induction l generalizing s with
  | nil => rfl
  | cons f l ih => rw [State.sendAll, ih, send_pma]

@[simp] theorem onFlit_pma (s : State) (f : Flit) (g : State → State) (hg : ∀ u, (g u).pma = u.pma) : (s.onFlit f g).pma = s.pma := by
  unfold State.onFlit
  grind

@[simp] theorem updChan_pma (s : State) (ch : Nat) (f : Chan → Chan) : (s.updChan ch f).pma = s.pma := by simp [State.updChan]
@[simp] theorem wire_pma (s : State) (n : Nat) (lv : Bool) : (s.wire n lv).pma = s.pma := by simp [State.wire]
@[simp] theorem wirePulse_pma (s : State) (n : Nat) : (s.wirePulse n).pma = s.pma := by simp [State.wirePulse]
@[simp] theorem pulseFrom_pma (s : State) (stop line : Nat) : (s.pulseFrom stop line).pma = s.pma := by simp [State.pulseFrom]
@[simp] theorem pulseAtStop_pma (s : State) (n stop : Nat) : (s.pulseAtStop n stop).pma = s.pma := by simp [State.pulseAtStop, ite_pma]
@[simp] theorem pulse_pma (s : State) (n : Nat) : (s.pulse n).pma = s.pma := by simp [State.pulse]
@[simp] theorem driveErr_pma (s : State) (t : Nat) : (s.driveErr t).pma = s.pma := by simp [State.driveErr]
@[simp] theorem logErr_pma (s : State) (e : ErrInfo) : (s.logErr e).pma = s.pma := by simp [State.logErr]
@[simp] theorem logCe_pma (s : State) (stop : Nat) : (s.logCe stop).pma = s.pma := by simp [State.logCe]
@[simp] theorem notice_pma (s : State) (code detail : Nat) : (s.notice code detail).pma = s.pma := by simp [State.notice, ite_pma]
@[simp] theorem passTo_pma (s : State) (t : Nat) : (s.passTo t).pma = s.pma := by simp [State.passTo, ite_pma]
@[simp] theorem nextCycle_pma (s : State) : (s.nextCycle).pma = s.pma := by simp [State.nextCycle, ite_pma]
@[simp] theorem guard_pma (s : State) (p : Bool) (f : State → State) (hf : ∀ u, (f u).pma = u.pma) : (s.guard p f).pma = s.pma := by
  unfold State.guard
  grind

/-! ### Machine/Count.lean -/

@[simp] theorem bumpBank_pma (s : State) (stop b k n : Nat) : (s.bumpBank stop b k n).pma = s.pma := by simp [State.bumpBank, ite_pma]
@[simp] theorem bwAdd_pma (s : State) (stop b n : Nat) : (s.bwAdd stop b n).pma = s.pma := by simp [State.bwAdd, ite_pma]

/-! ### Machine/Events.lean -/

@[simp] theorem setIdentity_pma (s : State) (h : HartId) (f : ImFileKind) (n : Nat) : (s.setIdentity h f n).pma = s.pma := by
  simp [State.setIdentity, ite_pma]

@[simp] theorem bumpHpm_pma (s : State) (h : HartId) (k n : Nat) : (s.bumpHpm h k n).pma = s.pma := by simp [State.bumpHpm, ite_pma]
@[simp] theorem event_pma (s : State) (h : HartId) (code n : Nat) : (s.event h code n).pma = s.pma :=
  foldl_pma (fun u k => bumpHpm_pma u h k n) _ s

/-! ### Machine/Caches.lean -/

@[simp] theorem driveBrine_pma (s : State) : (s.driveBrine).pma = s.pma := by simp [State.driveBrine]
@[simp] theorem takeToken_pma (s : State) (k : Nat) : (s.takeToken k).pmaIs s.pma := by
  unfold State.takeToken
  grind [driveBrine_pma, TokenTake.pmaIs]

@[simp] theorem freeToken_pma (s : State) : (s.freeToken).pma = s.pma := by simp [State.freeToken, ite_pma]
@[simp] theorem freeTokenIf_pma (s : State) (p : Bool) : (s.freeTokenIf p).pma = s.pma := by simp [State.freeTokenIf, ite_pma]
@[simp] theorem countFallback_pma (s : State) : (s.countFallback).pma = s.pma := by simp [State.countFallback]
@[simp] theorem endMshr_pma (s : State) (a ln : Nat) : (s.endMshr a ln).pma = s.pma := by simp [State.endMshr]
@[simp] theorem mapMshr_pma (s : State) (a ln : Nat) (f : Mshr → Mshr) : (s.mapMshr a ln f).pma = s.pma := by simp [State.mapMshr]
@[simp] theorem mapHarts_pma (s : State) (f : Hart → Hart) (l : List HartId) : (s.mapHarts f l).pma = s.pma := by
  induction l generalizing s with
  | nil => rfl
  | cons h l ih => rw [State.mapHarts, ih, updHart_pma]

@[simp] theorem killResv_pma (s : State) (la : Nat) (except : Option HartId) :
    (s.killResv la except).pma = s.pma := by simp [State.killResv]

@[simp] theorem lineLost_pma (s : State) (a ln : Nat) : (s.lineLost a ln).pma = s.pma := by simp [State.lineLost]
@[simp] theorem cleanL1_pma (s : State) (a ln : Nat) : (s.cleanL1 a ln).pma = s.pma := by simp [State.cleanL1]
@[simp] theorem serveFills_pma (s : State) (a ln : Nat) : (s.serveFills a ln).pma = s.pma := foldl_pma (fun u k => by simp [ite_pma]) _ s
@[simp] theorem eventL2_pma (s : State) (a code : Nat) : (s.eventL2 a code).pma = s.pma := by simp [State.eventL2, ite_pma]
@[simp] theorem evict_pma (s : State) (a ln : Nat) : (s.evict a ln).pma = s.pma := by
  unfold State.evict
  grind [eventL2_pma, lineLost_pma, updHart_pma, setL2_pma, send_pma]

@[simp] theorem emptyWay_pma (s : State) (a w : Nat) : (s.emptyWay a w).pma = s.pma := foldl_pma (fun u _ => evict_pma u _ _) _ s
@[simp] theorem touchL2_pma (s : State) (a ln : Nat) : (s.touchL2 a ln).pma = s.pma := by simp [State.touchL2]
@[simp] theorem install_pma (s : State) (a ln : Nat) (c : CLine) : (s.install a ln c).pma = s.pma := by
  unfold State.install
  grind [setL2_pma, evict_pma, serveFills_pma, setTree_pma]

@[simp] theorem emptyMore_pma (s : State) (a : Nat) : (s.emptyMore a).pma = s.pma := foldl_pma (fun u k => by simp [ite_pma]) _ s
@[simp] theorem sendReq_pma (s : State) (a ln : Nat) (f : Flit) (core : Option HartId) : (s.sendReq a ln f core).pma = s.pma := by
  unfold State.sendReq
  grind [putMshr_pma, send_pma]

@[simp] theorem request_pma (s : State) (a ln : Nat) (op : MsgOp) (core : Option HartId) : (s.request a ln op core).pma = s.pma := by
  simp [State.request, ite_pma]

@[simp] theorem setHolder_pma (s : State) (a ln : Nat) (c : CLine) : (s.setHolder a ln c).pma = s.pma := by simp [State.setHolder, ite_pma]

/-! ### Machine/Home.lean -/

@[simp] theorem vbPut_pma (s : State) (ln : Nat) (data : Line) (mask : LineMask) (poison token txn : Bool) :
    (s.vbPut ln data mask poison token txn).pma = s.pma := by simp [State.vbPut]

@[simp] theorem vbPush_pma (s : State) (ln : Nat) (data : Line) (mask : LineMask) (poison token : Bool) :
    (s.vbPush ln data mask poison token).pma = s.pma := by simp [State.vbPush]

@[simp] theorem ageSet_pma (s : State) (ln n : Nat) : (s.ageSet ln n).pma = s.pma := foldl_pma (fun u a => by simp [ite_pma]) _ s
theorem l3Way_pma {s : State} {ln : Nat} {r : State × Option (Fin 16)} (hr : s.l3Way ln = some r) : r.1.pma = s.pma := by
  unfold State.l3Way at hr
  grind [vbPush_pma, ageSet_pma, setL3_pma]

theorem l3Put_pma {s : State} {ln : Nat} {data : Line} {dirty poison token : Bool} {rrpv : Fin 4} {s' : State}
    (hr : s.l3Put ln data dirty poison token rrpv = some s') :
    s'.pma = s.pma := by
  unfold State.l3Put at hr
  split at hr
  · cases hr
  · next u w hu => cases hr; simpa using l3Way_pma hu
  · next u hu =>
    have := l3Way_pma hu
    grind [vbPush_pma, setL3_pma]

@[simp] theorem memReadReq_pma (s : State) (req : Flit) (ln : Nat) : (s.memReadReq req ln).pma = s.pma := by simp [State.memReadReq]
@[simp] theorem memWriteReq_pma (s : State) (req : Option Flit) (ln : Nat) (data : Line) (mask : LineMask) (poison token : Bool) :
    (s.memWriteReq req ln data mask poison token).pma = s.pma := by simp [State.memWriteReq]

@[simp] theorem closeTxn_pma (s : State) (ln : Nat) : (s.closeTxn ln).pma = s.pma := by simp [State.closeTxn]
@[simp] theorem takeL3_pma (s : State) (ln : Nat) (t : Txn) : (s.takeL3 ln t).1.pma = s.pma := by
  unfold State.takeL3
  grind [freeTokenIf_pma, setL3_pma]

@[simp] theorem grantTo_pma (s : State) (ln : Nat) (t : Txn) (gst : Moesi) (data : Option Line) (sf : SfEntry) :
    (s.grantTo ln t gst data sf).pma = s.pma := by simp [State.grantTo]

@[simp] theorem cleanFinish_pma (s : State) (ln : Nat) (t : Txn) : (s.cleanFinish ln t).pma = s.pma := by
  unfold State.cleanFinish
  grind [vbPut_pma, setTxn_pma, freeTokenIf_pma, setSf_pma, closeTxn_pma, setL3_pma, send_pma]

theorem writeCore_pma {s : State} {ln : Nat} {held token : Bool} {new : Line} {poison : Bool} {r : State × Bool}
    (hr : s.writeCore ln held token new poison = some r) :
    r.1.pma = s.pma := by
  unfold State.writeCore at hr
  dsimp only at hr
  split at hr
  · obtain ⟨u, hu, rfl⟩ := Option.map_eq_some_iff.1 hr
    exact l3Put_pma hu
  · have ht := takeToken_pma s (204 + homeSlice (64 * ln))
    split at hr
    · next v hv =>
      rw [hv] at ht
      obtain ⟨u, hu, rfl⟩ := Option.map_eq_some_iff.1 hr
      exact (l3Put_pma hu).trans ht
    · cases hr
    · split at hr <;> cases hr
      simp

theorem writeFinish_pma {s : State} {ln : Nat} {t : Txn} {new : Line} {poison : Bool} {ans : Flit} {s' : State}
    (hr : s.writeFinish ln t new poison ans = some s') :
    s'.pma = s.pma := by
  unfold State.writeFinish at hr
  obtain ⟨⟨u, w⟩, hu, rfl⟩ := Option.map_eq_some_iff.1 hr
  simpa [ite_pma] using writeCore_pma hu

theorem putBack_pma {s : State} {ln : Nat} {t : Txn} {s' : State} (hr : s.putBack ln t = some s') : s'.pma = s.pma := by
  unfold State.putBack at hr
  obtain ⟨u, hu, rfl⟩ := Option.map_eq_some_iff.1 hr
  simpa using l3Put_pma hu

@[simp] theorem trackEwa_pma (s : State) (stop : Node) (f : Flit) : (s.trackEwa stop f).pma = s.pma := by simp [State.trackEwa]
@[simp] theorem ewaFail_pma (s : State) (e : EwaWrite) (sts : Nat) : (s.ewaFail e sts).pma = s.pma := by simp [State.ewaFail]
@[simp] theorem endEwa_pma (s : State) (stop : Node) (f : Flit) (sts : Nat) : (s.endEwa stop f sts).pma = s.pma := by
  unfold State.endEwa
  grind [ewaFail_pma]

@[simp] theorem endBackInv_pma (s : State) (ln : Nat) (t : Txn) : (s.endBackInv ln t).pma = s.pma := by
  unfold State.endBackInv
  grind [vbPush_pma, l3Put_pma, freeTokenIf_pma, setSf_pma, closeTxn_pma, setL3_pma]

theorem keepDirty_pma {s : State} {ln : Nat} {t : Txn} {s' : State} (hr : s.keepDirty ln t = some s') : s'.pma = s.pma := by
  unfold State.keepDirty at hr
  grind [l3Put_pma, freeTokenIf_pma]

@[simp] theorem takeOwn_pma (s : State) (ln : Nat) (t : Txn) (own : Bool) : (s.takeOwn ln t own).1.pma = s.pma := by
  unfold State.takeOwn
  grind [freeTokenIf_pma, setL3_pma, takeL3_pma]

@[simp] theorem respond_pma (s : State) (ln : Nat) (t : Txn) : (s.respond ln t).pma = s.pma := by
  have hw : ∀ d p a, ((s.writeFinish ln t d p a).getD s).pma = s.pma := fun _ _ _ => getD_pma writeFinish_pma rfl
  unfold State.respond
  dsimp only
  split
  all_goals grind [grantTo_pma, keepDirty_pma, setL3_pma, l3Put_pma, takeL3_pma, takeOwn_pma, closeTxn_pma, send_pma, cleanFinish_pma, killResv_pma,
    memWriteReq_pma, setTxn_pma, trackEwa_pma, putBack_pma, endBackInv_pma]

@[simp] theorem advance_pma (s : State) (ln : Nat) : (s.advance ln).pma = s.pma := by
  unfold State.advance
  grind [memReadReq_pma, setTxn_pma, countSlice_pma, setL3_pma, respond_pma]

@[simp] theorem sendProbes_pma (s : State) (f : Flit) (ln : Nat) (l : List (MsgOp × Nat)) : (s.sendProbes f ln l).pma = s.pma := by
  induction l generalizing s with
  | nil => rfl
  | cons p l ih => obtain ⟨op, a⟩ := p; simp [State.sendProbes, ih]

theorem serveReturnDirty_pma {s : State} {f : Flit} {ln : Nat} {s' : State} (hr : s.serveReturnDirty f ln = some s') : s'.pma = s.pma := by
  unfold State.serveReturnDirty at hr
  dsimp only at hr
  split at hr
  · cases hr; simp
  · split at hr
    · split at hr <;> cases hr
      simp
    · obtain ⟨u, hu, rfl⟩ := Option.map_eq_some_iff.1 hr
      simpa using l3Put_pma hu

theorem openTxn_pma {s : State} {f : Flit} {ln : Nat} {s' : State} (hr : s.openTxn f ln = some s') : s'.pma = s.pma := by
  unfold State.openTxn at hr
  grind [sendProbes_pma, setTxn_pma, serveReturnDirty_pma, countSlice_pma, setSf_pma, advance_pma]

@[simp] theorem serve_pma (s : State) (f : Flit) : (s.serve f).pma = s.pma := by
  unfold State.serve
  grind [countSlice_pma, openTxn_pma, accept_pma, send_pma]

@[simp] theorem snoopAnswer_pma (s : State) (f : Flit) : (s.snoopAnswer f).pma = s.pma := by
  unfold State.snoopAnswer
  grind [setTxn_pma, setSf_pma, advance_pma]

@[simp] theorem memEnded_pma (s : State) (ln : Nat) (ok : Bool) : (s.memEnded ln ok).pma = s.pma := by
  have hput : ∀ d p, ((s.l3Put ln d false p false 1).getD s).pma = s.pma := fun _ _ => getD_pma l3Put_pma rfl
  unfold State.memEnded
  split
  · rfl
  · dsimp only
    repeat' split
    all_goals simp [hput]

@[simp] theorem memData_pma (s : State) (ln : Nat) (d : Line) (poison : Bool) : (s.memData ln d poison).pma = s.pma := by
  unfold State.memData
  grind [setTxn_pma, advance_pma]

@[simp] theorem retrySlice_pma (s : State) (sl : Nat) : (s.retrySlice sl).pma = s.pma := foldl_pma (fun u k => advance_pma u k) _ s

/-! ### Machine/Coherence.lean -/

theorem execLineRead_pma {f : Flit} {s : State} {s' : State} (hr : execLineRead f s = .next s') : s'.pma = s.pma := by
  unfold execLineRead at hr
  grind [serve_pma, onFlit_pma]

theorem execLineOwn_pma {f : Flit} {s : State} {s' : State} (hr : execLineOwn f s = .next s') : s'.pma = s.pma := by
  unfold execLineOwn at hr
  grind [serve_pma, onFlit_pma]

theorem execLinePromote_pma {f : Flit} {s : State} {s' : State} (hr : execLinePromote f s = .next s') : s'.pma = s.pma := by
  unfold execLinePromote at hr
  grind [serve_pma, onFlit_pma]

theorem execLineClaim_pma {f : Flit} {s : State} {s' : State} (hr : execLineClaim f s = .next s') : s'.pma = s.pma := by
  unfold execLineClaim at hr
  grind [serve_pma, onFlit_pma]

theorem execMaskFill_pma {f : Flit} {s : State} {s' : State} (hr : execMaskFill f s = .next s') : s'.pma = s.pma := by
  unfold execMaskFill at hr
  grind [serve_pma, onFlit_pma]

theorem execCleanKeep_pma {f : Flit} {s : State} {s' : State} (hr : execCleanKeep f s = .next s') : s'.pma = s.pma := by
  unfold execCleanKeep at hr
  grind [serve_pma, onFlit_pma]

theorem execCleanDrop_pma {f : Flit} {s : State} {s' : State} (hr : execCleanDrop f s = .next s') : s'.pma = s.pma := by
  unfold execCleanDrop at hr
  grind [serve_pma, onFlit_pma]

theorem execDiscardLine_pma {f : Flit} {s : State} {s' : State} (hr : execDiscardLine f s = .next s') : s'.pma = s.pma := by
  unfold execDiscardLine at hr
  grind [serve_pma, onFlit_pma]

theorem execPrefetchRead_pma {f : Flit} {s : State} {s' : State} (hr : execPrefetchRead f s = .next s') : s'.pma = s.pma := by
  unfold execPrefetchRead at hr
  grind [serve_pma, onFlit_pma]

theorem execPrefetchOwn_pma {f : Flit} {s : State} {s' : State} (hr : execPrefetchOwn f s = .next s') : s'.pma = s.pma := by
  unfold execPrefetchOwn at hr
  grind [serve_pma, onFlit_pma]

theorem execReturnDirty_pma {f : Flit} {s : State} {s' : State} (hr : execReturnDirty f s = .next s') : s'.pma = s.pma := by
  unfold execReturnDirty at hr
  grind [serve_pma, onFlit_pma]

theorem execReturnClean_pma {f : Flit} {s : State} {s' : State} (hr : execReturnClean f s = .next s') : s'.pma = s.pma := by
  unfold execReturnClean at hr
  grind [serve_pma, onFlit_pma]

theorem execHomeTransactionOpen_pma {a : La} {s : State} {s' : State} (hr : execHomeTransactionOpen a s = .next s') : s'.pma = s.pma := by
  cases hr
  split
  · rfl
  · split
    · rfl
    · exact getD_pma (fun hr => (openTxn_pma hr).trans rfl) rfl

@[simp] theorem probeShare_pma (s : State) (f : Flit) (a : Nat) : (s.probeShare f a).pma = s.pma := by
  unfold State.probeShare
  grind [send_pma, setHolder_pma]

@[simp] theorem probeTake_pma (s : State) (f : Flit) (a : Nat) : (s.probeTake f a).pma = s.pma := by
  unfold State.probeTake
  grind [send_pma, setHolder_pma]

@[simp] theorem probeKill_pma (s : State) (f : Flit) (a : Nat) : (s.probeKill f a).pma = s.pma := by simp [State.probeKill, ite_pma]
@[simp] theorem probeClean_pma (s : State) (f : Flit) (a : Nat) : (s.probeClean f a).pma = s.pma := by simp [State.probeClean, ite_pma]
@[simp] theorem atAgent_pma (s : State) (f : Flit) (p : State → Nat → State) (hp : ∀ u x1, (p u x1).pma = u.pma) :
    (s.atAgent f p).pma = s.pma := by
  unfold State.atAgent
  grind [onFlit_pma, accept_pma]

theorem execProbeShare_pma {f : Flit} {s : State} {s' : State} (hr : execProbeShare f s = .next s') : s'.pma = s.pma := by
  unfold execProbeShare at hr
  grind [probeShare_pma, atAgent_pma]

theorem execProbeTake_pma {f : Flit} {s : State} {s' : State} (hr : execProbeTake f s = .next s') : s'.pma = s.pma := by
  unfold execProbeTake at hr
  grind [atAgent_pma, probeTake_pma]

theorem execProbeKill_pma {f : Flit} {s : State} {s' : State} (hr : execProbeKill f s = .next s') : s'.pma = s.pma := by
  unfold execProbeKill at hr
  grind [probeKill_pma, atAgent_pma]

theorem execProbeClean_pma {f : Flit} {s : State} {s' : State} (hr : execProbeClean f s = .next s') : s'.pma = s.pma := by
  unfold execProbeClean at hr
  grind [atAgent_pma, probeClean_pma]

theorem execProbeAck_pma {f : Flit} {s : State} {s' : State} (hr : execProbeAck f s = .next s') : s'.pma = s.pma := by
  unfold execProbeAck at hr
  grind [onFlit_pma, snoopAnswer_pma, accept_pma]

theorem execProbeData_pma {f : Flit} {s : State} {s' : State} (hr : execProbeData f s = .next s') : s'.pma = s.pma := by
  unfold execProbeData at hr
  grind [onFlit_pma, snoopAnswer_pma, accept_pma]

@[simp] theorem sendClean_pma (s : State) (h : HartId) (ln : Nat) (op : MsgOp) : (s.sendClean h ln op).pma = s.pma := by
  simp [State.sendClean, ite_pma]

@[simp] theorem pump_pma (s : State) (h : HartId) : (s.pump h).pma = s.pma := foldl_pma (fun u k => by simp [ite_pma]) _ s
@[simp] theorem maintDone_pma (s : State) (h : HartId) (ln : Nat) : (s.maintDone h ln).pma = s.pma := by
  unfold State.maintDone
  grind [updHart_pma, emptyWay_pma, setHart_pma]

@[simp] theorem cleaned_pma (s : State) (a ln : Nat) : (s.cleaned a ln).pma = s.pma := by
  unfold State.cleaned
  grind [setL2_pma, freeTokenIf_pma, cleanL1_pma]

@[simp] theorem fill_pma (s : State) (f : Flit) (a : Nat) : (s.fill f a).pma = s.pma := by simp [State.fill, ite_pma]
@[simp] theorem permit_pma (s : State) (f : Flit) (a : Nat) : (s.permit f a).pma = s.pma := by simp [State.permit, ite_pma]
theorem tryFill_pma {s : State} {f : Flit} {a : Nat} {s' : State} (hr : s.tryFill f a = some s') : s'.pma = s.pma := by
  unfold State.tryFill at hr
  grind [permit_pma, fill_pma]

@[simp] theorem resetEmptied_pma (s : State) (a : Nat) : (s.resetEmptied a).pma = s.pma := foldl_pma (fun u k => by simp [ite_pma]) _ s
@[simp] theorem goesOn_pma (s : State) (a : Nat) : (s.goesOn a).pma = s.pma := by
  unfold State.goesOn
  dsimp only
  rw [foldl_pma fun u h => pump_pma u h, ite_pma, resetEmptied_pma, emptyMore_pma, ite_self]
  refine foldl_pma (fun u f => ?_) _ s
  grind [tryFill_pma]

@[simp] theorem takeGrant_pma (s : State) (f : Flit) (a : Nat) : (s.takeGrant f a).pma = s.pma := by
  unfold State.takeGrant
  grind [tryFill_pma, goesOn_pma, accept_pma]

theorem execDataGrant_pma {f : Flit} {s : State} {s' : State} (hr : execDataGrant f s = .next s') : s'.pma = s.pma := by
  unfold execDataGrant at hr
  grind [onFlit_pma, takeGrant_pma]

@[simp] theorem takePermission_pma (s : State) (f : Flit) (a : Nat) : (s.takePermission f a).pma = s.pma := by
  unfold State.takePermission
  dsimp only
  split <;> simp [foldl_pma fun u h => maintDone_pma u h _]

theorem execGrant_pma {f : Flit} {s : State} {s' : State} (hr : execGrant f s = .next s') : s'.pma = s.pma := by
  unfold execGrant at hr
  grind [onFlit_pma, takePermission_pma]

theorem execGrantAck_pma {f : Flit} {s : State} {s' : State} (hr : execGrantAck f s = .next s') : s'.pma = s.pma := by
  unfold execGrantAck at hr
  grind [closeTxn_pma, onFlit_pma, retrySlice_pma, accept_pma]

theorem execReturnAck_pma {f : Flit} {s : State} {s' : State} (hr : execReturnAck f s = .next s') : s'.pma = s.pma := by
  unfold execReturnAck at hr
  grind [goesOn_pma, onFlit_pma, accept_pma]

theorem execDropped_pma {f : Flit} {s : State} {s' : State} (hr : execDropped f s = .next s') : s'.pma = s.pma := by
  unfold execDropped at hr
  grind [endMshr_pma, eventL2_pma, goesOn_pma, onFlit_pma, accept_pma]

theorem execVictimWriteIssue_pma {a : La} {s : State} {s' : State} (hr : execVictimWriteIssue a s = .next s') : s'.pma = s.pma := by
  unfold execVictimWriteIssue at hr
  grind [memWriteReq_pma]

@[simp] theorem victimFreed_pma (s : State) (ln : Nat) (ok : Bool) : (s.victimFreed ln ok).pma = s.pma := by
  unfold State.victimFreed
  grind [freeTokenIf_pma, retrySlice_pma, memEnded_pma]

@[simp] theorem acceptWriteDone_pma (s : State) (ln : Nat) : (s.acceptWriteDone ln).pma = s.pma := by
  unfold State.acceptWriteDone
  grind [accept_pma]

theorem execVictimEntryFreed_pma {a : La} {ok : Bool} {s : State} {s' : State}
    (hr : execVictimEntryFreed a ok s = .next s') : s'.pma = s.pma := by
  unfold execVictimEntryFreed at hr
  grind [acceptWriteDone_pma, victimFreed_pma]

/-! ### Machine/Gddr6.lean -/

@[simp] theorem retirePage_pma (s : State) (ch bank row cause : Nat) : (s.retirePage ch bank row cause).pma = s.pma := by
  simp [State.retirePage, ite_pma]

@[simp] theorem dramUe_pma (s : State) (ch : Nat) (r : MemReq) (addr scrub ras : Bool) : (s.dramUe ch r addr scrub ras).pma = s.pma := by
  simp [State.dramUe]

@[simp] theorem countChan_pma (s : State) (ch code : Nat) : (s.countChan ch code).pma = s.pma := by simp [State.countChan]
@[simp] theorem correctedRead_pma (s : State) (ch : Nat) (r : MemReq) : (s.correctedRead ch r).pma = s.pma := by simp [State.correctedRead]
@[simp] theorem lostRead_pma (s : State) (ch : Nat) (r : MemReq) (addr scrub ras : Bool) :
    (s.lostRead ch r addr scrub ras).pma = s.pma := by
  simp [State.lostRead, ite_pma]

@[simp] theorem enterBank_pma (s : State) (ch : Nat) (r : MemReq) : (s.enterBank ch r).pma = s.pma := by
  unfold State.enterBank
  grind [setChan_pma, send_pma]

@[simp] theorem fillBanks_pma (s : State) (ch n : Nat) : (s.fillBanks ch n).pma = s.pma := by
  induction n generalizing s with
  | zero => rfl
  | succ n ih => rw [State.fillBanks]; grind [enterBank_pma, setChan_pma]

@[simp] theorem offlineAnswer_pma (s : State) (ch : Nat) (r : MemReq) : (s.offlineAnswer ch r).pma = s.pma := by simp [State.offlineAnswer]
@[simp] theorem memArrive_pma (s : State) (ch : Nat) (kind : MemKind) (f : Flit) : (s.memArrive ch kind f).pma = s.pma := by
  unfold State.memArrive
  grind [fillBanks_pma, setChan_pma, offlineAnswer_pma, count_pma, accept_pma, send_pma]

theorem execMemRead_pma {ch : Fin 48} {f : Flit} {s : State} {s' : State} (hr : execMemRead ch f s = .next s') : s'.pma = s.pma := by
  unfold execMemRead at hr
  grind [memArrive_pma]

theorem execMemWrite_pma {ch : Fin 48} {f : Flit} {s : State} {s' : State} (hr : execMemWrite ch f s = .next s') : s'.pma = s.pma := by
  unfold execMemWrite at hr
  grind [memArrive_pma]

theorem execMemWriteMasked_pma {ch : Fin 48} {f : Flit} {s : State} {s' : State}
    (hr : execMemWriteMasked ch f s = .next s') : s'.pma = s.pma := by
  unfold execMemWriteMasked at hr
  grind [memArrive_pma]

@[simp] theorem performWrite_pma (s : State) (ch : Nat) (r : MemReq) : (s.performWrite ch r).pma = s.pma := by
  unfold State.performWrite
  grind [updChan_pma, setMark_pma, correctedRead_pma, lostRead_pma]

@[simp] theorem countAccess_pma (s : State) (ch : Nat) (c : Chan) (r : MemReq) : (s.countAccess ch c r).pma = s.pma := by
  simp [State.countAccess, ite_pma]

@[simp] theorem storeReq_pma (s : State) (ch : Nat) (r : MemReq) : (s.storeReq ch r).pma = s.pma := by simp [State.storeReq]
@[simp] theorem lineAccess_pma (s : State) (ch : Nat) (r : MemReq) (late : Bool) : (s.lineAccess ch r late).pma = s.pma := by
  unfold State.lineAccess
  grind [fillBanks_pma, setChan_pma, countAccess_pma, storeReq_pma]

theorem execChannelLineAccess_pma {ch : Fin 48} {s : State} {s' : State} (hr : execChannelLineAccess ch s = .next s') : s'.pma = s.pma := by
  unfold execChannelLineAccess at hr
  grind [fillBanks_pma, setChan_pma, lineAccess_pma]

theorem execWritePhaseTimeout_pma {ch : Fin 48} {s : State} {s' : State} (hr : execWritePhaseTimeout ch s = .next s') : s'.pma = s.pma := by
  unfold execWritePhaseTimeout at hr
  grind [updChan_pma, passTo_pma]

@[simp] theorem goOffline_pma (s : State) (ch : Nat) : (s.goOffline ch).pma = s.pma := by
  unfold State.goOffline
  dsimp only
  rw [notice_pma, logErr_pma, foldl_pma fun u r => offlineAnswer_pma u ch r, setChan_pma]

@[simp] theorem crcFailed_pma (s : State) (ch : Nat) (wr : Bool) : (s.crcFailed ch wr).pma = s.pma := by
  unfold State.crcFailed
  grind [countChan_pma, setChan_pma, goOffline_pma]

@[simp] theorem readDone_pma (s : State) (ch : Nat) (r : MemReq) : (s.readDone ch r).pma = s.pma := by
  unfold State.readDone
  grind [updChan_pma, fillBanks_pma, correctedRead_pma, lostRead_pma, send_pma]

theorem execReadBurstReturn_pma {ch : Fin 48} {crcOk : Bool} {flips : BitVec 576} {aerr : BitVec 32} {s : State} {s' : State}
    (hr : execReadBurstReturn ch crcOk flips aerr s = .next s') :
    s'.pma = s.pma := by
  unfold execReadBurstReturn at hr
  grind [setMark_pma, crcFailed_pma, setChan_pma, storeReq_pma, readDone_pma]

theorem execWriteCrcResult_pma {ch : Fin 48} {ok : Bool} {s : State} {s' : State}
    (hr : execWriteCrcResult ch ok s = .next s') : s'.pma = s.pma := by
  unfold execWriteCrcResult at hr
  grind [crcFailed_pma, setChan_pma]

theorem execShortRetrainDone_pma {ch : Fin 48} {ok : Bool} {ns : Nat} {s : State} {s' : State}
    (hr : execShortRetrainDone ch ok ns s = .next s') :
    s'.pma = s.pma := by
  unfold execShortRetrainDone at hr
  grind [setChan_pma, goOffline_pma, logErr_pma]

theorem execRowIdleClose_pma {ch : Fin 48} {bank : Fin 16} {s : State} {s' : State} (hr : execRowIdleClose ch bank s = .next s') :
    s'.pma = s.pma := by
  unfold execRowIdleClose at hr
  grind [updChan_pma]

theorem execRefreshDue_pma {ch : Fin 48} {bank : Fin 16} {s : State} {s' : State}
    (hr : execRefreshDue ch bank s = .next s') : s'.pma = s.pma := by
  unfold execRefreshDue at hr
  grind [updChan_pma, count_pma]

theorem execDeviceTempRead_pma {ch : Fin 48} {temp : BitVec 8} {s : State} {s' : State} (hr : execDeviceTempRead ch temp s = .next s') :
    s'.pma = s.pma := by
  unfold execDeviceTempRead at hr
  grind [updChan_pma]

theorem execWriteTimingCheck_pma {ch : Fin 48} {s : State} {s' : State} (hr : execWriteTimingCheck ch s = .next s') : s'.pma = s.pma := by
  unfold execWriteTimingCheck at hr
  grind

theorem execScrubRead_pma {ch : Fin 48} {s : State} {s' : State} (hr : execScrubRead ch s = .next s') : s'.pma = s.pma := by
  unfold execScrubRead at hr
  grind [setChan_pma]

theorem execPageThreshold_pma {ch : Fin 48} {s : State} {s' : State} (hr : execPageThreshold ch s = .next s') : s'.pma = s.pma := by
  unfold execPageThreshold at hr
  grind [retirePage_pma, updChan_pma]

@[simp] theorem selfRefresh_pma (s : State) (ch : Nat) : (s.selfRefresh ch).pma = s.pma := by
  unfold State.selfRefresh
  dsimp only
  split
  · rw [updChan_pma, foldl_pma fun u r => send_pma .., foldl_pma fun u r => performWrite_pma ..]
  · rw [updChan_pma, foldl_pma fun u r => send_pma .., foldl_pma fun u r => performWrite_pma ..]
  · rfl

@[simp] theorem selfRefreshAll_pma (s : State) : (s.selfRefreshAll).pma = s.pma := foldl_pma (fun u ch => selfRefresh_pma u ch) _ s
@[simp] theorem wakeChannels_pma (s : State) : (s.wakeChannels).pma = s.pma := foldl_pma (fun u ch => updChan_pma u ch _) _ s
@[simp] theorem injCtlWrite_pma (s : State) (ch : Nat) (v : BitVec 32) : (s.injCtlWrite ch v).pma = s.pma := by simp [State.injCtlWrite]

/-! ### Machine/Mesh.lean -/

@[simp] theorem turn_pma (s : State) (id : Nat) (out : Port) (w : Waiting) : (s.turn id out w).pma = s.pma := by simp [State.turn, ite_pma]
@[simp] theorem leaveBuffer_pma (s : State) (id : Nat) (out : Port) (w : Waiting) : (s.leaveBuffer id out w).pma = s.pma := by
  unfold State.leaveBuffer
  grind

@[simp] theorem intoBuffer_pma (s : State) (id : Nat) (out : Port) (d : Nat) (f : Flit) : (s.intoBuffer id out d f).pma = s.pma := by
  simp [State.intoBuffer]

@[simp] theorem enterNext_pma (s : State) (id : Nat) (out : Port) (f : Flit) (err : FlitErr) : (s.enterNext id out f err).pma = s.pma := by
  unfold State.enterNext
  grind [logCe_pma, intoBuffer_pma, logErr_pma, count_pma]

@[simp] theorem countSent_pma (s : State) (id : Nat) (out : Port) (w : Waiting) (owner : Nat) :
    (s.countSent id out w owner).pma = s.pma := by
  unfold State.countSent
  grind [count_pma]

@[simp] theorem routeFlit_pma (s : State) (id : Nat) (out : Port) (err : FlitErr) : (s.routeFlit id out err).pma = s.pma := by
  unfold State.routeFlit
  grind [turn_pma, enterNext_pma, leaveBuffer_pma, nextCycle_pma, countSent_pma, logErr_pma, count_pma]

theorem execFlitRoute_pma {stop : Fin 320} {out : Port} {err : FlitErr} {s : State} {s' : State}
    (hr : execFlitRoute stop out err s = .next s') :
    s'.pma = s.pma := by
  unfold execFlitRoute at hr
  grind [nextCycle_pma, routeFlit_pma]

theorem execCreditReturn_pma {stop : Fin 320} {out : Port} {vc : Fin 8} {nxt : Port} {s : State} {s' : State}
    (hr : execCreditReturn stop out vc nxt s = .next s') :
    s'.pma = s.pma := by
  unfold execCreditReturn at hr
  grind

@[simp] theorem ownSlots_pma (s : State) (rid k ph : Nat) (l : List WPort) : (s.ownSlots rid k ph l).pma = s.pma := by
  induction l generalizing s with
  | nil => rfl
  | cons p l ih => rw [State.ownSlots, ih]

theorem placeSlots_pma {s : State} {rid k : Nat} {ports : List WPort} {l : List Nat} {s' : State}
    (hr : s.placeSlots rid k ports l = some s') :
    s'.pma = s.pma := by
  induction l generalizing s with
  | nil => rw [State.placeSlots] at hr; cases hr; rfl
  | cons st l ih =>
    rw [State.placeSlots] at hr
    grind [ownSlots_pma]

@[simp] theorem setPairs_pma (s : State) : (s.setPairs).pma = s.pma := by simp [State.setPairs]
theorem reserve_pma {s : State} {form : WheelForm} {vc k src dst : Nat} {owner : Option Nat} {agent : Nat} {r : State × Fin 128}
    (hr : s.reserve form vc k src dst owner agent = some r) :
    r.1.pma = s.pma := by
  unfold State.reserve at hr
  grind [setPairs_pma, placeSlots_pma]

@[simp] theorem release_pma (s : State) (rid : Nat) : (s.release rid).pma = s.pma := by
  unfold State.release
  grind

@[simp] theorem freeSlots_pma (s : State) (rid : Nat) : (s.freeSlots rid).pma = s.pma := by simp [State.freeSlots]
@[simp] theorem reserveZero_pma (s : State) : (s.reserveZero).pma = s.pma := by simp [State.reserveZero]

/-! ### Machine/Csr.lean -/

@[simp] theorem csrWrite_pma (s : State) (h : HartId) (n0 : Nat) (v : Word) : (s.csrWrite h n0 v).pma = s.pma := by
  unfold State.csrWrite
  grind [setHart_pma, setFile_pma]

/-! ### Machine/Traps.lean -/

@[simp] theorem trap_pma (s : State) (h : HartId) (i : Trap) : (s.trap h i).pma = s.pma := by simp [State.trap, ite_pma]

/-! ### Machine/Translate.lean -/

@[simp] theorem tlbMiss_pma (s : State) (h : HartId) (w : Walk) : (s.tlbMiss h w).pma = s.pma := by
  unfold State.tlbMiss
  grind [setHart_pma, event_pma]

/-! ### Machine/Lines.lean -/

@[simp] theorem fetched_pma (s : State) (h : HartId) : (s.fetched h).pma = s.pma := by
  unfold State.fetched
  grind [setHart_pma]

@[simp] theorem retire_pma (s : State) (h : HartId) (len n : Nat) : (s.retire h len n).pma = s.pma := by simp [State.retire]
@[simp] theorem readFail_pma (s : State) (h : HartId) (pa sts : Nat) (unknown : Bool) : (s.readFail h pa sts unknown).pma = s.pma := by
  simp [State.readFail]

@[simp] theorem poisonUsed_pma (s : State) (h : HartId) (pa how : Nat) : (s.poisonUsed h pa how).pma = s.pma := by simp [State.poisonUsed]
@[simp] theorem prefetch_pma (s : State) (a ln : Nat) (op : MsgOp) : (s.prefetch a ln op).pma = s.pma := by simp [State.prefetch, ite_pma]
@[simp] theorem prefetchD_pma (s : State) (h : HartId) (ln : Nat) : (s.prefetchD h ln).pma = s.pma := by simp [State.prefetchD, ite_pma]
@[simp] theorem prefetchI_pma (s : State) (h : HartId) (ln : Nat) : (s.prefetchI h ln).pma = s.pma := by simp [State.prefetchI, ite_pma]
@[simp] theorem demand_pma (s : State) (h : HartId) (ln : Nat) (op : MsgOp) :
    (s.demand h ln op).pma = s.pma := by simp [State.demand, ite_pma]

@[simp] theorem demandD_pma (s : State) (h : HartId) (ln : Nat) (op : MsgOp) :
    (s.demandD h ln op).pma = s.pma := by simp [State.demandD, ite_pma]

@[simp] theorem demandI_pma (s : State) (h : HartId) (ln : Nat) (op : MsgOp) :
    (s.demandI h ln op).pma = s.pma := by simp [State.demandI, ite_pma]

@[simp] theorem countShared_pma (s : State) (h : HartId) (ln : Nat) (hit fresh : Bool) : (s.countShared h ln hit fresh).pma = s.pma := by
  simp [State.countShared, ite_pma]

@[simp] theorem readLine_pma (s : State) (h : HartId) (la size : Nat) : (s.readLine h la size).pmaIs s.pma := by
  unfold State.readLine
  grind [endMshr_pma, touchL2_pma, updHart_pma, demand_pma, demandD_pma, countShared_pma, readFail_pma, event_pma, ReadRes.pmaIs]

@[simp] theorem nextLines_pma (s : State) (h : HartId) (ln : Nat) : (s.nextLines h ln).pma = s.pma := by
  unfold State.nextLines
  grind [prefetchI_pma]

@[simp] theorem eventT_pma (s : State) (h : HartId) (n : Nat) : (s.eventT h n).pma = s.pma := by simp [State.eventT, ite_pma]
@[simp] theorem fetchLine_pma (s : State) (h : HartId) (la size : Nat) : (s.fetchLine h la size).pmaIs s.pma := by
  unfold State.fetchLine
  grind [endMshr_pma, touchL2_pma, updHart_pma, eventT_pma, demand_pma, demandI_pma, nextLines_pma, countShared_pma, readFail_pma, ReadRes.pmaIs]

@[simp] theorem tcmUe_pma (s : State) (h : HartId) (pa : Nat) (store : Bool) : (s.tcmUe h pa store).pma = s.pma := by simp [State.tcmUe]
@[simp] theorem tcmScrub_pma (s : State) (h : HartId) (k size : Nat) : (s.tcmScrub h k size).pma = s.pma := by
  unfold State.tcmScrub
  grind [logCe_pma, updHart_pma, event_pma]

@[simp] theorem readTcm_pma (s : State) (h : HartId) (pa size : Nat) : (s.readTcm h pa size).pmaIs s.pma := by
  unfold State.readTcm
  grind [tcmScrub_pma, tcmUe_pma, ReadRes.pmaIs]

@[simp] theorem writeTcm_pma (s : State) (h : HartId) (pa size v : Nat) :
    (s.writeTcm h pa size v).pma = s.pma := by simp [State.writeTcm, ite_pma]

/-! ### Machine/Issue.lean -/

@[simp] theorem fetchParcel_pma (s : State) (h : HartId) (va : Word) : (s.fetchParcel h va).pmaIs s.pma := by
  unfold State.fetchParcel
  grind [readTcm_pma, poisonUsed_pma, fetchLine_pma, Fetch.pmaIs, ReadRes.pmaIs]

@[simp] theorem fetchAt_pma (s : State) (h : HartId) (len : Nat) : (s.fetchAt h len).pmaIs s.pma := by
  unfold State.fetchAt
  grind [fetchParcel_pma, Fetch.pmaIs]

@[simp] theorem coreFatal_pma (s : State) (h : HartId) (why : Nat) : (s.coreFatal h why).pma = s.pma := by simp [State.coreFatal]
@[simp] theorem fetchTrap_pma (s : State) (h : HartId) (t : Trap) : (s.fetchTrap h t).pma = s.pma := by simp [State.fetchTrap, ite_pma]
@[simp] theorem onHart_pma (s : State) (h : HartId) (len : Nat) (f : State → State) (hf : ∀ u, (f u).pma = u.pma) :
    (s.onHart h len f).pma = s.pma := by
  unfold State.onHart
  grind [fetchAt_pma, fetchTrap_pma, setHart_pma, tlbMiss_pma, trap_pma, Fetch.pmaIs]

@[simp] theorem illegal_pma (s : State) (h : HartId) (virt : Bool) : (s.illegal h virt).pma = s.pma := by simp [State.illegal]
theorem execExceptionTake_pma {h : HartId} {cause : Fin 64} {tval : Word} {c : Faulting} {s : State} {s' : State}
    (hr : execExceptionTake h cause tval c s = .next s') :
    s'.pma = s.pma := by
  unfold execExceptionTake at hr
  grind [trap_pma, onHart_pma]

theorem execEcall_pma {h : HartId} {s : State} {s' : State} (hr : execEcall h s = .next s') : s'.pma = s.pma := by
  unfold execEcall at hr
  grind [trap_pma, onHart_pma]

theorem execEbreak_pma {h : HartId} {cc : Bool} {s : State} {s' : State} (hr : execEbreak h cc s = .next s') : s'.pma = s.pma := by
  unfold execEbreak at hr
  grind [setHart_pma, trap_pma, onHart_pma]

@[simp] theorem leaveWait_pma (s : State) (h : HartId) : (s.leaveWait h).pma = s.pma := by simp [State.leaveWait]
theorem execInterruptTake_pma {h : HartId} {s : State} {s' : State} (hr : execInterruptTake h s = .next s') : s'.pma = s.pma := by
  unfold execInterruptTake at hr
  grind [leaveWait_pma, trap_pma]

theorem execXret_pma {h : HartId} {k : XretKind} {s : State} {s' : State} (hr : execXret h k s = .next s') : s'.pma = s.pma := by
  unfold execXret at hr
  grind [retire_pma, updHart_pma, illegal_pma, onHart_pma]

@[simp] theorem vectorFetch_pma (s : State) (h : HartId) (failed : Bool) : (s.vectorFetch h failed).pma = s.pma := by
  unfold State.vectorFetch
  grind [coreFatal_pma]

theorem execScoreTrapEntry_pma {h : HartId} {cause : Option (Fin 64)} {tval : Word} {vectorFault : Bool} {s : State} {s' : State}
    (hr : execScoreTrapEntry h cause tval vectorFault s = .next s') :
    s'.pma = s.pma := by
  unfold execScoreTrapEntry at hr
  grind [vectorFetch_pma, leaveWait_pma, trap_pma]

theorem execLateArrivalTakeover_pma {h : HartId} {s : State} {s' : State}
    (hr : execLateArrivalTakeover h s = .next s') : s'.pma = s.pma := by
  unfold execLateArrivalTakeover at hr
  grind [setHart_pma, event_pma]

/-! ### Machine/Walk.lean -/

@[simp] theorem writeLine_pma (s : State) (h : HartId) (la : Nat) (data : Line) (mask : LineMask) (token : Bool) :
    (s.writeLine h la data mask token).pma = s.pma := by simp [State.writeLine, ite_pma]

theorem tokenFor_pma {s : State} {agent la : Nat} {dirty held : Bool} {r : State × Bool × Bool}
    (hr : s.tokenFor agent la dirty held = some r) :
    r.1.pma = s.pma := by
  unfold State.tokenFor at hr
  grind [takeToken_pma, setL3_pma, TokenTake.pmaIs]

@[simp] theorem fenceDone_pma (s : State) (h : HartId) (addr : Bool) (f : Hart → Hart) : (s.fenceDone h addr f).pma = s.pma := by
  simp [State.fenceDone]

theorem execSfenceVma_pma {h : HartId} {rs1 rs2 : Fin 32} {s : State} {s' : State}
    (hr : execSfenceVma h rs1 rs2 s = .next s') : s'.pma = s.pma := by
  unfold execSfenceVma at hr
  grind [fenceDone_pma, illegal_pma, onHart_pma]

theorem execHfenceVvma_pma {h : HartId} {rs1 rs2 : Fin 32} {s : State} {s' : State} (hr : execHfenceVvma h rs1 rs2 s = .next s') :
    s'.pma = s.pma := by
  unfold execHfenceVvma at hr
  grind [fenceDone_pma, illegal_pma, onHart_pma]

theorem execHfenceGvma_pma {h : HartId} {rs1 rs2 : Fin 32} {s : State} {s' : State} (hr : execHfenceGvma h rs1 rs2 s = .next s') :
    s'.pma = s.pma := by
  unfold execHfenceGvma at hr
  grind [fenceDone_pma, illegal_pma, onHart_pma]

/-! ### Machine/Access.lean -/

@[simp] theorem waits_pma (s : State) (h : HartId) : (s.waits h).pma = s.pma := by simp [State.waits, ite_pma]
@[simp] theorem waitsMiss_pma (s : State) (h : HartId) : (s.waitsMiss h).pma = s.pma := by simp [State.waitsMiss, ite_pma]
@[simp] theorem writeFail_pma (s : State) (h : HartId) (pa sts n : Nat) : (s.writeFail h pa sts n).pma = s.pma := by simp [State.writeFail]
@[simp] theorem withParts_pma (s : State) (h : HartId) (virt : Virt) (acc : Acc) (va : Word) (size al enc : Nat) (f : State → List Part → State)
    (hf : ∀ u x1, (f u x1).pma = u.pma) :
    (s.withParts h virt acc va size al enc f).pma = s.pma := by
  unfold State.withParts
  grind [tlbMiss_pma, trap_pma]

@[simp] theorem trainL1_pma (s : State) (h : HartId) (pc : Word) (la : Nat) : (s.trainL1 h pc la).pma = s.pma := by
  unfold State.trainL1
  dsimp only
  rw [ite_pma, ite_pma, foldl_pma fun u ln => prefetchD_pma u h ln]
  simp

@[simp] theorem trainL2_pma (s : State) (h : HartId) (ln : Nat) (own : Bool) : (s.trainL2 h ln own).pma = s.pma := by
  unfold State.trainL2
  dsimp only
  rw [ite_pma, ite_pma, foldl_pma fun u ln => prefetch_pma u _ _ _]
  simp [ite_pma]

@[simp] theorem trainLoad_pma (s : State) (h : HartId) (pc : Word) (ps : List Part) : (s.trainLoad h pc ps).pma = s.pma := by
  unfold State.trainLoad
  dsimp only
  rw [foldl_pma fun u ln => by simp [ite_pma]]
  split <;> simp [ite_pma]

@[simp] theorem readPiece_pma (s : State) (h : HartId) (pair : Bool) (seq : Nat) (p : Part) : (s.readPiece h pair seq p).pmaIs s.pma := by
  unfold State.readPiece
  grind [endMshr_pma, updHart_pma, takeWord_pma, readTcm_pma, readLine_pma, writeFail_pma, ReadRes.pmaIs]

@[simp] theorem readPieces_pma (s : State) (h : HartId) (pair : Bool) (l : List Part) : (s.readPieces h pair l).pmaIs s.pma := by
  induction l generalizing s with
  | nil => rfl
  | cons p l ih => rw [State.readPieces]; grind [ReadRes.pmaIs, readPiece_pma]

@[simp] theorem readParts_pma (s : State) (h : HartId) (pair : Bool) (ps : List Part) : (s.readParts h pair ps).pmaIs s.pma := by
  unfold State.readParts
  grind [eventT_pma, readPieces_pma, ReadRes.pmaIs]

@[simp] theorem issueRead_pma (s : State) (h : HartId) (q : Part) (dest : UDest) (len : Nat) (op : MsgOp) (edit : Flit → Flit) :
    (s.issueRead h q dest len op edit).1.pma = s.pma := by
  unfold State.issueRead
  grind [setHart_pma, send_pma]

@[simp] theorem sendHeld_pma (s : State) (h : HartId) : (s.sendHeld h).pma = s.pma := by
  unfold State.sendHeld
  grind [setHart_pma, send_pma]

@[simp] theorem issueReads_pma (s : State) (h : HartId) (dest : UDest) (len : Nat) (l : List Part) :
    (s.issueReads h dest len l).1.pma = s.pma := by
  induction l generalizing s with
  | nil => rfl
  | cons q l ih => rw [State.issueReads]; grind [issueRead_pma]

@[simp] theorem endDbg_pma (s : State) (h : HartId) (o n : Nat) (ok : Bool) : (s.endDbg h o n ok).pma = s.pma := by simp [State.endDbg]
@[simp] theorem endFailed_pma (s : State) (h : HartId) (d : UDest) (cause : Nat) (va : Word) : (s.endFailed h d cause va).pma = s.pma := by
  unfold State.endFailed
  grind [endDbg_pma, trap_pma]

@[simp] theorem endUload_pma (s : State) (h : HartId) (dest : UDest) (len : Nat) : (s.endUload h dest len).pma = s.pma := by
  unfold State.endUload
  grind [retire_pma, updHart_pma, endDbg_pma, trap_pma]

@[simp] theorem issuePair_pma (s : State) (h : HartId) (dest : UDest) (len : Nat) (l : List Part) :
    (s.issuePair h dest len l).pma = s.pma := by
  induction l generalizing s with
  | nil => rfl
  | cons q l ih => rw [State.issuePair]; grind [issueRead_pma, takeWord_pma, writeFail_pma, updHart_pma]

@[simp] theorem startRead_pma (s : State) (h : HartId) (dest : UDest) (len : Nat) (parts : List Part) :
    (s.startRead h dest len parts).pma = s.pma := by
  unfold State.startRead
  grind [waits_pma, updHart_pma, endUload_pma, issuePair_pma, issueReads_pma, endFailed_pma, readFail_pma]

@[simp] theorem endPart_pma (s : State) (h : HartId) (u : ULoad) (sts : Nat) (unknown poison : Bool) (data : Line) :
    (s.endPart h u sts unknown poison data).pma = s.pma := by
  unfold State.endPart
  grind [sendHeld_pma, updHart_pma, endUload_pma, takeWord_pma, poisonUsed_pma, endFailed_pma, readFail_pma, writeFail_pma]

/-! ### Machine/LoadStore.lean -/

@[simp] theorem legally_pma (s : State) (h : HartId) (a : CsrAccess) (f : State → State) (hf : ∀ u, (f u).pma = u.pma) :
    (s.legally h a f).pma = s.pma := by
  unfold State.legally
  grind [illegal_pma]

@[simp] theorem loadParts_pma (s : State) (h : HartId) (va : Word) (dest : UDest) (len : Nat) (ps : List Part) :
    (s.loadParts h va dest len ps).pma = s.pma := by
  unfold State.loadParts
  grind [retire_pma, trainLoad_pma, waits_pma, readParts_pma, updHart_pma, eventT_pma, poisonUsed_pma, startRead_pma, waitsMiss_pma, trap_pma,
    ReadRes.pmaIs]

@[simp] theorem aheadPieces_pma (s : State) (h : HartId) (seq : Nat) (pc : Word) (fwd : Option SbEntry) (l : List Part) :
    (s.aheadPieces h seq pc fwd l).pma = s.pma := by
  induction l generalizing s with
  | nil => rfl
  | cons p l ih => rw [State.aheadPieces]; grind [ReadRes.pmaIs, readPiece_pma, updHart_pma]

@[simp] theorem loadAhead_pma (s : State) (h : HartId) (a : Ahead) : (s.loadAhead h a).pma = s.pma := by
  unfold State.loadAhead
  grind [trainLoad_pma, aheadPieces_pma, tlbMiss_pma]

@[simp] theorem storeAhead_pma (s : State) (h : HartId) (a : Ahead) : (s.storeAhead h a).pma = s.pma := by
  unfold State.storeAhead
  dsimp only
  repeat' split
  · rfl
  · rfl
  · exact foldl_pma (fun u q => by simp [ite_pma]) _ s
  · rfl

theorem execLoad_pma {h : HartId} {k : LdKind} {virt : Virt} {rd rs1 : Fin 32} {imm : BitVec 12} {ahead : Option Ahead} {c : Bool} {s : State} {s' : State}
    (hr : execLoad h k virt rd rs1 imm ahead c s = .next s') :
    s'.pma = s.pma := by
  unfold execLoad at hr
  grind [withParts_pma, loadAhead_pma, legally_pma, loadParts_pma, onHart_pma]

@[simp] theorem orderCheck_pma (s : State) (h : HartId) (e : SbEntry) : (s.orderCheck h e).pma = s.pma := by
  unfold State.orderCheck
  grind [updHart_pma, event_pma]

@[simp] theorem enterStores_pma (s : State) (h : HartId) (es : List SbEntry) (done : State → State) (hdone : ∀ u, (done u).pma = u.pma) :
    (s.enterStores h es done).pma = s.pma := by
  unfold State.enterStores
  dsimp only
  split
  · simp
  · rw [hdone, foldl_pma fun u e => orderCheck_pma u h e, setHart_pma]

@[simp] theorem storeParts_pma (s : State) (h : HartId) (v len : Nat) (zero : Bool) (ps : List Part) :
    (s.storeParts h v len zero ps).pma = s.pma := by simp [State.storeParts]

@[simp] theorem plainStore_pma (s : State) (h : HartId) (k : StKind) (virt : Virt) (rs2 rs1 : Fin 32) (imm : BitVec 12) (len : Nat) :
    (s.plainStore h k virt rs2 rs1 imm len).pma = s.pma := by
  unfold State.plainStore
  grind [withParts_pma, legally_pma, storeParts_pma, onHart_pma]

theorem execStore_pma {h : HartId} {k : StKind} {virt : Virt} {rs2 rs1 : Fin 32} {imm : BitVec 12} {c : StForm} {s : State} {s' : State}
    (hr : execStore h k virt rs2 rs1 imm c s = .next s') :
    s'.pma = s.pma := by
  unfold execStore at hr
  grind [plainStore_pma, storeAhead_pma]

@[simp] theorem putStream_pma (s : State) (e : Stream) : (s.putStream e).pma = s.pma := by simp [State.putStream]
@[simp] theorem dropStream_pma (s : State) (a k : Nat) : (s.dropStream a k).pma = s.pma := by simp [State.dropStream]
@[simp] theorem trainStream_pma (s : State) (h : HartId) (ln : Nat) (m : LineMask) : (s.trainStream h ln m).pma = s.pma := by
  unfold State.trainStream
  grind [putStream_pma, event_pma]

theorem execStreamEndTimeout_pma {h : HartId} {k : Fin 8} {s : State} {s' : State}
    (hr : execStreamEndTimeout h k s = .next s') : s'.pma = s.pma := by
  unfold execStreamEndTimeout at hr
  grind [updHart_pma, dropStream_pma]

theorem own_pma {s : State} {h : HartId} {ln : Nat} {m : LineMask} {claim : Bool} {s' : State} (hr : s.own h ln m claim = some s') :
    s'.pma = s.pma := by
  unfold State.own at hr
  grind [demand_pma]

theorem dirty_pma {s : State} {h : HartId} {la : Nat} {data : Line} {m : LineMask} {held : Bool} {s' : State}
    (hr : s.dirty h la data m held = some s') :
    s'.pma = s.pma := by
  unfold State.dirty at hr
  dsimp only at hr
  split at hr
  · cases hr
  · next u tok keep hu =>
    cases hr
    simpa [ite_pma] using tokenFor_pma hu

@[simp] theorem drainCached_pma (s : State) (h : HartId) (e : SbEntry) (p : SbPart) : (s.drainCached h e p).pma = s.pma := by
  unfold State.drainCached
  grind [endMshr_pma, dirty_pma, updHart_pma, own_pma, trainL2_pma, trainStream_pma, writeFail_pma]

@[simp] theorem drainUncached_pma (s : State) (h : HartId) (e : SbEntry) (p : SbPart) : (s.drainUncached h e p).pma = s.pma := by
  unfold State.drainUncached
  grind [updHart_pma, writeFail_pma, send_pma]

@[simp] theorem drainHead_pma (s : State) (h : HartId) (k : Nat) : (s.drainHead h k).pma = s.pma := by
  unfold State.drainHead
  grind [updHart_pma, writeTcm_pma, drainCached_pma, drainUncached_pma]

theorem execStoreDrain_pma {d : Drain} {s : State} {s' : State} (hr : execStoreDrain d s = .next s') : s'.pma = s.pma := by
  unfold execStoreDrain at hr
  grind [drainHead_pma]

@[simp] theorem withAtomic_pma (s : State) (h : HartId) (acc : Acc) (va : Word) (n f5 rd rs2 : Nat) (f : State → Part → State)
    (hf : ∀ u x1, (f u x1).pma = u.pma) :
    (s.withAtomic h acc va n f5 rd rs2 f).pma = s.pma := by
  unfold State.withAtomic
  grind [waits_pma, updHart_pma, withParts_pma, trap_pma]

@[simp] theorem atomicAt_pma (s : State) (h : HartId) (p : Part) (va : Word) (n cost : Nat) (f : Nat → Option Nat × (Hart → Hart)) :
    (s.atomicAt h p va n cost f).pma = s.pma := by
  unfold State.atomicAt
  grind [retire_pma, endMshr_pma, dirty_pma, updHart_pma, writeTcm_pma, readTcm_pma, poisonUsed_pma, own_pma, waitsMiss_pma, readFail_pma, trap_pma,
    ReadRes.pmaIs]

@[simp] theorem atomicFar_pma (s : State) (h : HartId) (p : Part) (dest : UDest) (edit : Flit → Flit) :
    (s.atomicFar h p dest edit).pma = s.pma := by
  unfold State.atomicFar
  grind [waits_pma, updHart_pma, endUload_pma, issueRead_pma, readFail_pma, trap_pma]

theorem execAmo_pma {h : HartId} {fn : AmoFn} {size : AccSize} {rd rs2 rs1 : Fin 32} {s : State} {s' : State}
    (hr : execAmo h fn size rd rs2 rs1 s = .next s') :
    s'.pma = s.pma := by
  unfold execAmo at hr
  grind [atomicFar_pma, atomicAt_pma, trap_pma, onHart_pma, withAtomic_pma]

theorem execLr_pma {h : HartId} {size : AccSize} {rd rs1 : Fin 32} {s : State} {s' : State} (hr : execLr h size rd rs1 s = .next s') :
    s'.pma = s.pma := by
  unfold execLr at hr
  grind [retire_pma, endMshr_pma, updHart_pma, readTcm_pma, poisonUsed_pma, own_pma, waitsMiss_pma, readFail_pma, trap_pma, onHart_pma,
    withAtomic_pma, ReadRes.pmaIs]

theorem execSc_pma {h : HartId} {size : AccSize} {rd rs2 rs1 : Fin 32} {s : State} {s' : State}
    (hr : execSc h size rd rs2 rs1 s = .next s') :
    s'.pma = s.pma := by
  unfold execSc at hr
  grind [retire_pma, updHart_pma, atomicAt_pma, trap_pma, event_pma, onHart_pma, withAtomic_pma]

theorem execAmocas_pma {h : HartId} {bytes : Nat} {rd rs2 rs1 : Fin 32} {s : State} {s' : State}
    (hr : execAmocas h bytes rd rs2 rs1 s = .next s') :
    s'.pma = s.pma := by
  unfold execAmocas at hr
  grind [atomicFar_pma, atomicAt_pma, trap_pma, illegal_pma, onHart_pma, withAtomic_pma]

theorem execLrDeferralExpiry_pma {h : HartId} {s : State} {s' : State} (hr : execLrDeferralExpiry h s = .next s') : s'.pma = s.pma := by
  unfold execLrDeferralExpiry at hr
  grind [updHart_pma]

theorem execXpld_pma {h : HartId} {rd rs1 : Fin 32} {imm : BitVec 12} {s : State} {s' : State} (hr : execXpld h rd rs1 imm s = .next s') :
    s'.pma = s.pma := by
  unfold execXpld at hr
  grind [withParts_pma, loadParts_pma, startRead_pma, illegal_pma, onHart_pma]

theorem execXpst_pma {h : HartId} {rs2 rs1 : Fin 32} {imm : BitVec 12} {s : State} {s' : State} (hr : execXpst h rs2 rs1 imm s = .next s') :
    s'.pma = s.pma := by
  unfold execXpst at hr
  grind [withParts_pma, storeParts_pma, illegal_pma, onHart_pma]

/-! ### Machine/Order.lean -/

@[simp] theorem fenceOr_pma (s : State) (h : HartId) (w : FenceWait) : (s.fenceOr h w).pma = s.pma := by simp [State.fenceOr, ite_pma]
theorem execFence_pma {h : HartId} {pred succ : FSet} {s : State} {s' : State}
    (hr : execFence h pred succ s = .next s') : s'.pma = s.pma := by
  unfold execFence at hr
  grind [fenceOr_pma, onHart_pma]

theorem execFenceTso_pma {h : HartId} {s : State} {s' : State} (hr : execFenceTso h s = .next s') : s'.pma = s.pma := by
  unfold execFenceTso at hr
  grind [updHart_pma, fenceOr_pma, onHart_pma]

theorem execXfenceP_pma {h : HartId} {s : State} {s' : State} (hr : execXfenceP h s = .next s') : s'.pma = s.pma := by
  unfold execXfenceP at hr
  grind [fenceOr_pma, onHart_pma]

theorem execFenceWaitEnd_pma {h : HartId} {s : State} {s' : State} (hr : execFenceWaitEnd h s = .next s') : s'.pma = s.pma := by
  unfold execFenceWaitEnd at hr
  grind [retire_pma, setHart_pma]

theorem execFenceI_pma {h : HartId} {s : State} {s' : State} (hr : execFenceI h s = .next s') : s'.pma = s.pma := by
  unfold execFenceI at hr
  grind [retire_pma, waits_pma, updHart_pma, onHart_pma]

@[simp] theorem cboLine_pma (s : State) (h : HartId) (rs1 : Fin 32) (op : MsgOp) : (s.cboLine h rs1 op).pma = s.pma := by
  unfold State.cboLine
  grind [retire_pma, sendClean_pma, waits_pma, updHart_pma, tlbMiss_pma, trap_pma]

@[simp] theorem cbo_pma (s : State) (h : HartId) (perm : CboOk) (f : Bool → State → State) (hf : ∀ x0 u, (f x0 u).pma = u.pma) :
    (s.cbo h perm f).pma = s.pma := by
  unfold State.cbo
  grind [illegal_pma]

theorem execCboClean_pma {h : HartId} {rs1 : Fin 32} {s : State} {s' : State} (hr : execCboClean h rs1 s = .next s') : s'.pma = s.pma := by
  unfold execCboClean at hr
  grind [cbo_pma, cboLine_pma, onHart_pma]

theorem execCboFlush_pma {h : HartId} {rs1 : Fin 32} {s : State} {s' : State} (hr : execCboFlush h rs1 s = .next s') : s'.pma = s.pma := by
  unfold execCboFlush at hr
  grind [cbo_pma, cboLine_pma, onHart_pma]

theorem execCboInval_pma {h : HartId} {rs1 : Fin 32} {s : State} {s' : State} (hr : execCboInval h rs1 s = .next s') : s'.pma = s.pma := by
  unfold execCboInval at hr
  grind [cbo_pma, cboLine_pma, onHart_pma]

theorem execCboZero_pma {h : HartId} {rs1 : Fin 32} {s : State} {s' : State} (hr : execCboZero h rs1 s = .next s') : s'.pma = s.pma := by
  unfold execCboZero at hr
  grind [cbo_pma, tlbMiss_pma, storeParts_pma, trap_pma, illegal_pma, onHart_pma]

theorem execPrefetchHint_pma {h : HartId} {k : PfKind} {rs1 : Fin 32} {imm : BitVec 12} {s : State} {s' : State}
    (hr : execPrefetchHint h k rs1 imm s = .next s') :
    s'.pma = s.pma := by
  unfold execPrefetchHint at hr
  grind [retire_pma, waits_pma, updHart_pma, request_pma, tlbMiss_pma, onHart_pma]

@[simp] theorem drainLines_pma (s : State) (h : HartId) (p : Nat → CLine → Bool) (kind : Nat) : (s.drainLines h p kind).pma = s.pma := by
  unfold State.drainLines
  dsimp only
  split
  · simp
  · rw [ite_pma, pump_pma, foldl_pma fun u ln => updHart_pma ..]
    simp

theorem execXwayClean_pma {h : HartId} {rs1 : Fin 32} {s : State} {s' : State}
    (hr : execXwayClean h rs1 s = .next s') : s'.pma = s.pma := by
  unfold execXwayClean at hr
  grind [drainLines_pma, legally_pma, onHart_pma]

theorem execXwayCinv_pma {h : HartId} {rs1 : Fin 32} {s : State} {s' : State} (hr : execXwayCinv h rs1 s = .next s') : s'.pma = s.pma := by
  unfold execXwayCinv at hr
  grind [retire_pma, emptyWay_pma, drainLines_pma, legally_pma, onHart_pma]

theorem execXbrDrain_pma {h : HartId} {s : State} {s' : State} (hr : execXbrDrain h s = .next s') : s'.pma = s.pma := by
  unfold execXbrDrain at hr
  grind [drainLines_pma, legally_pma, onHart_pma]

@[simp] theorem lateResponse_pma (s : State) (n : Node) (pa : Nat) : (s.lateResponse n pa).pma = s.pma := by simp [State.lateResponse]
@[simp] theorem writeTimeout_pma (s : State) (h : HartId) (w : UWrite) :
    (s.writeTimeout h w).pma = s.pma := by simp [State.writeTimeout, ite_pma]

@[simp] theorem hartTimeout_pma (s : State) (h : HartId) (tag : Nat) : (s.hartTimeout h tag).pma = s.pma := by
  unfold State.hartTimeout
  grind [updHart_pma, endPart_pma, writeTimeout_pma, passTo_pma]

@[simp] theorem hartAnswer_pma (s : State) (h : HartId) (f : Flit) : (s.hartAnswer h f).pma = s.pma := by
  unfold State.hartAnswer
  grind [setHart_pma, endPart_pma, lateResponse_pma, writeFail_pma]

theorem execEwaEndpointFailure_pma {stop req : Node} {a : Pa} {sts : BitVec 8} {s : State} {s' : State}
    (hr : execEwaEndpointFailure stop req a sts s = .next s') :
    s'.pma = s.pma := by
  unfold execEwaEndpointFailure at hr
  grind [passTo_pma, ewaFail_pma]

/-! ### Machine/Graop.lean -/

@[simp] theorem updLink_pma (s : State) (l : Nat) (f : Link → Link) : (s.updLink l f).pma = s.pma := by simp [State.updLink]
@[simp] theorem linkErr_pma (s : State) (l lost : Nat) : (s.linkErr l lost).pma = s.pma := by simp [State.linkErr]
@[simp] theorem startStub_pma (s : State) : (s.startStub).pma = s.pma := by simp [State.startStub]
@[simp] theorem maybeStart_pma (s : State) : (s.maybeStart).pma = s.pma := by simp [State.maybeStart, ite_pma]
@[simp] theorem routesChanged_pma (s : State) (n : Nat) : (s.routesChanged n).pma = s.pma := by simp [State.routesChanged, ite_pma]
@[simp] theorem enqueue_pma (s : State) (l : Nat) (p : Pkt) : (s.enqueue l p).pma = s.pma := by simp [State.enqueue]
@[simp] theorem tellNeighbours_pma (s : State) (op : PktOp) (us : List RouteUnit) (skip : Option (Fin 8)) :
    (s.tellNeighbours op us skip).pma = s.pma := by
  unfold State.tellNeighbours
  split
  · rfl
  · refine foldl_pma (fun u g => ?_) _ s
    split
    · rfl
    · split
      · exact foldl_pma (fun v w => enqueue_pma ..) _ u
      · rfl

@[simp] theorem advertise_pma (s : State) (skip : Option (Fin 8)) : (s.advertise skip).pma = s.pma := by simp [State.advertise]
@[simp] theorem chooseParent_pma (s : State) : (s.chooseParent).pma = s.pma := by
  unfold State.chooseParent
  dsimp only
  split
  · simp [ite_pma, foldl_pma fun (u : State) (l : Nat) => updLink_pma u l _]
  · exact foldl_pma (fun u l => updLink_pma u l _) _ s

theorem forward_pma {s : State} {p : Pkt} {s' : State} (hr : s.forward p = some s') : s'.pma = s.pma := by
  unfold State.forward at hr
  grind [enqueue_pma]

@[simp] theorem homeward_pma (s : State) (l : Nat) (p : Pkt) : (s.homeward l p).pma = s.pma := by
  unfold State.homeward
  grind [lateResponse_pma, send_pma]

@[simp] theorem noRoute_pma (s : State) (l : Nat) (p : Pkt) : (s.noRoute l p).pma = s.pma := by
  unfold State.noRoute
  split
  · rfl
  · split
    · simp
    · exact getD_pma forward_pma rfl

@[simp] theorem reroute_pma (s : State) (l : Nat) (g : Fin 8) : (s.reroute l g).pma = s.pma := by
  unfold State.reroute
  dsimp only
  rw [chooseParent_pma]
  refine (foldl_pma (fun u p => by grind [forward_pma, noRoute_pma]) _ _).trans ?_
  rw [updLink_pma]
  split
  · rfl
  · split
    · rw [advertise_pma, routesChanged_pma]
      exact foldl_pma (fun v x => setRoute_pma ..) _ s
    · rw [tellNeighbours_pma, routesChanged_pma]
      exact foldl_pma (fun v x => setRoute_pma ..) _ s

@[simp] theorem countLink_pma (s : State) (l code n : Nat) : (s.countLink l code n).pma = s.pma := by simp [State.countLink]
@[simp] theorem putLink_pma (s : State) (l : Nat) (k : Link) : (s.putLink l k).pma = s.pma := by simp [State.putLink]
@[simp] theorem countPkts_pma (s : State) (l code : Nat) (ps : List Pkt) : (s.countPkts l code ps).pma = s.pma := by
  induction ps generalizing s with
  | nil => rfl
  | cons p ps ih => rw [State.countPkts, ih, count_pma]

theorem execLinkFrameSend_pma {l : Fin 8} {s : State} {s' : State} (hr : execLinkFrameSend l s = .next s') : s'.pma = s.pma := by
  cases hr
  split
  · rfl
  · dsimp only
    split
    · simp
    · split
      · simp
      · split <;> simp

theorem execDataFrame_pma {l : Fin 8} {seq ack : Fin 4096} {nak crcErr : Bool} {symErrs : Fin 225} {cvc : Fin 8 × Fin 8} {ccnt : Fin 256 × Fin 256} {pkts : List (Pkt × Fin 16)} {s : State} {s' : State}
    (hr : execDataFrame l seq ack nak crcErr symErrs cvc ccnt pkts s = .next s') :
    s'.pma = s.pma := by
  unfold execDataFrame at hr
  grind [logCe_pma, putLink_pma, linkErr_pma]

theorem execIdleFrame_pma {l : Fin 8} {ack : Fin 4096} {nak : Bool} {cvc0 : Fin 8} {ccnt0 : Fin 256} {cvc1 : Fin 8} {ccnt1 : Fin 256} {s : State} {s' : State}
    (hr : execIdleFrame l ack nak cvc0 ccnt0 cvc1 ccnt1 s = .next s') :
    s'.pma = s.pma := by
  unfold execIdleFrame at hr
  grind [putLink_pma]

theorem execTrainFrame_pma {l : Fin 8} {s : State} {s' : State} (hr : execTrainFrame l s = .next s') : s'.pma = s.pma := by
  unfold execTrainFrame at hr
  grind

theorem execSyncSend_pma {l : Fin 8} {s : State} {s' : State} (hr : execSyncSend l s = .next s') : s'.pma = s.pma := by
  unfold execSyncSend at hr
  grind

theorem execSyncFrame_pma {l : Fin 8} {sent peerSent peerArrived : Word} {s : State} {s' : State}
    (hr : execSyncFrame l sent peerSent peerArrived s = .next s') :
    s'.pma = s.pma := by
  unfold execSyncFrame at hr
  grind [setLink_pma]

@[simp] theorem hello_pma (s : State) (l nbr nbrLink : Nat) : (s.hello l nbr nbrLink).pma = s.pma := by
  unfold State.hello
  grind [routesChanged_pma, advertise_pma, setRoute_pma, maybeStart_pma, chooseParent_pma, setLink_pma, notice_pma, linkErr_pma]

theorem execHelloFrame_pma {l : Fin 8} {pkg : Fin 512} {nbrLink : Fin 8} {s : State} {s' : State}
    (hr : execHelloFrame l pkg nbrLink s = .next s') :
    s'.pma = s.pma := by
  unfold execHelloFrame at hr
  grind [hello_pma]

theorem execFrameLockLost_pma {l : Fin 8} {s : State} {s' : State} (hr : execFrameLockLost l s = .next s') : s'.pma = s.pma := by
  unfold execFrameLockLost at hr
  grind [putLink_pma]

@[simp] theorem linkGoesDown_pma (s : State) (l cause : Nat) : (s.linkGoesDown l cause).pma = s.pma := by simp [State.linkGoesDown]
theorem execLinkRecoveryDone_pma {l : Fin 8} {how : RecEnd} {s : State} {s' : State} (hr : execLinkRecoveryDone l how s = .next s') :
    s'.pma = s.pma := by
  unfold execLinkRecoveryDone at hr
  grind [setLink_pma, linkGoesDown_pma]

theorem execLinkDown_pma {l : Fin 8} {s : State} {s' : State} (hr : execLinkDown l s = .next s') : s'.pma = s.pma := by
  unfold execLinkDown at hr
  grind [linkGoesDown_pma]

@[simp] theorem leaveGroup_pma (s : State) (l : Nat) : (s.leaveGroup l).pma = s.pma := by
  unfold State.leaveGroup
  grind [reroute_pma, updLink_pma]

theorem execLinkRemoveFromGroup_pma {l : Fin 8} {s : State} {s' : State}
    (hr : execLinkRemoveFromGroup l s = .next s') : s'.pma = s.pma := by
  unfold execLinkRemoveFromGroup at hr
  grind [leaveGroup_pma]

theorem execLinkRetry_pma {l : Fin 8} {trained : Bool} {nbr : Fin 512} {s : State} {s' : State}
    (hr : execLinkRetry l trained nbr s = .next s') :
    s'.pma = s.pma := by
  unfold execLinkRetry at hr
  grind [leaveGroup_pma, passTo_pma, setLink_pma, hello_pma]

theorem execFabricBringupTimeout_pma {s : State} {s' : State} (hr : execFabricBringupTimeout s = .next s') : s'.pma = s.pma := by
  unfold execFabricBringupTimeout at hr
  grind [startStub_pma]

@[simp] theorem takePkt_pma (s : State) (l : Nat) (p : Pkt) : (s.takePkt l p).pma = s.pma := by simp [State.takePkt]
@[simp] theorem transit_pma (s : State) (l : Nat) (p : Pkt) : (s.transit l p).pma = s.pma := by
  unfold State.transit
  grind [noRoute_pma, takePkt_pma, forward_pma, count_pma, linkErr_pma]

@[simp] theorem refusePkt_pma (s : State) (p : Pkt) (sts : Nat) : (s.refusePkt p sts).pma = s.pma := getD_pma forward_pma rfl
/-- The ends of a request at its home. As in `outbound_cases`, the kernel must not evaluate the destination. -/
theorem atHome_cases {P : State → Prop} {s : State} {l : Nat} {p : Pkt} {op : MsgOp} (h0 : P s) (he : P ((s.takePkt l p).linkErr l 1))
    (hr : ∀ n, P ((s.takePkt l p).refusePkt p n)) (hz : P (((s.takePkt l p).forward (s.zeroPkt p)).getD s))
    (hs : ∀ hs f, P (State.send { s.takePkt l p with graop := { (s.takePkt l p).graop with homes := hs } } f)) : P (s.atHome l p op) := by
  generalize hF : @State.atHome = F
  delta State.atHome at hF
  subst hF
  beta_reduce
  extract_lets -underBinder la
  split
  · exact he
  · split
    · exact hr _
    · split
      · exact hr _
      · split
        · exact hz
        · exact hr _
        · extract_lets -underBinder mine
          split
          · exact h0
          · exact hs ..

@[simp] theorem atHome_pma (s : State) (l : Nat) (p : Pkt) (op : MsgOp) : (s.atHome l p op).pma = s.pma := by
  exact atHome_cases (P := fun t => t.pma = s.pma) rfl (by simp) (fun _ => by simp)
    (getD_pma (fun hr => (forward_pma hr).trans (takePkt_pma ..)) rfl) fun _ _ => (send_pma ..).trans (takePkt_pma s l p)

@[simp] theorem reqPkt_pma (s : State) (l : Nat) (p : Pkt) (op : MsgOp) : (s.reqPkt l p op).pma = s.pma := by simp [State.reqPkt, ite_pma]
@[simp] theorem respPkt_pma (s : State) (l : Nat) (p : Pkt) : (s.respPkt l p).pma = s.pma := by simp [State.respPkt, ite_pma]
theorem execRdNc_pma {l : Fin 8} {p : Pkt} {s : State} {s' : State} (hr : execRdNc l p s = .next s') : s'.pma = s.pma := by
  unfold execRdNc at hr
  grind [reqPkt_pma]

theorem execWrNc_pma {l : Fin 8} {p : Pkt} {s : State} {s' : State} (hr : execWrNc l p s = .next s') : s'.pma = s.pma := by
  unfold execWrNc at hr
  grind [reqPkt_pma]

theorem execAtomNc_pma {l : Fin 8} {p : Pkt} {s : State} {s' : State} (hr : execAtomNc l p s = .next s') : s'.pma = s.pma := by
  unfold execAtomNc at hr
  grind [reqPkt_pma]

theorem execBlkRd_pma {l : Fin 8} {p : Pkt} {s : State} {s' : State} (hr : execBlkRd l p s = .next s') : s'.pma = s.pma := by
  unfold execBlkRd at hr
  grind [reqPkt_pma]

theorem execBlkWr_pma {l : Fin 8} {p : Pkt} {s : State} {s' : State} (hr : execBlkWr l p s = .next s') : s'.pma = s.pma := by
  unfold execBlkWr at hr
  grind [reqPkt_pma]

theorem execRdData_pma {l : Fin 8} {p : Pkt} {s : State} {s' : State} (hr : execRdData l p s = .next s') : s'.pma = s.pma := by
  unfold execRdData at hr
  grind [respPkt_pma]

theorem execWrAck_pma {l : Fin 8} {p : Pkt} {s : State} {s' : State} (hr : execWrAck l p s = .next s') : s'.pma = s.pma := by
  unfold execWrAck at hr
  grind [respPkt_pma]

theorem execAtomData_pma {l : Fin 8} {p : Pkt} {s : State} {s' : State} (hr : execAtomData l p s = .next s') : s'.pma = s.pma := by
  unfold execAtomData at hr
  grind [respPkt_pma]

theorem execErrResp_pma {l : Fin 8} {p : Pkt} {s : State} {s' : State} (hr : execErrResp l p s = .next s') : s'.pma = s.pma := by
  unfold execErrResp at hr
  grind [respPkt_pma]

@[simp] theorem atLink_pma (s : State) (l : Nat) (f : Flit) : (s.atLink l f).pma = s.pma := by
  unfold State.atLink
  grind [enqueue_pma, accept_pma]

@[simp] theorem homeAnswer_pma (s : State) (l : Nat) (f : Flit) : (s.homeAnswer l f).pma = s.pma := by
  unfold State.homeAnswer
  split
  · simp
  · exact getD_pma (fun hr => (forward_pma hr).trans rfl) rfl

@[simp] theorem takeMgt_pma (s : State) (l : Nat) (op : PktOp) : (s.takeMgt l op).pma = s.pma := by
  unfold State.takeMgt
  grind [takePkt_pma]

theorem execRouteAdv_pma {l : Fin 8} {us : List RouteUnit} {s : State} {s' : State}
    (hr : execRouteAdv l us s = .next s') : s'.pma = s.pma := by
  cases hr
  split
  · simp
  · dsimp only
    rw [ite_pma, maybeStart_pma, chooseParent_pma, advertise_pma, routesChanged_pma, foldl_pma fun u x => setRoute_pma ..]
    simp

theorem execRouteWithdraw_pma {l : Fin 8} {us : List RouteUnit} {s : State} {s' : State} (hr : execRouteWithdraw l us s = .next s') :
    s'.pma = s.pma := by
  cases hr
  split
  · simp
  · dsimp only
    rw [ite_pma, chooseParent_pma, tellNeighbours_pma, routesChanged_pma, foldl_pma fun u x => setRoute_pma ..]
    simp

theorem execLinkNotice_pma {l : Fin 8} {s : State} {s' : State} (hr : execLinkNotice l s = .next s') : s'.pma = s.pma := by
  unfold execLinkNotice at hr
  grind [takeMgt_pma, leaveGroup_pma, updLink_pma]

theorem execTagEntryTimeout_pma {l : Fin 8} {k : Fin 4096} {s : State} {s' : State}
    (hr : execTagEntryTimeout l k s = .next s') : s'.pma = s.pma := by
  unfold execTagEntryTimeout at hr
  grind [passTo_pma]

@[simp] theorem glInjWrite_pma (s : State) (l : Nat) (v : BitVec 32) : (s.glInjWrite l v).pma = s.pma := by simp [State.glInjWrite]

/-! ### Machine/Level.lean -/

@[simp] theorem setLevel_pma (s : State) (l : Fin 4) (inst : Nat) : (s.setLevel l inst).pma = s.pma := by
  unfold State.setLevel
  dsimp only
  rw [foldl_pma fun u h => updHart_pma u h _]
  simp [ite_pma]

/-! ### Machine/Direct.lean -/

@[simp] theorem mapFlits_pma (s : State) (g : Flit → Flit) : (s.mapFlits g).pma = s.pma := by simp [State.mapFlits]
@[simp] theorem pokeCopies_pma (s : State) (ln : Nat) (d : Line) (m : LineMask) : (s.pokeCopies ln d m).pma = s.pma := by
  unfold State.pokeCopies
  dsimp only
  simp only [setCoh_pma, mapFlits_pma, ite_pma, setL3_pma, ite_self]
  exact foldl_pma (fun u a => setL2_pma u _ _ _) _ s

@[simp] theorem pokeLine_pma (s : State) (la : Nat) (d : Line) (m : LineMask) : (s.pokeLine la d m).pma = s.pma := by
  unfold State.pokeLine
  grind [setMark_pma, pokeCopies_pma, mapHarts_pma, killResv_pma]

@[simp] theorem homeWrite_pma (s : State) (la : Nat) (d : Line) (m : LineMask) : (s.homeWrite la d m).pma = s.pma := by
  unfold State.homeWrite
  dsimp only
  split
  · simp
  · split
    · simp [ite_pma]
    · split
      · simp
      · split
        · next t w ht =>
          rw [writeCore_pma ht, killResv_pma, setSf_pma]
          exact foldl_pma (fun u a => by simp) _ s
        · simp

@[simp] theorem homeBytes_pma (s : State) (la : Nat) (bs : List Byte) (n : Nat) : (s.homeBytes la bs n).pma = s.pma := by
  induction n generalizing s la bs with
  | zero => rfl
  | succ n ih => rw [State.homeBytes]; split <;> simp [ih]

@[simp] theorem pokeBytes_pma (s : State) (la : Nat) (bs : List Byte) (n : Nat) : (s.pokeBytes la bs n).pma = s.pma := by
  induction n generalizing s la bs with
  | zero => rfl
  | succ n ih => rw [State.pokeBytes]; split <;> simp [ih]

/-! ### Machine/Iommu.lean -/

@[simp] theorem updIommu_pma (s : State) (e : Nat) (f : Iommu → Iommu) : (s.updIommu e f).pma = s.pma := by simp [State.updIommu]
@[simp] theorem iommuMsi_pma (s : State) (e v : Nat) : (s.iommuMsi e v).pma = s.pma := by
  unfold State.iommuMsi
  grind [send_pma]

@[simp] theorem iommuIrq_pma (s : State) (e i : Nat) : (s.iommuIrq e i).pma = s.pma := by simp [State.iommuIrq, ite_pma]
@[simp] theorem faultSend_pma (s : State) (e : Nat) : (s.faultSend e).pma = s.pma := by
  unfold State.faultSend
  grind [iommuIrq_pma, setIommu_pma, send_pma]

@[simp] theorem faultRecord_pma (s : State) (e : Nat) (f : IoFault) (did : Nat) (pid : Option Nat) (write : Bool) (iova : Word) :
    (s.faultRecord e f did pid write iova).pma = s.pma := by simp [State.faultRecord, ite_pma]

@[simp] theorem faultWritten_pma (s : State) (e : Nat) (ok : Bool) : (s.faultWritten e ok).pma = s.pma := by
  unfold State.faultWritten
  grind [iommuIrq_pma, setIommu_pma, faultSend_pma, count_pma]

@[simp] theorem ioStep_pma (s : State) (cx : IoCx) (conv : IoConv) (k : IoStage) (w : Bool) (top ppn l : Nat) (hconv : ∀ u a b, (conv u a b).pmaIs u.pma) :
    (s.ioStep cx conv k w top ppn l).pmaIs s.pma := by
  unfold State.ioStep
  dsimp only
  have hc := hconv s (pteAddr ppn k.va l (k.rg == .g && l == top)) false
  grind [IoStep.pmaIs, IoWalk.pmaIs, IoAddr.pmaIs, updIommu_pma]

@[simp] theorem ioWalk_pma (s : State) (cx : IoCx) (conv : IoConv) (k : IoStage) (w : Bool) (top ppn n : Nat) (hconv : ∀ u a b, (conv u a b).pmaIs u.pma) :
    (s.ioWalk cx conv k w top ppn n).pmaIs s.pma := by
  induction n generalizing s ppn with
  | zero => rw [State.ioWalk]; grind [IoWalk.pmaIs, IoStep.pmaIs, ioStep_pma]
  | succ n ih => rw [State.ioWalk]; grind [IoWalk.pmaIs, IoStep.pmaIs, ioStep_pma]

@[simp] theorem ioG_pma (s : State) (cx : IoCx) (hg : Word) (gade : Bool) (gpa : Nat) (write w implicit : Bool) :
    (s.ioG cx hg gade gpa write w implicit).pmaIs s.pma := by
  unfold State.ioG
  dsimp only
  have hw := fun k => ioWalk_pma s cx (fun s a _ => .ok s a) k w (atpLevels hg - 1) (atpPpn hg) (atpLevels hg - 1) (fun _ _ _ => rfl)
  grind [IoG.pmaIs, IoWalk.pmaIs]

@[simp] theorem ioCount_pma (s : State) (e ev did : Nat) : (s.ioCount e ev did).pma = s.pma := foldl_pma (fun u k => by simp [ite_pma]) _ s
@[simp] theorem ddtWalk_pma (s : State) (cx : IoCx) (did ppn n : Nat) : (s.ddtWalk cx did ppn n).pmaIs s.pma := by
  induction n generalizing s ppn with
  | zero => rw [State.ddtWalk]; grind [IoCtx.pmaIs]
  | succ n ih => rw [State.ddtWalk]; grind [IoCtx.pmaIs]

@[simp] theorem ioContext_pma (s : State) (cx : IoCx) (did : Nat) : (s.ioContext cx did).pmaIs s.pma := by
  unfold State.ioContext
  grind [ioCount_pma, updIommu_pma, ddtWalk_pma, IoCtx.pmaIs]

@[simp] theorem pdtWalk_pma (s : State) (cx : IoCx) (hg : Word) (gade write : Bool) (pid ppn n : Nat) :
    (s.pdtWalk cx hg gade write pid ppn n).pmaIs s.pma := by
  induction n generalizing s ppn with
  | zero => rw [State.pdtWalk]; grind [IoG.pmaIs, IoPc.pmaIs, ioG_pma]
  | succ n ih => rw [State.pdtWalk]; grind [IoG.pmaIs, IoPc.pmaIs, ioG_pma]

@[simp] theorem msiPte_pma (s : State) (cx : IoCx) (dc : BitVec 512) (gpa : Nat) (quiet : Bool) :
    (s.msiPte cx dc gpa quiet).pmaIs s.pma := by
  unfold State.msiPte
  grind [IoRes.pmaIs]

@[simp] theorem ioStages_pma (s : State) (cx : IoCx) (did : Nat) (dc : BitVec 512) (atp : Word) (pscid iova : Nat) (write : Bool) :
    (s.ioStages cx did dc atp pscid iova write).pmaIs s.pma := by
  unfold State.ioStages
  dsimp only
  split
  · rfl
  generalize hu : (if atpLevels (dcWord dc 1) = 0 then _ else _ : State) = u
  have hu' : u.pma = s.pma := hu ▸ by simp [ite_pma]
  clear hu
  rw [← hu']
  split
  · grind [IoRes.pmaIs, IoG.pmaIs, msiPte_pma, ioG_pma, updIommu_pma]
  split
  · rfl
  split <;> rename_i e <;>
    have hk := (congrArg (IoWalk.pmaIs u.pma) e).mp (ioWalk_pma u cx _ _ _ _ _ _ fun v a x => by grind [IoG.pmaIs, IoAddr.pmaIs, ioG_pma])
  · trivial
  · exact hk
  · rename_i v p l
    change v.pma = u.pma at hk
    rw [← hk]
    grind [IoRes.pmaIs, IoG.pmaIs, msiPte_pma, ioG_pma, updIommu_pma]

@[simp] theorem ioTranslate_pma (s : State) (cx : IoCx) (did : Nat) (pid : Option Nat) (iova : Nat) (write : Bool) :
    (s.ioTranslate cx did pid iova write).pmaIs s.pma := by
  have hc := ioContext_pma s cx did
  unfold State.ioTranslate
  dsimp only
  cases hs : s.ioContext cx did with
  | wait n => trivial
  | fault u f => rw [hs] at hc; exact hc
  | bare u => rw [hs] at hc; dsimp only; repeat' split
              all_goals exact hc
  | ok u dc =>
    rw [hs] at hc
    change u.pma = s.pma at hc
    rw [← hc]
    dsimp only
    grind [IoRes.pmaIs, IoPc.pmaIs, ioStages_pma, ioCount_pma, pdtWalk_pma, updIommu_pma]

@[simp] theorem ioWalkRec_pma (s : State) (e : Nat) (f : IoFault) (req : Node) (tag iova : Nat) :
    (s.ioWalkRec e f req tag iova).pma = s.pma := by
  unfold State.ioWalkRec
  grind [logErr_pma]

/-- What holds of the outcome for either need holds of the choice by the need. -/
theorem ioNeed_cases {P : State → Prop} {f : Nat → State} {g : Nat → Word → Word → State}
    (hf : ∀ a, P (f a)) (hg : ∀ a b c, P (g a b c)) (n : IoNeed) :
    P (match n with | .read a => f a | .cas a b c => g a b c) := by
  cases n
  · exact hf _
  · exact hg ..

/-- The request of an IOMMU walk is one flit or none. `P` is a variable, so that the kernel compares the two terms and does not evaluate the address. -/
theorem walkAsk_cases {P : State → Prop} {s : State} (h0 : P s) (h1 : ∀ f, P (s.send f)) (e tag : Nat) (n : IoNeed) :
    P (s.walkAsk e tag n) := by
  delta State.walkAsk
  extract_lets ask
  have h : ∀ op la bytes f, P (ask op la bytes f) := by
    intro op la bytes f
    unfold ask
    split
    · exact h1 _
    · exact h0
  clear_value ask
  refine ioNeed_cases ?_ ?_ n <;> intros <;> apply h

@[simp] theorem walkAsk_pma (s : State) (e tag : Nat) (n : IoNeed) : (s.walkAsk e tag n).pma = s.pma :=
  walkAsk_cases (P := fun t => t.pma = s.pma) rfl (fun _ => rfl) e tag n

@[simp] theorem debugDone_pma (s : State) (e : Nat) (w : Word) : (s.debugDone e w).pma = s.pma := by simp [State.debugDone]
@[simp] theorem walkRun_pma (s : State) (e : Nat) (w : IoWalker) : (s.walkRun e w).pma = s.pma := by
  unfold State.walkRun
  grind [debugDone_pma, ioTranslate_pma, walkAsk_pma, updIommu_pma, IoRes.pmaIs]

@[simp] theorem walkStart_pma (s : State) (e : Nat) (req : Option IoReq) (iova : Word) (write guar : Bool) (n : IoNeed) :
    (s.walkStart e req iova write guar n).pma = s.pma := by
  unfold State.walkStart
  grind [setIommu_pma, walkAsk_pma]

@[simp] theorem ioAnswer_pma (s : State) (e : Nat) (f : Flit) : (s.ioAnswer e f).pma = s.pma := by
  unfold State.ioAnswer
  grind [faultWritten_pma, walkRun_pma]

@[simp] theorem refuse_pma (s : State) (e : Nat) (r : IoReq) (iova : Word) (write : Bool) (tag : Nat) (f : IoFault) :
    (s.refuse e r iova write tag f).pma = s.pma := by simp [State.refuse, ite_pma]

@[simp] theorem inbound_pma (s : State) (e : Nat) (r : IoReq) (iova : Word) (write : Bool) (tag : Nat) :
    (s.inbound e r iova write tag).pmaIs s.pma := by
  unfold State.inbound
  grind [refuse_pma, walkStart_pma, ioTranslate_pma, ioCount_pma, count_pma, IoGo.pmaIs, IoRes.pmaIs]

@[simp] theorem ioTaken_pma (s : State) (e : Nat) (r : IoReq) : (s.ioTaken e r).pma = s.pma := by simp [State.ioTaken]
theorem execIommuTranslate_pma {e : Fin 2} {r : IoReq} {iova : Word} {write : Bool} {size : Nat} {s : State} {s' : State}
    (hr : execIommuTranslate e r iova write size s = .next s') :
    s'.pma = s.pma := by
  have hi := fun (u : State) (v : Word) => inbound_pma u e.val r v write 0
  cases hr
  grind [IoGo.pmaIs, ioTaken_pma]

@[simp] theorem ioBegin_pma (s : State) (e tag : Nat) (write : Bool) (pa deadline : Nat) :
    (s.ioBegin e tag write pa deadline).pma = s.pma := by
  simp [State.ioBegin]

@[simp] theorem ioEnd_pma (s : State) (e tag : Nat) : (s.ioEnd e tag).pma = s.pma := by simp [State.ioEnd]
@[simp] theorem cmdIllegal_pma (s : State) (e : Nat) : (s.cmdIllegal e).pma = s.pma := by simp [State.cmdIllegal, ite_pma]
@[simp] theorem iommuCmd_pma (s : State) (e : Nat) (legal : Bool) (f : Iommu → Iommu) : (s.iommuCmd e legal f).pma = s.pma := by
  simp [State.iommuCmd, ite_pma]

theorem execIotinvalVma_pma {e : Fin 2} {addr : Option Word} {gscid : Option (BitVec 16)} {pscid : Option (BitVec 20)} {s : State} {s' : State}
    (hr : execIotinvalVma e addr gscid pscid s = .next s') :
    s'.pma = s.pma := by
  unfold execIotinvalVma at hr
  grind [iommuCmd_pma]

theorem execIotinvalGvma_pma {e : Fin 2} {addr : Option Word} {gscid : Option (BitVec 16)} {pscid : Option (BitVec 20)} {s : State} {s' : State}
    (hr : execIotinvalGvma e addr gscid pscid s = .next s') :
    s'.pma = s.pma := by
  unfold execIotinvalGvma at hr
  grind [iommuCmd_pma]

theorem execIodirInvalDdt_pma {e : Fin 2} {did : Option (BitVec 24)} {s : State} {s' : State} (hr : execIodirInvalDdt e did s = .next s') :
    s'.pma = s.pma := by
  unfold execIodirInvalDdt at hr
  grind [iommuCmd_pma]

theorem execIodirInvalPdt_pma {e : Fin 2} {did : BitVec 24} {pid : BitVec 20} {s : State} {s' : State}
    (hr : execIodirInvalPdt e did pid s = .next s') :
    s'.pma = s.pma := by
  unfold execIodirInvalPdt at hr
  grind [iommuCmd_pma]

theorem execIofenceC_pma {e : Fin 2} {av pr pw wsi : Bool} {addr : Pa} {data : BitVec 32} {s : State} {s' : State}
    (hr : execIofenceC e av pr pw wsi addr data s = .next s') :
    s'.pma = s.pma := by
  unfold execIofenceC at hr
  grind [cmdIllegal_pma, setIommu_pma]

theorem execIofenceCComplete_pma {e : Fin 2} {s : State} {s' : State} (hr : execIofenceCComplete e s = .next s') : s'.pma = s.pma := by
  unfold execIofenceCComplete at hr
  grind [iommuIrq_pma, setIommu_pma, updIommu_pma, send_pma]

@[simp] theorem iommuDebug_pma (s : State) (e : Nat) (ctl : Word) : (s.iommuDebug e ctl).pma = s.pma := by
  unfold State.iommuDebug
  grind [walkStart_pma, debugDone_pma, ioTranslate_pma, IoRes.pmaIs]

@[simp] theorem iommuWrite_pma (s : State) (e off : Nat) (v : Word) : (s.iommuWrite e off v).pma = s.pma := by
  unfold State.iommuWrite
  grind [iommuDebug_pma, iommuMsi_pma, setIommu_pma]

/-! ### Machine/Who.lean -/

@[simp] theorem writeIgnored_pma (s : State) (r : DevReg) (la : Nat) (n : Node) (who : Master) :
    (s.writeIgnored r la n who).pma = s.pma := by
  simp [State.writeIgnored]

@[simp] theorem refuseStore_pma (s : State) (h : HartId) (cause la : Nat) : (s.refuseStore h cause la).pma = s.pma := by
  simp [State.refuseStore]

@[simp] theorem r31Write_pma (s : State) (r : DevReg) (la : Nat) (n : Node) (who : Master) (f : State → State)
    (hf : ∀ u, (f u).pma = u.pma) :
    (s.r31Write r la n who f).pma = s.pma := by
  unfold State.r31Write
  grind [writeIgnored_pma, refuseStore_pma]

/-! ### Machine/Engine.lean -/

@[simp] theorem updDma_pma (s : State) (c : Nat) (f : Dma → Dma) : (s.updDma c f).pma = s.pma := by simp [State.updDma]
@[simp] theorem updInstance_pma (s : State) (i : Nat) (f : Instance → Instance) : (s.updInstance i f).pma = s.pma := by
  simp [State.updInstance]

@[simp] theorem dmaError_pma (s : State) (c code : Nat) (dsc : Bool) : (s.dmaError c code dsc).pma = s.pma := by
  unfold State.dmaError
  grind [pulse_pma, setDma_pma, setInstance_pma]

@[simp] theorem completeSets_pma (s : State) (c n : Nat) : (s.completeSets c n).pma = s.pma := by
  induction n generalizing s with
  | zero => rfl
  | succ n ih => rw [State.completeSets]; grind [pulse_pma, setDma_pma]

@[simp] theorem dmaSettle_pma (s : State) (c : Nat) : (s.dmaSettle c).pma = s.pma := by
  unfold State.dmaSettle
  grind [dmaError_pma, setDma_pma, completeSets_pma]

@[simp] theorem dmaFail_pma (s : State) (c code : Nat) (va : Word) : (s.dmaFail c code va).pma = s.pma := by simp [State.dmaFail, ite_pma]
@[simp] theorem dmaAbort_pma (s : State) (c : Nat) : (s.dmaAbort c).pma = s.pma := by simp [State.dmaAbort]
@[simp] theorem dmaStart_pma (s : State) (c : Nat) : (s.dmaStart c).pma = s.pma := by simp [State.dmaStart, ite_pma]
@[simp] theorem dmaClear_pma (s : State) (c : Nat) : (s.dmaClear c).pma = s.pma := by simp [State.dmaClear, ite_pma]
@[simp] theorem dmaPulse_pma (s : State) (c : Nat) : (s.dmaPulse c).pma = s.pma := by simp [State.dmaPulse, ite_pma]
theorem execChannelSetLoad_pma {c : Fin 64} {s : State} {s' : State} (hr : execChannelSetLoad c s = .next s') : s'.pma = s.pma := by
  unfold execChannelSetLoad at hr
  grind [setDma_pma, dmaSettle_pma]

@[simp] theorem dmaAddr_pma (s : State) (c : Nat) (va : Word) (n : Nat) (write : Bool) (tag : Nat) :
    (s.dmaAddr c va n write tag).pmaIs s.pma := by
  unfold State.dmaAddr
  grind [ioTaken_pma, inbound_pma, DmaGo.pmaIs, IoGo.pmaIs]

@[simp] theorem dmaSend_pma (s : State) (c : Nat) (a : DmaAddr) (r : DmaReq) (data : List Byte) (poison : Bool) :
    (s.dmaSend c a r data poison).1.pma = s.pma := by
  unfold State.dmaSend
  grind [setDma_pma, count_pma, ioBegin_pma, send_pma]

@[simp] theorem dmaReadEnd_pma (s : State) (c : Nat) (r : DmaReq) (code : Nat) (data : List Byte) :
    (s.dmaReadEnd c r code data).pma = s.pma := by
  simp [State.dmaReadEnd, ite_pma]

@[simp] theorem dmaRead_pma (s : State) (c tag : Nat) : (s.dmaRead c tag).pma = s.pma := by
  unfold State.dmaRead
  grind [dmaReadEnd_pma, dmaSend_pma, setDma_pma, dmaAddr_pma, dmaFail_pma, DmaGo.pmaIs]

@[simp] theorem overlapBytes_pma (s : State) (a : DmaSet) (va : Word) (data : List Byte) : (s.overlapBytes a va data).1.pma = s.pma := by
  unfold State.overlapBytes
  grind [takeLine_pma]

@[simp] theorem dmaWrite_pma (s : State) (c tag pos : Nat) (data : List Byte) (poison : Bool) (take : Nat → State → State) (htake : ∀ x0 u, (take x0 u).pma = u.pma) :
    (s.dmaWrite c tag pos data poison take).pma = s.pma := by
  unfold State.dmaWrite
  dsimp only
  refine ite_pma_of (by simp [ite_pma, htake]) ?_
  split <;> rename_i he <;> have ha := (congrArg (DmaGo.pmaIs s.pma) he).mp (dmaAddr_pma ..)
  · exact ha
  · simp [ite_pma, htake, show _ = s.pma from ha]
  · rename_i u a
    change u.pma = s.pma at ha
    rw [← ha]
    clear he ha
    refine ite_pma_of (by simp [ite_pma, htake]) (ite_pma_of (by simp [ite_pma]) (ite_pma_of (by simp [htake]) ?_))
    generalize hx : State.dmaSend _ _ _ _ _ _ = x
    have hx : x.1.pma = u.pma := hx ▸ by simp [htake]
    obtain ⟨v, _ | sts⟩ := x
    · simpa using hx
    · simpa [ite_pma] using hx

@[simp] theorem dmaFetch_pma (s : State) (c tag : Nat) : (s.dmaFetch c tag).pma = s.pma := by
  unfold State.dmaFetch
  grind [updDma_pma, dmaSend_pma, dmaAddr_pma, DmaGo.pmaIs]

@[simp] theorem dmaIssue_pma (s : State) (c tag : Nat) : (s.dmaIssue c tag).pma = s.pma := by
  unfold State.dmaIssue
  grind [updDma_pma, dmaWrite_pma, dmaFetch_pma, dmaRead_pma]

theorem execEngineIssue_pma {e : Fin 2} {s : State} {s' : State} (hr : execEngineIssue e s = .next s') : s'.pma = s.pma := by
  unfold execEngineIssue at hr
  grind [dmaIssue_pma]

theorem dmaAnswer_pma {s : State} {e tag sts : Nat} {poison timeout : Bool} {data : Line} {off : Nat} {s' : State}
    (hr : s.dmaAnswer e tag sts poison timeout data off = some s') :
    s'.pma = s.pma := by
  unfold State.dmaAnswer at hr
  grind [dmaReadEnd_pma, ioEnd_pma, updDma_pma, dmaFail_pma, dmaSettle_pma]

@[simp] theorem engineTimeout_pma (s : State) (e tag : Nat) : (s.engineTimeout e tag).pma = s.pma := by
  unfold State.engineTimeout
  split
  · exact getD_pma (fun hr => (dmaAnswer_pma hr).trans (passTo_pma ..)) rfl
  · rfl

theorem execDescriptorFetchReturn_pma {c : Fin 64} {desc : Line} {sts : BitVec 8} {timeout : Bool} {s : State} {s' : State}
    (hr : execDescriptorFetchReturn c desc sts timeout s = .next s') :
    s'.pma = s.pma := by
  cases hr
  split
  · rfl
  · split
    · simp
    · exact getD_pma dmaAnswer_pma rfl

@[simp] theorem dmaCmd_pma (s : State) (c op : Nat) : (s.dmaCmd c op).pma = s.pma := by
  unfold State.dmaCmd
  grind [updDma_pma, dmaStart_pma, dmaSettle_pma, dmaAbort_pma, dmaClear_pma]

@[simp] theorem chanWrite_pma (s : State) (c off : Nat) (v m : Word) : (s.chanWrite c off v m).pma = s.pma := by
  unfold State.chanWrite
  grind [setDma_pma, dmaCmd_pma]

@[simp] theorem chanAccess_pma (s : State) (who : Master) (c off : Nat) (f : State → State) (hf : ∀ u, (f u).pma = u.pma) :
    (s.chanAccess who c off f).pma = s.pma := by
  unfold State.chanAccess
  grind [writeIgnored_pma]

theorem execDeCmdStart_pma {who : Master} {c : Fin 64} {s : State} {s' : State}
    (hr : execDeCmdStart who c s = .next s') : s'.pma = s.pma := by
  unfold execDeCmdStart at hr
  grind [chanAccess_pma, dmaStart_pma]

theorem execDeCmdAbort_pma {who : Master} {c : Fin 64} {s : State} {s' : State}
    (hr : execDeCmdAbort who c s = .next s') : s'.pma = s.pma := by
  unfold execDeCmdAbort at hr
  grind [chanAccess_pma, dmaCmd_pma]

theorem execDeCmdClear_pma {who : Master} {c : Fin 64} {s : State} {s' : State}
    (hr : execDeCmdClear who c s = .next s') : s'.pma = s.pma := by
  unfold execDeCmdClear at hr
  grind [chanAccess_pma, dmaClear_pma]

theorem execDeCmdDropsh_pma {who : Master} {c : Fin 64} {s : State} {s' : State}
    (hr : execDeCmdDropsh who c s = .next s') : s'.pma = s.pma := by
  unfold execDeCmdDropsh at hr
  grind [chanAccess_pma, dmaCmd_pma]

theorem execShCtlValidSet_pma {who : Master} {c : Fin 64} {v : BitVec 32} {s : State} {s' : State}
    (hr : execShCtlValidSet who c v s = .next s') :
    s'.pma = s.pma := by
  unfold execShCtlValidSet at hr
  grind [chanAccess_pma, chanWrite_pma]

/-! ### Machine/Mailbox.lean -/

@[simp] theorem updMb_pma (s : State) (n : Nat) (f : Mbox → Mbox) : (s.updMb n f).pma = s.pma := by simp [State.updMb]
@[simp] theorem doorbell_pma (s : State) (n : Nat) (seq : BitVec 16) : (s.doorbell n seq).pma = s.pma := by
  unfold State.doorbell
  grind [setMb_pma]

@[simp] theorem mbAck_pma (s : State) (n : Nat) : (s.mbAck n).pma = s.pma := by simp [State.mbAck]
@[simp] theorem mbWrite_pma (s : State) (n off : Nat) (v m : Word) : (s.mbWrite n off v m).pma = s.pma := by
  unfold State.mbWrite
  grind [doorbell_pma, updMb_pma, mbAck_pma]

theorem execMbDoorbell_pma {who : Master} {n : Fin 32} {v : BitVec 32} {s : State} {s' : State} (hr : execMbDoorbell who n v s = .next s') :
    s'.pma = s.pma := by
  unfold execMbDoorbell at hr
  grind [doorbell_pma]

theorem execMbStatusAck_pma {who : Master} {n : Fin 32} {s : State} {s' : State}
    (hr : execMbStatusAck who n s = .next s') : s'.pma = s.pma := by
  unfold execMbStatusAck at hr
  grind [mbAck_pma]

@[simp] theorem mbPut_pma (s : State) (off : Nat) (l : List Byte) (n : Nat) : (s.mbPut off l n).pma = s.pma := by
  induction n generalizing s off l with
  | zero => cases l <;> rfl
  | succ n ih => cases l with
    | nil => rfl
    | cons b l => rw [State.mbPut, ih, mbWrite_pma]; simp

theorem execI3cPrivateTransfer_pma {off : BitVec 16} {write : Bool} {data : List Byte} {s : State} {s' : State}
    (hr : execI3cPrivateTransfer off write data s = .next s') :
    s'.pma = s.pma := by
  unfold execI3cPrivateTransfer at hr
  grind [mbPut_pma]

@[simp] theorem finishCmd_pma (s : State) (n status : Nat) (resp : List Byte) : (s.finishCmd n status resp).pma = s.pma := by
  simp [State.finishCmd]

@[simp] theorem finishWork_pma (s : State) (u : Unfinished) (status : Nat) (resp : List Byte) :
    (s.finishWork u status resp).pma = s.pma := by
  unfold State.finishWork
  grind [finishCmd_pma]

@[simp] theorem beginWork_pma (s : State) (u : Unfinished) (n : Fin 32) : (s.beginWork u n).pma = s.pma := by simp [State.beginWork]
theorem cmdEnd_pmaIs_ite {c : Prop} [Decidable c] {p : Pma} {a b : CmdEnd} (ha : a.pmaIs p) (hb : b.pmaIs p) :
    (if c then a else b).pmaIs p := by
  split <;> assumption

@[simp] theorem runCmd_pma (s : State) (n : Fin 32) (code : Nat) (body : State → CmdEnd) (hbody : ∀ u, (body u).pmaIs u.pma) :
    (s.runCmd n code body).pma = s.pma := by
  have hb := hbody s
  unfold State.runCmd
  split
  · rfl
  · split
    · cases e : body s <;> rw [e] at hb <;> simp_all
    · simp

theorem execMbCommandComplete_pma {n : Fin 32} {s : State} {s' : State} (hr : execMbCommandComplete n s = .next s') : s'.pma = s.pma := by
  unfold execMbCommandComplete at hr
  grind [wirePulse_pma, setMb_pma, finishCmd_pma]

@[simp] theorem bufPut_pma (s : State) (n : Nat) (out : List Byte) : (s.bufPut n out).pma = s.pma := by simp [State.bufPut]

/-! ### Machine/Instance.lean -/

@[simp] theorem drainInstance_pma (s : State) (i : Nat) : (s.drainInstance i).pma = s.pma := by
  unfold State.drainInstance
  dsimp only
  rw [updInstance_pma]
  refine foldl_pma (fun u c => ?_) _ s
  split <;> simp

@[simp] theorem instResetReq_pma (s : State) (i : Nat) : (s.instResetReq i).pma = s.pma := by
  unfold State.instResetReq
  grind [updInstance_pma, drainInstance_pma]

@[simp] theorem inWrite_pma (s : State) (i off : Nat) (v m : Word) : (s.inWrite i off v m).pma = s.pma := by
  unfold State.inWrite
  grind [instResetReq_pma, chanWrite_pma, setInstance_pma]

@[simp] theorem inDeny_pma (s : State) (i : Nat) : (s.inDeny i).pma = s.pma := by simp [State.inDeny]
theorem execInCtlReset_pma {who : Master} {i : Fin 64} {s : State} {s' : State}
    (hr : execInCtlReset who i s = .next s') : s'.pma = s.pma := by
  unfold execInCtlReset at hr
  grind [instResetReq_pma, inDeny_pma]

theorem execInDeniedRead_pma {who : Master} {i : Fin 64} {s : State} {s' : State}
    (hr : execInDeniedRead who i s = .next s') : s'.pma = s.pma := by
  unfold execInDeniedRead at hr
  grind [updInstance_pma, inDeny_pma]

@[simp] theorem giveChans_pma (s : State) (i : Fin 64) (cs : List Nat) : (s.giveChans i cs).pma = s.pma :=
  foldl_pma (fun u c => updDma_pma u c _) _ s

@[simp] theorem unbind_pma (s : State) (i : Nat) : (s.unbind i).pma = s.pma := foldl_pma (fun u n => by simp [ite_pma]) _ s
theorem execInstanceResetDrainDone_pma {i : Fin 64} {s : State} {s' : State}
    (hr : execInstanceResetDrainDone i s = .next s') : s'.pma = s.pma := by
  have hscrub : ∀ l : List Nat, (l.foldl (fun s c => s.updDma c Dma.scrub) s).pma = s.pma := fun l => foldl_pma (fun u c => updDma_pma u c _) l s
  cases hr
  split
  · rfl
  · dsimp only
    generalize hu : List.foldl _ s _ = u
    have hu : u.pma = s.pma := hu ▸ hscrub _
    split
    · simp only [finishWork_pma, unbind_pma, updIommu_pma, release_pma, ite_pma, ite_self]
      split <;> simp [hu]
    · simp [hu]

theorem reservePair_pma {s : State} {i bw : Nat} {r : State × Nat × Nat × Nat} (hr : s.reservePair i bw = some r) : r.1.pma = s.pma := by
  unfold State.reservePair at hr
  dsimp only at hr
  split at hr
  · cases hr; rfl
  · split at hr
    · cases hr
    · split at hr
      · cases hr
      · next hq =>
        split at hr <;> cases hr
        next hr' => exact (reserve_pma hr').trans (reserve_pma hq)

theorem execInstanceCreate_pma {n : Fin 32} {s : State} {s' : State} (hr : execInstanceCreate n s = .next s') : s'.pma = s.pma := by
  cases hr
  refine runCmd_pma s n _ _ fun u => ?_
  dsimp only
  refine cmdEnd_pmaIs_ite trivial (cmdEnd_pmaIs_ite trivial (cmdEnd_pmaIs_ite trivial ?_))
  split
  · trivial
  · next hv => simpa using reservePair_pma hv

@[simp] theorem namedInstance_pma (s : State) (n : Nat) (f : Fin 64 → CmdEnd)
    (hf : ∀ i, (f i).pmaIs s.pma) : (s.namedInstance n f).pmaIs s.pma := by
  unfold State.namedInstance
  grind [CmdEnd.pmaIs]

theorem execInstanceDestroy_pma {n : Fin 32} {s : State} {s' : State} (hr : execInstanceDestroy n s = .next s') : s'.pma = s.pma := by
  cases hr
  refine runCmd_pma s n _ _ fun u => ?_
  dsimp only
  grind [beginWork_pma, updInstance_pma, namedInstance_pma, drainInstance_pma, CmdEnd.pmaIs]

theorem execInstanceReset_pma {n : Fin 32} {s : State} {s' : State} (hr : execInstanceReset n s = .next s') : s'.pma = s.pma := by
  cases hr
  refine runCmd_pma s n _ _ fun u => ?_
  dsimp only
  grind [beginWork_pma, namedInstance_pma, drainInstance_pma, CmdEnd.pmaIs]

theorem execInstanceQuery_pma {n : Fin 32} {s : State} {s' : State} (hr : execInstanceQuery n s = .next s') : s'.pma = s.pma := by
  cases hr
  refine runCmd_pma s n _ _ fun u => ?_
  dsimp only
  grind [namedInstance_pma, CmdEnd.pmaIs]

/-! ### Machine/Wheel.lean -/

theorem execMeshWheelReserve_pma {n : Fin 32} {s : State} {s' : State} (hr : execMeshWheelReserve n s = .next s') : s'.pma = s.pma := by
  cases hr
  refine runCmd_pma s n _ _ fun u => ?_
  dsimp only
  refine cmdEnd_pmaIs_ite trivial (cmdEnd_pmaIs_ite trivial (cmdEnd_pmaIs_ite trivial ?_))
  split
  · trivial
  · next hv => exact reserve_pma hv

theorem execMeshWheelRelease_pma {n : Fin 32} {s : State} {s' : State} (hr : execMeshWheelRelease n s = .next s') : s'.pma = s.pma := by
  cases hr
  refine runCmd_pma s n _ _ fun u => ?_
  dsimp only
  grind [CmdEnd.pmaIs, release_pma, beginWork_pma]

theorem execWheelReleaseSlotsFree_pma {rid : Fin 128} {s : State} {s' : State} (hr : execWheelReleaseSlotsFree rid s = .next s') :
    s'.pma = s.pma := by
  unfold execWheelReleaseSlotsFree at hr
  grind [finishWork_pma, guard_pma, freeSlots_pma]

theorem execMeshWheelQuery_pma {n : Fin 32} {s : State} {s' : State} (hr : execMeshWheelQuery n s = .next s') : s'.pma = s.pma := by
  cases hr
  refine runCmd_pma s n _ _ fun u => ?_
  dsimp only
  grind [CmdEnd.pmaIs]

/-! ### Machine/Commands.lean -/

theorem execRennetInfo_pma {n : Fin 32} {s : State} {s' : State} (hr : execRennetInfo n s = .next s') : s'.pma = s.pma := by
  cases hr
  refine runCmd_pma s n _ _ fun u => ?_
  grind [CmdEnd.pmaIs]

theorem execMailboxAssign_pma {n : Fin 32} {s : State} {s' : State} (hr : execMailboxAssign n s = .next s') : s'.pma = s.pma := by
  cases hr
  refine runCmd_pma s n _ _ fun u => ?_
  dsimp only
  grind [updMb_pma, CmdEnd.pmaIs]

theorem execNoticeRead_pma {n : Fin 32} {s : State} {s' : State} (hr : execNoticeRead n s = .next s') : s'.pma = s.pma := by
  cases hr
  refine runCmd_pma s n _ _ fun u => ?_
  dsimp only
  grind [CmdEnd.pmaIs]

@[simp] theorem trainChans_pma (s : State) (mask : Nat) (saved : Bool) (ok : BitVec 48) : (s.trainChans mask saved ok).pma = s.pma := by
  unfold State.trainChans
  dsimp only
  rw [ite_pma]
  simp [foldl_pma fun (u : State) ch => updChan_pma u ch _]

theorem execMemTrain_pma {n : Fin 32} {ok : BitVec 48} {s : State} {s' : State} (hr : execMemTrain n ok s = .next s') : s'.pma = s.pma := by
  cases hr
  refine runCmd_pma s n _ _ fun u => ?_
  dsimp only
  grind [trainChans_pma, CmdEnd.pmaIs]

theorem execMemChannelStatus_pma {n : Fin 32} {s : State} {s' : State} (hr : execMemChannelStatus n s = .next s') : s'.pma = s.pma := by
  cases hr
  refine runCmd_pma s n _ _ fun u => ?_
  dsimp only
  grind [CmdEnd.pmaIs]

theorem execMemScrubSet_pma {n : Fin 32} {s : State} {s' : State} (hr : execMemScrubSet n s = .next s') : s'.pma = s.pma := by
  cases hr
  refine runCmd_pma s n _ _ fun u => ?_
  dsimp only
  grind [CmdEnd.pmaIs]

theorem execMemPageRetire_pma {n : Fin 32} {s : State} {s' : State} (hr : execMemPageRetire n s = .next s') : s'.pma = s.pma := by
  cases hr
  refine runCmd_pma s n _ _ fun u => ?_
  dsimp only
  grind [retirePage_pma, CmdEnd.pmaIs]

theorem execMemRetireList_pma {n : Fin 32} {s : State} {s' : State} (hr : execMemRetireList n s = .next s') : s'.pma = s.pma := by
  cases hr
  refine runCmd_pma s n _ _ fun u => ?_
  dsimp only
  grind [bufPut_pma, CmdEnd.pmaIs]

theorem execFabricRouteQuery_pma {n : Fin 32} {s : State} {s' : State} (hr : execFabricRouteQuery n s = .next s') : s'.pma = s.pma := by
  cases hr
  refine runCmd_pma s n _ _ fun u => ?_
  dsimp only
  grind [CmdEnd.pmaIs]

theorem execFabricLinkStatus_pma {n : Fin 32} {s : State} {s' : State} (hr : execFabricLinkStatus n s = .next s') : s'.pma = s.pma := by
  cases hr
  refine runCmd_pma s n _ _ fun u => ?_
  dsimp only
  grind [CmdEnd.pmaIs]

theorem execFabricLinkDisable_pma {n : Fin 32} {s : State} {s' : State} (hr : execFabricLinkDisable n s = .next s') : s'.pma = s.pma := by
  cases hr
  refine runCmd_pma s n _ _ fun u => ?_
  dsimp only
  grind [beginWork_pma, leaveGroup_pma, updLink_pma, CmdEnd.pmaIs]

theorem execFabricLinkDisableDrained_pma {l : Fin 8} {s : State} {s' : State} (hr : execFabricLinkDisableDrained l s = .next s') :
    s'.pma = s.pma := by
  cases hr
  simp [ite_pma]

theorem execFabricLinkEnable_pma {n : Fin 32} {trained : Bool} {nbr : Fin 512} {s : State} {s' : State}
    (hr : execFabricLinkEnable n trained nbr s = .next s') :
    s'.pma = s.pma := by
  cases hr
  refine runCmd_pma s n _ _ fun u => ?_
  dsimp only
  grind [setLink_pma, hello_pma, CmdEnd.pmaIs]

theorem execFabricInboundSet_pma {n : Fin 32} {s : State} {s' : State} (hr : execFabricInboundSet n s = .next s') : s'.pma = s.pma := by
  cases hr
  refine runCmd_pma s n _ _ fun u => ?_
  dsimp only
  grind [CmdEnd.pmaIs]

theorem execFabricTimeStatus_pma {n : Fin 32} {s : State} {s' : State} (hr : execFabricTimeStatus n s = .next s') : s'.pma = s.pma := by
  cases hr
  refine runCmd_pma s n _ _ fun u => ?_
  dsimp only
  grind [CmdEnd.pmaIs]

@[simp] theorem scanGroup_pma (s : State) (o g : Nat) : (s.scanGroup o g).pma = s.pma := foldl_pma (fun u a => by simp [ite_pma]) _ s
@[simp] theorem switchGroups_pma (s : State) (o : Nat) (mask on : BitVec 4) : (s.switchGroups o mask on).pma = s.pma := by
  simp [State.switchGroups]

theorem execCacheWaygroupSet_pma {n : Fin 32} {s : State} {s' : State} (hr : execCacheWaygroupSet n s = .next s') : s'.pma = s.pma := by
  cases hr
  refine runCmd_pma s n _ _ fun u => ?_
  refine cmdEnd_pmaIs_ite trivial (cmdEnd_pmaIs_ite ?_ ?_)
  · exact foldl_pma (fun v o => switchGroups_pma ..) _ u
  · exact (beginWork_pma ..).trans (foldl_pma (fun v o => switchGroups_pma ..) _ u)

theorem execWaygroupScanDone_pma {o : Fin 6} {g : Fin 4} {s : State} {s' : State}
    (hr : execWaygroupScanDone o g s = .next s') : s'.pma = s.pma := by
  unfold execWaygroupScanDone at hr
  grind [finishWork_pma, scanGroup_pma]

/-! ### Machine/Ptes.lean -/

@[simp] theorem pteAsk_pma (s : State) (h : HartId) (w : Walk) (op : MsgOp) (edit : Flit → Flit) : (s.pteAsk h w op edit).pma = s.pma := by
  unfold State.pteAsk
  grind [setHart_pma, send_pma]

@[simp] theorem pteRead_pma (s : State) (h : HartId) (w : Walk) : (s.pteRead h w).pmaIs s.pma := by
  unfold State.pteRead
  grind [pteAsk_pma, readLine_pma, ReadRes.pmaIs]

theorem execWalkPteReadDone_pma {h : HartId} {k : Nat} {err : Bool} {s : State} {s' : State}
    (hr : execWalkPteReadDone h k err s = .next s') :
    s'.pma = s.pma := by
  unfold execWalkPteReadDone at hr
  grind [updHart_pma, setHart_pma, poisonUsed_pma, pteRead_pma, ReadRes.pmaIs]

theorem execAdUpdate_pma {h : HartId} {k : Nat} {s : State} {s' : State} (hr : execAdUpdate h k s = .next s') : s'.pma = s.pma := by
  cases hr
  dsimp only
  repeat' split
  all_goals simp
  all_goals exact tokenFor_pma ‹_›

/-! ### Machine/Scalar.lean -/

theorem execIntegerInstruction_pma {h : HartId} {op : IntOp} {rd rs1 : Fin 32} {src : Src} {c : Bool} {s : State} {s' : State}
    (hr : execIntegerInstruction h op rd rs1 src c s = .next s') :
    s'.pma = s.pma := by
  unfold execIntegerInstruction at hr
  grind [retire_pma, updHart_pma, illegal_pma, event_pma, onHart_pma]

@[simp] theorem latIn_pma (s : State) (r : Nat × Nat) : (s.latIn r).2.pma = s.pma := by
  unfold State.latIn
  grind [takeNat_pma]

theorem execFpInstruction_pma {h : HartId} {op : FpOp} {rd rs1 rs2 rs3 : Fin 32} {rm : Fin 8} {s : State} {s' : State}
    (hr : execFpInstruction h op rd rs1 rs2 rs3 rm s = .next s') :
    s'.pma = s.pma := by
  unfold execFpInstruction at hr
  grind [retire_pma, latIn_pma, updHart_pma, legally_pma, illegal_pma, onHart_pma]

@[simp] theorem cleanShare_pma (s : State) (h : HartId) : (s.cleanShare h).pma = s.pma := foldl_pma (fun u ln => by simp [ite_pma]) _ s
@[simp] theorem mouldSet_pma (s : State) (h : HartId) : (s.mouldSet h).pma = s.pma := by simp [State.mouldSet, ite_pma]
@[simp] theorem mouldClear_pma (s : State) (h : HartId) : (s.mouldClear h).pma = s.pma := by simp [State.mouldClear]
@[simp] theorem mouldWrite_pma (s : State) (h : HartId) (v : Word) : (s.mouldWrite h v).pma = s.pma := by simp [State.mouldWrite, ite_pma]
theorem execXmouldModeSet_pma {h : HartId} {s : State} {s' : State} (hr : execXmouldModeSet h s = .next s') : s'.pma = s.pma := by
  unfold execXmouldModeSet at hr
  grind [retire_pma, mouldSet_pma, legally_pma, onHart_pma]

theorem execXmouldModeClear_pma {h : HartId} {s : State} {s' : State} (hr : execXmouldModeClear h s = .next s') : s'.pma = s.pma := by
  unfold execXmouldModeClear at hr
  grind [retire_pma, legally_pma, mouldClear_pma, onHart_pma]

theorem execMouldEntry_pma {h : HartId} {s : State} {s' : State} (hr : execMouldEntry h s = .next s') : s'.pma = s.pma := by
  unfold execMouldEntry at hr
  grind [cleanShare_pma, setHart_pma]

theorem execCsrWrite_pma {h : HartId} {op : CsrOp} {csr : BitVec 12} {rd : Fin 32} {src : Src} {writes : Bool} {s : State} {s' : State}
    (hr : execCsrWrite h op csr rd src writes s = .next s') :
    s'.pma = s.pma := by
  unfold execCsrWrite at hr
  grind [retire_pma, csrWrite_pma, updHart_pma, legally_pma, mouldWrite_pma, trap_pma, onHart_pma]

theorem execWfi_pma {h : HartId} {s : State} {s' : State} (hr : execWfi h s = .next s') : s'.pma = s.pma := by
  unfold execWfi at hr
  grind [retire_pma, updHart_pma, legally_pma, onHart_pma]

theorem execPause_pma {h : HartId} {s : State} {s' : State} (hr : execPause h s = .next s') : s'.pma = s.pma := by
  unfold execPause at hr
  grind [retire_pma, onHart_pma]

theorem execControlTransferResolve_pma {h : HartId} {k : CtKind} {rd rs1 rs2 : Fin 32} {imm : BitVec 21} {wrong : List RasOp} {c : Bool} {s : State} {s' : State}
    (hr : execControlTransferResolve h k rd rs1 rs2 imm wrong c s = .next s') :
    s'.pma = s.pma := by
  unfold execControlTransferResolve at hr
  grind [retire_pma, updHart_pma, eventT_pma, event_pma, onHart_pma]

theorem execMdpClear_pma {h : HartId} {s : State} {s' : State} (hr : execMdpClear h s = .next s') : s'.pma = s.pma := by
  unfold execMdpClear at hr
  grind [updHart_pma]

theorem execXpredBar1_pma {h : HartId} {s : State} {s' : State} (hr : execXpredBar1 h s = .next s') : s'.pma = s.pma := by
  unfold execXpredBar1 at hr
  grind [retire_pma, updHart_pma, onHart_pma]

theorem execXpredBar0_pma {h : HartId} {s : State} {s' : State} (hr : execXpredBar0 h s = .next s') : s'.pma = s.pma := by
  unfold execXpredBar0 at hr
  grind [retire_pma, updHart_pma, onHart_pma]

theorem execXpredFlush_pma {h : HartId} {s : State} {s' : State} (hr : execXpredFlush h s = .next s') : s'.pma = s.pma := by
  unfold execXpredFlush at hr
  grind [retire_pma, updHart_pma, onHart_pma]

/-! ### Machine/Interrupts.lean -/

@[simp] theorem setMode_pma (s : State) (n : Nat) (m : SrcMode) : (s.setMode n m).pma = s.pma := by
  unfold State.setMode
  grind [setSource_pma, takeNat_pma]

@[simp] theorem sourcecfg_pma (s : State) (sdom : Bool) (n : Nat) (v : BitVec 32) : (s.sourcecfg sdom n v).pma = s.pma := by
  unfold State.sourcecfg
  grind [setSource_pma, setMode_pma]

@[simp] theorem pfailRises_pma (s : State) : (s.pfailRises).pma = s.pma := by
  unfold State.pfailRises
  grind

theorem execWiredInputChange_pma {src : Fin 1024} {level : Bool} {s : State} {s' : State}
    (hr : execWiredInputChange src level s = .next s') :
    s'.pma = s.pma := by
  unfold execWiredInputChange at hr
  grind [pfailRises_pma, wire_pma]

theorem execAplicSourcecfgWrite_pma {who : Master} {sdom : Bool} {src : Fin 1024} {v : BitVec 32} {s : State} {s' : State}
    (hr : execAplicSourcecfgWrite who sdom src v s = .next s') :
    s'.pma = s.pma := by
  unfold execAplicSourcecfgWrite at hr
  grind [sourcecfg_pma]

@[simp] theorem aplicMsi_pma (s : State) (sdom : Bool) (hart guest eiid : Nat) : (s.aplicMsi sdom hart guest eiid).pma = s.pma := by
  unfold State.aplicMsi
  grind [send_pma]

theorem execAplicMsiSend_pma {src : Fin 1024} {s : State} {s' : State} (hr : execAplicMsiSend src s = .next s') : s'.pma = s.pma := by
  unfold execAplicMsiSend at hr
  grind [setSource_pma, aplicMsi_pma]

@[simp] theorem eachSrc_pma (s : State) (sdom : Bool) (k v : Nat) (f : Source → Source) : (s.eachSrc sdom k v f).pma = s.pma :=
  foldl_pma (fun u b => by simp [ite_pma]) _ s

@[simp] theorem oneSrc_pma (s : State) (sdom : Bool) (n : Nat) (f : Source → Source) : (s.oneSrc sdom n f).pma = s.pma := by
  simp [State.oneSrc, ite_pma]

@[simp] theorem genmsi_pma (s : State) (sdom : Bool) (v : BitVec 32) : (s.genmsi sdom v).pma = s.pma := by simp [State.genmsi]
@[simp] theorem aplicWrite_pma (s : State) (sdom : Bool) (off : Nat) (v : BitVec 32) : (s.aplicWrite sdom off v).pma = s.pma := by
  simp [State.aplicWrite, ite_pma]

theorem execImsicSeteipnum_pma {h : HartId} {f : ImFileKind} {v : BitVec 32} {s : State} {s' : State}
    (hr : execImsicSeteipnum h f v s = .next s') :
    s'.pma = s.pma := by
  unfold execImsicSeteipnum at hr
  grind [setIdentity_pma]

theorem execImsicTopeiClaim_pma {h : HartId} {f : ImFileKind} {s : State} {s' : State} (hr : execImsicTopeiClaim h f s = .next s') :
    s'.pma = s.pma := by
  unfold execImsicTopeiClaim at hr
  grind [setFile_pma]

@[simp] theorem gpioLevel_pma (s : State) (g : Nat) (lv : Bool) : (s.gpioLevel g lv).pma = s.pma := by simp [State.gpioLevel, ite_pma]
theorem execGpioEdge_pma {pin : Fin 16} {level : Bool} {s : State} {s' : State}
    (hr : execGpioEdge pin level s = .next s') : s'.pma = s.pma := by
  unfold execGpioEdge at hr
  grind [gpioLevel_pma]

@[simp] theorem gpioPulse_pma (s : State) (g : Nat) : (s.gpioPulse g).pma = s.pma := by simp [State.gpioPulse]
@[simp] theorem ladleTrigger_pma (s : State) (cause : Nat) : (s.ladleTrigger cause).pma = s.pma := by simp [State.ladleTrigger, ite_pma]
@[simp] theorem sink_pma (s : State) (m : Nat) : (s.sink m).pma = s.pma := by simp [State.sink, ite_pma]
@[simp] theorem toggleGates_pma (s : State) (stop line : Nat) : (s.toggleGates stop line).pma = s.pma :=
  foldl_pma (fun u j => by simp [ite_pma]) _ s

@[simp] theorem pulseAt_pma (s : State) (stop line : Nat) : (s.pulseAt stop line).pma = s.pma := by
  unfold State.pulseAt
  dsimp only
  rw [ite_pma, wirePulse_pma, foldl_pma fun u m => sink_pma u m, toggleGates_pma, ite_self]

theorem execEventFlit_pma {stop : Fin 320} {line : Fin 256} {s : State} {s' : State} (hr : execEventFlit stop line s = .next s') :
    s'.pma = s.pma := by
  unfold execEventFlit at hr
  grind [pulseAt_pma]

@[simp] theorem evsw_pma (s : State) (v : Nat) : (s.evsw v).pma = s.pma := foldl_pma (fun u b => by simp [ite_pma]) _ s
theorem execEvswPulse_pma {who : Master} {v : BitVec 32} {s : State} {s' : State}
    (hr : execEvswPulse who v s = .next s') : s'.pma = s.pma := by
  unfold execEvswPulse at hr
  grind [evsw_pma, r31Write_pma]

theorem execTickGeneratorPulse_pma {j : Fin 8} {s : State} {s' : State} (hr : execTickGeneratorPulse j s = .next s') : s'.pma = s.pma := by
  unfold execTickGeneratorPulse at hr
  grind [pulse_pma, passTo_pma]

@[simp] theorem evtickWrite_pma (s : State) (j : Nat) (v m : Word) : (s.evtickWrite j v m).pma = s.pma := by simp [State.evtickWrite]
@[simp] theorem evsrcWrite_pma (s : State) (n : Nat) (v m : Word) : (s.evsrcWrite n v m).pma = s.pma := by simp [State.evsrcWrite]
@[simp] theorem evsnkWrite_pma (s : State) (k : Nat) (v m : Word) : (s.evsnkWrite k v m).pma = s.pma := by simp [State.evsnkWrite]

/-! ### Machine/Brine.lean -/

@[simp] theorem sweep_pma (s : State) : (s.sweep).pma = s.pma := by
  unfold State.sweep
  split
  · rfl
  · dsimp only
    rw [foldl_pma, foldl_pma]
    · intro u a; split <;> simp [ite_pma]
    · intro u a; split <;> simp

@[simp] theorem setBudget_pma (s : State) (n : Nat) : (s.setBudget n).pma = s.pma := by simp [State.setBudget, ite_pma]
@[simp] theorem applyLimit_pma (s : State) : (s.applyLimit).pma = s.pma := by simp [State.applyLimit, ite_pma]
theorem execHoldupEnergyRead_pma {mj : BitVec 32} {s : State} {s' : State}
    (hr : execHoldupEnergyRead mj s = .next s') : s'.pma = s.pma := by
  unfold execHoldupEnergyRead at hr
  grind [applyLimit_pma]

theorem withBrine_pma (s : State) (b : Brine) : ({ s with brine := b } : State).pma = s.pma := rfl

theorem execHoldupReadingStale_pma {s : State} {s' : State} (hr : execHoldupReadingStale s = .next s') : s'.pma = s.pma := by
  have h : ∀ P : State → Prop, P s → (∀ t b, P (State.applyLimit { s.passTo t with brine := b })) → P s' := by
    intro P h0 h1
    cases hr
    split
    · split
      · exact h0
      · exact h1 ..
    · exact h0
  exact h (fun t => t.pma = s.pma) rfl fun t b => by rw [applyLimit_pma, withBrine_pma, passTo_pma]

theorem execTokenRefill_pma {agent : Nat} {s : State} {s' : State} (hr : execTokenRefill agent s = .next s') : s'.pma = s.pma := by
  unfold execTokenRefill at hr
  grind

theorem execBrineStatus_pma {n : Fin 32} {s : State} {s' : State} (hr : execBrineStatus n s = .next s') : s'.pma = s.pma := by
  cases hr
  refine runCmd_pma s n _ _ fun u => ?_
  grind [CmdEnd.pmaIs]

theorem execBrineJournalStore_pma {n : Fin 32} {s : State} {s' : State} (hr : execBrineJournalStore n s = .next s') : s'.pma = s.pma := by
  cases hr
  refine runCmd_pma s n _ _ fun u => ?_
  dsimp only
  grind [CmdEnd.pmaIs]

theorem execBrineJournalLoad_pma {n : Fin 32} {s : State} {s' : State} (hr : execBrineJournalLoad n s = .next s') : s'.pma = s.pma := by
  cases hr
  refine runCmd_pma s n _ _ fun u => ?_
  dsimp only
  grind [bufPut_pma, CmdEnd.pmaIs]

@[simp] theorem storeLine_pma (s : State) (ln : Nat) (d : Line) (poison : Bool) : (s.storeLine ln d poison).pma = s.pma := by
  simp [State.storeLine, ite_pma]

@[simp] theorem settle_pma (s : State) (lines : List Nat) : (s.settle lines).pma = s.pma := by
  unfold State.settle
  dsimp only
  rw [foldl_pma fun u x => storeLine_pma .., selfRefreshAll_pma]

@[simp] theorem freeAllTokens_pma (s : State) : (s.freeAllTokens).pma = s.pma := by simp [State.freeAllTokens]
@[simp] theorem landWrites_pma (s : State) : (s.landWrites).pma = s.pma := foldl_pma (fun u f => by simp [ite_pma]) _ s

/-! ### Machine/Rind.lean -/

@[simp] theorem mbDown_pma (s : State) (n : Nat) : (s.mbDown n).pma = s.pma := by simp [State.mbDown, ite_pma]
@[simp] theorem fence_pma (s : State) : (s.fence).pma = s.pma := by simp [State.fence]
@[simp] theorem rennetReset_pma (s : State) : (s.rennetReset).pma = s.pma := by
  unfold State.rennetReset
  dsimp only
  simp [ite_pma, foldl_pma fun u n => mbDown_pma u n]

@[simp] theorem rindRefuse_pma (s : State) (rule : Nat) : (s.rindRefuse rule).pma = s.pma := by simp [State.rindRefuse, ite_pma]
theorem execRindHeartbeat_pma {s : State} {s' : State} (hr : execRindHeartbeat s = .next s') : s'.pma = s.pma := by
  unfold execRindHeartbeat at hr
  grind

theorem execHeartbeatTimeout_pma {s : State} {s' : State} (hr : execHeartbeatTimeout s = .next s') : s'.pma = s.pma := by
  unfold execHeartbeatTimeout at hr
  grind [rennetReset_pma, passTo_pma]

theorem execLockstepMismatch_pma {s : State} {s' : State} (hr : execLockstepMismatch s = .next s') : s'.pma = s.pma := by
  unfold execLockstepMismatch at hr
  grind [rennetReset_pma]

@[simp] theorem finishInterrupted_pma (s : State) (n : Unfinished) : (s.finishInterrupted n).pma = s.pma := by
  unfold State.finishInterrupted
  grind [execWheelReleaseSlotsFree_pma, execInstanceResetDrainDone_pma, execFabricLinkDisableDrained_pma]

theorem execRennetRestartDone_pma {s : State} {s' : State} (hr : execRennetRestartDone s = .next s') : s'.pma = s.pma := by
  cases hr
  simp [ite_pma, foldl_pma (fun (u : State) (n : Nat) => updMb_pma u n _), foldl_pma (fun (u : State) (x : Unfinished × Option (Fin 32)) =>
    finishInterrupted_pma u x.1)]

/-! ### Machine/Power.lean -/

@[simp] theorem rethrottle_pma (s : State) : (s.rethrottle).pma = s.pma := by simp [State.rethrottle, ite_pma]
theorem execPowerSample_pma {slow fast : Nat} {s : State} {s' : State} (hr : execPowerSample slow fast s = .next s') : s'.pma = s.pma := by
  unfold execPowerSample at hr
  grind [rethrottle_pma]

theorem execThermalSample_pma {t : Fin 8} {hottest : ℤ} {s : State} {s' : State} (hr : execThermalSample t hottest s = .next s') :
    s'.pma = s.pma := by
  unfold execThermalSample at hr
  grind [mapHarts_pma, rethrottle_pma, wire_pma]

theorem execLifeLedgerSample_pma {t : Fin 8} {s : State} {s' : State} (hr : execLifeLedgerSample t s = .next s') : s'.pma = s.pma := by
  unfold execLifeLedgerSample at hr
  grind [rethrottle_pma]

theorem execLifeLedgerSave_pma {s : State} {s' : State} (hr : execLifeLedgerSave s = .next s') : s'.pma = s.pma := by
  unfold execLifeLedgerSave at hr
  grind

@[simp] theorem agingStep_pma (s : State) (t mon step : Nat) (windowLeft : Bool) : (s.agingStep t mon step windowLeft).pma = s.pma := by
  simp [State.agingStep]

theorem execAgingMonitorRead_pma {t : Fin 8} {mon : Fin 16} {steps : Nat} {windowLeft : Bool} {s : State} {s' : State}
    (hr : execAgingMonitorRead t mon steps windowLeft s = .next s') :
    s'.pma = s.pma := by
  cases hr
  simp [ite_pma, foldl_pma (fun (u : State) (i : Nat) => agingStep_pma u _ _ i _)]

theorem execPowerLimitSet_pma {n : Fin 32} {s : State} {s' : State} (hr : execPowerLimitSet n s = .next s') : s'.pma = s.pma := by
  cases hr
  refine runCmd_pma s n _ _ fun u => ?_
  dsimp only
  grind [CmdEnd.pmaIs]

theorem execPowerFreqSet_pma {n : Fin 32} {s : State} {s' : State} (hr : execPowerFreqSet n s = .next s') : s'.pma = s.pma := by
  cases hr
  refine runCmd_pma s n _ _ fun u => ?_
  dsimp only
  grind [mapHarts_pma, rethrottle_pma, CmdEnd.pmaIs]

theorem execPowerMeshFreqSet_pma {n : Fin 32} {s : State} {s' : State} (hr : execPowerMeshFreqSet n s = .next s') : s'.pma = s.pma := by
  cases hr
  refine runCmd_pma s n _ _ fun u => ?_
  dsimp only
  grind [CmdEnd.pmaIs]

theorem execPowerStatus_pma {n : Fin 32} {s : State} {s' : State} (hr : execPowerStatus n s = .next s') : s'.pma = s.pma := by
  cases hr
  refine runCmd_pma s n _ _ fun u => ?_
  grind [CmdEnd.pmaIs]

theorem execPowerDomainSet_pma {n : Fin 32} {s : State} {s' : State} (hr : execPowerDomainSet n s = .next s') : s'.pma = s.pma := by
  cases hr
  refine runCmd_pma s n _ _ fun u => ?_
  refine cmdEnd_pmaIs_ite trivial (cmdEnd_pmaIs_ite (cmdEnd_pmaIs_ite trivial ?_) (cmdEnd_pmaIs_ite trivial ?_))
  · simp [ite_pma]
  · simp [ite_pma, foldl_pma fun (v : State) (c : Nat) => setDma_pma v c _]

theorem execIdleC2Entry_pma {h : HartId} {s : State} {s' : State} (hr : execIdleC2Entry h s = .next s') : s'.pma = s.pma := by
  unfold execIdleC2Entry at hr
  grind [updHart_pma, passTo_pma]

@[simp] theorem emptyAgent_pma (s : State) (a : Nat) : (s.emptyAgent a).pma = s.pma := by simp [State.emptyAgent]
theorem execIdleC3Entry_pma {h : HartId} {s : State} {s' : State} (hr : execIdleC3Entry h s = .next s') : s'.pma = s.pma := by
  unfold execIdleC3Entry at hr
  grind [updHart_pma, emptyAgent_pma, passTo_pma]

theorem execPowerDomainOff_pma {h : HartId} {s : State} {s' : State} (hr : execPowerDomainOff h s = .next s') : s'.pma = s.pma := by
  unfold execPowerDomainOff at hr
  grind [updHart_pma]

@[simp] theorem wake_pma (s : State) (h : HartId) : (s.wake h).pma = s.pma := by simp [State.wake]
theorem execHartWake_pma {h : HartId} {s : State} {s' : State} (hr : execHartWake h s = .next s') : s'.pma = s.pma := by
  unfold execHartWake at hr
  grind [wake_pma]

theorem withPow_pma (s : State) (p : Power) : ({ s with pow := p } : State).pma = s.pma := rfl

theorem execPackageRetentionEntry_pma {s : State} {s' : State} (hr : execPackageRetentionEntry s = .next s') : s'.pma = s.pma := by
  cases hr
  refine ite_pma_of rfl ?_
  rw [withPow_pma, freeAllTokens_pma, settle_pma, passTo_pma]

@[simp] theorem resume_pma (s : State) : (s.resume).pma = s.pma := by simp [State.resume]
theorem execPackageRetentionExit_pma {why : WakeCause} {s : State} {s' : State} (hr : execPackageRetentionExit why s = .next s') :
    s'.pma = s.pma := by
  unfold execPackageRetentionExit at hr
  grind [resume_pma, passTo_pma]

theorem execDbgWake_pma {s : State} {s' : State} (hr : execDbgWake s = .next s') : s'.pma = s.pma := by
  unfold execDbgWake at hr
  grind [resume_pma]

/-! ### Machine/Errors.lean -/

@[simp] theorem freeRec_pma (s : State) (t k : Nat) : (s.freeRec t k).pma = s.pma := by simp [State.freeRec]
@[simp] theorem cecntWrite_pma (s : State) (t : Nat) (v m : Word) : (s.cecntWrite t v m).pma = s.pma := by simp [State.cecntWrite]
@[simp] theorem threshWrite_pma (s : State) (t : Nat) (v : BitVec 32) : (s.threshWrite t v).pma = s.pma := by simp [State.threshWrite]
theorem execEsRecordFree_pma {who : Master} {t : Fin 8} {k : Fin 64} {s : State} {s' : State} (hr : execEsRecordFree who t k s = .next s') :
    s'.pma = s.pma := by
  unfold execEsRecordFree at hr
  grind [r31Write_pma, freeRec_pma]

@[simp] theorem logCopy_pma (s : State) (r : LogRec) : (s.logCopy r).pma = s.pma := by
  unfold State.logCopy
  grind

theorem execErrorRecordCopy_pma {t : Fin 8} {k : Fin 64} {s : State} {s' : State}
    (hr : execErrorRecordCopy t k s = .next s') : s'.pma = s.pma := by
  unfold execErrorRecordCopy at hr
  grind [logCopy_pma]

theorem execErrorLogRead_pma {n : Fin 32} {s : State} {s' : State} (hr : execErrorLogRead n s = .next s') : s'.pma = s.pma := by
  cases hr
  refine runCmd_pma s n _ _ fun u => ?_
  dsimp only
  grind [bufPut_pma, CmdEnd.pmaIs]

@[simp] theorem lostLine_pma (s : State) (a ln : Nat) : (s.lostLine a ln).pma = s.pma := by
  unfold State.lostLine
  grind [vbPush_pma, lineLost_pma, setL2_pma, l3Put_pma, setSf_pma, takeLine_pma, logErr_pma]

theorem execCoreFatalError_pma {h : HartId} {cause : CoreFatal} {bad : List La} {s : State} {s' : State}
    (hr : execCoreFatalError h cause bad s = .next s') :
    s'.pma = s.pma := by
  cases hr
  simp [ite_pma, foldl_pma (fun (u : State) (la : La) => lostLine_pma u _ _)]

@[simp] theorem drainHeld_pma (s : State) : (s.drainHeld).pma = s.pma := foldl_pma (fun _ _ => pokeBytes_pma ..) _ s
@[simp] theorem stopHarts_pma (s : State) : (s.stopHarts).pma = s.pma := by simp [State.stopHarts]
@[simp] theorem flushSteps_pma (s : State) (t0 : Nat) : (s.flushSteps t0).pma = s.pma := by
  unfold State.flushSteps
  simp

theorem execPfailNFall_pma {s : State} {s' : State} (hr : execPfailNFall s = .next s') : s'.pma = s.pma := by
  unfold execPfailNFall at hr
  grind [pulse_pma, wire_pma]

theorem execPowerFailFlush_pma {s : State} {s' : State} (hr : execPowerFailFlush s = .next s') : s'.pma = s.pma := by
  unfold execPowerFailFlush at hr
  grind [flushSteps_pma, passTo_pma]

theorem execPkgFatalError_pma {sl : Fin 192} {cause : PkgFatal} {s : State} {s' : State} (hr : execPkgFatalError sl cause s = .next s') :
    s'.pma = s.pma := by
  unfold execPkgFatalError at hr
  grind [flushSteps_pma, logErr_pma]

/-! ### Machine/Security.lean -/

theorem execAttestQuote_pma {n : Fin 32} {sig : List Byte} {s : State} {s' : State}
    (hr : execAttestQuote n sig s = .next s') : s'.pma = s.pma := by
  cases hr
  exact runCmd_pma s n _ _ fun u => cmdEnd_pmaIs_ite trivial (cmdEnd_pmaIs_ite trivial (cmdEnd_pmaIs_ite trivial (bufPut_pma ..)))

theorem execCertChainRead_pma {n : Fin 32} {chain : List Byte} {s : State} {s' : State} (hr : execCertChainRead n chain s = .next s') :
    s'.pma = s.pma := by
  cases hr
  exact runCmd_pma s n _ _ fun u => cmdEnd_pmaIs_ite trivial (bufPut_pma ..)

@[simp] theorem pushToken_pma (s : State) (k : DbgToken) (n : Option (Fin 32)) : (s.pushToken k n).pma = s.pma := by simp [State.pushToken]
theorem execDebugLevelSet_pma {n : Fin 32} {tok : DbgToken} {s : State} {s' : State} (hr : execDebugLevelSet n tok s = .next s') :
    s'.pma = s.pma := by
  cases hr
  refine runCmd_pma s n _ _ fun u => ?_
  dsimp only
  grind [beginWork_pma, setLevel_pma, pushToken_pma, CmdEnd.pmaIs]

theorem execDbgAuthSubmit_pma {tok : DbgToken} {s : State} {s' : State} (hr : execDbgAuthSubmit tok s = .next s') : s'.pma = s.pma := by
  unfold execDbgAuthSubmit at hr
  grind [pushToken_pma]

@[simp] theorem enterLevel_pma (s : State) (k : DbgToken) : (s.enterLevel k).pma = s.pma := by simp [State.enterLevel, ite_pma]
theorem execTokenCheckDone_pma {s : State} {s' : State} (hr : execTokenCheckDone s = .next s') : s'.pma = s.pma := by
  unfold execTokenCheckDone at hr
  grind [enterLevel_pma, finishWork_pma]

theorem execFwStage_pma {n : Fin 32} {img : ImageInfo} {s : State} {s' : State} (hr : execFwStage n img s = .next s') : s'.pma = s.pma := by
  cases hr
  refine runCmd_pma s n _ _ fun u => ?_
  dsimp only
  grind [CmdEnd.pmaIs]

theorem execFwCommit_pma {n : Fin 32} {s : State} {s' : State} (hr : execFwCommit n s = .next s') : s'.pma = s.pma := by
  cases hr
  refine runCmd_pma s n _ _ fun u => ?_
  dsimp only
  grind [CmdEnd.pmaIs]

/-! ### Machine/HartReset.lean -/

@[simp] theorem startAtRvec_pma (s : State) (h : HartId) : (s.startAtRvec h).pma = s.pma := by simp [State.startAtRvec, ite_pma]
@[simp] theorem clearFiles_pma (s : State) (h : HartId) : (s.clearFiles h).pma = s.pma := by simp [State.clearFiles]
@[simp] theorem hartResetNow_pma (s : State) (h : HartId) : (s.hartResetNow h).pma = s.pma := by simp [State.hartResetNow, ite_pma]
@[simp] theorem drainNow_pma (s : State) (h : HartId) : (s.drainNow h).pma = s.pma := by
  unfold State.drainNow
  dsimp only
  rw [foldl_pma fun u p => by grind [drainUncached_pma], updHart_pma]
  refine foldl_pma (fun u e => foldl_pma (fun v p => ?_) _ u) _ s
  split <;> simp

@[simp] theorem endReset_pma (s : State) (h : HartId) : (s.endReset h).pma = s.pma := by simp [State.endReset, ite_pma]
@[simp] theorem startReset_pma (s : State) (h : HartId) : (s.startReset h).pma = s.pma := by simp [State.startReset, ite_pma]
@[simp] theorem hrstWrite_pma (s : State) (h : HartId) (v m : Word) : (s.hrstWrite h v m).pma = s.pma := by simp [State.hrstWrite, ite_pma]
theorem execHartReset_pma {who : Master} {h : HartId} {v : Word} {s : State} {s' : State} (hr : execHartReset who h v s = .next s') :
    s'.pma = s.pma := by
  unfold execHartReset at hr
  grind [hrstWrite_pma, r31Write_pma]

theorem execHartSelfTestDone_pma {h : HartId} {pass : Bool} {s : State} {s' : State} (hr : execHartSelfTestDone h pass s = .next s') :
    s'.pma = s.pma := by
  unfold execHartSelfTestDone at hr
  grind [setHart_pma, takeNat_pma, coreFatal_pma]

/-! ### Machine/Perf.lean -/

theorem execCoreCounterWrap_pma {h : HartId} {k : Fin 32} {s : State} {s' : State}
    (hr : execCoreCounterWrap h k s = .next s') : s'.pma = s.pma := by
  unfold execCoreCounterWrap at hr
  grind [setHart_pma, bumpHpm_pma]

@[simp] theorem bankClr_pma (s : State) (stop b : Nat) : (s.bankClr stop b).pma = s.pma := by simp [State.bankClr]
@[simp] theorem bankWrite_pma (s : State) (stop b off : Nat) (v m : Word) : (s.bankWrite stop b off v m).pma = s.pma := by
  unfold State.bankWrite
  grind [setBank_pma, bankClr_pma]

theorem execBankCounterWrap_pma {stop : Fin 320} {b : Fin 3} {k : Fin 4} {gain : Nat} {s : State} {s' : State}
    (hr : execBankCounterWrap stop b k gain s = .next s') :
    s'.pma = s.pma := by
  unfold execBankCounterWrap at hr
  grind [guard_pma, bumpBank_pma]

theorem execPmBankClr_pma {who : Master} {stop : Fin 320} {b : Fin 3} {s : State} {s' : State}
    (hr : execPmBankClr who stop b s = .next s') :
    s'.pma = s.pma := by
  unfold execPmBankClr at hr
  grind [bankClr_pma, r31Write_pma]

theorem execBandwidthWindowEnd_pma {stop : Fin 320} {b : Fin 3} {s : State} {s' : State} (hr : execBandwidthWindowEnd stop b s = .next s') :
    s'.pma = s.pma := by
  unfold execBandwidthWindowEnd at hr
  grind [setBank_pma, guard_pma]

theorem execPmBwmaxRead_pma {who : Master} {stop : Fin 320} {b : Fin 3} {s : State} {s' : State}
    (hr : execPmBwmaxRead who stop b s = .next s') :
    s'.pma = s.pma := by
  unfold execPmBwmaxRead at hr
  grind [setBank_pma]

@[simp] theorem ladleCtl_pma (s : State) (v m : Word) : (s.ladleCtl v m).pma = s.pma := by simp [State.ladleCtl]
@[simp] theorem ladleWrite_pma (s : State) (off : Nat) (v m : Word) : (s.ladleWrite off v m).pma = s.pma := by
  unfold State.ladleWrite
  grind [ladleTrigger_pma, setLadle_pma, ladleCtl_pma]

theorem execLadleEnable_pma {who : Master} {v : BitVec 32} {s : State} {s' : State}
    (hr : execLadleEnable who v s = .next s') : s'.pma = s.pma := by
  unfold execLadleEnable at hr
  grind [r31Write_pma, ladleCtl_pma]

theorem execLadleSnap_pma {who : Master} {s : State} {s' : State} (hr : execLadleSnap who s = .next s') : s'.pma = s.pma := by
  unfold execLadleSnap at hr
  grind [ladleTrigger_pma, r31Write_pma]

theorem execLadlePeriodTrigger_pma {s : State} {s' : State} (hr : execLadlePeriodTrigger s = .next s') : s'.pma = s.pma := by
  unfold execLadlePeriodTrigger at hr
  grind [ladleTrigger_pma, passTo_pma]

@[simp] theorem latchStop_pma (s : State) (stop : Nat) (late : Bool) : (s.latchStop stop late).pma = s.pma :=
  foldl_pma (fun u _ => setBank_pma u _ _ _) _ s

theorem execLadleLatch_pma {stop : Fin 320} {s : State} {s' : State} (hr : execLadleLatch stop s = .next s') : s'.pma = s.pma := by
  unfold execLadleLatch at hr
  grind [setLadle_pma, passTo_pma, latchStop_pma]

@[simp] theorem ringWrite_pma (s : State) (o : Nat) (l : List (List Byte)) : (s.ringWrite o l).1.pma = s.pma := by
  induction l generalizing s o with
  | nil => rfl
  | cons r l ih => rw [State.ringWrite]; split <;> simp [ih]

@[simp] theorem dropLatches_pma (s : State) (merge : Bool) : (s.dropLatches merge).pma = s.pma := by
  refine foldl_pma (fun u p => ?_) _ s
  dsimp only
  split <;> simp

theorem execLadleSnapshotDone_pma {s : State} {s' : State} (hr : execLadleSnapshotDone s = .next s') : s'.pma = s.pma := by
  unfold execLadleSnapshotDone at hr
  grind [pulse_pma, ringWrite_pma, dropLatches_pma, logErr_pma, setLadle_pma]

/-! ### Machine/Device.lean -/

@[simp] theorem regTouch_pma (s : State) (who : Master) (n : DevReg) : (s.regTouch who n).pma = s.pma := by
  unfold State.regTouch
  grind [updInstance_pma, inDeny_pma, setBank_pma]

@[simp] theorem devRead4_pma (s : State) (who : Master) (la : Nat) : (s.devRead4 who la).1.pma = s.pma := by
  unfold State.devRead4
  grind [regTouch_pma]

@[simp] theorem devRead_pma (s : State) (who : Master) (la n : Nat) : (s.devRead who la n).1.pma = s.pma := by
  unfold State.devRead
  grind [devRead4_pma, regTouch_pma]

theorem execMcInjArm_pma {who : Master} {ch : Fin 48} {v : BitVec 32} {s : State} {s' : State} (hr : execMcInjArm who ch v s = .next s') :
    s'.pma = s.pma := by
  unfold execMcInjArm at hr
  grind [injCtlWrite_pma, r31Write_pma]

theorem execGlInjArm_pma {who : Master} {l : Fin 8} {v : BitVec 32} {s : State} {s' : State} (hr : execGlInjArm who l v s = .next s') :
    s'.pma = s.pma := by
  unfold execGlInjArm at hr
  grind [glInjWrite_pma, r31Write_pma]

@[simp] theorem devReads_pma (s : State) (who : Master) (b : Nat) (l : List (Nat × Nat)) : (s.devReads who b l).1.pma = s.pma := by
  induction l generalizing s with
  | nil => rfl
  | cons p l ih => obtain ⟨o, k⟩ := p; simp [State.devReads, ih]

/-! ### Machine/Uncached.lean -/

@[simp] theorem failWrite_pma (s : State) (f : Flit) (sts : Nat) : (s.failWrite f sts).pma = s.pma := by simp [State.failWrite, ite_pma]
@[simp] theorem readAtDevice_pma (s : State) (f : Flit) : (s.readAtDevice f).pma = s.pma := by
  unfold State.readAtDevice
  grind [devReads_pma, send_pma]

@[simp] theorem readAtMgmt_pma (s : State) (f : Flit) : (s.readAtMgmt f).pma = s.pma := by simp [State.readAtMgmt]
@[simp] theorem writeAtMgmt_pma (s : State) (f : Flit) : (s.writeAtMgmt f).pma = s.pma := by simp [State.writeAtMgmt, ite_pma]
@[simp] theorem tlpSent_pma (s : State) (i n : Nat) : (s.tlpSent i n).pma = s.pma := by simp [State.tlpSent]
@[simp] theorem tlpReceived_pma (s : State) (i n : Nat) : (s.tlpReceived i n).pma = s.pma := by simp [State.tlpReceived]
@[simp] theorem pcieAsk_pma (s : State) (i : Nat) (f : Flit) (n : Nat) : (s.pcieAsk i f n).pma = s.pma := by
  unfold State.pcieAsk
  grind [trackEwa_pma, accept_pma, send_pma, tlpSent_pma]

/-- The four ends of an outbound access to PCI Express. The definition is unfolded as a function, and `P` is a variable: the kernel then compares the
two terms and does not evaluate `pcieOf` at a variable address. -/
theorem outbound_cases {P : State → Prop} {s : State} {f : Flit} (hs : ∀ g, P ((s.accept f).send g)) (hw : ∀ n, P ((s.accept f).failWrite f n))
    (ha : ∀ i n, P (s.pcieAsk i f n)) : P (s.outbound f) := by
  generalize hF : @State.outbound = F
  delta State.outbound at hF
  subst hF
  beta_reduce
  split
  · exact hs _
  · split
    · exact hw _
    · split
      · exact ha ..
      · exact ha ..
      · exact hs _

@[simp] theorem outbound_pma (s : State) (f : Flit) : (s.outbound f).pma = s.pma :=
  outbound_cases (P := fun t => t.pma = s.pma) (fun _ => rfl) (fun _ => by simp) fun _ _ => pcieAsk_pma ..

theorem execReadNc_pma {f : Flit} {s : State} {s' : State} (hr : execReadNc f s = .next s') : s'.pma = s.pma := by
  unfold execReadNc at hr
  grind [serve_pma, readAtMgmt_pma, onFlit_pma, readAtDevice_pma, outbound_pma, accept_pma, send_pma, atLink_pma]

theorem execAtomicNc_pma {f : Flit} {s : State} {s' : State} (hr : execAtomicNc f s = .next s') : s'.pma = s.pma := by
  unfold execAtomicNc at hr
  grind [serve_pma, onFlit_pma, outbound_pma, accept_pma, send_pma, atLink_pma]

@[simp] theorem rootEnd_pma (s : State) (i t : Nat) : (s.rootEnd i t).pma = s.pma := by simp [State.rootEnd]
@[simp] theorem rootFail_pma (s : State) (i t : Nat) (a : InAcc) (sts : Nat) :
    (s.rootFail i t a sts).pma = s.pma := by simp [State.rootFail, ite_pma]

@[simp] theorem rootAnswer_pma (s : State) (i : Nat) (f : Flit) : (s.rootAnswer i f).pma = s.pma := by
  unfold State.rootAnswer
  grind [rootFail_pma, rootEnd_pma, lateResponse_pma, tlpSent_pma]

@[simp] theorem sbaAnswer_pma (s : State) (f : Flit) : (s.sbaAnswer f).pma = s.pma := by simp [State.sbaAnswer, ite_pma]
@[simp] theorem sliceAnswer_pma (s : State) (f : Flit) : (s.sliceAnswer f).pma = s.pma := by
  unfold State.sliceAnswer
  grind [memData_pma, closeTxn_pma, victimFreed_pma, retrySlice_pma, send_pma, memEnded_pma]

@[simp] theorem agentError_pma (s : State) (a : Nat) (f : Flit) : (s.agentError a f).pma = s.pma := by
  unfold State.agentError
  grind [endMshr_pma, goesOn_pma, mapMshr_pma]

@[simp] theorem answer_pma (s : State) (f : Flit) : (s.answer f).pma = s.pma := by
  have hd : ∀ (u : State) e t c p d o, ((u.dmaAnswer e t c p false d o).getD (u.lateResponse f.dst f.addr.toNat)).pma = u.pma :=
    fun _ _ _ _ _ _ _ => getD_pma dmaAnswer_pma (lateResponse_pma ..)
  unfold State.answer
  dsimp only
  repeat' split
  all_goals simp only [hd, accept_pma, agentError_pma, endReset_pma, hartAnswer_pma, sliceAnswer_pma, homeAnswer_pma, rootAnswer_pma, ioAnswer_pma,
    sbaAnswer_pma]

theorem execWriteDone_pma {f : Flit} {s : State} {s' : State} (hr : execWriteDone f s = .next s') : s'.pma = s.pma := by
  unfold execWriteDone at hr
  grind [answer_pma, onFlit_pma]

theorem execReadReturn_pma {f : Flit} {s : State} {s' : State} (hr : execReadReturn f s = .next s') : s'.pma = s.pma := by
  unfold execReadReturn at hr
  grind [answer_pma, onFlit_pma]

theorem execErrorReply_pma {f : Flit} {s : State} {s' : State} (hr : execErrorReply f s = .next s') : s'.pma = s.pma := by
  unfold execErrorReply at hr
  grind [answer_pma, onFlit_pma]

@[simp] theorem rootTimeout_pma (s : State) (i t : Nat) : (s.rootTimeout i t).pma = s.pma := by
  unfold State.rootTimeout
  grind [rootFail_pma, rootEnd_pma, passTo_pma]

theorem execUncachedTimeout_pma {who : Master} {tag : Nat} {s : State} {s' : State} (hr : execUncachedTimeout who tag s = .next s') :
    s'.pma = s.pma := by
  unfold execUncachedTimeout at hr
  grind [endReset_pma, hartTimeout_pma, engineTimeout_pma, passTo_pma, rootTimeout_pma]

/-! ### Machine/Debug.lean -/

@[simp] theorem requestHalt_pma (s : State) (h : HartId) (why : Nat) :
    (s.requestHalt h why).pma = s.pma := by simp [State.requestHalt, ite_pma]

theorem execDmHaltRequest_pma {h : HartId} {s : State} {s' : State} (hr : execDmHaltRequest h s = .next s') : s'.pma = s.pma := by
  cases hr
  simp [ite_pma, foldl_pma (fun (u : State) (k : HartId) => requestHalt_pma u k _)]

theorem execDmResumeRequest_pma {h : HartId} {s : State} {s' : State} (hr : execDmResumeRequest h s = .next s') : s'.pma = s.pma := by
  unfold execDmResumeRequest at hr
  grind [updHart_pma]

@[simp] theorem absEnd_pma (s : State) (h : HartId) (e : Nat) : (s.absEnd h e).pma = s.pma := by simp [State.absEnd]
@[simp] theorem absRead_pma (s : State) (h : HartId) (v : Word) : (s.absRead h v).pma = s.pma := by simp [State.absRead]
@[simp] theorem asM_pma (s : State) (h : HartId) (f : State → State) (hf : ∀ u, (f u).pma = u.pma) : (s.asM h f).pma = s.pma := by
  unfold State.asM
  grind [updHart_pma]

@[simp] theorem absCsrWrite_pma (s : State) (h : HartId) (n : Nat) (v : Word) : (s.absCsrWrite h n v).pma = s.pma := by
  unfold State.absCsrWrite
  grind [csrWrite_pma, updHart_pma, asM_pma]

@[simp] theorem absReadReg_pma (s : State) (h : HartId) (n : Nat) : (s.absReadReg h n).pma = s.pma := by
  unfold State.absReadReg
  grind [setHart_pma, absEnd_pma, absRead_pma]

@[simp] theorem absWriteReg_pma (s : State) (h : HartId) (n : Nat) (v : Word) : (s.absWriteReg h n v).pma = s.pma := by
  unfold State.absWriteReg
  grind [setHart_pma, absEnd_pma, absCsrWrite_pma]

@[simp] theorem absMem_pma (s : State) (h : HartId) (virt : Bool) (acc : Acc) (a : Word) (n : Nat) (f : State → List Part → State)
    (hf : ∀ u x1, (f u x1).pma = u.pma) :
    (s.absMem h virt acc a n f).pma = s.pma := by
  unfold State.absMem
  grind [updHart_pma, absEnd_pma, tlbMiss_pma]

@[simp] theorem absLoad_pma (s : State) (h : HartId) (n : Nat) (ps : List Part) : (s.absLoad h n ps).pma = s.pma := by
  unfold State.absLoad
  grind [readParts_pma, absEnd_pma, poisonUsed_pma, absRead_pma, startRead_pma, ReadRes.pmaIs]

@[simp] theorem absStore_pma (s : State) (h : HartId) (v : Nat) (ps : List Part) : (s.absStore h v ps).pma = s.pma := by
  simp [State.absStore, ite_pma]

theorem execDmAbstractCommand_pma {h : HartId} {cmd : AbsCmd} {s : State} {s' : State} (hr : execDmAbstractCommand h cmd s = .next s') :
    s'.pma = s.pma := by
  unfold execDmAbstractCommand at hr
  grind [absWriteReg_pma, absLoad_pma, absEnd_pma, absReadReg_pma, absMem_pma, absStore_pma]

@[simp] theorem sbEnd_pma (s : State) (e : Nat) (v : Option Word) : (s.sbEnd e v).pma = s.pma := by simp [State.sbEnd]
@[simp] theorem sbAsk_pma (s : State) (pa n : Nat) (write : Bool) (v : Nat) : (s.sbAsk pa n write v).pma = s.pma := by
  unfold State.sbAsk
  grind [sbEnd_pma, send_pma]

theorem execSystemBusAccess_pma {a : Pa} {size : AccSize} {write : Bool} {v : Word} {s : State} {s' : State}
    (hr : execSystemBusAccess a size write v s = .next s') :
    s'.pma = s.pma := by
  unfold execSystemBusAccess at hr
  grind [sbEnd_pma, sbAsk_pma]

/-! ### Machine/RennetPort.lean -/

@[simp] theorem rennetSend_pma (s : State) (a n : Nat) (write : Bool) (v : Line) : (s.rennetSend a n write v).pma = s.pma := by
  unfold State.rennetSend
  grind [send_pma]

@[simp] theorem rennetMem_pma (s : State) (a : Nat) (write : Bool) (v : Line) : (s.rennetMem a write v).pma = s.pma := by
  unfold State.rennetMem
  grind [rindRefuse_pma, rennetSend_pma]

@[simp] theorem rennetWheel_pma (s : State) (stop : Nat) (out : Port) (slot : Nat) (owner : Option (Fin 128)) :
    (s.rennetWheel stop out slot owner).pma = s.pma := by simp [State.rennetWheel, ite_pma]

@[simp] theorem rennetRoute_pma (s : State) (entry : Nat) (v : Bool) (g : Fin 8) (hops : Nat) :
    (s.rennetRoute entry v g hops).pma = s.pma := by
  simp [State.rennetRoute, ite_pma]

@[simp] theorem rennetPool_pma (s : State) (c : Nat) (i : Fin 64) : (s.rennetPool c i).pma = s.pma := by simp [State.rennetPool, ite_pma]

/-! ### Machine/Boot.lean -/

@[simp] theorem applyCommit_pma (s : State) (t : Nat) : (s.applyCommit t).pma = s.pma := by simp [State.applyCommit, ite_pma]
@[simp] theorem runImage_pma (s : State) (t k : Nat) : (s.runImage t k).pma = s.pma := by simp [State.runImage]
@[simp] theorem setRvec_pma (s : State) : (s.setRvec).pma = s.pma := by simp [State.setRvec, ite_pma]
@[simp] theorem trainLinks_pma (s : State) : (s.trainLinks).pma = s.pma := by
  unfold State.trainLinks
  rw [ite_pma, foldl_pma fun u x => by simp [ite_pma], ite_self]

@[simp] theorem startHost_pma (s : State) (accepted : Bool) : (s.startHost accepted).pma = s.pma := by
  unfold State.startHost
  grind [reserveZero_pma, maybeStart_pma, setRvec_pma, trainLinks_pma, runImage_pma]

@[simp] theorem raiseCounters_pma (s : State) : (s.raiseCounters).pma = s.pma := by simp [State.raiseCounters, ite_pma]
theorem execFirstHostInstruction_pma {s : State} {s' : State} (hr : execFirstHostInstruction s = .next s') : s'.pma = s.pma := by
  unfold execFirstHostInstruction at hr
  grind [setHart_pma, raiseCounters_pma]

/-! ### Machine/Pcie.lean -/

@[simp] theorem rootPa_pma (s : State) (i : Nat) (rid : BitVec 16) (pasid : Option (BitVec 20)) (iova : Word) (write : Bool) (tag : Nat) :
    (s.rootPa i rid pasid iova write tag).pmaIs s.pma := by
  unfold State.rootPa
  grind [inbound_pma, IoGo.pmaIs, RootGo.pmaIs]

@[simp] theorem rootTaken_pma (s : State) (i : Nat) (rid : BitVec 16) (pasid : Option (BitVec 20)) :
    (s.rootTaken i rid pasid).pma = s.pma := by
  simp [State.rootTaken]

@[simp] theorem rootUr_pma (s : State) (i : Nat) : (s.rootUr i).pma = s.pma := by simp [State.rootUr]
@[simp] theorem rootSend_pma (s : State) (i tag pa : Nat) (e : PmaEntry) (op : MsgOp) (m : LineMask) (edit : Flit → Flit) :
    (s.rootSend i tag pa e op m edit).1.pma = s.pma := by
  unfold State.rootSend
  grind [ioBegin_pma, send_pma]

@[simp] theorem rootRead_pma (s : State) (i : Nat) (rid : BitVec 16) (pasid : Option (BitVec 20)) (a n : Nat) :
    (s.rootRead i rid pasid a n).pma = s.pma := by
  unfold State.rootRead
  grind [rootPa_pma, rootUr_pma, rootSend_pma, tlpSent_pma, RootGo.pmaIs]

theorem rootWalk_pma {s : State} {i : Nat} {rid : BitVec 16} {pasid : Option (BitVec 20)} {l : List (Nat × Nat)} {s' : State}
    (hr : s.rootWalk i rid pasid l = some s') :
    s'.pma = s.pma := by
  induction l with
  | nil => cases hr
  | cons x l ih =>
    have hp := rootPa_pma s i rid pasid (BitVec.ofNat 64 x.1) false 0
    rw [State.rootWalk] at hr
    grind [RootGo.pmaIs]

theorem execPcieMemoryRead_pma {i : Fin 6} {rid : BitVec 16} {pasid : Option (BitVec 20)} {iova : Word} {bytes : Nat} {s : State} {s' : State}
    (hr : execPcieMemoryRead i rid pasid iova bytes s = .next s') :
    s'.pma = s.pma := by
  cases hr
  split
  · rfl
  · split
    · next hu => exact rootWalk_pma hu
    · rw [rootTaken_pma, foldl_pma fun u p => rootRead_pma .., tlpReceived_pma]

@[simp] theorem poisonedTlp_pma (s : State) (i pa : Nat) : (s.poisonedTlp i pa).pma = s.pma := by simp [State.poisonedTlp]
@[simp] theorem rootWrite_pma (s : State) (i : Nat) (rid : BitVec 16) (pasid : Option (BitVec 20)) (a : Nat) (m : LineMask) (d : Line) (poison : Bool) :
    (s.rootWrite i rid pasid a m d poison).pma = s.pma := by
  unfold State.rootWrite
  grind [rootTaken_pma, rootPa_pma, poisonedTlp_pma, tlpReceived_pma, rootSend_pma, RootGo.pmaIs]

theorem execPcieMemoryWrite_pma {i : Fin 6} {rid : BitVec 16} {pasid : Option (BitVec 20)} {iova : Word} {mask : LineMask} {data : Line} {poison : Bool} {s : State} {s' : State}
    (hr : execPcieMemoryWrite i rid pasid iova mask data poison s = .next s') :
    s'.pma = s.pma := by
  unfold execPcieMemoryWrite at hr
  grind [rootWrite_pma]

theorem execPcieAtomicOp_pma {i : Fin 6} {rid : BitVec 16} {pasid : Option (BitVec 20)} {iova : Word} {fn : AmoFn} {bytes : Nat} {operand compare : Word} {s : State} {s' : State}
    (hr : execPcieAtomicOp i rid pasid iova fn bytes operand compare s = .next s') :
    s'.pma = s.pma := by
  unfold execPcieAtomicOp at hr
  grind [rootTaken_pma, rootPa_pma, tlpReceived_pma, rootUr_pma, rootSend_pma, RootGo.pmaIs]

theorem execPcieMsiWrite_pma {i : Fin 6} {rid : BitVec 16} {iova : Word} {data : BitVec 32} {s : State} {s' : State}
    (hr : execPcieMsiWrite i rid iova data s = .next s') :
    s'.pma = s.pma := by
  unfold execPcieMsiWrite at hr
  grind [rootWrite_pma]

@[simp] theorem cplWrite_pma (s : State) (r : PcieReq) (cpl : PcieCpl) : (s.cplWrite r cpl).pma = s.pma := by simp [State.cplWrite, ite_pma]
theorem execPcieCompletion_pma {i : Fin 6} {tag : Nat} {cpl : PcieCpl} {s : State} {s' : State}
    (hr : execPcieCompletion i tag cpl s = .next s') :
    s'.pma = s.pma := by
  unfold execPcieCompletion at hr
  grind [tlpReceived_pma, cplWrite_pma, count_pma, send_pma]

theorem execPcieLinkEvent_pma {i : Fin 6} {level : Bool} {s : State} {s' : State}
    (hr : execPcieLinkEvent i level s = .next s') : s'.pma = s.pma := by
  unfold execPcieLinkEvent at hr
  grind [wire_pma]

/-! ### Machine/Time.lean -/

@[simp] theorem timerWake_pma (s : State) (h : HartId) : (s.timerWake h).pma = s.pma := by simp [State.timerWake, ite_pma]
theorem execMachineTimerMatch_pma {h : HartId} {s : State} {s' : State} (hr : execMachineTimerMatch h s = .next s') : s'.pma = s.pma := by
  unfold execMachineTimerMatch at hr
  grind [passTo_pma, timerWake_pma]

theorem execSupervisorTimerMatch_pma {h : HartId} {s : State} {s' : State}
    (hr : execSupervisorTimerMatch h s = .next s') : s'.pma = s.pma := by
  unfold execSupervisorTimerMatch at hr
  grind [passTo_pma, timerWake_pma]

@[simp] theorem tick_pma (s : State) : (s.tick).pma = s.pma := by simp [State.tick, ite_pma]

/-! ### Machine/Vector.lean -/

theorem execVectorConfig_pma {h : HartId} {i : VCfg} {s : State} {s' : State}
    (hr : execVectorConfig h i s = .next s') : s'.pma = s.pma := by
  unfold execVectorConfig at hr
  grind [retire_pma, updHart_pma, legally_pma, onHart_pma]

@[simp] theorem vecArith_pma (s : State) (h : HartId) (op : VArith) (vd vs2 : Nat) (src : VSrc) (masked : Bool) :
    (s.vecArith h op vd vs2 src masked).pma = s.pma := by
  unfold State.vecArith
  grind [retire_pma, updHart_pma, legally_pma, illegal_pma, event_pma]

@[simp] theorem vmemDone_pma (s : State) (h : HartId) (ad : VAddr) (v : VShape) (code : Nat) : (s.vmemDone h ad v code).pma = s.pma := by
  simp [State.vmemDone]

@[simp] theorem vloadFault_pma (s : State) (h : HartId) (ad : VAddr) (v : VShape) (k : Nat) (t : Trap) :
    (s.vloadFault h ad v k t).pma = s.pma := by
  simp [State.vloadFault, ite_pma]

@[simp] theorem vBack_pma (s : State) (h : HartId) (c0 : Hart) : (s.vBack h c0).pma = s.pma := by simp [State.vBack]
@[simp] theorem vloadElems_pma (s : State) (h : HartId) (c0 : Hart) (ad : VAddr) (v : VShape) (vd : Nat) (base : Word) (l : List Nat) :
    (s.vloadElems h c0 ad v vd base l).pmaIs s.pma := by
  induction l generalizing s with
  | nil => rfl
  | cons k l ih =>
    rw [State.vloadElems]
    grind [VStep.pmaIs, ReadRes.pmaIs, readParts_pma, vloadFault_pma, vBack_pma, tlbMiss_pma, startRead_pma, poisonUsed_pma, updHart_pma]

@[simp] theorem vloadGroup_pma (s : State) (h : HartId) (c0 : Hart) (ad : VAddr) (v : VShape) (vd : Nat) (base : Word) (ks : List Nat) :
    (s.vloadGroup h c0 ad v vd base ks).pmaIs s.pma := by
  unfold State.vloadGroup
  grind [vloadElems_pma, readParts_pma, updHart_pma, vBack_pma, ReadRes.pmaIs, VStep.pmaIs]

@[simp] theorem vloadLoop_pma (s : State) (h : HartId) (c0 : Hart) (ad : VAddr) (v : VShape) (vd : Nat) (base : Word) (l : List (List Nat)) :
    (s.vloadLoop h c0 ad v vd base l).pma = s.pma := by
  induction l generalizing s with
  | nil => simp [State.vloadLoop]
  | cons g l ih => rw [State.vloadLoop]; grind [VStep.pmaIs, vloadGroup_pma]

@[simp] theorem vstore_pma (s : State) (h : HartId) (c0 : Hart) (ad : VAddr) (v : VShape) (vd : Nat) (base : Word) (ks : List Nat) :
    (s.vstore h c0 ad v vd base ks).pma = s.pma := by
  unfold State.vstore
  grind [vmemDone_pma, updHart_pma, enterStores_pma, tlbMiss_pma, trap_pma]

@[simp] theorem vecMem_pma (s : State) (h : HartId) (store : Bool) (ad : VAddr) (eew : AccSize) (nf vd : Nat) (rs1 : Fin 32) (masked : Bool) :
    (s.vecMem h store ad eew nf vd rs1 masked).pma = s.pma := by
  unfold State.vecMem
  grind [vstore_pma, vloadLoop_pma, legally_pma, illegal_pma]

theorem execVectorInstruction_pma {h : HartId} {i : VInstr} {s : State} {s' : State} (hr : execVectorInstruction h i s = .next s') :
    s'.pma = s.pma := by
  unfold execVectorInstruction at hr
  grind [vecMem_pma, vecArith_pma, onHart_pma]
end Sys2Proof.Machine
end

section
/-!
CLAIM. No step puts an illegal entry into the PMA table (R30, R34, R38, R39).
-/
namespace Sys2Proof.Machine

/-! ### What a commit, a reset and the boot flow leave in the PMA table (R30, R34, R38, R39) -/

/-- What holds of every entry of a table and of a new entry holds of every entry after the write. -/
theorem all_tabPut {α : Type} {P : Nat × α → Bool} {t : Tab α} {k : Nat} {v : α} (ht : t.all P = true) (hv : P (k, v) = true) :
    (tabPut t k v).all P = true := by
  induction t with
  | nil => simpa [tabPut] using hv
  | cons x t ih =>
    obtain ⟨j, w⟩ := x
    simp only [List.all_cons, Bool.and_eq_true] at ht
    simp only [tabPut]
    split
    · simp only [List.all_cons, hv, ht.1, ht.2, Bool.and_self]
    · split
      · simp only [List.all_cons, hv, ht.2, Bool.and_self]
      · simp only [List.all_cons, ht.1, ih ht.2, Bool.and_self]

/-- Writing a legal entry below 32 keeps a table legal (R30). -/
theorem pmaLegal_tabSet {t : Tab PmaEntry} {k : Nat} {e : PmaEntry} (ht : pmaLegal t = true) (hk : k < 32) (he : e.err = 0) :
    pmaLegal (tabSet .empty t k e) = true := by
  simp only [pmaLegal, Bool.and_eq_true] at ht ⊢
  obtain ⟨hwf, hall⟩ := ht
  refine ⟨tabWf_tabSet _ _ _ _ hwf, ?_⟩
  unfold tabSet
  split
  · rw [List.all_eq_true] at hall ⊢
    exact fun x hx => hall x (List.mem_of_mem_filter hx)
  · exact all_tabPut hall (by simp [hk, he])

theorem Pma.wf_iff (p : Pma) :
    p.wf = true ↔ pmaLegal p.entries = true ∧ pmaLegal p.masters = true ∧ (p.busy = true ∨ p.masters = p.entries) := by
  simp [Pma.wf, and_assoc]

/-- Legality speaks of the entries, the copies and BUSY alone. -/
theorem Pma.wf_congr {p q : Pma} (he : q.entries = p.entries) (hm : q.masters = p.masters) (hb : q.busy = p.busy) : q.wf = p.wf := by
  simp only [Pma.wf, he, hm, hb]

/-- A commit writes a legal entry or none (R30), and none while one goes out (R38). -/
theorem Pma.commit_wf {p : Pma} (hp : p.wf = true) : p.commit.wf = true := by
  unfold Pma.commit
  split
  · exact hp
  · split
    · exact hp
    · split
      · exact hp
      · next hs =>
        obtain ⟨he, hm, -⟩ := (Pma.wf_iff p).1 hp
        exact (Pma.wf_iff _).2 ⟨pmaLegal_tabSet he p.index.isLt (not_not.1 hs), hm, .inl rfl⟩

theorem Pma.ctl_wf {p : Pma} (v m : Word) (hp : p.wf = true) : (p.ctl v m).wf = true := by
  have hi : ∀ q : Pma, q.wf = true → (if (v &&& m).getLsbD 12 then q.commit else q).wf = true := fun q hq => by
    split
    · exact Pma.commit_wf hq
    · exact hq
  unfold Pma.ctl
  refine (Pma.wf_congr ?_ ?_ ?_).trans (hi (if p.lock || !(m.getLsbD 0) then p else { p with index := BitVec.ofNat 5 (fld v 4 0) }) ?_)
  · rfl
  · rfl
  · rfl
  · split <;> exact hp

theorem pmaCtl_pmaWf {s : State} (v m : Word) (hs : s.pma.wf = true) : (s.pmaCtl v m).pma.wf = true := by
  rw [State.pmaCtl, driveBrine_pma]
  exact Pma.ctl_wf v m hs

theorem regWrite_pmaWf {s : State} (who : Master) (r : DevReg) (v m : Word) (hs : s.pma.wf = true) :
    (s.regWrite who r v m).pma.wf = true := by
  unfold State.regWrite
  split
  case h_4 => exact pmaCtl_pmaWf v m hs
  case h_5 => dsimp only; split <;> exact hs
  case h_6 => dsimp only; split <;> exact hs
  case h_7 => dsimp only; split <;> exact hs
  all_goals simpa [ite_pma] using hs

theorem devPut_pmaWf {s : State} (who : Master) (la : Nat) (v m : Word) (hs : s.pma.wf = true) : (s.devPut who la v m).pma.wf = true := by
  unfold State.devPut
  split
  · exact hs
  · dsimp only
    split
    · exact regWrite_pmaWf _ _ _ _ hs
    · split
      · exact hs
      · rw [writeIgnored_pma]; exact hs

theorem devWrite4_pmaWf {s : State} (who : Master) (la v : Nat) (hs : s.pma.wf = true) : (s.devWrite4 who la v).pma.wf = true :=
  devPut_pmaWf _ _ _ _ hs

theorem devWrite_pmaWf {s : State} (who : Master) (la n v : Nat) (hs : s.pma.wf = true) : (s.devWrite who la n v).pma.wf = true := by
  unfold State.devWrite
  split
  · exact devWrite4_pmaWf _ _ _ hs
  · split
    · exact devPut_pmaWf _ _ _ _ hs
    · exact devWrite4_pmaWf _ _ _ (devWrite4_pmaWf _ _ _ hs)

theorem devWrites_pmaWf (who : Master) (b : Nat) (d : Line) (l : List (Nat × Nat)) {s : State} (hs : s.pma.wf = true) :
    (s.devWrites who b d l).pma.wf = true := by
  induction l generalizing s with
  | nil => exact hs
  | cons x l ih => exact ih (devWrite_pmaWf _ _ _ _ hs)

theorem writeAtDevice_pmaWf {s : State} (f : Flit) (hs : s.pma.wf = true) : (s.writeAtDevice f).pma.wf = true := by
  unfold State.writeAtDevice
  split
  · rwa [send_pma]
  · split
    · rwa [failWrite_pma]
    · rw [send_pma]; exact devWrites_pmaWf _ _ _ _ hs

theorem landWrite_pmaWf {s : State} (f : Flit) (hs : s.pma.wf = true) : (s.landWrite f).pma.wf = true := by
  unfold State.landWrite
  split
  · exact hs
  · split
    · rwa [atLink_pma]
    · split
      · rwa [pokeLine_pma]
      · rwa [pokeLine_pma]
      · split
        · exact devWrites_pmaWf _ _ _ _ hs
        · exact hs
      · exact hs

theorem foldl_pmaWf {α : Type} {f : State → α → State} (hf : ∀ u a, u.pma.wf = true → (f u a).pma.wf = true) (l : List α) {s : State}
    (hs : s.pma.wf = true) : (l.foldl f s).pma.wf = true := by
  induction l generalizing s with
  | nil => exact hs
  | cons a l ih => exact ih (hf _ _ hs)

theorem reset_pmaWf : State.reset.pma.wf = true := by decide

/-- A warm reset restores the table of R39, whatever its writes in flight did before. -/
theorem warmBase_pmaWf (s : State) (ns : Nat) : (s.warmBase ns).pma.wf = true := reset_pmaWf

theorem coldBase_pmaWf (s : State) (k : Bool) : (s.coldBase k).pma.wf = true := reset_pmaWf

theorem startRennet_pmaWf {s : State} (k : Nat) (hs : s.pma.wf = true) : (s.startRennet k).pma.wf = true := by
  have h : (s.runImage 0 k).pma.wf = true := by rwa [runImage_pma]
  exact h

theorem startMemory_pmaWf {s : State} (n : Nat) (hs : s.pma.wf = true) : (s.startMemory n).pma.wf = true := by
  have h : ∀ u : State, u.pma = s.pma → ∀ v, Pma.wf { u.pma with dramTop := v } = true := fun u hu v => by rw [hu]; exact hs
  unfold State.startMemory
  dsimp only
  split
  · exact hs
  · exact h _ (by simp only [trainChans_pma]) _

theorem rennetReg_pmaWf {s : State} (la n v : Nat) (hs : s.pma.wf = true) : (s.rennetReg la n v).pma.wf = true := by
  have hr : ∀ k, (s.rindRefuse k).pma.wf = true := fun k => by rwa [rindRefuse_pma]
  unfold State.rennetReg
  dsimp only
  split
  · split
    · exact hr 2
    · exact hs
  · split
    · exact hr 2
    · exact hs
  · split
    · exact hr 2
    · split
      · exact hr 2
      · exact hs
  · split
    · exact regWrite_pmaWf _ _ _ _ hs
    · exact hr 2

theorem r31Write_pmaWf {s : State} (r : DevReg) (la : Nat) (n : Node) (who : Master) {f : State → State} (hf : (f s).pma.wf = true)
    (hs : s.pma.wf = true) : (s.r31Write r la n who f).pma.wf = true := by
  unfold State.r31Write
  split
  · exact hf
  · split
    · rwa [refuseStore_pma]
    · rwa [writeIgnored_pma]

/-! ### Every command -/

section
variable {s t : State} (hs : s.pma.wf = true)
include hs

theorem execRegisterWrite_pmaWf {who : Master} {a : La} {size : AccSize} {v : Word} (h : execRegisterWrite who a size v s = .next t) :
    t.pma.wf = true := by
  cases h
  split
  · exact hs
  · split
    · split
      · rwa [refuseStore_pma]
      · split
        · rwa [refuseStore_pma]
        · exact devWrite_pmaWf _ _ _ _ hs
    · split
      · exact hs
      · exact devWrite_pmaWf _ _ _ _ hs

theorem execPmaCommit_pmaWf {who : Master} {v : BitVec 32} (h : execPmaCommit who v s = .next t) : t.pma.wf = true := by
  cases h
  exact r31Write_pmaWf _ _ _ _ (pmaCtl_pmaWf _ _ hs) hs

theorem execPmaLock_pmaWf {who : Master} {v : BitVec 32} (h : execPmaLock who v s = .next t) : t.pma.wf = true := by
  cases h
  exact r31Write_pmaWf _ _ _ _ (pmaCtl_pmaWf _ _ hs) hs

/-- When a commit has gone out, the copies are the entries (R38). -/
theorem execPmaCommitDone_pmaWf (h : execPmaCommitDone s = .next t) : t.pma.wf = true := by
  cases h
  split
  · obtain ⟨he, -, -⟩ := (Pma.wf_iff _).1 hs
    exact (Pma.wf_iff _).2 ⟨he, he, .inr rfl⟩
  · exact hs

omit hs in
theorem execColdReset_pmaWf {ok : Bool} (hs : s.pma.wf = true) (h : execColdReset ok s = .next t) : t.pma.wf = true := by
  have hb : (((s.coldBase (s.flushOutcome == 1)).applyCommit 0).applyCommit 1).pma.wf = true := by
    simpa only [applyCommit_pma] using coldBase_pmaWf s _
  cases h
  split
  · exact hs
  · dsimp only
    split
    · exact hb
    · rw [startHost_pma]
      exact startMemory_pmaWf _ (startRennet_pmaWf _ hb)

theorem execWarmReset_pmaWf {ns : Nat} (h : execWarmReset ns s = .next t) : t.pma.wf = true := by
  have hk : ∀ w : State, w.pma.wf = true → ∀ ok, (State.startHost (State.driveBrine (if w.ren.up then { w with ren := { w.ren with lastBeat := w.time } }
      else (List.range 32).foldl State.mbDown w)) ok).pma.wf = true := fun w hw ok => by
    rwa [startHost_pma, driveBrine_pma, ite_pma, foldl_pma fun u n => mbDown_pma u n, ite_self]
  have hw : ((s.quiesce.warmBase ns).wakeChannels).pma.wf = true := by rw [wakeChannels_pma]; exact warmBase_pmaWf _ _
  cases h
  split
  · exact hs
  · exact hk _ hw _

theorem onFlit_pmaWf (f : Flit) {g : State → State} (hg : ∀ u, u.pma.wf = true → (g u).pma.wf = true) : (s.onFlit f g).pma.wf = true := by
  unfold State.onFlit
  split <;> simp_all

theorem execWriteNc_pmaWf {f : Flit} (h : execWriteNc f s = .next t) : t.pma.wf = true := by
  cases h
  refine onFlit_pmaWf hs _ fun u hu => ?_
  split
  · rwa [atLink_pma]
  · split
    · rwa [serve_pma]
    · rwa [writeAtMgmt_pma, accept_pma]
    · rwa [writeAtMgmt_pma, accept_pma]
    · exact writeAtDevice_pmaWf _ hu
    · rwa [outbound_pma]
    · rwa [failWrite_pma, accept_pma]

theorem execRennetAccess_pmaWf {r : RennetTarget} (h : execRennetAccess r s = .next t) : t.pma.wf = true := by
  cases h
  split
  · exact hs
  · split
    case h_2 =>
      dsimp only
      split
      · exact hs
      · split
        · exact rennetReg_pmaWf _ _ _ hs
        · rwa [devRead_pma]
    case h_3 => split <;> simp [ite_pma, hs]
    all_goals simp [ite_pma, hs]

/-- No command puts an illegal entry into the PMA table: those that write it keep it legal, and every other leaves its registers alone. -/
theorem exec_pmaWf {c : Instr} (h : exec c s = .next t) : t.pma.wf = true := by
  have keep : t.pma = s.pma → t.pma.wf = true := fun e => e ▸ hs
  cases c with
  | registerWrite => exact execRegisterWrite_pmaWf hs h
  | pmaCommit => exact execPmaCommit_pmaWf hs h
  | pmaCommitDone => exact execPmaCommitDone_pmaWf hs h
  | pmaLock => exact execPmaLock_pmaWf hs h
  | integerInstruction => exact keep (execIntegerInstruction_pma h)
  | fpInstruction => exact keep (execFpInstruction_pma h)
  | vectorInstruction => exact keep (execVectorInstruction_pma h)
  | vectorConfig => exact keep (execVectorConfig_pma h)
  | load => exact keep (execLoad_pma h)
  | store => exact keep (execStore_pma h)
  | storeDrain => exact keep (execStoreDrain_pma h)
  | streamEndTimeout => exact keep (execStreamEndTimeout_pma h)
  | amo => exact keep (execAmo_pma h)
  | lr => exact keep (execLr_pma h)
  | sc => exact keep (execSc_pma h)
  | amocas => exact keep (execAmocas_pma h)
  | lrDeferralExpiry => exact keep (execLrDeferralExpiry_pma h)
  | xpld => exact keep (execXpld_pma h)
  | xpst => exact keep (execXpst_pma h)
  | fence => exact keep (execFence_pma h)
  | fenceTso => exact keep (execFenceTso_pma h)
  | fenceWaitEnd => exact keep (execFenceWaitEnd_pma h)
  | xfenceP => exact keep (execXfenceP_pma h)
  | fenceI => exact keep (execFenceI_pma h)
  | cboClean => exact keep (execCboClean_pma h)
  | cboFlush => exact keep (execCboFlush_pma h)
  | cboInval => exact keep (execCboInval_pma h)
  | cboZero => exact keep (execCboZero_pma h)
  | prefetchHint => exact keep (execPrefetchHint_pma h)
  | csrWrite => exact keep (execCsrWrite_pma h)
  | wfi => exact keep (execWfi_pma h)
  | xret => exact keep (execXret_pma h)
  | ecall => exact keep (execEcall_pma h)
  | ebreak => exact keep (execEbreak_pma h)
  | pause => exact keep (execPause_pma h)
  | controlTransferResolve => exact keep (execControlTransferResolve_pma h)
  | exceptionTake => exact keep (execExceptionTake_pma h)
  | interruptTake => exact keep (execInterruptTake_pma h)
  | mdpClear => exact keep (execMdpClear_pma h)
  | xpredBar1 => exact keep (execXpredBar1_pma h)
  | xpredBar0 => exact keep (execXpredBar0_pma h)
  | xpredFlush => exact keep (execXpredFlush_pma h)
  | xwayClean => exact keep (execXwayClean_pma h)
  | xwayCinv => exact keep (execXwayCinv_pma h)
  | xbrDrain => exact keep (execXbrDrain_pma h)
  | xmouldModeSet => exact keep (execXmouldModeSet_pma h)
  | mouldEntry => exact keep (execMouldEntry_pma h)
  | xmouldModeClear => exact keep (execXmouldModeClear_pma h)
  | scoreTrapEntry => exact keep (execScoreTrapEntry_pma h)
  | lateArrivalTakeover => exact keep (execLateArrivalTakeover_pma h)
  | uncachedTimeout => exact keep (execUncachedTimeout_pma h)
  | ewaEndpointFailure => exact keep (execEwaEndpointFailure_pma h)
  | lineRead => exact keep (execLineRead_pma h)
  | lineOwn => exact keep (execLineOwn_pma h)
  | linePromote => exact keep (execLinePromote_pma h)
  | lineClaim => exact keep (execLineClaim_pma h)
  | maskFill => exact keep (execMaskFill_pma h)
  | cleanKeep => exact keep (execCleanKeep_pma h)
  | cleanDrop => exact keep (execCleanDrop_pma h)
  | discardLine => exact keep (execDiscardLine_pma h)
  | prefetchRead => exact keep (execPrefetchRead_pma h)
  | prefetchOwn => exact keep (execPrefetchOwn_pma h)
  | readNc => exact keep (execReadNc_pma h)
  | writeNc => exact execWriteNc_pmaWf hs h
  | atomicNc => exact keep (execAtomicNc_pma h)
  | returnDirty => exact keep (execReturnDirty_pma h)
  | returnClean => exact keep (execReturnClean_pma h)
  | probeShare => exact keep (execProbeShare_pma h)
  | probeTake => exact keep (execProbeTake_pma h)
  | probeKill => exact keep (execProbeKill_pma h)
  | probeClean => exact keep (execProbeClean_pma h)
  | dataGrant => exact keep (execDataGrant_pma h)
  | grant => exact keep (execGrant_pma h)
  | probeAck => exact keep (execProbeAck_pma h)
  | probeData => exact keep (execProbeData_pma h)
  | grantAck => exact keep (execGrantAck_pma h)
  | writeDone => exact keep (execWriteDone_pma h)
  | readReturn => exact keep (execReadReturn_pma h)
  | dropped => exact keep (execDropped_pma h)
  | errorReply => exact keep (execErrorReply_pma h)
  | returnAck => exact keep (execReturnAck_pma h)
  | homeTransactionOpen => exact keep (execHomeTransactionOpen_pma h)
  | victimEntryFreed => exact keep (execVictimEntryFreed_pma h)
  | victimWriteIssue => exact keep (execVictimWriteIssue_pma h)
  | flitRoute => exact keep (execFlitRoute_pma h)
  | creditReturn => exact keep (execCreditReturn_pma h)
  | meshWheelReserve => exact keep (execMeshWheelReserve_pma h)
  | meshWheelRelease => exact keep (execMeshWheelRelease_pma h)
  | wheelReleaseSlotsFree => exact keep (execWheelReleaseSlotsFree_pma h)
  | meshWheelQuery => exact keep (execMeshWheelQuery_pma h)
  | memRead => exact keep (execMemRead_pma h)
  | memWrite => exact keep (execMemWrite_pma h)
  | memWriteMasked => exact keep (execMemWriteMasked_pma h)
  | channelLineAccess => exact keep (execChannelLineAccess_pma h)
  | writePhaseTimeout => exact keep (execWritePhaseTimeout_pma h)
  | readBurstReturn => exact keep (execReadBurstReturn_pma h)
  | writeCrcResult => exact keep (execWriteCrcResult_pma h)
  | shortRetrainDone => exact keep (execShortRetrainDone_pma h)
  | rowIdleClose => exact keep (execRowIdleClose_pma h)
  | refreshDue => exact keep (execRefreshDue_pma h)
  | deviceTempRead => exact keep (execDeviceTempRead_pma h)
  | writeTimingCheck ch => exact keep (execWriteTimingCheck_pma (ch := ch) h)
  | scrubRead => exact keep (execScrubRead_pma h)
  | pageThreshold => exact keep (execPageThreshold_pma h)
  | mcInjArm => exact keep (execMcInjArm_pma h)
  | memTrain => exact keep (execMemTrain_pma h)
  | memChannelStatus => exact keep (execMemChannelStatus_pma h)
  | memScrubSet => exact keep (execMemScrubSet_pma h)
  | memPageRetire => exact keep (execMemPageRetire_pma h)
  | memRetireList => exact keep (execMemRetireList_pma h)
  | walkPteReadDone => exact keep (execWalkPteReadDone_pma h)
  | adUpdate => exact keep (execAdUpdate_pma h)
  | sfenceVma => exact keep (execSfenceVma_pma h)
  | hfenceVvma => exact keep (execHfenceVvma_pma h)
  | hfenceGvma => exact keep (execHfenceGvma_pma h)
  | iommuTranslate => exact keep (execIommuTranslate_pma h)
  | iotinvalVma => exact keep (execIotinvalVma_pma h)
  | iotinvalGvma => exact keep (execIotinvalGvma_pma h)
  | iodirInvalDdt => exact keep (execIodirInvalDdt_pma h)
  | iodirInvalPdt => exact keep (execIodirInvalPdt_pma h)
  | iofenceC => exact keep (execIofenceC_pma h)
  | iofenceCComplete => exact keep (execIofenceCComplete_pma h)
  | linkFrameSend => exact keep (execLinkFrameSend_pma h)
  | dataFrame => exact keep (execDataFrame_pma h)
  | idleFrame => exact keep (execIdleFrame_pma h)
  | syncFrame => exact keep (execSyncFrame_pma h)
  | trainFrame l => exact keep (execTrainFrame_pma (l := l) h)
  | helloFrame => exact keep (execHelloFrame_pma h)
  | syncSend l => exact keep (execSyncSend_pma (l := l) h)
  | frameLockLost => exact keep (execFrameLockLost_pma h)
  | linkRecoveryDone => exact keep (execLinkRecoveryDone_pma h)
  | linkDown => exact keep (execLinkDown_pma h)
  | linkRemoveFromGroup => exact keep (execLinkRemoveFromGroup_pma h)
  | linkRetry => exact keep (execLinkRetry_pma h)
  | fabricBringupTimeout => exact keep (execFabricBringupTimeout_pma h)
  | rdNc => exact keep (execRdNc_pma h)
  | wrNc => exact keep (execWrNc_pma h)
  | atomNc => exact keep (execAtomNc_pma h)
  | blkRd => exact keep (execBlkRd_pma h)
  | blkWr => exact keep (execBlkWr_pma h)
  | rdData => exact keep (execRdData_pma h)
  | wrAck => exact keep (execWrAck_pma h)
  | atomData => exact keep (execAtomData_pma h)
  | errResp => exact keep (execErrResp_pma h)
  | routeAdv => exact keep (execRouteAdv_pma h)
  | routeWithdraw => exact keep (execRouteWithdraw_pma h)
  | linkNotice => exact keep (execLinkNotice_pma h)
  | tagEntryTimeout => exact keep (execTagEntryTimeout_pma h)
  | glInjArm => exact keep (execGlInjArm_pma h)
  | fabricRouteQuery => exact keep (execFabricRouteQuery_pma h)
  | fabricLinkStatus => exact keep (execFabricLinkStatus_pma h)
  | fabricLinkDisable => exact keep (execFabricLinkDisable_pma h)
  | fabricLinkDisableDrained => exact keep (execFabricLinkDisableDrained_pma h)
  | fabricLinkEnable => exact keep (execFabricLinkEnable_pma h)
  | fabricInboundSet => exact keep (execFabricInboundSet_pma h)
  | fabricTimeStatus => exact keep (execFabricTimeStatus_pma h)
  | deCmdStart => exact keep (execDeCmdStart_pma h)
  | deCmdAbort => exact keep (execDeCmdAbort_pma h)
  | deCmdClear => exact keep (execDeCmdClear_pma h)
  | deCmdDropsh => exact keep (execDeCmdDropsh_pma h)
  | shCtlValidSet => exact keep (execShCtlValidSet_pma h)
  | engineIssue => exact keep (execEngineIssue_pma h)
  | channelSetLoad => exact keep (execChannelSetLoad_pma h)
  | descriptorFetchReturn => exact keep (execDescriptorFetchReturn_pma h)
  | inCtlReset => exact keep (execInCtlReset_pma h)
  | instanceResetDrainDone => exact keep (execInstanceResetDrainDone_pma h)
  | inDeniedRead => exact keep (execInDeniedRead_pma h)
  | instanceCreate => exact keep (execInstanceCreate_pma h)
  | instanceDestroy => exact keep (execInstanceDestroy_pma h)
  | instanceReset => exact keep (execInstanceReset_pma h)
  | instanceQuery => exact keep (execInstanceQuery_pma h)
  | wiredInputChange => exact keep (execWiredInputChange_pma h)
  | aplicSourcecfgWrite who => exact keep (execAplicSourcecfgWrite_pma (who := who) h)
  | aplicMsiSend => exact keep (execAplicMsiSend_pma h)
  | imsicSeteipnum => exact keep (execImsicSeteipnum_pma h)
  | imsicTopeiClaim => exact keep (execImsicTopeiClaim_pma h)
  | machineTimerMatch => exact keep (execMachineTimerMatch_pma h)
  | gpioEdge => exact keep (execGpioEdge_pma h)
  | evswPulse => exact keep (execEvswPulse_pma h)
  | tickGeneratorPulse => exact keep (execTickGeneratorPulse_pma h)
  | eventFlit => exact keep (execEventFlit_pma h)
  | coreCounterWrap => exact keep (execCoreCounterWrap_pma h)
  | bankCounterWrap => exact keep (execBankCounterWrap_pma h)
  | pmBankClr => exact keep (execPmBankClr_pma h)
  | bandwidthWindowEnd => exact keep (execBandwidthWindowEnd_pma h)
  | pmBwmaxRead who => exact keep (execPmBwmaxRead_pma (who := who) h)
  | ladleEnable => exact keep (execLadleEnable_pma h)
  | ladleSnap => exact keep (execLadleSnap_pma h)
  | ladlePeriodTrigger => exact keep (execLadlePeriodTrigger_pma h)
  | ladleLatch => exact keep (execLadleLatch_pma h)
  | ladleSnapshotDone => exact keep (execLadleSnapshotDone_pma h)
  | mbDoorbell => exact keep (execMbDoorbell_pma h)
  | mbStatusAck => exact keep (execMbStatusAck_pma h)
  | mbCommandComplete => exact keep (execMbCommandComplete_pma h)
  | i3cPrivateTransfer => exact keep (execI3cPrivateTransfer_pma h)
  | rennetInfo => exact keep (execRennetInfo_pma h)
  | mailboxAssign => exact keep (execMailboxAssign_pma h)
  | noticeRead => exact keep (execNoticeRead_pma h)
  | cacheWaygroupSet => exact keep (execCacheWaygroupSet_pma h)
  | waygroupScanDone => exact keep (execWaygroupScanDone_pma h)
  | powerLimitSet => exact keep (execPowerLimitSet_pma h)
  | powerFreqSet => exact keep (execPowerFreqSet_pma h)
  | powerMeshFreqSet => exact keep (execPowerMeshFreqSet_pma h)
  | powerStatus => exact keep (execPowerStatus_pma h)
  | powerDomainSet => exact keep (execPowerDomainSet_pma h)
  | brineStatus => exact keep (execBrineStatus_pma h)
  | brineJournalStore => exact keep (execBrineJournalStore_pma h)
  | brineJournalLoad => exact keep (execBrineJournalLoad_pma h)
  | attestQuote => exact keep (execAttestQuote_pma h)
  | certChainRead => exact keep (execCertChainRead_pma h)
  | debugLevelSet => exact keep (execDebugLevelSet_pma h)
  | fwStage => exact keep (execFwStage_pma h)
  | fwCommit => exact keep (execFwCommit_pma h)
  | errorLogRead => exact keep (execErrorLogRead_pma h)
  | rennetAccess => exact execRennetAccess_pmaWf hs h
  | rindHeartbeat => exact keep (execRindHeartbeat_pma h)
  | heartbeatTimeout => exact keep (execHeartbeatTimeout_pma h)
  | lockstepMismatch => exact keep (execLockstepMismatch_pma h)
  | rennetRestartDone => exact keep (execRennetRestartDone_pma h)
  | errorRecordCopy => exact keep (execErrorRecordCopy_pma h)
  | esRecordFree => exact keep (execEsRecordFree_pma h)
  | coreFatalError => exact keep (execCoreFatalError_pma h)
  | pkgFatalError => exact keep (execPkgFatalError_pma h)
  | idleC2Entry => exact keep (execIdleC2Entry_pma h)
  | idleC3Entry => exact keep (execIdleC3Entry_pma h)
  | powerDomainOff => exact keep (execPowerDomainOff_pma h)
  | hartWake => exact keep (execHartWake_pma h)
  | packageRetentionEntry => exact keep (execPackageRetentionEntry_pma h)
  | packageRetentionExit => exact keep (execPackageRetentionExit_pma h)
  | powerSample => exact keep (execPowerSample_pma h)
  | thermalSample => exact keep (execThermalSample_pma h)
  | holdupEnergyRead => exact keep (execHoldupEnergyRead_pma h)
  | holdupReadingStale => exact keep (execHoldupReadingStale_pma h)
  | tokenRefill => exact keep (execTokenRefill_pma h)
  | pfailNFall => exact keep (execPfailNFall_pma h)
  | powerFailFlush => exact keep (execPowerFailFlush_pma h)
  | lifeLedgerSample => exact keep (execLifeLedgerSample_pma h)
  | lifeLedgerSave => exact keep (execLifeLedgerSave_pma h)
  | agingMonitorRead => exact keep (execAgingMonitorRead_pma h)
  | dbgAuthSubmit => exact keep (execDbgAuthSubmit_pma h)
  | tokenCheckDone => exact keep (execTokenCheckDone_pma h)
  | dbgWake => exact keep (execDbgWake_pma h)
  | dmHaltRequest => exact keep (execDmHaltRequest_pma h)
  | dmResumeRequest => exact keep (execDmResumeRequest_pma h)
  | dmAbstractCommand => exact keep (execDmAbstractCommand_pma h)
  | systemBusAccess => exact keep (execSystemBusAccess_pma h)
  | coldReset => exact execColdReset_pmaWf hs h
  | warmReset => exact execWarmReset_pmaWf hs h
  | hartReset => exact keep (execHartReset_pma h)
  | hartSelfTestDone => exact keep (execHartSelfTestDone_pma h)
  | firstHostInstruction => exact keep (execFirstHostInstruction_pma h)
  | pcieMemoryRead => exact keep (execPcieMemoryRead_pma h)
  | pcieMemoryWrite => exact keep (execPcieMemoryWrite_pma h)
  | pcieAtomicOp => exact keep (execPcieAtomicOp_pma h)
  | pcieMsiWrite => exact keep (execPcieMsiWrite_pma h)
  | pcieCompletion => exact keep (execPcieCompletion_pma h)
  | pcieLinkEvent => exact keep (execPcieLinkEvent_pma h)
  | supervisorTimerMatch => exact keep (execSupervisorTimerMatch_pma h)

end

/-- Settles O60: the command at the front of the queue keeps the table legal, and so does a nanosecond without a command. -/
theorem pmaTableStaysLegal : Obligations.PmaTableStaysLegal := by
  intro s t hs h
  unfold step at h
  split at h
  · cases h; rwa [tick_pma]
  · next rest _ => exact exec_pmaWf (s := { s with pending := rest }) hs h
end Sys2Proof.Machine
end

section
/-!
SUPPORT and PROOFS. What a write that the rule of R31 admits or refuses does, the PMA registers (R30 to R38), and the reset state.
-/
namespace Sys2Proof.Machine

section
variable {s : State} {h : HartId}

/-! ### Writes under the rule of R31 -/

theorem refuseStore_of_issues (cause la : Nat) (hi : s.issues h = true) :
    s.refuseStore h cause la = s.trap h (excep cause (BitVec.ofNat 64 (s.pma.pkgId.toNat * 2 ^ 47 + la))) :=
  onHart_of_issues s h 4 _ hi

theorem mayWrite_r31_hart (h : HartId) {md : Mode} (hm : md ≠ .m) : mayWrite .r31 (.hart h md) = false := by
  simpa [mayWrite] using hm

theorem r31Write_admitted {who : Master} (r : DevReg) (la : Nat) (n : Node) (f : State → State) (hw : mayWrite .r31 who = true) :
    s.r31Write r la n who f = f s := if_pos hw

/-- An executing hart below M-mode takes a store access fault (R31). -/
theorem r31Write_hart_refused {md : Mode} (r : DevReg) (la : Nat) (n : Node) (f : State → State) (hm : md ≠ .m) (hi : s.issues h = true) :
    s.r31Write r la n (.hart h md) f = s.trap h (excep 7 (BitVec.ofNat 64 (s.pma.pkgId.toNat * 2 ^ 47 + la))) := by
  simp [State.r31Write, mayWrite_r31_hart h hm, refuseStore_of_issues 7 la hi]

end

/-! ### Source levels (R386) -/

/-- Driving a source leaves every other source and, of the state, all but the sources. -/
theorem wire_eq (s : State) (n : Nat) (lv : Bool) : s.wire n lv = { s with irq := { s.irq with src := (s.wire n lv).irq.src } } := rfl

theorem wire_source_ne (s : State) {n k : Nat} (lv : Bool) (hk : k ≠ n) : (s.wire n lv).source k = s.source k :=
  tabGet_tabSet_ne _ _ _ _ _ hk

/-! ### The commit and the lock (R30, R34, R38) -/

section
variable (p : Pma)

/-- INDEX as a write leaves it: LOCK keeps it (R34). -/
def Pma.atIndex (v : BitVec 32) : Pma := if p.lock then p else { p with index := v.setWidth 5 }

theorem ofNat_fld_index {v c : BitVec 32} (hc : c.setWidth 5 = 0) : BitVec.ofNat 5 (fld ((v ||| c).setWidth 64 : Word) 4 0) = v.setWidth 5 := by
  have hlow : (v ||| c).setWidth 5 = v.setWidth 5 := by rw [BitVec.setWidth_or, hc]; exact BitVec.or_zero
  rw [← hlow]
  apply BitVec.eq_of_toNat_eq
  have hlt := (v ||| c).isLt
  simp only [fld, BitVec.toNat_setWidth, BitVec.toNat_ofNat, Nat.shiftRight_zero]
  omega

/-- A write of all of MS_PMA_CTL, with COMMIT or LOCK as given. -/
theorem Pma.ctl_all {v c : BitVec 32} {commit lock : Bool} (hi : c.setWidth 5 = 0) (hc : (v ||| c).getLsbD 12 = commit) (hl : (v ||| c).getLsbD 31 = lock) :
    p.ctl ((v ||| c).setWidth 64) 0xFFFF_FFFF =
      let q := if commit then (p.atIndex v).commit else p.atIndex v
      { q with lock := q.lock || lock } := by
  have hm : (0xFFFF_FFFF : Word).getLsbD 0 = true := rfl
  have hc' : (((v ||| c).setWidth 64 : Word) &&& 0xFFFF_FFFF).getLsbD 12 = commit := by
    rw [BitVec.getLsbD_and, BitVec.getLsbD_setWidth, hc]; simp
  have hl' : (((v ||| c).setWidth 64 : Word) &&& 0xFFFF_FFFF).getLsbD 31 = lock := by
    rw [BitVec.getLsbD_and, BitVec.getLsbD_setWidth, hl]; simp
  unfold Pma.ctl Pma.atIndex
  simp only [ofNat_fld_index hi, hm, hc', hl', Bool.not_true, Bool.or_false]

theorem Pma.ctl_commit {v : BitVec 32} (hv : v.getLsbD 31 = false) :
    p.ctl ((v ||| 0x1000).setWidth 64) 0xFFFF_FFFF = (p.atIndex v).commit := by
  rw [p.ctl_all (commit := true) (lock := false) rfl (by simp) (by rw [BitVec.getLsbD_or, hv]; rfl)]
  simp

theorem Pma.ctl_lock {v : BitVec 32} (hv : v.getLsbD 12 = false) :
    p.ctl ((v ||| 0x8000_0000).setWidth 64) 0xFFFF_FFFF = { p.atIndex v with lock := true } := by
  rw [p.ctl_all (commit := false) (lock := true) rfl (by rw [BitVec.getLsbD_or, hv]; rfl) (by simp)]
  simp

end

theorem reset_hart_t (n : Fin 192) : State.reset.hart (.t n) = Hart.resetT := rfl
theorem reset_hart_s (n : Fin 48) : State.reset.hart (.s n) = Hart.resetS := rfl

theorem getX_of_empty {c : Hart} (hc : c.x = []) (r : Nat) : c.getX r = 0 := by
  unfold Hart.getX
  split
  · rfl
  · rw [hc]; rfl

/-- The four entries of R39 and nothing else. -/
theorem reset_pmaEnt (k : Nat) : tabGet PmaEntry.empty State.reset.pma.entries k =
    if k = 0 then { PmaEntry.empty with base := 0x0, limit := 0xFFFF, tmo := 100, valid := true }
    else if k = 1 then { PmaEntry.empty with base := 0x10000, limit := 0x7FFFF, tmo := 100, io := true, valid := true }
    else if k = 2 then { PmaEntry.empty with base := 0x80000, limit := 0x3FFFFFF, tmo := 100, c := true, valid := true }
    else if k = 3 then { PmaEntry.empty with base := 0x4000000, limit := 0x3FFFFFFFF, tmo := 100, io := true, valid := true }
    else PmaEntry.empty := by
  rcases k with _ | _ | _ | _ | k <;> rfl

/-- Settles O58: the tables are empty at reset, so that every hart, mailbox and way is at its reset value. -/
theorem resetState : Obligations.ResetState := by
  refine ⟨fun h => ?_, reset_pmaEnt, by decide, by decide, rfl, rfl, rfl, rfl, rfl, rfl, by decide, by decide⟩
  cases h with
  | t n => rw [reset_hart_t]; exact ⟨rfl, rfl, getX_of_empty rfl, by decide, rfl, by decide, by decide, by decide, rfl, rfl⟩
  | s n => rw [reset_hart_s]; exact ⟨rfl, rfl, getX_of_empty rfl, by decide, rfl, by decide, by decide, by decide, rfl, rfl⟩

/-! ### O28 -/

theorem execPmaCommitDone_busy {s : State} (hb : s.pma.busy = true) :
    execPmaCommitDone s = .next { s with pma := { s.pma with masters := s.pma.entries, busy := false } } := by
  unfold execPmaCommitDone
  rw [if_pos hb]
  rfl

/-- What a commit leaves (R30, R34, R38): the four outcomes, over the PMA registers alone. -/
theorem Pma.commit_outcomes (p : Pma) (v : BitVec 32) :
    let q := (p.atIndex v).commit
    (p.lock = true → q = { p with err := 4 }) ∧
    (p.lock = false → p.busy = true → q = { p with index := v.setWidth 5, err := 3 }) ∧
    (p.lock = false → p.busy = false → p.staged.err ≠ 0 → q = { p with index := v.setWidth 5, err := BitVec.ofNat 4 p.staged.err }) ∧
    (p.lock = false → p.busy = false → p.staged.err = 0 →
      q = { p with index := v.setWidth 5, err := 0, busy := true, entries := tabSet .empty p.entries (v.toNat % 32) p.staged }) := by
  refine ⟨fun hl => ?_, fun hl hb => ?_, fun hl hb he => ?_, fun hl hb he => ?_⟩
  · simp [Pma.commit, Pma.atIndex, hl]
  all_goals
    rw [show p.atIndex v = { p with index := v.setWidth 5 } by simp [Pma.atIndex, hl]]
    unfold Pma.commit
  · rw [if_neg (by simp [hl]), if_pos hb]
  · have hs : ({ p with index := v.setWidth 5 } : Pma).staged.err ≠ 0 := he
    rw [if_neg (by simp [hl]), if_neg (by simp [hb]), if_pos hs]
    rfl
  · have hs : ¬({ p with index := v.setWidth 5 } : Pma).staged.err ≠ 0 := not_not_intro he
    rw [if_neg (by simp [hl]), if_neg (by simp [hb]), if_neg hs]
    simp only [BitVec.toNat_setWidth]
    rfl

/-- Settles O28. COMMIT and LOCK are each one assignment to the PMA registers; only source 353 follows them (R465). -/
theorem pmaRegistersComplete : Obligations.PmaRegistersComplete := by
  refine ⟨fun s who v hw hv => ?_, fun s => ⟨execPmaCommitDone_busy, fun hb => ?_⟩, fun s who v hw hv => ?_, fun s h md v hm hi => ⟨?_, ?_⟩⟩
  · obtain ⟨hlock, hbusy, herr, hok⟩ := s.pma.commit_outcomes v
    refine ⟨(s.setPma ((s.pma.atIndex v).commit)).driveBrine, ?_, rfl, fun n hn => wire_source_ne _ _ hn, hlock, hbusy, herr, fun hl hb he => ?_⟩
    · show execPmaCommit who v s = _
      rw [execPmaCommit, r31Write_admitted _ _ _ _ hw, State.pmaCtl, Pma.ctl_commit _ hv]
    · have hq := hok hl hb he
      rw [show ((s.setPma (s.pma.atIndex v).commit).driveBrine).pma = (s.pma.atIndex v).commit from rfl, hq]
      exact ⟨rfl, fun n => tabGet_tabSet ..⟩
  · show execPmaCommitDone s = _
    unfold execPmaCommitDone
    rw [hb]
    rfl
  · refine ⟨(s.setPma { s.pma.atIndex v with lock := true }).driveBrine, ?_, rfl, fun n hn => wire_source_ne _ _ hn, ?_⟩
    · show execPmaLock who v s = _
      rw [execPmaLock, r31Write_admitted _ _ _ _ hw, State.pmaCtl, Pma.ctl_lock _ hv]
    · show ({ s.pma.atIndex v with lock := true } : Pma) = _
      unfold Pma.atIndex
      split <;> rfl
  · exact congrArg _ (r31Write_hart_refused _ _ _ _ hm hi)
  · exact congrArg _ (r31Write_hart_refused _ _ _ _ hm hi)

end Sys2Proof.Machine
end

section
/-!
SUPPORT and PROOFS. The oldest store of the buffer, one piece at a time (R92, R135, R145, R148), and the end of a stream (R180).
-/
namespace Sys2Proof.Machine

/-! ### Harts of a state -/

/-- Writing a hart changes nothing but the harts. -/
theorem setHart_eq (s : State) (h : HartId) (v : Hart) : s.setHart h v = { s with tcores := (s.setHart h v).tcores, scores := (s.setHart h v).scores } := by
  cases h <;> rfl

@[simp] theorem hart_send (s : State) (f : Flit) (h : HartId) : (s.send f).hart h = s.hart h := by
  cases h <;> rfl

@[simp] theorem hart_updHart_same (s : State) (h : HartId) (f : Hart → Hart) : (s.updHart h f).hart h = f (s.hart h) := hart_setHart_same ..

theorem hart_updHart_ne {s : State} {h g : HartId} (f : Hart → Hart) (hg : g ≠ h) : (s.updHart h f).hart g = s.hart g := hart_setHart_ne _ _ _ _ hg

theorem popPart_track (c : Hart) (p : SbPart) (l : List UWrite) : Hart.popPart { c with track := l } p = { c.popPart p with track := l } := by
  unfold Hart.popPart
  dsimp only
  split <;> rfl

/-! ### The head of the store buffer -/

section
variable {s : State} {h : HartId} {e : SbEntry} {rest : List SbEntry} {k : Fin 64} {p : SbPart}

theorem execStoreDrain_one (s : State) (h : HartId) (k : Fin 64) : exec (.storeDrain ⟨h, false, k⟩) s = .next (s.drainHead h k.val) := rfl

/-- A retired store that waits for nothing drains its piece by the piece's region. -/
theorem drainHead_piece (hsb : (s.hart h).sb = e :: rest) (hr : e.retired = true) (hp : s.phase = .run) (hw : (s.hart h).writeWaits e.seq = false)
    (hk : e.parts[k.val % e.parts.length]? = some p) :
    (p.region = .cached → s.drainHead h k.val = s.drainCached h e p) ∧ (p.region.uncached = true → s.drainHead h k.val = s.drainUncached h e p) := by
  have hg : (!e.retired || s.phase != .run || (s.hart h).writeWaits e.seq) = false := by rw [hr, hp, hw]; rfl
  unfold State.drainHead
  rw [hsb]
  simp only [hg, Bool.false_eq_true, if_false, hk]
  refine ⟨fun hc => by rw [hc], fun hu => ?_⟩
  cases hreg : p.region <;> simp_all [Region.uncached]

theorem drainCached_asks {u : State} (hf : s.missFailed (agentOf h) (lineOf (paLa p.pa)) = false)
    (ho : s.own h (lineOf (paLa p.pa)) 0 (e.zero || (isT h && (s.l2 (agentOf h) (lineOf (paLa p.pa))).st == .i && s.claims (agentOf h) (lineOf (paLa p.pa)))) = some u) :
    s.drainCached h e p = u.trainL2 h (lineOf (paLa p.pa)) true := by
  unfold State.drainCached
  simp only [hf, ho, Bool.false_eq_true, if_false]

theorem drainCached_writes {u : State} (hf : s.missFailed (agentOf h) (lineOf (paLa p.pa)) = false)
    (ho : s.own h (lineOf (paLa p.pa)) 0 (e.zero || (isT h && (s.l2 (agentOf h) (lineOf (paLa p.pa))).st == .i && s.claims (agentOf h) (lineOf (paLa p.pa)))) = none)
    (hd : s.dirty h (paLa p.pa) (atOffset (paLa p.pa % 64) (e.bytesOf p)) (maskOf (paLa p.pa % 64) p.size) p.held = some u) :
    s.drainCached h e p = (u.setHart h ((u.hart h).popPart p)).trainStream h (lineOf (paLa p.pa)) (maskOf (paLa p.pa % 64) p.size) := by
  unfold State.drainCached
  simp only [hf, ho, hd, Bool.false_eq_true, if_false]
  rfl

theorem drainUncached_done (hd : s.dest p.pa p.tmo true = .done 0) : s.drainUncached h e p = s.setHart h ((s.hart h).popPart p) := by
  unfold State.drainUncached
  rw [hd]
  rfl

/-- The tracker entry of an uncached piece (R147, R148). -/
def State.pieceWrite (s : State) (e : SbEntry) (p : SbPart) (nd : Node) (limit tag : Nat) : UWrite :=
  { tag := tag, pa := p.pa, size := p.size, stop := if s.isLocal p.pa = true then nodeStop nd else 1000 + paPkg p.pa, remote := !(s.isLocal p.pa),
    ewa := s.isLocal p.pa && p.ewa, deadline := s.time + limit, seq := e.seq }

/-- The WriteNC of an uncached piece (R145). -/
def State.pieceFlit (s : State) (h : HartId) (e : SbEntry) (p : SbPart) (nd : Node) (rpkg tag : Nat) : Flit :=
  { ncFlit .writeNc (hartNode h) nd (paLa p.pa) tag rpkg (maskOf (paLa p.pa % 64) p.size) with
    data := some (atOffset (paLa p.pa % 64) (e.bytesOf p)), ewa := s.isLocal p.pa && p.ewa, tmo := p.tmo }

theorem drainUncached_sends {nd : Node} {rpkg limit tag : Nat} (hd : s.dest p.pa p.tmo true = .node nd rpkg limit) (hg : s.guarRoom h = true)
    (ht : (s.hart h).writeTag (isT h) = some tag) :
    s.drainUncached h e p =
      ((s.updHart h fun c => { c.useTag tag with track := c.track ++ [s.pieceWrite e p nd limit tag] }).send
        (s.hartClass h (s.pieceFlit h e p nd rpkg tag))).updHart h fun c => c.popPart p := by
  unfold State.drainUncached
  rw [hd]
  simp only [hg, ht, if_true]
  rfl

end

/-- Settles O17: a drain acts on the piece that the statement names, and the region of the piece decides how. -/
theorem storeDrainsBeyondTheCore : Obligations.StoreDrainsBeyondTheCore := by
  refine ⟨?_, fun s h k e he => ?_⟩
  · intro s h e rest k p hsb hr hp hw hk la ln a m claim
    obtain ⟨hcached, huncached⟩ := drainHead_piece hsb hr hp hw hk
    rw [execStoreDrain_one]
    refine ⟨fun hc hf => ⟨fun u ho hd => ?_, fun u ho => ?_⟩, fun hu => ⟨fun hd => ?_, fun nd rpkg limit tag hd hg ht => ?_⟩⟩
    · rw [hcached hc, drainCached_writes hf ho hd]
    · rw [hcached hc, drainCached_asks hf ho]
    · rw [huncached hu, drainUncached_done hd]
    · refine ⟨_, rfl, ?_⟩
      rw [huncached hu, drainUncached_sends hd hg ht]
      refine ⟨?_, ?_, fun g hgh => ?_, ?_⟩
      · rw [hart_updHart_same, hart_send, hart_updHart_same, popPart_track]
        rfl
      · simp only [State.updHart, setHart_mesh, State.send]
        rfl
      · rw [hart_updHart_ne _ hgh, hart_send, hart_updHart_ne _ hgh]
      · cases h <;> rfl
  · show execStreamEndTimeout h k s = _
    unfold execStreamEndTimeout
    extract_lets a
    rw [he]
    cases h <;> rfl

end Sys2Proof.Machine
end

section
/-!
SUPPORT and PROOFS. Pulses of event sources and what takes them (R388 to R396): the flits of a pulse, GPIO edges, EVSW, ticks, and the sinks of a stop.
-/
namespace Sys2Proof.Machine

/-! ### Sending a list of flits from one stop -/

section
variable (s : State)

theorem sendAll_frame (l : List Flit) :
    s.sendAll l = { s with mesh := { s.mesh with inject := (s.sendAll l).mesh.inject, stamp := (s.sendAll l).mesh.stamp } } := by
  induction l generalizing s with
  | nil => rfl
  | cons f l ih =>
    rw [State.sendAll, ih]
    rfl

theorem inject_sendAll_same {st : Nat} {l : List Flit} (hl : ∀ f ∈ l, nodeStop f.src = st) :
    (tabGet [] (s.sendAll l).mesh.inject st).map Prod.snd = (tabGet [] s.mesh.inject st).map Prod.snd ++ l := by
  induction l generalizing s with
  | nil => exact (List.append_nil _).symm
  | cons f l ih =>
    obtain ⟨hf, hl⟩ := List.forall_mem_cons.mp hl
    rw [State.sendAll, ih _ hl]
    simp [State.send, hf]

theorem inject_sendAll_ne {st k : Nat} {l : List Flit} (hl : ∀ f ∈ l, nodeStop f.src = st) (hk : k ≠ st) :
    tabGet [] (s.sendAll l).mesh.inject k = tabGet [] s.mesh.inject k := by
  induction l generalizing s with
  | nil => rfl
  | cons f l ih =>
    obtain ⟨hf, hl⟩ := List.forall_mem_cons.mp hl
    rw [State.sendAll, ih _ hl]
    exact tabGet_tabSet_ne _ _ _ _ _ (hf ▸ hk)

/-! ### A pulse (R388, R395) -/

variable (n stop : Nat)

/-- The Event flits of a pulse at its source's stop: one for each branch of the tree. -/
def treeFlits (stop line : Nat) : List Flit := (treeOuts stop .l).filterMap fun p => (neighbour stop p).map fun d => eventFlit stop d line

theorem treeFlits_src {stop line : Nat} (hs : stop < 320) : ∀ f ∈ treeFlits stop line, nodeStop f.src = stop := by
  intro f hf
  obtain ⟨p, -, hp⟩ := List.mem_filterMap.mp hf
  obtain ⟨d, -, rfl⟩ := Option.map_eq_some_iff.mp hp
  show 32 * (stop / 32 % 10) + stop % 32 % 32 = stop
  omega

theorem pulseAtStop_off (hr : (s.evsrc n).getLsbD 31 = false) : s.pulseAtStop n stop = s := by
  unfold State.pulseAtStop
  exact if_neg (by rw [← State.evsrc, hr]; exact Bool.false_ne_true)

theorem pulseAtStop_on (hr : (s.evsrc n).getLsbD 31 = true) :
    s.pulseAtStop n stop = ({ s with irq := { s.irq with events := s.irq.events ++ [(stop, fld (s.evsrc n) 7 0)] } }).sendAll (treeFlits stop (fld (s.evsrc n) 7 0)) := by
  unfold State.pulseAtStop
  exact if_pos hr

/-- A pulse changes the pulses at stops and the flits that wait to enter the mesh. -/
theorem pulseAtStop_frame : s.pulseAtStop n stop = { s with
    irq := { s.irq with events := (s.pulseAtStop n stop).irq.events },
    mesh := { s.mesh with inject := (s.pulseAtStop n stop).mesh.inject, stamp := (s.pulseAtStop n stop).mesh.stamp } } := by
  cases hr : (s.evsrc n).getLsbD 31 with
  | false => rw [pulseAtStop_off s n stop hr]
  | true =>
    rw [pulseAtStop_on s n stop hr, sendAll_frame]

theorem pulseAtStop_events : (s.pulseAtStop n stop).irq.events =
    s.irq.events ++ if (s.evsrc n).getLsbD 31 then [(stop, fld (s.evsrc n) 7 0)] else [] := by
  cases hr : (s.evsrc n).getLsbD 31 with
  | false => rw [pulseAtStop_off s n stop hr]; exact (List.append_nil _).symm
  | true => rw [pulseAtStop_on s n stop hr, sendAll_frame]; rfl

/-- What a list of flits leaves waiting depends on what has waited and on the count of flits alone. -/
theorem sendAll_inject_congr {a b : State} (l : List Flit) (hi : a.mesh.inject = b.mesh.inject) (hs : a.mesh.stamp = b.mesh.stamp) :
    (a.sendAll l).mesh.inject = (b.sendAll l).mesh.inject ∧ (a.sendAll l).mesh.stamp = (b.sendAll l).mesh.stamp := by
  induction l generalizing a b with
  | nil => exact ⟨hi, hs⟩
  | cons f l ih => exact ih (by simp only [State.send, hi, hs]) (by simp only [State.send, hs])

theorem pulseAtStop_inject_congr {a b : State} (n stop : Nat) (he : a.irq.evsrc = b.irq.evsrc) (hi : a.mesh.inject = b.mesh.inject)
    (hs : a.mesh.stamp = b.mesh.stamp) :
    (a.pulseAtStop n stop).mesh.inject = (b.pulseAtStop n stop).mesh.inject ∧ (a.pulseAtStop n stop).mesh.stamp = (b.pulseAtStop n stop).mesh.stamp := by
  have hab : a.evsrc n = b.evsrc n := by rw [State.evsrc, State.evsrc, he]
  cases hr : (b.evsrc n).getLsbD 31 with
  | false => rw [pulseAtStop_off a n stop (hab ▸ hr), pulseAtStop_off b n stop hr]; exact ⟨hi, hs⟩
  | true => rw [pulseAtStop_on a n stop (hab ▸ hr), pulseAtStop_on b n stop hr, hab]; exact sendAll_inject_congr _ hi hs

theorem pulseAtStop_mesh_congr {a b : State} (n stop : Nat) (he : a.irq.evsrc = b.irq.evsrc) (hm : a.mesh = b.mesh) :
    (a.pulseAtStop n stop).mesh = (b.pulseAtStop n stop).mesh := by
  obtain ⟨hi, hs⟩ := pulseAtStop_inject_congr (a := a) (b := b) n stop he (by rw [hm]) (by rw [hm])
  rw [pulseAtStop_frame a, pulseAtStop_frame b, hi, hs, hm]

theorem evStop_lt : evStop n < 320 := by
  unfold evStop
  split
  · have : n / 32 % 2 = 0 ∨ n / 32 % 2 = 1 := by omega
    rcases this with h | h <;> rw [h] <;> decide
  · split_ifs <;> decide

end

/-! ### GPIO levels (R381, R389, R395) -/

section
variable (s : State) (g : Nat) (lv : Bool)

/-- Whether EDGE of a pin's source selects the edge to `lv` (R395). -/
def State.edgeHit : Prop := fld (s.evsrc (128 + g)) 25 24 = 2 ∨ (fld (s.evsrc (128 + g)) 25 24 = 0 ∧ lv) ∨ (fld (s.evsrc (128 + g)) 25 24 = 1 ∧ !lv)

/-- The pin and its APLIC source at a new level. -/
def State.pinAt : State := ({ s with irq := { s.irq with gpioIn := putFld s.irq.gpioIn g g (b2n lv) } }).wire (257 + g) lv

theorem gpioLevel_same (h : s.irq.gpioIn.getLsbD g = lv) : s.gpioLevel g lv = s := if_pos h

theorem gpioLevel_hit (h : s.irq.gpioIn.getLsbD g ≠ lv) (he : s.edgeHit g lv) : s.gpioLevel g lv = (s.pinAt g lv).pulse (128 + g) := by
  unfold State.gpioLevel
  rw [if_neg h]
  exact if_pos he

theorem gpioLevel_unselected (h : s.irq.gpioIn.getLsbD g ≠ lv) (he : ¬s.edgeHit g lv) : s.gpioLevel g lv = s.pinAt g lv := by
  unfold State.gpioLevel
  rw [if_neg h]
  exact if_neg he

theorem putFld_bit {w : Nat} (v : BitVec w) {g : Nat} (hg : g < w) (lv : Bool) (i : Nat) :
    (putFld v g g (b2n lv)).getLsbD i = if i = g then lv else v.getLsbD i := by
  have hone : ∀ x : Bool, (BitVec.ofNat w (b2n x <<< g)).getLsbD i = (decide (i = g) && x) := by
    intro x
    cases x with
    | false => simp [b2n]
    | true =>
      rw [show b2n true <<< g = 2 ^ g from Nat.one_shiftLeft g, BitVec.getLsbD_ofNat, Nat.testBit_two_pow, Bool.and_true]
      by_cases hi : i = g
      · simp [hi, hg]
      · simp [hi, Ne.symm hi]
  have hmask := hone true
  unfold putFld
  simp only [Nat.sub_self, Nat.zero_add, Nat.pow_one, Nat.reduceSub, BitVec.getLsbD_or, BitVec.getLsbD_and, BitVec.getLsbD_not, hone lv]
  rw [show (1 : Nat) <<< g = b2n true <<< g from rfl, hmask]
  by_cases hi : i = g
  · simp [hi, hg]
  · by_cases hw : i < w
    · simp [hi, hw]
    · simp [hi, hw, BitVec.getLsbD_of_ge _ _ (Nat.le_of_not_lt hw)]

end

/-! ### EVSW and the tick generators (R394) -/

theorem foldl_pulse (v : Nat) (l : List Nat) (s : State) :
    let t := l.foldl (fun s b => if bitOf v b then s.pulse (144 + b) else s) s
    t = { s with irq := { s.irq with events := t.irq.events }, mesh := { s.mesh with inject := t.mesh.inject, stamp := t.mesh.stamp } } ∧
    t.irq.events = s.irq.events ++
      (l.filter fun b => bitOf v b && (s.evsrc (144 + b)).getLsbD 31).map fun b => (evStop (144 + b), fld (s.evsrc (144 + b)) 7 0) := by
  induction l generalizing s with
  | nil => exact ⟨rfl, (List.append_nil _).symm⟩
  | cons b l ih =>
    rw [List.foldl_cons]
    by_cases hb : bitOf v b = true
    · rw [if_pos hb]
      obtain ⟨hf, he⟩ := ih (s.pulse (144 + b))
      have hp := pulseAtStop_frame s (144 + b) (evStop (144 + b))
      have hev := pulseAtStop_events s (144 + b) (evStop (144 + b))
      have hsrc : ∀ k, (s.pulse (144 + b)).evsrc k = s.evsrc k := fun k => by rw [State.pulse, hp]; rfl
      refine ⟨?_, ?_⟩
      · rw [hf, State.pulse, hp]
      · simp only [hsrc] at he
        rw [he, State.pulse, hev, List.filter_cons, hb]
        cases (s.evsrc (144 + b)).getLsbD 31 <;> simp
    · rw [if_neg hb]
      obtain ⟨hf, he⟩ := ih s
      refine ⟨hf, ?_⟩
      rw [he, List.filter_cons]
      simp [hb]

theorem evStop_software {b : Nat} (hb : b < 16) : evStop (144 + b) = aplicStop := by
  unfold evStop
  rw [if_neg (by omega), if_neg (by omega), if_pos (by omega)]

theorem nextMultiple_spec {p : Nat} (hp : 0 < p) (t : Nat) : nextMultiple p t % p = 0 ∧ t ≤ nextMultiple p t ∧ nextMultiple p t < t + p := by
  unfold nextMultiple
  have hd := Nat.div_add_mod t p
  have hm := Nat.mod_lt t hp
  split
  · next h0 => exact ⟨h0, le_rfl, by omega⟩
  · next h0 =>
    have he : (t / p + 1) * p = p * (t / p) + p := by ring
    exact ⟨Nat.mul_mod_left .., by omega, by omega⟩

/-! ### The sinks of a stop (R388, R390, R410) -/

section
variable (s : State) (stop line : Nat)

/-- The gate copies of a stop after a pulse that the gates of `l` take. -/
def toggled (stop : Nat) (l : List Nat) (gates : Tab Bool) : Tab Bool :=
  l.foldl (fun g j => tabSet false g (stop * 16 + j) (!(tabGet false g (stop * 16 + j)))) gates

theorem toggleGates_eq : s.toggleGates stop line =
    { s with irq := { s.irq with gates := toggled stop ((List.range 16).filter fun j => s.listens (128 + j) line) s.irq.gates } } := by
  unfold State.toggleGates
  generalize List.range 16 = l
  induction l generalizing s with
  | nil => rfl
  | cons j l ih =>
    rw [List.foldl_cons, List.filter_cons]
    split
    · exact ih _
    · exact ih s

theorem filter_eq_singleton {l : List Nat} {k : Nat} {q : Nat → Bool} (hn : l.Nodup) (hk : k ∈ l) (hq : q k = true) (h : ∀ m ∈ l, m ≠ k → q m = false) :
    l.filter q = [k] := by
  rw [List.filter_congr (q := (· == k)) fun m hm => ?_, List.filter_beq, List.count_eq_one_of_mem hn hk]
  · rfl
  · by_cases he : m = k
    · simp [he, hq]
    · simp [he, h m hm he]

theorem toggleGates_none (h : ∀ j, j < 16 → s.listens (128 + j) line = false) : s.toggleGates stop line = s := by
  rw [toggleGates_eq, List.filter_eq_nil_iff.mpr fun j hj => by rw [h j (List.mem_range.mp hj)]; exact Bool.false_ne_true]
  rfl

theorem toggleGates_one {j : Nat} (hj : j < 16) (hl : s.listens (128 + j) line = true) (h : ∀ i, i < 16 → i ≠ j → s.listens (128 + i) line = false) :
    s.toggleGates stop line = { s with irq := { s.irq with gates := tabSet false s.irq.gates (stop * 16 + j) (!(tabGet false s.irq.gates (stop * 16 + j))) } } := by
  rw [toggleGates_eq, filter_eq_singleton List.nodup_range (List.mem_range.mpr hj) hl fun i hi hij => h i (List.mem_range.mp hi) hij]
  rfl

/-- The sinks of a stop that listen to a line, gates aside. -/
def State.sinksAt : List Nat := (List.range 128 ++ [144]).filter fun m => sinkStop m == stop && s.listens m line

theorem pulseAt_eq : s.pulseAt stop line =
    let u := (s.toggleGates stop line).sinksAt stop line |>.foldl (fun s m => s.sink m) (s.toggleGates stop line)
    if stop = aplicStop then u.wirePulse (line + 1) else u := rfl

theorem sinksAt_none (h : ∀ m, m < 128 ∨ m = 144 → sinkStop m = stop → s.listens m line = false) : s.sinksAt stop line = [] := by
  refine List.filter_eq_nil_iff.mpr fun m hm => ?_
  have hm' : m < 128 ∨ m = 144 := by simpa using hm
  by_cases hs : sinkStop m = stop
  · simp [h m hm' hs]
  · simp [hs]

theorem sinksAt_one {k : Nat} (hk : k < 128) (hs : sinkStop k = stop) (hl : s.listens k line = true)
    (h : ∀ m, m < 128 ∨ m = 144 → m ≠ k → sinkStop m = stop → s.listens m line = false) : s.sinksAt stop line = [k] := by
  refine filter_eq_singleton ?_ (by simp [hk]) (by simp [hs, hl]) fun m hm hmk => ?_
  · exact List.Nodup.append List.nodup_range (List.nodup_singleton _) (by simp)
  · have hm' : m < 128 ∨ m = 144 := by simpa using hm
    by_cases hs : sinkStop m = stop
    · simp [h m hm' hmk hs]
    · simp [hs]

end

/-! ### O47 -/

theorem gpioEdge_change (s : State) (g : Fin 16) (lv : Bool) (h : s.irq.gpioIn.getLsbD g.val ≠ lv) :
    ∃ t, s.gpioLevel g.val lv = t ∧ t.irq.gpioIn.getLsbD g.val = lv ∧ (∀ i, i ≠ g.val → t.irq.gpioIn.getLsbD i = s.irq.gpioIn.getLsbD i) ∧
      t.source (257 + g.val) = (s.wire (257 + g.val) lv).source (257 + g.val) ∧ (∀ j, j ≠ 257 + g.val → t.source j = s.source j) ∧
      (s.edgeHit g.val lv → t.irq.events = (s.pulse (128 + g.val)).irq.events ∧ t.mesh = (s.pulse (128 + g.val)).mesh) ∧
      (¬s.edgeHit g.val lv → t.irq.events = s.irq.events ∧ t.mesh = s.mesh) ∧
      t = { s with irq := { s.irq with gpioIn := t.irq.gpioIn, src := t.irq.src, events := t.irq.events }, mesh := t.mesh } := by
  have hbit := putFld_bit s.irq.gpioIn g.isLt lv
  have hpin : ∀ j, j ≠ 257 + g.val → (s.pinAt g.val lv).source j = s.source j := fun j hj => wire_source_ne _ _ hj
  by_cases he : s.edgeHit g.val lv
  · refine ⟨_, gpioLevel_hit s g.val lv h he, ?_⟩
    have hf := pulseAtStop_frame (s.pinAt g.val lv) (128 + g.val) (evStop (128 + g.val))
    have hev := pulseAtStop_events (s.pinAt g.val lv) (128 + g.val) (evStop (128 + g.val))
    have hm := pulseAtStop_mesh_congr (a := s.pinAt g.val lv) (b := s) (128 + g.val) (evStop (128 + g.val)) rfl rfl
    refine ⟨?_, fun i hi => ?_, ?_, fun j hj => ?_, fun _ => ⟨?_, hm⟩, fun hn => absurd he hn, ?_⟩
    · rw [State.pulse, hf]; exact (hbit g.val).trans (if_pos rfl)
    · rw [State.pulse, hf]; exact (hbit i).trans (if_neg hi)
    · rw [State.pulse, hf]; rfl
    · rw [State.pulse, hf]; exact hpin j hj
    · rw [State.pulse, hev, State.pulse, pulseAtStop_events]; rfl
    · rw [State.pulse, hf]; rfl
  · refine ⟨_, gpioLevel_unselected s g.val lv h he, (hbit g.val).trans (if_pos rfl), fun i hi => (hbit i).trans (if_neg hi), rfl, hpin,
      fun hn => absurd hn he, fun _ => ⟨rfl, rfl⟩, rfl⟩

theorem pulse_once (s : State) (n : Nat) (hr : (s.evsrc n).getLsbD 31 = true) :
    (s.pulse n).irq.events = s.irq.events ++ [(evStop n, fld (s.evsrc n) 7 0)] ∧
    (tabGet [] (s.pulse n).mesh.inject (evStop n)).map Prod.snd =
      (tabGet [] s.mesh.inject (evStop n)).map Prod.snd ++ treeFlits (evStop n) (fld (s.evsrc n) 7 0) ∧
    ∀ k, k ≠ evStop n → tabGet [] (s.pulse n).mesh.inject k = tabGet [] s.mesh.inject k := by
  have hsrc := treeFlits_src (line := fld (s.evsrc n) 7 0) (evStop_lt n)
  rw [State.pulse]
  refine ⟨?_, ?_, fun k hk => ?_⟩
  · rw [pulseAtStop_events, hr]; rfl
  · rw [pulseAtStop_on s n _ hr, inject_sendAll_same _ hsrc]
  · rw [pulseAtStop_on s n _ hr, inject_sendAll_ne _ hsrc hk]

theorem passTo_frame (s : State) (n : Nat) :
    s.passTo n = { s with time := (s.passTo n).time, mesh := { s.mesh with cycle := (s.passTo n).mesh.cycle, ahead := (s.passTo n).mesh.ahead } } := by
  unfold State.passTo
  split <;> rfl

theorem passTo_time (s : State) {n : Nat} (h : s.time ≤ n) : (s.passTo n).time = n := by
  unfold State.passTo
  split
  · next hle => exact Nat.le_antisymm h hle
  · rfl

theorem tick_pulses (s : State) (j : Fin 8) (hr : (tabGet 0 s.irq.evtick j.val).getLsbD 63 = true) (hp : 100 ≤ fld (tabGet 0 s.irq.evtick j.val) 31 0) :
    execTickGeneratorPulse j s = .next ((s.passTo (nextMultiple (fld (tabGet 0 s.irq.evtick j.val) 31 0) s.time)).pulse (160 + j.val)) := by
  unfold execTickGeneratorPulse
  exact congrArg _ (if_pos (by rw [hr, decide_eq_true hp]; rfl))

theorem tick_idle (s : State) (j : Fin 8) (h : (tabGet 0 s.irq.evtick j.val).getLsbD 63 = false ∨ fld (tabGet 0 s.irq.evtick j.val) 31 0 < 100) :
    execTickGeneratorPulse j s = .next s := by
  unfold execTickGeneratorPulse
  refine congrArg _ (if_neg ?_)
  rw [Bool.and_eq_true, decide_eq_true_eq]
  rcases h with h | h
  · rw [h]; exact fun hc => Bool.false_ne_true hc.1
  · omega

/-- The state in which the sinks of a stop see a pulse: it is consumed. -/
def State.consumed (s : State) (stop line : Nat) : State := { s with irq := { s.irq with events := s.irq.events.erase (stop, line) } }

/-- A pulse that has come first to its stop is consumed there. -/
theorem eventFlit_first (s : State) (stop : Fin 320) (line : Fin 256) (h : (s.irq.events.find? fun e => e.1 == stop.val) = some (stop.val, line.val)) :
    execEventFlit stop line s = .next ((s.consumed stop.val line.val).pulseAt stop.val line.val) := by
  unfold execEventFlit
  exact congrArg _ (if_pos h)

/-- The state at another time and mesh cycle. -/
def State.atTime (s : State) (time cycle ahead : Nat) : State := { s with time := time, mesh := { s.mesh with cycle := cycle, ahead := ahead } }

theorem sendAll_atTime (s : State) (τ c a : Nat) (l : List Flit) : (s.atTime τ c a).sendAll l = (s.sendAll l).atTime τ c a := by
  induction l generalizing s with
  | nil => rfl
  | cons f l ih => exact ih (s.send f)

/-- The clock and the count of mesh cycles do not matter to a pulse. -/
theorem pulse_atTime (s : State) (τ c a d : Nat) : (s.atTime τ c a).pulse d = (s.pulse d).atTime τ c a := by
  rw [State.pulse, State.pulse]
  cases hr : (s.evsrc d).getLsbD 31 with
  | false => rw [pulseAtStop_off s d _ hr, pulseAtStop_off (s.atTime τ c a) d _ hr]
  | true =>
    rw [pulseAtStop_on s d _ hr, pulseAtStop_on (s.atTime τ c a) d _ hr, ← sendAll_atTime]
    rfl

/-- A tick at a later time is the same pulse (R394). -/
theorem pulse_passTo (s : State) (n d : Nat) :
    ((s.passTo n).pulse d).irq = (s.pulse d).irq ∧ ((s.passTo n).pulse d).mesh.inject = (s.pulse d).mesh.inject ∧
    ((s.passTo n).pulse d).time = (s.passTo n).time ∧
    (s.passTo n).pulse d = { s with
      irq := ((s.passTo n).pulse d).irq, time := ((s.passTo n).pulse d).time,
      mesh := { s.mesh with cycle := ((s.passTo n).pulse d).mesh.cycle, ahead := ((s.passTo n).pulse d).mesh.ahead,
                            inject := ((s.passTo n).pulse d).mesh.inject, stamp := ((s.passTo n).pulse d).mesh.stamp } } := by
  have hf : s.pulse d = _ := pulseAtStop_frame s d (evStop d)
  have hu : s.passTo n = s.atTime (s.passTo n).time (s.passTo n).mesh.cycle (s.passTo n).mesh.ahead := passTo_frame s n
  rw [hu, pulse_atTime]
  refine ⟨rfl, rfl, rfl, ?_⟩
  rw [hf]
  rfl

section
variable {s : State} {stop line : Nat} (hg : ∀ j, j < 16 → s.listens (128 + j) line = false)
include hg

theorem pulseAt_unheard (hk : ∀ m, m < 128 ∨ m = 144 → sinkStop m = stop → s.listens m line = false) :
    s.pulseAt stop line = if stop = aplicStop then s.wirePulse (line + 1) else s := by
  rw [pulseAt_eq, toggleGates_none s stop line hg, sinksAt_none s stop line hk]
  rfl

theorem pulseAt_sink {k : Nat} (hk : k < 128) (hs : sinkStop k = stop) (hl : s.listens k line = true)
    (ho : ∀ m, m < 128 ∨ m = 144 → m ≠ k → sinkStop m = stop → s.listens m line = false) (hst : stop ≠ aplicStop) :
    s.pulseAt stop line = s.sink k := by
  rw [pulseAt_eq, toggleGates_none s stop line hg, sinksAt_one s stop line hk hs hl ho]
  exact if_neg hst

end

theorem pulseAt_gate {s : State} {stop line j : Nat} (hj : j < 16) (hl : s.listens (128 + j) line = true)
    (h : ∀ i, i < 16 → i ≠ j → s.listens (128 + i) line = false)
    (hk : ∀ m, m < 128 ∨ m = 144 → sinkStop m = stop → s.listens m line = false) (hst : stop ≠ aplicStop) :
    s.pulseAt stop line =
      { s with irq := { s.irq with gates := tabSet false s.irq.gates (stop * 16 + j) (!(tabGet false s.irq.gates (stop * 16 + j))) } } := by
  have ht := toggleGates_one s stop line hj hl h
  have hsinks : (s.toggleGates stop line).sinksAt stop line = [] := by
    rw [ht]
    exact sinksAt_none _ stop line hk
  rw [pulseAt_eq, hsinks, ht]
  exact if_neg hst

/-- What the sinks of a stop do (R390, R454). -/
theorem sink_cases (s : State) {k : Nat} (hk : k < 128) :
    (k < 64 → s.engineOff (k / 32) = false → s.sink k = s.dmaPulse k) ∧
    (64 ≤ k → k < 112 → s.sink k = s.setIdentity (.s (Fin.ofNat 48 (k - 64))) .mach (fld (s.evsnk k) 18 8)) ∧
    (112 ≤ k → s.sink k = s.gpioPulse (k - 112)) := by
  unfold State.sink
  refine ⟨fun h he => ?_, fun h h' => ?_, fun h => ?_⟩
  · rw [if_pos h, he]; rfl
  · rw [if_neg (by omega), if_pos h']
  · rw [if_neg (by omega), if_neg (by omega), if_pos hk]

/-- Settles O47: the flits of a pulse, the fold of EVSW over its bits, and the one sink of a stop that listens. -/
theorem eventLinesCarryPulses : Obligations.EventLinesCarryPulses := by
  refine ⟨fun s g lv => ⟨fun h => ?_, fun h => ?_⟩, fun s n => ⟨pulseAtStop_off s n _, fun hr => ?_⟩, fun s who v hw => ?_, fun s h md v hm hi => ?_,
    fun s j => ⟨tick_idle s j, fun hr hp => ?_⟩, fun s stop line => ⟨fun h => ?_, fun h => ⟨fun hg hk hs => ?_, fun hg hk hs => ?_, fun j hj hl hg hk hs => ?_,
      fun k hk hs hg ho hl hst => ?_⟩⟩⟩
  · exact congrArg _ (gpioLevel_same s g.val lv h)
  · obtain ⟨t, ht, hrest⟩ := gpioEdge_change s g lv h
    have hhit : s.edgeHit g.val lv ↔ (fld (s.evsrc (128 + g.val)) 25 24 = 2 ∨ (fld (s.evsrc (128 + g.val)) 25 24 = 0 ∧ lv = true) ∨
        (fld (s.evsrc (128 + g.val)) 25 24 = 1 ∧ lv = false)) := by simp [State.edgeHit]
    rw [hhit] at hrest
    exact ⟨t, congrArg _ ht, hrest⟩
  · obtain ⟨hev, hsame, hne⟩ := pulse_once s n hr
    exact ⟨_, rfl, hev, hsame, hne, pulseAtStop_frame s n _⟩
  · obtain ⟨hf, he⟩ := foldl_pulse v.toNat (List.range 16) s
    refine ⟨s.evsw v.toNat, congrArg _ (r31Write_admitted _ _ _ _ hw), hf, he.trans (congrArg _ ?_)⟩
    refine List.map_congr_left fun b hb => ?_
    rw [evStop_software (List.mem_range.mp (List.mem_filter.mp hb).1)]
  · exact congrArg _ (r31Write_hart_refused _ _ _ _ hm hi)
  · obtain ⟨hmod, hle, hlt⟩ := nextMultiple_spec (by omega : 0 < fld (tabGet 0 s.irq.evtick j.val) 31 0) s.time
    refine ⟨_, tick_pulses s j hr hp, ?_⟩
    obtain ⟨hirq, hinj, ht, hf⟩ := pulse_passTo s (nextMultiple (fld (tabGet 0 s.irq.evtick j.val) 31 0) s.time) (160 + j.val)
    have htime := ht.trans (passTo_time s hle)
    exact ⟨by rw [htime]; exact hmod, by rw [htime]; exact hle, by rw [htime]; exact hlt, hirq, hinj, hf⟩
  · show execEventFlit stop line s = _
    unfold execEventFlit
    exact congrArg _ (if_neg h)
  · refine (eventFlit_first s stop line h).trans (congrArg _ ?_)
    rw [pulseAt_unheard (s := s.consumed stop.val line.val) hg fun m hm => hk (m + 1) m hm (by omega), if_neg hs]
    rfl
  · refine (eventFlit_first s stop line h).trans (congrArg _ ?_)
    rw [pulseAt_unheard (s := s.consumed stop.val line.val) hg fun m hm => hk (m + 1) m hm (by omega), if_pos hs]
    rfl
  · exact (eventFlit_first s stop line h).trans (congrArg _
      (pulseAt_gate (s := s.consumed stop.val line.val) hj hl hg (fun m hm => hk (m + 1) m hm (by omega)) hs))
  · have hp := (eventFlit_first s stop line h).trans (congrArg _ (pulseAt_sink (s := s.consumed stop.val line.val) hg hk hs hl ho hst))
    obtain ⟨hdma, hid, hpin⟩ := sink_cases (s.consumed stop.val line.val) hk
    exact ⟨fun hc he => hp.trans (congrArg _ (hdma hc he)), fun hc hc' => hp.trans (congrArg _ (hid hc hc')), fun hc => hp.trans (congrArg _ (hpin hc))⟩

end Sys2Proof.Machine
end

section
/-!
SUPPORT. The error banks, the log and the journal (R494 to R500), and the power-fail pin (R468).
-/
namespace Sys2Proof.Machine

/-! ### The log (R498, R500) -/

section
variable {α : Type} (n : Nat) (l : List α) (a : α)

theorem newestN_length : (newestN n l).length ≤ n := by
  rw [newestN, List.length_drop]
  omega

theorem newestN_of_length_le (h : l.length ≤ n) : newestN n l = l := by
  rw [newestN, Nat.sub_eq_zero_of_le h, List.drop_zero]

theorem newestN_concat_getLast? (hn : 0 < n) : (newestN n (l ++ [a])).getLast? = some a := by
  rw [newestN, List.getLast?_drop, if_neg, List.getLast?_concat]
  simp only [List.length_append, List.length_singleton]
  omega

end

section
variable (s : State)

theorem errorRecordCopy_idle {tl : Fin 8} {k : Fin 64}
    (h : s.ren.up = false ∨ (s.errRec tl.val k.val).v = false ∨ (tl.val, k.val, (s.errRec tl.val k.val).order) ∈ s.ren.logCopied) :
    execErrorRecordCopy tl k s = .next s := by
  unfold execErrorRecordCopy
  refine congrArg _ (if_pos ?_)
  rcases h with h | h | h
  · rw [h]; rfl
  · rw [h]; simp
  · rw [List.contains_iff_mem.mpr h]; simp

/-- The state with a log and a journal that hold one more record. -/
def State.withLog (log journal : List LogRec) (copied : List (Nat × Nat × Nat)) : State :=
  { s with ren := { s.ren with log := log, logNext := s.ren.logNext + 1, journal := journal, logCopied := copied } }

theorem withLog_frame (log journal : List LogRec) (copied : List (Nat × Nat × Nat)) : s.withLog log journal copied = { s with ren := { s.ren with
    log := (s.withLog log journal copied).ren.log, logNext := (s.withLog log journal copied).ren.logNext,
    journal := (s.withLog log journal copied).ren.journal, logCopied := (s.withLog log journal copied).ren.logCopied } } := rfl

/-- A record of a bank is marked as copied, in place of what its slot held before. -/
def State.markCopied (tl k order : Nat) : State :=
  { s with ren := { s.ren with logCopied := (s.ren.logCopied.filter fun (a, b, _) => !(a == tl && b == k)) ++ [(tl, k, order)] } }

theorem withLog_markCopied (log journal : List LogRec) (c : List (Nat × Nat × Nat)) (tl k order : Nat) :
    (s.withLog log journal c).markCopied tl k order =
      s.withLog log journal ((c.filter fun (a, b, _) => !(a == tl && b == k)) ++ [(tl, k, order)]) := rfl

@[simp] theorem withLog_log (log journal : List LogRec) (c : List (Nat × Nat × Nat)) : (s.withLog log journal c).ren.log = log := rfl
@[simp] theorem withLog_journal (log journal : List LogRec) (c : List (Nat × Nat × Nat)) : (s.withLog log journal c).ren.journal = journal := rfl
@[simp] theorem withLog_logCopied (log journal : List LogRec) (c : List (Nat × Nat × Nat)) : (s.withLog log journal c).ren.logCopied = c := rfl
@[simp] theorem withLog_logNext (log journal : List LogRec) (c : List (Nat × Nat × Nat)) :
    (s.withLog log journal c).ren.logNext = s.ren.logNext + 1 := rfl

theorem logCopy_eq (e : LogRec) : s.logCopy e =
    s.withLog (newestN 16384 (s.ren.log ++ [e])) (if 2 ≤ e.cls then newestN 1024 (s.ren.journal ++ [e]) else s.ren.journal) s.ren.logCopied := rfl

/-- The state after a record has been copied. -/
def State.recCopied (tl k : Nat) : State :=
  (s.logCopy ((s.errRec tl k).toLog s.ren.logNext tl)).markCopied tl k (s.errRec tl k).order

theorem recCopied_eq (tl k : Nat) : let e := (s.errRec tl k).toLog s.ren.logNext tl
    s.recCopied tl k = s.withLog (newestN 16384 (s.ren.log ++ [e])) (if 2 ≤ e.cls then newestN 1024 (s.ren.journal ++ [e]) else s.ren.journal)
      ((s.ren.logCopied.filter fun (a, b, _) => !(a == tl && b == k)) ++ [(tl, k, (s.errRec tl k).order)]) := by
  intro e
  rw [State.recCopied, logCopy_eq]
  exact withLog_markCopied ..

theorem errorRecordCopy_copies {tl : Fin 8} {k : Fin 64} (hu : s.ren.up = true) (hv : (s.errRec tl.val k.val).v = true)
    (hc : (tl.val, k.val, (s.errRec tl.val k.val).order) ∉ s.ren.logCopied) : execErrorRecordCopy tl k s = .next (s.recCopied tl.val k.val) := by
  unfold execErrorRecordCopy
  refine congrArg _ (if_neg ?_)
  simp [hu, hv, hc]

/-! ### Records freed (R495) -/

theorem freeRec_source_ne (tl k : Nat) {n : Nat} (h1 : n ≠ 335 + tl) (h2 : n ≠ 343 + tl) : (s.freeRec tl k).source n = s.source n :=
  (wire_source_ne _ _ h2).trans (wire_source_ne _ _ h1)

theorem freeRec_errBank (tl k u : Nat) : (s.freeRec tl k).errBank u =
    if u = tl then { s.errBank tl with recs := tabSet .empty (s.errBank tl).recs k { s.errRec tl k with v := false } } else s.errBank u :=
  tabGet_tabSet ..

theorem freeRec_errRec (tl k j : Nat) : (s.freeRec tl k).errRec tl j = if j = k then { s.errRec tl k with v := false } else s.errRec tl j := by
  rw [State.errRec, freeRec_errBank, if_pos rfl]
  exact tabGet_tabSet ..

/-! ### Error records name what the agent reports, at the time of the report -/

theorem logErr_congr {s t : State} (e : ErrInfo) (he : t.err = s.err) (ht : t.time = s.time) : (t.logErr e).err = (s.logErr e).err := by
  unfold State.logErr State.setErrBank State.errBank State.driveErr State.wire State.setSource
  simp only [he, ht]

/-- The record of a write acknowledged early that its endpoint has failed (R155). -/
def State.ewaRecord (s : State) (e : EwaWrite) (sts : Nat) : ErrInfo :=
  { mkErr 0x0A 3 (nodeStop e.stop) true with
    sub := e.stop.sub.val, pa := some (s.pma.pkgId.toNat * 2 ^ 47 + e.la), req := some (if e.rpkg = 0 then s.pma.pkgId.toNat else e.rpkg, e.req, e.tag), detail := sts }

theorem ewaFail_frame (e : EwaWrite) (sts : Nat) : s.ewaFail e sts = { s with
    err := (s.logErr (s.ewaRecord e sts)).err, irq := { s.irq with src := (s.ewaFail e sts).irq.src }, mesh := { s.mesh with ewa := s.mesh.ewa.erase e } } := rfl

theorem ewaFail_orders (e : EwaWrite) (sts : Nat) : (s.ewaFail e sts).err.orders = s.err.orders + 1 := rfl

end

/-! ### PFAIL_N (R381, R468) -/

theorem wire_level (s : State) (n : Nat) (lv : Bool) : ((s.wire n lv).source n).level = lv := by
  rw [State.wire, State.source]
  exact congrArg Source.level (tabGet_tabSet_same ..)

theorem wire_source_congr {s t : State} (n : Nat) (lv : Bool) (h : t.source n = s.source n) : (t.wire n lv).source n = (s.wire n lv).source n := by
  have hw : ∀ u : State, (u.wire n lv).source n = _ := fun u => tabGet_tabSet_same ..
  rw [hw, hw, h]

/-- What the log and the journal hold after a copy (R498, R500). -/
theorem recCopied_log (s : State) (tl k : Nat) : let e := (s.errRec tl k).toLog s.ren.logNext tl
    let t := s.recCopied tl k
    t.ren.log.getLast? = some e ∧ t.ren.log.length ≤ 16384 ∧ (s.ren.log.length < 16384 → t.ren.log = s.ren.log ++ [e]) ∧
    t.ren.logNext = s.ren.logNext + 1 ∧ (e.cls < 2 → t.ren.journal = s.ren.journal) ∧ (2 ≤ e.cls → t.ren.journal.getLast? = some e) ∧
    (tl, k, (s.errRec tl k).order) ∈ t.ren.logCopied ∧
    t = { s with ren := { s.ren with log := t.ren.log, logNext := t.ren.logNext, journal := t.ren.journal, logCopied := t.ren.logCopied } } := by
  intro e
  have ht := recCopied_eq s tl k
  generalize s.recCopied tl k = t at ht ⊢
  intro t'
  have hlog : t'.ren.log = newestN 16384 (s.ren.log ++ [e]) := (congrArg (·.ren.log) ht).trans (withLog_log ..)
  have hj : t'.ren.journal = if 2 ≤ e.cls then newestN 1024 (s.ren.journal ++ [e]) else s.ren.journal :=
    (congrArg (·.ren.journal) ht).trans (withLog_journal ..)
  have hframe := withLog_frame s (newestN 16384 (s.ren.log ++ [e])) (if 2 ≤ e.cls then newestN 1024 (s.ren.journal ++ [e]) else s.ren.journal)
    ((s.ren.logCopied.filter fun (a, b, _) => !(a == tl && b == k)) ++ [(tl, k, (s.errRec tl k).order)])
  rw [← ht] at hframe
  rw [hlog, hj]
  refine ⟨newestN_concat_getLast? 16384 _ _ (by omega), newestN_length 16384 _, fun h => ?_, (congrArg (·.ren.logNext) ht).trans (withLog_logNext ..),
    fun h => if_neg (by omega), fun h => ?_, ?_, ?_⟩
  · exact newestN_of_length_le _ _ (by rw [List.length_append, List.length_singleton]; omega)
  · rw [if_pos h]
    exact newestN_concat_getLast? _ _ _ (by omega)
  · rw [(congrArg (·.ren.logCopied) ht).trans (withLog_logCopied ..)]
    exact List.mem_append_right _ (List.mem_singleton_self _)
  · rw [← hlog, ← hj]
    exact hframe

/-- The address of a record register is that of R495. -/
theorem recAddr (tl : Fin 8) (k : Nat) :
    0x1000_0000 + tl.val * 0x100_0000 + stopIdx (errStop tl.val) * 0x1_0000 + 0x4000 + k * 0x40 = stopPage (errStop tl.val) + 0x4000 + 0x40 * k := by
  have htile : ∀ t : Fin 8, tileOf (errStop t.val) = t.val := by decide
  rw [stopPage, htile]
  omega

/-- An endpoint that fails a write, and one that does not answer (R155). -/
theorem ewaEndpointFailure_eq {s : State} {stop req : Node} {a : Pa} {e : EwaWrite} (sts : BitVec 8)
    (hw : (s.mesh.ewa.find? fun e => e.stop == stop && e.req == req && e.la == paLa a.toNat) = some e) :
    execEwaEndpointFailure stop req a sts s = .next ((if sts = 0xFF then s.passTo e.deadline else s).ewaFail e sts.toNat) := by
  unfold execEwaEndpointFailure
  rw [hw]

/-- What a failure leaves, at whatever time it is noticed (R155). -/
theorem ewaFail_spec (s : State) (τ c a : Nat) (e : EwaWrite) (sts : Nat) : let t := (s.atTime τ c a).ewaFail e sts
    t.err.orders = s.err.orders + 1 ∧ t.mesh.ewa = s.mesh.ewa.erase e ∧ t.time = τ ∧
    t.err = (State.logErr { s with time := t.time } (s.ewaRecord e sts)).err ∧
    t = { s with err := t.err, irq := { s.irq with src := t.irq.src }, time := t.time,
                 mesh := { s.mesh with ewa := t.mesh.ewa, cycle := t.mesh.cycle, ahead := t.mesh.ahead } } :=
  ⟨rfl, rfl, rfl, rfl, rfl⟩

theorem passTo_atTime (s : State) (n : Nat) : ∃ c a, s.passTo n = s.atTime (max s.time n) c a := by
  rw [passTo_frame]
  refine ⟨(s.passTo n).mesh.cycle, (s.passTo n).mesh.ahead, ?_⟩
  rw [show (s.passTo n).time = max s.time n by
    unfold State.passTo
    split
    · next h => exact (Nat.max_eq_left h).symm
    · next h => exact (Nat.max_eq_right (Nat.le_of_lt (Nat.lt_of_not_le h))).symm]
  rfl

/-- A source that is driven after a pulse: both show, and nothing else changes but the levels and the mesh. -/
theorem pfail_spec (s : State) (pow : Power) (n k : Nat) : let t := (({ s with pow := pow }).pulse n).wire k true
    t.pow = pow ∧ t.source k = (s.wire k true).source k ∧ (t.source k).level = true ∧ t.irq.events = (s.pulse n).irq.events ∧
    (∀ j, j ≠ k → t.source j = s.source j) ∧ t.mesh = (s.pulse n).mesh ∧
    t = { s with pow := t.pow, irq := { s.irq with src := t.irq.src, events := t.irq.events }, mesh := t.mesh } := by
  have hf : ({ s with pow := pow } : State).pulse n = _ := pulseAtStop_frame _ n (evStop n)
  have hsrc : ∀ j, (({ s with pow := pow } : State).pulse n).source j = s.source j := fun j => by rw [hf]; rfl
  refine ⟨?_, wire_source_congr k true (hsrc k), wire_level _ _ _, ?_, fun j hj => (wire_source_ne _ _ hj).trans (hsrc j), ?_, ?_⟩
  · rw [wire_eq, hf]
  · exact (pulseAtStop_events ..).trans (pulseAtStop_events s ..).symm
  · exact pulseAtStop_mesh_congr n _ rfl rfl
  · rw [wire_eq, hf]

end Sys2Proof.Machine
end

section
/-!
SUPPORT. Writing every line back (R468): what the steps of the flush leave alone, and the memory that a list of stored lines leaves.
-/
namespace Sys2Proof.Machine

/-! ### Lines of memory -/

theorem leNat_append (l k : List Byte) : leNat (l ++ k) = leNat l + 256 ^ l.length * leNat k := by
  induction l with
  | nil => simp [leNat]
  | cons b l ih => rw [List.cons_append, leNat, leNat, ih, List.length_cons, Nat.pow_succ]; ring

theorem leNat_byteAt (v : Line) (n : Nat) : leNat ((List.range n).map (byteAt v)) = v.toNat % 256 ^ n := by
  induction n with
  | zero => simp [leNat, Nat.mod_one]
  | succ n ih =>
    rw [List.range_succ, List.map_append, leNat_append, ih, List.length_map, List.length_range, List.map_singleton, leNat, leNat,
      Nat.mod_pow_succ, BitVec.toNat_ofNat, Nat.shiftRight_eq_div_pow, Nat.pow_mul]
    norm_num

/-- A line reads back what its 64 bytes are. -/
theorem memLine_of_bytes {m : List Host.Cell} {a : Nat} {v : Line} (h : ∀ i, i < 64 → memByte m (a + i) = byteAt v i) : memLine m a = v := by
  have hb : (List.range 64).map (fun i => memByte m (a + i)) = (List.range 64).map (byteAt v) :=
    List.map_congr_left fun i hi => h i (List.mem_range.mp hi)
  rw [memLine, memRead, hb, leNat_byteAt, show (256 : Nat) ^ 64 = 2 ^ 512 from (Nat.pow_mul 2 8 64).symm, Nat.mod_eq_of_lt v.isLt]
  exact BitVec.eq_of_toNat_eq (by rw [BitVec.toNat_ofNat, Nat.mod_eq_of_lt v.isLt])

theorem memLine_congr {m n : List Host.Cell} {a : Nat} (h : ∀ i, i < 64 → memByte m (a + i) = memByte n (a + i)) : memLine m a = memLine n a := by
  have : (List.range 64).map (fun i => memByte m (a + i)) = (List.range 64).map fun i => memByte n (a + i) :=
    List.map_congr_left fun i hi => h i (List.mem_range.mp hi)
  rw [memLine, memLine, memRead, memRead, this]

theorem memLine_memLinePut_same (m : List Host.Cell) (a : Nat) (v : Line) : memLine (memLinePut m a (BitVec.allOnes 64) v) a = v := by
  refine memLine_of_bytes fun i hi => ?_
  rw [memByte_memLinePut, Nat.add_sub_cancel_left, if_pos ⟨by omega, by omega, by rw [BitVec.getLsbD_allOnes]; exact decide_eq_true hi⟩]

theorem memLine_memLinePut_ne (m : List Host.Cell) {x y : Nat} (mask : LineMask) (v : Line) (h : x ≠ y) :
    memLine (memLinePut m (64 * y) mask v) (64 * x) = memLine m (64 * x) := by
  refine memLine_congr fun i hi => ?_
  rw [memByte_memLinePut, if_neg (by omega)]

/-! ### Storing a list of lines -/

theorem storeLine_online {s : State} {ln : Nat} (d : Line) (p : Bool) (h : (s.chan (s.chanOf (64 * ln))).st ≠ .offline) :
    memLine (s.storeLine ln d p).mem.dram (64 * ln) = d := by
  rw [State.storeLine, if_neg h]
  exact memLine_memLinePut_same ..

theorem storeLine_ne (s : State) {x y : Nat} (d : Line) (p : Bool) (h : x ≠ y) :
    memLine (s.storeLine y d p).mem.dram (64 * x) = memLine s.mem.dram (64 * x) := by
  unfold State.storeLine
  split
  · rfl
  · have hne := memLine_memLinePut_ne s.mem.dram (BitVec.allOnes 64) d h
    exact hne

theorem storeLine_chan (s : State) (ln : Nat) (d : Line) (p : Bool) (la : Nat) :
    ((s.storeLine ln d p).chan ((s.storeLine ln d p).chanOf la)).st = (s.chan (s.chanOf la)).st := by
  unfold State.storeLine
  split <;> rfl

/-- Every line of a list without repeats holds its value once the list is stored. -/
theorem foldl_storeLine (f : Nat → Line × Bool) {ln : Nat} (l : List Nat) (s : State) (hn : l.Nodup) (hc : (s.chan (s.chanOf (64 * ln))).st ≠ .offline) :
    memLine ((l.map fun n => (n, f n)).foldl (fun s (n, v) => s.storeLine n v.1 v.2) s).mem.dram (64 * ln) =
      if ln ∈ l then (f ln).1 else memLine s.mem.dram (64 * ln) := by
  induction l generalizing s with
  | nil => rfl
  | cons n l ih =>
    obtain ⟨hnot, hn⟩ := List.nodup_cons.mp hn
    rw [List.map_cons, List.foldl_cons, ih _ hn (by rw [storeLine_chan]; exact hc)]
    by_cases h : ln = n
    · subst h
      rw [if_neg hnot, if_pos List.mem_cons_self]
      exact storeLine_online _ _ hc
    · by_cases hm : ln ∈ l
      · rw [if_pos hm, if_pos (List.mem_cons_of_mem _ hm)]
      · rw [if_neg hm, if_neg (by simp [h, hm])]
        exact storeLine_ne s _ _ h

/-! ### What the steps of the flush keep -/

/-- What the landing of stores, of queued writes and of lines leaves as it is: of each hart whether it is stopped and its stores, the journal, the log's
next index, the console, the time, the flush energy and the map of the channels. -/
def State.keeps (s t : State) : Prop :=
  (∀ h, (t.hart h).stopped = (s.hart h).stopped ∧ (t.hart h).sb = (s.hart h).sb) ∧ t.ren.journal = s.ren.journal ∧ t.ren.logNext = s.ren.logNext ∧
  t.ren.console = s.ren.console ∧ t.time = s.time ∧ t.brine.energy = s.brine.energy ∧ t.dram.map = s.dram.map ∧
  ∀ ch, (s.chan ch).st ≠ .offline → (t.chan ch).st ≠ .offline

theorem keeps_refl (s : State) : s.keeps s := ⟨fun _ => ⟨rfl, rfl⟩, rfl, rfl, rfl, rfl, rfl, rfl, fun _ h => h⟩

theorem keeps_trans {s t u : State} (h : s.keeps t) (k : t.keeps u) : s.keeps u := by
  obtain ⟨h1, h2, h3, h4, h5, h6, h7, h8⟩ := h
  obtain ⟨k1, k2, k3, k4, k5, k6, k7, k8⟩ := k
  exact ⟨fun g => ⟨(k1 g).1.trans (h1 g).1, (k1 g).2.trans (h1 g).2⟩, k2.trans h2, k3.trans h3, k4.trans h4, k5.trans h5, k6.trans h6, k7.trans h7,
    fun ch hc => k8 ch (h8 ch hc)⟩

theorem foldl_keeps {α : Type} {f : State → α → State} (hf : ∀ s a, State.keeps s (f s a)) (l : List α) (s : State) : s.keeps (l.foldl f s) := by
  induction l generalizing s with
  | nil => exact keeps_refl s
  | cons a l ih => exact keeps_trans (hf s a) (ih _)

theorem ite_keeps {c : Prop} [Decidable c] {s a b : State} (ha : s.keeps a) (hb : s.keeps b) : s.keeps (if c then a else b) := by
  split
  · exact ha
  · exact hb

section
variable (s : State)

theorem setHart_keeps (h : HartId) {c : Hart} (hs : c.stopped = (s.hart h).stopped) (hb : c.sb = (s.hart h).sb) : s.keeps (s.setHart h c) := by
  refine ⟨fun g => ?_, ?_, ?_, ?_, ?_, ?_, ?_, fun ch hc => ?_⟩
  · by_cases hg : g = h
    · subst hg; rw [hart_setHart_same]; exact ⟨hs, hb⟩
    · rw [hart_setHart_ne _ _ _ _ hg]; exact ⟨rfl, rfl⟩
  all_goals rw [setHart_eq]
  exact hc

theorem mapHarts_keeps {f : Hart → Hart} (hf : ∀ c, (f c).stopped = c.stopped ∧ (f c).sb = c.sb) (l : List HartId) : s.keeps (s.mapHarts f l) := by
  induction l generalizing s with
  | nil => exact keeps_refl s
  | cons h l ih => exact keeps_trans (setHart_keeps s h (hf _).1 (hf _).2) (ih _)

/-- A state that differs in memories, caches, the mesh, error records and interrupts. -/
theorem keeps_of_rest {t : State} (h : t = { s with mem := t.mem, coh := t.coh, mesh := t.mesh, err := t.err, irq := t.irq, perf := t.perf }) : s.keeps t := by
  rw [h]
  exact ⟨fun g => by cases g <;> exact ⟨rfl, rfl⟩, rfl, rfl, rfl, rfl, rfl, rfl, fun _ hc => hc⟩

theorem setMark_keeps (la : Nat) (m : LineMark) : s.keeps (s.setMark la m) :=
  ⟨fun g => by cases g <;> exact ⟨rfl, rfl⟩, rfl, rfl, rfl, rfl, rfl, rfl, fun _ hc => hc⟩

theorem loseResv_keeps (la : Nat) (c : Hart) : (c.loseResv la).stopped = c.stopped ∧ (c.loseResv la).sb = c.sb := by
  unfold Hart.loseResv
  split
  · split <;> exact ⟨rfl, rfl⟩
  · exact ⟨rfl, rfl⟩

theorem noteLost_keeps (ln : Nat) (c : Hart) : (c.noteLost ln).stopped = c.stopped ∧ (c.noteLost ln).sb = c.sb := ⟨rfl, rfl⟩

theorem setL2_keeps (a ln : Nat) (c : CLine) : s.keeps (s.setL2 a ln c) := keeps_of_rest s rfl

theorem setL3_keeps (ln : Nat) (v : L3Line) : s.keeps (s.setL3 ln v) := keeps_of_rest s rfl

theorem mapFlits_setCoh_keeps (g : Flit → Flit) (v : Coh) : s.keeps ((s.mapFlits g).setCoh v) := keeps_of_rest s rfl

theorem send_keeps (f : Flit) : s.keeps (s.send f) := keeps_of_rest s rfl

theorem pokeCopies_keeps (ln : Nat) (d : Line) (m : LineMask) : s.keeps (s.pokeCopies ln d m) := by
  unfold State.pokeCopies
  extract_lets whole u v vb wb fl txn
  exact keeps_trans (keeps_trans (foldl_keeps (fun _ _ => setL2_keeps ..) _ s) (ite_keeps (setL3_keeps ..) (keeps_refl _))) (mapFlits_setCoh_keeps ..)

theorem pokeLine_keeps (la : Nat) (d : Line) (m : LineMask) : s.keeps (s.pokeLine la d m) := by
  unfold State.pokeLine
  extract_lets b u mem v w x sram
  split
  · have hu : s.keeps u := pokeCopies_keeps ..
    have hv : u.keeps v := keeps_of_rest u rfl
    have hw : v.keeps w := ite_keeps (setMark_keeps ..) (keeps_refl v)
    have hx : w.keeps x := mapHarts_keeps w (fun c => noteLost_keeps (b / 64) c) _
    exact keeps_trans (keeps_trans (keeps_trans (keeps_trans hu hv) hw) hx) (mapHarts_keeps x (loseResv_keeps _) _)
  · exact keeps_of_rest s rfl
  · exact keeps_refl s

theorem pokeBytes_keeps (n : Nat) (s : State) (la : Nat) (bs : List Byte) : s.keeps (s.pokeBytes la bs n) := by
  induction n generalizing s la bs with
  | zero => exact keeps_refl s
  | succ n ih =>
    unfold State.pokeBytes
    split
    · exact keeps_refl s
    · exact keeps_trans (pokeLine_keeps ..) (ih ..)

theorem drainHeld_keeps : s.keeps s.drainHeld := foldl_keeps (fun _ _ => pokeBytes_keeps ..) _ s

theorem landWrites_keeps : s.keeps s.landWrites := by
  refine foldl_keeps (fun u f => ?_) _ s
  split
  · exact pokeLine_keeps ..
  · exact keeps_refl u

theorem setChan_keeps (ch : Nat) {c : Chan} (h : (s.chan ch).st ≠ .offline → c.st ≠ .offline) : s.keeps (s.setChan ch c) := by
  refine ⟨fun g => by cases g <;> exact ⟨rfl, rfl⟩, rfl, rfl, rfl, rfl, rfl, rfl, fun k hk => ?_⟩
  have hg : (s.setChan ch c).chan k = if k = ch then c else s.chan k := tabGet_tabSet ..
  rw [hg]
  split
  · next e => exact h (e ▸ hk)
  · exact hk

theorem wire_keeps (n : Nat) (lv : Bool) : s.keeps (s.wire n lv) := keeps_of_rest s (wire_eq s n lv)

theorem setErrBank_keeps (n : Nat) (b : ErrBank) : s.keeps (s.setErrBank n b) := keeps_of_rest s rfl

theorem errOrders_keeps (n : Nat) : s.keeps { s with err := { s.err with orders := n } } := keeps_of_rest s rfl

theorem driveErr_keeps (n : Nat) : s.keeps (s.driveErr n) := keeps_trans (wire_keeps s _ _) (wire_keeps _ _ _)

theorem logErr_keeps (e : ErrInfo) : s.keeps (s.logErr e) :=
  keeps_trans (keeps_trans (setErrBank_keeps s _ _) (errOrders_keeps _ _)) (driveErr_keeps _ _)

theorem wirePulse_keeps (n : Nat) : s.keeps (s.wirePulse n) := keeps_trans (wire_keeps s n true) (wire_keeps _ n false)

theorem notice_keeps (code detail : Nat) : s.keeps (s.notice code detail) := by
  unfold State.notice
  split
  · exact keeps_refl s
  · refine keeps_trans ?_ (wirePulse_keeps _ 351)
    split <;> exact ⟨fun g => by cases g <;> exact ⟨rfl, rfl⟩, rfl, rfl, rfl, rfl, rfl, rfl, fun _ hc => hc⟩

theorem retirePage_keeps (ch bank row cause : Nat) : s.keeps (s.retirePage ch bank row cause) := by
  unfold State.retirePage
  split
  · exact keeps_refl s
  · extract_lets dram u v
    have hu : s.keeps u := ⟨fun g => by cases g <;> exact ⟨rfl, rfl⟩, rfl, rfl, rfl, rfl, rfl, rfl, fun _ hc => hc⟩
    have hv : s.keeps v := keeps_trans hu (notice_keeps u _ _)
    split
    · exact keeps_trans hv (notice_keeps v _ _)
    · exact hv

theorem lostRead_keeps (ch : Nat) (r : MemReq) (addr scrub ras : Bool) : s.keeps (s.lostRead ch r addr scrub ras) := by
  unfold State.lostRead
  extract_lets t
  have ht : s.keeps t := logErr_keeps ..
  split
  · exact keeps_trans ht (retirePage_keeps ..)
  · exact ht

theorem logCe_keeps (stop : Nat) : s.keeps (s.logCe stop) := keeps_trans (setErrBank_keeps s _ _) (driveErr_keeps _ _)

theorem correctedRead_keeps (ch : Nat) (r : MemReq) : s.keeps (s.correctedRead ch r) := by
  have hp : s.keeps (s.updChan ch fun c => c.countPage (pageKey r.bank r.row)) := setChan_keeps s ch id
  have hc : ∀ u : State, u.keeps (u.countChan ch 8) := fun u => by
    obtain ⟨p, e, m, h⟩ := count_eq u (portStop (ch / 2)) (1 + ch % 2) 8 1 none
    rw [State.countChan, h]
    exact keeps_of_rest u rfl
  exact keeps_trans (keeps_trans hp (hc _)) (logCe_keeps ..)

theorem performWrite_keeps (ch : Nat) (r : MemReq) : s.keeps (s.performWrite ch r) := by
  unfold State.performWrite
  extract_lets m masked data k m' mem u v w
  have hu : s.keeps u := keeps_of_rest s rfl
  have hv : u.keeps v := setMark_keeps ..
  have hw : v.keeps w := by
    refine ite_keeps (keeps_refl v) ?_
    split
    · exact lostRead_keeps ..
    · exact correctedRead_keeps ..
    · exact keeps_refl v
  have hall := keeps_trans (keeps_trans hu hv) hw
  exact ite_keeps hall (keeps_trans hall (setChan_keeps w ch id))

theorem selfRefresh_keeps (ch : Nat) : s.keeps (s.selfRefresh ch) := by
  have hwrites : ∀ ws staged : List MemReq,
      s.keeps (staged.foldl (fun s r => s.send (memReply ch r .writeDone)) (ws.foldl (fun s r => s.performWrite ch r) s)) := fun ws staged =>
    keeps_trans (foldl_keeps (fun u r => performWrite_keeps u ch r) ws s) (foldl_keeps (fun u _ => send_keeps u _) staged _)
  unfold State.selfRefresh
  extract_lets c staged ws u n
  have hu : s.keeps u := hwrites ws staged
  clear_value u
  split
  · exact keeps_trans hu (setChan_keeps u ch fun _ => by exact nofun)
  · exact keeps_trans hu (setChan_keeps u ch fun _ => by exact nofun)
  · exact keeps_refl s

theorem storeLine_keeps (ln : Nat) (d : Line) (p : Bool) : s.keeps (s.storeLine ln d p) := by
  unfold State.storeLine
  split
  · exact keeps_refl s
  · exact ⟨fun g => by cases g <;> exact ⟨rfl, rfl⟩, rfl, rfl, rfl, rfl, rfl, rfl, fun _ hc => hc⟩

theorem selfRefreshAll_keeps : s.keeps s.selfRefreshAll := foldl_keeps selfRefresh_keeps _ s

theorem settle_keeps (lines : List Nat) : s.keeps (s.settle lines) := by
  unfold State.settle
  extract_lets vals u v coh mesh
  have hu : s.keeps u := selfRefreshAll_keeps s
  have hv : u.keeps v := foldl_keeps (fun _ _ => storeLine_keeps ..) _ u
  exact keeps_trans (keeps_trans hu hv) (keeps_of_rest v rfl)

/-- The memory of a held line after the flush has stored every line of a list (R468). -/
theorem settle_line {lines : List Nat} {ln : Nat} (hn : lines.Nodup) (hm : ln ∈ lines) (hc : (s.chan (s.chanOf (64 * ln))).st = .online) :
    memLine (s.settle lines).mem.dram (64 * ln) = (s.newest ln).1 := by
  have hk := selfRefreshAll_keeps s
  obtain ⟨-, -, -, -, -, -, hmap, hchan⟩ := hk
  have hon : (s.selfRefreshAll.chan (s.selfRefreshAll.chanOf (64 * ln))).st ≠ .offline := by
    rw [State.chanOf, hmap]
    exact hchan _ (by rw [State.chanOf] at hc; rw [hc]; exact nofun)
  exact (foldl_storeLine s.newest lines s.selfRefreshAll hn hon).trans (if_pos hm ▸ rfl)

end

/-! ### Every hart at once -/

theorem mem_allHarts (h : HartId) : h ∈ allHarts := by
  cases h <;> simp [allHarts]

theorem allHarts_nodup : allHarts.Nodup := by
  refine List.Nodup.append ?_ ?_ ?_
  · exact (List.nodup_finRange 192).map fun _ _ h => HartId.t.inj h
  · exact (List.nodup_finRange 48).map fun _ _ h => HartId.s.inj h
  · intro h ht hs
    obtain ⟨n, -, rfl⟩ := List.mem_map.mp ht
    obtain ⟨m, -, hm⟩ := List.mem_map.mp hs
    cases hm

theorem hart_mapHarts (f : Hart → Hart) {l : List HartId} (hn : l.Nodup) (s : State) (g : HartId) :
    (s.mapHarts f l).hart g = if g ∈ l then f (s.hart g) else s.hart g := by
  induction l generalizing s with
  | nil => rfl
  | cons h l ih =>
    obtain ⟨hnot, hn⟩ := List.nodup_cons.mp hn
    rw [State.mapHarts, ih hn]
    by_cases hg : g = h
    · subst hg
      rw [if_neg hnot, if_pos List.mem_cons_self, hart_updHart_same]
    · simp only [hart_updHart_ne f hg, List.mem_cons, hg, false_or]

theorem mapHarts_frame (f : Hart → Hart) (l : List HartId) (s : State) :
    s.mapHarts f l = { s with tcores := (s.mapHarts f l).tcores, scores := (s.mapHarts f l).scores } := by
  induction l generalizing s with
  | nil => rfl
  | cons h l ih =>
    rw [State.mapHarts, ih, State.updHart, setHart_eq]

/-- What a flush leaves of a hart (R468 step 2). -/
theorem hart_stopHarts (s : State) (h : HartId) :
    (s.stopHarts.hart h).stopped = true ∧ (s.stopHarts.hart h).sb = (s.hart h).sb.filter fun e => e.retired := by
  unfold State.stopHarts
  rw [hart_mapHarts _ allHarts_nodup, if_pos (mem_allHarts h)]
  exact ⟨rfl, rfl⟩

theorem stopHarts_frame (s : State) : s.stopHarts = { s with tcores := s.stopHarts.tcores, scores := s.stopHarts.scores } := mapHarts_frame ..

theorem stopHarts_rest (s : State) : s.stopHarts.mem = s.mem ∧ s.stopHarts.coh = s.coh ∧ s.stopHarts.mesh = s.mesh ∧ s.stopHarts.dram = s.dram ∧
    s.stopHarts.pma = s.pma := by
  obtain ⟨a, b, h⟩ : ∃ a b, s.stopHarts = { s with tcores := a, scores := b } := ⟨_, _, stopHarts_frame s⟩
  rw [h]
  exact ⟨rfl, rfl, rfl, rfl, rfl⟩

/-! ### Held stores -/

/-- The pieces of a hart's retired stores to held memory. -/
def Hart.heldPieces (c : Hart) : List (SbEntry × SbPart) :=
  (c.sb.filter (·.retired)).flatMap fun e => (e.parts.filter fun p => p.region == .cached && p.held).map fun p => (e, p)

theorem heldStores_eq_nil {s : State} : s.heldStores = [] ↔ ∀ x ∈ s.tcores ++ s.scores, x.2.heldPieces = [] := List.flatMap_eq_nil_iff

theorem mem_tabPut {v : α} {t : Tab α} {k : Nat} {x : Nat × α} (h : x ∈ tabPut t k v) : x ∈ t ∨ x.2 = v := by
  induction t with
  | nil => exact .inr (congrArg Prod.snd (List.mem_singleton.mp h))
  | cons p t ih =>
    obtain ⟨j, w⟩ := p
    unfold tabPut at h
    split_ifs at h
    · exact (List.mem_cons.mp h).elim (fun e => .inr (congrArg Prod.snd e)) .inl
    · exact (List.mem_cons.mp h).elim (fun e => .inr (congrArg Prod.snd e)) fun e => .inl (List.mem_cons_of_mem _ e)
    · exact (List.mem_cons.mp h).elim (fun e => .inl (e ▸ List.mem_cons_self)) fun e => (ih e).imp_left (List.mem_cons_of_mem _)

theorem mem_tabSet [DecidableEq α] {d v : α} {t : Tab α} {k : Nat} {x : Nat × α} (h : x ∈ tabSet d t k v) : x ∈ t ∨ x.2 = v := by
  unfold tabSet at h
  split at h
  · exact .inl (List.mem_filter.mp h).1
  · exact mem_tabPut h

theorem tabGet_mem_key {d : α} {t : Tab α} {k : Nat} : tabGet d t k = d ∨ (k, tabGet d t k) ∈ t := by
  induction t with
  | nil => exact .inl rfl
  | cons p t ih =>
    obtain ⟨j, v⟩ := p
    rw [tabGet]
    split
    · next h => exact .inr (h ▸ List.mem_cons_self)
    · exact ih.imp id (List.mem_cons_of_mem _)

theorem hart_heldPieces {s : State} (hs : s.heldStores = []) (h : HartId) : (s.hart h).heldPieces = [] := by
  rw [heldStores_eq_nil] at hs
  cases h with
  | t n =>
    rcases tabGet_mem_key (d := Hart.resetT) (t := s.tcores) (k := n.val) with hd | hj
    · rw [State.hart, hd]; rfl
    · exact hs _ (List.mem_append_left _ hj)
  | s n =>
    rcases tabGet_mem_key (d := Hart.resetS) (t := s.scores) (k := n.val) with hd | hj
    · rw [State.hart, hd]; rfl
    · exact hs _ (List.mem_append_right _ hj)

theorem setHart_heldStores {s : State} (hs : s.heldStores = []) (h : HartId) {c : Hart} (hc : c.heldPieces = []) : (s.setHart h c).heldStores = [] := by
  rw [heldStores_eq_nil] at hs ⊢
  intro x hx
  cases h with
  | t n =>
    rcases List.mem_append.mp hx with hx | hx
    · rcases mem_tabSet hx with hx | hx
      · exact hs x (List.mem_append_left _ hx)
      · rw [hx]; exact hc
    · exact hs x (List.mem_append_right _ hx)
  | s n =>
    rcases List.mem_append.mp hx with hx | hx
    · exact hs x (List.mem_append_left _ hx)
    · rcases mem_tabSet hx with hx | hx
      · exact hs x (List.mem_append_right _ hx)
      · rw [hx]; exact hc

theorem stopHarts_heldStores {s : State} (hs : s.heldStores = []) : s.stopHarts.heldStores = [] := by
  unfold State.stopHarts
  generalize allHarts = l
  induction l generalizing s with
  | nil => exact hs
  | cons h l ih =>
    refine ih (setHart_heldStores hs h ?_)
    have := hart_heldPieces hs h
    unfold Hart.heldPieces at this ⊢
    simpa [List.filter_filter] using this

/-! ### Where nothing lands (R468 step 3) -/

theorem drainHeld_nothing {s : State} (hs : s.heldStores = []) : s.drainHeld = s := by
  rw [State.drainHeld, hs]
  rfl

theorem landWrites_nothing {s : State} (h : ∀ f ∈ s.flits ++ s.coh.waitq, f.op ≠ .writeNc) : s.landWrites = s := by
  unfold State.landWrites
  revert h
  generalize s.flits ++ s.coh.waitq = l
  intro h
  induction l with
  | nil => rfl
  | cons f l ih =>
    obtain ⟨hf, hl⟩ := List.forall_mem_cons.mp h
    rw [List.foldl_cons, if_neg (by simp [hf]), ih hl]

theorem flits_congr {s t : State} (hm : t.mesh = s.mesh) (hc : t.coh = s.coh) : t.flits = s.flits := by
  unfold State.flits
  rw [hm, hc]

/-- Harts and the clock say nothing of where the newest data of a line is. -/
theorem newest_congr {s t : State} (hm : t.mem = s.mem) (hc : t.coh = s.coh) (hd : t.dram = s.dram) (hf : t.flits = s.flits) (ln : Nat) :
    t.newest ln = s.newest ln := by
  unfold State.newest State.sliceData State.flying State.l3 State.txn
  rw [hm, hc, hd, hf]

theorem dirtyLines_congr {s t : State} (hc : t.coh = s.coh) (hf : t.flits = s.flits) : t.dirtyLines = s.dirtyLines := by
  unfold State.dirtyLines
  rw [hc, hf]

/-! ### The flush (R468, R469) -/

section
variable (s : State)

/-- The state once stores and issued writes have landed. -/
def State.landed : State := s.stopHarts.drainHeld.landWrites

/-- The lines that the flush writes back. -/
def State.flushLines : List Nat :=
  ((s.landed.dirtyLines ++ s.stopHarts.storeLines).dedup.filter (fun ln => s.landed.heldAt (64 * ln)) ++ s.landed.coh.wb.map (fun e : WbEntry => e.la / 64) ++
    s.landed.coh.vb.map fun e : VbEntry => e.la / 64).dedup

/-- The state with the flush record programmed, and the package inert. -/
def State.flushRecorded (r : FlushRec) : State :=
  { s with ren := { s.ren with flush := r }, sec := { s.sec with toks := [], authErr := s.sec.authErr && s.sec.toks.isEmpty }, phase := .inert }

theorem flushSteps_eq (t0 : Nat) : ∃ r : FlushRec,
    (r.valid = true ∧ r.complete = true ∧ r.consumed = false ∧ r.t0 = t0 ∧ r.energy = (s.landed.settle s.flushLines).takeNat.2.brine.energy ∧
      r.map = (s.landed.settle s.flushLines).takeNat.2.dram.map) ∧
    s.flushSteps t0 = ((s.landed.settle s.flushLines).takeNat.2).flushRecorded r := by
  unfold State.flushSteps State.flushLines State.landed
  extract_lets used a stores b held wb vb lines u
  have ha : s.stopHarts = a := rfl
  have hb : a.drainHeld.landWrites = b := rfl
  rw [ha, hb]
  clear_value b a
  have hu : b.settle lines = u := rfl
  rw [hu]
  clear_value u
  generalize u.takeNat = x
  obtain ⟨d, w⟩ := x
  exact ⟨_, ⟨rfl, rfl, rfl, rfl, rfl, rfl⟩, rfl⟩

theorem flushRecorded_spec (r : FlushRec) : (s.flushRecorded r).phase = .inert ∧ (s.flushRecorded r).ren.flush = r ∧
    (s.flushRecorded r).coh = s.coh ∧ (s.flushRecorded r).mem = s.mem := ⟨rfl, rfl, rfl, rfl⟩

theorem settle_caches (lines : List Nat) : (s.settle lines).takeNat.2.coh.l2 = [] ∧ (s.settle lines).takeNat.2.coh.l3 = [] ∧
    (s.settle lines).takeNat.2.coh.wb = [] ∧ (s.settle lines).takeNat.2.coh.vb = [] := ⟨rfl, rfl, rfl, rfl⟩

theorem takeNat_mem : s.takeNat.2.mem = s.mem := rfl

theorem takeNat_keeps : s.keeps s.takeNat.2 :=
  ⟨fun g => by cases g <;> exact ⟨rfl, rfl⟩, rfl, rfl, rfl, rfl, rfl, rfl, fun _ hc => hc⟩

theorem flushRecorded_keeps (r : FlushRec) : s.keeps (s.flushRecorded r) :=
  ⟨fun g => by cases g <;> exact ⟨rfl, rfl⟩, rfl, rfl, rfl, rfl, rfl, rfl, fun _ hc => hc⟩

/-- The steps after the harts have stopped keep what the flush does not say. -/
theorem flushSteps_keeps (t0 : Nat) : s.stopHarts.keeps (s.flushSteps t0) := by
  obtain ⟨r, -, h⟩ := flushSteps_eq s t0
  rw [h]
  exact keeps_trans (keeps_trans (keeps_trans (keeps_trans (drainHeld_keeps _) (landWrites_keeps _)) (settle_keeps _ _)) (takeNat_keeps _)) (flushRecorded_keeps _ r)

/-- The flush stops every hart with its retired stores only, and says when it began. -/
theorem flushSteps_spec (t0 : Nat) : let t := s.flushSteps t0
    (∀ h, (t.hart h).stopped = true ∧ ∀ e ∈ (t.hart h).sb, e.retired = true) ∧ t.phase = .inert ∧ t.flushed = true ∧
    t.coh.l2 = [] ∧ t.coh.l3 = [] ∧ t.coh.wb = [] ∧ t.coh.vb = [] ∧
    t.ren.flush.valid = true ∧ t.ren.flush.complete = true ∧ t.ren.flush.t0 = t0 ∧ t.ren.flush.energy = s.brine.energy ∧ t.ren.flush.map = s.dram.map ∧
    t.ren.journal = s.ren.journal ∧ t.ren.logNext = s.ren.logNext ∧ t.ren.console = s.ren.console ∧ t.time = s.time := by
  obtain ⟨hhart, hj, hn, hcon, htime, -, -, -⟩ := flushSteps_keeps s t0
  obtain ⟨r, ⟨hv, hcomp, hcons, ht0, hen, hmap⟩, heq⟩ := flushSteps_eq s t0
  obtain ⟨-, -, -, -, -, hen', hmap', -⟩ := keeps_trans (keeps_trans (keeps_trans (drainHeld_keeps s.stopHarts) (landWrites_keeps _))
    (settle_keeps s.landed s.flushLines)) (takeNat_keeps _)
  rw [stopHarts_frame s] at hj hn hcon htime hen' hmap'
  obtain ⟨hphase, hflush, hcoh, -⟩ := flushRecorded_spec (s.landed.settle s.flushLines).takeNat.2 r
  obtain ⟨hl2, hl3, hwb, hvb⟩ := settle_caches s.landed s.flushLines
  rw [← heq] at hphase hflush hcoh
  have hharts : ∀ h, ((s.flushSteps t0).hart h).stopped = true ∧ ∀ e ∈ ((s.flushSteps t0).hart h).sb, e.retired = true := by
    intro h
    obtain ⟨hstop, hsb⟩ := hart_stopHarts s h
    rw [(hhart h).1, (hhart h).2, hstop, hsb]
    exact ⟨rfl, fun e he => (List.mem_filter.mp he).2⟩
  have hflushed : (s.flushSteps t0).flushed = true := by
    rw [State.flushed, hphase, hflush, hv, hcons]
    rfl
  refine ⟨hharts, hphase, hflushed, ?_, ?_, ?_, ?_, ?_, ?_, ?_, ?_, ?_, hj, hn, hcon, htime⟩
  · exact (congrArg Coh.l2 hcoh).trans hl2
  · exact (congrArg Coh.l3 hcoh).trans hl3
  · exact (congrArg Coh.wb hcoh).trans hwb
  · exact (congrArg Coh.vb hcoh).trans hvb
  · exact (congrArg FlushRec.valid hflush).trans hv
  · exact (congrArg FlushRec.complete hflush).trans hcomp
  · exact (congrArg FlushRec.t0 hflush).trans ht0
  · exact (congrArg FlushRec.energy hflush).trans (hen.trans hen')
  · exact (congrArg FlushRec.map hflush).trans (hmap.trans hmap')

/-- The newest value of a held dirty line of an online channel reaches memory, where no store and no write is on its way (R468). -/
theorem flushSteps_line {ln : Nat} (t0 : Nat) (hst : s.heldStores = []) (hw : ∀ f ∈ s.flits ++ s.coh.waitq, f.op ≠ .writeNc) (hd : ln ∈ s.dirtyLines)
    (hh : s.heldAt (64 * ln) = true) (hc : (s.chan (s.chanOf (64 * ln))).st = .online) :
    memLine (s.flushSteps t0).mem.dram (64 * ln) = (s.newest ln).1 := by
  obtain ⟨hmem', hcoh, hmesh, hdram, hpma⟩ := stopHarts_rest s
  have hflits := flits_congr hmesh hcoh
  have hland : s.landed = s.stopHarts := by
    rw [State.landed, drainHeld_nothing (stopHarts_heldStores hst), landWrites_nothing]
    rw [hflits, hcoh]
    exact hw
  have hnew : s.stopHarts.newest ln = s.newest ln := newest_congr hmem' hcoh hdram hflits ln
  have hmem : ln ∈ s.flushLines := by
    rw [State.flushLines, List.mem_dedup, hland, dirtyLines_congr hcoh hflits]
    refine List.mem_append_left _ (List.mem_append_left _ (List.mem_filter.mpr ⟨List.mem_dedup.mpr (List.mem_append_left _ hd), ?_⟩))
    rw [State.heldAt, hpma]
    exact hh
  obtain ⟨r, -, heq⟩ := flushSteps_eq s t0
  obtain ⟨-, -, -, hm⟩ := flushRecorded_spec (s.landed.settle s.flushLines).takeNat.2 r
  have hon : (s.stopHarts.chan (s.stopHarts.chanOf (64 * ln))).st = .online := by
    unfold State.chan State.chanOf at hc ⊢
    rw [hdram]
    exact hc
  have hnodup : s.flushLines.Nodup := by
    rw [State.flushLines]
    exact List.nodup_dedup _
  rw [heq, hm, takeNat_mem, hland, ← hnew]
  exact settle_line s.stopHarts hnodup hmem hon

end

end Sys2Proof.Machine
end

section
/-!
SUPPORT. A T-core's L2 that can allocate no more (R505, R192): what its emptying leaves alone, and that every line leaves it.
-/
namespace Sys2Proof.Machine

/-! ### The hart of a T-core's L2 -/

theorem agentHarts_eq {h g : HartId} (ht : isT h = true) (hg : g ∈ agentHarts (agentOf h)) : g = h := by
  have hg := of_decide_eq_true (List.mem_filter.mp hg).2
  cases h with
  | s n => exact absurd ht (by simp [isT])
  | t n =>
    cases g with
    | t m => exact congrArg HartId.t (Fin.ext hg)
    | s m =>
      have : 192 + m.val / 4 = n.val := hg
      omega

theorem agentOf_lt {h : HartId} (ht : isT h = true) : agentOf h < 192 := by
  cases h with
  | s n => exact absurd ht (by simp [isT])
  | t n => exact n.isLt

theorem ofNat_agentOf {h : HartId} (ht : isT h = true) : HartId.t (Fin.ofNat 192 (agentOf h)) = h := by
  cases h with
  | s n => exact absurd ht (by simp [isT])
  | t n => exact congrArg HartId.t (Fin.ext (Nat.mod_eq_of_lt n.isLt))

/-! ### What a hart's caches do without the hart -/

/-- The other harts are as they were, and so are the memories and the clock; hart `h` stays fatal, takes no reservation and, where no reset of it is under
way, its L2 goes on allocating nothing; error records only come in. -/
def State.spares (h : HartId) (s t : State) : Prop :=
  (∀ g, g ≠ h → t.hart g = s.hart g) ∧ (t.hart h).fatal = (s.hart h).fatal ∧ ((s.hart h).resv = none → (t.hart h).resv = none) ∧
  ((s.hart h).rstBusy = false → (t.hart h).rstBusy = false ∧ t.coh.noAlloc = s.coh.noAlloc) ∧ t.mem = s.mem ∧ t.time = s.time ∧
  s.err.orders ≤ t.err.orders

section
variable {h : HartId}

theorem spares_refl (s : State) : s.spares h s := ⟨fun _ _ => rfl, rfl, id, fun hb => ⟨hb, rfl⟩, rfl, rfl, le_rfl⟩

theorem spares_trans {s t u : State} (a : s.spares h t) (b : t.spares h u) : s.spares h u := by
  obtain ⟨a1, a2, a3, a4, a5, a6, a7⟩ := a
  obtain ⟨b1, b2, b3, b4, b5, b6, b7⟩ := b
  refine ⟨fun g hg => (b1 g hg).trans (a1 g hg), b2.trans a2, fun hr => b3 (a3 hr), fun hb => ?_, b5.trans a5, b6.trans a6, a7.trans b7⟩
  obtain ⟨hb1, hn1⟩ := a4 hb
  obtain ⟨hb2, hn2⟩ := b4 hb1
  exact ⟨hb2, hn2.trans hn1⟩

theorem foldl_spares {α : Type} {f : State → α → State} {l : List α} (hf : ∀ a ∈ l, ∀ s : State, s.spares h (f s a)) (s : State) : s.spares h (l.foldl f s) := by
  induction l generalizing s with
  | nil => exact spares_refl s
  | cons a l ih =>
    obtain ⟨ha, hl⟩ := List.forall_mem_cons.mp hf
    exact spares_trans (ha s) (ih hl _)

theorem ite_spares {c : Prop} [Decidable c] {s a b : State} (ha : s.spares h a) (hb : s.spares h b) : s.spares h (if c then a else b) := by
  split
  · exact ha
  · exact hb

/-- A change of the caches, the mesh, tokens, sources and error records alone. -/
theorem spares_of_rest {s t : State} (ht : t = { s with coh := t.coh, mesh := t.mesh, irq := t.irq, brine := t.brine, free := t.free, err := t.err })
    (hn : t.coh.noAlloc = s.coh.noAlloc) (he : s.err.orders ≤ t.err.orders) : s.spares h t := by
  have hh : ∀ g, t.hart g = s.hart g := fun g => by rw [ht]; cases g <;> rfl
  exact ⟨fun g _ => hh g, by rw [hh], by rw [hh]; exact id, by rw [hh]; exact fun hb => ⟨hb, hn⟩, by rw [ht], by rw [ht], he⟩

theorem setHart_spares {s : State} {c : Hart} (hf : c.fatal = (s.hart h).fatal) (hr : (s.hart h).resv = none → c.resv = none)
    (hb : c.rstBusy = (s.hart h).rstBusy) : s.spares h (s.setHart h c) := by
  refine ⟨fun g hg => hart_setHart_ne _ _ _ _ hg, ?_, ?_, ?_, by simp, by simp, by simp⟩
  · rw [hart_setHart_same, hf]
  · rw [hart_setHart_same]; exact hr
  · rw [hart_setHart_same, hb]; exact fun h => ⟨h, by simp⟩

theorem mapHarts_spares {f : Hart → Hart} {l : List HartId} (hl : ∀ g ∈ l, g = h)
    (hf : ∀ c, (f c).fatal = c.fatal ∧ (c.resv = none → (f c).resv = none) ∧ (f c).rstBusy = c.rstBusy) (s : State) : s.spares h (s.mapHarts f l) := by
  induction l generalizing s with
  | nil => exact spares_refl s
  | cons g l ih =>
    obtain ⟨hg, hl⟩ := List.forall_mem_cons.mp hl
    subst hg
    obtain ⟨h1, h2, h3⟩ := hf (s.hart g)
    exact spares_trans (setHart_spares h1 h2 h3) (ih hl _)

theorem event_spares (s : State) (code n : Nat) : s.spares h (s.event h code n) := by
  obtain ⟨⟨hframe, hne, -⟩, hsame, -⟩ := event_spec s h code n
  refine ⟨hne, by rw [hsame], by rw [hsame]; exact id, fun hb => ⟨by rw [hsame]; exact hb, ?_⟩, ?_, ?_, ?_⟩
  all_goals rw [hframe]

/-! ### Lines that are lost (R505) -/

theorem lineLost_spares (ht : isT h = true) (s : State) (ln : Nat) : s.spares h (s.lineLost (agentOf h) ln) := by
  refine mapHarts_spares (fun g hg => agentHarts_eq ht (List.mem_filter.mp hg).1) (fun c => ?_) s
  have hl : ∀ d : Hart, (d.loseL1 ln).fatal = d.fatal ∧ (d.loseL1 ln).resv = d.resv ∧ (d.loseL1 ln).rstBusy = d.rstBusy := fun d => ⟨rfl, rfl, rfl⟩
  obtain ⟨h1, h2, h3⟩ := hl (c.loseResv (64 * ln))
  rw [h1, h2, h3]
  unfold Hart.loseResv
  split
  · split
    · exact ⟨rfl, fun _ => rfl, rfl⟩
    · exact ⟨rfl, id, rfl⟩
  · exact ⟨rfl, id, rfl⟩

theorem logErr_spares (s : State) (e : ErrInfo) : s.spares h (s.logErr e) := spares_of_rest rfl rfl (Nat.le_succ _)

theorem vbPush_spares (s : State) (ln : Nat) (d : Line) (m : LineMask) (p k : Bool) : s.spares h (s.vbPush ln d m p k) := spares_of_rest rfl rfl le_rfl

end

/-- Only the L3 and the victim buffers change. -/
def State.belowL2 (s t : State) : Prop := ∃ l v, t = { s with coh := { s.coh with l3 := l, vb := v } }

theorem belowL2_refl (s : State) : s.belowL2 s := ⟨s.coh.l3, s.coh.vb, rfl⟩

theorem belowL2_trans {s t u : State} (a : s.belowL2 t) (b : t.belowL2 u) : s.belowL2 u := by
  obtain ⟨l, v, rfl⟩ := a
  obtain ⟨l', v', rfl⟩ := b
  exact ⟨l', v', rfl⟩

theorem setL3_belowL2 (s : State) (ln : Nat) (v : L3Line) : s.belowL2 (s.setL3 ln v) := ⟨_, s.coh.vb, rfl⟩

theorem vbPush_belowL2 (s : State) (ln : Nat) (d : Line) (m : LineMask) (p k : Bool) : s.belowL2 (s.vbPush ln d m p k) := ⟨s.coh.l3, _, rfl⟩

theorem ageSet_belowL2 (s : State) (ln n : Nat) : s.belowL2 (s.ageSet ln n) := by
  unfold State.ageSet
  generalize s.l3Set ln = l
  induction l generalizing s with
  | nil => exact belowL2_refl s
  | cons p l ih =>
    rw [List.foldl_cons]
    obtain ⟨k, e⟩ := p
    refine belowL2_trans ?_ (ih _)
    dsimp only
    split
    · exact setL3_belowL2 ..
    · exact belowL2_refl s

theorem l3Way_belowL2 {s t : State} {ln : Nat} {w : Option (Fin 16)} (h : s.l3Way ln = some (t, w)) : s.belowL2 t := by
  unfold State.l3Way at h
  dsimp only at h
  have stays {u : State} {v : Option (Fin 16)} (k : some (u, v) = some (t, w)) : u = t := (Prod.mk.inj (Option.some.inj k)).1
  split at h
  · exact stays h ▸ belowL2_refl s
  · split at h
    · exact stays h ▸ belowL2_refl s
    · split at h
      · exact stays h ▸ belowL2_refl s
      · split at h
        · exact stays h ▸ belowL2_refl s
        · split at h
          · exact absurd h (by simp)
          · have e := stays h
            subst e
            split
            · exact belowL2_trans (belowL2_trans (ageSet_belowL2 ..) (setL3_belowL2 ..)) (vbPush_belowL2 ..)
            · exact belowL2_trans (ageSet_belowL2 ..) (setL3_belowL2 ..)

theorem l3Put_belowL2 {s t : State} {ln : Nat} {d : Line} {a p k : Bool} {r : Fin 4} (h : s.l3Put ln d a p k r = some t) : s.belowL2 t := by
  unfold State.l3Put at h
  split at h
  · exact absurd h (by simp)
  · next u w hw => cases h; exact belowL2_trans (l3Way_belowL2 hw) (setL3_belowL2 ..)
  · next u hw =>
    repeat' split at h
    · exact absurd h (by simp)
    · cases h; exact belowL2_trans (l3Way_belowL2 hw) (belowL2_trans (setL3_belowL2 ..) (vbPush_belowL2 ..))
    · cases h; exact l3Way_belowL2 hw

theorem belowL2_spares {h : HartId} {s t : State} (a : s.belowL2 t) : s.spares h t := by
  obtain ⟨l, v, rfl⟩ := a
  exact spares_of_rest rfl rfl le_rfl

/-! ### A line that nobody can read (R505) -/

/-- What `lostLine` does, once the L2 has let the line go. -/
theorem lostLine_cases {P : State → Prop} (s : State) (a ln : Nat) (hI : (s.l2 a ln).st = .i → P s)
    (hgone : P ((((s.lineLost a ln).setL2 a ln .invalid)).setSf ln (((((s.lineLost a ln).setL2 a ln .invalid)).sf ln).drop a)))
    (hhome : ∀ e t, ((((((s.lineLost a ln).setL2 a ln .invalid)).setSf ln (((((s.lineLost a ln).setL2 a ln .invalid)).sf ln).drop a)).takeLine.2).logErr e).belowL2 t → P t) :
    P (s.lostLine a ln) := by
  unfold State.lostLine
  extract_lets c own u v
  split
  · next h => exact hI h
  · split
    · exact hgone
    · generalize hx : v.takeLine = x
      obtain ⟨d, w⟩ := x
      have hw : w = v.takeLine.2 := by rw [hx]
      clear hx
      subst hw
      dsimp only
      split
      · next t ht => exact hhome _ t (l3Put_belowL2 ht)
      · exact hhome _ _ (vbPush_belowL2 ..)

/-! ### What the caches of an agent do (R161, R165, R166, R185) -/

section
variable {h : HartId}

theorem setL2_spares (s : State) (a ln : Nat) (c : CLine) : s.spares h (s.setL2 a ln c) := spares_of_rest rfl rfl le_rfl
theorem setSf_spares (s : State) (ln : Nat) (v : SfEntry) : s.spares h (s.setSf ln v) := spares_of_rest rfl rfl le_rfl
theorem takeLine_spares (s : State) : s.spares h s.takeLine.2 := spares_of_rest rfl rfl le_rfl
theorem send_spares (s : State) (f : Flit) : s.spares h (s.send f) := spares_of_rest rfl rfl le_rfl
theorem putMshr_spares (s : State) (a ln : Nat) (m : Option Mshr) : s.spares h (s.putMshr a ln m) := spares_of_rest rfl rfl le_rfl
theorem setTree_spares (s : State) (a ln bits : Nat) : s.spares h (s.setTree a ln bits) := spares_of_rest rfl rfl le_rfl
theorem setWb_spares (s : State) (l : List WbEntry) : s.spares h { s with coh := { s.coh with wb := l } } := spares_of_rest rfl rfl le_rfl
theorem setFills_spares (s : State) (l : List Flit) : s.spares h { s with coh := { s.coh with fills := l } } := spares_of_rest rfl rfl le_rfl

theorem fillD_core (t : Bool) (c : Hart) (ln : Nat) :
    (c.fillD t ln).fatal = c.fatal ∧ (c.fillD t ln).resv = c.resv ∧ (c.fillD t ln).rstBusy = c.rstBusy := by
  unfold Hart.fillD
  extract_lets d
  split
  · exact ⟨rfl, rfl, rfl⟩
  · generalize l1Put (l1Depth t) d.dl1 d.dtree ln = x
    obtain ⟨l, tree, out⟩ := x
    cases out <;> exact ⟨rfl, rfl, rfl⟩

theorem fillI_core (t : Bool) (c : Hart) (ln : Nat) :
    (c.fillI t ln).fatal = c.fatal ∧ (c.fillI t ln).resv = c.resv ∧ (c.fillI t ln).rstBusy = c.rstBusy := by
  unfold Hart.fillI
  extract_lets d
  split
  · exact ⟨rfl, rfl, rfl⟩
  · generalize l1Put (l1Depth t) d.il1 d.itree ln = x
    obtain ⟨l, tree, out⟩ := x
    exact ⟨rfl, rfl, rfl⟩

theorem updHart_spares {s : State} {f : Hart → Hart}
    (hf : ∀ c, (f c).fatal = c.fatal ∧ (f c).resv = c.resv ∧ (f c).rstBusy = c.rstBusy) : s.spares h (s.updHart h f) := by
  obtain ⟨h1, h2, h3⟩ := hf (s.hart h)
  exact setHart_spares h1 (fun hr => h2.trans hr) h3

variable (ht : isT h = true)
include ht

theorem serveFills_spares (s : State) (ln : Nat) : s.spares h (s.serveFills (agentOf h) ln) := by
  refine foldl_spares (fun g hg u => ?_) s
  have hg := agentHarts_eq ht hg
  subst hg
  extract_lets c v
  have hv : u.spares g v := ite_spares (updHart_spares fun c => fillD_core _ c ln) (spares_refl u)
  exact ite_spares (spares_trans hv (updHart_spares fun c => fillI_core _ c ln)) hv

theorem eventL2_spares (s : State) (code : Nat) : s.spares h (s.eventL2 (agentOf h) code) := by
  unfold State.eventL2
  rw [if_pos (agentOf_lt ht), ofNat_agentOf ht]
  exact event_spares ..

theorem evict_spares (s : State) (ln : Nat) : s.spares h (s.evict (agentOf h) ln) := by
  unfold State.evict
  extract_lets c u v
  have hu : s.spares h u := spares_trans (lineLost_spares ht s ln) (setL2_spares ..)
  have hv : s.spares h v := by
    refine ite_spares ?_ hu
    rw [ofNat_agentOf ht]
    exact spares_trans hu (updHart_spares fun _ => ⟨rfl, rfl, rfl⟩)
  split
  · exact hv
  · exact spares_trans (spares_trans (spares_trans hv (setWb_spares ..)) (eventL2_spares ht ..)) (send_spares ..)
  · exact spares_trans (spares_trans (spares_trans hv (setWb_spares ..)) (eventL2_spares ht ..)) (send_spares ..)
  · exact spares_trans hv (send_spares ..)
  · exact spares_trans hv (send_spares ..)

theorem lostLine_spares (s : State) (ln : Nat) : s.spares h (s.lostLine (agentOf h) ln) := by
  have hgone := spares_trans (spares_trans (lineLost_spares ht s ln) (setL2_spares _ (agentOf h) ln .invalid))
    (setSf_spares _ ln ((((s.lineLost (agentOf h) ln).setL2 (agentOf h) ln .invalid).sf ln).drop (agentOf h)))
  exact lostLine_cases s (agentOf h) ln (fun _ => spares_refl s) hgone fun e t hb =>
    spares_trans (spares_trans (spares_trans hgone (takeLine_spares _)) (logErr_spares _ e)) (belowL2_spares hb)

theorem install_spares (s : State) (ln : Nat) (c : CLine) : s.spares h (s.install (agentOf h) ln c) := by
  unfold State.install
  extract_lets old w u v
  split
  · exact spares_trans (setL2_spares ..) (serveFills_spares ht ..)
  · have hu : s.spares h u := by
      show s.spares h (match s.inSetWay (agentOf h) ln w with | some k => s.evict (agentOf h) k | none => s)
      split
      · exact evict_spares ht ..
      · exact spares_refl s
    exact spares_trans (spares_trans (spares_trans hu (setL2_spares ..)) (setTree_spares ..)) (serveFills_spares ht ..)

theorem fill_spares (s : State) (f : Flit) : s.spares h (s.fill f (agentOf h)) := by
  unfold State.fill
  extract_lets ln d old op pref st e c u
  split
  · exact spares_trans (putMshr_spares ..) (setL2_spares ..)
  · have hu : s.spares h u := install_spares ht ..
    exact ite_spares (spares_trans (spares_trans hu (putMshr_spares ..)) (send_spares ..)) (spares_trans hu (putMshr_spares ..))

theorem permit_spares (s : State) (f : Flit) : s.spares h (s.permit f (agentOf h)) := by
  unfold State.permit
  extract_lets ln old u v
  have hu : s.spares h u := putMshr_spares ..
  exact spares_trans (spares_trans hu (ite_spares (setL2_spares ..) (install_spares ht ..))) (send_spares ..)

theorem tryFill_spares {s t : State} {f : Flit} (hr : s.tryFill f (agentOf h) = some t) : s.spares h t := by
  unfold State.tryFill at hr
  dsimp only at hr
  repeat' split at hr
  · exact Option.some.inj hr ▸ fill_spares ht ..
  · exact absurd hr nofun
  · exact absurd hr nofun
  · exact Option.some.inj hr ▸ permit_spares ht ..
  · exact absurd hr nofun

theorem emptyMore_spares (s : State) : s.spares h (s.emptyMore (agentOf h)) := by
  refine foldl_spares (fun x _ u => ?_) s
  obtain ⟨ln, l⟩ := x
  exact ite_spares (spares_refl u) (evict_spares ht ..)

omit ht in
/-- The end of a reset that was under way. -/
theorem endReset_spares {s : State} {c : Hart} (hb : (s.hart h).rstBusy = true) (hf : c.fatal = (s.hart h).fatal) (hr : c.resv = (s.hart h).resv) (x : Tab Bool) :
    s.spares h { s.setHart h c with coh := { (s.setHart h c).coh with noAlloc := x } } := by
  have hk : ∀ k, ({ s.setHart h c with coh := { (s.setHart h c).coh with noAlloc := x } } : State).hart k = (s.setHart h c).hart k := fun k => by cases k <;> rfl
  refine ⟨fun g hg => (hk g).trans (hart_setHart_ne _ _ _ _ hg), ?_, ?_, ?_, by simp, by simp, by simp⟩
  · rw [hk, hart_setHart_same, hf]
  · rw [hk, hart_setHart_same, hr]; exact id
  · rw [hb]; exact fun h => absurd h (by simp)

theorem resetEmptied_spares (s : State) : s.spares h (s.resetEmptied (agentOf h)) := by
  refine foldl_spares (fun g hg u => ?_) s
  have hg := agentHarts_eq ht hg
  subst hg
  extract_lets c v
  split
  · next hc =>
    simp only [Bool.and_eq_true] at hc
    obtain ⟨⟨-, hbusy⟩, -⟩ := hc
    exact endReset_spares (c := { c with rstBusy := c.fatal }) hbusy rfl rfl _
  · exact spares_refl u

omit ht in
theorem sendReq_spares (s : State) (ln : Nat) (f : Flit) (core : Option HartId) : s.spares h (s.sendReq (agentOf h) ln f core) := by
  unfold State.sendReq
  split
  · exact spares_refl s
  · extract_lets f' g
    split
    · exact spares_trans (putMshr_spares ..) (send_spares ..)
    · exact ite_spares (spares_refl s) (spares_trans (putMshr_spares ..) (send_spares ..))

omit ht in
theorem sendClean_keep (s : State) (h : HartId) (ln : Nat) : ∃ f core, s.sendClean h ln .cleanKeep = s.sendReq (agentOf h) ln f core := by
  unfold State.sendClean
  simp only [true_or, if_true]
  exact ⟨_, _, rfl⟩

omit ht in
theorem pump_spares (s : State) : s.spares h (s.pump h) := by
  refine foldl_spares (fun u _ v => ite_spares ?_ (spares_refl v)) s
  obtain ⟨f, core, hs⟩ := sendClean_keep (v.updHart h fun c => { c with uload := c.uload.map fun x => if x = u then { u with wait := none } else x }) h (lineOf u.pa)
  rw [hs]
  refine spares_trans ?_ (sendReq_spares ..)
  exact updHart_spares fun _ => ⟨rfl, rfl, rfl⟩

/-- What goes on at an agent spares everything but the caches (R147, R192). -/
theorem goesOn_spares (s : State) : s.spares h (s.goesOn (agentOf h)) := by
  unfold State.goesOn
  extract_lets mine u v
  have hu : s.spares h u := by
    refine foldl_spares (fun f _ w => ite_spares (spares_refl w) ?_) s
    split
    · next x hx => exact spares_trans (tryFill_spares ht hx) (setFills_spares ..)
    · exact spares_refl w
  have hv : s.spares h v := ite_spares (spares_trans (spares_trans hu (emptyMore_spares ht u)) (resetEmptied_spares ht _)) hu
  refine spares_trans hv (foldl_spares (fun g hg w => ?_) v)
  have hg := agentHarts_eq ht (List.mem_filter.mp hg).1
  subst hg
  exact pump_spares w

end

/-! ### How the L2 of an agent empties (R192) -/

/-- Lines of an agent and copies on their way from it. -/
def State.load (a : Nat) (s : State) : Nat := s.wbCount a + (s.agentLines a).length

/-- Lines only leave the L2 of agent `a`; no request and no grant comes or goes. -/
def State.shrinks (a : Nat) (s t : State) : Prop :=
  (∀ ln, t.l2 a ln = s.l2 a ln ∨ (t.l2 a ln).st = .i) ∧ t.coh.fills = s.coh.fills ∧ t.coh.mshr = s.coh.mshr ∧ t.load a ≤ s.load a

section
variable {a : Nat}

theorem shrinks_refl (s : State) : s.shrinks a s := ⟨fun _ => .inl rfl, rfl, rfl, le_rfl⟩

theorem shrinks_trans {s t u : State} (x : s.shrinks a t) (y : t.shrinks a u) : s.shrinks a u := by
  obtain ⟨x1, x2, x3, x4⟩ := x
  obtain ⟨y1, y2, y3, y4⟩ := y
  refine ⟨fun ln => ?_, y2.trans x2, y3.trans x3, y4.trans x4⟩
  rcases y1 ln with h | h
  · rw [h]; exact x1 ln
  · exact .inr h

theorem shrinks_invalid {s t : State} (x : s.shrinks a t) {ln : Nat} (h : (s.l2 a ln).st = .i) : (t.l2 a ln).st = .i :=
  (x.1 ln).elim (fun e => e ▸ h) id

theorem foldl_shrinks {α : Type} {f : State → α → State} (hf : ∀ s x, State.shrinks a s (f s x)) (l : List α) (s : State) : s.shrinks a (l.foldl f s) := by
  induction l generalizing s with
  | nil => exact shrinks_refl s
  | cons x l ih => exact shrinks_trans (hf s x) (ih _)

theorem shrinks_of_same {s t : State} (h2 : t.coh.l2 = s.coh.l2) (hf : t.coh.fills = s.coh.fills) (hm : t.coh.mshr = s.coh.mshr) (hw : t.coh.wb = s.coh.wb) :
    s.shrinks a t := by
  refine ⟨fun ln => .inl ?_, hf, hm, le_of_eq ?_⟩
  · rw [State.l2, State.l2, h2]
  · rw [State.load, State.load, State.wbCount, State.wbCount, State.agentLines, State.agentLines, h2, hw]

theorem shrinks_of_coh {s t : State} (h : t.coh = s.coh) : s.shrinks a t := shrinks_of_same (by rw [h]) (by rw [h]) (by rw [h]) (by rw [h])

theorem lineLost_coh (s : State) (a ln : Nat) : (s.lineLost a ln).coh = s.coh := by
  rw [State.lineLost, mapHarts_frame]

theorem setL2_rest (s : State) (a ln : Nat) (c : CLine) :
    (s.setL2 a ln c).coh.fills = s.coh.fills ∧ (s.setL2 a ln c).coh.mshr = s.coh.mshr ∧ (s.setL2 a ln c).coh.wb = s.coh.wb := ⟨rfl, rfl, rfl⟩

theorem setL2_l2 (s : State) (a ln b x : Nat) (c : CLine) : (s.setL2 a ln c).l2 b x = if l2Key b x = l2Key a ln then c else s.l2 b x := tabGet_tabSet ..

theorem setSf_same (s : State) (ln : Nat) (v : SfEntry) : s.shrinks a (s.setSf ln v) := shrinks_of_same rfl rfl rfl rfl

theorem takeLine_logErr_shrinks (s : State) (e : ErrInfo) : s.shrinks a (s.takeLine.2.logErr e) := shrinks_of_same rfl rfl rfl rfl

theorem belowL2_shrinks {s t : State} (h : s.belowL2 t) : s.shrinks a t := by
  obtain ⟨l, v, rfl⟩ := h
  exact shrinks_of_same rfl rfl rfl rfl

theorem tabSet_default {α : Type} [DecidableEq α] (d : α) (t : Tab α) (k : Nat) : tabSet d t k d = t.filter fun p => p.1 != k := if_pos rfl

theorem setL2_tab (s : State) (a ln : Nat) (c : CLine) : (s.setL2 a ln c).coh.l2 = tabSet .invalid s.coh.l2 (l2Key a ln) c := rfl

/-- A line that is in the L2 is one of the agent's lines. -/
theorem mem_agentLines {s : State} {a ln : Nat} (hlt : ln < 2 ^ 41) (hst : (s.l2 a ln).st ≠ .i) :
    (l2Key a ln, s.l2 a ln) ∈ s.coh.l2.filter fun (k, c) => k / 2 ^ 41 == a && c.st != .i := by
  rw [List.mem_filter]
  refine ⟨?_, ?_⟩
  · rcases tabGet_mem_key (d := CLine.invalid) (t := s.coh.l2) (k := l2Key a ln) with h | h
    · exact absurd (congrArg CLine.st h) hst
    · exact h
  · have hk : l2Key a ln / 2 ^ 41 = a := by
      rw [l2Key, Nat.mul_comm, Nat.mul_add_div (by norm_num), Nat.div_eq_of_lt hlt, Nat.add_zero]
    simpa [hst] using hk

/-- A line that leaves the L2 is none of the agent's lines. -/
theorem setL2_invalid_lines (s : State) (a ln : Nat) :
    ((s.setL2 a ln .invalid).agentLines a).length ≤ (s.agentLines a).length ∧
    (ln < 2 ^ 41 → (s.l2 a ln).st ≠ .i → ((s.setL2 a ln .invalid).agentLines a).length < (s.agentLines a).length) := by
  have hset : (s.setL2 a ln .invalid).coh.l2 = s.coh.l2.filter fun p => p.1 != l2Key a ln := by rw [setL2_tab, tabSet_default]
  have hlines : ((s.setL2 a ln .invalid).agentLines a).length =
      ((s.coh.l2.filter fun (k, c) => k / 2 ^ 41 == a && c.st != .i).filter fun p => p.1 != l2Key a ln).length := by
    rw [State.agentLines, hset, List.length_map, List.filter_comm]
  have hold : (s.agentLines a).length = (s.coh.l2.filter fun (k, c) => k / 2 ^ 41 == a && c.st != .i).length := List.length_map ..
  rw [hlines, hold]
  refine ⟨List.length_filter_le .., fun hlt hst => List.length_filter_lt_length_iff_exists.mpr ⟨_, mem_agentLines hlt hst, ?_⟩⟩
  simp

theorem setL2_invalid_shrinks (s : State) (ln : Nat) : s.shrinks a (s.setL2 a ln .invalid) := by
  obtain ⟨hf, hm, hw⟩ := setL2_rest s a ln .invalid
  refine ⟨fun x => ?_, hf, hm, ?_⟩
  · rw [setL2_l2]
    split
    · exact .inr rfl
    · exact .inl rfl
  · rw [State.load, State.load, State.wbCount, hw]
    exact Nat.add_le_add_left (setL2_invalid_lines s a ln).1 _

theorem leave_shrinks (s : State) (ln : Nat) : s.shrinks a ((s.lineLost a ln).setL2 a ln .invalid) :=
  shrinks_trans (shrinks_of_coh (lineLost_coh ..)) (setL2_invalid_shrinks ..)

theorem leave_invalid (s : State) (ln : Nat) : (((s.lineLost a ln).setL2 a ln .invalid).l2 a ln).st = .i := by
  rw [setL2_l2, if_pos rfl]
  rfl

theorem lostLine_shrinks (s : State) (ln : Nat) : s.shrinks a (s.lostLine a ln) ∧ ((s.lostLine a ln).l2 a ln).st = .i := by
  have hgone := leave_shrinks (a := a) s ln
  have hinv := leave_invalid (a := a) s ln
  refine lostLine_cases (P := fun t => s.shrinks a t ∧ (t.l2 a ln).st = .i) s a ln (fun h => ⟨shrinks_refl s, h⟩) ?_ fun e t hb => ?_
  · exact ⟨shrinks_trans hgone (setSf_same ..), shrinks_invalid (setSf_same ..) hinv⟩
  · have hhome := shrinks_trans (shrinks_trans (setSf_same (a := a) _ ln _) (takeLine_logErr_shrinks _ e)) (belowL2_shrinks hb)
    exact ⟨shrinks_trans hgone hhome, shrinks_invalid hhome hinv⟩

theorem eventL2_coh (s : State) (a code : Nat) : (s.eventL2 a code).coh = s.coh := by
  unfold State.eventL2
  split
  · obtain ⟨⟨hframe, -, -⟩, -, -⟩ := event_spec s (.t (Fin.ofNat 192 a)) code 1
    rw [hframe]
  · rfl

/-- A dirty line moves to the write-back buffer. -/
theorem give_shrinks {s t : State} {ln : Nat} {e : WbEntry} {L : Coh} (hlt : ln < 2 ^ 41) (hst : (s.l2 a ln).st ≠ .i)
    (hL : ((s.lineLost a ln).setL2 a ln .invalid).coh = L) (ht : t.coh = { L with wb := L.wb ++ [e] }) :
    s.shrinks a t ∧ (t.l2 a ln).st = .i := by
  have hinv := leave_invalid (a := a) s ln
  obtain ⟨hf', hm', hw'⟩ := setL2_rest (s.lineLost a ln) a ln .invalid
  rw [lineLost_coh, hL] at hf' hm' hw'
  have h2 : t.coh.l2 = ((s.lineLost a ln).setL2 a ln .invalid).coh.l2 := by rw [ht, hL]
  have hf : t.coh.fills = s.coh.fills := by rw [ht]; exact hf'
  have hm : t.coh.mshr = s.coh.mshr := by rw [ht]; exact hm'
  have hw : t.coh.wb = s.coh.wb ++ [e] := by rw [ht, ← hw']
  refine ⟨?_, by rw [State.l2, h2]; exact hinv⟩
  have hcoh := lineLost_coh s a ln
  obtain ⟨hl, -, -, -⟩ := leave_shrinks (a := a) s ln
  refine ⟨fun x => ?_, hf, hm, ?_⟩
  · rw [State.l2, h2]
    exact hl x
  · have hold : ((s.lineLost a ln).agentLines a).length = (s.agentLines a).length := by rw [State.agentLines, State.agentLines, hcoh]
    have hless := (setL2_invalid_lines (s.lineLost a ln) a ln).2 hlt (by rw [State.l2, hcoh]; exact hst)
    have hlines : (t.agentLines a).length = (((s.lineLost a ln).setL2 a ln .invalid).agentLines a).length := by
      rw [State.agentLines, State.agentLines, h2]
    have hcount : t.wbCount a ≤ s.wbCount a + 1 := by
      rw [State.wbCount, State.wbCount, hw, List.filter_append, List.length_append]
      exact Nat.add_le_add_left (List.length_filter_le _ [e]) _
    rw [State.load, State.load]
    omega

theorem evict_shrinks (s : State) {ln : Nat} (hlt : ln < 2 ^ 41) : s.shrinks a (s.evict a ln) ∧ ((s.evict a ln).l2 a ln).st = .i := by
  have hleave := leave_shrinks (a := a) s ln
  have hinv := leave_invalid (a := a) s ln
  unfold State.evict
  extract_lets c u v
  have hv : v.coh = ((s.lineLost a ln).setL2 a ln .invalid).coh := by
    show (if _ then _ else _ : State).coh = _
    split
    · exact setHart_coh ..
    · rfl
  have hclean : ∀ t : State, t.coh = v.coh → s.shrinks a t ∧ (t.l2 a ln).st = .i := fun t h =>
    have ht := shrinks_of_coh (a := a) (h.trans hv)
    ⟨shrinks_trans hleave ht, shrinks_invalid ht hinv⟩
  have hdirty : ∀ f : Flit, c.st ≠ .i → let t := (({ v with coh := { v.coh with wb := v.coh.wb ++ [wbOf a ln c] } }).eventL2 a 0x0B).send f
      s.shrinks a t ∧ (t.l2 a ln).st = .i := by
    intro f hc t
    have ht : t.coh = { v.coh with wb := v.coh.wb ++ [wbOf a ln c] } := (send_coh ..).trans (eventL2_coh ..)
    exact give_shrinks hlt hc hv.symm ht
  clear_value v
  split
  · exact hclean v rfl
  · next h => exact hdirty _ (by rw [h]; exact nofun)
  · next h => exact hdirty _ (by rw [h]; exact nofun)
  · exact hclean _ rfl
  · exact hclean _ rfl

/-- Emptying takes every line, where no request is outstanding and the write-back buffer has room for all of them. -/
theorem foldl_evict (ls : List (Nat × CLine)) (s : State) (hlt : ∀ x ∈ ls, x.1 < 2 ^ 41) :
    let t := ls.foldl (fun s (ln, l) => if (s.mshr a ln).isSome || (l.dirtyLine && decide (16 ≤ s.wbCount a)) then s else s.evict a ln) s
    s.shrinks a t ∧ ((∀ ln, s.mshrOf a ln = none) → s.load a ≤ 16 → ∀ x ∈ ls, (t.l2 a x.1).st = .i) := by
  induction ls generalizing s with
  | nil => exact ⟨shrinks_refl s, fun _ _ x hx => absurd hx List.not_mem_nil⟩
  | cons x ls ih =>
    obtain ⟨ln, l⟩ := x
    obtain ⟨hx, hls⟩ := List.forall_mem_cons.mp hlt
    rw [List.foldl_cons]
    obtain ⟨hev, hinv⟩ := evict_shrinks (a := a) s hx
    dsimp only
    split
    · next hc =>
      obtain ⟨hs, hI⟩ := ih s hls
      refine ⟨hs, fun hm hl => List.forall_mem_cons.mpr ⟨shrinks_invalid hs ?_, hI hm hl⟩⟩
      by_contra hst
      have hmem := List.length_pos_of_mem (mem_agentLines hx hst)
      have hlen : (s.agentLines a).length = (s.coh.l2.filter fun (k, c) => k / 2 ^ 41 == a && c.st != .i).length := List.length_map ..
      rw [State.load, hlen] at hl
      have hwb : s.wbCount a < 16 := by omega
      simp only [State.mshr, hm, Option.map_none, Option.isSome_none, Bool.false_or, Bool.and_eq_true, decide_eq_true_eq] at hc
      omega
    · obtain ⟨hs, hI⟩ := ih (s.evict a ln) hls
      refine ⟨shrinks_trans hev hs, fun hm hl => List.forall_mem_cons.mpr ⟨shrinks_invalid hs hinv, hI (fun k => ?_) ?_⟩⟩
      · rw [State.mshrOf, hev.2.2.1]; exact hm k
      · exact hev.2.2.2.trans hl

/-- Emptying only takes lines away; all of them, where no request is outstanding and there is room. -/
theorem emptyMore_shrinks (s : State) : s.shrinks a (s.emptyMore a) ∧
    ((∀ ln, s.mshrOf a ln = none) → s.load a ≤ 16 → ∀ ln, ln < 2 ^ 41 → ((s.emptyMore a).l2 a ln).st = .i) := by
  have hperm := List.perm_insertionSort (fun x y : Nat × CLine => agentSet a x.1 ≤ agentSet a y.1) (s.agentLines a)
  have hlt : ∀ x ∈ s.agentLines a, x.1 < 2 ^ 41 := fun x hx => by
    obtain ⟨y, -, rfl⟩ := List.mem_map.mp hx
    exact Nat.mod_lt _ (by norm_num)
  obtain ⟨hs, hI⟩ := foldl_evict (a := a) _ s fun x hx => hlt x (hperm.mem_iff.mp hx)
  refine ⟨hs, fun hm hl ln hln => ?_⟩
  by_cases hst : (s.l2 a ln).st = .i
  · exact shrinks_invalid hs hst
  · have hkey : l2Key a ln % 2 ^ 41 = ln := by
      rw [l2Key, Nat.mul_comm, Nat.mul_add_mod, Nat.mod_eq_of_lt hln]
    have hmem : (ln, s.l2 a ln) ∈ s.agentLines a := List.mem_map.mpr ⟨_, mem_agentLines hln hst, Prod.ext hkey rfl⟩
    exact hI hm hl _ (hperm.mem_iff.mpr hmem)

omit a in
theorem foldl_keepsL2 {α : Type} {f : State → α → State} (hf : ∀ s x, (f s x).coh.l2 = s.coh.l2) (l : List α) (s : State) :
    (l.foldl f s).coh.l2 = s.coh.l2 := by
  induction l generalizing s with
  | nil => rfl
  | cons x l ih => rw [List.foldl_cons, ih, hf]

omit a in
theorem sendReq_l2 (s : State) (b ln : Nat) (f : Flit) (core : Option HartId) : (s.sendReq b ln f core).coh.l2 = s.coh.l2 := by
  unfold State.sendReq
  split
  · rfl
  · extract_lets f' g
    split
    · rfl
    · split <;> rfl

omit a in
theorem pump_l2 (s : State) (g : HartId) : (s.pump g).coh.l2 = s.coh.l2 := by
  refine foldl_keepsL2 (fun v u => ?_) _ s
  split
  · obtain ⟨f, core, hs⟩ := sendClean_keep (v.updHart g fun c => { c with uload := c.uload.map fun x => if x = u then { u with wait := none } else x }) g (lineOf u.pa)
    rw [hs, sendReq_l2]
    exact congrArg Coh.l2 (setHart_coh ..)
  · rfl

/-- What goes on at an agent whose L2 allocates nothing, where no grant waits: its L2 empties. -/
theorem goesOn_l2 (s : State) (hf : (s.coh.fills.filter fun f => agentOfNode f.dst == some a) = []) (hn : tabGet false s.coh.noAlloc a = true) :
    (s.goesOn a).coh.l2 = (s.emptyMore a).coh.l2 := by
  have hreset : ∀ u : State, (u.resetEmptied a).coh.l2 = u.coh.l2 := by
    intro u
    unfold State.resetEmptied
    generalize agentHarts a = l
    induction l generalizing u with
    | nil => rfl
    | cons g l ih =>
      rw [List.foldl_cons, ih]
      dsimp only
      split
      · cases g <;> rfl
      · rfl
  unfold State.goesOn
  simp only [hf, List.append_nil, List.foldl_nil, hn, if_true]
  rw [foldl_keepsL2 pump_l2, hreset]

end

/-! ### Core-fatal errors (R505) -/

section
variable (s : State) (h : HartId) (why : CoreFatal)

/-- The state once a core-fatal hart has stopped, with its record, and its reservation lost. -/
def State.coreStopped : State := (s.coreFatal h (coreFatalCode why)).updHart h fun c => { c with resv := none }

theorem coreStopped_spec : (s.coreStopped h why).hart h = { s.hart h with fatal := true, resv := none } ∧
    (∀ g, g ≠ h → (s.coreStopped h why).hart g = s.hart g) ∧ (s.coreStopped h why).err.orders = s.err.orders + 1 ∧
    (s.coreStopped h why).coh = s.coh ∧ (s.coreStopped h why).mem = s.mem ∧ (s.coreStopped h why).time = s.time := by
  have hlog : ∀ (u : State) (e : ErrInfo) (g : HartId), (u.logErr e).hart g = u.hart g := fun u e g => by cases g <;> rfl
  unfold State.coreStopped State.coreFatal
  extract_lets id
  refine ⟨?_, fun g hg => ?_, ?_, ?_, ?_, ?_⟩
  · rw [hart_updHart_same, hlog, hart_updHart_same]
  · rw [hart_updHart_ne _ hg, hlog, hart_updHart_ne _ hg]
  all_goals cases h <;> rfl

theorem coreStopped_score (hs : isT h = false) : s.coreStopped h why =
    { s with scores := (s.coreStopped h why).scores, err := (s.coreStopped h why).err, irq := { s.irq with src := (s.coreStopped h why).irq.src } } := by
  cases h with
  | t n => exact absurd hs (by simp [isT])
  | s n => rfl

/-- The L2 of an agent allocates nothing (R192). -/
def State.allocsNothing (a : Nat) : State := { s with coh := { s.coh with noAlloc := tabSet false s.coh.noAlloc a true } }

theorem allocsNothing_noAlloc (a : Nat) : tabGet false (s.allocsNothing a).coh.noAlloc a = true := by
  rw [State.allocsNothing, tabGet_tabSet_same]

theorem allocsNothing_hart (a : Nat) (g : HartId) : (s.allocsNothing a).hart g = s.hart g := by cases g <;> rfl

theorem allocsNothing_shrinks (a b : Nat) : s.shrinks b (s.allocsNothing a) := shrinks_of_same rfl rfl rfl rfl

/-- The state once the unreadable lines of a T-core's L2 are lost, with its L2 allocating nothing. -/
def State.coreEmptied (bad : List La) : State :=
  (bad.foldl (fun s la => s.lostLine (agentOf h) (lineOf la.toNat)) (s.coreStopped h why)).allocsNothing (agentOf h)

theorem coreFatalError_t (bad : List La) (hf : (s.hart h).fatal = false) (ht : isT h = true) :
    execCoreFatalError h why bad s = .next ((s.coreEmptied h why bad).goesOn (agentOf h)) := by
  unfold execCoreFatalError State.coreEmptied State.allocsNothing State.coreStopped
  exact congrArg _ ((if_neg (by rw [hf]; exact Bool.false_ne_true)).trans (if_pos ht))

theorem coreFatalError_s (bad : List La) (hf : (s.hart h).fatal = false) (hs : isT h = false) :
    execCoreFatalError h why bad s = .next (s.coreStopped h why) := by
  unfold execCoreFatalError
  exact congrArg _ ((if_neg (by rw [hf]; exact Bool.false_ne_true)).trans (if_neg (by rw [hs]; exact Bool.false_ne_true)))

variable {h}

/-- The unreadable lines leave the L2. -/
theorem foldl_lostLine (ht : isT h = true) (bad : List La) (s : State) :
    let u := bad.foldl (fun s la => s.lostLine (agentOf h) (lineOf la.toNat)) s
    s.spares h u ∧ s.shrinks (agentOf h) u ∧ ∀ la ∈ bad, (u.l2 (agentOf h) (lineOf la.toNat)).st = .i := by
  induction bad generalizing s with
  | nil => exact ⟨spares_refl s, shrinks_refl s, fun la hla => absurd hla List.not_mem_nil⟩
  | cons la bad ih =>
    obtain ⟨hsp, hsh, hI⟩ := ih (s.lostLine (agentOf h) (lineOf la.toNat))
    obtain ⟨hsh', hI'⟩ := lostLine_shrinks (a := agentOf h) s (lineOf la.toNat)
    exact ⟨spares_trans (lostLine_spares ht ..) hsp, shrinks_trans hsh' hsh, List.forall_mem_cons.mpr ⟨shrinks_invalid hsh hI', hI⟩⟩

/-- A T-core whose L2 can go on no more (R505). -/
theorem coreEmptied_spec (ht : isT h = true) (bad : List La) : let t := (s.coreEmptied h why bad).goesOn (agentOf h)
    (t.hart h).fatal = true ∧ (t.hart h).resv = none ∧ s.err.orders + 1 ≤ t.err.orders ∧ (∀ g, g ≠ h → t.hart g = s.hart g) ∧
    ((s.hart h).rstBusy = false → tabGet false t.coh.noAlloc (agentOf h) = true) ∧
    ((s.coh.fills.filter fun f => agentOfNode f.dst == some (agentOf h)) = [] →
      (∀ ln, t.l2 (agentOf h) ln = s.l2 (agentOf h) ln ∨ (t.l2 (agentOf h) ln).st = .i) ∧ (∀ la ∈ bad, (t.l2 (agentOf h) (lineOf la.toNat)).st = .i) ∧
      ((∀ ln, s.mshrOf (agentOf h) ln = none) → s.wbCount (agentOf h) + (s.agentLines (agentOf h)).length ≤ 16 →
        ∀ ln, ln < 2 ^ 41 → (t.l2 (agentOf h) ln).st = .i)) ∧ t.mem = s.mem ∧ t.time = s.time := by
  intro t
  obtain ⟨hh, hother, horders, hcoh, hmem, htime⟩ := coreStopped_spec s h why
  obtain ⟨⟨u1, u2, u3, u4, u5, u6, u7⟩, hshrink, hbad⟩ := foldl_lostLine ht bad (s.coreStopped h why)
  have hw : ∀ g, (s.coreEmptied h why bad).hart g =
      (bad.foldl (fun s la => s.lostLine (agentOf h) (lineOf la.toNat)) (s.coreStopped h why)).hart g := fun g => allocsNothing_hart ..
  obtain ⟨t1, t2, t3, t4, t5, t6, t7⟩ := goesOn_spares ht (s.coreEmptied h why bad)
  have hset : tabGet false (s.coreEmptied h why bad).coh.noAlloc (agentOf h) = true := allocsNothing_noAlloc ..
  rw [hh] at u2 u3 u4
  refine ⟨?_, ?_, ?_, fun g hg => ?_, fun hb => ?_, fun hf => ?_, t5.trans (u5.trans hmem), t6.trans (u6.trans htime)⟩
  · rw [t2, hw, u2]
  · exact t3 (by rw [hw]; exact u3 rfl)
  · rw [← horders]
    exact u7.trans t7
  · rw [t1 g hg, hw, u1 g hg, hother g hg]
  · rw [(t4 (by rw [hw]; exact (u4 hb).1)).2]
    exact hset
  · have hsw : s.shrinks (agentOf h) (s.coreEmptied h why bad) :=
      shrinks_trans (shrinks_trans (shrinks_of_coh hcoh) hshrink) (allocsNothing_shrinks ..)
    have hl2 := goesOn_l2 (s.coreEmptied h why bad) (by rw [hsw.2.1]; exact hf) hset
    have hline : ∀ ln, t.l2 (agentOf h) ln = ((s.coreEmptied h why bad).emptyMore (agentOf h)).l2 (agentOf h) ln := fun ln => by
      rw [State.l2, State.l2, hl2]
    obtain ⟨hmore, hempty⟩ := emptyMore_shrinks (a := agentOf h) (s.coreEmptied h why bad)
    simp only [hline]
    refine ⟨(shrinks_trans hsw hmore).1, fun la hla => shrinks_invalid hmore (hbad la hla), fun hm hl => hempty (fun ln => ?_) (hsw.2.2.2.trans hl)⟩
    rw [State.mshrOf, hsw.2.2.1]
    exact hm ln

end

end Sys2Proof.Machine
end

section
/-!
SUPPORT and PROOFS. Package-fatal errors, the power-fail flush, and core-fatal errors (R468, R505, R506).
-/
namespace Sys2Proof.Machine

/-! ### Package-fatal errors (R506) -/

/-- The state with a journal and with the cause of a package-fatal error on the console. -/
def State.withConsole (s : State) (journal : List LogRec) : State :=
  { s with ren := { s.ren with journal := journal, logNext := s.ren.logNext + 1, console := s.ren.console ++ [0x11] } }

/-- What a slice reports before the package stops (R506). -/
def pkgFatalInfo (sl : Fin 192) (why : PkgFatal) : ErrInfo :=
  { mkErr 0x11 5 (nodeStop (sliceNode sl.val)) false with sub := 1, detail := pkgFatalCode why }

/-- The journal's record of a package-fatal error. -/
def State.pkgFatalLog (s : State) (sl : Fin 192) (why : PkgFatal) : LogRec :=
  ((pkgFatalInfo sl why).toRec s.time s.err.orders).toLog s.ren.logNext (tileOf (nodeStop (sliceNode sl.val)))

theorem pkgFatalLog_spec (s : State) (sl : Fin 192) (why : PkgFatal) :
    (s.pkgFatalLog sl why).cls = 5 ∧ (s.pkgFatalLog sl why).detail = BitVec.ofNat 64 (pkgFatalCode why) := ⟨rfl, rfl⟩

theorem pkgFatalError_eq {s : State} (sl : Fin 192) (why : PkgFatal) (h : s.phase ≠ .inert) :
    execPkgFatalError sl why s = .next
      (((s.logErr (pkgFatalInfo sl why)).withConsole (newestN 1024 (s.ren.journal ++ [s.pkgFatalLog sl why]))).flushSteps s.time) := by
  unfold execPkgFatalError
  exact congrArg _ (if_neg h)

theorem withConsole_spec (s : State) (j : List LogRec) : (s.withConsole j).ren.journal = j ∧ (s.withConsole j).ren.logNext = s.ren.logNext + 1 ∧
    (s.withConsole j).ren.console = s.ren.console ++ [0x11] := ⟨rfl, rfl, rfl⟩

/-! ### The power-fail flush (R468, R469) -/

theorem powerFailFlush_idle {s : State} (h : s.pow.pfail = none ∨ s.flushed = true) : execPowerFailFlush s = .next s := by
  unfold execPowerFailFlush
  refine congrArg _ ?_
  rcases h with h | h
  · rw [h]
  · split
    · exact if_pos h
    · rfl

theorem atTime_rest (s : State) (τ c a : Nat) : (s.atTime τ c a).mem = s.mem ∧ (s.atTime τ c a).coh = s.coh ∧ (s.atTime τ c a).dram = s.dram ∧
    (s.atTime τ c a).flits = s.flits ∧ (s.atTime τ c a).heldStores = s.heldStores ∧ (∀ la, (s.atTime τ c a).heldAt la = s.heldAt la) ∧
    (∀ la, ((s.atTime τ c a).chan ((s.atTime τ c a).chanOf la)).st = (s.chan (s.chanOf la)).st) ∧ (s.atTime τ c a).brine.energy = s.brine.energy ∧
    (s.atTime τ c a).dram.map = s.dram.map ∧ (s.atTime τ c a).time = τ :=
  ⟨rfl, rfl, rfl, rfl, rfl, fun _ => rfl, fun _ => rfl, rfl, rfl, rfl⟩

/-- The flush at the end of the detection interval (R468). -/
theorem flushSteps_atTime (s : State) (τ c a : Nat) : let t := (s.atTime τ c a).flushSteps τ
    t.phase = .inert ∧ t.flushed = true ∧ (∀ h, (t.hart h).stopped = true ∧ ∀ e ∈ (t.hart h).sb, e.retired = true) ∧
    t.coh.l2 = [] ∧ t.coh.l3 = [] ∧ t.coh.wb = [] ∧ t.coh.vb = [] ∧
    t.time = τ ∧ t.ren.flush.t0 = t.time ∧ t.ren.flush.complete = true ∧ t.ren.flush.energy = s.brine.energy ∧ t.ren.flush.map = s.dram.map ∧
    (s.heldStores = [] → (∀ f ∈ s.flits ++ s.coh.waitq, f.op ≠ .writeNc) → ∀ ln ∈ s.dirtyLines, s.heldAt (64 * ln) = true →
      (s.chan (s.chanOf (64 * ln))).st = .online → memLine t.mem.dram (64 * ln) = (s.newest ln).1) := by
  intro t
  obtain ⟨hharts, hphase, hflushed, hl2, hl3, hwb, hvb, -, hcomp, ht0, hen, hmap, -, -, -, htime⟩ := flushSteps_spec (s.atTime τ c a) τ
  obtain ⟨hmem, hcoh, hdram, hflits, hst, hheld, hchan, hen', hmap', htime'⟩ := atTime_rest s τ c a
  refine ⟨hphase, hflushed, hharts, hl2, hl3, hwb, hvb, htime.trans htime', ht0.trans (htime.trans htime').symm, hcomp, hen.trans hen', hmap.trans hmap',
    fun hs hw ln hd hh hc => ?_⟩
  rw [← newest_congr hmem hcoh hdram hflits]
  refine flushSteps_line (s.atTime τ c a) τ (hst.trans hs) ?_ ?_ ((hheld _).trans hh) ((hchan _).trans hc)
  · rw [hflits, hcoh]
    exact hw
  · rw [dirtyLines_congr hcoh hflits]
    exact hd

theorem powerFailFlush_eq {s : State} {t0 : Nat} (h : s.pow.pfail = some t0) (hf : s.flushed = false) :
    execPowerFailFlush s = .next ((s.passTo (t0 + 1000)).flushSteps (max s.time (t0 + 1000))) := by
  unfold execPowerFailFlush
  rw [h]
  exact congrArg _ (if_neg (by rw [hf]; exact Bool.false_ne_true))

/-- Settles O51: the records by what a copy and a freed slot leave; the core-fatal hart by what its L2 loses; the flush by the lines that it stores. -/
theorem errorsFlushAndStop : Obligations.ErrorsFlushAndStop := by
  refine ⟨fun s tl k => ⟨errorRecordCopy_idle s, fun hu hv hc => ?_⟩, fun s who tl k hw => ?_, fun s h md tl k hm hi => ?_, fun s stop req a sts => ⟨fun hw => ?_, fun e hw => ?_⟩,
    fun s h why bad => ⟨fun hf => ?_, fun hf => ?_⟩, fun s sl why => ⟨fun h => ?_, fun h => ?_⟩, fun s => ?_, fun s => ⟨fun h => ?_, fun t0 h hf => ?_⟩⟩
  · exact ⟨_, _, errorRecordCopy_copies s hu hv hc, rfl, rfl, rfl, rfl, rfl, rfl, rfl, recCopied_log s tl.val k.val⟩
  · refine ⟨s.freeRec tl.val k.val, congrArg _ (r31Write_admitted _ _ _ _ hw), (freeRec_errRec ..).trans (if_pos rfl),
      fun j hj => (freeRec_errRec ..).trans (if_neg hj), fun u hu => (freeRec_errBank ..).trans (if_neg hu),
      fun n h1 h2 => freeRec_source_ne s _ _ h1 h2, rfl⟩
  · show execEsRecordFree (.hart h md) tl k s = _
    rw [execEsRecordFree, r31Write_hart_refused _ _ _ _ hm hi, recAddr]
  · show execEwaEndpointFailure stop req a sts s = _
    unfold execEwaEndpointFailure
    rw [hw]
  · refine ⟨_, ewaEndpointFailure_eq sts hw, ?_⟩
    have hfound := List.find?_some hw
    simp only [Bool.and_eq_true, beq_iff_eq] at hfound
    obtain ⟨⟨rfl, rfl⟩, hla⟩ := hfound
    have hu : ∃ c d, (if sts = 0xFF then s.passTo e.deadline else s) = s.atTime (if sts = 0xFF then max s.time e.deadline else s.time) c d := by
      split
      · exact passTo_atTime ..
      · exact ⟨s.mesh.cycle, s.mesh.ahead, rfl⟩
    obtain ⟨c, d, hu⟩ := hu
    rw [hu, ← hla]
    exact ewaFail_spec s _ c d e sts.toNat
  · show execCoreFatalError h why bad s = _
    unfold execCoreFatalError
    exact congrArg _ (if_pos hf)
  · cases ht : isT h with
    | true =>
      obtain ⟨h1, h2, h3, h4, h5, h6, h7, h8⟩ := coreEmptied_spec s why ht bad
      exact ⟨_, coreFatalError_t s h why bad hf ht, h1, h2, h3, h4, fun _ => ⟨h5, h6, h7, h8⟩, nofun⟩
    | false =>
      obtain ⟨hh, hother, horders, -⟩ := coreStopped_spec s h why
      exact ⟨_, coreFatalError_s s h why bad hf ht, by rw [hh], by rw [hh], horders.ge, hother, nofun, fun _ => ⟨hh, coreStopped_score s h why ht⟩⟩
  · show execPkgFatalError sl why s = _
    unfold execPkgFatalError
    exact congrArg _ (if_pos h)
  · obtain ⟨hharts, hphase, -, hl2, hl3, -, -, hvalid, -, ht0, -, -, hj, hnext, hcon, -⟩ :=
      flushSteps_spec ((s.logErr (pkgFatalInfo sl why)).withConsole (newestN 1024 (s.ren.journal ++ [s.pkgFatalLog sl why]))) s.time
    obtain ⟨hj', hnext', hcon'⟩ := withConsole_spec (s.logErr (pkgFatalInfo sl why)) (newestN 1024 (s.ren.journal ++ [s.pkgFatalLog sl why]))
    exact ⟨_, pkgFatalError_eq sl why h, hphase, fun g => (hharts g).1, hcon.trans hcon',
      ⟨s.pkgFatalLog sl why, by rw [hj, hj']; exact newestN_concat_getLast? 1024 _ _ (by omega), pkgFatalLog_spec s sl why⟩, hnext.trans hnext', hl2, hl3, hvalid, ht0⟩
  · exact ⟨_, rfl, pfail_spec s _ 177 354⟩
  · exact powerFailFlush_idle h
  · obtain ⟨c, d, hu⟩ := passTo_atTime s (t0 + 1000)
    refine ⟨_, powerFailFlush_eq h hf, ?_⟩
    rw [hu]
    exact flushSteps_atTime s _ c d

end Sys2Proof.Machine
end

section
/-!
SUPPORT. Core counters, performance banks and bandwidth windows (R402, R406 to R414).
-/
namespace Sys2Proof.Machine

/-! ### Core counters (R402) -/

section
variable (s : State) (h : HartId)

theorem setIdentity_setHart (c : Hart) (g : HartId) (n : Nat) :
    (s.setHart h c).setIdentity g .mach n = (s.setIdentity g .mach n).setHart h c := by
  unfold State.setIdentity
  split
  · rfl
  · cases h <;> rfl

theorem setIdentity_hart (g k : HartId) (n : Nat) : (s.setIdentity g .mach n).hart k = s.hart k := by
  unfold State.setIdentity
  split
  · rfl
  · cases k <;> rfl

theorem setIdentity_frame (g : HartId) (n : Nat) : s.setIdentity g .mach n = { s with irq := (s.setIdentity g .mach n).irq } := by
  unfold State.setIdentity
  split <;> rfl

/-- A counter that does not wrap. -/
theorem bumpHpm_below {k n : Nat} (hv : ((s.hart h).csrRaw (0xB00 + k)).toNat + n < 2 ^ 64) :
    s.bumpHpm h k n = s.setHart h ((s.hart h).csrPut (0xB00 + k) (BitVec.ofNat 64 (((s.hart h).csrRaw (0xB00 + k)).toNat + n))) := by
  unfold State.bumpHpm
  exact if_pos hv

section
variable {k : Nat} (hv : (s.hart h).csrRaw (0xB00 + k) = BitVec.allOnes 64)
include hv

/-- A counter that wraps with its overflow bit set raises nothing (R402). -/
theorem bumpHpm_wraps_again (ho : ((s.hart h).csrRaw (0x320 + k)).getLsbD 63 = true) : s.bumpHpm h k 1 = s.setHart h ((s.hart h).csrPut (0xB00 + k) 0) := by
  have hx : ((s.hart h).csrRaw (0xB00 + k)).toNat + 1 = 2 ^ 64 := by rw [hv, BitVec.toNat_allOnes]; rfl
  have hev : ((s.hart h).csrPut (0xB00 + k) 0).csrRaw (0x320 + k) = (s.hart h).csrRaw (0x320 + k) := csrRaw_csrPut_ne _ _ _ _ (by omega)
  unfold State.bumpHpm
  simp only [hx, lt_irrefl, if_false]
  have h0 : (BitVec.ofNat 64 (2 ^ 64) : Word) = 0 := by decide
  rw [h0, hev, ho]
  rfl

/-- A counter that wraps with its overflow bit clear sets it, and its identity (R402). -/
theorem bumpHpm_wraps_first (ho : ((s.hart h).csrRaw (0x320 + k)).getLsbD 63 = false) :
    s.bumpHpm h k 1 = (s.setHart h (((s.hart h).csrPut (0xB00 + k) 0).csrPut (0x320 + k)
      ((s.hart h).csrRaw (0x320 + k) ||| 0x8000_0000_0000_0000))).setIdentity h .mach (fld ((s.hart h).csrRaw (0x320 + k)) 42 32) := by
  have hx : ((s.hart h).csrRaw (0xB00 + k)).toNat + 1 = 2 ^ 64 := by rw [hv, BitVec.toNat_allOnes]; rfl
  have hev : ((s.hart h).csrPut (0xB00 + k) 0).csrRaw (0x320 + k) = (s.hart h).csrRaw (0x320 + k) := csrRaw_csrPut_ne _ _ _ _ (by omega)
  unfold State.bumpHpm
  simp only [hx, lt_irrefl, if_false]
  have h0 : (BitVec.ofNat 64 (2 ^ 64) : Word) = 0 := by decide
  rw [h0, hev, ho]
  rfl

end

/-- The counters read as they stand, in every mode (R402). -/
theorem csrRead_counter {k : Nat} (h3 : 3 ≤ k) (h31 : k ≤ 31) : s.csrRead h (0xB00 + k) = (s.hart h).csrRaw (0xB00 + k) := by
  have halias : vsAlias (0xB00 + k) = 0xB00 + k := by
    unfold vsAlias
    rw [if_neg (by omega), if_neg (by omega)]
  unfold State.csrRead
  rw [halias]
  extract_lets c n t
  have hn : n = 0xB00 + k := ite_self _
  clear_value n
  subst hn
  interval_cases k <;> rfl

theorem or_bit63 {ev : Word} (ho : ev.getLsbD 63 = true) : ev ||| 0x8000_0000_0000_0000 = ev := by
  refine BitVec.eq_of_getLsbD_eq fun i hi => ?_
  rw [BitVec.getLsbD_or, show (0x8000_0000_0000_0000 : Word) = BitVec.twoPow 64 63 from rfl, BitVec.getLsbD_twoPow]
  by_cases h63 : i = 63
  · subst h63; rw [ho]; rfl
  · have : decide (63 = i) = false := decide_eq_false (Ne.symm h63)
    rw [this, Bool.and_false, Bool.or_false]

/-- A wrapped counter: what the hart's registers, its identity and the rest of the state are (R402). -/
theorem bumpHpm_wraps {k : Nat} (hv : (s.hart h).csrRaw (0xB00 + k) = BitVec.allOnes 64) : let t := s.bumpHpm h k 1
    let ev := (s.hart h).csrRaw (0x320 + k)
    (t.hart h).csrRaw (0xB00 + k) = 0 ∧ (t.hart h).csrRaw (0x320 + k) = ev ||| 0x8000_0000_0000_0000 ∧
    (∀ n, n ≠ 0xB00 + k → n ≠ 0x320 + k → (t.hart h).csrRaw n = (s.hart h).csrRaw n) ∧
    t.irq = (if ev.getLsbD 63 = true then s else s.setIdentity h .mach (fld ev 42 32)).irq ∧
    (∀ g, g ≠ h → t.hart g = s.hart g) ∧ t.hart h = { s.hart h with csr := (t.hart h).csr } ∧
    t = { s with tcores := t.tcores, scores := t.scores, irq := t.irq } := by
  intro t ev
  have hne : 0x320 + k ≠ 0xB00 + k := by omega
  have hput : ((s.hart h).csrPut (0xB00 + k) 0).csrRaw (0x320 + k) = ev := csrRaw_csrPut_ne _ _ _ _ hne
  cases ho : ev.getLsbD 63 with
  | true =>
    have ht : t = s.setHart h ((s.hart h).csrPut (0xB00 + k) 0) := bumpHpm_wraps_again s h hv ho
    have hh : t.hart h = (s.hart h).csrPut (0xB00 + k) 0 := by rw [ht, hart_setHart_same]
    clear_value t
    rw [hh]
    refine ⟨csrRaw_csrPut_same .., hput.trans (or_bit63 ho).symm, fun n h1 _ => csrRaw_csrPut_ne _ _ _ _ h1, ?_, fun g hg => ?_, rfl, ?_⟩
    · rw [ht, setHart_irq]; rfl
    · rw [ht, hart_setHart_ne _ _ _ _ hg]
    · rw [ht, setHart_irq]; exact setHart_eq ..
  | false =>
    have ht : t = (s.setHart h (((s.hart h).csrPut (0xB00 + k) 0).csrPut (0x320 + k) (ev ||| 0x8000_0000_0000_0000))).setIdentity h .mach (fld ev 42 32) :=
      bumpHpm_wraps_first s h hv ho
    have hh : t.hart h = ((s.hart h).csrPut (0xB00 + k) 0).csrPut (0x320 + k) (ev ||| 0x8000_0000_0000_0000) := by
      rw [ht, setIdentity_hart, hart_setHart_same]
    clear_value t
    rw [hh]
    refine ⟨?_, csrRaw_csrPut_same .., fun n h1 h2 => ?_, ?_, fun g hg => ?_, rfl, ?_⟩
    · rw [csrRaw_csrPut_ne _ _ _ _ hne.symm, csrRaw_csrPut_same]
    · rw [csrRaw_csrPut_ne _ _ _ _ h2, csrRaw_csrPut_ne _ _ _ _ h1]
    · rw [ht, setIdentity_setHart, setHart_irq]; rfl
    · rw [ht, setIdentity_hart, hart_setHart_ne _ _ _ _ hg]
    · rw [ht, setIdentity_frame, setHart_eq]

/-- The counter goes on counting from 0 (R402). -/
theorem bumpHpm_from_zero {k : Nat} (hv : (s.hart h).csrRaw (0xB00 + k) = 0) : ((s.bumpHpm h k 1).hart h).csrRaw (0xB00 + k) = 1 := by
  rw [bumpHpm_below s h (by rw [hv]; decide), hart_setHart_same, csrRaw_csrPut_same, hv]
  rfl

section
variable {k : Fin 32} (hi : (s.hart h).csrBit 0x320 k.val = false) (hv : (s.hart h).csrRaw (0xB00 + k.val) = BitVec.allOnes 64)
include hi hv

theorem coreCounterWrap_hpm (h3 : 3 ≤ k.val) (ht : k.val ≤ hpmTop h) : execCoreCounterWrap h k s = .next (s.bumpHpm h k.val 1) := by
  unfold execCoreCounterWrap
  refine congrArg _ ((if_neg ?_).trans (if_neg (by omega)))
  rw [hi, hv]
  simp
  omega

theorem coreCounterWrap_fixed (h02 : k.val = 0 ∨ k.val = 2) :
    execCoreCounterWrap h k s = .next (s.setHart h ((s.hart h).csrPut (0xB00 + k.val) 0)) := by
  unfold execCoreCounterWrap
  refine congrArg _ ((if_neg ?_).trans (if_pos (by omega)))
  have : 10 ≤ hpmTop h := by unfold hpmTop; split <;> omega
  rw [hi, hv]
  simp
  omega

end

theorem coreCounterWrap_none {k : Fin 32} (hk : k.val = 1 ∨ hpmTop h < k.val) : execCoreCounterWrap h k s = .next s := by
  unfold execCoreCounterWrap
  exact congrArg _ (if_pos (hk.elim .inl fun hk => .inr (.inl hk)))

end

/-! ### Performance banks (R406 to R414) -/

section
variable (s : State) (st b k n : Nat)

/-- The bank after it has gained events: its counter, and its overflow bit where the counter has wrapped. -/
def Bank.gained (v : Bank) (k n : Nat) : Bank :=
  let x := (v.count k).toNat + n
  { v with cnt := tabSet 0 v.cnt k (BitVec.ofNat 48 x), ovf := if x < 2 ^ 48 then v.ovf else v.ovf ||| BitVec.ofNat 4 (2 ^ k) }

theorem Bank.count_gained (v : Bank) (k n j : Nat) : (v.gained k n).count j = if j = k then BitVec.ofNat 48 ((v.count k).toNat + n) else v.count j :=
  tabGet_tabSet ..

theorem bankOf_setBank (v : Bank) (st' b' : Nat) : (s.setBank st b v).bankOf st' b' = if bankKey st' b' = bankKey st b then v else s.bankOf st' b' :=
  tabGet_tabSet ..

/-- What a bank gains, and the pulse of an overflow with OVFEV (R408, R413). -/
theorem bumpBank_cases : s.bumpBank st b k n =
    if 2 ^ 48 ≤ ((s.bankOf st b).count k).toNat + n ∧ ((s.bankOf st b).sel k).getLsbD 30 = true
    then (s.setBank st b ((s.bankOf st b).gained k n)).pulseAtStop (168 + tileOf st) st else s.setBank st b ((s.bankOf st b).gained k n) := by
  unfold State.bumpBank Bank.gained
  by_cases hx : ((s.bankOf st b).count k).toNat + n < 2 ^ 48
  · simp only [hx, if_true]
    rw [if_neg (by omega)]
  · simp only [hx, if_false]
    by_cases he : ((s.bankOf st b).sel k).getLsbD 30 = true
    · exact (if_pos he).trans (if_pos ⟨by omega, he⟩).symm
    · exact (if_neg he).trans (if_neg fun h => he h.2).symm

/-- A bank that gains events: its counter, its overflow, and the pulse of an overflow (R408, R413). -/
theorem bumpBank_spec : let v := s.bankOf st b
    let x := (v.count k).toNat + n
    let t := s.bumpBank st b k n
    ((t.bankOf st b).count k).toNat = x % 2 ^ 48 ∧ (∀ j, j ≠ k → (t.bankOf st b).count j = v.count j) ∧
    (t.bankOf st b).ovf = (if x < 2 ^ 48 then v.ovf else v.ovf ||| BitVec.ofNat 4 (2 ^ k)) ∧
    t.bankOf st b = { v with cnt := (t.bankOf st b).cnt, ovf := (t.bankOf st b).ovf } ∧
    (∀ j, j ≠ bankKey st b → tabGet Bank.reset t.perf.banks j = tabGet Bank.reset s.perf.banks j) ∧
    t.irq = (if 2 ^ 48 ≤ x ∧ (v.sel k).getLsbD 30 = true then s.pulseAtStop (168 + tileOf st) st else s).irq ∧
    t.mesh = (if 2 ^ 48 ≤ x ∧ (v.sel k).getLsbD 30 = true then s.pulseAtStop (168 + tileOf st) st else s).mesh ∧
    t = { s with perf := { s.perf with banks := t.perf.banks }, irq := t.irq, mesh := t.mesh } := by
  intro v x t
  have ht : t = _ := bumpBank_cases s st b k n
  have hperf : t.perf = (s.setBank st b (v.gained k n)).perf := by
    rw [ht]
    split
    · rw [pulseAtStop_frame]
    · rfl
  have hbank : t.bankOf st b = v.gained k n := by
    rw [State.bankOf, hperf]
    exact (bankOf_setBank s st b _ st b).trans (if_pos rfl)
  have hcount := fun j => v.count_gained k n j
  refine ⟨?_, fun j hj => ?_, by rw [hbank]; rfl, by rw [hbank]; rfl, fun j hj => ?_, ?_, ?_, ?_⟩
  · rw [hbank, hcount, if_pos rfl]; exact BitVec.toNat_ofNat ..
  · rw [hbank, hcount, if_neg hj]
  · rw [hperf]
    exact tabGet_tabSet_ne _ _ _ _ _ hj
  · rw [ht]
    split
    · rw [pulseAtStop_frame, pulseAtStop_frame s, pulseAtStop_events, pulseAtStop_events]
      rfl
    · rfl
  · rw [ht]
    split
    · exact pulseAtStop_mesh_congr _ _ rfl rfl
    · rfl
  · rw [ht]
    split
    · rw [pulseAtStop_frame]; rfl
    · rfl

end

section
variable {s : State} {st : Fin 320} {b : Fin 3}

/-- Whether a counter of a bank counts (R408, R410). -/
def State.bankCounts (s : State) (st b k : Nat) : Prop :=
  hasBank st b = true ∧ ((s.bankOf st b).sel k).getLsbD 31 = true ∧ (s.bankOf st b).freeze = false ∧ s.agentOff st b = false ∧
    (((s.bankOf st b).sel k).getLsbD 26 = true → tabGet false s.irq.gates (st * 16 + fld ((s.bankOf st b).sel k) 25 22) = true)

theorem bankCounterWrap_eq (s : State) (st : Fin 320) (b : Fin 3) (k : Fin 4) (gain : Nat) [Decidable (s.bankCounts st.val b.val k.val)] :
    execBankCounterWrap st b k gain s = .next (if s.bankCounts st.val b.val k.val then s.bumpBank st.val b.val k.val gain else s) := by
  unfold execBankCounterWrap State.guard
  refine congrArg _ ?_
  by_cases hc : s.bankCounts st.val b.val k.val
  · rw [if_pos hc]
    obtain ⟨h1, h2, h3, h4, h5⟩ := hc
    refine if_pos ?_
    simp only [h1, h2, h3, h4, Bool.not_false, Bool.true_and, Bool.or_eq_true, Bool.not_eq_true']
    cases he : ((s.bankOf st.val b.val).sel k.val).getLsbD 26 with
    | true => exact .inr (h5 he)
    | false => exact .inl rfl
  · rw [if_neg hc]
    refine if_neg fun h => hc ?_
    simp only [Bool.and_eq_true, Bool.not_eq_true', Bool.or_eq_true] at h
    obtain ⟨⟨⟨⟨h1, h2⟩, h3⟩, h4⟩, h5⟩ := h
    exact ⟨h1, h2, h3, h4, fun he => h5.elim (fun h => absurd (h.symm.trans he) Bool.false_ne_true) id⟩

theorem pmBankClr_eq {who : Master} (hw : mayWrite .r31 who = true) (hb : hasBank st.val b.val = true) :
    execPmBankClr who st b s = .next (s.setBank st.val b.val { s.bankOf st.val b.val with cnt := [] }) := by
  unfold execPmBankClr
  rw [hb, r31Write_admitted _ _ _ _ hw]
  rfl

theorem bandwidthWindowEnd_ends (hbw : bwBank st.val b.val = true) (hb : hasBank st.val b.val = true) (hw : (s.bankOf st.val b.val).window ≠ 0)
    (ht : s.time % ((s.bankOf st.val b.val).window.toNat * 1000) = 0) :
    execBandwidthWindowEnd st b s = .next (s.setBank st.val b.val { s.bankOf st.val b.val with
      bwCur := 0, bwLast := BitVec.ofNat 48 (s.bankOf st.val b.val).bwCur,
      bwMax := if (s.bankOf st.val b.val).bwMax < BitVec.ofNat 48 (s.bankOf st.val b.val).bwCur then BitVec.ofNat 48 (s.bankOf st.val b.val).bwCur
        else (s.bankOf st.val b.val).bwMax }) := by
  unfold execBandwidthWindowEnd State.guard
  exact congrArg _ (if_pos (by simpa [hbw, hb, ht] using hw))

theorem bandwidthWindowEnd_goesOn (h : (s.bankOf st.val b.val).window = 0 ∨ s.time % ((s.bankOf st.val b.val).window.toNat * 1000) ≠ 0) :
    execBandwidthWindowEnd st b s = .next s := by
  unfold execBandwidthWindowEnd State.guard
  refine congrArg _ (if_neg ?_)
  rcases h with h | h
  · simp [h]
  · simp [h]

theorem pmBwmaxRead_eq (who : Master) (hbw : bwBank st.val b.val = true) (hb : hasBank st.val b.val = true) :
    execPmBwmaxRead who st b s = .next (s.setBank st.val b.val { s.bankOf st.val b.val with bwMax := 0 }) := by
  unfold execPmBwmaxRead
  rw [hbw, hb]
  rfl

end

end Sys2Proof.Machine
end

section
/-!
SUPPORT and PROOFS. Ladle: its control register, triggers, latches and snapshots (R414 to R422).
-/
namespace Sys2Proof.Machine

/-! ### The control register (R416) -/

section
variable {s : State} {v : BitVec 32}

/-- Ladle with the fields that a write of its control register sets. -/
def Ladle.configured (l : Ladle) (v : BitVec 32) : Ladle :=
  { l with trigev := v.getLsbD 16, lead := if fld v 15 8 < 2 then 2 else BitVec.ofNat 8 (fld v 15 8), log2sz := BitVec.ofNat 5 (fld v 4 0) }

theorem toNat_setWidth_64 (v : BitVec 32) : (v.setWidth 64 : Word).toNat = v.toNat := by
  rw [BitVec.toNat_setWidth, Nat.mod_eq_of_lt]
  have := v.isLt
  omega

theorem ladleCtl_eq (s : State) (v : BitVec 32) : s.ladleCtl (v.setWidth 64) 0xFFFF_FFFF =
    let l := if s.perf.ladle.en then s.perf.ladle else s.perf.ladle.configured v
    s.setLadle (if v.getLsbD 31 = false then { l with en := false } else if l.en then l
      else if s.ringOk l then { l with en := true, head := 0, err := 0 } else { l with err := 1 }) := by
  have hm : ∀ i, i = 31 ∨ i = 16 ∨ i = 8 ∨ i = 0 → (0xFFFF_FFFF : Word).getLsbD i = true := by
    rintro i (rfl | rfl | rfl | rfl) <;> rfl
  have hb : ∀ i, i < 32 → (v.setWidth 64 : Word).getLsbD i = v.getLsbD i := fun i hi => by
    rw [BitVec.getLsbD_setWidth]
    simp
    omega
  unfold State.ladleCtl Ladle.configured
  simp only [hm 31 (by omega), hm 16 (by omega), hm 8 (by omega), hm 0 (by omega), hb 31 (by omega), hb 16 (by omega), fld, toNat_setWidth_64]
  simp

theorem ladleEnable_eq {who : Master} (hw : mayWrite .r31 who = true) : execLadleEnable who v s = .next (s.ladleCtl (v.setWidth 64) 0xFFFF_FFFF) :=
  congrArg _ (r31Write_admitted _ _ _ _ hw)

/-- The four outcomes of a write of the control register (R416). -/
theorem ladleCtl_outcomes (s : State) (v : BitVec 32) : let l := s.perf.ladle
    let t := s.ladleCtl (v.setWidth 64) 0xFFFF_FFFF
    (l.en = true → t = s.setLadle { l with en := v.getLsbD 31 }) ∧
    (l.en = false → v.getLsbD 31 = false → t = s.setLadle (l.configured v)) ∧
    (l.en = false → v.getLsbD 31 = true → s.ringOk (l.configured v) = true → t = s.setLadle { l.configured v with en := true, head := 0, err := 0 }) ∧
    (l.en = false → v.getLsbD 31 = true → s.ringOk (l.configured v) = false → t = s.setLadle { l.configured v with err := 1 }) := by
  intro l t
  have ht : t = _ := ladleCtl_eq s v
  have hen : (l.configured v).en = l.en := rfl
  clear_value t
  subst ht
  refine ⟨fun he => ?_, fun he hv => ?_, fun he hv hr => ?_, fun he hv hr => ?_⟩
  · simp only [l] at he
    simp only [he, if_true]
    cases hv : v.getLsbD 31 with
    | false => rfl
    | true => exact congrArg s.setLadle (congrArg (fun e => { l with en := e }) he)
  all_goals
    simp only [l] at he hen
    simp only [hen, he, hv, if_true, Bool.false_eq_true, reduceCtorEq, if_false]
  · refine congrArg s.setLadle ?_
    exact congrArg (fun e => { l.configured v with en := e }) (he.symm)
  · simp only [l] at hr
    exact congrArg s.setLadle (if_pos hr)
  · simp only [l] at hr
    have hn : ¬s.ringOk (s.perf.ladle.configured v) = true := by rw [hr]; exact Bool.false_ne_true
    exact congrArg s.setLadle ((if_neg hn).trans (congrArg (fun e => { s.perf.ladle.configured v with en := e, err := 1 }) he.symm))

end

/-! ### Triggers (R418) -/

section
variable (s : State) (cause : Nat)

/-- The bytes of the ring that are in use. -/
def Ladle.used (l : Ladle) : Nat := (l.head + l.size - l.tail.toNat % l.size) % l.size

/-- The outcomes of a trigger (R418). -/
theorem ladleTrigger_outcomes : let l := s.perf.ladle
    (l.en = false → s.ladleTrigger cause = s) ∧
    (l.en = true → l.armed = true ∨ l.collect = true → s.ladleTrigger cause = s.setLadle { l with dropbusy := l.dropbusy + 1 }) ∧
    (l.en = true → l.armed = false → l.collect = false → l.size - 64 < l.used + 37888 →
      s.ladleTrigger cause = s.setLadle { l with seq := l.seq + 1, dropring := l.dropring + 1 }) ∧
    (l.en = true → l.armed = false → l.collect = false → l.used + 37888 ≤ l.size - 64 →
      s.ladleTrigger cause = s.setLadle { l with seq := l.seq + 1, t := s.time + 1000 * l.lead.toNat, armed := true, cause := cause, late := false }) := by
  intro l
  refine ⟨fun he => ?_, fun he hb => ?_, fun he ha hc hs => ?_, fun he ha hc hs => ?_⟩
  · exact if_pos (by rw [he]; rfl)
  · refine (if_neg (by rw [he]; decide)).trans (if_pos ?_)
    exact (Bool.or_eq_true _ _).mpr hb
  all_goals
    refine (if_neg (by rw [he]; decide)).trans ((if_neg ?_).trans ?_)
    · rw [ha, hc]; decide
  · exact if_pos hs
  · exact if_neg (Nat.not_lt.mpr hs)

end

section
variable {s : State}

theorem ladleSnap_eq {who : Master} (hw : mayWrite .r31 who = true) : execLadleSnap who s = .next (s.ladleTrigger 0) :=
  congrArg _ (r31Write_admitted _ _ _ _ hw)

theorem ladlePeriodTrigger_idle (h : s.perf.ladle.period.toNat < 10) : execLadlePeriodTrigger s = .next s := by
  unfold execLadlePeriodTrigger
  exact congrArg _ (if_neg (Nat.not_le.mpr h))

/-- The periodic trigger is at the next multiple of the period (R418). -/
theorem ladlePeriodTrigger_due (h : 10 ≤ s.perf.ladle.period.toNat) : ∃ u : State, execLadlePeriodTrigger s = .next (u.ladleTrigger 1) ∧
    u.perf = s.perf ∧ u.time % (s.perf.ladle.period.toNat * 1000) = 0 ∧ s.time ≤ u.time ∧ u.time < s.time + s.perf.ladle.period.toNat * 1000 := by
  obtain ⟨hmod, hle, hlt⟩ := nextMultiple_spec (p := s.perf.ladle.period.toNat * 1000) (by omega) s.time
  refine ⟨s.passTo (nextMultiple (s.perf.ladle.period.toNat * 1000) s.time), ?_, by rw [passTo_frame], ?_, ?_, ?_⟩
  · unfold execLadlePeriodTrigger
    exact congrArg _ (if_pos h)
  all_goals rw [passTo_time s hle]
  · exact hmod
  · exact hle
  · exact hlt

end

/-! ### Latches (R418, R420) -/

section
variable (s : State)

theorem banksOf_le (st : Nat) : banksOf st ≤ 3 := by
  unfold banksOf
  split <;> omega

theorem bankKey_inj {st st' b b' : Nat} (hb : b < 3) (hb' : b' < 3) (h : bankKey st b = bankKey st' b') : st = st' ∧ b = b' := by
  unfold bankKey at h
  omega

/-- The state with one bank of a stop latched. -/
def State.latchedBank (st : Nat) (late : Bool) (b : Nat) : State := s.setBank st b { s.bankOf st b with latch := some (s.latchOf st b late), ovf := 0 }

theorem latchStop_eq (st : Nat) (late : Bool) : s.latchStop st late = (List.range (banksOf st)).foldl (fun s b => s.latchedBank st late b) s := rfl

/-- What a stop's banks hold after they have been latched one by one: each bank is latched as it stood. -/
theorem foldl_latchedBank (st : Nat) (late : Bool) (l : List Nat) (hn : l.Nodup) (h3 : ∀ b ∈ l, b < 3) (s : State) :
    let t := l.foldl (fun s b => s.latchedBank st late b) s
    (∀ b ∈ l, t.bankOf st b = { s.bankOf st b with latch := some (s.latchOf st b late), ovf := 0 }) ∧
    (∀ j, (∀ b ∈ l, j ≠ bankKey st b) → tabGet Bank.reset t.perf.banks j = tabGet Bank.reset s.perf.banks j) ∧
    t.perf.ladle = s.perf.ladle ∧ t = { s with perf := t.perf } := by
  induction l generalizing s with
  | nil => exact ⟨fun b hb => absurd hb List.not_mem_nil, fun _ _ => rfl, rfl, rfl⟩
  | cons b l ih =>
    obtain ⟨hnot, hn⟩ := List.nodup_cons.mp hn
    obtain ⟨hb3, h3⟩ := List.forall_mem_cons.mp h3
    obtain ⟨hin, hout, hlad, hframe⟩ := ih hn h3 (s.latchedBank st late b)
    have hone : ∀ c, bankKey st c ≠ bankKey st b → (s.latchedBank st late b).bankOf st c = s.bankOf st c := fun c hc => tabGet_tabSet_ne _ _ _ _ _ hc
    have hlatch : ∀ c, bankKey st c ≠ bankKey st b → (s.latchedBank st late b).latchOf st c late = s.latchOf st c late := fun c hc => by
      unfold State.latchOf
      rw [hone c hc]
      rfl
    refine ⟨List.forall_mem_cons.mpr ⟨?_, fun c hc => ?_⟩, fun j hj => ?_, hlad, hframe⟩
    · have hfar : ∀ c ∈ l, bankKey st b ≠ bankKey st c := fun c hc e => hnot ((bankKey_inj hb3 (h3 c hc) e).2 ▸ hc)
      exact (hout _ hfar).trans (tabGet_tabSet_same ..)
    · have hk : bankKey st c ≠ bankKey st b := fun e => hnot ((bankKey_inj (h3 c hc) hb3 e).2 ▸ hc)
      exact (hin c hc).trans (by rw [hone c hk, hlatch c hk])
    · obtain ⟨hjb, hjl⟩ := List.forall_mem_cons.mp hj
      exact (hout j hjl).trans (tabGet_tabSet_ne _ _ _ _ _ hjb)

theorem ladleLatch_idle {st : Fin 320} (h : (s.perf.ladle.armed = false ∧ s.perf.ladle.collect = false) ∨ (s.bankOf st.val 0).latch.isSome = true) :
    execLadleLatch st s = .next s := by
  unfold execLadleLatch
  refine congrArg _ (if_pos ?_)
  rcases h with ⟨ha, hc⟩ | h
  · rw [ha, hc]; rfl
  · rw [h, Bool.or_true]

/-- Ladle after a stop has latched: the interval is closed, and late where the stop is (R420). -/
def State.ladleLatched : Ladle :=
  let l := s.perf.ladle
  { l with armed := false, collect := true, late := l.late || decide (l.t < s.time), tok := if l.armed = true then s.brineLedger else l.tok }

/-- A stop latches at T, or at once where T is past (R420). -/
theorem ladleLatch_latches {st : Fin 320} (ho : s.perf.ladle.armed = true ∨ s.perf.ladle.collect = true) (hl : (s.bankOf st.val 0).latch = none) :
    ∃ c a, execLadleLatch st s =
      .next (((s.atTime (max s.time s.perf.ladle.t) c a).setLadle s.ladleLatched).latchStop st.val (decide (s.perf.ladle.t < s.time))) ∧
      s.passTo s.perf.ladle.t = s.atTime (max s.time s.perf.ladle.t) c a := by
  obtain ⟨c, a, hu⟩ := passTo_atTime s s.perf.ladle.t
  refine ⟨c, a, ?_, hu⟩
  have hlate : decide (s.perf.ladle.t < max s.time s.perf.ladle.t) = decide (s.perf.ladle.t < s.time) := by
    rw [decide_eq_decide]
    omega
  have hcond : ¬(!(s.perf.ladle.armed || s.perf.ladle.collect) || (s.bankOf st.val 0).latch.isSome) = true := by
    rw [hl]
    rcases ho with h | h <;> simp [h]
  unfold execLadleLatch
  refine congrArg _ ((if_neg hcond).trans ?_)
  rw [hu, State.ladleLatched, ← hlate]
  rfl

end

/-! ### Writes at the home slice leave the pulses of events alone -/

/-- Of the interrupts, only the levels of sources may differ. -/
def State.onlyLevels (s t : State) : Prop := t.irq = { s.irq with src := t.irq.src }

theorem onlyLevels_refl (s : State) : s.onlyLevels s := rfl

theorem onlyLevels_trans {s t u : State} (a : s.onlyLevels t) (b : t.onlyLevels u) : s.onlyLevels u := by
  unfold State.onlyLevels at *
  rw [b, a]

theorem onlyLevels_of_irq {s t : State} (h : t.irq = s.irq) : s.onlyLevels t := by
  unfold State.onlyLevels
  rw [h]

theorem ite_onlyLevels {c : Prop} [Decidable c] {s a b : State} (ha : s.onlyLevels a) (hb : s.onlyLevels b) : s.onlyLevels (if c then a else b) := by
  split
  · exact ha
  · exact hb

theorem foldl_onlyLevels {α : Type} {f : State → α → State} (hf : ∀ s a, State.onlyLevels s (f s a)) (l : List α) (s : State) :
    s.onlyLevels (l.foldl f s) := by
  induction l generalizing s with
  | nil => exact onlyLevels_refl s
  | cons a l ih => exact onlyLevels_trans (hf s a) (ih _)

section
variable (s : State)

theorem mapHarts_onlyLevels (f : Hart → Hart) (l : List HartId) : s.onlyLevels (s.mapHarts f l) :=
  onlyLevels_of_irq (by rw [mapHarts_frame])

theorem setL2_onlyLevels (a ln : Nat) (c : CLine) : s.onlyLevels (s.setL2 a ln c) := rfl
theorem setL3_onlyLevels (ln : Nat) (v : L3Line) : s.onlyLevels (s.setL3 ln v) := rfl
theorem setMark_onlyLevels (la : Nat) (m : LineMark) : s.onlyLevels (s.setMark la m) := rfl
theorem setSf_onlyLevels (ln : Nat) (v : SfEntry) : s.onlyLevels (s.setSf ln v) := rfl
theorem mapFlits_setCoh_onlyLevels (g : Flit → Flit) (v : Coh) : s.onlyLevels ((s.mapFlits g).setCoh v) := rfl
theorem setBrine_onlyLevels (b : Brine) : s.onlyLevels { s with brine := b } := rfl
theorem driveBrine_onlyLevels : s.onlyLevels s.driveBrine := rfl
theorem vbPut_onlyLevels (ln : Nat) (d : Line) (m : LineMask) (p k x : Bool) : s.onlyLevels (s.vbPut ln d m p k x) := rfl
theorem countFallback_onlyLevels : s.onlyLevels s.countFallback := rfl
theorem setMem_onlyLevels (m : Mems) : s.onlyLevels { s with mem := m } := rfl

theorem pokeCopies_onlyLevels (ln : Nat) (d : Line) (m : LineMask) : s.onlyLevels (s.pokeCopies ln d m) := by
  unfold State.pokeCopies
  extract_lets whole u v vb wb fl txn
  exact onlyLevels_trans (onlyLevels_trans (foldl_onlyLevels (fun _ _ => setL2_onlyLevels ..) _ s) (ite_onlyLevels (setL3_onlyLevels ..) (onlyLevels_refl _)))
    (mapFlits_setCoh_onlyLevels ..)

theorem pokeLine_onlyLevels (la : Nat) (d : Line) (m : LineMask) : s.onlyLevels (s.pokeLine la d m) := by
  unfold State.pokeLine
  extract_lets b u mem v w x sram
  split
  · have hu : s.onlyLevels u := pokeCopies_onlyLevels ..
    have hw : v.onlyLevels w := ite_onlyLevels (setMark_onlyLevels ..) (onlyLevels_refl v)
    exact onlyLevels_trans (onlyLevels_trans (onlyLevels_trans (onlyLevels_trans hu (setMem_onlyLevels u _)) hw) (mapHarts_onlyLevels w _ _)) (mapHarts_onlyLevels x _ _)
  · exact setMem_onlyLevels ..
  · exact onlyLevels_refl s

variable {s}

theorem takeToken_onlyLevels {t : State} {k : Nat} (h : s.takeToken k = .taken t) : s.onlyLevels t := by
  unfold State.takeToken at h
  dsimp only at h
  split at h
  · split at h <;> exact absurd h (by simp)
  · cases h
    exact onlyLevels_trans (setBrine_onlyLevels s _) (driveBrine_onlyLevels _)

theorem belowL2_onlyLevels {t : State} (h : s.belowL2 t) : s.onlyLevels t := by
  obtain ⟨l, v, rfl⟩ := h
  exact onlyLevels_refl _

theorem writeCore_onlyLevels {t : State} {ln : Nat} {a k b p : Bool} {d : Line} (h : s.writeCore ln a k d p = some (t, b)) : s.onlyLevels t := by
  unfold State.writeCore at h
  dsimp only at h
  split at h
  · simp only [Option.map_eq_some_iff, Prod.mk.injEq] at h
    obtain ⟨u, hu, rfl, -⟩ := h
    exact belowL2_onlyLevels (l3Put_belowL2 hu)
  · split at h
    · next u hu =>
      simp only [Option.map_eq_some_iff, Prod.mk.injEq] at h
      obtain ⟨v, hv, rfl, -⟩ := h
      exact onlyLevels_trans (takeToken_onlyLevels hu) (belowL2_onlyLevels (l3Put_belowL2 hv))
    · exact absurd h (by simp)
    · split at h
      · exact absurd h (by simp)
      · cases h
        exact onlyLevels_trans (onlyLevels_trans (setL3_onlyLevels ..) (vbPut_onlyLevels ..)) (countFallback_onlyLevels _)

variable (s)

theorem homeWrite_onlyLevels (la : Nat) (d : Line) (m : LineMask) : s.onlyLevels (s.homeWrite la d m) := by
  unfold State.homeWrite
  dsimp only
  split
  · exact pokeLine_onlyLevels ..
  · split
    · exact onlyLevels_trans (ite_onlyLevels (onlyLevels_trans (setMem_onlyLevels s _) (setMark_onlyLevels ..)) (setMem_onlyLevels s _)) (mapHarts_onlyLevels _ _ _)
    · split
      · exact pokeLine_onlyLevels ..
      · split
        · next h =>
          refine onlyLevels_trans (onlyLevels_trans (onlyLevels_trans ?_ (setSf_onlyLevels ..)) (mapHarts_onlyLevels _ _ _)) (writeCore_onlyLevels h)
          exact foldl_onlyLevels (fun u a => onlyLevels_trans (mapHarts_onlyLevels u _ _) (setL2_onlyLevels ..)) _ s
        · exact pokeLine_onlyLevels ..

theorem homeBytes_onlyLevels (n : Nat) (s : State) (la : Nat) (bs : List Byte) : s.onlyLevels (s.homeBytes la bs n) := by
  induction n generalizing s la bs with
  | zero => exact onlyLevels_refl s
  | succ n ih =>
    unfold State.homeBytes
    split
    · exact onlyLevels_refl s
    · exact onlyLevels_trans (homeWrite_onlyLevels ..) (ih ..)

/-- A write of the ring is a write of memory. -/
theorem ringWrite_rest (o : Nat) (rs : List (List Byte)) : s.sameBut (s.ringWrite o rs).1 ∧ s.onlyLevels (s.ringWrite o rs).1 := by
  induction rs generalizing s o with
  | nil => exact ⟨rfl, rfl⟩
  | cons r rs ih =>
    unfold State.ringWrite
    dsimp only
    split
    · obtain ⟨h1, h2⟩ := ih (s.homeBytes (s.perf.ladle.base.toNat + o % s.perf.ladle.size) r 2) (o + 64)
      exact ⟨sameBut_trans (homeBytes_sameBut ..) h1, onlyLevels_trans (homeBytes_onlyLevels ..) h2⟩
    · exact ⟨rfl, rfl⟩

end

/-! ### Snapshots (R421, R422) -/

/-- A bank whose latch is dropped, its overflow bits merged back or not (R422). -/
def Bank.dropped (merge : Bool) (v : Bank) : Bank :=
  match v.latch with
  | none => v
  | some c => { v with latch := none, ovf := if merge then v.ovf ||| c.ovf else v.ovf }

theorem Bank.dropped_none {v : Bank} (merge : Bool) (h : v.latch = none) : v.dropped merge = v := by
  rw [Bank.dropped, h]

theorem Bank.dropped_some {v : Bank} {c : Latched} (merge : Bool) (h : v.latch = some c) :
    v.dropped merge = { v with latch := none, ovf := if merge then v.ovf ||| c.ovf else v.ovf } := by
  rw [Bank.dropped, h]

theorem Bank.dropped_false (v : Bank) : v.dropped false = { v with latch := none } := by
  cases h : v.latch with
  | none => rw [Bank.dropped_none false h, ← h]
  | some c => exact Bank.dropped_some false h

theorem Bank.latch_dropped (v : Bank) (merge : Bool) : (v.dropped merge).latch = none := by
  unfold Bank.dropped
  split
  · assumption
  · rfl

section
variable (s : State)

/-- One step of dropping the latches. -/
def State.dropLatch (merge : Bool) (p : Nat × Nat) : State :=
  match (s.bankOf p.1 p.2).latch with
  | none => s
  | some c => s.setBank p.1 p.2 { s.bankOf p.1 p.2 with latch := none, ovf := if merge then (s.bankOf p.1 p.2).ovf ||| c.ovf else (s.bankOf p.1 p.2).ovf }

theorem dropLatches_eq (merge : Bool) : s.dropLatches merge = banksInOrder.foldl (fun s p => s.dropLatch merge p) s := rfl

theorem dropLatch_spec (merge : Bool) (p : Nat × Nat) : (s.dropLatch merge p).bankOf p.1 p.2 = (s.bankOf p.1 p.2).dropped merge ∧
    (∀ q : Nat × Nat, bankKey q.1 q.2 ≠ bankKey p.1 p.2 → (s.dropLatch merge p).bankOf q.1 q.2 = s.bankOf q.1 q.2) ∧
    ∃ b, s.dropLatch merge p = { s with perf := { s.perf with banks := b } } := by
  unfold State.dropLatch
  split
  · next h => exact ⟨(Bank.dropped_none merge h).symm, fun _ _ => rfl, s.perf.banks, rfl⟩
  · next c h => exact ⟨(tabGet_tabSet_same ..).trans (Bank.dropped_some merge h).symm, fun q hq => tabGet_tabSet_ne _ _ _ _ _ hq, _, rfl⟩

/-- Every bank's latch is dropped, however often a bank comes in the list. -/
theorem foldl_dropLatch (merge : Bool) (l : List (Nat × Nat)) (h3 : ∀ p ∈ l, p.2 < 3) (s : State) :
    let t := l.foldl (fun s p => s.dropLatch merge p) s
    (∀ p ∈ l, t.bankOf p.1 p.2 = (s.bankOf p.1 p.2).dropped merge) ∧
    (∀ q : Nat × Nat, t.bankOf q.1 q.2 = s.bankOf q.1 q.2 ∨ t.bankOf q.1 q.2 = (s.bankOf q.1 q.2).dropped merge) ∧
    ∃ b, t = { s with perf := { s.perf with banks := b } } := by
  induction l generalizing s with
  | nil => exact ⟨fun p hp => absurd hp List.not_mem_nil, fun _ => .inl rfl, s.perf.banks, rfl⟩
  | cons p l ih =>
    obtain ⟨hp3, h3⟩ := List.forall_mem_cons.mp h3
    obtain ⟨hsame, hne, b, hframe⟩ := dropLatch_spec s merge p
    obtain ⟨hin, hall, b', hframe'⟩ := ih h3 (s.dropLatch merge p)
    have htwice : ∀ v : Bank, (v.dropped merge).dropped merge = v.dropped merge := fun v => Bank.dropped_none merge (v.latch_dropped merge)
    have hkey : ∀ q : Nat × Nat, bankKey q.1 q.2 = bankKey p.1 p.2 →
        (s.dropLatch merge p).bankOf q.1 q.2 = (s.bankOf q.1 q.2).dropped merge := fun q hq => by
      rw [State.bankOf, State.bankOf, hq]
      exact hsame
    rw [List.foldl_cons]
    refine ⟨List.forall_mem_cons.mpr ⟨?_, fun q hq => ?_⟩, fun q => ?_, b', hframe'.trans (by rw [hframe])⟩
    · rcases hall p with h | h
      · exact h.trans hsame
      · rw [h, hsame, htwice]
    · by_cases hk : bankKey q.1 q.2 = bankKey p.1 p.2
      · rw [hin q hq, hkey q hk, htwice]
      · rw [hin q hq, hne q hk]
    · by_cases hk : bankKey q.1 q.2 = bankKey p.1 p.2
      · rcases hall q with h | h
        · exact .inr (h.trans (hkey q hk))
        · exact .inr (by rw [h, hkey q hk, htwice])
      · rw [← hne q hk]
        exact hall q

theorem banksInOrder_lt : ∀ p ∈ banksInOrder, p.2 < 3 := by
  intro p hp
  obtain ⟨st, -, h⟩ := List.mem_flatMap.mp hp
  obtain ⟨b, hb, rfl⟩ := List.mem_map.mp h
  exact Nat.lt_of_lt_of_le (List.mem_range.mp hb) (banksOf_le st)

/-- What the dropped latches leave of a state whose counters are those of `s`. -/
theorem dropLatches_spec {u : State} (merge : Bool) (hp : u.perf = s.perf) : ∃ b, u.dropLatches merge = { u with perf := { u.perf with banks := b } } ∧
    ∀ p ∈ banksInOrder, (u.dropLatches merge).bankOf p.1 p.2 = (s.bankOf p.1 p.2).dropped merge := by
  obtain ⟨hin, -, b, hframe⟩ := foldl_dropLatch merge banksInOrder banksInOrder_lt u
  refine ⟨b, hframe, fun p h => (hin p h).trans ?_⟩
  rw [State.bankOf, hp]
  rfl

/-- The record of a snapshot that the ring has not taken (R422). -/
def ringRecord (pkg base o : Nat) : ErrInfo := { mkErr 0x14 3 (stopId 0 36) true with pa := some (pkg * 2 ^ 47 + base + o), detail := o }

/-- The state with that record. -/
def State.ringFailed (s : State) (base o : Nat) : State := s.logErr (ringRecord s.pma.pkgId.toNat base o)

theorem ringFailed_frame (base o : Nat) : ∃ e i, s.ringFailed base o = { s with err := e, irq := { s.irq with src := i } } := ⟨_, _, rfl⟩

theorem ringFailed_err {t : State} (base o : Nat) (he : t.err = s.err) (ht : t.time = s.time) (hp : t.pma = s.pma) :
    (t.ringFailed base o).err = (s.logErr (ringRecord s.pma.pkgId.toNat base o)).err := by
  rw [State.ringFailed, hp]
  exact logErr_congr _ he ht

variable {s}

theorem ladleSnapshotDone_idle (h : s.perf.ladle.collect = false ∨ ∃ st ∈ stopsInOrder, (s.bankOf st 0).latch = none) :
    execLadleSnapshotDone s = .next s := by
  unfold execLadleSnapshotDone
  refine congrArg _ (if_pos ?_)
  rw [Bool.or_eq_true, List.any_eq_true]
  rcases h with h | ⟨st, hst, h⟩
  · exact .inl (by rw [h]; rfl)
  · exact .inr ⟨st, hst, by rw [h]; rfl⟩

section
variable (hc : s.perf.ladle.collect = true) (hall : ∀ st ∈ stopsInOrder, (s.bankOf st 0).latch.isSome = true)
include hc hall

theorem snapshot_complete : ¬(!s.perf.ladle.collect || stopsInOrder.any fun st => (s.bankOf st 0).latch.isNone) = true := by
  rw [hc, Bool.or_eq_true, List.any_eq_true]
  rintro (h | ⟨st, hst, h⟩)
  · exact Bool.false_ne_true h
  · rw [Option.isNone_iff_eq_none] at h
    have := hall st hst
    rw [h] at this
    exact Bool.false_ne_true this

/-- A snapshot that the ring has taken (R421). -/
theorem ladleSnapshotDone_written (hw : (s.ringWrite s.perf.ladle.head s.snapshot).2 = none) : execLadleSnapshotDone s = .next
    ((((s.ringWrite s.perf.ladle.head s.snapshot).1.dropLatches false).setLadle
      { s.perf.ladle with head := (s.perf.ladle.head + 37888) % s.perf.ladle.size, collect := false }).pulse 176) := by
  unfold execLadleSnapshotDone
  refine congrArg _ ((if_neg (snapshot_complete hc hall)).trans ?_)
  revert hw
  generalize s.ringWrite s.perf.ladle.head s.snapshot = x
  obtain ⟨u, o⟩ := x
  rintro rfl
  rfl

theorem ladleSnapshotDone_failed {o : Nat} (hw : (s.ringWrite s.perf.ladle.head s.snapshot).2 = some o) : execLadleSnapshotDone s = .next
    ((((s.ringWrite s.perf.ladle.head s.snapshot).1.dropLatches true).setLadle
      { s.perf.ladle with en := false, err := 2, collect := false }).ringFailed s.perf.ladle.base.toNat o) := by
  unfold execLadleSnapshotDone
  refine congrArg _ ((if_neg (snapshot_complete hc hall)).trans ?_)
  revert hw
  generalize s.ringWrite s.perf.ladle.head s.snapshot = x
  obtain ⟨u, o'⟩ := x
  rintro rfl
  unfold State.ringFailed ringRecord
  dsimp only

end

end

/-- The two ends of a complete snapshot (R421, R422). -/
theorem ladleSnapshotDone_outcomes (s : State) (hc : s.perf.ladle.collect = true) (hall : ∀ st ∈ stopsInOrder, (s.bankOf st 0).latch.isSome = true) :
    let l := s.perf.ladle
    ((s.ringWrite l.head s.snapshot).2 = none → ∃ t, execLadleSnapshotDone s = .next t ∧
      t.perf.ladle = { l with head := (l.head + 37888) % l.size, collect := false } ∧ t.irq.events = (s.pulse 176).irq.events ∧ t.err = s.err ∧
      (∀ p ∈ banksInOrder, t.bankOf p.1 p.2 = { s.bankOf p.1 p.2 with latch := none })) ∧
    (∀ o, (s.ringWrite l.head s.snapshot).2 = some o → ∃ t, execLadleSnapshotDone s = .next t ∧
      t.perf.ladle = { l with en := false, err := 2, collect := false } ∧ t.irq.events = s.irq.events ∧
      t.err = (s.logErr { mkErr 0x14 3 (stopId 0 36) true with pa := some (s.pma.pkgId.toNat * 2 ^ 47 + l.base.toNat + o), detail := o }).err ∧
      (∀ p ∈ banksInOrder, ∀ c, (s.bankOf p.1 p.2).latch = some c →
        t.bankOf p.1 p.2 = { s.bankOf p.1 p.2 with latch := none, ovf := (s.bankOf p.1 p.2).ovf ||| c.ovf })) := by
  intro l
  obtain ⟨hsame, hirq⟩ := ringWrite_rest s l.head s.snapshot
  have hwr : (s.ringWrite l.head s.snapshot).2 = none → _ := ladleSnapshotDone_written hc hall
  have hfa : ∀ {o}, (s.ringWrite l.head s.snapshot).2 = some o → _ := fun {o} => ladleSnapshotDone_failed hc hall (o := o)
  simp only [l] at hsame hirq
  generalize s.ringWrite s.perf.ladle.head s.snapshot = x at *
  obtain ⟨u, r⟩ := x
  dsimp only at hsame hirq hwr hfa ⊢
  have hperf : u.perf = s.perf := by rw [hsame]
  have herr : u.err = s.err := by rw [hsame]
  have htime : u.time = s.time := by rw [hsame]
  have hpma : u.pma = s.pma := by rw [hsame]
  have hev : u.irq.events = s.irq.events := by rw [hirq]
  have hsrc : u.irq.evsrc = s.irq.evsrc := by rw [hirq]
  refine ⟨fun hr => ?_, fun o hr => ?_⟩
  · obtain ⟨b, hd, hb⟩ := dropLatches_spec (u := u) s false hperf
    refine ⟨_, hwr hr, ?_⟩
    generalize u.dropLatches false = w at *
    subst hd
    refine ⟨?_, ?_, ?_, fun p hp => ?_⟩
    · rw [State.pulse, pulseAtStop_frame]; rfl
    · rw [State.pulse, pulseAtStop_events, State.pulse, pulseAtStop_events]
      unfold State.evsrc
      simp only [State.setLadle, hev, hsrc]
    · rw [State.pulse, pulseAtStop_frame]; exact herr
    · rw [State.pulse, pulseAtStop_frame]
      exact (hb p hp).trans (Bank.dropped_false _)
  · obtain ⟨b, hd, hb⟩ := dropLatches_spec (u := u) s true hperf
    refine ⟨_, hfa hr, ?_⟩
    generalize u.dropLatches true = w at *
    subst hd
    obtain ⟨e, i, hf⟩ := ringFailed_frame (State.setLadle { u with perf := { u.perf with banks := b } } { l with en := false, err := 2, collect := false }) l.base.toNat o
    refine ⟨?_, ?_, ?_, fun p hp c hc => ?_⟩
    · rw [hf]; rfl
    · rw [hf]; exact hev
    · exact ringFailed_err s _ _ herr htime hpma
    · rw [hf]
      exact (hb p hp).trans (Bank.dropped_some true hc)

end Sys2Proof.Machine
end

section
/-!
PROOF. Counters, windows and snapshots (R402 to R422).
-/
namespace Sys2Proof.Machine

section
variable {s : State}

/-- A stop that latches: Ladle, the stop's banks and the rest of the state (R418, R420). -/
theorem ladleLatch_spec {st : Fin 320} (ho : s.perf.ladle.armed = true ∨ s.perf.ladle.collect = true) (hl : (s.bankOf st.val 0).latch = none) :
    let l := s.perf.ladle
    ∃ t, execLadleLatch st s = .next t ∧ t.time = max s.time l.t ∧
      t.perf.ladle = { l with armed := false, collect := true, late := l.late || decide (l.t < s.time), tok := if l.armed = true then s.brineLedger else l.tok } ∧
      (∀ b, b < banksOf st.val → ∃ c, t.bankOf st.val b = { s.bankOf st.val b with latch := some c, ovf := 0 } ∧ c.ovf = (s.bankOf st.val b).ovf ∧
        c.cnt = (List.range 4).map (s.bankOf st.val b).count ∧ c.late = decide (l.t < s.time) ∧ c.off = s.agentOff st.val b ∧
        c.fix0 = BitVec.ofNat 64 ((s.passTo l.t).fixOf st.val b).1 ∧ c.fix1 = BitVec.ofNat 64 ((s.passTo l.t).fixOf st.val b).2) ∧
      (∀ j, (∀ b, b < banksOf st.val → j ≠ bankKey st.val b) → tabGet Bank.reset t.perf.banks j = tabGet Bank.reset s.perf.banks j) ∧
      t = { s with perf := t.perf, time := t.time, mesh := { s.mesh with cycle := t.mesh.cycle, ahead := t.mesh.ahead } } := by
  intro l
  obtain ⟨cy, ah, hx, hu⟩ := ladleLatch_latches s ho hl
  have hlatched : s.ladleLatched = { s.perf.ladle with
      armed := false, collect := true, late := s.perf.ladle.late || decide (s.perf.ladle.t < s.time),
      tok := if s.perf.ladle.armed = true then s.brineLedger else s.perf.ladle.tok } := rfl
  rw [hu]
  generalize decide (s.perf.ladle.t < s.time) = late at *
  generalize max s.time s.perf.ladle.t = n at *
  obtain ⟨hin, hout, hlad, hframe⟩ := foldl_latchedBank st.val late (List.range (banksOf st.val)) List.nodup_range
    (fun b hb => Nat.lt_of_lt_of_le (List.mem_range.mp hb) (banksOf_le st.val)) ((s.atTime n cy ah).setLadle s.ladleLatched)
  rw [latchStop_eq] at hx
  refine ⟨_, hx, ?_⟩
  generalize List.foldl (fun (s : State) b => s.latchedBank st.val late b) _ _ = t at *
  refine ⟨by rw [hframe]; rfl, ?_, fun b hb => ⟨_, hin b (List.mem_range.mpr hb), rfl, rfl, rfl, rfl, rfl, rfl⟩,
    fun j hj => hout j fun b hb => hj b (List.mem_range.mp hb), ?_⟩
  · rw [hlad]; exact hlatched
  · rw [hframe]; rfl

end

/-- Settles O48. The parts of the model have a specification each; the statement puts them together. -/
theorem countersAndSnapshots : Obligations.CountersAndSnapshots := by
  unfold Obligations.CountersAndSnapshots
  refine ⟨?_, ?_, ?_, ?_, ?_, ?_, ?_, ?_, ?_⟩
  · intro s h k c ev hi hv
    refine ⟨fun h3 hk => ?_, coreCounterWrap_fixed s h hi hv, coreCounterWrap_none s h⟩
    obtain ⟨h0, hev, hrest, hirq, hne, hh, hframe⟩ := bumpHpm_wraps s h hv
    exact ⟨_, coreCounterWrap_hpm s h hi hv h3 hk, h0, (csrRead_counter _ h h3 (by omega)).trans h0, bumpHpm_from_zero _ h h0, hev, hrest, hirq, hne, hh, hframe⟩
  · intro s st b k gain v e on x
    classical
    have hx : exec (.bankCounterWrap st b k gain) s = _ := bankCounterWrap_eq s st b k gain
    refine ⟨fun hoff => hx.trans (congrArg _ (if_neg hoff)), fun hon => ⟨_, hx.trans (congrArg _ (if_pos hon)), ?_⟩⟩
    exact bumpBank_spec s st.val b.val k.val gain
  · intro s who st b hw hb
    exact ⟨pmBankClr_eq hw hb, fun _ => rfl⟩
  · intro s st b v
    exact ⟨bandwidthWindowEnd_ends, bandwidthWindowEnd_goesOn, fun who => pmBwmaxRead_eq who⟩
  · intro s who v hw
    obtain ⟨h1, h2, h3, h4⟩ := ladleCtl_outcomes s v
    have hx : exec (.ladleEnable who v) s = _ := ladleEnable_eq hw
    exact ⟨fun he => hx.trans (congrArg _ (h1 he)), fun he hv => hx.trans (congrArg _ (h2 he hv)), fun he hv hr => hx.trans (congrArg _ (h3 he hv hr)),
      fun he hv hr => hx.trans (congrArg _ (h4 he hv hr))⟩
  · intro s who hw
    obtain ⟨h1, h2, h3, h4⟩ := ladleTrigger_outcomes s 0
    have hx : exec (.ladleSnap who) s = _ := ladleSnap_eq hw
    exact ⟨fun he => hx.trans (congrArg _ (h1 he)), fun he hb => hx.trans (congrArg _ (h2 he hb)), fun he ha hc hs => hx.trans (congrArg _ (h3 he ha hc hs)),
      fun he ha hc hs => hx.trans (congrArg _ (h4 he ha hc hs))⟩
  · intro s l
    refine ⟨ladlePeriodTrigger_idle, fun hp he hb => ?_, fun hp he => ?_⟩
    · obtain ⟨u, hx, hperf, hmod, hle, hlt⟩ := ladlePeriodTrigger_due hp
      obtain ⟨-, hbusy, -⟩ := ladleTrigger_outcomes u 1
      rw [hperf] at hbusy
      rw [hbusy he hb] at hx
      exact ⟨_, hx, hmod, hle, hlt, rfl⟩
    · obtain ⟨u, hx, hperf, hmod, -⟩ := ladlePeriodTrigger_due hp
      obtain ⟨hidle, -⟩ := ladleTrigger_outcomes u 1
      rw [hperf] at hidle
      rw [hidle he] at hx
      exact ⟨_, hx, hperf, hmod⟩
  · intro s st l
    exact ⟨ladleLatch_idle s, ladleLatch_spec⟩
  · intro s l
    exact ⟨ladleSnapshotDone_idle, fun hc hall => ladleSnapshotDone_outcomes s hc hall⟩

end Sys2Proof.Machine
end

section
/-!
SUPPORT. Packets that have arrived: their turn, transit, the ends of a request at its home, and responses at their requester (R322 to R325).
-/
namespace Sys2Proof.Machine

section
variable {s : State} {l : Nat} {p : Pkt} {op : MsgOp}

/-- Whether a packet comes in turn: on a link that is up, or out of the receive buffer (R146, log entry 5). -/
def State.pktInTurn (s : State) (l : Nat) (p : Pkt) : Prop := ((s.link l).st = .up ∨ (s.link l).rxQ.contains p = true) ∧ s.pktTurn l p = true

theorem not_out_of_turn (h : s.pktInTurn l p) : ¬(((s.link l).st ≠ .up ∧ (!((s.link l).rxQ.contains p)) = true) ∨ (!(s.pktTurn l p)) = true) := by
  obtain ⟨h1, h2⟩ := h
  rintro (⟨hst, hq⟩ | ht)
  · rcases h1 with h1 | h1
    · exact hst h1
    · rw [h1] at hq; exact Bool.false_ne_true hq
  · rw [h2] at ht; exact Bool.false_ne_true ht

theorem reqPkt_transit (h : s.pktInTurn l p) (hd : p.dpkg.val ≠ s.ownPkg) : s.reqPkt l p op = s.transit l p :=
  (if_neg (not_out_of_turn h)).trans (if_neg hd)

theorem reqPkt_home (h : s.pktInTurn l p) (hd : p.dpkg.val = s.ownPkg) : s.reqPkt l p op = s.atHome l p op :=
  (if_neg (not_out_of_turn h)).trans (if_pos hd)

theorem respPkt_transit (h : s.pktInTurn l p) (hd : p.dpkg.val ≠ s.ownPkg) : s.respPkt l p = s.transit l p :=
  (if_neg (not_out_of_turn h)).trans (if_neg hd)

theorem respPkt_home (h : s.pktInTurn l p) (hd : p.dpkg.val = s.ownPkg) : s.respPkt l p = (s.takePkt l p).homeward l p :=
  (if_neg (not_out_of_turn h)).trans (if_pos hd)

/-! ### In transit (R322, R326) -/

theorem transit_past (h : 511 < p.hop + 1) : s.transit l p = (s.takePkt l p).linkErr l 1 := if_pos h

theorem transit_forwarded (h : p.hop + 1 ≤ 511) {v : State} (hv : (s.takePkt l p).forward { p with hop := p.hop + 1 } = some v) :
    ∃ f e m, s.transit l p = { v with perf := f, mesh := m, irq := { v.irq with events := e } } := by
  have hx : s.transit l p = v.count (linkStop l) 1 3 1 (some { src := mkNode 0 0, addr := p.addr.toNat, vc := p.vc.val }) := by
    refine (if_neg (Nat.not_lt.mpr h)).trans ?_
    dsimp only
    rw [hv]
  rw [hx]
  exact count_eq ..

theorem transit_lost (h : p.hop + 1 ≤ 511) (hv : (s.takePkt l p).forward { p with hop := p.hop + 1 } = none) :
    s.transit l p = (s.takePkt l p).noRoute l { p with hop := p.hop + 1 } := by
  refine (if_neg (Nat.not_lt.mpr h)).trans ?_
  dsimp only
  rw [hv]

/-! ### A request at its home (R324, R325) -/

/-- The access that a request makes at its home, as the arrival stop sends it. -/
def State.homeFlit (s : State) (l : Nat) (p : Pkt) (op : MsgOp) (n : Node) (k : Nat) : Flit :=
  let f := s.attrs (s.ownPkg * 2 ^ 47 + p.addr.toNat)
    (ncFlit op (linkNode l) n p.addr.toNat k p.spkg.val (if op = .readNc then maskOf (p.addr.toNat % 64) p.size else p.mask))
  let f := if op = .readNc then f else { f with data := some p.data }
  { f with poison := p.poison, fn := p.fn, size := p.size }

/-- The home-table entry of a request. -/
def homeEntry (l : Nat) (p : Pkt) (k : Nat) : HomeEntry :=
  { spkg := p.spkg.val, glink := p.glink.val, gtag := p.gtag.val, link := l, tag := k, op := p.op }

theorem attrs_eq (s : State) (pa : Nat) (f : Flit) : ∃ e t, s.attrs pa f = { f with ewa := e, tmo := t } := by
  unfold State.attrs
  split
  · exact ⟨_, _, rfl⟩
  · exact ⟨_, _, rfl⟩

theorem homeFlit_eq (s : State) (l : Nat) (p : Pkt) (op : MsgOp) (n : Node) (k : Nat) : ∃ e t, s.homeFlit l p op n k =
    { ncFlit op (linkNode l) n p.addr.toNat k p.spkg.val (if op = .readNc then maskOf (p.addr.toNat % 64) p.size else p.mask) with
      ewa := e, tmo := t, data := if op = .readNc then none else some p.data, poison := p.poison, fn := p.fn, size := p.size } := by
  unfold State.homeFlit
  generalize s.ownPkg * 2 ^ 47 + p.addr.toNat = pa
  generalize (if op = .readNc then maskOf (p.addr.toNat % 64) p.size else p.mask) = m
  obtain ⟨e, t, h⟩ := attrs_eq s pa (ncFlit op (linkNode l) n p.addr.toNat k p.spkg.val m)
  refine ⟨e, t, ?_⟩
  rw [h]
  by_cases ho : op = .readNc
  · simp only [if_pos ho]
    rfl
  · simp only [if_neg ho]

theorem homeFlit_spec (s : State) (l : Nat) (p : Pkt) (op : MsgOp) (n : Node) (k : Nat) : let f := s.homeFlit l p op n k
    f.src = linkNode l ∧ f.op = op ∧ f.dst = n ∧ f.tag = BitVec.ofNat 10 k ∧ f.addr = BitVec.ofNat 47 p.addr.toNat ∧
    f.poison = p.poison ∧ f.fn = p.fn ∧ f.size = p.size ∧ f.rpkg = p.spkg ∧ (op ≠ .readNc → f.data = some p.data ∧ f.mask = p.mask) ∧
    (op = .readNc → f.mask = maskOf (p.addr.toNat % 64) p.size) := by
  intro f
  obtain ⟨e, t, hf⟩ := homeFlit_eq s l p op n k
  have hf : f = _ := hf
  rw [hf]
  exact ⟨rfl, rfl, rfl, rfl, rfl, rfl, rfl, rfl, Fin.ofNat_val_eq_self _, fun h => ⟨if_neg h, if_neg h⟩, fun h => if_pos h⟩

theorem route_known (hr : (s.route p.spkg.val).v = true) : ¬(!((s.route p.spkg.val).v)) = true := by rw [hr]; exact Bool.false_ne_true

theorem not_refusing (hf : s.graop.refuse = false) : ¬s.graop.refuse = true := by rw [hf]; exact Bool.false_ne_true

theorem not_refused (hi : s.refusesInbound p = false) (ha : op = .atomicNc → s.homeIo p.addr.toNat = false) :
    ¬(s.refusesInbound p || (op == .atomicNc && s.homeIo p.addr.toNat)) = true := by
  rw [Bool.or_eq_true, Bool.and_eq_true, beq_iff_eq, hi]
  rintro (h | ⟨h1, h2⟩)
  · exact Bool.false_ne_true h
  · rw [ha h1] at h2; exact Bool.false_ne_true h2

/-- The first tag of the home table of a link that is free. -/
def State.freeHomeTag (s : State) (l : Nat) : Option Nat :=
  (List.range 1024).find? fun k => !(s.graop.homes.any fun e => e.link == l && e.tag == k)

theorem freeHomeTag_eq (s : State) (l : Nat) :
    ((List.range 1024).find? fun t => !((s.graop.homes.filter fun e => e.link == l).any fun e => e.tag == t)) = s.freeHomeTag l := by
  unfold State.freeHomeTag
  refine congrArg (fun q => (List.range 1024).find? q) (funext fun t => ?_)
  rw [List.any_filter]

theorem freeHomeTag_none (h : (List.range 1024).all (fun k => s.graop.homes.any fun e => e.link == l && e.tag == k) = true) : s.freeHomeTag l = none := by
  rw [State.freeHomeTag, List.find?_eq_none]
  intro k hk
  rw [List.all_eq_true] at h
  rw [h k hk]
  exact Bool.false_ne_true

theorem atHome_noReverse (h : (s.route p.spkg.val).v = false) : s.atHome l p op = (s.takePkt l p).linkErr l 1 := by
  unfold State.atHome
  exact if_pos (by rw [h]; rfl)

section
variable (hr : (s.route p.spkg.val).v = true)
include hr

theorem atHome_refusing (hf : s.graop.refuse = true) : s.atHome l p op = (s.takePkt l p).refusePkt p 5 := by
  unfold State.atHome
  exact (if_neg (route_known hr)).trans (if_pos hf)

variable (hf : s.graop.refuse = false)
include hf

theorem atHome_refused (h : s.refusesInbound p = true ∨ (op = .atomicNc ∧ s.homeIo p.addr.toNat = true)) :
    s.atHome l p op = (s.takePkt l p).refusePkt p 2 := by
  unfold State.atHome
  refine (if_neg (route_known hr)).trans ((if_neg (not_refusing hf)).trans (if_pos ?_))
  rw [Bool.or_eq_true, Bool.and_eq_true, beq_iff_eq]
  exact h

variable (hi : s.refusesInbound p = false) (ha : op = .atomicNc → s.homeIo p.addr.toNat = false)
include hi ha

theorem atHome_unimplemented (hd : s.dest (s.ownPkg * 2 ^ 47 + p.addr.toNat) 0 (op == .writeNc) = .done 0) :
    s.atHome l p op = ((s.takePkt l p).forward (s.zeroPkt p)).getD s := by
  unfold State.atHome
  refine (if_neg (route_known hr)).trans ((if_neg (not_refusing hf)).trans ((if_neg (not_refused hi ha)).trans ?_))
  rw [hd]
  rfl

theorem atHome_failed {sts : Nat} (hd : s.dest (s.ownPkg * 2 ^ 47 + p.addr.toNat) 0 (op == .writeNc) = .done sts) (hs : sts ≠ 0) :
    s.atHome l p op = (s.takePkt l p).refusePkt p sts := by
  unfold State.atHome
  refine (if_neg (route_known hr)).trans ((if_neg (not_refusing hf)).trans ((if_neg (not_refused hi ha)).trans ?_))
  rw [hd]
  cases sts with
  | zero => exact absurd rfl hs
  | succ n => rfl

theorem atHome_waits {n : Node} {pk lim : Nat} (hd : s.dest (s.ownPkg * 2 ^ 47 + p.addr.toNat) 0 (op == .writeNc) = .node n pk lim)
    (ht : s.freeHomeTag l = none) : s.atHome l p op = s := by
  unfold State.atHome
  refine (if_neg (route_known hr)).trans ((if_neg (not_refusing hf)).trans ((if_neg (not_refused hi ha)).trans ?_))
  rw [hd]
  dsimp only
  rw [freeHomeTag_eq, ht]

theorem atHome_enters {n : Node} {pk lim k : Nat} (hd : s.dest (s.ownPkg * 2 ^ 47 + p.addr.toNat) 0 (op == .writeNc) = .node n pk lim)
    (ht : s.freeHomeTag l = some k) : s.atHome l p op =
      State.send { s.takePkt l p with graop := { (s.takePkt l p).graop with homes := s.graop.homes ++ [homeEntry l p k] } } ((s.takePkt l p).homeFlit l p op n k) := by
  unfold State.atHome
  refine (if_neg (route_known hr)).trans ((if_neg (not_refusing hf)).trans ((if_neg (not_refused hi ha)).trans ?_))
  rw [hd]
  dsimp only
  rw [freeHomeTag_eq, ht]
  rfl

end

/-! ### A response at its requester (R323, R332) -/

/-- The answer to the master that the tag entry names, poisoned with status 4. -/
def remoteAnswer (e : TagEntry) (p : Pkt) : Flit := if p.sts = 4 then { respFlit e p with poison := true } else respFlit e p

theorem homeward_answers {e : TagEntry} (h : s.tagEntry p.glink.val p.gtag.val = some e) :
    s.homeward l p = State.send { s with graop := { s.graop with tags := s.graop.tags.erase e } } (remoteAnswer e p) := by
  unfold State.homeward
  rw [h]
  rfl

theorem homeward_late (h : s.tagEntry p.glink.val p.gtag.val = none) :
    s.homeward l p = s.lateResponse (linkNode l) (p.spkg.val * 2 ^ 47 + p.addr.toNat) := by
  unfold State.homeward
  rw [h]

/-- The answer but for its poison. -/
theorem remoteAnswer_eq (e : TagEntry) (p : Pkt) : ∃ b, remoteAnswer e p = { respFlit e p with poison := b } ∧ (p.sts = 4 → b = true) := by
  unfold remoteAnswer
  split
  · exact ⟨true, rfl, fun _ => rfl⟩
  · next h => exact ⟨(respFlit e p).poison, rfl, fun h4 => absurd h4 h⟩

/-- Whom the answer goes to. -/
theorem respFlit_to (e : TagEntry) (p : Pkt) : let f := respFlit e p
    f.src = linkNode e.link ∧ f.dst = e.node ∧ f.tag = e.tag ∧ f.sts = p.sts := by
  unfold respFlit
  dsimp only
  split <;> exact ⟨rfl, rfl, rfl, rfl⟩

theorem respFlit_read (e : TagEntry) (p : Pkt) (h : p.op = .rdData ∨ p.op = .atomData) : let f := respFlit e p
    f.op = .readReturn ∧ f.data = some p.data ∧ f.mask = p.mask := by
  unfold respFlit
  rcases h with h | h <;> rw [h] <;> exact ⟨rfl, rfl, rfl⟩

theorem respFlit_write (e : TagEntry) (p : Pkt) (h : p.op = .wrAck) : (respFlit e p).op = .writeDone := by
  unfold respFlit
  rw [h]
  rfl

theorem respFlit_error (e : TagEntry) (p : Pkt) (h : p.op = .errResp) : (respFlit e p).op = .errorReply := by
  unfold respFlit
  rw [h]
  rfl

end

end Sys2Proof.Machine
end

section
/-!
SUPPORT. What telling the neighbours, forwarding and answering leave unchanged; routes advertised and withdrawn, links taken out of service
(R319 to R321, R331, R333).
-/
namespace Sys2Proof.Machine

/-! ### Routes and groups that stay -/

/-- Of the fabric anything may differ, else only notices, error records, interrupts and the mesh; a link stays in its group. -/
def State.relays (s t : State) : Prop :=
  t = { s with graop := t.graop, ren := t.ren, err := t.err, irq := t.irq, mesh := t.mesh } ∧ ∀ l, (t.link l).group = (s.link l).group

/-- As `State.relays`, and every route stays. -/
def State.tells (s t : State) : Prop := s.relays t ∧ t.graop.routes = s.graop.routes

theorem relays_refl (s : State) : s.relays s := ⟨rfl, fun _ => rfl⟩

theorem relays_trans {s t u : State} (a : s.relays t) (b : t.relays u) : s.relays u :=
  ⟨by rw [b.1, a.1], fun l => (b.2 l).trans (a.2 l)⟩

theorem tells_refl (s : State) : s.tells s := ⟨relays_refl s, rfl⟩

theorem tells_trans {s t u : State} (a : s.tells t) (b : t.tells u) : s.tells u := ⟨relays_trans a.1 b.1, b.2.trans a.2⟩

theorem foldl_tells {α : Type} {f : State → α → State} (hf : ∀ s a, State.tells s (f s a)) (l : List α) (s : State) : s.tells (l.foldl f s) := by
  induction l generalizing s with
  | nil => exact tells_refl s
  | cons a l ih => exact tells_trans (hf s a) (ih _)

/-- Outside the links, the routes and the groups anything that the relation names may change. -/
theorem tells_of_rest {s t : State} (h : t = { s with graop := t.graop, ren := t.ren, err := t.err, irq := t.irq, mesh := t.mesh })
    (hl : t.graop.links = s.graop.links) (hr : t.graop.routes = s.graop.routes) : s.tells t :=
  ⟨⟨h, fun l => by rw [State.link, State.link, hl]⟩, hr⟩

section
variable (s : State)

theorem link_updLink (l m : Nat) (f : Link → Link) : (s.updLink l f).link m = if m = l then f (s.link l) else s.link m := tabGet_tabSet ..

theorem updLink_tells (l : Nat) {f : Link → Link} (hf : (f (s.link l)).group = (s.link l).group) : s.tells (s.updLink l f) := by
  refine ⟨⟨rfl, fun m => ?_⟩, rfl⟩
  rw [link_updLink]
  split
  · next h => rw [h]; exact hf
  · rfl

theorem enqueue_tells (l : Nat) (p : Pkt) : s.tells (s.enqueue l p) := updLink_tells s l rfl

theorem takePkt_tells (l : Nat) (p : Pkt) : s.tells (s.takePkt l p) := by
  refine updLink_tells s l ?_
  split
  · unfold Link.consume
    split <;> rfl
  · rfl

theorem takeMgt_tells (l : Nat) (op : PktOp) : s.tells (s.takeMgt l op) := by
  unfold State.takeMgt
  split
  · exact takePkt_tells ..
  · exact tells_refl s

theorem wirePulse_tells (n : Nat) : s.tells (s.wirePulse n) := tells_of_rest rfl rfl rfl

theorem notice_tells (code detail : Nat) : s.tells (s.notice code detail) := by
  unfold State.notice
  split
  · exact tells_refl s
  · refine tells_trans ?_ (wirePulse_tells _ 351)
    split <;> exact tells_of_rest rfl rfl rfl

theorem routesChanged_tells (n : Nat) : s.tells (s.routesChanged n) := by
  unfold State.routesChanged
  split
  · exact tells_refl s
  · exact notice_tells ..

theorem tellNeighbours_tells (op : PktOp) (us : List RouteUnit) (skip : Option (Fin 8)) : s.tells (s.tellNeighbours op us skip) := by
  unfold State.tellNeighbours
  split
  · exact tells_refl s
  · refine foldl_tells (fun u g => ?_) _ s
    split
    · exact tells_refl u
    · split
      · exact foldl_tells (fun _ _ => enqueue_tells ..) _ u
      · exact tells_refl u

theorem advertise_tells (skip : Option (Fin 8)) : s.tells (s.advertise skip) := tellNeighbours_tells ..

theorem chooseParent_tells : s.tells s.chooseParent := by
  unfold State.chooseParent
  extract_lets root old par u v st
  have hu : s.tells u := foldl_tells (fun _ _ => updLink_tells _ _ rfl) _ s
  clear_value u old
  have hv : u.tells v := by
    simp only [v]
    split
    · split
      · exact tells_refl u
      · exact notice_tells ..
    · exact tells_refl u
  clear_value root par v st
  exact tells_trans (tells_trans hu hv) (tells_of_rest rfl rfl rfl)

theorem lateResponse_tells (n : Node) (pa : Nat) : s.tells (s.lateResponse n pa) := tells_of_rest (logErr_frame ..) rfl rfl

theorem homeward_tells (l : Nat) (p : Pkt) : s.tells (s.homeward l p) := by
  cases h : s.tagEntry p.glink.val p.gtag.val with
  | some e => rw [homeward_answers h]; exact tells_of_rest rfl rfl rfl
  | none => rw [homeward_late h]; exact lateResponse_tells ..

theorem forward_tells {p : Pkt} {t : State} (h : s.forward p = some t) : s.tells t := by
  unfold State.forward at h
  dsimp only at h
  split at h
  · exact absurd h (by simp)
  · split at h
    · exact absurd h (by simp)
    · cases h
      exact enqueue_tells ..

theorem noRoute_tells (l : Nat) (p : Pkt) : s.tells (s.noRoute l p) := by
  unfold State.noRoute
  split
  · exact tells_refl s
  · split
    · exact homeward_tells ..
    · cases h : s.forward (s.errPkt p 5) with
      | some t => exact forward_tells s h
      | none => exact tells_refl s

theorem setRoute_relays (p : Nat) (r : Route) : s.relays (s.setRoute p r) := ⟨rfl, fun _ => rfl⟩

theorem foldl_relays {α : Type} {f : State → α → State} (hf : ∀ s a, State.relays s (f s a)) (l : List α) (s : State) : s.relays (l.foldl f s) := by
  induction l generalizing s with
  | nil => exact relays_refl s
  | cons a l ih => exact relays_trans (hf s a) (ih _)

/-- Whatever becomes of its routes and its waiting packets, every link stays in its group (R331). -/
theorem reroute_relays (l : Nat) (g : Fin 8) : s.relays (s.reroute l g) := by
  unfold State.reroute
  extract_lets lost other a b s1 q s2
  have ha : s.relays a := foldl_relays (fun _ _ => setRoute_relays ..) lost s
  have hb : a.relays b := (routesChanged_tells a _).1
  clear_value a b
  have h1 : s.relays s1 := by
    simp only [s1]
    split
    · exact relays_refl s
    · refine relays_trans (relays_trans ha hb) ?_
      clear_value other
      split
      · exact (advertise_tells ..).1
      · exact (tellNeighbours_tells ..).1
  clear_value s1
  have h2 : s1.relays s2 := (updLink_tells s1 l rfl).1
  clear_value s2
  refine relays_trans (relays_trans h1 h2) (tells_trans (foldl_tells (fun u p => ?_) q s2) (chooseParent_tells _)).1
  split
  · next h => exact forward_tells u h
  · exact noRoute_tells ..

/-! ### Routes that change (R319, R321) -/

theorem route_setRoute (p q : Nat) (r : Route) : (s.setRoute p r).route q = if q = p then r else s.route q := tabGet_tabSet ..

/-- The routes after a list of IDs has been given one route: those of the list have it, the others stay. -/
theorem route_foldl_setRoute {α : Type} {id : α → Nat} {rt : α → Route} {r : Route} (l : List α) (hr : ∀ a ∈ l, rt a = r) (s : State) (p : Nat) :
    (l.foldl (fun s a => s.setRoute (id a) (rt a)) s).route p = if p ∈ l.map id then r else s.route p := by
  induction l generalizing s with
  | nil => rfl
  | cons a l ih =>
    obtain ⟨ha, hl⟩ := List.forall_mem_cons.mp hr
    rw [List.foldl_cons, ih hl, route_setRoute, ha, List.map_cons]
    by_cases hl : p ∈ l.map id
    · rw [if_pos hl, if_pos (List.mem_cons_of_mem _ hl)]
    · rw [if_neg hl]
      by_cases hp : p = id a
      · rw [if_pos hp, if_pos (List.mem_cons.mpr (.inl hp))]
      · rw [if_neg hp, if_neg fun h => (List.mem_cons.mp h).elim hp hl]

variable {s}

theorem tells_route {t : State} (h : s.tells t) (p : Nat) : t.route p = s.route p := by rw [State.route, State.route, h.2]

theorem relays_link {t : State} (h : s.relays t) (l : Nat) : (t.link l).group = (s.link l).group := h.2 l

theorem relays_plat {t : State} (h : s.relays t) : t.plat = s.plat := by rw [h.1]
theorem relays_pma {t : State} (h : s.relays t) : t.pma = s.pma := by rw [h.1]
theorem relays_mem {t : State} (h : s.relays t) : t.mem = s.mem := by rw [h.1]
theorem relays_coh {t : State} (h : s.relays t) : t.coh = s.coh := by rw [h.1]
theorem relays_hart {t : State} (h : s.relays t) (g : HartId) : t.hart g = s.hart g := by rw [h.1]; cases g <;> rfl

theorem relays_ownPkg {t : State} (h : s.relays t) : t.ownPkg = s.ownPkg := by rw [State.ownPkg, State.ownPkg, relays_pma h]

theorem relays_wayTo {t : State} (h : s.relays t) (p : Nat) : t.wayTo p = s.wayTo p := by
  unfold State.wayTo State.groupOf
  rw [relays_plat h, relays_ownPkg h]

theorem mem_unitIds {u : RouteUnit} {p : Nat} : p ∈ unitIds u ↔ u.first.val ≤ p ∧ p ≤ u.last.val := by
  unfold unitIds
  rw [List.mem_range'_1]
  omega

end

/-! ### The host stub starts, or does not (R317, R520) -/

section
variable (s : State)

theorem maybeStart_cases : s.maybeStart = s ∨ s.maybeStart = s.startStub := by
  unfold State.maybeStart
  split
  · exact .inr rfl
  · exact .inl rfl

theorem maybeStart_route (p : Nat) : s.maybeStart.route p = s.route p := by
  rcases maybeStart_cases s with h | h <;> rw [h]
  rfl

theorem maybeStart_coh : s.maybeStart.coh = s.coh := by
  rcases maybeStart_cases s with h | h <;> rw [h]
  rfl

theorem maybeStart_hart {h : HartId} (hh : h ≠ .t 0) : s.maybeStart.hart h = s.hart h := by
  rcases maybeStart_cases s with e | e <;> rw [e]
  rw [State.startStub, hart_updHart_ne _ hh]
  cases h <;> rfl

end

end Sys2Proof.Machine
end

section
/-!
PROOF. Requests, responses and route packets of other packages (R307 to R332).
-/
namespace Sys2Proof.Machine

/-! ### Route packets (R319, R321, R331) -/

section
variable {s : State} {l : Fin 8} {g : Fin 8}

/-- The IDs, with their hops, whose routes an advertisement of a group changes. -/
def State.newRoutes (s : State) (g : Fin 8) (us : List RouteUnit) : List (Nat × Nat) :=
  (us.flatMap fun u => ((unitIds u).filter fun p => p != s.ownPkg && s.wayTo p == some g && decide (u.hops.val + 1 ≤ 511)).map fun p => (p, u.hops.val + 1)).filter
    fun x => s.route x.1 != { v := true, group := g, hops := x.2 }

/-- Those routes taken over. -/
def State.takeRoutes (s : State) (g : Fin 8) (new : List (Nat × Nat)) : State :=
  new.foldl (fun s a => s.setRoute a.1 { v := true, group := g, hops := a.2 }) s

/-- The IDs whose routes a withdrawal of a group ends. -/
def State.lostRoutes (s : State) (g : Fin 8) (us : List RouteUnit) : List Nat :=
  (us.flatMap unitIds).filter fun p => (s.route p).v && (s.route p).group == g

/-- Those routes ended. -/
def State.dropRoutes (s : State) (ids : List Nat) : State := ids.foldl (fun s p => s.setRoute p Route.none) s

theorem routeAdv_none (us : List RouteUnit) (h : (s.link l.val).group = none) : execRouteAdv l us s = .next (s.takeMgt l.val .routeAdv) := by
  unfold execRouteAdv
  dsimp only
  rw [(takeMgt_tells s l.val .routeAdv).1.2, h]

theorem routeWithdraw_none (us : List RouteUnit) (h : (s.link l.val).group = none) :
    execRouteWithdraw l us s = .next (s.takeMgt l.val .routeWithdraw) := by
  unfold execRouteWithdraw
  dsimp only
  rw [(takeMgt_tells s l.val .routeWithdraw).1.2, h]

theorem routeAdv_some (us : List RouteUnit) (h : (s.link l.val).group = some g) : let u := s.takeMgt l.val .routeAdv
    execRouteAdv l us s = .next (if u.newRoutes g us = [] then u else
      (((u.takeRoutes g (u.newRoutes g us)).routesChanged (u.newRoutes g us).length).advertise (some g)).chooseParent.maybeStart) := by
  intro u
  unfold execRouteAdv
  dsimp only
  rw [(takeMgt_tells s l.val .routeAdv).1.2, h]
  rfl

theorem routeWithdraw_some (us : List RouteUnit) (h : (s.link l.val).group = some g) : let u := s.takeMgt l.val .routeWithdraw
    execRouteWithdraw l us s = .next (if u.lostRoutes g us = [] then u else
      (((u.dropRoutes (u.lostRoutes g us)).routesChanged (u.lostRoutes g us).length).tellNeighbours .routeWithdraw us (some g)).chooseParent) := by
  intro u
  unfold execRouteWithdraw
  dsimp only
  rw [(takeMgt_tells s l.val .routeWithdraw).1.2, h]
  rfl

theorem mem_newRoutes {x : RouteUnit} {p n : Nat} : (p, n) ∈ s.newRoutes g [x] ↔ (x.first.val ≤ p ∧ p ≤ x.last.val) ∧ p ≠ s.ownPkg ∧ s.wayTo p = some g ∧
    x.hops.val + 1 ≤ 511 ∧ n = x.hops.val + 1 ∧ s.route p ≠ { v := true, group := g, hops := n } := by
  unfold State.newRoutes
  simp only [List.flatMap_cons, List.flatMap_nil, List.append_nil, List.mem_filter, List.mem_map, mem_unitIds, Bool.and_eq_true, bne_iff_ne, beq_iff_eq,
    decide_eq_true_eq, Prod.mk.injEq]
  constructor
  · rintro ⟨⟨q, ⟨hq, ⟨ho, hw⟩, hh⟩, rfl, rfl⟩, hr⟩
    exact ⟨hq, ho, hw, hh, rfl, hr⟩
  · rintro ⟨hq, ho, hw, hh, rfl, hr⟩
    exact ⟨⟨p, ⟨hq, ⟨ho, hw⟩, hh⟩, rfl, rfl⟩, hr⟩

theorem mem_lostRoutes {x : RouteUnit} {p : Nat} :
    p ∈ s.lostRoutes g [x] ↔ (x.first.val ≤ p ∧ p ≤ x.last.val) ∧ (s.route p).v = true ∧ (s.route p).group = g := by
  unfold State.lostRoutes
  simp only [List.flatMap_cons, List.flatMap_nil, List.append_nil, List.mem_filter, mem_unitIds, Bool.and_eq_true, beq_iff_eq]

theorem takeRoutes_route {x : RouteUnit} (p : Nat) : (s.takeRoutes g (s.newRoutes g [x])).route p =
    if p ∈ (s.newRoutes g [x]).map Prod.fst then { v := true, group := g, hops := x.hops.val + 1 } else s.route p :=
  route_foldl_setRoute _ (fun a ha => by
    obtain ⟨-, -, -, -, hn, -⟩ := mem_newRoutes.mp (show (a.1, a.2) ∈ _ from ha)
    rw [hn]) s p

theorem dropRoutes_route (ids : List Nat) (p : Nat) : (s.dropRoutes ids).route p = if p ∈ ids then Route.none else s.route p := by
  have h := route_foldl_setRoute (id := id) (rt := fun _ => Route.none) ids (fun _ _ => rfl) s p
  rw [List.map_id] at h
  exact h

/-- The routes that an advertisement of one range leaves (R319, R321). -/
theorem takeRoutes_spec {x : RouteUnit} (hh : x.hops.val + 1 ≤ 511) : let t := s.takeRoutes g (s.newRoutes g [x])
    (∀ p, x.first.val ≤ p → p ≤ x.last.val → p ≠ s.ownPkg → s.wayTo p = some g → t.route p = { v := true, group := g, hops := x.hops.val + 1 }) ∧
    (∀ p, p < x.first.val ∨ x.last.val < p ∨ p = s.ownPkg ∨ s.wayTo p ≠ some g → t.route p = s.route p) := by
  intro t
  refine ⟨fun p h1 h2 ho hw => ?_, fun p h => ?_⟩
  · refine (takeRoutes_route p).trans ?_
    split
    · rfl
    · next hn =>
      by_contra hr
      exact hn (List.mem_map.mpr ⟨(p, x.hops.val + 1), mem_newRoutes.mpr ⟨⟨h1, h2⟩, ho, hw, hh, rfl, hr⟩, rfl⟩)
  · refine (takeRoutes_route p).trans (if_neg fun hm => ?_)
    obtain ⟨⟨q, n⟩, hq, rfl⟩ := List.mem_map.mp hm
    obtain ⟨⟨h1, h2⟩, ho, hw, -⟩ := mem_newRoutes.mp hq
    rcases h with h | h | h | h
    · exact absurd h1 (Nat.not_le.mpr h)
    · exact absurd h2 (Nat.not_le.mpr h)
    · exact ho h
    · exact h hw

/-- An advertisement of one range: the routes, and what it leaves of the rest (R319, R321). -/
theorem routeAdv_spec {x : RouteUnit} (hg : (s.link l.val).group = some g) (hh : x.hops.val + 1 ≤ 511) : ∃ t, execRouteAdv l [x] s = .next t ∧
    (∀ p, x.first.val ≤ p → p ≤ x.last.val → p ≠ s.ownPkg → s.wayTo p = some g → t.route p = { v := true, group := g, hops := x.hops.val + 1 }) ∧
    (∀ p, p < x.first.val ∨ x.last.val < p ∨ p = s.ownPkg ∨ s.wayTo p ≠ some g → t.route p = s.route p) ∧ (∀ h, h ≠ .t 0 → t.hart h = s.hart h) ∧
    t.coh = s.coh := by
  refine ⟨_, routeAdv_some [x] hg, ?_⟩
  have hu := takeMgt_tells s l.val .routeAdv
  generalize s.takeMgt l.val .routeAdv = u at *
  obtain ⟨hin, hout⟩ := takeRoutes_spec (s := u) (g := g) hh
  have hw : u.relays (u.takeRoutes g (u.newRoutes g [x])) := foldl_relays (fun _ _ => setRoute_relays ..) _ u
  have hnil : u.newRoutes g [x] = [] → u.takeRoutes g (u.newRoutes g [x]) = u := fun h => by rw [h]; rfl
  generalize u.newRoutes g [x] = new at *
  generalize u.takeRoutes g new = w at *
  have hv := tells_trans (tells_trans (routesChanged_tells w new.length) (advertise_tells _ (some g))) (chooseParent_tells _)
  generalize (State.advertise _ (some g)).chooseParent = v at *
  have hs := relays_trans hu.1 (relays_trans hw hv.1)
  have ht : ∀ p, (if new = [] then u else v.maybeStart).route p = w.route p := fun p => by
    split
    · next h => rw [hnil h]
    · rw [maybeStart_route, tells_route hv]
  refine ⟨fun p h1 h2 ho hp => ?_, fun p hp => ?_, fun h hh => ?_, ?_⟩
  · exact (ht p).trans (hin p h1 h2 (by rwa [relays_ownPkg hu.1]) (by rwa [relays_wayTo hu.1]))
  · rw [ht, hout p (by rwa [relays_ownPkg hu.1, relays_wayTo hu.1]), tells_route hu]
  · split
    · exact relays_hart hu.1 h
    · rw [maybeStart_hart v hh, relays_hart hs]
  · split
    · exact relays_coh hu.1
    · rw [maybeStart_coh, relays_coh hs]

/-- A withdrawal of one range: the routes, and what it leaves of the rest (R321, R331). -/
theorem routeWithdraw_spec {x : RouteUnit} (hg : (s.link l.val).group = some g) : ∃ t, execRouteWithdraw l [x] s = .next t ∧
    (∀ p, x.first.val ≤ p → p ≤ x.last.val → (s.route p).v = true → (s.route p).group = g → t.route p = Route.none) ∧
    (∀ p, p < x.first.val ∨ x.last.val < p ∨ (s.route p).v = false ∨ (s.route p).group ≠ g → t.route p = s.route p) ∧ t.mem = s.mem ∧ t.coh = s.coh := by
  refine ⟨_, routeWithdraw_some [x] hg, ?_⟩
  have hu := takeMgt_tells s l.val .routeWithdraw
  generalize s.takeMgt l.val .routeWithdraw = u at *
  have hmem : ∀ p, p ∈ u.lostRoutes g [x] ↔ _ := fun p => mem_lostRoutes
  generalize u.lostRoutes g [x] = ids at *
  have hroute : ∀ p, (u.dropRoutes ids).route p = _ := dropRoutes_route ids
  have hw : u.relays (u.dropRoutes ids) := foldl_relays (fun _ _ => setRoute_relays ..) _ u
  have hnil : ids = [] → u.dropRoutes ids = u := fun h => by rw [h]; rfl
  generalize u.dropRoutes ids = w at *
  have hv := tells_trans (tells_trans (routesChanged_tells w ids.length) (tellNeighbours_tells _ .routeWithdraw [x] (some g))) (chooseParent_tells _)
  generalize (State.tellNeighbours _ .routeWithdraw [x] (some g)).chooseParent = v at *
  have hs := relays_trans hu.1 (relays_trans hw hv.1)
  have ht : ∀ p, (if ids = [] then u else v).route p = w.route p := fun p => by
    split
    · next h => rw [hnil h]
    · rw [tells_route hv]
  refine ⟨fun p h1 h2 hp hq => ?_, fun p hp => ?_, ?_, ?_⟩
  · rw [ht, hroute, if_pos]
    rw [hmem, tells_route hu]
    exact ⟨⟨h1, h2⟩, hp, hq⟩
  · rw [ht, hroute, if_neg, tells_route hu]
    rw [hmem, tells_route hu]
    rintro ⟨⟨h1, h2⟩, h3, h4⟩
    rcases hp with h | h | h | h
    · exact absurd h1 (Nat.not_le.mpr h)
    · exact absurd h2 (Nat.not_le.mpr h)
    · exact Bool.false_ne_true (h.symm.trans h3)
    · exact h h4
  · split
    · exact relays_mem hu.1
    · exact relays_mem hs
  · split
    · exact relays_coh hu.1
    · exact relays_coh hs

/-! ### Links taken out of service, and tag entries freed (R332, R333) -/

theorem takeMgt_st (s : State) (l m : Nat) (op : PktOp) : ((s.takeMgt l op).link m).st = (s.link m).st := by
  unfold State.takeMgt
  split
  · rw [State.takePkt, link_updLink]
    split
    · next h =>
      rw [h]
      unfold Link.consume
      split
      · split <;> rfl
      · rfl
    · rfl
  · rfl

/-- A link that leaves its group is in none. -/
theorem leaveGroup_spec (s : State) (l : Nat) : ((s.leaveGroup l).link l).group = none ∧ (s.leaveGroup l).mem = s.mem := by
  unfold State.leaveGroup
  split
  · next h => exact ⟨h, rfl⟩
  · next g h =>
    have hr := reroute_relays (s.updLink l fun k => { k with group := none }) l g
    refine ⟨?_, (relays_mem hr).trans rfl⟩
    rw [relays_link hr, link_updLink, if_pos rfl]

theorem linkNotice_idle (h : (s.link l.val).st ≠ .up) : execLinkNotice l s = .next (s.takeMgt l.val .linkNotice) := by
  unfold execLinkNotice
  exact congrArg _ (if_neg (by rwa [takeMgt_st]))

theorem linkNotice_up (h : (s.link l.val).st = .up) : ∃ t, execLinkNotice l s = .next t ∧ (t.link l.val).st = .off ∧ (t.link l.val).width = 0 ∧
    (t.link l.val).group = none ∧ t.mem = s.mem := by
  unfold execLinkNotice
  refine ⟨_, congrArg Host.Outcome.next (if_pos (by rwa [takeMgt_st])), ?_⟩
  have hmem := relays_mem (takeMgt_tells s l.val .linkNotice).1
  generalize s.takeMgt l.val .linkNotice = u at *
  obtain ⟨hg, hm⟩ := leaveGroup_spec u l.val
  generalize u.leaveGroup l.val = v at *
  rw [link_updLink, if_pos rfl]
  exact ⟨rfl, rfl, hg, hm.trans hmem⟩

theorem tagEntryTimeout_none {k : Fin 4096} (h : s.tagEntry l.val k.val = none) : execTagEntryTimeout l k s = .next s := by
  unfold execTagEntryTimeout
  rw [h]

theorem tagEntryTimeout_some {k : Fin 4096} {e : TagEntry} (h : s.tagEntry l.val k.val = some e) : ∃ t, execTagEntryTimeout l k s = .next t ∧
    t.time = max s.time e.freeAt ∧
    t = { s with graop := { s.graop with tags := s.graop.tags.erase e }, time := t.time, mesh := { s.mesh with cycle := t.mesh.cycle, ahead := t.mesh.ahead } } := by
  obtain ⟨c, a, hu⟩ := passTo_atTime s e.freeAt
  unfold execTagEntryTimeout
  rw [h]
  dsimp only
  rw [hu]
  exact ⟨_, rfl, rfl, rfl⟩

end

/-! ### The statement -/

section
variable {s : State} {l : Fin 8} {q p : Pkt} {c : Instr} {op : PktOp} {m : MsgOp}

theorem exec_request (h : (c, op, m) ∈ ([(.rdNc l q, .rdNc, .readNc), (.wrNc l q, .wrNc, .writeNc), (.atomNc l q, .atomNc, .atomicNc),
    (.blkRd l q, .blkRd, .readNc), (.blkWr l q, .blkWr, .writeNc)] : List (Instr × PktOp × MsgOp))) (s : State) :
    exec c s = .next (s.reqPkt l.val { q with op := op } m) := by
  simp only [List.mem_cons, List.not_mem_nil, or_false, Prod.mk.injEq] at h
  rcases h with ⟨rfl, rfl, rfl⟩ | ⟨rfl, rfl, rfl⟩ | ⟨rfl, rfl, rfl⟩ | ⟨rfl, rfl, rfl⟩ | ⟨rfl, rfl, rfl⟩ <;> rfl

theorem exec_response (h : (c, op) ∈ ([(.rdData l q, .rdData), (.wrAck l q, .wrAck), (.atomData l q, .atomData), (.errResp l q, .errResp)] :
    List (Instr × PktOp))) (s : State) : exec c s = .next (s.respPkt l.val { q with op := op }) := by
  simp only [List.mem_cons, List.not_mem_nil, or_false, Prod.mk.injEq] at h
  rcases h with ⟨rfl, rfl⟩ | ⟨rfl, rfl⟩ | ⟨rfl, rfl⟩ | ⟨rfl, rfl⟩ <;> rfl

/-- The ends of a packet in transit. -/
theorem transit_outcomes (hx : exec c s = .next (s.transit l.val p)) : let u := s.takePkt l.val p
    (511 < p.hop + 1 → exec c s = .next (u.linkErr l.val 1)) ∧
    (p.hop + 1 ≤ 511 → ∀ v, u.forward { p with hop := p.hop + 1 } = some v →
      ∃ t, exec c s = .next t ∧ t = { v with perf := t.perf, mesh := t.mesh, irq := { v.irq with events := t.irq.events } }) ∧
    (p.hop + 1 ≤ 511 → u.forward { p with hop := p.hop + 1 } = none → exec c s = .next (u.noRoute l.val { p with hop := p.hop + 1 })) := by
  intro u
  refine ⟨fun h => hx.trans (congrArg _ (transit_past h)), fun h v hv => ?_, fun h hv => hx.trans (congrArg _ (transit_lost h hv))⟩
  obtain ⟨f, e, m, ht⟩ := transit_forwarded h hv
  exact ⟨_, hx.trans (congrArg _ ht), rfl⟩

/-- The ends of a request at its home, its reverse route known. -/
theorem atHome_outcomes (hx : exec c s = .next (s.atHome l.val p m)) (hr : (s.route p.spkg.val).v = true) : let u := s.takePkt l.val p
    (s.graop.refuse = true → exec c s = .next ((u.forward (u.errPkt p 5)).getD u)) ∧
    (s.graop.refuse = false → s.refusesInbound p = true ∨ (m = .atomicNc ∧ s.homeIo p.addr.toNat = true) → exec c s = .next ((u.forward (u.errPkt p 2)).getD u)) ∧
    (s.graop.refuse = false → s.refusesInbound p = false → (m = .atomicNc → s.homeIo p.addr.toNat = false) →
      (s.dest (s.ownPkg * 2 ^ 47 + p.addr.toNat) 0 (m == .writeNc) = .done 0 → exec c s = .next ((u.forward (u.zeroPkt p)).getD s)) ∧
      (∀ sts, s.dest (s.ownPkg * 2 ^ 47 + p.addr.toNat) 0 (m == .writeNc) = .done sts → sts ≠ 0 → exec c s = .next ((u.forward (u.errPkt p sts)).getD u)) ∧
      ∀ n pk lim, s.dest (s.ownPkg * 2 ^ 47 + p.addr.toNat) 0 (m == .writeNc) = .node n pk lim →
        ((List.range 1024).all (fun k => s.graop.homes.any fun e => e.link == l.val && e.tag == k) = true → exec c s = .next s) ∧
        (∀ k, ((List.range 1024).find? fun k => !(s.graop.homes.any fun e => e.link == l.val && e.tag == k)) = some k → ∃ t f, exec c s = .next t ∧
          t.graop.homes = s.graop.homes ++ [{ spkg := p.spkg.val, glink := p.glink.val, gtag := p.gtag.val, link := l.val, tag := k, op := p.op }] ∧
          t.lastSent (nodeStop (linkNode l.val)) = some f ∧ f.op = m ∧ f.dst = n ∧ f.tag = BitVec.ofNat 10 k ∧ f.addr = BitVec.ofNat 47 p.addr.toNat ∧
          f.poison = p.poison ∧ f.fn = p.fn ∧ f.size = p.size ∧ f.rpkg = p.spkg ∧ (m ≠ .readNc → f.data = some p.data ∧ f.mask = p.mask) ∧
          (m = .readNc → f.mask = maskOf (p.addr.toNat % 64) p.size) ∧
          t = { u with graop := { u.graop with homes := t.graop.homes }, mesh := t.mesh })) := by
  intro u
  refine ⟨fun hf => hx.trans (congrArg _ (atHome_refusing hr hf)), fun hf hi => hx.trans (congrArg _ (atHome_refused hr hf hi)), fun hf hi ha =>
    ⟨fun hd => hx.trans (congrArg _ (atHome_unimplemented hr hf hi ha hd)), fun sts hd hs => hx.trans (congrArg _ (atHome_failed hr hf hi ha hd hs)),
      fun n pk lim hd => ⟨fun hall => hx.trans (congrArg _ (atHome_waits hr hf hi ha hd (freeHomeTag_none hall))), fun k hk => ?_⟩⟩⟩
  obtain ⟨hsrc, hspec⟩ := homeFlit_spec (s.takePkt l.val p) l.val p m n k
  refine ⟨_, (s.takePkt l.val p).homeFlit l.val p m n k, hx.trans (congrArg _ (atHome_enters hr hf hi ha hd hk)), rfl, ?_, ?_⟩
  · rw [← hsrc]
    exact lastSent_send ..
  · obtain ⟨h1, h2, h3, h4, h5, h6, h7, h8, h9, h10⟩ := hspec
    exact ⟨h1, h2, h3, h4, h5, h6, h7, h8, h9, h10, rfl⟩

/-- The ends of a response at its requester. -/
theorem homeward_outcomes (hx : exec c s = .next ((s.takePkt l.val p).homeward l.val p)) : let u := s.takePkt l.val p
    (s.tagEntry p.glink.val p.gtag.val = none → exec c s = .next (u.lateResponse (linkNode l.val) (p.spkg.val * 2 ^ 47 + p.addr.toNat))) ∧
    (∀ e, s.tagEntry p.glink.val p.gtag.val = some e → ∃ t f, exec c s = .next t ∧ t.graop.tags = s.graop.tags.erase e ∧
      t.lastSent (nodeStop (linkNode e.link)) = some f ∧ f.dst = e.node ∧ f.tag = e.tag ∧ f.sts = p.sts ∧ (p.sts = 4 → f.poison = true) ∧
      (p.op = .rdData ∨ p.op = .atomData → f.op = .readReturn ∧ f.data = some p.data ∧ f.mask = p.mask) ∧ (p.op = .wrAck → f.op = .writeDone) ∧
      (p.op = .errResp → f.op = .errorReply) ∧ t = { u with graop := { u.graop with tags := t.graop.tags }, mesh := t.mesh }) := by
  intro u
  refine ⟨fun h => hx.trans (congrArg _ (homeward_late (s := u) h)), fun e h => ?_⟩
  obtain ⟨b, hf, hb⟩ := remoteAnswer_eq e p
  obtain ⟨hsrc, hdst, htag, hsts⟩ := respFlit_to e p
  refine ⟨_, remoteAnswer e p, hx.trans (congrArg _ (homeward_answers (s := u) h)), rfl, ?_, ?_⟩
  · rw [← hsrc, show (respFlit e p).src = (remoteAnswer e p).src by rw [hf]]
    exact lastSent_send ..
  · rw [hf]
    exact ⟨hdst, htag, hsts, hb, respFlit_read e p, respFlit_write e p, respFlit_error e p, rfl⟩

end

/-- Settles O34. The packets follow the ends of `State.transit`, `State.atHome` and `State.homeward`; the route packets change routes alone. -/
theorem packetsCrossTheFabric : Obligations.PacketsCrossTheFabric := by
  unfold Obligations.PacketsCrossTheFabric
  refine ⟨?_, ?_, ?_, ?_, ?_⟩
  · intro s l q turn reqs resps transit
    refine ⟨?_, ?_⟩
    · intro c op m hc p u ht
      have hx := exec_request hc s
      refine ⟨fun hd => transit_outcomes (p := p) (hx.trans (congrArg _ (reqPkt_transit ht hd))), fun hd hr => ?_, fun hd hr => ?_⟩
      · exact (hx.trans (congrArg _ (reqPkt_home ht hd))).trans (congrArg _ (atHome_noReverse hr))
      · exact atHome_outcomes (p := p) (hx.trans (congrArg _ (reqPkt_home ht hd))) hr
    · intro c op hc p u ht
      have hx := exec_response hc s
      have hhome := fun hd => homeward_outcomes (p := p) (hx.trans (congrArg _ (respPkt_home ht hd)))
      refine ⟨fun hd => transit_outcomes (p := p) (hx.trans (congrArg _ (respPkt_transit ht hd))), fun hd => (hhome hd).1, fun e hd => (hhome hd).2 e⟩
  · intro s l us hg
    exact ⟨routeAdv_none us hg, routeWithdraw_none us hg⟩
  · intro s l x g hg
    exact ⟨routeAdv_spec hg, routeWithdraw_spec hg⟩
  · intro s l k
    exact ⟨tagEntryTimeout_none, fun _ => tagEntryTimeout_some⟩
  · intro s l
    exact ⟨linkNotice_idle, linkNotice_up⟩

end Sys2Proof.Machine
end

section
/-!
SUPPORT. What an instruction's updates, events and retiring come to together, and the legality checks that come before them.
-/
namespace Sys2Proof.Machine

section
variable {s u : State} {h : HartId} {c d : Hart}

/-! ### Updates of a hart that counting does not see -/

/-- A free value changes nothing but its own counter. -/
theorem onlyHart_free (s : State) (h : HartId) (n : Nat) : onlyHart s { s with free := n } h :=
  ⟨rfl, fun g _ => by cases g <;> rfl, fun _ _ => rfl⟩

/-- Stall events of an in-order core leave its hart alone. -/
theorem event_becomes (s : State) (h : HartId) (code n : Nat) : hartBecomes s (s.event h code n) h (s.hart h) := event_spec s h code n

theorem onlyHart_ite {c : Prop} [Decidable c] {a b : State} (ha : onlyHart s a h) (hb : onlyHart s b h) : onlyHart s (if c then a else b) h := by
  split
  · exact ha
  · exact hb

theorem hartBecomes_ite {c : Prop} [Decidable c] {a b : State} {d : Hart} (ha : hartBecomes s a h d) (hb : hartBecomes s b h d) :
    hartBecomes s (if c then a else b) h d := by
  split
  · exact ha
  · exact hb

theorem hartBecomes_refl (s : State) (h : HartId) : hartBecomes s s h (s.hart h) := ⟨onlyHart_refl s h, sameHart_refl _⟩

/-- The integer registers of a hart that has become another are the other's. -/
theorem hartBecomes_getX {t : State} {d : Hart} (hb : hartBecomes s t h d) (r : Nat) : (t.hart h).getX r = d.getX r := by
  obtain ⟨-, he, -⟩ := hb
  rw [he]
  rfl

theorem getX_past (c : Hart) (len r : Nat) : (c.past len).getX r = c.getX r := rfl

theorem hartBecomes_updHart (hu : hartBecomes s u h c) (f : Hart → Hart) (hf : sameHart (f (u.hart h)) d) : hartBecomes s (u.updHart h f) h d :=
  ⟨onlyHart_trans hu.1 (onlyHart_setHart _ _ _), by rw [hartIs_iff, hart_updHart_same]; exact hf⟩

theorem hartBecomes_event (hu : hartBecomes s u h c) (code n : Nat) : hartBecomes s (u.event h code n) h c :=
  ⟨onlyHart_trans hu.1 (event_spec u h code n).1, sameHart_trans (event_spec u h code n).2 hu.2⟩

theorem hartBecomes_eventT (hu : hartBecomes s u h c) (code : Nat) : hartBecomes s (u.eventT h code) h c := by
  unfold State.eventT
  split
  · exact hartBecomes_event hu _ _
  · exact hu

theorem hartBecomes_retire (hu : hartBecomes s u h c) (len n : Nat) : hartBecomes s (u.retire h len n) h (c.past len) :=
  ⟨onlyHart_trans hu.1 (retire_spec u h len n).1, sameHart_trans (retire_spec u h len n).2 (sameHart_past len hu.2)⟩

theorem sameHart_busyAll (rs : List Nat) (lat : Nat) : ∀ c : Hart, sameHart (c.busyAll rs lat) c := by
  induction rs with
  | nil => exact fun c => sameHart_refl c
  | cons r rs ih => exact fun c => sameHart_trans (ih (c.busy r lat)) (sameHart_busy c r lat)

/-! ### Legality -/

theorem legally_illegal {a : CsrAccess} (f : State → State) (ha : a = .illegal) : s.legally h a f = s.trap h (excep 2 0) := by
  rw [ha]
  rfl

theorem legally_ok {a : CsrAccess} (f : State → State) (ha : a = .ok) : s.legally h a f = f s := by
  rw [ha]
  rfl

theorem also_ok {a b : CsrAccess} (ha : a = .ok) (hb : b = .ok) : a.also b = .ok := by
  rw [ha, hb]
  rfl

/-! ### Harts set and trapped -/

theorem hartBecomes_setHart (s : State) (h : HartId) (d : Hart) : hartBecomes s (s.setHart h d) h d :=
  ⟨onlyHart_setHart s h d, by rw [hartIs_iff, hart_setHart_same]; exact sameHart_refl d⟩

theorem trap_becomes (hu : onlyHart s u h) (hc : u.hart h = c) {i : Trap} (hi : i.cause ≠ debugCause) :
    hartBecomes s (u.trap h i) h (c.trapped (isT h) i) := by
  obtain ⟨ho, hd⟩ := trap_spec u h i hi
  rw [hc] at hd
  exact ⟨onlyHart_trans hu ho, hd⟩

theorem hartBecomes_mem (hu : hartBecomes s u h c) : u.mem = s.mem := by
  rw [hu.1.1]

/-! ### Stores that enter the buffer (R92, R114) -/

/-- A hart whose store buffer has gained entries. -/
def Hart.buffered (c : Hart) (es : List SbEntry) : Hart := { c with sb := c.sb ++ es }

/-- Stores for which there is room take their entries, and each is checked against the loads that went ahead of it. -/
theorem enterStores_room (es : List SbEntry) (done : State → State) (hr : (s.hart h).sb.length + es.length ≤ sbMax h ∨ (s.hart h).sb = []) :
    s.enterStores h es done = done (es.foldl (fun s e => s.orderCheck h e) (s.setHart h ((s.hart h).buffered es))) := by
  unfold State.enterStores
  refine if_neg fun ⟨hlt, hne⟩ => ?_
  rcases hr with hr | hr
  · exact absurd hlt (Nat.not_lt.mpr hr)
  · exact hne hr

theorem orderCheck_none {e : SbEntry} (hv : (s.hart h).violates e = none) : s.orderCheck h e = s := by
  unfold State.orderCheck
  rw [hv]

theorem foldl_orderCheck_none {es : List SbEntry} (hv : ∀ e ∈ es, (s.hart h).violates e = none) : es.foldl (fun s e => s.orderCheck h e) s = s := by
  induction es with
  | nil => rfl
  | cons e es ih =>
    rw [List.foldl_cons, orderCheck_none (hv e (List.mem_cons_self ..))]
    exact ih fun x hx => hv x (List.mem_cons_of_mem _ hx)

/-- Stores that no load went ahead of take their entries, and nothing else changes. -/
theorem enterStores_unviolated {es : List SbEntry} (done : State → State) (hr : (s.hart h).sb.length + es.length ≤ sbMax h ∨ (s.hart h).sb = [])
    (hv : ∀ e ∈ es, (s.hart h).violates e = none) : s.enterStores h es done = done (s.setHart h ((s.hart h).buffered es)) := by
  rw [enterStores_room es done hr, foldl_orderCheck_none]
  rw [hart_setHart_same]
  exact hv

end

end Sys2Proof.Machine
end

section
/-!
PROOFS. Scalar instructions that access no memory: integer and floating-point results, and instructions that a core type lacks (R41, R42, R81, R119).
-/
namespace Sys2Proof.Machine

variable {s : State} {h : HartId}

/-! ### Integer instructions -/

theorem integerInstruction_becomes (op : IntOp) (rd rs1 : Fin 32) (src : Src) (c : Bool) (hi : s.issues h (ilen c) = true)
    (ho : (isT h || !(tOnly op)) = true) : ∃ t, exec (.integerInstruction h op rd rs1 src c) s = .next t ∧
      hartBecomes s t h (((s.hart h).setX rd.val (intValue op ((s.hart h).getX rs1.val) ((s.hart h).src src) (s.hart h).pc)).past (ilen c)) := by
  have hlegal : (!(isT h) && tOnly op) = false := by
    cases ht : isT h <;> simp_all
  refine ⟨_, congrArg Host.Outcome.next ((onHart_of_issues s h _ _ hi).trans (if_neg (by simp [hlegal]))), ?_⟩
  have hev := hartBecomes_ite (c := (isT h || decide ((if isT h then 0 else (s.hart h).stall (rd.val :: rs1.val :: srcRegs src)) = 0)) = true)
    (hartBecomes_refl s h) (event_becomes s h 0x03 (if isT h then 0 else (s.hart h).stall (rd.val :: rs1.val :: srcRegs src)))
  exact update_then_retire hev.1 _ _ _ _ (sameHart_trans (sameHart_busy _ _ _) (sameHart_setX hev.2 _ _))

/-- Settles O1. -/
theorem integerInstructionsComplete : Obligations.IntegerInstructionsComplete := by
  unfold Obligations.IntegerInstructionsComplete
  intro s h op rd rs1 src c hi ho
  obtain ⟨t, ht, hb⟩ := integerInstruction_becomes op rd rs1 src c hi ho
  refine ⟨t, ht, fun r => ?_, hb⟩
  rw [hartBecomes_getX hb, getX_past, getX_setX]
  simp only [Fin.ext_iff]

/-! ### Floating-point instructions -/

/-- A latency that the spec leaves open uses up a free value. -/
theorem latIn_only (s : State) (h : HartId) (r : Nat × Nat) : onlyHart s (s.latIn r).2 h ∧ (s.latIn r).2.hart h = s.hart h := by
  unfold State.latIn
  split
  · exact ⟨onlyHart_refl s h, rfl⟩
  · exact ⟨onlyHart_free s h _, by cases h <;> rfl⟩

theorem fpInstruction_becomes {op : FpOp} {rd rs1 rs2 rs3 : Fin 32} {rm : Fin 8} {r : Nat} (hi : s.issues h = true) (hl : (s.hart h).fpLegal (isT h) = .ok)
    (hr : (if rounds op = true then (s.hart h).roundMode rm.val else some 0) = some r) :
    ∃ t, exec (.fpInstruction h op rd rs1 rs2 rs3 rm) s = .next t ∧ hartBecomes s t h
        ((match fpValue op r ((s.hart h).getF rs1.val) ((s.hart h).getF rs2.val) ((s.hart h).getF rs3.val) ((s.hart h).getX rs1.val) with
          | .f m bits fl => (((s.hart h).setF rd.val (boxF m bits)).dirtyFs).accrue fl
          | .x v fl => ((s.hart h).setX rd.val v).accrue fl).past 4) := by
  refine ⟨_, congrArg Host.Outcome.next (onHart_of_issues s h 4 _ hi), ?_⟩
  dsimp only
  rw [hl]
  dsimp only [State.legally]
  rw [hr]
  obtain ⟨ho, hh⟩ := latIn_only s h (fpLat op rs1 rs2)
  dsimp only
  cases fpValue op r ((s.hart h).getF rs1.val) ((s.hart h).getF rs2.val) ((s.hart h).getF rs3.val) ((s.hart h).getX rs1.val) with
  | f m bits fl => exact update_then_retire ho _ _ _ _ (by rw [hh]; exact sameHart_busy _ _ _)
  | x v fl => exact update_then_retire ho _ _ _ _ (by rw [hh]; exact sameHart_busy _ _ _)

/-- Settles O2. -/
theorem fpInstructionsComplete : Obligations.FpInstructionsComplete := by
  unfold Obligations.FpInstructionsComplete
  intro s h op rd rs1 rs2 rs3 rm r hi hl hr
  exact fpInstruction_becomes hi hl hr

/-! ### Instructions that the S-core lacks -/

theorem fpLegal_score (c : Hart) : c.fpLegal false = .illegal := rfl
theorem vecLegal_score (c : Hart) : c.vecLegal false = .illegal := rfl

theorem vectorArith_exec {op : VArith} {vd vs2 : Fin 32} {src : VSrc} {masked : Bool} (hi : s.issues h = true) :
    exec (.vectorInstruction h (.arith op vd vs2 src masked)) s = .next (s.vecArith h op vd.val vs2.val src masked) :=
  congrArg Host.Outcome.next (onHart_of_issues s h 4 _ hi)

/-- Settles O3: the legality checks fail on an S-core whatever its registers hold. -/
theorem missingInstructionsTrap : Obligations.MissingInstructionsTrap := by
  unfold Obligations.MissingInstructionsTrap
  intro s n hi
  refine ⟨fun op rd rs1 src c ht hc => ?_, fun op rd rs1 rs2 rs3 rm => ?_, fun op vd vs2 src masked => ?_⟩
  · exact congrArg Host.Outcome.next ((onHart_of_issues s (.s n) _ _ hc).trans (if_pos ht))
  · exact congrArg Host.Outcome.next ((onHart_of_issues s (.s n) _ _ hi).trans (legally_illegal _ (fpLegal_score _)))
  · rw [vectorArith_exec hi]
    unfold State.vecArith
    exact congrArg Host.Outcome.next (legally_illegal _ (by rw [show isT (.s n) = false from rfl, vecLegal_score]; rfl))

end Sys2Proof.Machine
end

section
/-!
PROOFS. The prediction bar, the prediction flush and the memory-dependence predictor (R47, R51 to R53, R90), and entry into Mould mode (R62, R63, R128, R132).
-/
namespace Sys2Proof.Machine

/-! ### Fields of a word -/

theorem getLsbD_mask {w : Nat} (n lo i : Nat) : (BitVec.ofNat w ((2 ^ n - 1) <<< lo)).getLsbD i = (decide (i < w) && decide (lo ≤ i ∧ i < lo + n)) := by
  rw [BitVec.getLsbD_ofNat, Nat.testBit_shiftLeft, Nat.testBit_two_pow_sub_one]
  by_cases h : lo ≤ i
  · have : (i - lo < n) = (i < lo + n) := by simp; omega
    simp [h, this]
  · simp [h]

theorem getLsbD_putFld {w : Nat} (v : BitVec w) (hi lo x : Nat) {i : Nat} (hw : i < w) :
    (putFld v hi lo x).getLsbD i = if lo ≤ i ∧ i < lo + (hi - lo + 1) then x.testBit (i - lo) else v.getLsbD i := by
  unfold putFld
  rw [BitVec.getLsbD_or, BitVec.getLsbD_and, BitVec.getLsbD_and, BitVec.getLsbD_not, getLsbD_mask, BitVec.getLsbD_ofNat, Nat.testBit_shiftLeft]
  split
  · next h => simp [hw, h]
  · next h => simp [hw, h]

/-- The bits of a field. -/
theorem testBit_fld {w : Nat} (v : BitVec w) (hi lo i : Nat) : (fld v hi lo).testBit i = (decide (i < hi - lo + 1) && v.getLsbD (lo + i)) := by
  rw [fld, Nat.testBit_mod_two_pow, Nat.testBit_shiftRight]
  rfl

theorem fld_putFld_same {w : Nat} (v : BitVec w) {hi lo x : Nat} (hl : lo ≤ hi) (hw : hi < w) (hx : x < 2 ^ (hi - lo + 1)) : fld (putFld v hi lo x) hi lo = x := by
  apply Nat.eq_of_testBit_eq
  intro i
  rw [testBit_fld]
  by_cases h : i < hi - lo + 1
  · rw [getLsbD_putFld v hi lo x (by omega), if_pos (by omega), Nat.add_sub_cancel_left]
    simp [h]
  · rw [Nat.testBit_lt_two_pow (lt_of_lt_of_le hx (Nat.pow_le_pow_right (by decide) (by omega)))]
    simp [h]

/-! ### What counting leaves of a hart -/

theorem sameHart_dropEarly {c d : Hart} (hs : sameHart c d) : sameHart c.dropEarly d.dropEarly := by
  obtain ⟨he, hr⟩ := hs
  exact ⟨by rw [he]; rfl, hr⟩

theorem sameHart_mode {c d : Hart} (hs : sameHart c d) : c.mode = d.mode := by
  rw [hs.1]

theorem sameHart_pred {c d : Hart} (hs : sameHart c d) : c.pred = d.pred := by
  rw [hs.1]

theorem sameHart_setPred {c d : Hart} (hs : sameHart c d) (p : Pred) : sameHart { c with pred := p } { d with pred := p } := by
  obtain ⟨he, hr⟩ := hs
  exact ⟨by rw [he], hr⟩

/-- The CSR of the prediction bar is none that counting changes. -/
theorem sameHart_xpredctl {c d : Hart} (hs : sameHart c d) : c.csrRaw 0x5C0 = d.csrRaw 0x5C0 := hs.2 0x5C0 (by decide)

/-! ### The bar (R52) -/

/-- A hart whose bar XPRED.BAR 1 has set. -/
def Hart.barSet (c : Hart) : Hart := c.dropEarly.csrPut 0x5C0 (putFld (c.csrRaw 0x5C0 ||| 1) 5 4
  (if (c.csrRaw 0x5C0).getLsbD 0 = true then max (fld (c.csrRaw 0x5C0) 5 4) (modeRank c.mode) else modeRank c.mode))

/-- A hart on which XPRED.BAR 0 has executed. -/
def Hart.barCleared (c : Hart) : Hart :=
  if (c.csrRaw 0x5C0).getLsbD 0 = true ∧ fld (c.csrRaw 0x5C0) 5 4 ≤ modeRank c.mode
  then c.dropEarly.csrPut 0x5C0 (putFld (c.csrRaw 0x5C0 &&& ~~~1) 5 4 0) else c.dropEarly

theorem sameHart_barSet {c d : Hart} (hs : sameHart c d) : sameHart c.barSet d.barSet := by
  unfold Hart.barSet
  rw [sameHart_xpredctl hs, sameHart_mode hs]
  exact sameHart_put (sameHart_dropEarly hs) _ _

theorem sameHart_barCleared {c d : Hart} (hs : sameHart c d) : sameHart c.barCleared d.barCleared := by
  unfold Hart.barCleared
  rw [sameHart_xpredctl hs, sameHart_mode hs]
  split
  · exact sameHart_put (sameHart_dropEarly hs) _ _
  · exact sameHart_dropEarly hs

section
variable {s : State} {h : HartId}

theorem xpredBar1_becomes (hi : s.issues h = true) (ht : isT h = true) :
    ∃ t, exec (.xpredBar1 h) s = .next t ∧ hartBecomes s t h ((s.hart h).barSet.past 4) := by
  have hx := onHart_of_issues s h 4 (fun s => if !(isT h) then s.retire h 4 1 else (s.retire h 4 14).updHart h Hart.barSet) hi
  rw [if_neg (by simp [ht])] at hx
  exact ⟨_, congrArg Host.Outcome.next hx, retire_then_update _ _ _ _ (sameHart_barSet (retire_spec s h 4 14).2)⟩

theorem barCleared_past (c : Hart) (len : Nat) : c.barCleared.past len = (c.past len).barCleared := by
  unfold Hart.barCleared
  exact apply_ite (Hart.past · len) ..

theorem barCleared_eq (c : Hart) : c.barCleared = if ((c.dropEarly.csrRaw 0x5C0).getLsbD 0 && decide (fld (c.dropEarly.csrRaw 0x5C0) 5 4 ≤ modeRank c.dropEarly.mode)) = true
    then c.dropEarly.csrPut 0x5C0 (putFld (c.dropEarly.csrRaw 0x5C0 &&& ~~~1) 5 4 0) else c.dropEarly := by
  unfold Hart.barCleared
  simp only [Bool.and_eq_true, decide_eq_true_eq]
  rfl

theorem xpredBar0_becomes (hi : s.issues h = true) (ht : isT h = true) :
    ∃ t, exec (.xpredBar0 h) s = .next t ∧ hartBecomes s t h ((s.hart h).barCleared.past 4) := by
  have hx := onHart_of_issues s h 4 (fun s => if !(isT h) then s.retire h 4 1 else (s.retire h 4 14).updHart h Hart.barCleared) hi
  rw [if_neg (by simp [ht])] at hx
  rw [funext barCleared_eq] at hx
  refine ⟨_, congrArg Host.Outcome.next hx, retire_then_update _ _ _ _ ?_⟩
  rw [← barCleared_eq, barCleared_past]
  exact sameHart_barCleared (retire_spec s h 4 14).2

theorem xpredFlush_becomes (hi : s.issues h = true) (ht : isT h = true) : ∃ t, exec (.xpredFlush h) s = .next t ∧
    hartBecomes s t h { ((s.hart h).dropEarly).past 4 with pred := { Pred.empty with mdp := (s.hart h).pred.mdp } } := by
  refine ⟨_, congrArg Host.Outcome.next ((onHart_of_issues s h 4 _ hi).trans (if_pos ht)), retire_then_update _ _ _ _ ?_⟩
  have hr : sameHart ((s.retire h 4 14).hart h) ((s.hart h).past 4) := (retire_spec s h 4 14).2
  have hd := sameHart_setPred (sameHart_dropEarly hr) { Pred.empty with mdp := (s.hart h).pred.mdp }
  have hp : ((s.retire h 4 14).hart h).pred = (s.hart h).pred := (sameHart_pred hr).trans rfl
  rw [← hp] at hd ⊢
  exact hd

/-- On the S-core the three instructions move the pc alone (R51). -/
theorem xpred_score {n : Fin 48} {i : Instr} (hi : s.issues (.s n) = true) (hm : i ∈ [Instr.xpredBar1 (.s n), .xpredBar0 (.s n), .xpredFlush (.s n)]) :
    exec i s = .next (s.retire (.s n) 4 1) := by
  simp only [List.mem_cons, List.not_mem_nil, or_false] at hm
  rcases hm with rfl | rfl | rfl <;> exact congrArg Host.Outcome.next (onHart_of_issues s (.s n) 4 _ hi)

/-- Settles O5. -/
theorem predictionInstructionsComplete : Obligations.PredictionInstructionsComplete := by
  unfold Obligations.PredictionInstructionsComplete
  refine ⟨fun s h => xpredBar1_becomes, fun s h hi ht => ?_, fun s h => xpredFlush_becomes, fun s n i hi hm => ?_, fun s n => rfl⟩
  · exact xpredBar0_becomes hi ht
  · exact ⟨_, xpred_score hi hm, retire_spec s (.s n) 4 1⟩

theorem hartBecomes_xpredctl {t : State} {d : Hart} (hb : hartBecomes s t h d) : (t.hart h).csrRaw 0x5C0 = d.csrRaw 0x5C0 :=
  sameHart_xpredctl hb.2

theorem modeRank_lt (md : Mode) : modeRank md < 4 := by
  cases md <;> decide

theorem barSet_bits (c : Hart) : let v := c.csrRaw 0x5C0; let w := (c.barSet.past 4).csrRaw 0x5C0
    w.getLsbD 0 = true ∧ (v.getLsbD 0 = false → fld w 5 4 = modeRank c.mode) ∧ (v.getLsbD 0 = true → fld w 5 4 = max (fld v 5 4) (modeRank c.mode)) := by
  intro v w
  have hw : w = putFld (v ||| 1) 5 4 (if v.getLsbD 0 = true then max (fld v 5 4) (modeRank c.mode) else modeRank c.mode) := csrRaw_csrPut_same ..
  have hm := modeRank_lt c.mode
  have hv : fld v 5 4 < 4 := Nat.mod_lt _ (by decide)
  rw [hw]
  refine ⟨?_, fun h0 => ?_, fun h1 => ?_⟩
  · rw [getLsbD_putFld _ _ _ _ (by decide), if_neg (by decide)]
    simp
  · rw [if_neg (by rw [h0]; exact Bool.false_ne_true)]
    exact fld_putFld_same _ (by decide) (by decide) hm
  · rw [if_pos h1]
    exact fld_putFld_same _ (by decide) (by decide) (max_lt hv hm)

theorem barCleared_bits (c : Hart) : let v := c.csrRaw 0x5C0; let w := (c.barCleared.past 4).csrRaw 0x5C0
    (v.getLsbD 0 = true → fld v 5 4 ≤ modeRank c.mode → w.getLsbD 0 = false ∧ fld w 5 4 = 0) ∧ (modeRank c.mode < fld v 5 4 → w = v) := by
  intro v w
  refine ⟨fun h1 hr => ?_, fun hr => ?_⟩
  · have hw : w = putFld (v &&& ~~~1) 5 4 0 := (congrArg (fun d : Hart => (d.past 4).csrRaw 0x5C0) (if_pos ⟨h1, hr⟩)).trans (csrRaw_csrPut_same ..)
    rw [hw]
    refine ⟨?_, fld_putFld_same _ (by decide) (by decide) (by decide)⟩
    rw [getLsbD_putFld _ _ _ _ (by decide), if_neg (by decide)]
    simp
  · have hc : c.barCleared = c.dropEarly := if_neg fun h => absurd h.2 (Nat.not_le.mpr hr)
    exact (congrArg (fun d : Hart => (d.past 4).csrRaw 0x5C0) hc).trans rfl

end

/-- Settles O9. -/
theorem predictionBarRank : Obligations.PredictionBarRank := by
  unfold Obligations.PredictionBarRank
  refine ⟨rfl, rfl, rfl, rfl, rfl, fun s n hi => ?_⟩
  obtain ⟨t, ht, hb⟩ := xpredBar1_becomes hi rfl
  obtain ⟨u, hu, hc⟩ := xpredBar0_becomes hi rfl
  refine ⟨⟨t, ht, ?_⟩, ⟨u, hu, ?_⟩⟩
  · rw [hartBecomes_xpredctl hb]
    exact barSet_bits (s.hart (.t n))
  · rw [hartBecomes_xpredctl hc]
    exact barCleared_bits (s.hart (.t n))

/-! ### Entry into Mould mode (R62, R63, R128, R132) -/

section
variable {s : State} {n : Fin 48}

/-- A hart of an S-core that has entered Mould mode. -/
def Hart.moulded (c : Hart) : Hart :=
  { (c.emptyL1.csrPut 0x7C0 ((c.csrRaw 0x7C0 &&& ~~~4) ||| 2)) with resv := none, clock := c.clock + 4 }

/-- An S-core that may end its clean asks for the lines still dirty, and else enters Mould mode or just ends the clean. -/
theorem mouldEntry_eq (hc : (s.hart (.s n)).cleaning = true) (hu : (s.hart (.s n)).uload = []) (hb : (s.hart (.s n)).begun = false) :
    exec (.mouldEntry (.s n)) s = .next (if s.shareDirty (.s n) ≠ [] then s.cleanShare (.s n)
      else if !(((s.hart (.s n)).csrRaw 0x7C0 &&& ~~~4).getLsbD 0) then s.setHart (.s n) ((s.hart (.s n)).csrPut 0x7C0 ((s.hart (.s n)).csrRaw 0x7C0 &&& ~~~4))
      else s.setHart (.s n) (s.hart (.s n)).moulded) :=
  congrArg Host.Outcome.next (if_neg (by simp [hc, hu, hb, isT]))

/-- Ending the clean leaves MODE as it is. -/
theorem mode_without_cleaning (x : Word) : (x &&& ~~~4).getLsbD 0 = x.getLsbD 0 := by
  simp

/-- A hart in Mould mode has ACTIVE set and CLEANING clear. -/
theorem moulded_spec (c : Hart) : c.moulded.mould = true ∧ c.moulded.cleaning = false ∧ ∀ m, m ≠ 0x7C0 → c.moulded.csrRaw m = c.csrRaw m := by
  have hx : c.moulded.csrRaw 0x7C0 = (c.csrRaw 0x7C0 &&& ~~~4) ||| 2 := csrRaw_csrPut_same ..
  refine ⟨?_, ?_, fun m hm => csrRaw_csrPut_ne _ _ _ _ hm⟩
  · show (c.moulded.csrRaw 0x7C0).getLsbD 1 = true
    rw [hx]
    simp
  · show (c.moulded.csrRaw 0x7C0).getLsbD 2 = false
    rw [hx]
    simp

end

/-- Settles O11. -/
theorem mouldEntry : Obligations.MouldEntry := by
  unfold Obligations.MouldEntry
  intro s n h c x hc hu hb
  have he := mouldEntry_eq hc hu hb
  rw [mode_without_cleaning] at he
  refine ⟨fun hd => ?_, fun hd h0 => ?_, fun hd h1 => ⟨c.moulded, ?_, ?_⟩⟩
  · rw [he, if_pos hd]
  · rw [he, if_neg (not_not.mpr hd), if_pos (by simpa using h0)]
  · rw [he, if_neg (not_not.mpr hd), if_neg (by simpa using h1)]
  · obtain ⟨hm, hcl, hr⟩ := moulded_spec c
    exact ⟨hm, hcl, rfl, rfl, rfl, rfl, hr, rfl⟩

end Sys2Proof.Machine
end

section
/-!
PROOFS. A VS-level interrupt that hvictl names with IID 63 has number 64, the mark of a trigger with action 1 (`debugCause`): taking it halts the hart instead of
entering the trap. The two statements that give the trap for every interrupt due fail by it (R101, R102).
-/
namespace Sys2Proof.Machine

/-! ### Taking an interrupt that is due -/

section
variable {s : State} {h : HartId} {i : Trap}

theorem interruptTake_takes (hm : s.mayEnter h = true) (hd : s.irqDue h = some i) : exec (.interruptTake h) s = .next ((s.leaveWait h).trap h i) := by
  refine congrArg Host.Outcome.next ((if_pos hm).trans ?_)
  rw [hd]

/-- An interrupt that is due comes before a write that serializes (R102). -/
theorem csrWrite_interrupted {csr : BitVec 12} {src : Src} (hi : s.issues h = true) (ha : csrAccess h (s.hart h) csr.toNat true = .ok)
    (hn : nonSerial h csr.toNat = false) (hd : s.irqDue h = some i) : exec (.csrWrite h .rw csr 0 src true) s = .next (s.trap h i) := by
  refine congrArg Host.Outcome.next ((onHart_of_issues s h 4 _ hi).trans ?_)
  dsimp only
  rw [Bool.true_or, ha]
  dsimp only [State.legally]
  rw [hn, if_pos rfl, hd]
  rfl

theorem trap_debug (hi : i.cause = debugCause) : (s.trap h i).hart h = (s.hart h).enterDebug 2 := by
  unfold State.trap
  rw [if_pos hi]
  exact hart_updHart_same s h _

theorem hartBecomes_halted {t : State} {d : Hart} (hb : hartBecomes s t h d) : (t.hart h).halted = d.halted := by
  obtain ⟨-, he, -⟩ := hb
  rw [he]

/-- Taking a trap that has the mark of a trigger does not make of the hart one that does not halt. -/
theorem trap_debug_not_becomes {u : State} {d : Hart} (hi : i.cause = debugCause) (hd : d.halted = false) : ¬ hartBecomes s (u.trap h i) h d := by
  intro hb
  have hh := hartBecomes_halted hb
  rw [trap_debug hi, hd] at hh
  exact absurd hh (Bool.eq_false_iff.mp rfl).symm

end

/-! ### A guest whose hypervisor names interrupt 63 (hvictl.VTI = 1, hvictl.IID = 63) -/

/-- A T-core hart in VS-mode with vsstatus.SIE set, in the shared SRAM, with all of memory open to it. -/
def guestHart : Hart := { Hart.resetT with
  held := false, pc := 0x400_0000, mode := .vs, csr := [(0x200, 2), (0x3A0, 0x1F), (0x3B0, 0x3F_FFFF_FFFF_FFFF), (0x609, 0x403F_0000)] }
def guestState : State := { State.reset with phase := .run, tcores := [(0, guestHart)] }

theorem guest_topIrq : guestState.topIrq (.t 0) = some (.vs, 64) := by decide
theorem guest_irqDue : guestState.irqDue (.t 0) = some (intrTrap .vs 64) := by decide
theorem guest_mayEnter : guestState.mayEnter (.t 0) = true := by decide
theorem guest_issues : guestState.issues (.t 0) = true := by decide

/-- Refutes O6: INTERRUPT_TAKE on the guest halts the hart, where the statement has it enter the trap of interrupt 64. -/
theorem not_trapsTaken : ¬ Obligations.TrapsTaken := by
  unfold Obligations.TrapsTaken
  rintro ⟨-, -, -, hinterrupt, -⟩
  obtain ⟨t, ht, hb⟩ := hinterrupt guestState (.t 0) .vs 64 guest_mayEnter (by decide) guest_topIrq
  rw [interruptTake_takes guest_mayEnter guest_irqDue] at ht
  obtain rfl := Host.Outcome.next.inj ht
  exact trap_debug_not_becomes rfl (by decide) hb

/-- Refutes O10: the interrupt that comes before a serializing write of the guest's sscratch halts the hart. -/
theorem not_csrInstructionsComplete : ¬ Obligations.CsrInstructionsComplete := by
  unfold Obligations.CsrInstructionsComplete
  rintro ⟨hcsr, -, -⟩
  have ha : csrAccess (.t 0) (guestState.hart (.t 0)) (0x140 : BitVec 12).toNat true = .ok := by decide
  obtain ⟨t, ht, hb⟩ := (hcsr guestState (.t 0) .rw 0x140 0 (.imm 0) true guest_issues ha).1 _ (by decide) guest_irqDue
  rw [csrWrite_interrupted guest_issues ha (by decide) guest_irqDue] at ht
  obtain rfl := Host.Outcome.next.inj ht
  exact trap_debug_not_becomes rfl (by decide) hb

end Sys2Proof.Machine
end

section
/-!
PROOFS. Vector configuration, arithmetic, loads and stores (R41, R67, R81, R83, R85 to R87).
-/
namespace Sys2Proof.Machine

section
variable {s u : State} {h : HartId} {c d : Hart}

/-! ### Configuration -/

/-- The hart after a configuration instruction that asks for `vt` and an AVL. -/
def Hart.configured (c : Hart) (rd : Fin 32) (vt : Word) (avl : Option Nat) : Hart := (c.setVtype vt avl).setX rd.val ((c.setVtype vt avl).csrRaw 0xC20)

theorem config_becomes (rd : Fin 32) (vt : Word) (avl : Option Nat) (cost : Nat) :
    hartBecomes s ((s.updHart h fun c => c.configured rd vt avl).retire h 4 cost) h (((s.hart h).configured rd vt avl).past 4) :=
  update_then_retire (onlyHart_refl s h) _ _ _ _ (sameHart_refl _)

theorem vectorConfig_exec {i : VCfg} (hi : s.issues h = true) (hl : (s.hart h).vecLegal (isT h) = .ok) : exec (.vectorConfig h i) s = .next (match i with
    | .vsetvli rd rs1 v => (s.updHart h fun c => c.configured rd (v.setWidth 64) ((s.hart h).avlOf rd rs1 (v.setWidth 64))).retire h 4 1
    | .vsetivli rd n v => (s.updHart h fun c => c.configured rd (v.setWidth 64) (some n.toNat)).retire h 4 1
    | .vsetvl rd rs1 rs2 => (s.updHart h fun c => c.configured rd ((s.hart h).getX rs2.val) ((s.hart h).avlOf rd rs1 ((s.hart h).getX rs2.val))).retire h 4 14) := by
  refine congrArg Host.Outcome.next ((onHart_of_issues s h 4 _ hi).trans ((legally_ok _ hl).trans ?_))
  cases i <;> rfl

/-! ### Arithmetic -/

/-- Whether an instruction works on floating-point operands. -/
def vUsesFp (op : VArith) (src : VSrc) : Bool := vIsFp op || (match src with | .f _ => true | _ => false)

theorem vectorArith_becomes {op : VArith} {vd vs2 : Fin 32} {src : VSrc} {masked : Bool} {rm : Nat} (hi : s.issues h = true)
    (hv : (s.hart h).vecLegal (isT h) = .ok) (hf : vUsesFp op src = true → (s.hart h).fpLegal (isT h) = .ok)
    (hr : (if vUsesFp op src = true then (s.hart h).roundMode 7 else some 0) = some rm) (ha : (s.hart h).vArithOk op vd.val vs2.val src masked = true) :
    ∃ t, exec (.vectorInstruction h (.arith op vd vs2 src masked)) s = .next t ∧
      hartBecomes s t h (((s.hart h).vArith op vd.val vs2.val src masked rm).past 4) := by
  have hl : ((s.hart h).vecLegal (isT h)).also (if vUsesFp op src then (s.hart h).fpLegal (isT h) else .ok) = .ok := by
    refine also_ok hv ?_
    split
    · next hfp => exact hf hfp
    · rfl
  rw [vectorArith_exec hi]
  unfold State.vecArith
  refine ⟨_, congrArg Host.Outcome.next (legally_ok _ hl), ?_⟩
  dsimp only
  split
  · next hn => cases hr.symm.trans hn
  · next rm' hr' =>
    obtain rfl : rm = rm' := Option.some.inj (hr.symm.trans hr')
    rw [ha]
    exact hartBecomes_retire (hartBecomes_event (hartBecomes_updHart (hartBecomes_refl s h) _ (sameHart_busyAll ..)) _ _) _ _

/-! ### Loads and stores -/

theorem vectorMem_eq {store : Bool} {ad : VAddr} {eew : AccSize} {nf : Fin 9} {vd rs1 : Fin 32} {masked : Bool} {v : VShape}
    (hv : (s.hart h).vecLegal (isT h) = .ok) (hs : (s.hart h).vShape ad (accBytes eew) nf.val vd.val masked store = some v) :
    s.vecMem h store ad eew nf.val vd.val rs1 masked =
      if store then s.vstore h (s.hart h) ad v vd.val ((s.hart h).getX rs1.val) ((s.hart h).vActive masked ((s.hart h).csrRaw 0x008).toNat v.evl)
      else s.vloadLoop h (s.hart h) ad v vd.val ((s.hart h).getX rs1.val) (vGroups ad v ((s.hart h).vActive masked ((s.hart h).csrRaw 0x008).toNat v.evl)) := by
  unfold State.vecMem
  dsimp only
  rw [legally_ok _ hv, hs]

theorem vGroups_nil (ad : VAddr) (v : VShape) : vGroups ad v [] = [] := by
  unfold vGroups
  split <;> rfl

theorem vmemDone_becomes (hu : onlyHart s u h) (hc : u.hart h = c) (ad : VAddr) (v : VShape) (code : Nat) :
    hartBecomes s (u.vmemDone h ad v code) h ((c.atElem 0).past 4) := by
  rw [← hc]
  exact hartBecomes_retire (hartBecomes_event (hartBecomes_event (hartBecomes_updHart ⟨hu, sameHart_refl _⟩ _ (sameHart_refl _)) _ _) _ _) _ _

theorem vectorLoad_exec {ad : VAddr} {eew : AccSize} {nf : Fin 9} {vd rs1 : Fin 32} {masked : Bool} {v : VShape} (hi : s.issues h = true)
    (hv : (s.hart h).vecLegal (isT h) = .ok) (hs : (s.hart h).vShape ad (accBytes eew) nf.val vd.val masked false = some v) :
    exec (.vectorInstruction h (.load ad eew nf vd rs1 masked)) s = .next (s.vloadLoop h (s.hart h) ad v vd.val ((s.hart h).getX rs1.val)
      (vGroups ad v ((s.hart h).vActive masked ((s.hart h).csrRaw 0x008).toNat v.evl))) :=
  congrArg Host.Outcome.next ((onHart_of_issues s h 4 _ hi).trans (vectorMem_eq hv hs))

theorem vectorStore_exec {ad : VAddr} {eew : AccSize} {nf : Fin 9} {vd rs1 : Fin 32} {masked : Bool} {v : VShape} (hi : s.issues h = true)
    (hv : (s.hart h).vecLegal (isT h) = .ok) (hs : (s.hart h).vShape ad (accBytes eew) nf.val vd.val masked true = some v) :
    exec (.vectorInstruction h (.store ad eew nf vd rs1 masked)) s = .next (s.vstore h (s.hart h) ad v vd.val ((s.hart h).getX rs1.val)
      ((s.hart h).vActive masked ((s.hart h).csrRaw 0x008).toNat v.evl)) :=
  congrArg Host.Outcome.next ((onHart_of_issues s h 4 _ hi).trans (vectorMem_eq hv hs))

section
variable {ad : VAddr} {v : VShape} {vd : Nat} {base : Word} {ks : List Nat} {l : List (Nat × List Part)}

/-- A store whose active elements pass their checks enters its entries and ends. -/
theorem vstore_completes (hp : s.vprep h .store (s.hart h) ad v base ks = (l, none))
    (hr : (s.hart h).sb.length + (vEntries (s.hart h) ad v vd (s.hart h).seq l).length ≤ sbMax h)
    (hv : ∀ x ∈ vEntries (s.hart h) ad v vd (s.hart h).seq l, (s.hart h).violates x = none) :
    hartBecomes s (s.vstore h (s.hart h) ad v vd base ks) h ((((s.hart h).buffered (vEntries (s.hart h) ad v vd (s.hart h).seq l)).atElem 0).past 4) := by
  unfold State.vstore
  rw [hp]
  dsimp only
  rw [enterStores_unviolated _ (.inl hr) hv]
  exact vmemDone_becomes (onlyHart_setHart ..) (hart_setHart_same ..) ad v 0x07

/-- A store with an element that traps enters the entries of those below it, and traps with vstart at that element (R86). -/
theorem vstore_traps {k : Nat} {tr : Trap} (hp : s.vprep h .store (s.hart h) ad v base ks = (l, some (k, .trap tr)))
    (hr : (s.hart h).sb.length + (vEntries (s.hart h) ad v vd (s.hart h).seq l).length ≤ sbMax h)
    (hv : ∀ x ∈ vEntries (s.hart h) ad v vd (s.hart h).seq l, (s.hart h).violates x = none) (ht : tr.cause ≠ debugCause) :
    hartBecomes s (s.vstore h (s.hart h) ad v vd base ks) h
      ((((s.hart h).buffered (vEntries (s.hart h) ad v vd (s.hart h).seq l)).atElem k).trapped (isT h) tr) := by
  unfold State.vstore
  rw [hp]
  dsimp only
  rw [enterStores_unviolated _ (.inl hr) hv]
  refine trap_becomes (onlyHart_trans (onlyHart_setHart ..) (onlyHart_setHart ..)) ?_ ht
  rw [hart_setHart_same, hart_setHart_same]

end

end

/-- Settles O12: configuration and arithmetic are one update of the hart that then retires; loads and stores run their micro-ops or entries. -/
theorem vectorInstructionsComplete : Obligations.VectorInstructionsComplete := by
  unfold Obligations.VectorInstructionsComplete
  refine ⟨fun s h rd rs1 v hi hl => ⟨_, vectorConfig_exec hi hl, config_becomes ..⟩, fun s h rd n v hi hl => ⟨_, vectorConfig_exec hi hl, config_becomes ..⟩,
    fun s h rd rs1 rs2 hi hl => ⟨_, vectorConfig_exec hi hl, config_becomes ..⟩, fun s h op vd vs2 src masked rm hi hv hf hr ha =>
    vectorArith_becomes hi hv hf hr ha, fun s h ad eew nf vd rs1 masked v hi hl => ⟨fun hs => ⟨vectorLoad_exec hi hl hs, fun hk => ⟨_, vectorLoad_exec hi hl hs, ?_⟩⟩, ?_⟩⟩
  · rw [hk, vGroups_nil]
    exact vmemDone_becomes (onlyHart_refl s h) rfl ad v 0x06
  · intro l e hs hp es hr hv
    refine ⟨?_, ?_⟩
    · rintro rfl
      exact ⟨_, vectorStore_exec hi hl hs, vstore_completes hp hr hv⟩
    · rintro k tr rfl ht
      exact ⟨_, vectorStore_exec hi hl hs, vstore_traps hp hr hv ht⟩

end Sys2Proof.Machine
end

section
/-!
PROOFS. Loads and stores in program order and ahead of it, and pair accesses (R48 to R50, R81, R88 to R93, R107, R114).
-/
namespace Sys2Proof.Machine

section
variable {s u : State} {h : HartId} {ps : List Part} {va : Word}

/-! ### Accesses whose bytes pass every check -/

theorem withParts_parts {virt : Virt} {acc : Acc} {size al : Nat} (enc : Nat) (f : State → List Part → State)
    (ht : s.addrTrig h (if acc == .store then 1 else 0) va = none) (hp : s.prep h virt acc va size al = .parts ps) :
    s.withParts h virt acc va size al enc f = f s ps := by
  unfold State.withParts
  rw [ht, hp]

theorem access_legal {b : Bool} {virt : Virt} (hf : b = true → (s.hart h).fpLegal (isT h) = .ok) (hv : (s.hart h).hlvLegal (isT h) virt = .ok) :
    (if b then (s.hart h).fpLegal (isT h) else .ok).also ((s.hart h).hlvLegal (isT h) virt) = .ok := by
  refine also_ok ?_ hv
  split
  · next hb => exact hf hb
  · rfl

/-! ### Loads (R89, R93, R107) -/

theorem loadParts_uncached {dest : UDest} {len : Nat} (hu : (ps.any fun p => p.tgt.region.uncached) = true) :
    s.loadParts h va dest len ps = s.startRead h dest len ps := if_pos hu

/-- Whether a load delivers a pair of registers. -/
def UDest.isPair : UDest → Bool | .pair _ => true | _ => false

/-- A load that reads its value at once delivers it and retires. -/
theorem loadParts_value {dest : UDest} {len v : Nat} (hu : (ps.any fun p => p.tgt.region.uncached) = false)
    (hr : (s.trainLoad h (s.hart h).pc ps).readParts h dest.isPair ps = .value v u) :
    hartBecomes u (s.loadParts h va dest len ps) h (((u.hart h).deliverV v dest).past len) := by
  unfold State.loadParts
  rw [if_neg (by rw [hu]; exact Bool.false_ne_true)]
  dsimp only
  split
  · next he => cases hr.symm.trans he
  · next he => cases hr.symm.trans he
  · next he => cases hr.symm.trans he
  · next w t he =>
    obtain ⟨rfl, rfl⟩ := ReadRes.value.inj (hr.symm.trans he)
    exact hartBecomes_retire (hartBecomes_eventT (hartBecomes_updHart (hartBecomes_refl u h) _ (sameHart_busyAll ..)) _) _ _

theorem load_exec {k : LdKind} {virt : Virt} {rd rs1 : Fin 32} {imm : BitVec 12} {c : Bool} (hi : s.issues h (ilen c) = true)
    (hf : ldFp k = true → (s.hart h).fpLegal (isT h) = .ok) (hv : (s.hart h).hlvLegal (isT h) virt = .ok)
    (ht : s.addrTrig h 0 ((s.hart h).getX rs1.val + imm.signExtend 64) = none)
    (hp : s.prep h virt .load ((s.hart h).getX rs1.val + imm.signExtend 64) (ldBytes k) (ldBytes k) = .parts ps) :
    exec (.load h k virt rd rs1 imm none c) s = .next (s.loadParts h ((s.hart h).getX rs1.val + imm.signExtend 64) (ldDest k rd.val) (ilen c) ps) :=
  congrArg Host.Outcome.next ((onHart_of_issues s h _ _ hi).trans ((legally_ok _ (access_legal hf hv)).trans (withParts_parts _ _ ht hp)))

theorem ldDest_isPair (k : LdKind) (rd : Nat) : (ldDest k rd).isPair = false := by
  cases k <;> rfl

theorem xpld_exec {rd rs1 : Fin 32} {imm : BitVec 12} (hi : s.issues h = true) (he : rd.val % 2 = 0) (h0 : rd ≠ 0)
    (ht : s.addrTrig h 0 ((s.hart h).getX rs1.val + imm.signExtend 64) = none)
    (hp : s.prep h .no .load ((s.hart h).getX rs1.val + imm.signExtend 64) 16 8 = .parts ps) :
    exec (.xpld h rd rs1 imm) s = .next (if ps.any fun p => p.tgt.region.uncached then s.startRead h (.pair rd.val) 4 (halves ps)
      else s.loadParts h ((s.hart h).getX rs1.val + imm.signExtend 64) (.pair rd.val) 4 ps) :=
  congrArg Host.Outcome.next ((onHart_of_issues s h _ _ hi).trans ((if_neg (by simp [he, h0])).trans (withParts_parts _ _ ht hp)))

theorem loadAhead_score (a : Ahead) (ht : isT h = false) : s.loadAhead h a = s := if_pos (by simp [ht])

/-- Settles O13. -/
theorem loadsComplete : Obligations.LoadsComplete := by
  unfold Obligations.LoadsComplete
  refine ⟨?_, ?_, fun s h k virt rd rs1 imm a c => ⟨rfl, loadAhead_score a⟩⟩
  · intro s u h k virt rd rs1 imm c ps v hi hf hv va ht hp
    refine ⟨fun hu => ?_, fun hu hr => ⟨_, load_exec hi hf hv ht hp, loadParts_value hu ?_⟩⟩
    · exact (load_exec hi hf hv ht hp).trans (congrArg _ (loadParts_uncached hu))
    · rw [ldDest_isPair]
      exact hr
  · intro s u h rd rs1 imm ps v hi he h0 va ht hp
    refine ⟨fun hu => ?_, fun hu hr => ⟨_, (xpld_exec hi he h0 ht hp).trans (congrArg _ (if_neg ?_)), loadParts_value hu hr⟩⟩
    · exact (xpld_exec hi he h0 ht hp).trans (congrArg _ (if_pos hu))
    · rw [hu]
      exact Bool.false_ne_true

/-! ### Stores (R88, R90, R92) -/

/-- A hart whose store has found a load that went ahead of it: that load and every younger instruction are squashed, and the predictor takes the pair (R90). -/
def Hart.violated (d c : Hart) (e : SbEntry) (x : EarlyLoad) : Hart :=
  { d.squashEarly (fun y => e.overlaps y.pa y.size) with pred := { c.pred with mdp := ((x.pc, c.pc) :: c.pred.mdp).take 2048 } }

theorem orderCheck_violated {e : SbEntry} {x : EarlyLoad} (hv : (s.hart h).violates e = some x) :
    hartBecomes s (s.orderCheck h e) h ((s.hart h).violated (s.hart h) e x) := by
  unfold State.orderCheck
  rw [hv]
  exact hartBecomes_event (hartBecomes_updHart (hartBecomes_refl s h) _ (sameHart_refl _)) _ _

/-- What a store that takes one entry leaves: by the check of R90. -/
theorem storeParts_unviolated {v len : Nat} {zero : Bool} (hr : (s.hart h).sb.length < sbMax h ∨ (s.hart h).sb = [])
    (hv : (s.hart h).violates (sbOf ps v (s.hart h).seq zero) = none) :
    hartBecomes s (s.storeParts h v len zero ps) h (((s.hart h).buffered [sbOf ps v (s.hart h).seq zero]).past len) := by
  unfold State.storeParts
  rw [enterStores_unviolated _ (by exact hr) (by simpa using hv)]
  exact hartBecomes_retire (hartBecomes_eventT (hartBecomes_setHart ..) _) _ _

theorem storeParts_violated {v len : Nat} {zero : Bool} {x : EarlyLoad} (hr : (s.hart h).sb.length < sbMax h ∨ (s.hart h).sb = [])
    (hv : (s.hart h).violates (sbOf ps v (s.hart h).seq zero) = some x) :
    hartBecomes s (s.storeParts h v len zero ps) h
      ((((s.hart h).buffered [sbOf ps v (s.hart h).seq zero]).violated (s.hart h) (sbOf ps v (s.hart h).seq zero) x).past len) := by
  unfold State.storeParts
  rw [enterStores_room _ _ (by exact hr)]
  have hs := hart_setHart_same s h ((s.hart h).buffered [sbOf ps v (s.hart h).seq zero])
  have ho := orderCheck_violated (s := s.setHart h ((s.hart h).buffered [sbOf ps v (s.hart h).seq zero])) (h := h) (e := sbOf ps v (s.hart h).seq zero) (x := x)
    (by rw [hs]; exact hv)
  rw [hs] at ho
  exact hartBecomes_retire (hartBecomes_eventT ⟨onlyHart_trans (onlyHart_setHart ..) ho.1, ho.2⟩ _) _ _

theorem store_exec {k : StKind} {virt : Virt} {rs2 rs1 : Fin 32} {imm : BitVec 12} {c : Bool} (hi : s.issues h (ilen c) = true)
    (hf : stFp k = true → (s.hart h).fpLegal (isT h) = .ok) (hv : (s.hart h).hlvLegal (isT h) virt = .ok)
    (ht : s.addrTrig h 1 ((s.hart h).getX rs1.val + imm.signExtend 64) = none)
    (hp : s.prep h virt .store ((s.hart h).getX rs1.val + imm.signExtend 64) (stBytes k) (stBytes k) = .parts ps) :
    exec (.store h k virt rs2 rs1 imm (.now c)) s = .next (s.storeParts h
      (if stFp k = true then ((s.hart h).getF rs2.val).toNat else ((s.hart h).getX rs2.val).toNat) (ilen c) false ps) :=
  congrArg Host.Outcome.next ((onHart_of_issues s h _ _ hi).trans ((legally_ok _ (access_legal hf hv)).trans (withParts_parts _ _ ht hp)))

theorem xpst_exec {rs2 rs1 : Fin 32} {imm : BitVec 12} (hi : s.issues h = true) (he : rs2.val % 2 = 0)
    (ht : s.addrTrig h 1 ((s.hart h).getX rs1.val + imm.signExtend 64) = none)
    (hp : s.prep h .no .store ((s.hart h).getX rs1.val + imm.signExtend 64) 16 8 = .parts ps) :
    exec (.xpst h rs2 rs1 imm) s = .next (s.storeParts h ((s.hart h).pairX rs2.val 16) 4 false
      (if (ps.any fun p => p.tgt.region.uncached) = true then halves ps else ps)) :=
  congrArg Host.Outcome.next ((onHart_of_issues s h _ _ hi).trans ((if_neg (by simp [he])).trans (withParts_parts _ _ ht hp)))

theorem storeAhead_score (a : Ahead) (ht : isT h = false) : s.storeAhead h a = s := if_pos (by simp [ht])

/-- What a store of one entry comes to, with and without a load that went ahead of it. -/
theorem store_enters {i : Instr} {v len : Nat} (hx : exec i s = .next (s.storeParts h v len false ps)) (hr : (s.hart h).sb.length < sbMax h) :
    let e := sbOf ps v (s.hart h).seq false
    ((s.hart h).violates e = none → ∃ t, exec i s = .next t ∧ t.mem = s.mem ∧ hartBecomes s t h (((s.hart h).buffered [e]).past len)) ∧
    ∀ x, (s.hart h).violates e = some x → ∃ t, exec i s = .next t ∧ t.mem = s.mem ∧
      hartBecomes s t h ((((s.hart h).buffered [e]).violated (s.hart h) e x).past len) := by
  intro e
  refine ⟨fun hv => ?_, fun x hv => ?_⟩
  · have hb := storeParts_unviolated (len := len) (.inl hr) hv
    exact ⟨_, hx, hartBecomes_mem hb, hb⟩
  · have hb := storeParts_violated (len := len) (.inl hr) hv
    exact ⟨_, hx, hartBecomes_mem hb, hb⟩

/-- Settles O15. -/
theorem storesComplete : Obligations.StoresComplete := by
  unfold Obligations.StoresComplete
  refine ⟨?_, ?_, fun s h k virt rs2 rs1 imm a => ⟨rfl, storeAhead_score a⟩⟩
  · intro s h k virt rs2 rs1 imm c ps hi hf hv va v ht hp hr
    exact store_enters (store_exec hi hf hv ht hp) hr
  · intro s h rs2 rs1 imm ps hi he va qs ht hp hr
    exact store_enters (xpst_exec hi he ht hp) hr

end

end Sys2Proof.Machine
end

section
/-!
PROOFS. Fences: what retires at once, what is noted as a place for younger writes, and what holds up issue (R56, R96, R111, R134, R149 to R152).
-/
namespace Sys2Proof.Machine

section
variable {s u : State} {h : HartId} {w : FenceWait} {c : Hart}

/-! ### The three ends of a fence -/

theorem fenceOr_ready (hr : (u.hart h).fenceReady w = true) : u.fenceOr h w = (u.setHart h ((u.hart h).fencePassed w)).retire h 4 w.cost := if_pos hr

/-- A fence that orders no read and no cacheable store notes its place (R149, R151). -/
theorem fenceOr_noted (hr : (u.hart h).fenceReady w = false) (ht : isT h = true) (hc : w.cached = false) : u.fenceOr h w =
    (u.setHart h { (u.hart h).fencePassed { w with writes := false } with wfences := (u.hart h).wfences ++ [(u.hart h).seq] }).retire h 4 w.cost :=
  (if_neg (by rw [hr]; exact Bool.false_ne_true)).trans (if_pos (by simp [ht, hc]))

theorem fenceOr_waits (hr : (u.hart h).fenceReady w = false) (hw : isT h = false ∨ w.cached = true) :
    ∃ k, u.fenceOr h w = u.setHart h { u.hart h with fence := some { w with cost := k } } :=
  ⟨_, (if_neg (by rw [hr]; exact Bool.false_ne_true)).trans (if_neg (by rcases hw with hw | hw <;> simp [hw]))⟩

theorem fencePassed_readless (c : Hart) (hw : w.reads = false) : c.fencePassed w = c := if_pos (by rw [hw]; rfl)

/-- Every end of a fence whose hart is `c`, as the statement puts it. -/
theorem fenceOr_outcomes {i : Instr} {n : Nat} (hx : exec i s = .next (u.fenceOr h { w with cost := n })) (hu : onlyHart s u h) (hc : u.hart h = c) (hw : w.cached = false → w.reads = false) :
    (c.fenceReady w = true → ∃ t, exec i s = .next t ∧ hartBecomes s t h ((c.fencePassed w).past 4)) ∧
    (c.fenceReady w = false → isT h = true → w.cached = false →
      ∃ t, exec i s = .next t ∧ hartBecomes s t h ({ c with wfences := c.wfences ++ [c.seq] }.past 4)) ∧
    (c.fenceReady w = false → isT h = false ∨ w.cached = true →
      ∃ t k, exec i s = .next t ∧ onlyHart s t h ∧ (t.hart h).fence = some { w with cost := k } ∧ hartIs t h { c with fence := (t.hart h).fence }) := by
  subst hc
  refine ⟨fun hr => ⟨_, hx, ?_⟩, fun hr ht hcw => ⟨_, hx, ?_⟩, fun hr hcw => ?_⟩
  · rw [fenceOr_ready (w := { w with cost := n }) hr]
    have hb := hartBecomes_setHart u h ((u.hart h).fencePassed w)
    exact hartBecomes_retire ⟨onlyHart_trans hu hb.1, hb.2⟩ _ _
  · rw [fenceOr_noted (w := { w with cost := n }) hr ht hcw, fencePassed_readless (w := { w with cost := n, writes := false }) _ (hw hcw)]
    have hb := hartBecomes_setHart u h { u.hart h with wfences := (u.hart h).wfences ++ [(u.hart h).seq] }
    exact hartBecomes_retire ⟨onlyHart_trans hu hb.1, hb.2⟩ _ _
  · obtain ⟨k, hk⟩ := fenceOr_waits (w := { w with cost := n }) hr hcw
    rw [hk] at hx
    have hb := hartBecomes_setHart u h { u.hart h with fence := some { w with cost := k } }
    refine ⟨_, k, hx, onlyHart_trans hu hb.1, ?_, ?_⟩
    · rw [hart_setHart_same]
    · rw [hart_setHart_same]
      exact hb.2

/-! ### The three fences -/

theorem fence_exec {pred succ : FSet} (hi : s.issues h = true) : ∃ k, exec (.fence h pred succ) s = .next (s.fenceOr h
    { writes := pred.o || pred.w, cached := pred.i || pred.r || (succ.i || succ.r), posted := false, reads := succ.i || succ.r, cost := k }) :=
  ⟨_, congrArg Host.Outcome.next (onHart_of_issues s h 4 _ hi)⟩

theorem xfenceP_exec (hi : s.issues h = true) : ∃ k, exec (.xfenceP h) s = .next (s.fenceOr h
    { writes := true, cached := true, posted := true, reads := true, cost := k }) :=
  ⟨_, congrArg Host.Outcome.next (onHart_of_issues s h 4 _ hi)⟩

/-- A hart before FENCE.TSO, which on a T-core squashes the loads whose line has left the L1 since. -/
def Hart.beforeTso (c : Hart) (t : Bool) : Hart := if t = true then c.squashEarly (·.lost) else c

theorem fenceTso_exec (hi : s.issues h = true) : ∃ u k, exec (.fenceTso h) s = .next (u.fenceOr h
    { writes := true, cached := false, posted := false, reads := false, cost := k }) ∧ onlyHart s u h ∧ u.hart h = (s.hart h).beforeTso (isT h) := by
  refine ⟨_, _, congrArg Host.Outcome.next (onHart_of_issues s h 4 _ hi), ?_, ?_⟩
  · exact onlyHart_ite (onlyHart_setHart ..) (onlyHart_refl s h)
  · unfold Hart.beforeTso
    split
    · exact hart_updHart_same ..
    · rfl

/-! ### The end of a wait, and FENCE.I -/

theorem fenceWaitEnd_becomes (hf : (s.hart h).fence = some w) (hr : (s.hart h).fenceReady w = true) (hp : s.phase = .run) (h1 : (s.hart h).stopped = false)
    (h2 : (s.hart h).halted = false) (h3 : (s.hart h).held = false) (h4 : (s.hart h).fatal = false) :
    ∃ t, exec (.fenceWaitEnd h) s = .next t ∧ hartBecomes s t h ({ (s.hart h).fencePassed w with fence := none }.past 4) := by
  have hx : exec (.fenceWaitEnd h) s = .next ((s.setHart h { (s.hart h).fencePassed w with fence := none }).retire h 4 w.cost) := by
    show execFenceWaitEnd h s = _
    unfold execFenceWaitEnd
    dsimp only
    rw [hf]
    exact congrArg Host.Outcome.next (if_pos (by simp [hr, hp, h1, h2, h3, h4]))
  exact ⟨_, hx, hartBecomes_retire (hartBecomes_setHart ..) _ _⟩

theorem fenceI_becomes (hi : s.issues h = true) (hb : (s.hart h).sb = []) :
    ∃ t, exec (.fenceI h) s = .next t ∧ hartBecomes s t h ((s.hart h).dropEarly.past 4) :=
  ⟨_, congrArg Host.Outcome.next ((onHart_of_issues s h 4 _ hi).trans (if_neg (not_not.mpr hb))),
    hartBecomes_retire (hartBecomes_updHart (hartBecomes_refl s h) _ (sameHart_refl _)) _ _⟩

end

/-- Settles O20: each fence runs `State.fenceOr`, whose ends are those of the statement. -/
theorem fencesComplete : Obligations.FencesComplete := by
  unfold Obligations.FencesComplete
  refine ⟨?_, fun s h w => fenceWaitEnd_becomes, fun s h => fenceI_becomes⟩
  rintro s h i w c hi (⟨pred, succ, rfl, rfl, hw⟩ | ⟨rfl, hc, hw⟩ | ⟨rfl, rfl, hw⟩)
  · obtain ⟨k, hx⟩ := fence_exec (pred := pred) (succ := succ) hi
    rw [hw]
    refine fenceOr_outcomes hx (onlyHart_refl s h) rfl fun hc => ?_
    exact (Bool.or_eq_false_iff.mp hc).2
  · obtain ⟨u, k, hx, hu, hh⟩ := fenceTso_exec hi
    rw [hw]
    exact fenceOr_outcomes hx hu (hh.trans hc.symm) fun _ => rfl
  · obtain ⟨k, hx⟩ := xfenceP_exec hi
    rw [hw]
    exact fenceOr_outcomes hx (onlyHart_refl s h) rfl fun hc => Bool.noConfusion hc

end Sys2Proof.Machine
end

section
/-!
PROOFS. Cache-block operations, way and drain operations, and prefetch hints (R54, R55, R183, R186 to R188).
-/
namespace Sys2Proof.Machine

section
variable {s : State} {h : HartId} {rs1 : Fin 32} {op : MsgOp} {p : Part}

/-! ### CBO.CLEAN, CBO.FLUSH and CBO.INVAL (R187) -/

/-- An instruction with nothing to do retires. -/
theorem retire_becomes (s : State) (h : HartId) (len n : Nat) : hartBecomes s (s.retire h len n) h ((s.hart h).past len) :=
  hartBecomes_retire (hartBecomes_refl s h) len n

theorem cboLine_uncached (hs : (s.hart h).sb = []) (ht : s.addrTrig h 1 ((s.hart h).getX rs1.val) = none)
    (hp : s.prep h .no .load ((s.hart h).getX rs1.val &&& ~~~63) 64 1 = .parts [p]) (hr : p.tgt.region ≠ .cached) :
    s.cboLine h rs1 op = s.retire h 4 1 := by
  unfold State.cboLine
  rw [if_neg (not_not.mpr hs)]
  dsimp only
  rw [ht, hp]
  exact if_pos hr

theorem cboLine_cached (hs : (s.hart h).sb = []) (ht : s.addrTrig h 1 ((s.hart h).getX rs1.val) = none)
    (hp : s.prep h .no .load ((s.hart h).getX rs1.val &&& ~~~63) 64 1 = .parts [p]) (hr : p.tgt.region = .cached)
    (hc : s.canClean h (lineOf (paLa p.pa)) op = true) :
    s.cboLine h rs1 op = (s.sendClean h (lineOf (paLa p.pa)) op).updHart h fun c => c.waitLine (lineOf (paLa p.pa)) 4 1024 none := by
  unfold State.cboLine
  rw [if_neg (not_not.mpr hs)]
  dsimp only
  rw [ht, hp]
  exact (if_neg (not_not.mpr hr)).trans (if_pos hc)

theorem cbo_ok {o : CboOk} (f : Bool → State → State) (hok : o = .ok) : s.cbo h o f = f false s := by
  rw [hok]
  rfl

theorem cbo_flush {o : CboOk} (f : Bool → State → State) (hok : o = .flush) : s.cbo h o f = f true s := by
  rw [hok]
  rfl

/-- What each operation is, where envcfg permits it. -/
theorem cboLine_exec {i : Instr} (hi : s.issues h = true)
    (hx : (i = .cboClean h rs1 ∧ (s.hart h).cboBit (isT h) 6 = .ok ∧ op = .cleanKeep) ∨ (i = .cboFlush h rs1 ∧ (s.hart h).cboBit (isT h) 6 = .ok ∧ op = .cleanDrop) ∨
      (i = .cboInval h rs1 ∧ (s.hart h).cboInval (isT h) = .ok ∧ op = .discardLine) ∨ (i = .cboInval h rs1 ∧ (s.hart h).cboInval (isT h) = .flush ∧ op = .cleanDrop)) :
    exec i s = .next (s.cboLine h rs1 op) := by
  rcases hx with ⟨rfl, hok, rfl⟩ | ⟨rfl, hok, rfl⟩ | ⟨rfl, hok, rfl⟩ | ⟨rfl, hok, rfl⟩
  · exact congrArg Host.Outcome.next ((onHart_of_issues s h 4 _ hi).trans (cbo_ok _ hok))
  · exact congrArg Host.Outcome.next ((onHart_of_issues s h 4 _ hi).trans (cbo_ok _ hok))
  · exact congrArg Host.Outcome.next ((onHart_of_issues s h 4 _ hi).trans (cbo_ok _ hok))
  · exact congrArg Host.Outcome.next ((onHart_of_issues s h 4 _ hi).trans (cbo_flush _ hok))

/-! ### CBO.ZERO (R41, R188) -/

theorem cboZero_exec {ps : List Part} (hi : s.issues h = true) (ht : isT h = true) (hok : (s.hart h).cboBit true 7 = .ok) (hs : (s.hart h).sb = [])
    (hn : s.addrTrig h 1 ((s.hart h).getX rs1.val) = none) (hp : s.prep h .no .store ((s.hart h).getX rs1.val &&& ~~~63) 64 1 = .parts ps)
    (hio : (ps.any fun p => p.tgt.io) = false) : exec (.cboZero h rs1) s = .next (s.storeParts h 0 4 true ps) := by
  refine congrArg Host.Outcome.next ((onHart_of_issues s h 4 _ hi).trans ((if_neg (by simp [ht])).trans ((cbo_ok _ hok).trans ?_)))
  rw [if_neg (not_not.mpr hs)]
  dsimp only
  rw [hn, hp]
  exact if_neg (by rw [hio]; exact Bool.false_ne_true)

theorem buffered_of_empty {c : Hart} (es : List SbEntry) (hs : c.sb = []) : c.buffered es = { c with sb := es } := by
  unfold Hart.buffered
  rw [hs]
  rfl

/-! ### Way and drain operations (R54, R55) -/

theorem xwayClean_exec (hi : s.issues h = true) (hs : (s.hart h).sb = []) (hl : xwayLegal h (s.hart h) false = .ok) :
    exec (.xwayClean h rs1) s = .next (s.drainLines h (fun _ l => l.way.val == ((s.hart h).getX rs1.val).toNat % 16) 1025) :=
  congrArg Host.Outcome.next ((onHart_of_issues s h 4 _ hi).trans ((legally_ok _ hl).trans (if_neg (not_not.mpr hs))))

/-- The lines of a way of a hart's own cache. -/
def State.wayLines (s : State) (h : HartId) (w : Nat) : List (Nat × CLine) := (s.agentLines (agentOf h)).filter fun (_, l) => l.way.val == w

theorem xwayCinv_exec (hi : s.issues h = true) (hs : (s.hart h).sb = []) (hl : xwayLegal h (s.hart h) false = .ok) :
    let w := ((s.hart h).getX rs1.val).toNat % 16
    exec (.xwayCinv h rs1) s = .next (if ((s.wayLines h w).any fun (_, l) => l.dirtyLine) = true
      then s.drainLines h (fun _ l => l.way.val == w) (1026 + w) else (s.emptyWay (agentOf h) w).retire h 4 1) :=
  congrArg Host.Outcome.next ((onHart_of_issues s h 4 _ hi).trans ((legally_ok _ hl).trans (if_neg (not_not.mpr hs))))

theorem xbrDrain_exec (hi : s.issues h = true) (hs : (s.hart h).sb = []) (hl : xwayLegal h (s.hart h) true = .ok) :
    exec (.xbrDrain h) s = .next (s.drainLines h (fun ln l => s.heldAt (64 * ln) && ownLine h l) 1025) :=
  congrArg Host.Outcome.next ((onHart_of_issues s h 4 _ hi).trans ((legally_ok _ hl).trans (if_neg (not_not.mpr hs))))

/-- With no dirty line among those that it names, a drain retires. -/
theorem drainLines_none (pick : Nat → CLine → Bool) (len : Nat) (hd : ∀ q ∈ s.agentLines (agentOf h), q.2.dirtyLine = true → pick q.1 q.2 = false) :
    s.drainLines h pick len = s.retire h 4 1 := by
  have hl : ((s.agentLines (agentOf h)).filter fun (ln, l) => l.dirtyLine && pick ln l) = [] := by
    refine List.filter_eq_nil_iff.mpr fun q hq ha => ?_
    obtain ⟨hdirty, hpick⟩ := Bool.and_eq_true_iff.mp ha
    rw [hd q hq hdirty] at hpick
    exact Bool.false_ne_true hpick
  exact if_pos (by rw [hl]; rfl)

/-! ### Prefetch hints (R183, R186) -/

section
variable {k : PfKind} {imm : BitVec 12}

theorem prefetchHint_off (hi : s.issues h = true) (ho : isT h = false ∨ (s.pfctlOf (agentOf h)).getLsbD 0 = false) :
    exec (.prefetchHint h k rs1 imm) s = .next (s.retire h 4 1) := by
  refine congrArg Host.Outcome.next ((onHart_of_issues s h 4 _ hi).trans (if_pos ?_))
  rcases ho with ho | ho
  · rw [ho]
    rfl
  · rw [ho]
    exact Bool.or_true _

/-- Whether a hint at `va`, in the piece `p`, asks for its line: one of local cacheable memory that is absent and is not being fetched. -/
def State.hintAsks (s : State) (h : HartId) (k : PfKind) (va : Word) (p : Part) : Bool :=
  p.tgt.region == Region.cached && (s.l2 (agentOf h) (lineOf (paLa p.pa))).st == Moesi.i && (s.mshr (agentOf h) (lineOf (paLa p.pa))).isNone &&
    s.prefetchable (lineOf (paLa p.pa)) && (k != PfKind.w || s.prefetchW h va p.pa)

theorem hintAsks_iff {va : Word} : s.hintAsks h k va p = true ↔ p.tgt.region = .cached ∧ (s.l2 (agentOf h) (lineOf (paLa p.pa))).st = .i ∧
    s.mshr (agentOf h) (lineOf (paLa p.pa)) = none ∧ s.prefetchable (lineOf (paLa p.pa)) = true ∧ (k = .w → s.prefetchW h va p.pa = true) := by
  unfold State.hintAsks
  simp only [Bool.and_eq_true, beq_iff_eq, Option.isNone_iff_eq_none, Bool.or_eq_true, bne_iff_ne, and_assoc, imp_iff_not_or, ne_eq]

/-- A hint's request. -/
def State.hintRequest (s : State) (h : HartId) (k : PfKind) (p : Part) : State :=
  s.request (agentOf h) (lineOf (paLa p.pa)) (if k = .w then .lineOwn else .lineRead) none

theorem prefetchHint_parts (hi : s.issues h = true) (ht : isT h = true) (ho : (s.pfctlOf (agentOf h)).getLsbD 0 = true)
    (hp : s.prep h .no (match k with | .i => .fetch | _ => .load) ((s.hart h).getX rs1.val + imm.signExtend 64) 1 1 = .parts [p]) :
    exec (.prefetchHint h k rs1 imm) s = .next (if s.hintAsks h k ((s.hart h).getX rs1.val + imm.signExtend 64) p = true
      then if ((s.hintRequest h k p).mshr (agentOf h) (lineOf (paLa p.pa))).isSome = true then (s.hintRequest h k p).retire h 4 1 else (s.hintRequest h k p).waits h
      else s.retire h 4 1) := by
  refine congrArg Host.Outcome.next ((onHart_of_issues s h 4 _ hi).trans ((if_neg ?_).trans ?_))
  · rw [ht, ho]
    exact Bool.false_ne_true
  · dsimp only
    split
    · next he => cases he.symm.trans hp
    · next he => cases he.symm.trans hp
    · next he =>
      obtain rfl := Prep.parts.inj (he.symm.trans hp)
      rfl

end

end

/-- Settles O21. -/
theorem cacheBlockOperationsComplete : Obligations.CacheBlockOperationsComplete := by
  unfold Obligations.CacheBlockOperationsComplete
  refine ⟨?_, ?_, ?_, fun s h => xbrDrain_exec, ?_, ?_⟩
  · intro s h rs1 i op p hi hs hx hn hp
    exact ⟨fun hr => ⟨_, (cboLine_exec hi hx).trans (congrArg _ (cboLine_uncached hs hn hp hr)), retire_becomes ..⟩,
      fun hr hc => (cboLine_exec hi hx).trans (congrArg _ (cboLine_cached hs hn hp hr hc))⟩
  · intro s h rs1 ps hi ht hok hs hn hp hio hv
    have hb := storeParts_unviolated (len := 4) (.inr hs) hv
    rw [buffered_of_empty _ hs] at hb
    exact ⟨_, cboZero_exec hi ht hok hs hn hp hio, hartBecomes_mem hb, hb⟩
  · intro s h rs1 hi hs hl w ls
    refine ⟨xwayClean_exec hi hs hl, fun hd => (xwayCinv_exec hi hs hl).trans (congrArg _ (if_pos hd)),
      fun hd => (xwayCinv_exec hi hs hl).trans (congrArg _ (if_neg ?_))⟩
    exact fun ha => Bool.false_ne_true (hd.symm.trans ha)
  · intro s h pick len hd
    rw [drainLines_none pick len hd]
    exact retire_becomes ..
  · intro s h k rs1 imm hi va
    refine ⟨fun ho => ⟨_, prefetchHint_off hi ho, retire_becomes ..⟩, fun p ht ho hp => ?_⟩
    have hx := prefetchHint_parts hi ht ho hp
    refine ⟨fun ha hm => hx.trans (congrArg _ ((if_pos (hintAsks_iff.mpr ha)).trans (if_pos hm))),
      fun ha hm => hx.trans (congrArg _ ((if_pos (hintAsks_iff.mpr ha)).trans (if_neg ?_))),
      fun ha => ⟨_, hx.trans (congrArg _ (if_neg (mt hintAsks_iff.mp ha))), retire_becomes ..⟩⟩
    exact fun hsome => Bool.false_ne_true ((congrArg Option.isSome hm).symm.trans hsome)

end Sys2Proof.Machine
end

section
/-!
PROOFS. How interrupts reach the harts: wired sources, MSIs, IMSIC identities and timers (R379 to R387, R451, R531).
-/
namespace Sys2Proof.Machine

section
variable {s : State} {h : HartId}

/-! ### Sources (R381, R382) -/

@[simp] theorem source_setSource_same (s : State) (n : Nat) (c : Source) : (s.setSource n c).source n = c := tabGet_tabSet_same ..

theorem source_setSource_ne (s : State) {n j : Nat} (c : Source) (hj : j ≠ n) : (s.setSource n c).source j = s.source j := tabGet_tabSet_ne _ _ _ _ _ hj

/-- A source whose input has taken a level. -/
def Source.driven (c : Source) (lv : Bool) : Source :=
  { c with level := lv, ip := match c.mode with
    | .edge1 => c.ip || (lv && !c.level) | .edge0 => c.ip || (c.level && !lv)
    | .level1 => lv && (c.ip || !c.level) | .level0 => !lv && (c.ip || c.level) | .inactive | .detached => c.ip }

theorem source_wire_same (s : State) (n : Nat) (lv : Bool) : (s.wire n lv).source n = (s.source n).driven lv := by
  refine (tabGet_tabSet_same ..).trans ?_
  unfold Source.driven
  cases (s.source n).mode <;> cases lv <;> simp

/-- The rise of PFAIL_N changes the power state alone (R468). -/
theorem pfailRises_frame (s : State) : s.pfailRises = { s with pow := s.pfailRises.pow } := by
  unfold State.pfailRises
  split
  · split <;> rfl
  · rfl

theorem wiredInputChange_unwired {n : Fin 1024} (lv : Bool) (hn : n.val = 0 ∨ 354 < n.val) : exec (.wiredInputChange n lv) s = .next s :=
  congrArg Host.Outcome.next (if_pos hn)

theorem wiredInputChange_wired {n : Fin 1024} (lv : Bool) (h0 : n.val ≠ 0) (h1 : n.val ≤ 354) :
    exec (.wiredInputChange n lv) s = .next ((if n.val = 354 ∧ lv = false then s.pfailRises else s).wire n.val lv) := by
  refine congrArg Host.Outcome.next ((if_neg (by omega)).trans ?_)
  by_cases hf : n.val = 354 ∧ lv = false
  · obtain ⟨hn, rfl⟩ := hf
    rw [if_pos ⟨hn, rfl⟩, if_pos ⟨hn, rfl⟩, hn]
  · rw [if_neg hf, if_neg (by simpa using hf)]

/-- A wire driven after the power state alone has changed. -/
theorem wire_after_pow {u : State} (hu : u = { s with pow := u.pow }) (n : Nat) (lv : Bool) :
    u.wire n lv = { s with irq := { s.irq with src := (u.wire n lv).irq.src }, pow := u.pow } ∧
      (∀ j, j ≠ n → (u.wire n lv).source j = s.source j) ∧ (u.wire n lv).source n = (s.source n).driven lv := by
  have hs : ∀ j, u.source j = s.source j := fun j => by rw [hu]; rfl
  refine ⟨?_, fun j hj => (wire_source_ne u lv hj).trans (hs j), (source_wire_same u n lv).trans (by rw [hs])⟩
  rw [wire_eq, hu]

/-! ### Writes of sourcecfg (R381) -/

section
variable {n : Fin 1024} {v : BitVec 32} (who : Master)

/-- A write in the domain that owns a source. -/
def State.ownCfg (s : State) (n : Nat) (v : BitVec 32) : State :=
  match modeOfCode (fld v 2 0) with | some m => if modeOk n m then s.setMode n m else s | none => s

theorem sourcecfgWrite_exec (sdom : Bool) (h0 : n.val ≠ 0) : exec (.aplicSourcecfgWrite who sdom n v) s = .next
    (if sdom = true then if ((s.source n.val).deleg && !v.getLsbD 10) = true then s.ownCfg n.val v else s
      else if v.getLsbD 10 = true then if (delegable n.val && !(s.source n.val).deleg) = true then s.setSource n.val ((s.source n.val).fresh true) else s
      else if (s.source n.val).deleg = true then s.setSource n.val ((s.source n.val).fresh false) else s.ownCfg n.val v) :=
  congrArg Host.Outcome.next (if_neg (by omega))

theorem sourcecfgWrite_own {sdom : Bool} (h0 : n.val ≠ 0) (hd : v.getLsbD 10 = false) (ho : (s.source n.val).deleg = sdom) :
    exec (.aplicSourcecfgWrite who sdom n v) s = .next (s.ownCfg n.val v) := by
  rw [sourcecfgWrite_exec who sdom h0, hd, ho]
  cases sdom <;> rfl

theorem sourcecfgWrite_delegates (h0 : n.val ≠ 0) (hd : v.getLsbD 10 = true) (hg : delegable n.val = true) (ho : (s.source n.val).deleg = false) :
    exec (.aplicSourcecfgWrite who false n v) s = .next (s.setSource n.val ((s.source n.val).fresh true)) := by
  rw [sourcecfgWrite_exec who false h0, hd, hg, ho]
  rfl

theorem sourcecfgWrite_undelegated (h0 : n.val ≠ 0) (hd : v.getLsbD 10 = true) (hg : delegable n.val = false ∨ (s.source n.val).deleg = true) :
    exec (.aplicSourcecfgWrite who false n v) s = .next s := by
  rw [sourcecfgWrite_exec who false h0, hd, if_neg Bool.false_ne_true, if_pos rfl, if_neg]
  rcases hg with hg | hg <;> simp [hg]

theorem sourcecfgWrite_other (h0 : n.val ≠ 0) (hd : v.getLsbD 10 = true ∨ (s.source n.val).deleg = false) :
    exec (.aplicSourcecfgWrite who true n v) s = .next s := by
  rw [sourcecfgWrite_exec who true h0, if_pos rfl, if_neg]
  rcases hd with hd | hd
  · rw [hd, Bool.not_true, Bool.and_false]
    exact Bool.false_ne_true
  · rw [hd]
    exact Bool.false_ne_true

theorem sourcecfgWrite_takes_back (h0 : n.val ≠ 0) (hd : v.getLsbD 10 = false) (ho : (s.source n.val).deleg = true) :
    exec (.aplicSourcecfgWrite who false n v) s = .next (s.setSource n.val ((s.source n.val).fresh false)) := by
  rw [sourcecfgWrite_exec who false h0, hd, ho]
  rfl

end

theorem ownCfg_some {n : Nat} {v : BitVec 32} {m : SrcMode} (hm : modeOfCode (fld v 2 0) = some m) :
    s.ownCfg n v = if modeOk n m = true then s.setMode n m else s := by
  unfold State.ownCfg
  rw [hm]

theorem ownCfg_none {n : Nat} {v : BitVec 32} (hm : modeOfCode (fld v 2 0) = none) : s.ownCfg n v = s := by
  unfold State.ownCfg
  rw [hm]

/-- A mode that is set: the pending bit may rise where the rectified input is high, and nothing else changes. -/
theorem setMode_spec (s : State) (n : Nat) {m : SrcMode} (hm : m ≠ .inactive) : let c := s.source n
    let t := s.setMode n m
    (∀ j, j ≠ n → t.source j = s.source j) ∧ t.source n = { c with mode := m, ip := (t.source n).ip } ∧ (c.ip = true → (t.source n).ip = true) ∧
      (({ c with mode := m } : Source).rectified = false → (t.source n).ip = c.ip) ∧
      t = { s with irq := { s.irq with src := t.irq.src }, free := t.free } := by
  intro c t
  by_cases hr : (({ c with mode := m } : Source).rectified && !c.ip) = true
  · obtain ⟨hrect, hip⟩ := Bool.and_eq_true_iff.mp hr
    have ht : t = (s.takeNat.2).setSource n { c with mode := m, ip := s.takeNat.1 % 2 == 1 } := (if_neg hm).trans (if_pos hr)
    rw [ht, source_setSource_same]
    refine ⟨fun j hj => source_setSource_ne _ _ hj, rfl, fun hc => ?_, fun hf => ?_, rfl⟩
    · rw [hc] at hip
      exact absurd hip Bool.false_ne_true
    · exact absurd (hf.symm.trans hrect) Bool.false_ne_true
  · have ht : t = s.setSource n { c with mode := m } := (if_neg hm).trans (if_neg hr)
    rw [ht, source_setSource_same]
    exact ⟨fun j hj => source_setSource_ne _ _ hj, rfl, id, fun _ => rfl, rfl⟩

/-! ### MSIs (R379, R531) -/

/-- Whether a source forwards its interrupt. -/
def State.forwards (s : State) (c : Source) : Prop :=
  c.ip = true ∧ c.ie = true ∧ c.mode ≠ .inactive ∧ (if c.deleg = true then s.irq.ieS else s.irq.ieM) = true

/-- The address of the file that a source's interrupt goes to. -/
def Source.msiLa (c : Source) : Nat :=
  if c.deleg = true then 0x2C00_0000 + fld c.target 26 18 * 0x8000 + fld c.target 14 12 * 0x1000 else 0x2800_0000 + fld c.target 26 18 * 0x1000

theorem msiLa_aligned (c : Source) : c.msiLa % 64 = 0 := by
  unfold Source.msiLa
  split <;> omega

theorem aplicMsiSend_exec {n : Fin 1024} : exec (.aplicMsiSend n) s = .next
    (if ((s.source n.val).ip && (s.source n.val).ie && (s.source n.val).mode != .inactive && (if (s.source n.val).deleg then s.irq.ieS else s.irq.ieM)) = true then
      (s.setSource n.val { s.source n.val with ip := false }).aplicMsi (s.source n.val).deleg (fld (s.source n.val).target 26 18)
        (if (s.source n.val).deleg then fld (s.source n.val).target 14 12 else 0) (fld (s.source n.val).target 10 0)
    else s) := rfl

theorem forwards_iff (c : Source) :
    (c.ip && c.ie && c.mode != .inactive && (if c.deleg then s.irq.ieS else s.irq.ieM)) = true ↔ s.forwards c := by
  unfold State.forwards
  simp only [Bool.and_eq_true, bne_iff_ne, and_assoc, ne_eq]

/-- The flit of an MSI, from the APLIC to the node `d` that holds the file. -/
def State.msiFlit (s : State) (d : Node) (la eiid : Nat) : Flit :=
  { s.attrs (s.pma.pkgId.toNat * 2 ^ 47 + la) (ncFlit .writeNc (mkNode aplicStop 0) d la 0 0 (maskOf (la % 64) 4)) with
    data := some (atOffset (la % 64) eiid), size := 4 }

theorem msiLa_eq (c : Source) : c.msiLa = if c.deleg = true
    then 0x2C00_0000 + fld c.target 26 18 * 0x8000 + (if c.deleg = true then fld c.target 14 12 else 0) * 0x1000
    else 0x2800_0000 + fld c.target 26 18 * 0x1000 := by
  unfold Source.msiLa
  by_cases hd : c.deleg = true
  · rw [if_pos hd, if_pos hd, if_pos hd]
  · rw [if_neg hd, if_neg hd]

theorem aplicMsi_none {c : Source} {eiid : Nat} (hd : devNode c.msiLa = none) :
    s.aplicMsi c.deleg (fld c.target 26 18) (if c.deleg then fld c.target 14 12 else 0) eiid = s := by
  unfold State.aplicMsi
  dsimp only
  rw [← msiLa_eq, hd]

theorem aplicMsi_some {c : Source} {eiid : Nat} {d : Node} (hd : devNode c.msiLa = some d) :
    s.aplicMsi c.deleg (fld c.target 26 18) (if c.deleg then fld c.target 14 12 else 0) eiid = s.send (s.msiFlit d c.msiLa eiid) := by
  unfold State.aplicMsi
  dsimp only
  rw [← msiLa_eq, hd]
  rfl

/-- The attributes of an access leave a flit's address, ends and opcode alone (R29). -/
theorem attrs_frame (s : State) (pa : Nat) (f : Flit) : s.attrs pa f = { f with ewa := (s.attrs pa f).ewa, tmo := (s.attrs pa f).tmo } := by
  unfold State.attrs
  split <;> rfl

theorem msiFlit_frame (d : Node) (la eiid : Nat) : ∃ e m, s.msiFlit d la eiid =
    { ncFlit .writeNc (mkNode aplicStop 0) d la 0 0 (maskOf (la % 64) 4) with ewa := e, tmo := m, data := some (atOffset (la % 64) eiid), size := 4 } := by
  unfold State.msiFlit
  rw [attrs_frame]
  exact ⟨_, _, rfl⟩

theorem nodeStop_aplic : nodeStop (mkNode aplicStop 0) = aplicStop := rfl

theorem lineBytes_atOffset_zero {v : Nat} (hv : v < 2 ^ 32) : lineBytes (atOffset 0 v) 0 4 = v := by
  unfold lineBytes atOffset
  rw [BitVec.toNat_ofNat]
  omega

/-- An MSI that is sent is the last flit from the APLIC's stop, and the mesh alone holds it. -/
theorem send_msi {d : Node} {la eiid : Nat} (ha : la % 64 = 0) (hv : eiid < 2 ^ 32) : let f := s.msiFlit d la eiid
    (s.send f).lastSent aplicStop = some f ∧ f.op = .writeNc ∧ f.dst = d ∧ f.addr = BitVec.ofNat 47 la ∧ f.size = 4 ∧
      ∃ l, f.data = some l ∧ lineBytes l (la % 64) 4 = eiid := by
  obtain ⟨e, m, hf⟩ := msiFlit_frame (s := s) d la eiid
  have hs : nodeStop (s.msiFlit d la eiid).src = aplicStop := by
    rw [hf]
    exact nodeStop_aplic
  refine ⟨hs ▸ lastSent_send .., ?_⟩
  rw [hf, ha]
  exact ⟨rfl, rfl, rfl, rfl, _, rfl, lineBytes_atOffset_zero hv⟩

/-! ### IMSIC files (R380, R383) -/

theorem setIdentity_none {f : ImFileKind} {k : Nat} (hk : k = 0 ∨ 2047 < k ∨ fileExists h f = false) : s.setIdentity h f k = s := if_pos hk

theorem setIdentity_some {f : ImFileKind} {k : Nat} (h0 : k ≠ 0) (h1 : k ≤ 2047) (hf : fileExists h f = true) :
    s.setIdentity h f k = s.setFile h f { s.file h f with eip := (s.file h f).eip ||| BitVec.ofNat 2048 (2 ^ k) } :=
  if_neg fun hk => by
    rcases hk with hk | hk | hk
    · exact h0 hk
    · exact Nat.not_lt.mpr h1 hk
    · exact Bool.false_ne_true (hk.symm.trans hf)

/-- Bit `i` of a word with bit `k` alone. -/
theorem getLsbD_single {w k : Nat} (hk : k < w) (i : Nat) : (BitVec.ofNat w (2 ^ k)).getLsbD i = decide (i = k) := by
  rw [BitVec.getLsbD_ofNat, Nat.testBit_two_pow]
  by_cases hi : i = k
  · simp [hi, hk]
  · simp [hi, Ne.symm hi]

theorem top_lt (f : ImFile) : f.top < 2048 := by
  unfold ImFile.top
  dsimp only
  cases hx : (List.range' 1 2047).find? _ with
  | none => exact Nat.zero_lt_succ _
  | some k =>
    have hk := List.mem_range'_1.mp (List.mem_of_find?_eq_some hx)
    exact hk.2

/-- A file whose pending bits are set, as the statement puts it. -/
theorem setFile_eip (f : ImFileKind) (p : BitVec 2048) : let t := s.setFile h f { s.file h f with eip := p }
    (t.file h f).eip = p ∧ t.file h f = { s.file h f with eip := (t.file h f).eip } ∧
      (∀ k, k ≠ fileKey h f → tabGet ImFile.reset t.irq.imsic k = tabGet ImFile.reset s.irq.imsic k) ∧
      t = { s with irq := { s.irq with imsic := t.irq.imsic } } := by
  intro t
  have ht : t.file h f = { s.file h f with eip := p } := tabGet_tabSet_same ..
  rw [ht]
  exact ⟨rfl, rfl, fun k hk => tabGet_tabSet_ne _ _ _ _ _ hk, rfl⟩

theorem topeiClaim_exec {f : ImFileKind} : exec (.imsicTopeiClaim h f) s = .next (if (fileExists h f && (s.file h f).top != 0) = true
    then s.setFile h f { s.file h f with eip := (s.file h f).eip &&& ~~~(BitVec.ofNat 2048 (2 ^ (s.file h f).top)) } else s) := rfl

/-! ### Timers (R386, R387, R451) -/

/-- A hart that does not wait does not wake. -/
theorem timerWake_run (hi : (s.hart h).idle = .run) : s.timerWake h = s := if_neg fun hw => hw.1 hi

theorem atTime_hart (τ c a : Nat) : (s.atTime τ c a).hart h = s.hart h := by
  cases h <;> rfl

/-- The compare value that time has reached. -/
theorem le_ofNat_max {t : Nat} (v : Word) (ht : t < 2 ^ 64) : v ≤ BitVec.ofNat 64 (max t v.toNat) := by
  rw [BitVec.le_def, BitVec.toNat_ofNat, Nat.mod_eq_of_lt (Nat.max_lt.mpr ⟨ht, v.isLt⟩)]
  exact Nat.le_max_right ..

theorem mip_machineTimer (hc : s.mtimecmp h ≤ BitVec.ofNat 64 s.time) : (s.mip h).getLsbD 7 = true := by
  unfold State.mip
  dsimp only
  rw [decide_eq_true hc]
  cases h <;> simp [isT]

theorem mip_supervisorTimer {n : Fin 192} (he : (s.hart (.t n)).csrBit 0x30A 63 = true) (hc : (s.hart (.t n)).csrRaw 0x14D ≤ BitVec.ofNat 64 s.time) :
    (s.mip (.t n)).getLsbD 5 = true := by
  unfold State.mip
  dsimp only
  rw [he, decide_eq_true hc]
  simp [isT]

theorem stimer_sup {n : Fin 192} (he : (s.hart (.t n)).csrBit 0x30A 63 = true) (hv : (s.hart (.t n)).csrBit 0x60A 63 = false) :
    s.stimer (.t n) = some ((s.hart (.t n)).csrRaw 0x14D).toNat := by
  unfold State.stimer
  dsimp only
  rw [he, hv]
  rfl

/-- Time reaches `n` for a hart that does not wait. -/
theorem passTo_wakes_none (n : Nat) (hi : (s.hart h).idle = .run) : ∃ c a, (s.passTo n).timerWake h = s.atTime (max s.time n) c a := by
  obtain ⟨c, a, hp⟩ := passTo_atTime s n
  refine ⟨c, a, ?_⟩
  rw [hp]
  exact timerWake_run (by rw [atTime_hart]; exact hi)

theorem machineTimerMatch_spec (hi : (s.hart h).idle = .run) (ht : s.time < 2 ^ 64) :
    ∃ t, exec (.machineTimerMatch h) s = .next t ∧ t.time = max s.time (s.mtimecmp h).toNat ∧ (t.mip h).getLsbD 7 = true ∧
      t = { s with time := t.time, mesh := { s.mesh with cycle := t.mesh.cycle, ahead := t.mesh.ahead } } := by
  obtain ⟨c, a, hp⟩ := passTo_wakes_none (s.mtimecmp h).toNat hi
  exact ⟨_, congrArg Host.Outcome.next hp, rfl, mip_machineTimer (le_ofNat_max _ ht), rfl⟩

theorem supervisorTimerMatch_none (hn : s.stimer h = none) : exec (.supervisorTimerMatch h) s = .next s := by
  show execSupervisorTimerMatch h s = _
  unfold execSupervisorTimerMatch
  rw [hn]

theorem supervisorTimerMatch_spec {n : Fin 192} (he : (s.hart (.t n)).csrBit 0x30A 63 = true) (hv : (s.hart (.t n)).csrBit 0x60A 63 = false)
    (hi : (s.hart (.t n)).idle = .run) (ht : s.time < 2 ^ 64) :
    ∃ t, exec (.supervisorTimerMatch (.t n)) s = .next t ∧ t.time = max s.time ((s.hart (.t n)).csrRaw 0x14D).toNat ∧ (t.mip (.t n)).getLsbD 5 = true ∧
      t = { s with time := t.time, mesh := { s.mesh with cycle := t.mesh.cycle, ahead := t.mesh.ahead } } := by
  obtain ⟨c, a, hp⟩ := passTo_wakes_none ((s.hart (.t n)).csrRaw 0x14D).toNat hi
  have hx : exec (.supervisorTimerMatch (.t n)) s = .next ((s.passTo ((s.hart (.t n)).csrRaw 0x14D).toNat).timerWake (.t n)) := by
    show execSupervisorTimerMatch (.t n) s = _
    unfold execSupervisorTimerMatch
    rw [stimer_sup he hv]
  exact ⟨_, hx.trans (congrArg Host.Outcome.next hp), rfl, mip_supervisorTimer he (le_ofNat_max _ ht), rfl⟩

end

/-- Settles O46. -/
theorem interruptsReachTheHarts : Obligations.InterruptsReachTheHarts := by
  unfold Obligations.InterruptsReachTheHarts
  refine ⟨?_, ?_, ?_, ?_, fun s h => machineTimerMatch_spec, fun s h => supervisorTimerMatch_none, fun s n => supervisorTimerMatch_spec⟩
  · intro s n lv c
    refine ⟨wiredInputChange_unwired lv, fun h0 h1 => ⟨_, wiredInputChange_wired lv h0 h1, ?_⟩⟩
    refine wire_after_pow ?_ n.val lv
    split
    · exact pfailRises_frame s
    · rfl
  · intro s who n v h0 c
    refine ⟨fun hd => ⟨sourcecfgWrite_delegates who h0 hd, sourcecfgWrite_undelegated who h0 hd, sourcecfgWrite_other who h0 (.inl hd)⟩,
      sourcecfgWrite_takes_back who h0, fun ho => sourcecfgWrite_other who h0 (.inr ho), fun sdom hd ho => ?_⟩
    have hx := sourcecfgWrite_own who h0 hd ho
    refine ⟨fun m hm hk => ?_, fun hm => ?_, fun hz => ?_, fun m hm hi hk => ?_⟩
    · rw [hx, ownCfg_some hm, hk]
      rfl
    · rw [hx, ownCfg_none hm]
    · rw [hx, ownCfg_some (m := .inactive) (by rw [hz]; rfl), ← ho]
      rfl
    · rw [hx, ownCfg_some hm, hk]
      exact ⟨_, rfl, setMode_spec s n.val hi⟩
  · intro s n c on hart la
    refine ⟨fun hoff => ?_, fun hon hd => ?_, fun d hon hd => ?_⟩
    · rw [aplicMsiSend_exec, if_neg (mt (forwards_iff c).mp hoff)]
    · rw [aplicMsiSend_exec, if_pos ((forwards_iff c).mpr hon), aplicMsi_none hd]
    · have hv : fld c.target 10 0 < 2 ^ 32 := Nat.lt_of_lt_of_le (Nat.mod_lt _ (Nat.two_pow_pos _)) (by decide)
      obtain ⟨hlast, hop, hdst, haddr, hsize, hdata⟩ := send_msi (s := s.setSource n.val { c with ip := false }) (d := d) (msiLa_aligned c) hv
      refine ⟨_, _, ?_, ?_, ?_, hlast, hop, hdst, haddr, hsize, hdata, rfl⟩
      · rw [aplicMsiSend_exec, if_pos ((forwards_iff c).mpr hon), aplicMsi_some hd]
      · exact source_setSource_same ..
      · exact fun j hj => source_setSource_ne _ _ hj
  · intro s h f v
    refine ⟨fun hk => congrArg Host.Outcome.next (setIdentity_none hk), fun h0 h1 hf => ?_, fun hn => ?_, fun hf h0 => ?_⟩
    · refine ⟨_, congrArg Host.Outcome.next (setIdentity_some h0 h1 hf), ?_⟩
      obtain ⟨heip, hframe⟩ := setFile_eip (s := s) (h := h) f ((s.file h f).eip ||| BitVec.ofNat 2048 (2 ^ v.toNat))
      refine ⟨fun i => ?_, hframe⟩
      rw [heip, BitVec.getLsbD_or, getLsbD_single (by omega)]
    · refine topeiClaim_exec.trans (congrArg _ (if_neg ?_))
      rcases hn with hn | hn <;> simp [hn]
    · refine ⟨_, topeiClaim_exec.trans (congrArg _ (if_pos (by simp [hf, h0]))), ?_⟩
      obtain ⟨heip, hframe⟩ := setFile_eip (s := s) (h := h) f ((s.file h f).eip &&& ~~~(BitVec.ofNat 2048 (2 ^ (s.file h f).top)))
      refine ⟨fun i => ?_, hframe⟩
      rw [heip, BitVec.getLsbD_and, BitVec.getLsbD_not, getLsbD_single (top_lt _)]
      by_cases hi : i < 2048
      · simp [hi]
      · rw [BitVec.getLsbD_of_ge _ _ (Nat.le_of_not_lt hi), Bool.false_and, Bool.false_and]

end Sys2Proof.Machine
end

section
/-!
SUPPORT. What leaves the byte memories alone (R92, R107, R114, R230, R237, R429): one lemma for every function of the model that answers a state and writes none of
them, in the order of the definitions, up to the commands. Those that write one are in the next section.
-/
namespace Sys2Proof.Machine

-- One proof at a time: the many proofs of this section elaborated side by side take more memory than a compile of the whole text is given.
set_option Elab.async false

/-! ### Carriers of a state, choices and folds -/

theorem ite_mem (c : Prop) [Decidable c] (a b : State) : (if c then a else b).mem = if c then a.mem else b.mem := apply_ite ..

/-- The state that an outcome carries has the memories `p`. -/
@[simp] def ReadRes.memIs (p : Mems) : ReadRes → Prop | .value _ t | .wait t | .poison t | .tcmError t => t.mem = p
@[simp] def TokenTake.memIs (p : Mems) : TokenTake → Prop | .taken t => t.mem = p | .wait | .fallback => True
@[simp] def IoRes.memIs (p : Mems) : IoRes → Prop | .ok t _ | .fault t _ _ => t.mem = p | .wait _ => True
@[simp] def IoWalk.memIs (p : Mems) : IoWalk → Prop | .leaf t _ _ | .fault t _ => t.mem = p | .wait _ => True
@[simp] def IoStep.memIs (p : Mems) : IoStep → Prop | .table t _ => t.mem = p | .done r => r.memIs p
@[simp] def IoG.memIs (p : Mems) : IoG → Prop | .ok t _ _ _ | .fault t _ => t.mem = p | .wait _ => True
@[simp] def IoAddr.memIs (p : Mems) : IoAddr → Prop | .ok t _ | .fault t _ => t.mem = p | .wait _ => True
@[simp] def IoCtx.memIs (p : Mems) : IoCtx → Prop | .ok t _ | .bare t | .fault t _ => t.mem = p | .wait _ => True
@[simp] def IoPc.memIs (p : Mems) : IoPc → Prop | .ok t _ | .fault t _ => t.mem = p | .wait _ => True
@[simp] def IoGo.memIs (p : Mems) : IoGo → Prop | .ok t _ | .refused t | .wait t => t.mem = p
@[simp] def RootGo.memIs (p : Mems) : RootGo → Prop | .ok t _ _ | .refused t | .wait t => t.mem = p
@[simp] def DmaGo.memIs (p : Mems) : DmaGo → Prop | .ok t _ | .refused t _ | .wait t => t.mem = p
@[simp] def CmdEnd.memIs (p : Mems) : CmdEnd → Prop | .ok t _ | .failIn t _ | .waits t => t.mem = p | .fail _ => True

theorem foldl_mem {α : Type} {f : State → α → State} (hf : ∀ u a, (f u a).mem = u.mem) (l : List α) (s : State) : (l.foldl f s).mem = s.mem := by
  induction l generalizing s with
  | nil => rfl
  | cons a l ih => rw [List.foldl_cons, ih, hf]

theorem getD_mem {o : Option State} {u : State} {p : Mems} (ho : ∀ {r}, o = some r → r.mem = p) (hu : u.mem = p) : (o.getD u).mem = p := by
  cases o with
  | none => exact hu
  | some r => exact ho rfl

theorem ite_mem_of {c : Prop} [Decidable c] {a b : State} {p : Mems} (ha : a.mem = p) (hb : b.mem = p) : (if c then a else b).mem = p := by
  split <;> assumption

/-! ### Machine/Ops.lean -/

@[simp] theorem updHart_mem (s : State) (h : HartId) (f : Hart → Hart) : (s.updHart h f).mem = s.mem := by simp [State.updHart]
@[simp] theorem takeWord_mem (s : State) : (s.takeWord).2.mem = s.mem := by
  unfold State.takeWord
  grind

@[simp] theorem takeLine_mem (s : State) : (s.takeLine).2.mem = s.mem := by
  unfold State.takeLine
  grind

@[simp] theorem sendAll_mem (s : State) (l : List Flit) : (s.sendAll l).mem = s.mem := by
  induction l generalizing s with
  | nil => rfl
  | cons f l ih => rw [State.sendAll, ih, send_mem]

@[simp] theorem onFlit_mem (s : State) (f : Flit) (g : State → State) (hg : ∀ u, (g u).mem = u.mem) : (s.onFlit f g).mem = s.mem := by
  unfold State.onFlit
  grind

@[simp] theorem updChan_mem (s : State) (ch : Nat) (f : Chan → Chan) : (s.updChan ch f).mem = s.mem := by simp [State.updChan]
@[simp] theorem wire_mem (s : State) (n : Nat) (lv : Bool) : (s.wire n lv).mem = s.mem := by simp [State.wire]
@[simp] theorem wirePulse_mem (s : State) (n : Nat) : (s.wirePulse n).mem = s.mem := by simp [State.wirePulse]
@[simp] theorem pulseFrom_mem (s : State) (stop line : Nat) : (s.pulseFrom stop line).mem = s.mem := by simp [State.pulseFrom]
@[simp] theorem pulseAtStop_mem (s : State) (n stop : Nat) : (s.pulseAtStop n stop).mem = s.mem := by simp [State.pulseAtStop, ite_mem]
@[simp] theorem pulse_mem (s : State) (n : Nat) : (s.pulse n).mem = s.mem := by simp [State.pulse]
@[simp] theorem driveErr_mem (s : State) (t : Nat) : (s.driveErr t).mem = s.mem := by simp [State.driveErr]
@[simp] theorem logErr_mem (s : State) (e : ErrInfo) : (s.logErr e).mem = s.mem := by simp [State.logErr]
@[simp] theorem logCe_mem (s : State) (stop : Nat) : (s.logCe stop).mem = s.mem := by simp [State.logCe]
@[simp] theorem notice_mem (s : State) (code detail : Nat) : (s.notice code detail).mem = s.mem := by simp [State.notice, ite_mem]
@[simp] theorem passTo_mem (s : State) (t : Nat) : (s.passTo t).mem = s.mem := by simp [State.passTo, ite_mem]
@[simp] theorem nextCycle_mem (s : State) : (s.nextCycle).mem = s.mem := by simp [State.nextCycle, ite_mem]
@[simp] theorem guard_mem (s : State) (p : Bool) (f : State → State) (hf : ∀ u, (f u).mem = u.mem) : (s.guard p f).mem = s.mem := by
  unfold State.guard
  grind

/-! ### Machine/Count.lean -/

@[simp] theorem bumpBank_mem (s : State) (stop b k n : Nat) : (s.bumpBank stop b k n).mem = s.mem := by simp [State.bumpBank, ite_mem]
@[simp] theorem bwAdd_mem (s : State) (stop b n : Nat) : (s.bwAdd stop b n).mem = s.mem := by simp [State.bwAdd, ite_mem]

/-! ### Machine/Events.lean -/

@[simp] theorem setIdentity_mem (s : State) (h : HartId) (f : ImFileKind) (n : Nat) : (s.setIdentity h f n).mem = s.mem := by
  simp [State.setIdentity, ite_mem]

@[simp] theorem bumpHpm_mem (s : State) (h : HartId) (k n : Nat) : (s.bumpHpm h k n).mem = s.mem := by simp [State.bumpHpm, ite_mem]
@[simp] theorem event_mem (s : State) (h : HartId) (code n : Nat) : (s.event h code n).mem = s.mem :=
  foldl_mem (fun u k => bumpHpm_mem u h k n) _ s

/-! ### Machine/Caches.lean -/

@[simp] theorem driveBrine_mem (s : State) : (s.driveBrine).mem = s.mem := by simp [State.driveBrine]
@[simp] theorem takeToken_mem (s : State) (k : Nat) : (s.takeToken k).memIs s.mem := by
  unfold State.takeToken
  grind [driveBrine_mem, TokenTake.memIs]

@[simp] theorem freeToken_mem (s : State) : (s.freeToken).mem = s.mem := by simp [State.freeToken, ite_mem]
@[simp] theorem freeTokenIf_mem (s : State) (p : Bool) : (s.freeTokenIf p).mem = s.mem := by simp [State.freeTokenIf, ite_mem]
@[simp] theorem countFallback_mem (s : State) : (s.countFallback).mem = s.mem := by simp [State.countFallback]
@[simp] theorem endMshr_mem (s : State) (a ln : Nat) : (s.endMshr a ln).mem = s.mem := by simp [State.endMshr]
@[simp] theorem mapMshr_mem (s : State) (a ln : Nat) (f : Mshr → Mshr) : (s.mapMshr a ln f).mem = s.mem := by simp [State.mapMshr]
@[simp] theorem mapHarts_mem (s : State) (f : Hart → Hart) (l : List HartId) : (s.mapHarts f l).mem = s.mem := by
  induction l generalizing s with
  | nil => rfl
  | cons h l ih => rw [State.mapHarts, ih, updHart_mem]

@[simp] theorem killResv_mem (s : State) (la : Nat) (except : Option HartId) :
    (s.killResv la except).mem = s.mem := by simp [State.killResv]

@[simp] theorem lineLost_mem (s : State) (a ln : Nat) : (s.lineLost a ln).mem = s.mem := by simp [State.lineLost]
@[simp] theorem cleanL1_mem (s : State) (a ln : Nat) : (s.cleanL1 a ln).mem = s.mem := by simp [State.cleanL1]
@[simp] theorem serveFills_mem (s : State) (a ln : Nat) : (s.serveFills a ln).mem = s.mem := foldl_mem (fun u k => by simp [ite_mem]) _ s
@[simp] theorem eventL2_mem (s : State) (a code : Nat) : (s.eventL2 a code).mem = s.mem := by simp [State.eventL2, ite_mem]
@[simp] theorem evict_mem (s : State) (a ln : Nat) : (s.evict a ln).mem = s.mem := by
  unfold State.evict
  grind [eventL2_mem, lineLost_mem, updHart_mem, setL2_mem, send_mem]

@[simp] theorem emptyWay_mem (s : State) (a w : Nat) : (s.emptyWay a w).mem = s.mem := foldl_mem (fun u _ => evict_mem u _ _) _ s
@[simp] theorem touchL2_mem (s : State) (a ln : Nat) : (s.touchL2 a ln).mem = s.mem := by simp [State.touchL2]
@[simp] theorem install_mem (s : State) (a ln : Nat) (c : CLine) : (s.install a ln c).mem = s.mem := by
  unfold State.install
  grind [setL2_mem, evict_mem, serveFills_mem, setTree_mem]

@[simp] theorem emptyMore_mem (s : State) (a : Nat) : (s.emptyMore a).mem = s.mem := foldl_mem (fun u k => by simp [ite_mem]) _ s
@[simp] theorem sendReq_mem (s : State) (a ln : Nat) (f : Flit) (core : Option HartId) : (s.sendReq a ln f core).mem = s.mem := by
  unfold State.sendReq
  grind [putMshr_mem, send_mem]

@[simp] theorem request_mem (s : State) (a ln : Nat) (op : MsgOp) (core : Option HartId) : (s.request a ln op core).mem = s.mem := by
  simp [State.request, ite_mem]

@[simp] theorem setHolder_mem (s : State) (a ln : Nat) (c : CLine) : (s.setHolder a ln c).mem = s.mem := by simp [State.setHolder, ite_mem]

/-! ### Machine/Home.lean -/

@[simp] theorem countSlice_mem (s : State) (ln code : Nat) (f : Flit) : (s.countSlice ln code f).mem = s.mem := by simp [State.countSlice]

@[simp] theorem vbPut_mem (s : State) (ln : Nat) (data : Line) (mask : LineMask) (poison token txn : Bool) :
    (s.vbPut ln data mask poison token txn).mem = s.mem := by simp [State.vbPut]

@[simp] theorem vbPush_mem (s : State) (ln : Nat) (data : Line) (mask : LineMask) (poison token : Bool) :
    (s.vbPush ln data mask poison token).mem = s.mem := by simp [State.vbPush]

@[simp] theorem ageSet_mem (s : State) (ln n : Nat) : (s.ageSet ln n).mem = s.mem := foldl_mem (fun u a => by simp [ite_mem]) _ s
theorem l3Way_mem {s : State} {ln : Nat} {r : State × Option (Fin 16)} (hr : s.l3Way ln = some r) : r.1.mem = s.mem := by
  unfold State.l3Way at hr
  grind [vbPush_mem, ageSet_mem, setL3_mem]

theorem l3Put_mem {s : State} {ln : Nat} {data : Line} {dirty poison token : Bool} {rrpv : Fin 4} {s' : State}
    (hr : s.l3Put ln data dirty poison token rrpv = some s') :
    s'.mem = s.mem := by
  unfold State.l3Put at hr
  split at hr
  · cases hr
  · next u w hu => cases hr; simpa using l3Way_mem hu
  · next u hu =>
    have := l3Way_mem hu
    grind [vbPush_mem, setL3_mem]

@[simp] theorem memReadReq_mem (s : State) (req : Flit) (ln : Nat) : (s.memReadReq req ln).mem = s.mem := by simp [State.memReadReq]
@[simp] theorem memWriteReq_mem (s : State) (req : Option Flit) (ln : Nat) (data : Line) (mask : LineMask) (poison token : Bool) :
    (s.memWriteReq req ln data mask poison token).mem = s.mem := by simp [State.memWriteReq]

@[simp] theorem closeTxn_mem (s : State) (ln : Nat) : (s.closeTxn ln).mem = s.mem := by simp [State.closeTxn]
@[simp] theorem takeL3_mem (s : State) (ln : Nat) (t : Txn) : (s.takeL3 ln t).1.mem = s.mem := by
  unfold State.takeL3
  grind [freeTokenIf_mem, setL3_mem]

@[simp] theorem grantTo_mem (s : State) (ln : Nat) (t : Txn) (gst : Moesi) (data : Option Line) (sf : SfEntry) :
    (s.grantTo ln t gst data sf).mem = s.mem := by simp [State.grantTo]

@[simp] theorem cleanFinish_mem (s : State) (ln : Nat) (t : Txn) : (s.cleanFinish ln t).mem = s.mem := by
  unfold State.cleanFinish
  grind [vbPut_mem, setTxn_mem, freeTokenIf_mem, setSf_mem, closeTxn_mem, setL3_mem, send_mem]

theorem writeCore_mem {s : State} {ln : Nat} {held token : Bool} {new : Line} {poison : Bool} {r : State × Bool}
    (hr : s.writeCore ln held token new poison = some r) :
    r.1.mem = s.mem := by
  unfold State.writeCore at hr
  dsimp only at hr
  split at hr
  · obtain ⟨u, hu, rfl⟩ := Option.map_eq_some_iff.1 hr
    exact l3Put_mem hu
  · have ht := takeToken_mem s (204 + homeSlice (64 * ln))
    split at hr
    · next v hv =>
      rw [hv] at ht
      obtain ⟨u, hu, rfl⟩ := Option.map_eq_some_iff.1 hr
      exact (l3Put_mem hu).trans ht
    · cases hr
    · split at hr <;> cases hr
      simp

theorem writeFinish_mem {s : State} {ln : Nat} {t : Txn} {new : Line} {poison : Bool} {ans : Flit} {s' : State}
    (hr : s.writeFinish ln t new poison ans = some s') :
    s'.mem = s.mem := by
  unfold State.writeFinish at hr
  obtain ⟨⟨u, w⟩, hu, rfl⟩ := Option.map_eq_some_iff.1 hr
  simpa [ite_mem] using writeCore_mem hu

theorem putBack_mem {s : State} {ln : Nat} {t : Txn} {s' : State} (hr : s.putBack ln t = some s') : s'.mem = s.mem := by
  unfold State.putBack at hr
  obtain ⟨u, hu, rfl⟩ := Option.map_eq_some_iff.1 hr
  simpa using l3Put_mem hu

@[simp] theorem trackEwa_mem (s : State) (stop : Node) (f : Flit) : (s.trackEwa stop f).mem = s.mem := by simp [State.trackEwa]
@[simp] theorem ewaFail_mem (s : State) (e : EwaWrite) (sts : Nat) : (s.ewaFail e sts).mem = s.mem := by simp [State.ewaFail]
@[simp] theorem endEwa_mem (s : State) (stop : Node) (f : Flit) (sts : Nat) : (s.endEwa stop f sts).mem = s.mem := by
  unfold State.endEwa
  grind [ewaFail_mem]

@[simp] theorem endBackInv_mem (s : State) (ln : Nat) (t : Txn) : (s.endBackInv ln t).mem = s.mem := by
  unfold State.endBackInv
  grind [vbPush_mem, l3Put_mem, freeTokenIf_mem, setSf_mem, closeTxn_mem, setL3_mem]

theorem keepDirty_mem {s : State} {ln : Nat} {t : Txn} {s' : State} (hr : s.keepDirty ln t = some s') : s'.mem = s.mem := by
  unfold State.keepDirty at hr
  grind [l3Put_mem, freeTokenIf_mem]

@[simp] theorem takeOwn_mem (s : State) (ln : Nat) (t : Txn) (own : Bool) : (s.takeOwn ln t own).1.mem = s.mem := by
  unfold State.takeOwn
  grind [freeTokenIf_mem, setL3_mem, takeL3_mem]

@[simp] theorem respond_mem (s : State) (ln : Nat) (t : Txn) : (s.respond ln t).mem = s.mem := by
  have hw : ∀ d p a, ((s.writeFinish ln t d p a).getD s).mem = s.mem := fun _ _ _ => getD_mem writeFinish_mem rfl
  unfold State.respond
  dsimp only
  split
  all_goals grind [grantTo_mem, keepDirty_mem, setL3_mem, l3Put_mem, takeL3_mem, takeOwn_mem, closeTxn_mem, send_mem, cleanFinish_mem, killResv_mem,
    memWriteReq_mem, setTxn_mem, trackEwa_mem, putBack_mem, endBackInv_mem]

@[simp] theorem advance_mem (s : State) (ln : Nat) : (s.advance ln).mem = s.mem := by
  unfold State.advance
  grind [memReadReq_mem, setTxn_mem, countSlice_mem, setL3_mem, respond_mem]

@[simp] theorem sendProbes_mem (s : State) (f : Flit) (ln : Nat) (l : List (MsgOp × Nat)) : (s.sendProbes f ln l).mem = s.mem := by
  induction l generalizing s with
  | nil => rfl
  | cons p l ih => obtain ⟨op, a⟩ := p; simp [State.sendProbes, ih]

theorem serveReturnDirty_mem {s : State} {f : Flit} {ln : Nat} {s' : State} (hr : s.serveReturnDirty f ln = some s') : s'.mem = s.mem := by
  unfold State.serveReturnDirty at hr
  dsimp only at hr
  split at hr
  · cases hr; simp
  · split at hr
    · split at hr <;> cases hr
      simp
    · obtain ⟨u, hu, rfl⟩ := Option.map_eq_some_iff.1 hr
      simpa using l3Put_mem hu

theorem openTxn_mem {s : State} {f : Flit} {ln : Nat} {s' : State} (hr : s.openTxn f ln = some s') : s'.mem = s.mem := by
  unfold State.openTxn at hr
  grind [sendProbes_mem, setTxn_mem, serveReturnDirty_mem, countSlice_mem, setSf_mem, advance_mem]

@[simp] theorem serve_mem (s : State) (f : Flit) : (s.serve f).mem = s.mem := by
  unfold State.serve
  grind [countSlice_mem, openTxn_mem, accept_mem, send_mem]

@[simp] theorem snoopAnswer_mem (s : State) (f : Flit) : (s.snoopAnswer f).mem = s.mem := by
  unfold State.snoopAnswer
  grind [setTxn_mem, setSf_mem, advance_mem]

@[simp] theorem memEnded_mem (s : State) (ln : Nat) (ok : Bool) : (s.memEnded ln ok).mem = s.mem := by
  have hput : ∀ d p, ((s.l3Put ln d false p false 1).getD s).mem = s.mem := fun _ _ => getD_mem l3Put_mem rfl
  unfold State.memEnded
  split
  · rfl
  · dsimp only
    repeat' split
    all_goals simp [hput]

@[simp] theorem memData_mem (s : State) (ln : Nat) (d : Line) (poison : Bool) : (s.memData ln d poison).mem = s.mem := by
  unfold State.memData
  grind [setTxn_mem, advance_mem]

@[simp] theorem retrySlice_mem (s : State) (sl : Nat) : (s.retrySlice sl).mem = s.mem := foldl_mem (fun u k => advance_mem u k) _ s

/-! ### Machine/Coherence.lean -/

theorem execLineRead_mem {f : Flit} {s s' : State} (hr : execLineRead f s = .next s') : s'.mem = s.mem := by
  unfold execLineRead at hr
  grind [serve_mem, onFlit_mem]

theorem execLineOwn_mem {f : Flit} {s s' : State} (hr : execLineOwn f s = .next s') : s'.mem = s.mem := by
  unfold execLineOwn at hr
  grind [serve_mem, onFlit_mem]

theorem execLinePromote_mem {f : Flit} {s s' : State} (hr : execLinePromote f s = .next s') : s'.mem = s.mem := by
  unfold execLinePromote at hr
  grind [serve_mem, onFlit_mem]

theorem execLineClaim_mem {f : Flit} {s s' : State} (hr : execLineClaim f s = .next s') : s'.mem = s.mem := by
  unfold execLineClaim at hr
  grind [serve_mem, onFlit_mem]

theorem execMaskFill_mem {f : Flit} {s s' : State} (hr : execMaskFill f s = .next s') : s'.mem = s.mem := by
  unfold execMaskFill at hr
  grind [serve_mem, onFlit_mem]

theorem execCleanKeep_mem {f : Flit} {s s' : State} (hr : execCleanKeep f s = .next s') : s'.mem = s.mem := by
  unfold execCleanKeep at hr
  grind [serve_mem, onFlit_mem]

theorem execCleanDrop_mem {f : Flit} {s s' : State} (hr : execCleanDrop f s = .next s') : s'.mem = s.mem := by
  unfold execCleanDrop at hr
  grind [serve_mem, onFlit_mem]

theorem execDiscardLine_mem {f : Flit} {s s' : State} (hr : execDiscardLine f s = .next s') : s'.mem = s.mem := by
  unfold execDiscardLine at hr
  grind [serve_mem, onFlit_mem]

theorem execPrefetchRead_mem {f : Flit} {s s' : State} (hr : execPrefetchRead f s = .next s') : s'.mem = s.mem := by
  unfold execPrefetchRead at hr
  grind [serve_mem, onFlit_mem]

theorem execPrefetchOwn_mem {f : Flit} {s s' : State} (hr : execPrefetchOwn f s = .next s') : s'.mem = s.mem := by
  unfold execPrefetchOwn at hr
  grind [serve_mem, onFlit_mem]

theorem execReturnDirty_mem {f : Flit} {s s' : State} (hr : execReturnDirty f s = .next s') : s'.mem = s.mem := by
  unfold execReturnDirty at hr
  grind [serve_mem, onFlit_mem]

theorem execReturnClean_mem {f : Flit} {s s' : State} (hr : execReturnClean f s = .next s') : s'.mem = s.mem := by
  unfold execReturnClean at hr
  grind [serve_mem, onFlit_mem]

theorem execHomeTransactionOpen_mem {a : La} {s s' : State} (hr : execHomeTransactionOpen a s = .next s') : s'.mem = s.mem := by
  cases hr
  split
  · rfl
  · split
    · rfl
    · exact getD_mem (fun hr => (openTxn_mem hr).trans rfl) rfl

@[simp] theorem probeShare_mem (s : State) (f : Flit) (a : Nat) : (s.probeShare f a).mem = s.mem := by
  unfold State.probeShare
  grind [send_mem, setHolder_mem]

@[simp] theorem probeTake_mem (s : State) (f : Flit) (a : Nat) : (s.probeTake f a).mem = s.mem := by
  unfold State.probeTake
  grind [send_mem, setHolder_mem]

@[simp] theorem probeKill_mem (s : State) (f : Flit) (a : Nat) : (s.probeKill f a).mem = s.mem := by simp [State.probeKill, ite_mem]
@[simp] theorem probeClean_mem (s : State) (f : Flit) (a : Nat) : (s.probeClean f a).mem = s.mem := by simp [State.probeClean, ite_mem]
@[simp] theorem atAgent_mem (s : State) (f : Flit) (p : State → Nat → State) (hp : ∀ u x1, (p u x1).mem = u.mem) :
    (s.atAgent f p).mem = s.mem := by
  unfold State.atAgent
  grind [onFlit_mem, accept_mem]

theorem execProbeShare_mem {f : Flit} {s s' : State} (hr : execProbeShare f s = .next s') : s'.mem = s.mem := by
  unfold execProbeShare at hr
  grind [probeShare_mem, atAgent_mem]

theorem execProbeTake_mem {f : Flit} {s s' : State} (hr : execProbeTake f s = .next s') : s'.mem = s.mem := by
  unfold execProbeTake at hr
  grind [atAgent_mem, probeTake_mem]

theorem execProbeKill_mem {f : Flit} {s s' : State} (hr : execProbeKill f s = .next s') : s'.mem = s.mem := by
  unfold execProbeKill at hr
  grind [probeKill_mem, atAgent_mem]

theorem execProbeClean_mem {f : Flit} {s s' : State} (hr : execProbeClean f s = .next s') : s'.mem = s.mem := by
  unfold execProbeClean at hr
  grind [atAgent_mem, probeClean_mem]

theorem execProbeAck_mem {f : Flit} {s s' : State} (hr : execProbeAck f s = .next s') : s'.mem = s.mem := by
  unfold execProbeAck at hr
  grind [onFlit_mem, snoopAnswer_mem, accept_mem]

theorem execProbeData_mem {f : Flit} {s s' : State} (hr : execProbeData f s = .next s') : s'.mem = s.mem := by
  unfold execProbeData at hr
  grind [onFlit_mem, snoopAnswer_mem, accept_mem]

@[simp] theorem sendClean_mem (s : State) (h : HartId) (ln : Nat) (op : MsgOp) : (s.sendClean h ln op).mem = s.mem := by
  simp [State.sendClean, ite_mem]

@[simp] theorem pump_mem (s : State) (h : HartId) : (s.pump h).mem = s.mem := foldl_mem (fun u k => by simp [ite_mem]) _ s
@[simp] theorem maintDone_mem (s : State) (h : HartId) (ln : Nat) : (s.maintDone h ln).mem = s.mem := by
  unfold State.maintDone
  grind [updHart_mem, emptyWay_mem, setHart_mem]

@[simp] theorem cleaned_mem (s : State) (a ln : Nat) : (s.cleaned a ln).mem = s.mem := by
  unfold State.cleaned
  grind [setL2_mem, freeTokenIf_mem, cleanL1_mem]

@[simp] theorem fill_mem (s : State) (f : Flit) (a : Nat) : (s.fill f a).mem = s.mem := by simp [State.fill, ite_mem]
@[simp] theorem permit_mem (s : State) (f : Flit) (a : Nat) : (s.permit f a).mem = s.mem := by simp [State.permit, ite_mem]
theorem tryFill_mem {s : State} {f : Flit} {a : Nat} {s' : State} (hr : s.tryFill f a = some s') : s'.mem = s.mem := by
  unfold State.tryFill at hr
  grind [permit_mem, fill_mem]

@[simp] theorem resetEmptied_mem (s : State) (a : Nat) : (s.resetEmptied a).mem = s.mem := foldl_mem (fun u k => by simp [ite_mem]) _ s
@[simp] theorem goesOn_mem (s : State) (a : Nat) : (s.goesOn a).mem = s.mem := by
  unfold State.goesOn
  dsimp only
  rw [foldl_mem fun u h => pump_mem u h, ite_mem, resetEmptied_mem, emptyMore_mem, ite_self]
  refine foldl_mem (fun u f => ?_) _ s
  grind [tryFill_mem]

@[simp] theorem takeGrant_mem (s : State) (f : Flit) (a : Nat) : (s.takeGrant f a).mem = s.mem := by
  unfold State.takeGrant
  grind [tryFill_mem, goesOn_mem, accept_mem]

theorem execDataGrant_mem {f : Flit} {s s' : State} (hr : execDataGrant f s = .next s') : s'.mem = s.mem := by
  unfold execDataGrant at hr
  grind [onFlit_mem, takeGrant_mem]

@[simp] theorem takePermission_mem (s : State) (f : Flit) (a : Nat) : (s.takePermission f a).mem = s.mem := by
  unfold State.takePermission
  dsimp only
  split <;> simp [foldl_mem fun u h => maintDone_mem u h _]

theorem execGrant_mem {f : Flit} {s s' : State} (hr : execGrant f s = .next s') : s'.mem = s.mem := by
  unfold execGrant at hr
  grind [onFlit_mem, takePermission_mem]

theorem execGrantAck_mem {f : Flit} {s s' : State} (hr : execGrantAck f s = .next s') : s'.mem = s.mem := by
  unfold execGrantAck at hr
  grind [closeTxn_mem, onFlit_mem, retrySlice_mem, accept_mem]

theorem execReturnAck_mem {f : Flit} {s s' : State} (hr : execReturnAck f s = .next s') : s'.mem = s.mem := by
  unfold execReturnAck at hr
  grind [goesOn_mem, onFlit_mem, accept_mem]

theorem execDropped_mem {f : Flit} {s s' : State} (hr : execDropped f s = .next s') : s'.mem = s.mem := by
  unfold execDropped at hr
  grind [endMshr_mem, eventL2_mem, goesOn_mem, onFlit_mem, accept_mem]

theorem execVictimWriteIssue_mem {a : La} {s s' : State} (hr : execVictimWriteIssue a s = .next s') : s'.mem = s.mem := by
  unfold execVictimWriteIssue at hr
  grind [memWriteReq_mem]

@[simp] theorem victimFreed_mem (s : State) (ln : Nat) (ok : Bool) : (s.victimFreed ln ok).mem = s.mem := by
  unfold State.victimFreed
  grind [freeTokenIf_mem, retrySlice_mem, memEnded_mem]

@[simp] theorem acceptWriteDone_mem (s : State) (ln : Nat) : (s.acceptWriteDone ln).mem = s.mem := by
  unfold State.acceptWriteDone
  grind [accept_mem]

theorem execVictimEntryFreed_mem {a : La} {ok : Bool} {s s' : State} (hr : execVictimEntryFreed a ok s = .next s') : s'.mem = s.mem := by
  unfold execVictimEntryFreed at hr
  grind [acceptWriteDone_mem, victimFreed_mem]

/-! ### Machine/Gddr6.lean -/

@[simp] theorem retirePage_mem (s : State) (ch bank row cause : Nat) : (s.retirePage ch bank row cause).mem = s.mem := by
  simp [State.retirePage, ite_mem]

@[simp] theorem dramUe_mem (s : State) (ch : Nat) (r : MemReq) (addr scrub ras : Bool) : (s.dramUe ch r addr scrub ras).mem = s.mem := by
  simp [State.dramUe]

@[simp] theorem countChan_mem (s : State) (ch code : Nat) : (s.countChan ch code).mem = s.mem := by simp [State.countChan]
@[simp] theorem correctedRead_mem (s : State) (ch : Nat) (r : MemReq) : (s.correctedRead ch r).mem = s.mem := by simp [State.correctedRead]
@[simp] theorem lostRead_mem (s : State) (ch : Nat) (r : MemReq) (addr scrub ras : Bool) :
    (s.lostRead ch r addr scrub ras).mem = s.mem := by
  simp [State.lostRead, ite_mem]

@[simp] theorem enterBank_mem (s : State) (ch : Nat) (r : MemReq) : (s.enterBank ch r).mem = s.mem := by
  unfold State.enterBank
  grind [setChan_mem, send_mem]

@[simp] theorem fillBanks_mem (s : State) (ch n : Nat) : (s.fillBanks ch n).mem = s.mem := by
  induction n generalizing s with
  | zero => rfl
  | succ n ih => rw [State.fillBanks]; grind [enterBank_mem, setChan_mem]

@[simp] theorem offlineAnswer_mem (s : State) (ch : Nat) (r : MemReq) : (s.offlineAnswer ch r).mem = s.mem := by simp [State.offlineAnswer]
@[simp] theorem memArrive_mem (s : State) (ch : Nat) (kind : MemKind) (f : Flit) : (s.memArrive ch kind f).mem = s.mem := by
  unfold State.memArrive
  grind [fillBanks_mem, setChan_mem, offlineAnswer_mem, count_mem, accept_mem, send_mem]

theorem execMemRead_mem {ch : Fin 48} {f : Flit} {s s' : State} (hr : execMemRead ch f s = .next s') : s'.mem = s.mem := by
  unfold execMemRead at hr
  grind [memArrive_mem]

theorem execMemWrite_mem {ch : Fin 48} {f : Flit} {s s' : State} (hr : execMemWrite ch f s = .next s') : s'.mem = s.mem := by
  unfold execMemWrite at hr
  grind [memArrive_mem]

theorem execMemWriteMasked_mem {ch : Fin 48} {f : Flit} {s s' : State} (hr : execMemWriteMasked ch f s = .next s') : s'.mem = s.mem := by
  unfold execMemWriteMasked at hr
  grind [memArrive_mem]

@[simp] theorem countAccess_mem (s : State) (ch : Nat) (c : Chan) (r : MemReq) : (s.countAccess ch c r).mem = s.mem := by
  simp [State.countAccess, ite_mem]

theorem execWritePhaseTimeout_mem {ch : Fin 48} {s s' : State} (hr : execWritePhaseTimeout ch s = .next s') : s'.mem = s.mem := by
  unfold execWritePhaseTimeout at hr
  grind [updChan_mem, passTo_mem]

@[simp] theorem goOffline_mem (s : State) (ch : Nat) : (s.goOffline ch).mem = s.mem := by
  unfold State.goOffline
  dsimp only
  rw [notice_mem, logErr_mem, foldl_mem fun u r => offlineAnswer_mem u ch r, setChan_mem]

@[simp] theorem crcFailed_mem (s : State) (ch : Nat) (wr : Bool) : (s.crcFailed ch wr).mem = s.mem := by
  unfold State.crcFailed
  grind [countChan_mem, setChan_mem, goOffline_mem]

@[simp] theorem readDone_mem (s : State) (ch : Nat) (r : MemReq) : (s.readDone ch r).mem = s.mem := by
  unfold State.readDone
  grind [updChan_mem, fillBanks_mem, correctedRead_mem, lostRead_mem, send_mem]

theorem execWriteCrcResult_mem {ch : Fin 48} {ok : Bool} {s s' : State} (hr : execWriteCrcResult ch ok s = .next s') : s'.mem = s.mem := by
  unfold execWriteCrcResult at hr
  grind [crcFailed_mem, setChan_mem]

theorem execShortRetrainDone_mem {ch : Fin 48} {ok : Bool} {ns : Nat} {s s' : State} (hr : execShortRetrainDone ch ok ns s = .next s') : s'.mem = s.mem := by
  unfold execShortRetrainDone at hr
  grind [setChan_mem, goOffline_mem, logErr_mem]

theorem execRowIdleClose_mem {ch : Fin 48} {bank : Fin 16} {s s' : State} (hr : execRowIdleClose ch bank s = .next s') : s'.mem = s.mem := by
  unfold execRowIdleClose at hr
  grind [updChan_mem]

theorem execRefreshDue_mem {ch : Fin 48} {bank : Fin 16} {s s' : State} (hr : execRefreshDue ch bank s = .next s') : s'.mem = s.mem := by
  unfold execRefreshDue at hr
  grind [updChan_mem, count_mem]

theorem execDeviceTempRead_mem {ch : Fin 48} {temp : BitVec 8} {s s' : State} (hr : execDeviceTempRead ch temp s = .next s') : s'.mem = s.mem := by
  unfold execDeviceTempRead at hr
  grind [updChan_mem]

theorem execWriteTimingCheck_mem {ch : Fin 48} {s s' : State} (hr : execWriteTimingCheck ch s = .next s') : s'.mem = s.mem := by
  unfold execWriteTimingCheck at hr
  grind

theorem execScrubRead_mem {ch : Fin 48} {s s' : State} (hr : execScrubRead ch s = .next s') : s'.mem = s.mem := by
  unfold execScrubRead at hr
  grind [setChan_mem]

theorem execPageThreshold_mem {ch : Fin 48} {s s' : State} (hr : execPageThreshold ch s = .next s') : s'.mem = s.mem := by
  unfold execPageThreshold at hr
  grind [retirePage_mem, updChan_mem]

@[simp] theorem wakeChannels_mem (s : State) : (s.wakeChannels).mem = s.mem := foldl_mem (fun u ch => updChan_mem u ch _) _ s
@[simp] theorem injCtlWrite_mem (s : State) (ch : Nat) (v : BitVec 32) : (s.injCtlWrite ch v).mem = s.mem := by simp [State.injCtlWrite]

/-! ### Machine/Mesh.lean -/

@[simp] theorem turn_mem (s : State) (id : Nat) (out : Port) (w : Waiting) : (s.turn id out w).mem = s.mem := by simp [State.turn, ite_mem]
@[simp] theorem leaveBuffer_mem (s : State) (id : Nat) (out : Port) (w : Waiting) : (s.leaveBuffer id out w).mem = s.mem := by
  unfold State.leaveBuffer
  grind

@[simp] theorem intoBuffer_mem (s : State) (id : Nat) (out : Port) (d : Nat) (f : Flit) : (s.intoBuffer id out d f).mem = s.mem := by
  simp [State.intoBuffer]

@[simp] theorem enterNext_mem (s : State) (id : Nat) (out : Port) (f : Flit) (err : FlitErr) : (s.enterNext id out f err).mem = s.mem := by
  unfold State.enterNext
  grind [logCe_mem, intoBuffer_mem, logErr_mem, count_mem]

@[simp] theorem countSent_mem (s : State) (id : Nat) (out : Port) (w : Waiting) (owner : Nat) :
    (s.countSent id out w owner).mem = s.mem := by
  unfold State.countSent
  grind [count_mem]

@[simp] theorem routeFlit_mem (s : State) (id : Nat) (out : Port) (err : FlitErr) : (s.routeFlit id out err).mem = s.mem := by
  unfold State.routeFlit
  grind [turn_mem, enterNext_mem, leaveBuffer_mem, nextCycle_mem, countSent_mem, logErr_mem, count_mem]

theorem execFlitRoute_mem {stop : Fin 320} {out : Port} {err : FlitErr} {s s' : State} (hr : execFlitRoute stop out err s = .next s') : s'.mem = s.mem := by
  unfold execFlitRoute at hr
  grind [nextCycle_mem, routeFlit_mem]

theorem execCreditReturn_mem {stop : Fin 320} {out : Port} {vc : Fin 8} {nxt : Port} {s s' : State}
    (hr : execCreditReturn stop out vc nxt s = .next s') :
    s'.mem = s.mem := by
  unfold execCreditReturn at hr
  grind

@[simp] theorem ownSlots_mem (s : State) (rid k ph : Nat) (l : List WPort) : (s.ownSlots rid k ph l).mem = s.mem := by
  induction l generalizing s with
  | nil => rfl
  | cons p l ih => rw [State.ownSlots, ih]

theorem placeSlots_mem {s : State} {rid k : Nat} {ports : List WPort} {l : List Nat} {s' : State}
    (hr : s.placeSlots rid k ports l = some s') :
    s'.mem = s.mem := by
  induction l generalizing s with
  | nil => rw [State.placeSlots] at hr; cases hr; rfl
  | cons st l ih =>
    rw [State.placeSlots] at hr
    grind [ownSlots_mem]

@[simp] theorem setPairs_mem (s : State) : (s.setPairs).mem = s.mem := by simp [State.setPairs]
theorem reserve_mem {s : State} {form : WheelForm} {vc k src dst : Nat} {owner : Option Nat} {agent : Nat} {r : State × Fin 128}
    (hr : s.reserve form vc k src dst owner agent = some r) :
    r.1.mem = s.mem := by
  unfold State.reserve at hr
  grind [setPairs_mem, placeSlots_mem]

@[simp] theorem release_mem (s : State) (rid : Nat) : (s.release rid).mem = s.mem := by
  unfold State.release
  grind

@[simp] theorem freeSlots_mem (s : State) (rid : Nat) : (s.freeSlots rid).mem = s.mem := by simp [State.freeSlots]
@[simp] theorem reserveZero_mem (s : State) : (s.reserveZero).mem = s.mem := by simp [State.reserveZero]

/-! ### Machine/Csr.lean -/

@[simp] theorem csrWrite_mem (s : State) (h : HartId) (n0 : Nat) (v : Word) : (s.csrWrite h n0 v).mem = s.mem := by
  unfold State.csrWrite
  grind [setHart_mem, setFile_mem]

/-! ### Machine/Traps.lean -/

@[simp] theorem trap_mem (s : State) (h : HartId) (i : Trap) : (s.trap h i).mem = s.mem := by simp [State.trap, ite_mem]

/-! ### Machine/Translate.lean -/

@[simp] theorem tlbMiss_mem (s : State) (h : HartId) (w : Walk) : (s.tlbMiss h w).mem = s.mem := by
  unfold State.tlbMiss
  grind [setHart_mem, event_mem]

/-! ### Machine/Lines.lean -/

@[simp] theorem fetched_mem (s : State) (h : HartId) : (s.fetched h).mem = s.mem := by
  unfold State.fetched
  grind [setHart_mem]

@[simp] theorem retire_mem (s : State) (h : HartId) (len n : Nat) : (s.retire h len n).mem = s.mem := by simp [State.retire]
@[simp] theorem readFail_mem (s : State) (h : HartId) (pa sts : Nat) (unknown : Bool) : (s.readFail h pa sts unknown).mem = s.mem := by
  simp [State.readFail]

@[simp] theorem poisonUsed_mem (s : State) (h : HartId) (pa how : Nat) : (s.poisonUsed h pa how).mem = s.mem := by simp [State.poisonUsed]
@[simp] theorem prefetch_mem (s : State) (a ln : Nat) (op : MsgOp) : (s.prefetch a ln op).mem = s.mem := by simp [State.prefetch, ite_mem]
@[simp] theorem prefetchD_mem (s : State) (h : HartId) (ln : Nat) : (s.prefetchD h ln).mem = s.mem := by simp [State.prefetchD, ite_mem]
@[simp] theorem prefetchI_mem (s : State) (h : HartId) (ln : Nat) : (s.prefetchI h ln).mem = s.mem := by simp [State.prefetchI, ite_mem]
@[simp] theorem demand_mem (s : State) (h : HartId) (ln : Nat) (op : MsgOp) :
    (s.demand h ln op).mem = s.mem := by simp [State.demand, ite_mem]

@[simp] theorem demandD_mem (s : State) (h : HartId) (ln : Nat) (op : MsgOp) :
    (s.demandD h ln op).mem = s.mem := by simp [State.demandD, ite_mem]

@[simp] theorem demandI_mem (s : State) (h : HartId) (ln : Nat) (op : MsgOp) :
    (s.demandI h ln op).mem = s.mem := by simp [State.demandI, ite_mem]

@[simp] theorem countShared_mem (s : State) (h : HartId) (ln : Nat) (hit fresh : Bool) : (s.countShared h ln hit fresh).mem = s.mem := by
  simp [State.countShared, ite_mem]

@[simp] theorem readLine_mem (s : State) (h : HartId) (la size : Nat) : (s.readLine h la size).memIs s.mem := by
  unfold State.readLine
  grind [endMshr_mem, touchL2_mem, updHart_mem, demand_mem, demandD_mem, countShared_mem, readFail_mem, event_mem, ReadRes.memIs]

@[simp] theorem nextLines_mem (s : State) (h : HartId) (ln : Nat) : (s.nextLines h ln).mem = s.mem := by
  unfold State.nextLines
  grind [prefetchI_mem]

@[simp] theorem eventT_mem (s : State) (h : HartId) (n : Nat) : (s.eventT h n).mem = s.mem := by simp [State.eventT, ite_mem]
@[simp] theorem fetchLine_mem (s : State) (h : HartId) (la size : Nat) : (s.fetchLine h la size).memIs s.mem := by
  unfold State.fetchLine
  grind [endMshr_mem, touchL2_mem, updHart_mem, eventT_mem, demand_mem, demandI_mem, nextLines_mem, countShared_mem, readFail_mem, ReadRes.memIs]

@[simp] theorem tcmUe_mem (s : State) (h : HartId) (pa : Nat) (store : Bool) : (s.tcmUe h pa store).mem = s.mem := by simp [State.tcmUe]

/-! ### Machine/Issue.lean -/

@[simp] theorem coreFatal_mem (s : State) (h : HartId) (why : Nat) : (s.coreFatal h why).mem = s.mem := by simp [State.coreFatal]
@[simp] theorem fetchTrap_mem (s : State) (h : HartId) (t : Trap) : (s.fetchTrap h t).mem = s.mem := by simp [State.fetchTrap, ite_mem]
@[simp] theorem illegal_mem (s : State) (h : HartId) (virt : Bool) : (s.illegal h virt).mem = s.mem := by simp [State.illegal]
@[simp] theorem leaveWait_mem (s : State) (h : HartId) : (s.leaveWait h).mem = s.mem := by simp [State.leaveWait]
theorem execInterruptTake_mem {h : HartId} {s s' : State} (hr : execInterruptTake h s = .next s') : s'.mem = s.mem := by
  unfold execInterruptTake at hr
  grind [leaveWait_mem, trap_mem]

@[simp] theorem vectorFetch_mem (s : State) (h : HartId) (failed : Bool) : (s.vectorFetch h failed).mem = s.mem := by
  unfold State.vectorFetch
  grind [coreFatal_mem]

theorem execScoreTrapEntry_mem {h : HartId} {cause : Option (Fin 64)} {tval : Word} {vectorFault : Bool} {s s' : State}
    (hr : execScoreTrapEntry h cause tval vectorFault s = .next s') :
    s'.mem = s.mem := by
  unfold execScoreTrapEntry at hr
  grind [vectorFetch_mem, leaveWait_mem, trap_mem]

theorem execLateArrivalTakeover_mem {h : HartId} {s s' : State} (hr : execLateArrivalTakeover h s = .next s') : s'.mem = s.mem := by
  unfold execLateArrivalTakeover at hr
  grind [setHart_mem, event_mem]

/-! ### Machine/Walk.lean -/

@[simp] theorem writeLine_mem (s : State) (h : HartId) (la : Nat) (data : Line) (mask : LineMask) (token : Bool) :
    (s.writeLine h la data mask token).mem = s.mem := by simp [State.writeLine, ite_mem]

theorem tokenFor_mem {s : State} {agent la : Nat} {dirty held : Bool} {r : State × Bool × Bool}
    (hr : s.tokenFor agent la dirty held = some r) :
    r.1.mem = s.mem := by
  unfold State.tokenFor at hr
  grind [takeToken_mem, setL3_mem, TokenTake.memIs]

@[simp] theorem fenceDone_mem (s : State) (h : HartId) (addr : Bool) (f : Hart → Hart) : (s.fenceDone h addr f).mem = s.mem := by
  simp [State.fenceDone]

/-! ### Machine/Access.lean -/

@[simp] theorem waits_mem (s : State) (h : HartId) : (s.waits h).mem = s.mem := by simp [State.waits, ite_mem]
@[simp] theorem waitsMiss_mem (s : State) (h : HartId) : (s.waitsMiss h).mem = s.mem := by simp [State.waitsMiss, ite_mem]
@[simp] theorem writeFail_mem (s : State) (h : HartId) (pa sts n : Nat) : (s.writeFail h pa sts n).mem = s.mem := by simp [State.writeFail]
@[simp] theorem trainL1_mem (s : State) (h : HartId) (pc : Word) (la : Nat) : (s.trainL1 h pc la).mem = s.mem := by
  unfold State.trainL1
  dsimp only
  rw [ite_mem, ite_mem, foldl_mem fun u ln => prefetchD_mem u h ln]
  simp

@[simp] theorem trainL2_mem (s : State) (h : HartId) (ln : Nat) (own : Bool) : (s.trainL2 h ln own).mem = s.mem := by
  unfold State.trainL2
  dsimp only
  rw [ite_mem, ite_mem, foldl_mem fun u ln => prefetch_mem u _ _ _]
  simp [ite_mem]

@[simp] theorem trainLoad_mem (s : State) (h : HartId) (pc : Word) (ps : List Part) : (s.trainLoad h pc ps).mem = s.mem := by
  unfold State.trainLoad
  dsimp only
  rw [foldl_mem fun u ln => by simp [ite_mem]]
  split <;> simp [ite_mem]

@[simp] theorem issueRead_mem (s : State) (h : HartId) (q : Part) (dest : UDest) (len : Nat) (op : MsgOp) (edit : Flit → Flit) :
    (s.issueRead h q dest len op edit).1.mem = s.mem := by
  unfold State.issueRead
  grind [setHart_mem, send_mem]

@[simp] theorem sendHeld_mem (s : State) (h : HartId) : (s.sendHeld h).mem = s.mem := by
  unfold State.sendHeld
  grind [setHart_mem, send_mem]

@[simp] theorem issueReads_mem (s : State) (h : HartId) (dest : UDest) (len : Nat) (l : List Part) :
    (s.issueReads h dest len l).1.mem = s.mem := by
  induction l generalizing s with
  | nil => rfl
  | cons q l ih => rw [State.issueReads]; grind [issueRead_mem]

@[simp] theorem endDbg_mem (s : State) (h : HartId) (o n : Nat) (ok : Bool) : (s.endDbg h o n ok).mem = s.mem := by simp [State.endDbg]
@[simp] theorem endFailed_mem (s : State) (h : HartId) (d : UDest) (cause : Nat) (va : Word) : (s.endFailed h d cause va).mem = s.mem := by
  unfold State.endFailed
  grind [endDbg_mem, trap_mem]

@[simp] theorem endUload_mem (s : State) (h : HartId) (dest : UDest) (len : Nat) : (s.endUload h dest len).mem = s.mem := by
  unfold State.endUload
  grind [retire_mem, updHart_mem, endDbg_mem, trap_mem]

@[simp] theorem issuePair_mem (s : State) (h : HartId) (dest : UDest) (len : Nat) (l : List Part) :
    (s.issuePair h dest len l).mem = s.mem := by
  induction l generalizing s with
  | nil => rfl
  | cons q l ih => rw [State.issuePair]; grind [issueRead_mem, takeWord_mem, writeFail_mem, updHart_mem]

@[simp] theorem startRead_mem (s : State) (h : HartId) (dest : UDest) (len : Nat) (parts : List Part) :
    (s.startRead h dest len parts).mem = s.mem := by
  unfold State.startRead
  grind [waits_mem, updHart_mem, endUload_mem, issuePair_mem, issueReads_mem, endFailed_mem, readFail_mem]

@[simp] theorem endPart_mem (s : State) (h : HartId) (u : ULoad) (sts : Nat) (unknown poison : Bool) (data : Line) :
    (s.endPart h u sts unknown poison data).mem = s.mem := by
  unfold State.endPart
  grind [sendHeld_mem, updHart_mem, endUload_mem, takeWord_mem, poisonUsed_mem, endFailed_mem, readFail_mem, writeFail_mem]

/-! ### Machine/LoadStore.lean -/

@[simp] theorem storeAhead_mem (s : State) (h : HartId) (a : Ahead) : (s.storeAhead h a).mem = s.mem := by
  unfold State.storeAhead
  dsimp only
  repeat' split
  · rfl
  · rfl
  · exact foldl_mem (fun u q => by simp [ite_mem]) _ s
  · rfl

@[simp] theorem orderCheck_mem (s : State) (h : HartId) (e : SbEntry) : (s.orderCheck h e).mem = s.mem := by
  unfold State.orderCheck
  grind [updHart_mem, event_mem]

@[simp] theorem enterStores_mem (s : State) (h : HartId) (es : List SbEntry) (done : State → State) (hdone : ∀ u, (done u).mem = u.mem) :
    (s.enterStores h es done).mem = s.mem := by
  unfold State.enterStores
  dsimp only
  split
  · simp
  · rw [hdone, foldl_mem fun u e => orderCheck_mem u h e, setHart_mem]

@[simp] theorem storeParts_mem (s : State) (h : HartId) (v len : Nat) (zero : Bool) (ps : List Part) :
    (s.storeParts h v len zero ps).mem = s.mem := by simp [State.storeParts]

@[simp] theorem putStream_mem (s : State) (e : Stream) : (s.putStream e).mem = s.mem := by simp [State.putStream]
@[simp] theorem dropStream_mem (s : State) (a k : Nat) : (s.dropStream a k).mem = s.mem := by simp [State.dropStream]
@[simp] theorem trainStream_mem (s : State) (h : HartId) (ln : Nat) (m : LineMask) : (s.trainStream h ln m).mem = s.mem := by
  unfold State.trainStream
  grind [putStream_mem, event_mem]

theorem execStreamEndTimeout_mem {h : HartId} {k : Fin 8} {s s' : State} (hr : execStreamEndTimeout h k s = .next s') : s'.mem = s.mem := by
  unfold execStreamEndTimeout at hr
  grind [updHart_mem, dropStream_mem]

theorem own_mem {s : State} {h : HartId} {ln : Nat} {m : LineMask} {claim : Bool} {s' : State} (hr : s.own h ln m claim = some s') : s'.mem = s.mem := by
  unfold State.own at hr
  grind [demand_mem]

theorem dirty_mem {s : State} {h : HartId} {la : Nat} {data : Line} {m : LineMask} {held : Bool} {s' : State}
    (hr : s.dirty h la data m held = some s') :
    s'.mem = s.mem := by
  unfold State.dirty at hr
  dsimp only at hr
  split at hr
  · cases hr
  · next u tok keep hu =>
    cases hr
    simpa [ite_mem] using tokenFor_mem hu

@[simp] theorem drainCached_mem (s : State) (h : HartId) (e : SbEntry) (p : SbPart) : (s.drainCached h e p).mem = s.mem := by
  unfold State.drainCached
  grind [endMshr_mem, dirty_mem, updHart_mem, own_mem, trainL2_mem, trainStream_mem, writeFail_mem]

@[simp] theorem drainUncached_mem (s : State) (h : HartId) (e : SbEntry) (p : SbPart) : (s.drainUncached h e p).mem = s.mem := by
  unfold State.drainUncached
  grind [updHart_mem, writeFail_mem, send_mem]

@[simp] theorem atomicFar_mem (s : State) (h : HartId) (p : Part) (dest : UDest) (edit : Flit → Flit) :
    (s.atomicFar h p dest edit).mem = s.mem := by
  unfold State.atomicFar
  grind [waits_mem, updHart_mem, endUload_mem, issueRead_mem, readFail_mem, trap_mem]

theorem execLrDeferralExpiry_mem {h : HartId} {s s' : State} (hr : execLrDeferralExpiry h s = .next s') : s'.mem = s.mem := by
  unfold execLrDeferralExpiry at hr
  grind [updHart_mem]

/-! ### Machine/Order.lean -/

@[simp] theorem fenceOr_mem (s : State) (h : HartId) (w : FenceWait) : (s.fenceOr h w).mem = s.mem := by simp [State.fenceOr, ite_mem]
theorem execFenceWaitEnd_mem {h : HartId} {s s' : State} (hr : execFenceWaitEnd h s = .next s') : s'.mem = s.mem := by
  unfold execFenceWaitEnd at hr
  grind [retire_mem, setHart_mem]

@[simp] theorem cboLine_mem (s : State) (h : HartId) (rs1 : Fin 32) (op : MsgOp) : (s.cboLine h rs1 op).mem = s.mem := by
  unfold State.cboLine
  grind [retire_mem, sendClean_mem, waits_mem, updHart_mem, tlbMiss_mem, trap_mem]

@[simp] theorem drainLines_mem (s : State) (h : HartId) (p : Nat → CLine → Bool) (kind : Nat) : (s.drainLines h p kind).mem = s.mem := by
  unfold State.drainLines
  dsimp only
  split
  · simp
  · rw [ite_mem, pump_mem, foldl_mem fun u ln => updHart_mem ..]
    simp

@[simp] theorem lateResponse_mem (s : State) (n : Node) (pa : Nat) : (s.lateResponse n pa).mem = s.mem := by simp [State.lateResponse]
@[simp] theorem writeTimeout_mem (s : State) (h : HartId) (w : UWrite) :
    (s.writeTimeout h w).mem = s.mem := by simp [State.writeTimeout, ite_mem]

@[simp] theorem hartTimeout_mem (s : State) (h : HartId) (tag : Nat) : (s.hartTimeout h tag).mem = s.mem := by
  unfold State.hartTimeout
  grind [updHart_mem, endPart_mem, writeTimeout_mem, passTo_mem]

@[simp] theorem hartAnswer_mem (s : State) (h : HartId) (f : Flit) : (s.hartAnswer h f).mem = s.mem := by
  unfold State.hartAnswer
  grind [setHart_mem, endPart_mem, lateResponse_mem, writeFail_mem]

theorem execEwaEndpointFailure_mem {stop req : Node} {a : Pa} {sts : BitVec 8} {s s' : State}
    (hr : execEwaEndpointFailure stop req a sts s = .next s') :
    s'.mem = s.mem := by
  unfold execEwaEndpointFailure at hr
  grind [passTo_mem, ewaFail_mem]

/-! ### Machine/Graop.lean -/

@[simp] theorem updLink_mem (s : State) (l : Nat) (f : Link → Link) : (s.updLink l f).mem = s.mem := by simp [State.updLink]
@[simp] theorem linkErr_mem (s : State) (l lost : Nat) : (s.linkErr l lost).mem = s.mem := by simp [State.linkErr]
@[simp] theorem routesChanged_mem (s : State) (n : Nat) : (s.routesChanged n).mem = s.mem := by simp [State.routesChanged, ite_mem]
@[simp] theorem enqueue_mem (s : State) (l : Nat) (p : Pkt) : (s.enqueue l p).mem = s.mem := by simp [State.enqueue]
@[simp] theorem tellNeighbours_mem (s : State) (op : PktOp) (us : List RouteUnit) (skip : Option (Fin 8)) :
    (s.tellNeighbours op us skip).mem = s.mem := by
  unfold State.tellNeighbours
  split
  · rfl
  · refine foldl_mem (fun u g => ?_) _ s
    split
    · rfl
    · split
      · exact foldl_mem (fun v w => enqueue_mem ..) _ u
      · rfl

@[simp] theorem advertise_mem (s : State) (skip : Option (Fin 8)) : (s.advertise skip).mem = s.mem := by simp [State.advertise]
@[simp] theorem chooseParent_mem (s : State) : (s.chooseParent).mem = s.mem := by
  unfold State.chooseParent
  dsimp only
  split
  · simp [ite_mem, foldl_mem fun (u : State) (l : Nat) => updLink_mem u l _]
  · exact foldl_mem (fun u l => updLink_mem u l _) _ s

theorem forward_mem {s : State} {p : Pkt} {s' : State} (hr : s.forward p = some s') : s'.mem = s.mem := by
  unfold State.forward at hr
  grind [enqueue_mem]

@[simp] theorem homeward_mem (s : State) (l : Nat) (p : Pkt) : (s.homeward l p).mem = s.mem := by
  unfold State.homeward
  grind [lateResponse_mem, send_mem]

@[simp] theorem noRoute_mem (s : State) (l : Nat) (p : Pkt) : (s.noRoute l p).mem = s.mem := by
  unfold State.noRoute
  split
  · rfl
  · split
    · simp
    · exact getD_mem forward_mem rfl

@[simp] theorem reroute_mem (s : State) (l : Nat) (g : Fin 8) : (s.reroute l g).mem = s.mem := by
  unfold State.reroute
  dsimp only
  rw [chooseParent_mem]
  refine (foldl_mem (fun u p => by grind [forward_mem, noRoute_mem]) _ _).trans ?_
  rw [updLink_mem]
  split
  · rfl
  · split
    · rw [advertise_mem, routesChanged_mem]
      exact foldl_mem (fun v x => setRoute_mem ..) _ s
    · rw [tellNeighbours_mem, routesChanged_mem]
      exact foldl_mem (fun v x => setRoute_mem ..) _ s

@[simp] theorem countLink_mem (s : State) (l code n : Nat) : (s.countLink l code n).mem = s.mem := by simp [State.countLink]
@[simp] theorem putLink_mem (s : State) (l : Nat) (k : Link) : (s.putLink l k).mem = s.mem := by simp [State.putLink]
@[simp] theorem countPkts_mem (s : State) (l code : Nat) (ps : List Pkt) : (s.countPkts l code ps).mem = s.mem := by
  induction ps generalizing s with
  | nil => rfl
  | cons p ps ih => rw [State.countPkts, ih, count_mem]

theorem execLinkFrameSend_mem {l : Fin 8} {s s' : State} (hr : execLinkFrameSend l s = .next s') : s'.mem = s.mem := by
  cases hr
  split
  · rfl
  · dsimp only
    split
    · simp
    · split
      · simp
      · split <;> simp

theorem execDataFrame_mem {l : Fin 8} {seq ack : Fin 4096} {nak crcErr : Bool} {symErrs : Fin 225} {cvc : Fin 8 × Fin 8} {ccnt : Fin 256 × Fin 256} {pkts : List (Pkt × Fin 16)} {s s' : State}
    (hr : execDataFrame l seq ack nak crcErr symErrs cvc ccnt pkts s = .next s') :
    s'.mem = s.mem := by
  unfold execDataFrame at hr
  grind [logCe_mem, putLink_mem, linkErr_mem]

theorem execIdleFrame_mem {l : Fin 8} {ack : Fin 4096} {nak : Bool} {cvc0 : Fin 8} {ccnt0 : Fin 256} {cvc1 : Fin 8} {ccnt1 : Fin 256} {s s' : State}
    (hr : execIdleFrame l ack nak cvc0 ccnt0 cvc1 ccnt1 s = .next s') :
    s'.mem = s.mem := by
  unfold execIdleFrame at hr
  grind [putLink_mem]

theorem execTrainFrame_mem {l : Fin 8} {s s' : State} (hr : execTrainFrame l s = .next s') : s'.mem = s.mem := by
  unfold execTrainFrame at hr
  grind

theorem execSyncSend_mem {l : Fin 8} {s s' : State} (hr : execSyncSend l s = .next s') : s'.mem = s.mem := by
  unfold execSyncSend at hr
  grind

theorem execSyncFrame_mem {l : Fin 8} {sent peerSent peerArrived : Word} {s s' : State}
    (hr : execSyncFrame l sent peerSent peerArrived s = .next s') :
    s'.mem = s.mem := by
  unfold execSyncFrame at hr
  grind [setLink_mem]

theorem execFrameLockLost_mem {l : Fin 8} {s s' : State} (hr : execFrameLockLost l s = .next s') : s'.mem = s.mem := by
  unfold execFrameLockLost at hr
  grind [putLink_mem]

@[simp] theorem linkGoesDown_mem (s : State) (l cause : Nat) : (s.linkGoesDown l cause).mem = s.mem := by simp [State.linkGoesDown]
theorem execLinkRecoveryDone_mem {l : Fin 8} {how : RecEnd} {s s' : State} (hr : execLinkRecoveryDone l how s = .next s') : s'.mem = s.mem := by
  unfold execLinkRecoveryDone at hr
  grind [setLink_mem, linkGoesDown_mem]

theorem execLinkDown_mem {l : Fin 8} {s s' : State} (hr : execLinkDown l s = .next s') : s'.mem = s.mem := by
  unfold execLinkDown at hr
  grind [linkGoesDown_mem]

@[simp] theorem leaveGroup_mem (s : State) (l : Nat) : (s.leaveGroup l).mem = s.mem := by
  unfold State.leaveGroup
  grind [reroute_mem, updLink_mem]

theorem execLinkRemoveFromGroup_mem {l : Fin 8} {s s' : State} (hr : execLinkRemoveFromGroup l s = .next s') : s'.mem = s.mem := by
  unfold execLinkRemoveFromGroup at hr
  grind [leaveGroup_mem]

@[simp] theorem takePkt_mem (s : State) (l : Nat) (p : Pkt) : (s.takePkt l p).mem = s.mem := by simp [State.takePkt]
@[simp] theorem transit_mem (s : State) (l : Nat) (p : Pkt) : (s.transit l p).mem = s.mem := by
  unfold State.transit
  grind [noRoute_mem, takePkt_mem, forward_mem, count_mem, linkErr_mem]

@[simp] theorem refusePkt_mem (s : State) (p : Pkt) (sts : Nat) : (s.refusePkt p sts).mem = s.mem := getD_mem forward_mem rfl
@[simp] theorem atHome_mem (s : State) (l : Nat) (p : Pkt) (op : MsgOp) : (s.atHome l p op).mem = s.mem := by
  exact atHome_cases (P := fun t => t.mem = s.mem) rfl (by simp) (fun _ => by simp)
    (getD_mem (fun hr => (forward_mem hr).trans (takePkt_mem ..)) rfl) fun _ _ => (send_mem ..).trans (takePkt_mem s l p)

@[simp] theorem reqPkt_mem (s : State) (l : Nat) (p : Pkt) (op : MsgOp) : (s.reqPkt l p op).mem = s.mem := by simp [State.reqPkt, ite_mem]
@[simp] theorem respPkt_mem (s : State) (l : Nat) (p : Pkt) : (s.respPkt l p).mem = s.mem := by simp [State.respPkt, ite_mem]
theorem execRdNc_mem {l : Fin 8} {p : Pkt} {s s' : State} (hr : execRdNc l p s = .next s') : s'.mem = s.mem := by
  unfold execRdNc at hr
  grind [reqPkt_mem]

theorem execWrNc_mem {l : Fin 8} {p : Pkt} {s s' : State} (hr : execWrNc l p s = .next s') : s'.mem = s.mem := by
  unfold execWrNc at hr
  grind [reqPkt_mem]

theorem execAtomNc_mem {l : Fin 8} {p : Pkt} {s s' : State} (hr : execAtomNc l p s = .next s') : s'.mem = s.mem := by
  unfold execAtomNc at hr
  grind [reqPkt_mem]

theorem execBlkRd_mem {l : Fin 8} {p : Pkt} {s s' : State} (hr : execBlkRd l p s = .next s') : s'.mem = s.mem := by
  unfold execBlkRd at hr
  grind [reqPkt_mem]

theorem execBlkWr_mem {l : Fin 8} {p : Pkt} {s s' : State} (hr : execBlkWr l p s = .next s') : s'.mem = s.mem := by
  unfold execBlkWr at hr
  grind [reqPkt_mem]

theorem execRdData_mem {l : Fin 8} {p : Pkt} {s s' : State} (hr : execRdData l p s = .next s') : s'.mem = s.mem := by
  unfold execRdData at hr
  grind [respPkt_mem]

theorem execWrAck_mem {l : Fin 8} {p : Pkt} {s s' : State} (hr : execWrAck l p s = .next s') : s'.mem = s.mem := by
  unfold execWrAck at hr
  grind [respPkt_mem]

theorem execAtomData_mem {l : Fin 8} {p : Pkt} {s s' : State} (hr : execAtomData l p s = .next s') : s'.mem = s.mem := by
  unfold execAtomData at hr
  grind [respPkt_mem]

theorem execErrResp_mem {l : Fin 8} {p : Pkt} {s s' : State} (hr : execErrResp l p s = .next s') : s'.mem = s.mem := by
  unfold execErrResp at hr
  grind [respPkt_mem]

@[simp] theorem atLink_mem (s : State) (l : Nat) (f : Flit) : (s.atLink l f).mem = s.mem := by
  unfold State.atLink
  grind [enqueue_mem, accept_mem]

@[simp] theorem homeAnswer_mem (s : State) (l : Nat) (f : Flit) : (s.homeAnswer l f).mem = s.mem := by
  unfold State.homeAnswer
  split
  · simp
  · exact getD_mem (fun hr => (forward_mem hr).trans rfl) rfl

@[simp] theorem takeMgt_mem (s : State) (l : Nat) (op : PktOp) : (s.takeMgt l op).mem = s.mem := by
  unfold State.takeMgt
  grind [takePkt_mem]

theorem execRouteWithdraw_mem {l : Fin 8} {us : List RouteUnit} {s s' : State} (hr : execRouteWithdraw l us s = .next s') : s'.mem = s.mem := by
  cases hr
  split
  · simp
  · dsimp only
    rw [ite_mem, chooseParent_mem, tellNeighbours_mem, routesChanged_mem, foldl_mem fun u x => setRoute_mem ..]
    simp

theorem execLinkNotice_mem {l : Fin 8} {s s' : State} (hr : execLinkNotice l s = .next s') : s'.mem = s.mem := by
  unfold execLinkNotice at hr
  grind [takeMgt_mem, leaveGroup_mem, updLink_mem]

theorem execTagEntryTimeout_mem {l : Fin 8} {k : Fin 4096} {s s' : State} (hr : execTagEntryTimeout l k s = .next s') : s'.mem = s.mem := by
  unfold execTagEntryTimeout at hr
  grind [passTo_mem]

@[simp] theorem glInjWrite_mem (s : State) (l : Nat) (v : BitVec 32) : (s.glInjWrite l v).mem = s.mem := by simp [State.glInjWrite]

/-! ### Machine/Level.lean -/

@[simp] theorem setLevel_mem (s : State) (l : Fin 4) (inst : Nat) : (s.setLevel l inst).mem = s.mem := by
  unfold State.setLevel
  dsimp only
  rw [foldl_mem fun u h => updHart_mem u h _]
  simp [ite_mem]

/-! ### Machine/Direct.lean -/

@[simp] theorem mapFlits_mem (s : State) (g : Flit → Flit) : (s.mapFlits g).mem = s.mem := by simp [State.mapFlits]
@[simp] theorem pokeCopies_mem (s : State) (ln : Nat) (d : Line) (m : LineMask) : (s.pokeCopies ln d m).mem = s.mem := by
  unfold State.pokeCopies
  dsimp only
  simp only [setCoh_mem, mapFlits_mem, ite_mem, setL3_mem, ite_self]
  exact foldl_mem (fun u a => setL2_mem u _ _ _) _ s

/-! ### Machine/Iommu.lean -/

@[simp] theorem updIommu_mem (s : State) (e : Nat) (f : Iommu → Iommu) : (s.updIommu e f).mem = s.mem := by simp [State.updIommu]
@[simp] theorem iommuMsi_mem (s : State) (e v : Nat) : (s.iommuMsi e v).mem = s.mem := by
  unfold State.iommuMsi
  grind [send_mem]

@[simp] theorem iommuIrq_mem (s : State) (e i : Nat) : (s.iommuIrq e i).mem = s.mem := by simp [State.iommuIrq, ite_mem]
@[simp] theorem faultSend_mem (s : State) (e : Nat) : (s.faultSend e).mem = s.mem := by
  unfold State.faultSend
  grind [iommuIrq_mem, setIommu_mem, send_mem]

@[simp] theorem faultRecord_mem (s : State) (e : Nat) (f : IoFault) (did : Nat) (pid : Option Nat) (write : Bool) (iova : Word) :
    (s.faultRecord e f did pid write iova).mem = s.mem := by simp [State.faultRecord, ite_mem]

@[simp] theorem faultWritten_mem (s : State) (e : Nat) (ok : Bool) : (s.faultWritten e ok).mem = s.mem := by
  unfold State.faultWritten
  grind [iommuIrq_mem, setIommu_mem, faultSend_mem, count_mem]

@[simp] theorem ioStep_mem (s : State) (cx : IoCx) (conv : IoConv) (k : IoStage) (w : Bool) (top ppn l : Nat) (hconv : ∀ u a b, (conv u a b).memIs u.mem) :
    (s.ioStep cx conv k w top ppn l).memIs s.mem := by
  unfold State.ioStep
  dsimp only
  have hc := hconv s (pteAddr ppn k.va l (k.rg == .g && l == top)) false
  grind [IoStep.memIs, IoWalk.memIs, IoAddr.memIs, updIommu_mem]

@[simp] theorem ioWalk_mem (s : State) (cx : IoCx) (conv : IoConv) (k : IoStage) (w : Bool) (top ppn n : Nat) (hconv : ∀ u a b, (conv u a b).memIs u.mem) :
    (s.ioWalk cx conv k w top ppn n).memIs s.mem := by
  induction n generalizing s ppn with
  | zero => rw [State.ioWalk]; grind [IoWalk.memIs, IoStep.memIs, ioStep_mem]
  | succ n ih => rw [State.ioWalk]; grind [IoWalk.memIs, IoStep.memIs, ioStep_mem]

@[simp] theorem ioG_mem (s : State) (cx : IoCx) (hg : Word) (gade : Bool) (gpa : Nat) (write w implicit : Bool) :
    (s.ioG cx hg gade gpa write w implicit).memIs s.mem := by
  unfold State.ioG
  dsimp only
  have hw := fun k => ioWalk_mem s cx (fun s a _ => .ok s a) k w (atpLevels hg - 1) (atpPpn hg) (atpLevels hg - 1) (fun _ _ _ => rfl)
  grind [IoG.memIs, IoWalk.memIs]

@[simp] theorem ioCount_mem (s : State) (e ev did : Nat) : (s.ioCount e ev did).mem = s.mem := foldl_mem (fun u k => by simp [ite_mem]) _ s
@[simp] theorem ddtWalk_mem (s : State) (cx : IoCx) (did ppn n : Nat) : (s.ddtWalk cx did ppn n).memIs s.mem := by
  induction n generalizing s ppn with
  | zero => rw [State.ddtWalk]; grind [IoCtx.memIs]
  | succ n ih => rw [State.ddtWalk]; grind [IoCtx.memIs]

@[simp] theorem ioContext_mem (s : State) (cx : IoCx) (did : Nat) : (s.ioContext cx did).memIs s.mem := by
  unfold State.ioContext
  grind [ioCount_mem, updIommu_mem, ddtWalk_mem, IoCtx.memIs]

@[simp] theorem pdtWalk_mem (s : State) (cx : IoCx) (hg : Word) (gade write : Bool) (pid ppn n : Nat) :
    (s.pdtWalk cx hg gade write pid ppn n).memIs s.mem := by
  induction n generalizing s ppn with
  | zero => rw [State.pdtWalk]; grind [IoG.memIs, IoPc.memIs, ioG_mem]
  | succ n ih => rw [State.pdtWalk]; grind [IoG.memIs, IoPc.memIs, ioG_mem]

@[simp] theorem msiPte_mem (s : State) (cx : IoCx) (dc : BitVec 512) (gpa : Nat) (quiet : Bool) :
    (s.msiPte cx dc gpa quiet).memIs s.mem := by
  unfold State.msiPte
  grind [IoRes.memIs]

@[simp] theorem ioStages_mem (s : State) (cx : IoCx) (did : Nat) (dc : BitVec 512) (atp : Word) (pscid iova : Nat) (write : Bool) :
    (s.ioStages cx did dc atp pscid iova write).memIs s.mem := by
  unfold State.ioStages
  dsimp only
  split
  · rfl
  generalize hu : (if atpLevels (dcWord dc 1) = 0 then _ else _ : State) = u
  have hu' : u.mem = s.mem := hu ▸ by simp [ite_mem]
  clear hu
  rw [← hu']
  split
  · grind [IoRes.memIs, IoG.memIs, msiPte_mem, ioG_mem, updIommu_mem]
  split
  · rfl
  split <;> rename_i e <;>
    have hk := (congrArg (IoWalk.memIs u.mem) e).mp (ioWalk_mem u cx _ _ _ _ _ _ fun v a x => by grind [IoG.memIs, IoAddr.memIs, ioG_mem])
  · trivial
  · exact hk
  · rename_i v p l
    change v.mem = u.mem at hk
    rw [← hk]
    grind [IoRes.memIs, IoG.memIs, msiPte_mem, ioG_mem, updIommu_mem]

@[simp] theorem ioTranslate_mem (s : State) (cx : IoCx) (did : Nat) (pid : Option Nat) (iova : Nat) (write : Bool) :
    (s.ioTranslate cx did pid iova write).memIs s.mem := by
  have hc := ioContext_mem s cx did
  unfold State.ioTranslate
  dsimp only
  cases hs : s.ioContext cx did with
  | wait n => trivial
  | fault u f => rw [hs] at hc; exact hc
  | bare u => rw [hs] at hc; dsimp only; repeat' split
              all_goals exact hc
  | ok u dc =>
    rw [hs] at hc
    change u.mem = s.mem at hc
    rw [← hc]
    dsimp only
    grind [IoRes.memIs, IoPc.memIs, ioStages_mem, ioCount_mem, pdtWalk_mem, updIommu_mem]

@[simp] theorem ioWalkRec_mem (s : State) (e : Nat) (f : IoFault) (req : Node) (tag iova : Nat) :
    (s.ioWalkRec e f req tag iova).mem = s.mem := by
  unfold State.ioWalkRec
  grind [logErr_mem]

@[simp] theorem walkAsk_mem (s : State) (e tag : Nat) (n : IoNeed) : (s.walkAsk e tag n).mem = s.mem :=
  walkAsk_cases (P := fun t => t.mem = s.mem) rfl (fun _ => rfl) e tag n

@[simp] theorem debugDone_mem (s : State) (e : Nat) (w : Word) : (s.debugDone e w).mem = s.mem := by simp [State.debugDone]
@[simp] theorem walkRun_mem (s : State) (e : Nat) (w : IoWalker) : (s.walkRun e w).mem = s.mem := by
  unfold State.walkRun
  grind [debugDone_mem, ioTranslate_mem, walkAsk_mem, updIommu_mem, IoRes.memIs]

@[simp] theorem walkStart_mem (s : State) (e : Nat) (req : Option IoReq) (iova : Word) (write guar : Bool) (n : IoNeed) :
    (s.walkStart e req iova write guar n).mem = s.mem := by
  unfold State.walkStart
  grind [setIommu_mem, walkAsk_mem]

@[simp] theorem ioAnswer_mem (s : State) (e : Nat) (f : Flit) : (s.ioAnswer e f).mem = s.mem := by
  unfold State.ioAnswer
  grind [faultWritten_mem, walkRun_mem]

@[simp] theorem refuse_mem (s : State) (e : Nat) (r : IoReq) (iova : Word) (write : Bool) (tag : Nat) (f : IoFault) :
    (s.refuse e r iova write tag f).mem = s.mem := by simp [State.refuse, ite_mem]

@[simp] theorem inbound_mem (s : State) (e : Nat) (r : IoReq) (iova : Word) (write : Bool) (tag : Nat) :
    (s.inbound e r iova write tag).memIs s.mem := by
  unfold State.inbound
  grind [refuse_mem, walkStart_mem, ioTranslate_mem, ioCount_mem, count_mem, IoGo.memIs, IoRes.memIs]

@[simp] theorem ioTaken_mem (s : State) (e : Nat) (r : IoReq) : (s.ioTaken e r).mem = s.mem := by simp [State.ioTaken]
theorem execIommuTranslate_mem {e : Fin 2} {r : IoReq} {iova : Word} {write : Bool} {size : Nat} {s s' : State}
    (hr : execIommuTranslate e r iova write size s = .next s') :
    s'.mem = s.mem := by
  have hi := fun (u : State) (v : Word) => inbound_mem u e.val r v write 0
  cases hr
  grind [IoGo.memIs, ioTaken_mem]

@[simp] theorem ioBegin_mem (s : State) (e tag : Nat) (write : Bool) (pa deadline : Nat) :
    (s.ioBegin e tag write pa deadline).mem = s.mem := by
  simp [State.ioBegin]

@[simp] theorem ioEnd_mem (s : State) (e tag : Nat) : (s.ioEnd e tag).mem = s.mem := by simp [State.ioEnd]
@[simp] theorem cmdIllegal_mem (s : State) (e : Nat) : (s.cmdIllegal e).mem = s.mem := by simp [State.cmdIllegal, ite_mem]
@[simp] theorem iommuCmd_mem (s : State) (e : Nat) (legal : Bool) (f : Iommu → Iommu) : (s.iommuCmd e legal f).mem = s.mem := by
  simp [State.iommuCmd, ite_mem]

theorem execIotinvalVma_mem {e : Fin 2} {addr : Option Word} {gscid : Option (BitVec 16)} {pscid : Option (BitVec 20)} {s s' : State}
    (hr : execIotinvalVma e addr gscid pscid s = .next s') :
    s'.mem = s.mem := by
  unfold execIotinvalVma at hr
  grind [iommuCmd_mem]

theorem execIotinvalGvma_mem {e : Fin 2} {addr : Option Word} {gscid : Option (BitVec 16)} {pscid : Option (BitVec 20)} {s s' : State}
    (hr : execIotinvalGvma e addr gscid pscid s = .next s') :
    s'.mem = s.mem := by
  unfold execIotinvalGvma at hr
  grind [iommuCmd_mem]

theorem execIodirInvalDdt_mem {e : Fin 2} {did : Option (BitVec 24)} {s s' : State} (hr : execIodirInvalDdt e did s = .next s') : s'.mem = s.mem := by
  unfold execIodirInvalDdt at hr
  grind [iommuCmd_mem]

theorem execIodirInvalPdt_mem {e : Fin 2} {did : BitVec 24} {pid : BitVec 20} {s s' : State}
    (hr : execIodirInvalPdt e did pid s = .next s') :
    s'.mem = s.mem := by
  unfold execIodirInvalPdt at hr
  grind [iommuCmd_mem]

theorem execIofenceC_mem {e : Fin 2} {av pr pw wsi : Bool} {addr : Pa} {data : BitVec 32} {s s' : State}
    (hr : execIofenceC e av pr pw wsi addr data s = .next s') :
    s'.mem = s.mem := by
  unfold execIofenceC at hr
  grind [cmdIllegal_mem, setIommu_mem]

theorem execIofenceCComplete_mem {e : Fin 2} {s s' : State} (hr : execIofenceCComplete e s = .next s') : s'.mem = s.mem := by
  unfold execIofenceCComplete at hr
  grind [iommuIrq_mem, setIommu_mem, updIommu_mem, send_mem]

@[simp] theorem iommuDebug_mem (s : State) (e : Nat) (ctl : Word) : (s.iommuDebug e ctl).mem = s.mem := by
  unfold State.iommuDebug
  grind [walkStart_mem, debugDone_mem, ioTranslate_mem, IoRes.memIs]

@[simp] theorem iommuWrite_mem (s : State) (e off : Nat) (v : Word) : (s.iommuWrite e off v).mem = s.mem := by
  unfold State.iommuWrite
  grind [iommuDebug_mem, iommuMsi_mem, setIommu_mem]

/-! ### Machine/Who.lean -/

@[simp] theorem writeIgnored_mem (s : State) (r : DevReg) (la : Nat) (n : Node) (who : Master) :
    (s.writeIgnored r la n who).mem = s.mem := by
  simp [State.writeIgnored]

/-! ### Machine/Engine.lean -/

@[simp] theorem updDma_mem (s : State) (c : Nat) (f : Dma → Dma) : (s.updDma c f).mem = s.mem := by simp [State.updDma]
@[simp] theorem updInstance_mem (s : State) (i : Nat) (f : Instance → Instance) : (s.updInstance i f).mem = s.mem := by
  simp [State.updInstance]

@[simp] theorem dmaError_mem (s : State) (c code : Nat) (dsc : Bool) : (s.dmaError c code dsc).mem = s.mem := by
  unfold State.dmaError
  grind [pulse_mem, setDma_mem, setInstance_mem]

@[simp] theorem completeSets_mem (s : State) (c n : Nat) : (s.completeSets c n).mem = s.mem := by
  induction n generalizing s with
  | zero => rfl
  | succ n ih => rw [State.completeSets]; grind [pulse_mem, setDma_mem]

@[simp] theorem dmaSettle_mem (s : State) (c : Nat) : (s.dmaSettle c).mem = s.mem := by
  unfold State.dmaSettle
  grind [dmaError_mem, setDma_mem, completeSets_mem]

@[simp] theorem dmaFail_mem (s : State) (c code : Nat) (va : Word) : (s.dmaFail c code va).mem = s.mem := by simp [State.dmaFail, ite_mem]
@[simp] theorem dmaAbort_mem (s : State) (c : Nat) : (s.dmaAbort c).mem = s.mem := by simp [State.dmaAbort]
@[simp] theorem dmaStart_mem (s : State) (c : Nat) : (s.dmaStart c).mem = s.mem := by simp [State.dmaStart, ite_mem]
@[simp] theorem dmaClear_mem (s : State) (c : Nat) : (s.dmaClear c).mem = s.mem := by simp [State.dmaClear, ite_mem]
@[simp] theorem dmaPulse_mem (s : State) (c : Nat) : (s.dmaPulse c).mem = s.mem := by simp [State.dmaPulse, ite_mem]
theorem execChannelSetLoad_mem {c : Fin 64} {s s' : State} (hr : execChannelSetLoad c s = .next s') : s'.mem = s.mem := by
  unfold execChannelSetLoad at hr
  grind [setDma_mem, dmaSettle_mem]

@[simp] theorem dmaAddr_mem (s : State) (c : Nat) (va : Word) (n : Nat) (write : Bool) (tag : Nat) :
    (s.dmaAddr c va n write tag).memIs s.mem := by
  unfold State.dmaAddr
  grind [ioTaken_mem, inbound_mem, DmaGo.memIs, IoGo.memIs]

@[simp] theorem dmaSend_mem (s : State) (c : Nat) (a : DmaAddr) (r : DmaReq) (data : List Byte) (poison : Bool) :
    (s.dmaSend c a r data poison).1.mem = s.mem := by
  unfold State.dmaSend
  grind [setDma_mem, count_mem, ioBegin_mem, send_mem]

@[simp] theorem dmaReadEnd_mem (s : State) (c : Nat) (r : DmaReq) (code : Nat) (data : List Byte) :
    (s.dmaReadEnd c r code data).mem = s.mem := by
  simp [State.dmaReadEnd, ite_mem]

@[simp] theorem dmaRead_mem (s : State) (c tag : Nat) : (s.dmaRead c tag).mem = s.mem := by
  unfold State.dmaRead
  grind [dmaReadEnd_mem, dmaSend_mem, setDma_mem, dmaAddr_mem, dmaFail_mem, DmaGo.memIs]

@[simp] theorem overlapBytes_mem (s : State) (a : DmaSet) (va : Word) (data : List Byte) : (s.overlapBytes a va data).1.mem = s.mem := by
  unfold State.overlapBytes
  grind [takeLine_mem]

@[simp] theorem dmaWrite_mem (s : State) (c tag pos : Nat) (data : List Byte) (poison : Bool) (take : Nat → State → State) (htake : ∀ x0 u, (take x0 u).mem = u.mem) :
    (s.dmaWrite c tag pos data poison take).mem = s.mem := by
  unfold State.dmaWrite
  dsimp only
  refine ite_mem_of (by simp [ite_mem, htake]) ?_
  split <;> rename_i he <;> have ha := (congrArg (DmaGo.memIs s.mem) he).mp (dmaAddr_mem ..)
  · exact ha
  · simp [ite_mem, htake, show _ = s.mem from ha]
  · rename_i u a
    change u.mem = s.mem at ha
    rw [← ha]
    clear he ha
    refine ite_mem_of (by simp [ite_mem, htake]) (ite_mem_of (by simp [ite_mem]) (ite_mem_of (by simp [htake]) ?_))
    generalize hx : State.dmaSend _ _ _ _ _ _ = x
    have hx : x.1.mem = u.mem := hx ▸ by simp [htake]
    obtain ⟨v, _ | sts⟩ := x
    · simpa using hx
    · simpa [ite_mem] using hx

@[simp] theorem dmaFetch_mem (s : State) (c tag : Nat) : (s.dmaFetch c tag).mem = s.mem := by
  unfold State.dmaFetch
  grind [updDma_mem, dmaSend_mem, dmaAddr_mem, DmaGo.memIs]

@[simp] theorem dmaIssue_mem (s : State) (c tag : Nat) : (s.dmaIssue c tag).mem = s.mem := by
  unfold State.dmaIssue
  grind [updDma_mem, dmaWrite_mem, dmaFetch_mem, dmaRead_mem]

theorem execEngineIssue_mem {e : Fin 2} {s s' : State} (hr : execEngineIssue e s = .next s') : s'.mem = s.mem := by
  unfold execEngineIssue at hr
  grind [dmaIssue_mem]

theorem dmaAnswer_mem {s : State} {e tag sts : Nat} {poison timeout : Bool} {data : Line} {off : Nat} {s' : State}
    (hr : s.dmaAnswer e tag sts poison timeout data off = some s') :
    s'.mem = s.mem := by
  unfold State.dmaAnswer at hr
  grind [dmaReadEnd_mem, ioEnd_mem, updDma_mem, dmaFail_mem, dmaSettle_mem]

@[simp] theorem engineTimeout_mem (s : State) (e tag : Nat) : (s.engineTimeout e tag).mem = s.mem := by
  unfold State.engineTimeout
  split
  · exact getD_mem (fun hr => (dmaAnswer_mem hr).trans (passTo_mem ..)) rfl
  · rfl

theorem execDescriptorFetchReturn_mem {c : Fin 64} {desc : Line} {sts : BitVec 8} {timeout : Bool} {s s' : State}
    (hr : execDescriptorFetchReturn c desc sts timeout s = .next s') :
    s'.mem = s.mem := by
  cases hr
  split
  · rfl
  · split
    · simp
    · exact getD_mem dmaAnswer_mem rfl

@[simp] theorem dmaCmd_mem (s : State) (c op : Nat) : (s.dmaCmd c op).mem = s.mem := by
  unfold State.dmaCmd
  grind [updDma_mem, dmaStart_mem, dmaSettle_mem, dmaAbort_mem, dmaClear_mem]

@[simp] theorem chanWrite_mem (s : State) (c off : Nat) (v m : Word) : (s.chanWrite c off v m).mem = s.mem := by
  unfold State.chanWrite
  grind [setDma_mem, dmaCmd_mem]

@[simp] theorem chanAccess_mem (s : State) (who : Master) (c off : Nat) (f : State → State) (hf : ∀ u, (f u).mem = u.mem) :
    (s.chanAccess who c off f).mem = s.mem := by
  unfold State.chanAccess
  grind [writeIgnored_mem]

theorem execDeCmdStart_mem {who : Master} {c : Fin 64} {s s' : State} (hr : execDeCmdStart who c s = .next s') : s'.mem = s.mem := by
  unfold execDeCmdStart at hr
  grind [chanAccess_mem, dmaStart_mem]

theorem execDeCmdAbort_mem {who : Master} {c : Fin 64} {s s' : State} (hr : execDeCmdAbort who c s = .next s') : s'.mem = s.mem := by
  unfold execDeCmdAbort at hr
  grind [chanAccess_mem, dmaCmd_mem]

theorem execDeCmdClear_mem {who : Master} {c : Fin 64} {s s' : State} (hr : execDeCmdClear who c s = .next s') : s'.mem = s.mem := by
  unfold execDeCmdClear at hr
  grind [chanAccess_mem, dmaClear_mem]

theorem execDeCmdDropsh_mem {who : Master} {c : Fin 64} {s s' : State} (hr : execDeCmdDropsh who c s = .next s') : s'.mem = s.mem := by
  unfold execDeCmdDropsh at hr
  grind [chanAccess_mem, dmaCmd_mem]

theorem execShCtlValidSet_mem {who : Master} {c : Fin 64} {v : BitVec 32} {s s' : State} (hr : execShCtlValidSet who c v s = .next s') : s'.mem = s.mem := by
  unfold execShCtlValidSet at hr
  grind [chanAccess_mem, chanWrite_mem]

/-! ### Machine/Mailbox.lean -/

@[simp] theorem updMb_mem (s : State) (n : Nat) (f : Mbox → Mbox) : (s.updMb n f).mem = s.mem := by simp [State.updMb]
@[simp] theorem doorbell_mem (s : State) (n : Nat) (seq : BitVec 16) : (s.doorbell n seq).mem = s.mem := by
  unfold State.doorbell
  grind [setMb_mem]

@[simp] theorem mbAck_mem (s : State) (n : Nat) : (s.mbAck n).mem = s.mem := by simp [State.mbAck]
theorem execMbDoorbell_mem {who : Master} {n : Fin 32} {v : BitVec 32} {s s' : State} (hr : execMbDoorbell who n v s = .next s') : s'.mem = s.mem := by
  unfold execMbDoorbell at hr
  grind [doorbell_mem]

theorem execMbStatusAck_mem {who : Master} {n : Fin 32} {s s' : State} (hr : execMbStatusAck who n s = .next s') : s'.mem = s.mem := by
  unfold execMbStatusAck at hr
  grind [mbAck_mem]

@[simp] theorem beginWork_mem (s : State) (u : Unfinished) (n : Fin 32) : (s.beginWork u n).mem = s.mem := by simp [State.beginWork]
theorem cmdEnd_memIs_ite {c : Prop} [Decidable c] {p : Mems} {a b : CmdEnd} (ha : a.memIs p) (hb : b.memIs p) :
    (if c then a else b).memIs p := by
  split <;> assumption

/-! ### Machine/Instance.lean -/

@[simp] theorem drainInstance_mem (s : State) (i : Nat) : (s.drainInstance i).mem = s.mem := by
  unfold State.drainInstance
  dsimp only
  rw [updInstance_mem]
  refine foldl_mem (fun u c => ?_) _ s
  split <;> simp

@[simp] theorem instResetReq_mem (s : State) (i : Nat) : (s.instResetReq i).mem = s.mem := by
  unfold State.instResetReq
  grind [updInstance_mem, drainInstance_mem]

@[simp] theorem inWrite_mem (s : State) (i off : Nat) (v m : Word) : (s.inWrite i off v m).mem = s.mem := by
  unfold State.inWrite
  grind [instResetReq_mem, chanWrite_mem, setInstance_mem]

@[simp] theorem inDeny_mem (s : State) (i : Nat) : (s.inDeny i).mem = s.mem := by simp [State.inDeny]
theorem execInCtlReset_mem {who : Master} {i : Fin 64} {s s' : State} (hr : execInCtlReset who i s = .next s') : s'.mem = s.mem := by
  unfold execInCtlReset at hr
  grind [instResetReq_mem, inDeny_mem]

theorem execInDeniedRead_mem {who : Master} {i : Fin 64} {s s' : State} (hr : execInDeniedRead who i s = .next s') : s'.mem = s.mem := by
  unfold execInDeniedRead at hr
  grind [updInstance_mem, inDeny_mem]

@[simp] theorem giveChans_mem (s : State) (i : Fin 64) (cs : List Nat) : (s.giveChans i cs).mem = s.mem :=
  foldl_mem (fun u c => updDma_mem u c _) _ s

@[simp] theorem unbind_mem (s : State) (i : Nat) : (s.unbind i).mem = s.mem := foldl_mem (fun u n => by simp [ite_mem]) _ s
theorem reservePair_mem {s : State} {i bw : Nat} {r : State × Nat × Nat × Nat} (hr : s.reservePair i bw = some r) : r.1.mem = s.mem := by
  unfold State.reservePair at hr
  dsimp only at hr
  split at hr
  · cases hr; rfl
  · split at hr
    · cases hr
    · split at hr
      · cases hr
      · next hq =>
        split at hr <;> cases hr
        next hr' => exact (reserve_mem hr').trans (reserve_mem hq)

@[simp] theorem namedInstance_mem (s : State) (n : Nat) (f : Fin 64 → CmdEnd)
    (hf : ∀ i, (f i).memIs s.mem) : (s.namedInstance n f).memIs s.mem := by
  unfold State.namedInstance
  grind [CmdEnd.memIs]

/-! ### Machine/Wheel.lean -/

/-! ### Machine/Commands.lean -/

@[simp] theorem trainChans_mem (s : State) (mask : Nat) (saved : Bool) (ok : BitVec 48) : (s.trainChans mask saved ok).mem = s.mem := by
  unfold State.trainChans
  dsimp only
  rw [ite_mem]
  simp [foldl_mem fun (u : State) ch => updChan_mem u ch _]

@[simp] theorem scanGroup_mem (s : State) (o g : Nat) : (s.scanGroup o g).mem = s.mem := foldl_mem (fun u a => by simp [ite_mem]) _ s
@[simp] theorem switchGroups_mem (s : State) (o : Nat) (mask on : BitVec 4) : (s.switchGroups o mask on).mem = s.mem := by
  simp [State.switchGroups]

/-! ### Machine/Ptes.lean -/

@[simp] theorem pteAsk_mem (s : State) (h : HartId) (w : Walk) (op : MsgOp) (edit : Flit → Flit) : (s.pteAsk h w op edit).mem = s.mem := by
  unfold State.pteAsk
  grind [setHart_mem, send_mem]

@[simp] theorem pteRead_mem (s : State) (h : HartId) (w : Walk) : (s.pteRead h w).memIs s.mem := by
  unfold State.pteRead
  grind [pteAsk_mem, readLine_mem, ReadRes.memIs]

theorem execWalkPteReadDone_mem {h : HartId} {k : Nat} {err : Bool} {s s' : State} (hr : execWalkPteReadDone h k err s = .next s') : s'.mem = s.mem := by
  unfold execWalkPteReadDone at hr
  grind [updHart_mem, setHart_mem, poisonUsed_mem, pteRead_mem, ReadRes.memIs]

theorem execAdUpdate_mem {h : HartId} {k : Nat} {s s' : State} (hr : execAdUpdate h k s = .next s') : s'.mem = s.mem := by
  cases hr
  dsimp only
  repeat' split
  all_goals simp
  all_goals exact tokenFor_mem ‹_›

/-! ### Machine/Scalar.lean -/

@[simp] theorem latIn_mem (s : State) (r : Nat × Nat) : (s.latIn r).2.mem = s.mem := by
  unfold State.latIn
  grind [takeNat_mem]

@[simp] theorem cleanShare_mem (s : State) (h : HartId) : (s.cleanShare h).mem = s.mem := foldl_mem (fun u ln => by simp [ite_mem]) _ s
@[simp] theorem mouldSet_mem (s : State) (h : HartId) : (s.mouldSet h).mem = s.mem := by simp [State.mouldSet, ite_mem]
@[simp] theorem mouldClear_mem (s : State) (h : HartId) : (s.mouldClear h).mem = s.mem := by simp [State.mouldClear]
@[simp] theorem mouldWrite_mem (s : State) (h : HartId) (v : Word) : (s.mouldWrite h v).mem = s.mem := by simp [State.mouldWrite, ite_mem]
theorem execMouldEntry_mem {h : HartId} {s s' : State} (hr : execMouldEntry h s = .next s') : s'.mem = s.mem := by
  unfold execMouldEntry at hr
  grind [cleanShare_mem, setHart_mem]

theorem execMdpClear_mem {h : HartId} {s s' : State} (hr : execMdpClear h s = .next s') : s'.mem = s.mem := by
  unfold execMdpClear at hr
  grind [updHart_mem]

/-! ### Machine/Interrupts.lean -/

@[simp] theorem setMode_mem (s : State) (n : Nat) (m : SrcMode) : (s.setMode n m).mem = s.mem := by
  unfold State.setMode
  grind [setSource_mem, takeNat_mem]

@[simp] theorem sourcecfg_mem (s : State) (sdom : Bool) (n : Nat) (v : BitVec 32) : (s.sourcecfg sdom n v).mem = s.mem := by
  unfold State.sourcecfg
  grind [setSource_mem, setMode_mem]

@[simp] theorem pfailRises_mem (s : State) : (s.pfailRises).mem = s.mem := by
  unfold State.pfailRises
  grind

theorem execWiredInputChange_mem {src : Fin 1024} {level : Bool} {s s' : State} (hr : execWiredInputChange src level s = .next s') : s'.mem = s.mem := by
  unfold execWiredInputChange at hr
  grind [pfailRises_mem, wire_mem]

theorem execAplicSourcecfgWrite_mem {who : Master} {sdom : Bool} {src : Fin 1024} {v : BitVec 32} {s s' : State}
    (hr : execAplicSourcecfgWrite who sdom src v s = .next s') :
    s'.mem = s.mem := by
  unfold execAplicSourcecfgWrite at hr
  grind [sourcecfg_mem]

@[simp] theorem aplicMsi_mem (s : State) (sdom : Bool) (hart guest eiid : Nat) : (s.aplicMsi sdom hart guest eiid).mem = s.mem := by
  unfold State.aplicMsi
  grind [send_mem]

theorem execAplicMsiSend_mem {src : Fin 1024} {s s' : State} (hr : execAplicMsiSend src s = .next s') : s'.mem = s.mem := by
  unfold execAplicMsiSend at hr
  grind [setSource_mem, aplicMsi_mem]

@[simp] theorem eachSrc_mem (s : State) (sdom : Bool) (k v : Nat) (f : Source → Source) : (s.eachSrc sdom k v f).mem = s.mem :=
  foldl_mem (fun u b => by simp [ite_mem]) _ s

@[simp] theorem oneSrc_mem (s : State) (sdom : Bool) (n : Nat) (f : Source → Source) : (s.oneSrc sdom n f).mem = s.mem := by
  simp [State.oneSrc, ite_mem]

@[simp] theorem genmsi_mem (s : State) (sdom : Bool) (v : BitVec 32) : (s.genmsi sdom v).mem = s.mem := by simp [State.genmsi]
@[simp] theorem aplicWrite_mem (s : State) (sdom : Bool) (off : Nat) (v : BitVec 32) : (s.aplicWrite sdom off v).mem = s.mem := by
  simp [State.aplicWrite, ite_mem]

theorem execImsicSeteipnum_mem {h : HartId} {f : ImFileKind} {v : BitVec 32} {s s' : State} (hr : execImsicSeteipnum h f v s = .next s') : s'.mem = s.mem := by
  unfold execImsicSeteipnum at hr
  grind [setIdentity_mem]

theorem execImsicTopeiClaim_mem {h : HartId} {f : ImFileKind} {s s' : State} (hr : execImsicTopeiClaim h f s = .next s') : s'.mem = s.mem := by
  unfold execImsicTopeiClaim at hr
  grind [setFile_mem]

@[simp] theorem gpioLevel_mem (s : State) (g : Nat) (lv : Bool) : (s.gpioLevel g lv).mem = s.mem := by simp [State.gpioLevel, ite_mem]
theorem execGpioEdge_mem {pin : Fin 16} {level : Bool} {s s' : State} (hr : execGpioEdge pin level s = .next s') : s'.mem = s.mem := by
  unfold execGpioEdge at hr
  grind [gpioLevel_mem]

@[simp] theorem gpioPulse_mem (s : State) (g : Nat) : (s.gpioPulse g).mem = s.mem := by simp [State.gpioPulse]
@[simp] theorem ladleTrigger_mem (s : State) (cause : Nat) : (s.ladleTrigger cause).mem = s.mem := by simp [State.ladleTrigger, ite_mem]
@[simp] theorem sink_mem (s : State) (m : Nat) : (s.sink m).mem = s.mem := by simp [State.sink, ite_mem]
@[simp] theorem toggleGates_mem (s : State) (stop line : Nat) : (s.toggleGates stop line).mem = s.mem :=
  foldl_mem (fun u j => by simp [ite_mem]) _ s

@[simp] theorem pulseAt_mem (s : State) (stop line : Nat) : (s.pulseAt stop line).mem = s.mem := by
  unfold State.pulseAt
  dsimp only
  rw [ite_mem, wirePulse_mem, foldl_mem fun u m => sink_mem u m, toggleGates_mem, ite_self]

theorem execEventFlit_mem {stop : Fin 320} {line : Fin 256} {s s' : State} (hr : execEventFlit stop line s = .next s') : s'.mem = s.mem := by
  unfold execEventFlit at hr
  grind [pulseAt_mem]

@[simp] theorem evsw_mem (s : State) (v : Nat) : (s.evsw v).mem = s.mem := foldl_mem (fun u b => by simp [ite_mem]) _ s
theorem execTickGeneratorPulse_mem {j : Fin 8} {s s' : State} (hr : execTickGeneratorPulse j s = .next s') : s'.mem = s.mem := by
  unfold execTickGeneratorPulse at hr
  grind [pulse_mem, passTo_mem]

@[simp] theorem evtickWrite_mem (s : State) (j : Nat) (v m : Word) : (s.evtickWrite j v m).mem = s.mem := by simp [State.evtickWrite]
@[simp] theorem evsrcWrite_mem (s : State) (n : Nat) (v m : Word) : (s.evsrcWrite n v m).mem = s.mem := by simp [State.evsrcWrite]
@[simp] theorem evsnkWrite_mem (s : State) (k : Nat) (v m : Word) : (s.evsnkWrite k v m).mem = s.mem := by simp [State.evsnkWrite]

/-! ### Machine/Brine.lean -/

@[simp] theorem sweep_mem (s : State) : (s.sweep).mem = s.mem := by
  unfold State.sweep
  split
  · rfl
  · dsimp only
    rw [foldl_mem, foldl_mem]
    · intro u a; split <;> simp [ite_mem]
    · intro u a; split <;> simp

@[simp] theorem setBudget_mem (s : State) (n : Nat) : (s.setBudget n).mem = s.mem := by simp [State.setBudget, ite_mem]
@[simp] theorem applyLimit_mem (s : State) : (s.applyLimit).mem = s.mem := by simp [State.applyLimit, ite_mem]
theorem execHoldupEnergyRead_mem {mj : BitVec 32} {s s' : State} (hr : execHoldupEnergyRead mj s = .next s') : s'.mem = s.mem := by
  unfold execHoldupEnergyRead at hr
  grind [applyLimit_mem]

theorem withBrine_mem (s : State) (b : Brine) : ({ s with brine := b } : State).mem = s.mem := rfl

theorem execHoldupReadingStale_mem {s s' : State} (hr : execHoldupReadingStale s = .next s') : s'.mem = s.mem := by
  have h : ∀ P : State → Prop, P s → (∀ t b, P (State.applyLimit { s.passTo t with brine := b })) → P s' := by
    intro P h0 h1
    cases hr
    split
    · split
      · exact h0
      · exact h1 ..
    · exact h0
  exact h (fun t => t.mem = s.mem) rfl fun t b => by rw [applyLimit_mem, withBrine_mem, passTo_mem]

theorem execTokenRefill_mem {agent : Nat} {s s' : State} (hr : execTokenRefill agent s = .next s') : s'.mem = s.mem := by
  unfold execTokenRefill at hr
  grind

@[simp] theorem freeAllTokens_mem (s : State) : (s.freeAllTokens).mem = s.mem := by simp [State.freeAllTokens]

/-! ### Machine/Rind.lean -/

@[simp] theorem fence_mem (s : State) : (s.fence).mem = s.mem := by simp [State.fence]
theorem execRindHeartbeat_mem {s s' : State} (hr : execRindHeartbeat s = .next s') : s'.mem = s.mem := by
  unfold execRindHeartbeat at hr
  grind

/-! ### Machine/Power.lean -/

@[simp] theorem rethrottle_mem (s : State) : (s.rethrottle).mem = s.mem := by simp [State.rethrottle, ite_mem]
theorem execPowerSample_mem {slow fast : Nat} {s s' : State} (hr : execPowerSample slow fast s = .next s') : s'.mem = s.mem := by
  unfold execPowerSample at hr
  grind [rethrottle_mem]

theorem execThermalSample_mem {t : Fin 8} {hottest : ℤ} {s s' : State} (hr : execThermalSample t hottest s = .next s') : s'.mem = s.mem := by
  unfold execThermalSample at hr
  grind [mapHarts_mem, rethrottle_mem, wire_mem]

theorem execLifeLedgerSample_mem {t : Fin 8} {s s' : State} (hr : execLifeLedgerSample t s = .next s') : s'.mem = s.mem := by
  unfold execLifeLedgerSample at hr
  grind [rethrottle_mem]

theorem execLifeLedgerSave_mem {s s' : State} (hr : execLifeLedgerSave s = .next s') : s'.mem = s.mem := by
  unfold execLifeLedgerSave at hr
  grind

@[simp] theorem agingStep_mem (s : State) (t mon step : Nat) (windowLeft : Bool) : (s.agingStep t mon step windowLeft).mem = s.mem := by
  simp [State.agingStep]

theorem execAgingMonitorRead_mem {t : Fin 8} {mon : Fin 16} {steps : Nat} {windowLeft : Bool} {s s' : State}
    (hr : execAgingMonitorRead t mon steps windowLeft s = .next s') :
    s'.mem = s.mem := by
  cases hr
  simp [ite_mem, foldl_mem (fun (u : State) (i : Nat) => agingStep_mem u _ _ i _)]

theorem execIdleC2Entry_mem {h : HartId} {s s' : State} (hr : execIdleC2Entry h s = .next s') : s'.mem = s.mem := by
  unfold execIdleC2Entry at hr
  grind [updHart_mem, passTo_mem]

@[simp] theorem emptyAgent_mem (s : State) (a : Nat) : (s.emptyAgent a).mem = s.mem := by simp [State.emptyAgent]
theorem execIdleC3Entry_mem {h : HartId} {s s' : State} (hr : execIdleC3Entry h s = .next s') : s'.mem = s.mem := by
  unfold execIdleC3Entry at hr
  grind [updHart_mem, emptyAgent_mem, passTo_mem]

@[simp] theorem wake_mem (s : State) (h : HartId) : (s.wake h).mem = s.mem := by simp [State.wake]
theorem execHartWake_mem {h : HartId} {s s' : State} (hr : execHartWake h s = .next s') : s'.mem = s.mem := by
  unfold execHartWake at hr
  grind [wake_mem]

@[simp] theorem resume_mem (s : State) : (s.resume).mem = s.mem := by simp [State.resume]
theorem execPackageRetentionExit_mem {why : WakeCause} {s s' : State} (hr : execPackageRetentionExit why s = .next s') : s'.mem = s.mem := by
  unfold execPackageRetentionExit at hr
  grind [resume_mem, passTo_mem]

theorem execDbgWake_mem {s s' : State} (hr : execDbgWake s = .next s') : s'.mem = s.mem := by
  unfold execDbgWake at hr
  grind [resume_mem]

/-! ### Machine/Errors.lean -/

@[simp] theorem freeRec_mem (s : State) (t k : Nat) : (s.freeRec t k).mem = s.mem := by simp [State.freeRec]
@[simp] theorem cecntWrite_mem (s : State) (t : Nat) (v m : Word) : (s.cecntWrite t v m).mem = s.mem := by simp [State.cecntWrite]
@[simp] theorem threshWrite_mem (s : State) (t : Nat) (v : BitVec 32) : (s.threshWrite t v).mem = s.mem := by simp [State.threshWrite]
@[simp] theorem logCopy_mem (s : State) (r : LogRec) : (s.logCopy r).mem = s.mem := by
  unfold State.logCopy
  grind

theorem execErrorRecordCopy_mem {t : Fin 8} {k : Fin 64} {s s' : State} (hr : execErrorRecordCopy t k s = .next s') : s'.mem = s.mem := by
  unfold execErrorRecordCopy at hr
  grind [logCopy_mem]

@[simp] theorem lostLine_mem (s : State) (a ln : Nat) : (s.lostLine a ln).mem = s.mem := by
  unfold State.lostLine
  grind [vbPush_mem, lineLost_mem, setL2_mem, l3Put_mem, setSf_mem, takeLine_mem, logErr_mem]

theorem execCoreFatalError_mem {h : HartId} {cause : CoreFatal} {bad : List La} {s s' : State}
    (hr : execCoreFatalError h cause bad s = .next s') :
    s'.mem = s.mem := by
  cases hr
  simp [ite_mem, foldl_mem (fun (u : State) (la : La) => lostLine_mem u _ _)]

@[simp] theorem stopHarts_mem (s : State) : (s.stopHarts).mem = s.mem := by simp [State.stopHarts]
theorem execPfailNFall_mem {s s' : State} (hr : execPfailNFall s = .next s') : s'.mem = s.mem := by
  unfold execPfailNFall at hr
  grind [pulse_mem, wire_mem]

/-! ### Machine/Security.lean -/

@[simp] theorem pushToken_mem (s : State) (k : DbgToken) (n : Option (Fin 32)) : (s.pushToken k n).mem = s.mem := by simp [State.pushToken]
theorem execDbgAuthSubmit_mem {tok : DbgToken} {s s' : State} (hr : execDbgAuthSubmit tok s = .next s') : s'.mem = s.mem := by
  unfold execDbgAuthSubmit at hr
  grind [pushToken_mem]

@[simp] theorem enterLevel_mem (s : State) (k : DbgToken) : (s.enterLevel k).mem = s.mem := by simp [State.enterLevel, ite_mem]

/-! ### Machine/HartReset.lean -/

@[simp] theorem startAtRvec_mem (s : State) (h : HartId) : (s.startAtRvec h).mem = s.mem := by simp [State.startAtRvec, ite_mem]
@[simp] theorem clearFiles_mem (s : State) (h : HartId) : (s.clearFiles h).mem = s.mem := by simp [State.clearFiles]
@[simp] theorem hartResetNow_mem (s : State) (h : HartId) : (s.hartResetNow h).mem = s.mem := by simp [State.hartResetNow, ite_mem]
@[simp] theorem endReset_mem (s : State) (h : HartId) : (s.endReset h).mem = s.mem := by simp [State.endReset, ite_mem]
theorem execHartSelfTestDone_mem {h : HartId} {pass : Bool} {s s' : State} (hr : execHartSelfTestDone h pass s = .next s') : s'.mem = s.mem := by
  unfold execHartSelfTestDone at hr
  grind [setHart_mem, takeNat_mem, coreFatal_mem]

/-! ### Machine/Perf.lean -/

theorem execCoreCounterWrap_mem {h : HartId} {k : Fin 32} {s s' : State} (hr : execCoreCounterWrap h k s = .next s') : s'.mem = s.mem := by
  unfold execCoreCounterWrap at hr
  grind [setHart_mem, bumpHpm_mem]

@[simp] theorem bankClr_mem (s : State) (stop b : Nat) : (s.bankClr stop b).mem = s.mem := by simp [State.bankClr]
@[simp] theorem bankWrite_mem (s : State) (stop b off : Nat) (v m : Word) : (s.bankWrite stop b off v m).mem = s.mem := by
  unfold State.bankWrite
  grind [setBank_mem, bankClr_mem]

theorem execBankCounterWrap_mem {stop : Fin 320} {b : Fin 3} {k : Fin 4} {gain : Nat} {s s' : State}
    (hr : execBankCounterWrap stop b k gain s = .next s') :
    s'.mem = s.mem := by
  unfold execBankCounterWrap at hr
  grind [guard_mem, bumpBank_mem]

theorem execBandwidthWindowEnd_mem {stop : Fin 320} {b : Fin 3} {s s' : State} (hr : execBandwidthWindowEnd stop b s = .next s') : s'.mem = s.mem := by
  unfold execBandwidthWindowEnd at hr
  grind [setBank_mem, guard_mem]

theorem execPmBwmaxRead_mem {who : Master} {stop : Fin 320} {b : Fin 3} {s s' : State} (hr : execPmBwmaxRead who stop b s = .next s') : s'.mem = s.mem := by
  unfold execPmBwmaxRead at hr
  grind [setBank_mem]

@[simp] theorem ladleCtl_mem (s : State) (v m : Word) : (s.ladleCtl v m).mem = s.mem := by simp [State.ladleCtl]
@[simp] theorem ladleWrite_mem (s : State) (off : Nat) (v m : Word) : (s.ladleWrite off v m).mem = s.mem := by
  unfold State.ladleWrite
  grind [ladleTrigger_mem, setLadle_mem, ladleCtl_mem]

theorem execLadlePeriodTrigger_mem {s s' : State} (hr : execLadlePeriodTrigger s = .next s') : s'.mem = s.mem := by
  unfold execLadlePeriodTrigger at hr
  grind [ladleTrigger_mem, passTo_mem]

@[simp] theorem latchStop_mem (s : State) (stop : Nat) (late : Bool) : (s.latchStop stop late).mem = s.mem :=
  foldl_mem (fun u _ => setBank_mem u _ _ _) _ s

theorem execLadleLatch_mem {stop : Fin 320} {s s' : State} (hr : execLadleLatch stop s = .next s') : s'.mem = s.mem := by
  unfold execLadleLatch at hr
  grind [setLadle_mem, passTo_mem, latchStop_mem]

@[simp] theorem dropLatches_mem (s : State) (merge : Bool) : (s.dropLatches merge).mem = s.mem := by
  refine foldl_mem (fun u p => ?_) _ s
  dsimp only
  split <;> simp

/-! ### Machine/Device.lean -/

@[simp] theorem regTouch_mem (s : State) (who : Master) (n : DevReg) : (s.regTouch who n).mem = s.mem := by
  unfold State.regTouch
  grind [updInstance_mem, inDeny_mem, setBank_mem]

@[simp] theorem devRead4_mem (s : State) (who : Master) (la : Nat) : (s.devRead4 who la).1.mem = s.mem := by
  unfold State.devRead4
  grind [regTouch_mem]

@[simp] theorem devRead_mem (s : State) (who : Master) (la n : Nat) : (s.devRead who la n).1.mem = s.mem := by
  unfold State.devRead
  grind [devRead4_mem, regTouch_mem]

@[simp] theorem devReads_mem (s : State) (who : Master) (b : Nat) (l : List (Nat × Nat)) : (s.devReads who b l).1.mem = s.mem := by
  induction l generalizing s with
  | nil => rfl
  | cons p l ih => obtain ⟨o, k⟩ := p; simp [State.devReads, ih]

/-! ### Machine/Uncached.lean -/

@[simp] theorem failWrite_mem (s : State) (f : Flit) (sts : Nat) : (s.failWrite f sts).mem = s.mem := by simp [State.failWrite, ite_mem]
@[simp] theorem readAtDevice_mem (s : State) (f : Flit) : (s.readAtDevice f).mem = s.mem := by
  unfold State.readAtDevice
  grind [devReads_mem, send_mem]

@[simp] theorem readAtMgmt_mem (s : State) (f : Flit) : (s.readAtMgmt f).mem = s.mem := by simp [State.readAtMgmt]
@[simp] theorem tlpSent_mem (s : State) (i n : Nat) : (s.tlpSent i n).mem = s.mem := by simp [State.tlpSent]
@[simp] theorem tlpReceived_mem (s : State) (i n : Nat) : (s.tlpReceived i n).mem = s.mem := by simp [State.tlpReceived]
@[simp] theorem pcieAsk_mem (s : State) (i : Nat) (f : Flit) (n : Nat) : (s.pcieAsk i f n).mem = s.mem := by
  unfold State.pcieAsk
  grind [trackEwa_mem, accept_mem, send_mem, tlpSent_mem]

@[simp] theorem outbound_mem (s : State) (f : Flit) : (s.outbound f).mem = s.mem :=
  outbound_cases (P := fun t => t.mem = s.mem) (fun _ => rfl) (fun _ => by simp) fun _ _ => pcieAsk_mem ..

theorem execReadNc_mem {f : Flit} {s s' : State} (hr : execReadNc f s = .next s') : s'.mem = s.mem := by
  unfold execReadNc at hr
  grind [serve_mem, readAtMgmt_mem, onFlit_mem, readAtDevice_mem, outbound_mem, accept_mem, send_mem, atLink_mem]

theorem execAtomicNc_mem {f : Flit} {s s' : State} (hr : execAtomicNc f s = .next s') : s'.mem = s.mem := by
  unfold execAtomicNc at hr
  grind [serve_mem, onFlit_mem, outbound_mem, accept_mem, send_mem, atLink_mem]

@[simp] theorem rootEnd_mem (s : State) (i t : Nat) : (s.rootEnd i t).mem = s.mem := by simp [State.rootEnd]
@[simp] theorem rootFail_mem (s : State) (i t : Nat) (a : InAcc) (sts : Nat) :
    (s.rootFail i t a sts).mem = s.mem := by simp [State.rootFail, ite_mem]

@[simp] theorem rootAnswer_mem (s : State) (i : Nat) (f : Flit) : (s.rootAnswer i f).mem = s.mem := by
  unfold State.rootAnswer
  grind [rootFail_mem, rootEnd_mem, lateResponse_mem, tlpSent_mem]

@[simp] theorem sbaAnswer_mem (s : State) (f : Flit) : (s.sbaAnswer f).mem = s.mem := by simp [State.sbaAnswer, ite_mem]
@[simp] theorem sliceAnswer_mem (s : State) (f : Flit) : (s.sliceAnswer f).mem = s.mem := by
  unfold State.sliceAnswer
  grind [memData_mem, closeTxn_mem, victimFreed_mem, retrySlice_mem, send_mem, memEnded_mem]

@[simp] theorem agentError_mem (s : State) (a : Nat) (f : Flit) : (s.agentError a f).mem = s.mem := by
  unfold State.agentError
  grind [endMshr_mem, goesOn_mem, mapMshr_mem]

@[simp] theorem answer_mem (s : State) (f : Flit) : (s.answer f).mem = s.mem := by
  have hd : ∀ (u : State) e t c p d o, ((u.dmaAnswer e t c p false d o).getD (u.lateResponse f.dst f.addr.toNat)).mem = u.mem :=
    fun _ _ _ _ _ _ _ => getD_mem dmaAnswer_mem (lateResponse_mem ..)
  unfold State.answer
  dsimp only
  repeat' split
  all_goals simp only [hd, accept_mem, agentError_mem, endReset_mem, hartAnswer_mem, sliceAnswer_mem, homeAnswer_mem, rootAnswer_mem, ioAnswer_mem,
    sbaAnswer_mem]

theorem execWriteDone_mem {f : Flit} {s s' : State} (hr : execWriteDone f s = .next s') : s'.mem = s.mem := by
  unfold execWriteDone at hr
  grind [answer_mem, onFlit_mem]

theorem execReadReturn_mem {f : Flit} {s s' : State} (hr : execReadReturn f s = .next s') : s'.mem = s.mem := by
  unfold execReadReturn at hr
  grind [answer_mem, onFlit_mem]

theorem execErrorReply_mem {f : Flit} {s s' : State} (hr : execErrorReply f s = .next s') : s'.mem = s.mem := by
  unfold execErrorReply at hr
  grind [answer_mem, onFlit_mem]

@[simp] theorem rootTimeout_mem (s : State) (i t : Nat) : (s.rootTimeout i t).mem = s.mem := by
  unfold State.rootTimeout
  grind [rootFail_mem, rootEnd_mem, passTo_mem]

theorem execUncachedTimeout_mem {who : Master} {tag : Nat} {s s' : State} (hr : execUncachedTimeout who tag s = .next s') : s'.mem = s.mem := by
  unfold execUncachedTimeout at hr
  grind [endReset_mem, hartTimeout_mem, engineTimeout_mem, passTo_mem, rootTimeout_mem]

/-! ### Machine/Debug.lean -/

@[simp] theorem requestHalt_mem (s : State) (h : HartId) (why : Nat) :
    (s.requestHalt h why).mem = s.mem := by simp [State.requestHalt, ite_mem]

theorem execDmHaltRequest_mem {h : HartId} {s s' : State} (hr : execDmHaltRequest h s = .next s') : s'.mem = s.mem := by
  cases hr
  simp [ite_mem, foldl_mem (fun (u : State) (k : HartId) => requestHalt_mem u k _)]

theorem execDmResumeRequest_mem {h : HartId} {s s' : State} (hr : execDmResumeRequest h s = .next s') : s'.mem = s.mem := by
  unfold execDmResumeRequest at hr
  grind [updHart_mem]

@[simp] theorem absEnd_mem (s : State) (h : HartId) (e : Nat) : (s.absEnd h e).mem = s.mem := by simp [State.absEnd]
@[simp] theorem absRead_mem (s : State) (h : HartId) (v : Word) : (s.absRead h v).mem = s.mem := by simp [State.absRead]
@[simp] theorem asM_mem (s : State) (h : HartId) (f : State → State) (hf : ∀ u, (f u).mem = u.mem) : (s.asM h f).mem = s.mem := by
  unfold State.asM
  grind [updHart_mem]

@[simp] theorem absCsrWrite_mem (s : State) (h : HartId) (n : Nat) (v : Word) : (s.absCsrWrite h n v).mem = s.mem := by
  unfold State.absCsrWrite
  grind [csrWrite_mem, updHart_mem, asM_mem]

@[simp] theorem absReadReg_mem (s : State) (h : HartId) (n : Nat) : (s.absReadReg h n).mem = s.mem := by
  unfold State.absReadReg
  grind [setHart_mem, absEnd_mem, absRead_mem]

@[simp] theorem absWriteReg_mem (s : State) (h : HartId) (n : Nat) (v : Word) : (s.absWriteReg h n v).mem = s.mem := by
  unfold State.absWriteReg
  grind [setHart_mem, absEnd_mem, absCsrWrite_mem]

@[simp] theorem absStore_mem (s : State) (h : HartId) (v : Nat) (ps : List Part) : (s.absStore h v ps).mem = s.mem := by
  simp [State.absStore, ite_mem]

@[simp] theorem sbEnd_mem (s : State) (e : Nat) (v : Option Word) : (s.sbEnd e v).mem = s.mem := by simp [State.sbEnd]
@[simp] theorem sbAsk_mem (s : State) (pa n : Nat) (write : Bool) (v : Nat) : (s.sbAsk pa n write v).mem = s.mem := by
  unfold State.sbAsk
  grind [sbEnd_mem, send_mem]

theorem execSystemBusAccess_mem {a : Pa} {size : AccSize} {write : Bool} {v : Word} {s s' : State}
    (hr : execSystemBusAccess a size write v s = .next s') :
    s'.mem = s.mem := by
  unfold execSystemBusAccess at hr
  grind [sbEnd_mem, sbAsk_mem]

/-! ### Machine/RennetPort.lean -/

@[simp] theorem rennetSend_mem (s : State) (a n : Nat) (write : Bool) (v : Line) : (s.rennetSend a n write v).mem = s.mem := by
  unfold State.rennetSend
  grind [send_mem]

/-! ### Machine/Boot.lean -/

@[simp] theorem applyCommit_mem (s : State) (t : Nat) : (s.applyCommit t).mem = s.mem := by simp [State.applyCommit, ite_mem]
@[simp] theorem runImage_mem (s : State) (t k : Nat) : (s.runImage t k).mem = s.mem := by simp [State.runImage]
@[simp] theorem setRvec_mem (s : State) : (s.setRvec).mem = s.mem := by simp [State.setRvec, ite_mem]
@[simp] theorem trainLinks_mem (s : State) : (s.trainLinks).mem = s.mem := by
  unfold State.trainLinks
  rw [ite_mem, foldl_mem fun u x => by simp [ite_mem], ite_self]

@[simp] theorem raiseCounters_mem (s : State) : (s.raiseCounters).mem = s.mem := by simp [State.raiseCounters, ite_mem]
theorem execFirstHostInstruction_mem {s s' : State} (hr : execFirstHostInstruction s = .next s') : s'.mem = s.mem := by
  unfold execFirstHostInstruction at hr
  grind [setHart_mem, raiseCounters_mem]

/-! ### Machine/Pcie.lean -/

@[simp] theorem rootPa_mem (s : State) (i : Nat) (rid : BitVec 16) (pasid : Option (BitVec 20)) (iova : Word) (write : Bool) (tag : Nat) :
    (s.rootPa i rid pasid iova write tag).memIs s.mem := by
  unfold State.rootPa
  grind [inbound_mem, IoGo.memIs, RootGo.memIs]

@[simp] theorem rootTaken_mem (s : State) (i : Nat) (rid : BitVec 16) (pasid : Option (BitVec 20)) :
    (s.rootTaken i rid pasid).mem = s.mem := by
  simp [State.rootTaken]

@[simp] theorem rootUr_mem (s : State) (i : Nat) : (s.rootUr i).mem = s.mem := by simp [State.rootUr]
@[simp] theorem rootSend_mem (s : State) (i tag pa : Nat) (e : PmaEntry) (op : MsgOp) (m : LineMask) (edit : Flit → Flit) :
    (s.rootSend i tag pa e op m edit).1.mem = s.mem := by
  unfold State.rootSend
  grind [ioBegin_mem, send_mem]

@[simp] theorem rootRead_mem (s : State) (i : Nat) (rid : BitVec 16) (pasid : Option (BitVec 20)) (a n : Nat) :
    (s.rootRead i rid pasid a n).mem = s.mem := by
  unfold State.rootRead
  grind [rootPa_mem, rootUr_mem, rootSend_mem, tlpSent_mem, RootGo.memIs]

theorem rootWalk_mem {s : State} {i : Nat} {rid : BitVec 16} {pasid : Option (BitVec 20)} {l : List (Nat × Nat)} {s' : State}
    (hr : s.rootWalk i rid pasid l = some s') :
    s'.mem = s.mem := by
  induction l with
  | nil => cases hr
  | cons x l ih =>
    have hp := rootPa_mem s i rid pasid (BitVec.ofNat 64 x.1) false 0
    rw [State.rootWalk] at hr
    grind [RootGo.memIs]

theorem execPcieMemoryRead_mem {i : Fin 6} {rid : BitVec 16} {pasid : Option (BitVec 20)} {iova : Word} {bytes : Nat} {s s' : State}
    (hr : execPcieMemoryRead i rid pasid iova bytes s = .next s') :
    s'.mem = s.mem := by
  cases hr
  split
  · rfl
  · split
    · next hu => exact rootWalk_mem hu
    · rw [rootTaken_mem, foldl_mem fun u p => rootRead_mem .., tlpReceived_mem]

@[simp] theorem poisonedTlp_mem (s : State) (i pa : Nat) : (s.poisonedTlp i pa).mem = s.mem := by simp [State.poisonedTlp]
@[simp] theorem rootWrite_mem (s : State) (i : Nat) (rid : BitVec 16) (pasid : Option (BitVec 20)) (a : Nat) (m : LineMask) (d : Line) (poison : Bool) :
    (s.rootWrite i rid pasid a m d poison).mem = s.mem := by
  unfold State.rootWrite
  grind [rootTaken_mem, rootPa_mem, poisonedTlp_mem, tlpReceived_mem, rootSend_mem, RootGo.memIs]

theorem execPcieMemoryWrite_mem {i : Fin 6} {rid : BitVec 16} {pasid : Option (BitVec 20)} {iova : Word} {mask : LineMask} {data : Line} {poison : Bool} {s s' : State}
    (hr : execPcieMemoryWrite i rid pasid iova mask data poison s = .next s') :
    s'.mem = s.mem := by
  unfold execPcieMemoryWrite at hr
  grind [rootWrite_mem]

theorem execPcieAtomicOp_mem {i : Fin 6} {rid : BitVec 16} {pasid : Option (BitVec 20)} {iova : Word} {fn : AmoFn} {bytes : Nat} {operand compare : Word} {s s' : State}
    (hr : execPcieAtomicOp i rid pasid iova fn bytes operand compare s = .next s') :
    s'.mem = s.mem := by
  unfold execPcieAtomicOp at hr
  grind [rootTaken_mem, rootPa_mem, tlpReceived_mem, rootUr_mem, rootSend_mem, RootGo.memIs]

theorem execPcieMsiWrite_mem {i : Fin 6} {rid : BitVec 16} {iova : Word} {data : BitVec 32} {s s' : State}
    (hr : execPcieMsiWrite i rid iova data s = .next s') :
    s'.mem = s.mem := by
  unfold execPcieMsiWrite at hr
  grind [rootWrite_mem]

@[simp] theorem cplWrite_mem (s : State) (r : PcieReq) (cpl : PcieCpl) : (s.cplWrite r cpl).mem = s.mem := by simp [State.cplWrite, ite_mem]
theorem execPcieCompletion_mem {i : Fin 6} {tag : Nat} {cpl : PcieCpl} {s s' : State} (hr : execPcieCompletion i tag cpl s = .next s') : s'.mem = s.mem := by
  unfold execPcieCompletion at hr
  grind [tlpReceived_mem, cplWrite_mem, count_mem, send_mem]

theorem execPcieLinkEvent_mem {i : Fin 6} {level : Bool} {s s' : State} (hr : execPcieLinkEvent i level s = .next s') : s'.mem = s.mem := by
  unfold execPcieLinkEvent at hr
  grind [wire_mem]

/-! ### Machine/Time.lean -/

@[simp] theorem timerWake_mem (s : State) (h : HartId) : (s.timerWake h).mem = s.mem := by simp [State.timerWake, ite_mem]
theorem execMachineTimerMatch_mem {h : HartId} {s s' : State} (hr : execMachineTimerMatch h s = .next s') : s'.mem = s.mem := by
  unfold execMachineTimerMatch at hr
  grind [passTo_mem, timerWake_mem]

theorem execSupervisorTimerMatch_mem {h : HartId} {s s' : State} (hr : execSupervisorTimerMatch h s = .next s') : s'.mem = s.mem := by
  unfold execSupervisorTimerMatch at hr
  grind [passTo_mem, timerWake_mem]

@[simp] theorem tick_mem (s : State) : (s.tick).mem = s.mem := by simp [State.tick, ite_mem]

/-! ### Machine/Vector.lean -/

@[simp] theorem vmemDone_mem (s : State) (h : HartId) (ad : VAddr) (v : VShape) (code : Nat) : (s.vmemDone h ad v code).mem = s.mem := by
  simp [State.vmemDone]

@[simp] theorem vloadFault_mem (s : State) (h : HartId) (ad : VAddr) (v : VShape) (k : Nat) (t : Trap) :
    (s.vloadFault h ad v k t).mem = s.mem := by
  simp [State.vloadFault, ite_mem]

@[simp] theorem vBack_mem (s : State) (h : HartId) (c0 : Hart) : (s.vBack h c0).mem = s.mem := by simp [State.vBack]
@[simp] theorem vstore_mem (s : State) (h : HartId) (c0 : Hart) (ad : VAddr) (v : VShape) (vd : Nat) (base : Word) (ks : List Nat) :
    (s.vstore h c0 ad v vd base ks).mem = s.mem := by
  unfold State.vstore
  grind [vmemDone_mem, updHart_mem, enterStores_mem, tlbMiss_mem, trap_mem]

end Sys2Proof.Machine
end

section
/-!
SUPPORT. What writes the byte memories keeps their canonical forms (R92, R107, R114, R230, R237, R429): the lemmas of the functions that write them, directly or through
another function, in the order of the definitions.
-/
namespace Sys2Proof.Machine

-- One proof at a time: the many proofs of this section elaborated side by side take more memory than a compile of the whole text is given.
set_option Elab.async false

/-! ### One memory of the five -/

section
variable {m : Mems}

theorem Mems.wf_iff (m : Mems) :
    m.wf = true ↔ memWf m.dram = true ∧ memWf m.tcm = true ∧ memWf m.sram = true ∧ memWf m.mbox = true ∧ tabWf (0 : Nat) m.tcmErr = true := by
  simp [Mems.wf, and_assoc]

theorem Mems.wf_dram (hm : m.wf = true) {d : List Host.Cell} (hd : memWf d = true) : Mems.wf { m with dram := d } = true := by
  obtain ⟨-, h⟩ := (Mems.wf_iff m).1 hm
  exact (Mems.wf_iff _).2 ⟨hd, h⟩

theorem Mems.wf_sram (hm : m.wf = true) {d : List Host.Cell} (hd : memWf d = true) : Mems.wf { m with sram := d } = true := by
  obtain ⟨hdram, htcm, -, h⟩ := (Mems.wf_iff m).1 hm
  exact (Mems.wf_iff _).2 ⟨hdram, htcm, hd, h⟩

theorem Mems.wf_mbox (hm : m.wf = true) {d : List Host.Cell} (hd : memWf d = true) : Mems.wf { m with mbox := d } = true := by
  obtain ⟨hdram, htcm, hsram, -, h⟩ := (Mems.wf_iff m).1 hm
  exact (Mems.wf_iff _).2 ⟨hdram, htcm, hsram, hd, h⟩

theorem Mems.wf_tcm (hm : m.wf = true) {d : List Host.Cell} {e : Tab Nat} (hd : memWf d = true) (he : tabWf (0 : Nat) e = true) :
    Mems.wf { m with tcm := d, tcmErr := e } = true := by
  obtain ⟨hdram, -, hsram, hmbox, -⟩ := (Mems.wf_iff m).1 hm
  exact (Mems.wf_iff _).2 ⟨hdram, hd, hsram, hmbox, he⟩

/-- Correcting words keeps the table of their errors canonical (R107). -/
theorem tabWf_clearWords (ws : List Nat) {t : Tab Nat} (ht : tabWf (0 : Nat) t = true) :
    tabWf (0 : Nat) (ws.foldl (fun t w => tabSet 0 t w 0) t) = true := by
  induction ws generalizing t with
  | nil => exact ht
  | cons w ws ih => exact ih (tabWf_tabSet 0 t w 0 ht)

/-- A fold that writes a byte at some of its steps keeps a memory canonical. -/
theorem memWf_foldl_setByte {α : Type} {skip : α → Prop} [DecidablePred skip] {at_ : α → Nat} {byte : α → Byte} (l : List α) {d : List Host.Cell}
    (hd : memWf d = true) : memWf (l.foldl (fun d x => if skip x then d else memSetByte d (at_ x) (byte x)) d) = true := by
  induction l generalizing d with
  | nil => exact hd
  | cons x l ih =>
    rw [List.foldl_cons]
    split
    · exact ih hd
    · exact ih (memWf_memSetByte _ _ _ hd)

end

/-! ### Carriers of a state and folds -/

/-- The state that an outcome carries has canonical memories. -/
@[simp] def Fetch.memWf : Fetch → Prop | .ok t | .trap t _ | .walk t _ | .wait t => t.mem.wf = true
@[simp] def ReadRes.memWf : ReadRes → Prop | .value _ t | .wait t | .poison t | .tcmError t => t.mem.wf = true
@[simp] def VStep.memWf : VStep → Prop | .go t | .stop t => t.mem.wf = true
@[simp] def CmdEnd.memWf : CmdEnd → Prop | .ok t _ | .failIn t _ | .waits t => t.mem.wf = true | .fail _ => True

theorem cmdEnd_memWf_ite {c : Prop} [Decidable c] {a b : CmdEnd} (ha : a.memWf) (hb : b.memWf) : (if c then a else b).memWf := by
  split <;> assumption

theorem ReadRes.memWf_of_memIs {s : State} {r : ReadRes} (hs : s.mem.wf = true) (h : r.memIs s.mem) : r.memWf := by
  cases r <;> exact (congrArg Mems.wf h).trans hs

theorem CmdEnd.memWf_of_memIs {s : State} {r : CmdEnd} (hs : s.mem.wf = true) (h : r.memIs s.mem) : r.memWf := by
  cases r with
  | fail => trivial
  | _ => exact (congrArg Mems.wf h).trans hs

theorem memWf_of_eq {s t : State} (hs : s.mem.wf = true) (h : t.mem = s.mem) : t.mem.wf = true := by
  rw [h]
  exact hs

theorem ite_memWf {c : Prop} [Decidable c] {a b : State} (ha : a.mem.wf = true) (hb : b.mem.wf = true) : (if c then a else b).mem.wf = true := by
  split
  · exact ha
  · exact hb

theorem withPow_mem (s : State) (p : Power) : ({ s with pow := p } : State).mem = s.mem := rfl

section
variable {s s' : State} (hs : s.mem.wf = true)
include hs

theorem foldl_memWf {α : Type} {f : State → α → State} (hf : ∀ u a, u.mem.wf = true → (f u a).mem.wf = true) (l : List α) :
    (l.foldl f s).mem.wf = true := by
  induction l generalizing s with
  | nil => exact hs
  | cons a l ih => exact ih (hf _ _ hs)

/-! ### Machine/Gddr6.lean -/

theorem performWrite_memWf (ch : Nat) (r : MemReq) : (s.performWrite ch r).mem.wf = true := by
  have hw : ∀ d : Line, Mems.wf { s.mem with dram := memLinePut s.mem.dram r.la (BitVec.allOnes 64) d } = true := fun d =>
    Mems.wf_dram hs (memWf_memLinePut _ _ _ _ ((Mems.wf_iff _).1 hs).1)
  unfold State.performWrite
  grind [updChan_mem, setMark_mem, correctedRead_mem, lostRead_mem]

theorem storeReq_memWf (ch : Nat) (r : MemReq) : (s.storeReq ch r).mem.wf = true := by
  rw [State.storeReq, fillBanks_mem]
  exact performWrite_memWf (memWf_of_eq hs (updChan_mem ..)) ch r

theorem lineAccess_memWf (ch : Nat) (r : MemReq) (late : Bool) : (s.lineAccess ch r late).mem.wf = true := by
  unfold State.lineAccess
  grind [fillBanks_mem, setChan_mem, countAccess_mem, storeReq_memWf]

theorem execChannelLineAccess_memWf {ch : Fin 48} (hr : execChannelLineAccess ch s = .next s') : s'.mem.wf = true := by
  unfold execChannelLineAccess at hr
  grind [fillBanks_mem, setChan_mem, lineAccess_memWf]

theorem execReadBurstReturn_memWf {ch : Fin 48} {crcOk : Bool} {flips : BitVec 576} {aerr : BitVec 32}
    (hr : execReadBurstReturn ch crcOk flips aerr s = .next s') :
    s'.mem.wf = true := by
  unfold execReadBurstReturn at hr
  grind [setMark_mem, crcFailed_mem, setChan_mem, storeReq_memWf, readDone_mem]

theorem selfRefresh_memWf (ch : Nat) : (s.selfRefresh ch).mem.wf = true := by
  have hp : ∀ (u : State) (r : MemReq), u.mem.wf = true → (u.performWrite ch r).mem.wf = true := fun _ r hu => performWrite_memWf hu ch r
  unfold State.selfRefresh
  dsimp only
  split
  · rw [updChan_mem, foldl_mem fun u r => send_mem ..]
    exact foldl_memWf hs hp _
  · rw [updChan_mem, foldl_mem fun u r => send_mem ..]
    exact foldl_memWf hs hp _
  · exact hs

theorem selfRefreshAll_memWf : (s.selfRefreshAll).mem.wf = true := foldl_memWf hs (fun _ ch hu => selfRefresh_memWf hu ch) _

/-! ### Machine/Lines.lean -/

theorem tcmScrub_memWf (h : HartId) (k size : Nat) : (s.tcmScrub h k size).mem.wf = true := by
  unfold State.tcmScrub
  split
  · exact hs
  · obtain ⟨-, htcm, -, -, herr⟩ := (Mems.wf_iff _).1 hs
    simp only [event_mem, logCe_mem, updHart_mem]
    exact Mems.wf_tcm hs htcm (tabWf_clearWords _ herr)

theorem readTcm_memWf (h : HartId) (pa size : Nat) : (s.readTcm h pa size).memWf := by
  unfold State.readTcm
  grind [tcmScrub_memWf, tcmUe_mem, ReadRes.memWf]

theorem writeTcm_memWf (h : HartId) (pa size v : Nat) : (s.writeTcm h pa size v).mem.wf = true := by
  obtain ⟨-, htcm, -, -, herr⟩ := (Mems.wf_iff _).1 hs
  simp only [State.writeTcm, ite_mem, event_mem, logCe_mem, updHart_mem, tcmUe_mem, ite_self]
  exact Mems.wf_tcm hs (memWf_foldl_setByte _ htcm) (tabWf_clearWords _ herr)

/-! ### Machine/Issue.lean -/

theorem fetchParcel_memWf (h : HartId) (va : Word) : (s.fetchParcel h va).memWf := by
  have hl : ∀ la n, (s.fetchLine h la n).memWf := fun la n => ReadRes.memWf_of_memIs hs (fetchLine_mem s h la n)
  unfold State.fetchParcel
  grind [readTcm_memWf, poisonUsed_mem, Fetch.memWf, ReadRes.memWf]

theorem fetchAt_memWf (h : HartId) (len : Nat) : (s.fetchAt h len).memWf := by
  unfold State.fetchAt
  grind [fetchParcel_memWf, Fetch.memWf]

theorem onHart_memWf (h : HartId) (len : Nat) (f : State → State) (hf : ∀ u, u.mem.wf = true → (f u).mem.wf = true) :
    (s.onHart h len f).mem.wf = true := by
  unfold State.onHart
  grind [fetchAt_memWf, fetchTrap_mem, setHart_mem, tlbMiss_mem, trap_mem, Fetch.memWf]

theorem execExceptionTake_memWf {h : HartId} {cause : Fin 64} {tval : Word} {c : Faulting}
    (hr : execExceptionTake h cause tval c s = .next s') :
    s'.mem.wf = true := by
  unfold execExceptionTake at hr
  grind [trap_mem, onHart_memWf]

theorem execEcall_memWf {h : HartId} (hr : execEcall h s = .next s') : s'.mem.wf = true := by
  unfold execEcall at hr
  grind [trap_mem, onHart_memWf]

theorem execEbreak_memWf {h : HartId} {cc : Bool} (hr : execEbreak h cc s = .next s') : s'.mem.wf = true := by
  unfold execEbreak at hr
  grind [setHart_mem, trap_mem, onHart_memWf]

theorem execXret_memWf {h : HartId} {k : XretKind} (hr : execXret h k s = .next s') : s'.mem.wf = true := by
  unfold execXret at hr
  grind [retire_mem, updHart_mem, illegal_mem, onHart_memWf]

/-! ### Machine/Walk.lean -/

theorem execSfenceVma_memWf {h : HartId} {rs1 rs2 : Fin 32} (hr : execSfenceVma h rs1 rs2 s = .next s') : s'.mem.wf = true := by
  unfold execSfenceVma at hr
  grind [fenceDone_mem, illegal_mem, onHart_memWf]

theorem execHfenceVvma_memWf {h : HartId} {rs1 rs2 : Fin 32} (hr : execHfenceVvma h rs1 rs2 s = .next s') : s'.mem.wf = true := by
  unfold execHfenceVvma at hr
  grind [fenceDone_mem, illegal_mem, onHart_memWf]

theorem execHfenceGvma_memWf {h : HartId} {rs1 rs2 : Fin 32} (hr : execHfenceGvma h rs1 rs2 s = .next s') : s'.mem.wf = true := by
  unfold execHfenceGvma at hr
  grind [fenceDone_mem, illegal_mem, onHart_memWf]

/-! ### Machine/Access.lean -/

theorem withParts_memWf (h : HartId) (virt : Virt) (acc : Acc) (va : Word) (size al enc : Nat) (f : State → List Part → State)
    (hf : ∀ u x1, u.mem.wf = true → (f u x1).mem.wf = true) :
    (s.withParts h virt acc va size al enc f).mem.wf = true := by
  unfold State.withParts
  grind [tlbMiss_mem, trap_mem]

theorem readPiece_memWf (h : HartId) (pair : Bool) (seq : Nat) (p : Part) : (s.readPiece h pair seq p).memWf := by
  have hl : ∀ (u : State) la n, u.mem.wf = true → (u.readLine h la n).memWf := fun u la n hu => ReadRes.memWf_of_memIs hu (readLine_mem u h la n)
  unfold State.readPiece
  grind [endMshr_mem, updHart_mem, takeWord_mem, readTcm_memWf, writeFail_mem, ReadRes.memWf]

theorem readPieces_memWf (h : HartId) (pair : Bool) (l : List Part) : (s.readPieces h pair l).memWf := by
  induction l generalizing s with
  | nil => exact hs
  | cons p l ih => rw [State.readPieces]; grind [ReadRes.memWf, readPiece_memWf]

theorem readParts_memWf (h : HartId) (pair : Bool) (ps : List Part) : (s.readParts h pair ps).memWf := by
  unfold State.readParts
  grind [eventT_mem, readPieces_memWf, ReadRes.memWf]

/-! ### Machine/LoadStore.lean -/

theorem legally_memWf (h : HartId) (a : CsrAccess) (f : State → State) (hf : ∀ u, u.mem.wf = true → (f u).mem.wf = true) :
    (s.legally h a f).mem.wf = true := by
  unfold State.legally
  grind [illegal_mem]

theorem loadParts_memWf (h : HartId) (va : Word) (dest : UDest) (len : Nat) (ps : List Part) :
    (s.loadParts h va dest len ps).mem.wf = true := by
  unfold State.loadParts
  grind [retire_mem, trainLoad_mem, waits_mem, readParts_memWf, updHart_mem, eventT_mem, poisonUsed_mem, startRead_mem, waitsMiss_mem, trap_mem,
    ReadRes.memWf]

theorem aheadPieces_memWf (h : HartId) (seq : Nat) (pc : Word) (fwd : Option SbEntry) (l : List Part) :
    (s.aheadPieces h seq pc fwd l).mem.wf = true := by
  induction l generalizing s with
  | nil => exact hs
  | cons p l ih => rw [State.aheadPieces]; grind [ReadRes.memWf, readPiece_memWf, updHart_mem]

theorem loadAhead_memWf (h : HartId) (a : Ahead) : (s.loadAhead h a).mem.wf = true := by
  unfold State.loadAhead
  grind [trainLoad_mem, aheadPieces_memWf, tlbMiss_mem]

theorem execLoad_memWf {h : HartId} {k : LdKind} {virt : Virt} {rd rs1 : Fin 32} {imm : BitVec 12} {ahead : Option Ahead} {c : Bool}
    (hr : execLoad h k virt rd rs1 imm ahead c s = .next s') :
    s'.mem.wf = true := by
  unfold execLoad at hr
  grind [withParts_memWf, loadAhead_memWf, legally_memWf, loadParts_memWf, onHart_memWf]

theorem plainStore_memWf (h : HartId) (k : StKind) (virt : Virt) (rs2 rs1 : Fin 32) (imm : BitVec 12) (len : Nat) :
    (s.plainStore h k virt rs2 rs1 imm len).mem.wf = true := by
  unfold State.plainStore
  grind [withParts_memWf, legally_memWf, storeParts_mem, onHart_memWf]

theorem execStore_memWf {h : HartId} {k : StKind} {virt : Virt} {rs2 rs1 : Fin 32} {imm : BitVec 12} {c : StForm}
    (hr : execStore h k virt rs2 rs1 imm c s = .next s') :
    s'.mem.wf = true := by
  unfold execStore at hr
  grind [plainStore_memWf, storeAhead_mem]

theorem drainHead_memWf (h : HartId) (k : Nat) : (s.drainHead h k).mem.wf = true := by
  unfold State.drainHead
  grind [updHart_mem, writeTcm_memWf, drainCached_mem, drainUncached_mem]

theorem execStoreDrain_memWf {d : Drain} (hr : execStoreDrain d s = .next s') : s'.mem.wf = true := by
  unfold execStoreDrain at hr
  grind [drainHead_memWf]

theorem withAtomic_memWf (h : HartId) (acc : Acc) (va : Word) (n f5 rd rs2 : Nat) (f : State → Part → State)
    (hf : ∀ u x1, u.mem.wf = true → (f u x1).mem.wf = true) :
    (s.withAtomic h acc va n f5 rd rs2 f).mem.wf = true := by
  unfold State.withAtomic
  grind [waits_mem, updHart_mem, withParts_memWf, trap_mem]

theorem atomicAt_memWf (h : HartId) (p : Part) (va : Word) (n cost : Nat) (f : Nat → Option Nat × (Hart → Hart)) :
    (s.atomicAt h p va n cost f).mem.wf = true := by
  unfold State.atomicAt
  grind [retire_mem, endMshr_mem, dirty_mem, updHart_mem, writeTcm_memWf, readTcm_memWf, poisonUsed_mem, own_mem, waitsMiss_mem, readFail_mem, trap_mem,
    ReadRes.memWf]

theorem execAmo_memWf {h : HartId} {fn : AmoFn} {size : AccSize} {rd rs2 rs1 : Fin 32} (hr : execAmo h fn size rd rs2 rs1 s = .next s') : s'.mem.wf = true := by
  unfold execAmo at hr
  grind [atomicFar_mem, atomicAt_memWf, trap_mem, onHart_memWf, withAtomic_memWf]

theorem execLr_memWf {h : HartId} {size : AccSize} {rd rs1 : Fin 32} (hr : execLr h size rd rs1 s = .next s') : s'.mem.wf = true := by
  unfold execLr at hr
  grind [retire_mem, endMshr_mem, updHart_mem, readTcm_memWf, poisonUsed_mem, own_mem, waitsMiss_mem, readFail_mem, trap_mem, onHart_memWf,
    withAtomic_memWf, ReadRes.memWf]

theorem execSc_memWf {h : HartId} {size : AccSize} {rd rs2 rs1 : Fin 32} (hr : execSc h size rd rs2 rs1 s = .next s') : s'.mem.wf = true := by
  unfold execSc at hr
  grind [retire_mem, updHart_mem, atomicAt_memWf, trap_mem, event_mem, onHart_memWf, withAtomic_memWf]

theorem execAmocas_memWf {h : HartId} {bytes : Nat} {rd rs2 rs1 : Fin 32} (hr : execAmocas h bytes rd rs2 rs1 s = .next s') : s'.mem.wf = true := by
  unfold execAmocas at hr
  grind [atomicFar_mem, atomicAt_memWf, trap_mem, illegal_mem, onHart_memWf, withAtomic_memWf]

theorem execXpld_memWf {h : HartId} {rd rs1 : Fin 32} {imm : BitVec 12} (hr : execXpld h rd rs1 imm s = .next s') : s'.mem.wf = true := by
  unfold execXpld at hr
  grind [withParts_memWf, loadParts_memWf, startRead_mem, illegal_mem, onHart_memWf]

theorem execXpst_memWf {h : HartId} {rs2 rs1 : Fin 32} {imm : BitVec 12} (hr : execXpst h rs2 rs1 imm s = .next s') : s'.mem.wf = true := by
  unfold execXpst at hr
  grind [withParts_memWf, storeParts_mem, illegal_mem, onHart_memWf]

/-! ### Machine/Order.lean -/

theorem execFence_memWf {h : HartId} {pred succ : FSet} (hr : execFence h pred succ s = .next s') : s'.mem.wf = true := by
  unfold execFence at hr
  grind [fenceOr_mem, onHart_memWf]

theorem execFenceTso_memWf {h : HartId} (hr : execFenceTso h s = .next s') : s'.mem.wf = true := by
  unfold execFenceTso at hr
  grind [updHart_mem, fenceOr_mem, onHart_memWf]

theorem execXfenceP_memWf {h : HartId} (hr : execXfenceP h s = .next s') : s'.mem.wf = true := by
  unfold execXfenceP at hr
  grind [fenceOr_mem, onHart_memWf]

theorem execFenceI_memWf {h : HartId} (hr : execFenceI h s = .next s') : s'.mem.wf = true := by
  unfold execFenceI at hr
  grind [retire_mem, waits_mem, updHart_mem, onHart_memWf]

theorem cbo_memWf (h : HartId) (perm : CboOk) (f : Bool → State → State) (hf : ∀ x0 u, u.mem.wf = true → (f x0 u).mem.wf = true) :
    (s.cbo h perm f).mem.wf = true := by
  unfold State.cbo
  grind [illegal_mem]

theorem execCboClean_memWf {h : HartId} {rs1 : Fin 32} (hr : execCboClean h rs1 s = .next s') : s'.mem.wf = true := by
  unfold execCboClean at hr
  grind [cbo_memWf, cboLine_mem, onHart_memWf]

theorem execCboFlush_memWf {h : HartId} {rs1 : Fin 32} (hr : execCboFlush h rs1 s = .next s') : s'.mem.wf = true := by
  unfold execCboFlush at hr
  grind [cbo_memWf, cboLine_mem, onHart_memWf]

theorem execCboInval_memWf {h : HartId} {rs1 : Fin 32} (hr : execCboInval h rs1 s = .next s') : s'.mem.wf = true := by
  unfold execCboInval at hr
  grind [cbo_memWf, cboLine_mem, onHart_memWf]

theorem execCboZero_memWf {h : HartId} {rs1 : Fin 32} (hr : execCboZero h rs1 s = .next s') : s'.mem.wf = true := by
  unfold execCboZero at hr
  grind [cbo_memWf, tlbMiss_mem, storeParts_mem, trap_mem, illegal_mem, onHart_memWf]

theorem execPrefetchHint_memWf {h : HartId} {k : PfKind} {rs1 : Fin 32} {imm : BitVec 12} (hr : execPrefetchHint h k rs1 imm s = .next s') : s'.mem.wf = true := by
  unfold execPrefetchHint at hr
  grind [retire_mem, waits_mem, updHart_mem, request_mem, tlbMiss_mem, onHart_memWf]

theorem execXwayClean_memWf {h : HartId} {rs1 : Fin 32} (hr : execXwayClean h rs1 s = .next s') : s'.mem.wf = true := by
  unfold execXwayClean at hr
  grind [drainLines_mem, legally_memWf, onHart_memWf]

theorem execXwayCinv_memWf {h : HartId} {rs1 : Fin 32} (hr : execXwayCinv h rs1 s = .next s') : s'.mem.wf = true := by
  unfold execXwayCinv at hr
  grind [retire_mem, emptyWay_mem, drainLines_mem, legally_memWf, onHart_memWf]

theorem execXbrDrain_memWf {h : HartId} (hr : execXbrDrain h s = .next s') : s'.mem.wf = true := by
  unfold execXbrDrain at hr
  grind [drainLines_mem, legally_memWf, onHart_memWf]

/-! ### Machine/Graop.lean -/

theorem startStub_memWf : (s.startStub).mem.wf = true := by
  obtain ⟨-, -, hsram, -⟩ := (Mems.wf_iff _).1 hs
  rw [State.startStub, updHart_mem]
  exact Mems.wf_sram hs (memWf_memWrite _ _ _ _ hsram)

theorem maybeStart_memWf : (s.maybeStart).mem.wf = true := by
  unfold State.maybeStart
  split
  · exact startStub_memWf hs
  · exact hs

theorem hello_memWf (l nbr nbrLink : Nat) : (s.hello l nbr nbrLink).mem.wf = true := by
  unfold State.hello
  grind [routesChanged_mem, advertise_mem, setRoute_mem, maybeStart_memWf, chooseParent_mem, setLink_mem, notice_mem, linkErr_mem]

theorem execHelloFrame_memWf {l : Fin 8} {pkg : Fin 512} {nbrLink : Fin 8} (hr : execHelloFrame l pkg nbrLink s = .next s') : s'.mem.wf = true := by
  unfold execHelloFrame at hr
  grind [hello_memWf]

theorem execLinkRetry_memWf {l : Fin 8} {trained : Bool} {nbr : Fin 512} (hr : execLinkRetry l trained nbr s = .next s') : s'.mem.wf = true := by
  unfold execLinkRetry at hr
  grind [leaveGroup_mem, passTo_mem, setLink_mem, hello_memWf]

theorem execFabricBringupTimeout_memWf (hr : execFabricBringupTimeout s = .next s') : s'.mem.wf = true := by
  unfold execFabricBringupTimeout at hr
  grind [startStub_memWf]

theorem execRouteAdv_memWf {l : Fin 8} {us : List RouteUnit} (hr : execRouteAdv l us s = .next s') : s'.mem.wf = true := by
  have ht : (s.takeMgt l.val .routeAdv).mem.wf = true := memWf_of_eq hs (takeMgt_mem ..)
  cases hr
  split
  · exact ht
  · dsimp only
    split
    · exact ht
    · refine maybeStart_memWf (memWf_of_eq ht ?_)
      rw [chooseParent_mem, advertise_mem, routesChanged_mem, foldl_mem fun u x => setRoute_mem ..]

/-! ### Machine/Direct.lean -/

theorem pokeLine_memWf (la : Nat) (d : Line) (m : LineMask) : (s.pokeLine la d m).mem.wf = true := by
  obtain ⟨hdram, -, hsram, -⟩ := (Mems.wf_iff _).1 hs
  unfold State.pokeLine
  dsimp only
  split
  · rw [killResv_mem, mapHarts_mem, ite_mem, setMark_mem, ite_self, pokeCopies_mem]
    exact Mems.wf_dram hs (memWf_memLinePut _ _ _ _ hdram)
  · exact Mems.wf_sram hs (memWf_memLinePut _ _ _ _ hsram)
  · exact hs

theorem homeWrite_memWf (la : Nat) (d : Line) (m : LineMask) : (s.homeWrite la d m).mem.wf = true := by
  obtain ⟨hdram, -⟩ := (Mems.wf_iff _).1 hs
  unfold State.homeWrite
  dsimp only
  split
  · exact pokeLine_memWf hs _ _ _
  · split
    · rw [killResv_mem, ite_mem, setMark_mem, ite_self]
      exact Mems.wf_dram hs (memWf_memLinePut _ _ _ _ hdram)
    · split
      · exact pokeLine_memWf hs _ _ _
      · split
        · next t w ht =>
          refine memWf_of_eq hs ?_
          rw [writeCore_mem ht, killResv_mem, setSf_mem]
          exact foldl_mem (fun u a => by simp) _ s
        · exact pokeLine_memWf hs _ _ _

theorem homeBytes_memWf (la : Nat) (bs : List Byte) (n : Nat) : (s.homeBytes la bs n).mem.wf = true := by
  induction n generalizing s la bs with
  | zero => exact hs
  | succ n ih =>
    rw [State.homeBytes]
    split
    · exact hs
    · exact ih (homeWrite_memWf hs _ _ _) _ _

theorem pokeBytes_memWf (la : Nat) (bs : List Byte) (n : Nat) : (s.pokeBytes la bs n).mem.wf = true := by
  induction n generalizing s la bs with
  | zero => exact hs
  | succ n ih =>
    rw [State.pokeBytes]
    split
    · exact hs
    · exact ih (pokeLine_memWf hs _ _ _) _ _

/-! ### Machine/Who.lean -/

theorem refuseStore_memWf (h : HartId) (cause la : Nat) : (s.refuseStore h cause la).mem.wf = true :=
  onHart_memWf hs h 4 _ fun _ hu => memWf_of_eq hu (trap_mem ..)

theorem r31Write_memWf (r : DevReg) (la : Nat) (n : Node) (who : Master) (f : State → State)
    (hf : ∀ u, u.mem.wf = true → (f u).mem.wf = true) :
    (s.r31Write r la n who f).mem.wf = true := by
  unfold State.r31Write
  grind [writeIgnored_mem, refuseStore_memWf]

/-! ### Machine/Mailbox.lean -/

theorem mbWrite_memWf (n off : Nat) (v m : Word) : (s.mbWrite n off v m).mem.wf = true := by
  obtain ⟨-, -, -, hmbox, -⟩ := (Mems.wf_iff _).1 hs
  have hw := Mems.wf_mbox hs (memWf_memWrite _ (n * 0x1000 + off) 4 v.toNat hmbox)
  unfold State.mbWrite
  grind [doorbell_mem, updMb_mem, mbAck_mem]

theorem mbPut_memWf (off : Nat) (l : List Byte) (n : Nat) : (s.mbPut off l n).mem.wf = true := by
  induction n generalizing s off l with
  | zero => cases l <;> exact hs
  | succ n ih => cases l with
    | nil => exact hs
    | cons b l =>
      rw [State.mbPut]
      exact ih (mbWrite_memWf hs _ _ _ _) _ _
      simp

theorem execI3cPrivateTransfer_memWf {off : BitVec 16} {write : Bool} {data : List Byte}
    (hr : execI3cPrivateTransfer off write data s = .next s') :
    s'.mem.wf = true := by
  unfold execI3cPrivateTransfer at hr
  grind [mbPut_memWf]

theorem finishCmd_memWf (n status : Nat) (resp : List Byte) : (s.finishCmd n status resp).mem.wf = true := by
  obtain ⟨-, -, -, hmbox, -⟩ := (Mems.wf_iff _).1 hs
  rw [State.finishCmd, updMb_mem]
  exact Mems.wf_mbox hs (memWf_memPut _ _ _ hmbox)

theorem finishWork_memWf (u : Unfinished) (status : Nat) (resp : List Byte) :
    (s.finishWork u status resp).mem.wf = true := by
  unfold State.finishWork
  grind [finishCmd_memWf]

theorem runCmd_memWf (n : Fin 32) (code : Nat) (body : State → CmdEnd) (hbody : ∀ u, u.mem.wf = true → (body u).memWf) :
    (s.runCmd n code body).mem.wf = true := by
  have hb := hbody s hs
  unfold State.runCmd
  split
  · exact hs
  · split
    · cases e : body s <;> rw [e] at hb <;> simp_all [finishCmd_memWf]
    · exact finishCmd_memWf hs _ _ _

/-- The same where the command's own effect leaves the memories alone: only its response is written. -/
theorem runCmd_memIs (n : Fin 32) (code : Nat) (body : State → CmdEnd) (hbody : ∀ u, (body u).memIs u.mem) : (s.runCmd n code body).mem.wf = true :=
  runCmd_memWf hs n code body fun u hu => CmdEnd.memWf_of_memIs hu (hbody u)

theorem execMbCommandComplete_memWf {n : Fin 32} (hr : execMbCommandComplete n s = .next s') : s'.mem.wf = true := by
  unfold execMbCommandComplete at hr
  grind [wirePulse_mem, setMb_mem, finishCmd_memWf]

theorem bufPut_memWf (n : Nat) (out : List Byte) : (s.bufPut n out).mem.wf = true := by
  unfold State.bufPut
  exact homeBytes_memWf hs _ _ _

/-! ### Machine/Instance.lean -/

theorem execInstanceResetDrainDone_memWf {i : Fin 64} (hr : execInstanceResetDrainDone i s = .next s') : s'.mem.wf = true := by
  have hscrub : ∀ l : List Nat, (l.foldl (fun s c => s.updDma c Dma.scrub) s).mem.wf = true := fun l =>
    foldl_memWf hs (fun u c hu => memWf_of_eq hu (updDma_mem u c _)) l
  cases hr
  split
  · exact hs
  · dsimp only
    generalize hu : List.foldl _ s _ = u
    have hu : u.mem.wf = true := hu ▸ hscrub _
    split
    · refine finishWork_memWf (finishWork_memWf (memWf_of_eq hu ?_) ..) ..
      simp only [unbind_mem, updIommu_mem, release_mem, ite_mem, ite_self]
      split <;> simp
    · exact finishWork_memWf (memWf_of_eq hu (by simp)) ..

theorem execInstanceCreate_memWf {n : Fin 32} (hr : execInstanceCreate n s = .next s') : s'.mem.wf = true := by
  cases hr
  refine runCmd_memIs hs n _ _ fun u => ?_
  dsimp only
  refine cmdEnd_memIs_ite trivial (cmdEnd_memIs_ite trivial (cmdEnd_memIs_ite trivial ?_))
  split
  · trivial
  · next hv => simpa using reservePair_mem hv

theorem execInstanceDestroy_memWf {n : Fin 32} (hr : execInstanceDestroy n s = .next s') : s'.mem.wf = true := by
  cases hr
  refine runCmd_memIs hs n _ _ fun u => ?_
  dsimp only
  grind [beginWork_mem, updInstance_mem, namedInstance_mem, drainInstance_mem, CmdEnd.memIs]

theorem execInstanceReset_memWf {n : Fin 32} (hr : execInstanceReset n s = .next s') : s'.mem.wf = true := by
  cases hr
  refine runCmd_memIs hs n _ _ fun u => ?_
  dsimp only
  grind [beginWork_mem, namedInstance_mem, drainInstance_mem, CmdEnd.memIs]

theorem execInstanceQuery_memWf {n : Fin 32} (hr : execInstanceQuery n s = .next s') : s'.mem.wf = true := by
  cases hr
  refine runCmd_memIs hs n _ _ fun u => ?_
  dsimp only
  grind [namedInstance_mem, CmdEnd.memIs]

/-! ### Machine/Wheel.lean -/

theorem execMeshWheelReserve_memWf {n : Fin 32} (hr : execMeshWheelReserve n s = .next s') : s'.mem.wf = true := by
  cases hr
  refine runCmd_memIs hs n _ _ fun u => ?_
  dsimp only
  refine cmdEnd_memIs_ite trivial (cmdEnd_memIs_ite trivial (cmdEnd_memIs_ite trivial ?_))
  split
  · trivial
  · next hv => exact reserve_mem hv

theorem execMeshWheelRelease_memWf {n : Fin 32} (hr : execMeshWheelRelease n s = .next s') : s'.mem.wf = true := by
  cases hr
  refine runCmd_memIs hs n _ _ fun u => ?_
  dsimp only
  grind [CmdEnd.memIs, release_mem, beginWork_mem]

theorem execWheelReleaseSlotsFree_memWf {rid : Fin 128} (hr : execWheelReleaseSlotsFree rid s = .next s') : s'.mem.wf = true := by
  have hf : ((s.freeSlots rid.val).finishWork (.release rid) 0 []).mem.wf = true := finishWork_memWf (memWf_of_eq hs (freeSlots_mem ..)) ..
  unfold execWheelReleaseSlotsFree State.guard at hr
  grind

theorem execMeshWheelQuery_memWf {n : Fin 32} (hr : execMeshWheelQuery n s = .next s') : s'.mem.wf = true := by
  cases hr
  refine runCmd_memIs hs n _ _ fun u => ?_
  dsimp only
  grind [CmdEnd.memIs]

/-! ### Machine/Commands.lean -/

theorem execRennetInfo_memWf {n : Fin 32} (hr : execRennetInfo n s = .next s') : s'.mem.wf = true := by
  cases hr
  refine runCmd_memIs hs n _ _ fun u => ?_
  grind [CmdEnd.memIs]

theorem execMailboxAssign_memWf {n : Fin 32} (hr : execMailboxAssign n s = .next s') : s'.mem.wf = true := by
  cases hr
  refine runCmd_memIs hs n _ _ fun u => ?_
  dsimp only
  grind [updMb_mem, CmdEnd.memIs]

theorem execNoticeRead_memWf {n : Fin 32} (hr : execNoticeRead n s = .next s') : s'.mem.wf = true := by
  cases hr
  refine runCmd_memIs hs n _ _ fun u => ?_
  dsimp only
  grind [CmdEnd.memIs]

theorem execMemTrain_memWf {n : Fin 32} {ok : BitVec 48} (hr : execMemTrain n ok s = .next s') : s'.mem.wf = true := by
  cases hr
  refine runCmd_memIs hs n _ _ fun u => ?_
  dsimp only
  grind [trainChans_mem, CmdEnd.memIs]

theorem execMemChannelStatus_memWf {n : Fin 32} (hr : execMemChannelStatus n s = .next s') : s'.mem.wf = true := by
  cases hr
  refine runCmd_memIs hs n _ _ fun u => ?_
  dsimp only
  grind [CmdEnd.memIs]

theorem execMemScrubSet_memWf {n : Fin 32} (hr : execMemScrubSet n s = .next s') : s'.mem.wf = true := by
  cases hr
  refine runCmd_memIs hs n _ _ fun u => ?_
  dsimp only
  grind [CmdEnd.memIs]

theorem execMemPageRetire_memWf {n : Fin 32} (hr : execMemPageRetire n s = .next s') : s'.mem.wf = true := by
  cases hr
  refine runCmd_memIs hs n _ _ fun u => ?_
  dsimp only
  grind [retirePage_mem, CmdEnd.memIs]

theorem execMemRetireList_memWf {n : Fin 32} (hr : execMemRetireList n s = .next s') : s'.mem.wf = true := by
  cases hr
  refine runCmd_memWf hs n _ _ fun u hu => ?_
  dsimp only
  grind [bufPut_memWf, CmdEnd.memWf]

theorem execFabricRouteQuery_memWf {n : Fin 32} (hr : execFabricRouteQuery n s = .next s') : s'.mem.wf = true := by
  cases hr
  refine runCmd_memIs hs n _ _ fun u => ?_
  dsimp only
  grind [CmdEnd.memIs]

theorem execFabricLinkStatus_memWf {n : Fin 32} (hr : execFabricLinkStatus n s = .next s') : s'.mem.wf = true := by
  cases hr
  refine runCmd_memIs hs n _ _ fun u => ?_
  dsimp only
  grind [CmdEnd.memIs]

theorem execFabricLinkDisable_memWf {n : Fin 32} (hr : execFabricLinkDisable n s = .next s') : s'.mem.wf = true := by
  cases hr
  refine runCmd_memIs hs n _ _ fun u => ?_
  dsimp only
  grind [beginWork_mem, leaveGroup_mem, updLink_mem, CmdEnd.memIs]

theorem execFabricLinkDisableDrained_memWf {l : Fin 8} (hr : execFabricLinkDisableDrained l s = .next s') : s'.mem.wf = true := by
  cases hr
  split
  · exact hs
  · exact finishWork_memWf (memWf_of_eq hs (by simp [ite_mem])) ..

theorem execFabricLinkEnable_memWf {n : Fin 32} {trained : Bool} {nbr : Fin 512} (hr : execFabricLinkEnable n trained nbr s = .next s') : s'.mem.wf = true := by
  cases hr
  refine runCmd_memWf hs n _ _ fun u hu => ?_
  dsimp only
  grind [setLink_mem, hello_memWf, CmdEnd.memWf]

theorem execFabricInboundSet_memWf {n : Fin 32} (hr : execFabricInboundSet n s = .next s') : s'.mem.wf = true := by
  cases hr
  refine runCmd_memIs hs n _ _ fun u => ?_
  dsimp only
  grind [CmdEnd.memIs]

theorem execFabricTimeStatus_memWf {n : Fin 32} (hr : execFabricTimeStatus n s = .next s') : s'.mem.wf = true := by
  cases hr
  refine runCmd_memIs hs n _ _ fun u => ?_
  dsimp only
  grind [CmdEnd.memIs]

theorem execCacheWaygroupSet_memWf {n : Fin 32} (hr : execCacheWaygroupSet n s = .next s') : s'.mem.wf = true := by
  cases hr
  refine runCmd_memIs hs n _ _ fun u => ?_
  refine cmdEnd_memIs_ite trivial (cmdEnd_memIs_ite ?_ ?_)
  · exact foldl_mem (fun v o => switchGroups_mem ..) _ u
  · exact (beginWork_mem ..).trans (foldl_mem (fun v o => switchGroups_mem ..) _ u)

theorem execWaygroupScanDone_memWf {o : Fin 6} {g : Fin 4} (hr : execWaygroupScanDone o g s = .next s') : s'.mem.wf = true := by
  unfold execWaygroupScanDone at hr
  grind [finishWork_memWf, scanGroup_mem]

/-! ### Machine/Scalar.lean -/

theorem execIntegerInstruction_memWf {h : HartId} {op : IntOp} {rd rs1 : Fin 32} {src : Src} {c : Bool}
    (hr : execIntegerInstruction h op rd rs1 src c s = .next s') :
    s'.mem.wf = true := by
  unfold execIntegerInstruction at hr
  grind [retire_mem, updHart_mem, illegal_mem, event_mem, onHart_memWf]

theorem execFpInstruction_memWf {h : HartId} {op : FpOp} {rd rs1 rs2 rs3 : Fin 32} {rm : Fin 8}
    (hr : execFpInstruction h op rd rs1 rs2 rs3 rm s = .next s') :
    s'.mem.wf = true := by
  unfold execFpInstruction at hr
  grind [retire_mem, latIn_mem, updHart_mem, legally_memWf, illegal_mem, onHart_memWf]

theorem execXmouldModeSet_memWf {h : HartId} (hr : execXmouldModeSet h s = .next s') : s'.mem.wf = true := by
  unfold execXmouldModeSet at hr
  grind [retire_mem, mouldSet_mem, legally_memWf, onHart_memWf]

theorem execXmouldModeClear_memWf {h : HartId} (hr : execXmouldModeClear h s = .next s') : s'.mem.wf = true := by
  unfold execXmouldModeClear at hr
  grind [retire_mem, legally_memWf, mouldClear_mem, onHart_memWf]

theorem execCsrWrite_memWf {h : HartId} {op : CsrOp} {csr : BitVec 12} {rd : Fin 32} {src : Src} {writes : Bool}
    (hr : execCsrWrite h op csr rd src writes s = .next s') :
    s'.mem.wf = true := by
  unfold execCsrWrite at hr
  grind [retire_mem, csrWrite_mem, updHart_mem, legally_memWf, mouldWrite_mem, trap_mem, onHart_memWf]

theorem execWfi_memWf {h : HartId} (hr : execWfi h s = .next s') : s'.mem.wf = true := by
  unfold execWfi at hr
  grind [retire_mem, updHart_mem, legally_memWf, onHart_memWf]

theorem execPause_memWf {h : HartId} (hr : execPause h s = .next s') : s'.mem.wf = true := by
  unfold execPause at hr
  grind [retire_mem, onHart_memWf]

theorem execControlTransferResolve_memWf {h : HartId} {k : CtKind} {rd rs1 rs2 : Fin 32} {imm : BitVec 21} {wrong : List RasOp} {c : Bool}
    (hr : execControlTransferResolve h k rd rs1 rs2 imm wrong c s = .next s') :
    s'.mem.wf = true := by
  unfold execControlTransferResolve at hr
  grind [retire_mem, updHart_mem, eventT_mem, event_mem, onHart_memWf]

theorem execXpredBar1_memWf {h : HartId} (hr : execXpredBar1 h s = .next s') : s'.mem.wf = true := by
  unfold execXpredBar1 at hr
  grind [retire_mem, updHart_mem, onHart_memWf]

theorem execXpredBar0_memWf {h : HartId} (hr : execXpredBar0 h s = .next s') : s'.mem.wf = true := by
  unfold execXpredBar0 at hr
  grind [retire_mem, updHart_mem, onHart_memWf]

theorem execXpredFlush_memWf {h : HartId} (hr : execXpredFlush h s = .next s') : s'.mem.wf = true := by
  unfold execXpredFlush at hr
  grind [retire_mem, updHart_mem, onHart_memWf]

/-! ### Machine/Interrupts.lean -/

theorem execEvswPulse_memWf {who : Master} {v : BitVec 32} (hr : execEvswPulse who v s = .next s') : s'.mem.wf = true := by
  unfold execEvswPulse at hr
  grind [evsw_mem, r31Write_memWf]

/-! ### Machine/Brine.lean -/

theorem execBrineStatus_memWf {n : Fin 32} (hr : execBrineStatus n s = .next s') : s'.mem.wf = true := by
  cases hr
  refine runCmd_memIs hs n _ _ fun u => ?_
  grind [CmdEnd.memIs]

theorem execBrineJournalStore_memWf {n : Fin 32} (hr : execBrineJournalStore n s = .next s') : s'.mem.wf = true := by
  cases hr
  refine runCmd_memIs hs n _ _ fun u => ?_
  dsimp only
  grind [CmdEnd.memIs]

theorem execBrineJournalLoad_memWf {n : Fin 32} (hr : execBrineJournalLoad n s = .next s') : s'.mem.wf = true := by
  cases hr
  refine runCmd_memWf hs n _ _ fun u hu => ?_
  dsimp only
  grind [bufPut_memWf, CmdEnd.memWf]

theorem storeLine_memWf (ln : Nat) (d : Line) (poison : Bool) : (s.storeLine ln d poison).mem.wf = true := by
  obtain ⟨hdram, -⟩ := (Mems.wf_iff _).1 hs
  unfold State.storeLine
  split
  · exact hs
  · exact Mems.wf_dram hs (memWf_memLinePut _ _ _ _ hdram)

theorem settle_memWf (lines : List Nat) : (s.settle lines).mem.wf = true := by
  unfold State.settle
  dsimp only
  exact foldl_memWf (selfRefreshAll_memWf hs) (fun _ x hu => storeLine_memWf hu ..) _

theorem landWrites_memWf : (s.landWrites).mem.wf = true := by
  refine foldl_memWf hs (fun u f hu => ?_) _
  split
  · exact pokeLine_memWf hu _ _ _
  · exact hu

/-! ### Machine/Rind.lean -/

theorem mbDown_memWf (n : Nat) : (s.mbDown n).mem.wf = true := by
  rw [State.mbDown, updMb_mem]
  split
  · exact finishCmd_memWf hs ..
  · exact hs

theorem rennetReset_memWf : (s.rennetReset).mem.wf = true := by
  have hd : ((List.range 32).foldl State.mbDown s).mem.wf = true := foldl_memWf hs (fun _ n hu => mbDown_memWf hu n) _
  unfold State.rennetReset
  split
  · exact hs
  · generalize (List.range 32).foldl State.mbDown s = u at hd
    dsimp only
    rwa [ite_mem, fence_mem, ite_self]

theorem rindRefuse_memWf (rule : Nat) : (s.rindRefuse rule).mem.wf = true := by
  unfold State.rindRefuse
  grind [rennetReset_memWf, notice_mem, logErr_mem]

theorem execHeartbeatTimeout_memWf (hr : execHeartbeatTimeout s = .next s') : s'.mem.wf = true := by
  unfold execHeartbeatTimeout at hr
  grind [rennetReset_memWf, passTo_mem]

theorem execLockstepMismatch_memWf (hr : execLockstepMismatch s = .next s') : s'.mem.wf = true := by
  unfold execLockstepMismatch at hr
  grind [rennetReset_memWf]

theorem finishInterrupted_memWf (n : Unfinished) : (s.finishInterrupted n).mem.wf = true := by
  unfold State.finishInterrupted
  grind [execWheelReleaseSlotsFree_memWf, execInstanceResetDrainDone_memWf, execFabricLinkDisableDrained_memWf]

theorem execRennetRestartDone_memWf (hr : execRennetRestartDone s = .next s') : s'.mem.wf = true := by
  have hf : (s.ren.unfinished.foldl (fun (u : State) (x : Unfinished × Option (Fin 32)) => u.finishInterrupted x.1) s).mem.wf = true :=
    foldl_memWf hs (fun _ x hu => finishInterrupted_memWf hu x.1) _
  have hb : ∀ (u : State) (f : Mbox → Mbox), ((List.range 32).foldl (fun u n => u.updMb n f) u).mem = u.mem := fun u f => foldl_mem (fun v n => updMb_mem v n f) _ u
  cases hr
  split
  · exact hs
  · dsimp only
    split
    · exact hf
    · refine maybeStart_memWf (memWf_of_eq hf ?_)
      simp only [notice_mem, hb]

/-! ### Machine/Power.lean -/

theorem execPowerLimitSet_memWf {n : Fin 32} (hr : execPowerLimitSet n s = .next s') : s'.mem.wf = true := by
  cases hr
  refine runCmd_memIs hs n _ _ fun u => ?_
  dsimp only
  grind [CmdEnd.memIs]

theorem execPowerFreqSet_memWf {n : Fin 32} (hr : execPowerFreqSet n s = .next s') : s'.mem.wf = true := by
  cases hr
  refine runCmd_memIs hs n _ _ fun u => ?_
  dsimp only
  grind [mapHarts_mem, rethrottle_mem, CmdEnd.memIs]

theorem execPowerMeshFreqSet_memWf {n : Fin 32} (hr : execPowerMeshFreqSet n s = .next s') : s'.mem.wf = true := by
  cases hr
  refine runCmd_memIs hs n _ _ fun u => ?_
  dsimp only
  grind [CmdEnd.memIs]

theorem execPowerStatus_memWf {n : Fin 32} (hr : execPowerStatus n s = .next s') : s'.mem.wf = true := by
  cases hr
  refine runCmd_memIs hs n _ _ fun u => ?_
  grind [CmdEnd.memIs]

theorem execPowerDomainSet_memWf {n : Fin 32} (hr : execPowerDomainSet n s = .next s') : s'.mem.wf = true := by
  cases hr
  refine runCmd_memIs hs n _ _ fun u => ?_
  refine cmdEnd_memIs_ite trivial (cmdEnd_memIs_ite (cmdEnd_memIs_ite trivial ?_) (cmdEnd_memIs_ite trivial ?_))
  · simp [ite_mem]
  · simp [ite_mem, foldl_mem fun (v : State) (c : Nat) => setDma_mem v c _]

theorem execPowerDomainOff_memWf {h : HartId} (hr : execPowerDomainOff h s = .next s') : s'.mem.wf = true := by
  cases hr
  split
  · exact hs
  · dsimp only
    rw [ite_mem, updHart_mem]
    split
    · exact hs
    · exact wf_dropTcm _ h hs

theorem execPackageRetentionEntry_memWf (hr : execPackageRetentionEntry s = .next s') : s'.mem.wf = true := by
  cases hr
  refine ite_memWf hs ?_
  rw [withPow_mem, freeAllTokens_mem]
  exact settle_memWf (memWf_of_eq hs (passTo_mem ..)) _

/-! ### Machine/Errors.lean -/

theorem execEsRecordFree_memWf {who : Master} {t : Fin 8} {k : Fin 64} (hr : execEsRecordFree who t k s = .next s') : s'.mem.wf = true := by
  unfold execEsRecordFree at hr
  grind [r31Write_memWf, freeRec_mem]

theorem execErrorLogRead_memWf {n : Fin 32} (hr : execErrorLogRead n s = .next s') : s'.mem.wf = true := by
  cases hr
  refine runCmd_memWf hs n _ _ fun u hu => ?_
  dsimp only
  grind [bufPut_memWf, CmdEnd.memWf]

theorem drainHeld_memWf : (s.drainHeld).mem.wf = true := foldl_memWf hs (fun _ _ hu => pokeBytes_memWf hu ..) _

theorem flushSteps_memWf (t0 : Nat) : (s.flushSteps t0).mem.wf = true := by
  have hstop : s.stopHarts.mem.wf = true := memWf_of_eq hs (stopHarts_mem s)
  unfold State.flushSteps
  dsimp only
  rw [takeNat_mem]
  exact settle_memWf (landWrites_memWf (drainHeld_memWf hstop)) _

theorem execPowerFailFlush_memWf (hr : execPowerFailFlush s = .next s') : s'.mem.wf = true := by
  unfold execPowerFailFlush at hr
  grind [flushSteps_memWf, passTo_mem]

theorem execPkgFatalError_memWf {sl : Fin 192} {cause : PkgFatal} (hr : execPkgFatalError sl cause s = .next s') : s'.mem.wf = true := by
  unfold execPkgFatalError at hr
  grind [flushSteps_memWf, logErr_mem]

/-! ### Machine/Security.lean -/

theorem execAttestQuote_memWf {n : Fin 32} {sig : List Byte} (hr : execAttestQuote n sig s = .next s') : s'.mem.wf = true := by
  cases hr
  exact runCmd_memWf hs n _ _ fun u hu => cmdEnd_memWf_ite trivial (cmdEnd_memWf_ite trivial (cmdEnd_memWf_ite trivial (bufPut_memWf hu ..)))

theorem execCertChainRead_memWf {n : Fin 32} {chain : List Byte} (hr : execCertChainRead n chain s = .next s') : s'.mem.wf = true := by
  cases hr
  exact runCmd_memWf hs n _ _ fun u hu => cmdEnd_memWf_ite trivial (bufPut_memWf hu ..)

theorem execDebugLevelSet_memWf {n : Fin 32} {tok : DbgToken} (hr : execDebugLevelSet n tok s = .next s') : s'.mem.wf = true := by
  cases hr
  refine runCmd_memIs hs n _ _ fun u => ?_
  dsimp only
  grind [beginWork_mem, setLevel_mem, pushToken_mem, CmdEnd.memIs]

theorem execTokenCheckDone_memWf (hr : execTokenCheckDone s = .next s') : s'.mem.wf = true := by
  unfold execTokenCheckDone at hr
  grind [enterLevel_mem, finishWork_memWf]

theorem execFwStage_memWf {n : Fin 32} {img : ImageInfo} (hr : execFwStage n img s = .next s') : s'.mem.wf = true := by
  cases hr
  refine runCmd_memIs hs n _ _ fun u => ?_
  dsimp only
  grind [CmdEnd.memIs]

theorem execFwCommit_memWf {n : Fin 32} (hr : execFwCommit n s = .next s') : s'.mem.wf = true := by
  cases hr
  refine runCmd_memIs hs n _ _ fun u => ?_
  dsimp only
  grind [CmdEnd.memIs]

/-! ### Machine/HartReset.lean -/

theorem drainNow_memWf (h : HartId) : (s.drainNow h).mem.wf = true := by
  unfold State.drainNow
  dsimp only
  rw [foldl_mem fun u p => by grind [drainUncached_mem], updHart_mem]
  refine foldl_memWf hs (fun u e hu => foldl_memWf hu (fun v p hv => ?_) _) _
  split
  · exact writeTcm_memWf hv ..
  · exact pokeBytes_memWf hv ..
  · exact hv

theorem startReset_memWf (h : HartId) : (s.startReset h).mem.wf = true := by
  have hd : ∀ u : State, u.mem = s.mem → (u.drainNow h).mem.wf = true := fun u hu => drainNow_memWf (memWf_of_eq hs hu) h
  unfold State.startReset
  grind [startAtRvec_mem, endReset_mem, wake_mem, updHart_mem, hartResetNow_mem]

theorem hrstWrite_memWf (h : HartId) (v m : Word) : (s.hrstWrite h v m).mem.wf = true := by
  unfold State.hrstWrite
  grind [endReset_mem, startReset_memWf, setHart_mem]

theorem execHartReset_memWf {who : Master} {h : HartId} {v : Word} (hr : execHartReset who h v s = .next s') : s'.mem.wf = true := by
  unfold execHartReset at hr
  grind [hrstWrite_memWf, r31Write_memWf]

/-! ### Machine/Perf.lean -/

theorem execPmBankClr_memWf {who : Master} {stop : Fin 320} {b : Fin 3} (hr : execPmBankClr who stop b s = .next s') : s'.mem.wf = true := by
  unfold execPmBankClr at hr
  grind [bankClr_mem, r31Write_memWf]

theorem execLadleEnable_memWf {who : Master} {v : BitVec 32} (hr : execLadleEnable who v s = .next s') : s'.mem.wf = true := by
  unfold execLadleEnable at hr
  grind [r31Write_memWf, ladleCtl_mem]

theorem execLadleSnap_memWf {who : Master} (hr : execLadleSnap who s = .next s') : s'.mem.wf = true := by
  unfold execLadleSnap at hr
  grind [ladleTrigger_mem, r31Write_memWf]

theorem ringWrite_memWf (o : Nat) (l : List (List Byte)) : (s.ringWrite o l).1.mem.wf = true := by
  induction l generalizing s o with
  | nil => exact hs
  | cons r l ih =>
    rw [State.ringWrite]
    split
    · exact ih (homeBytes_memWf hs ..) _
    · exact hs

theorem execLadleSnapshotDone_memWf (hr : execLadleSnapshotDone s = .next s') : s'.mem.wf = true := by
  unfold execLadleSnapshotDone at hr
  grind [pulse_mem, ringWrite_memWf, dropLatches_mem, logErr_mem, setLadle_mem]

/-! ### Machine/Device.lean -/

theorem execMcInjArm_memWf {who : Master} {ch : Fin 48} {v : BitVec 32} (hr : execMcInjArm who ch v s = .next s') : s'.mem.wf = true := by
  unfold execMcInjArm at hr
  grind [injCtlWrite_mem, r31Write_memWf]

theorem execGlInjArm_memWf {who : Master} {l : Fin 8} {v : BitVec 32} (hr : execGlInjArm who l v s = .next s') : s'.mem.wf = true := by
  unfold execGlInjArm at hr
  grind [glInjWrite_mem, r31Write_memWf]

/-! ### Machine/Uncached.lean -/

theorem writeAtMgmt_memWf (f : Flit) : (s.writeAtMgmt f).mem.wf = true := by
  unfold State.writeAtMgmt
  split
  · exact pokeLine_memWf hs ..
  · exact memWf_of_eq hs (failWrite_mem ..)

/-! ### Machine/Debug.lean -/

theorem absMem_memWf (h : HartId) (virt : Bool) (acc : Acc) (a : Word) (n : Nat) (f : State → List Part → State)
    (hf : ∀ u x1, u.mem.wf = true → (f u x1).mem.wf = true) :
    (s.absMem h virt acc a n f).mem.wf = true := by
  unfold State.absMem
  grind [updHart_mem, absEnd_mem, tlbMiss_mem]

theorem absLoad_memWf (h : HartId) (n : Nat) (ps : List Part) : (s.absLoad h n ps).mem.wf = true := by
  unfold State.absLoad
  grind [readParts_memWf, absEnd_mem, poisonUsed_mem, absRead_mem, startRead_mem, ReadRes.memWf]

theorem execDmAbstractCommand_memWf {h : HartId} {cmd : AbsCmd} (hr : execDmAbstractCommand h cmd s = .next s') : s'.mem.wf = true := by
  unfold execDmAbstractCommand at hr
  grind [absWriteReg_mem, absLoad_memWf, absEnd_mem, absReadReg_mem, absMem_memWf, absStore_mem]

/-! ### Machine/RennetPort.lean -/

theorem rennetMem_memWf (a : Nat) (write : Bool) (v : Line) : (s.rennetMem a write v).mem.wf = true := by
  unfold State.rennetMem
  grind [rindRefuse_memWf, rennetSend_mem]

theorem rennetWheel_memWf (stop : Nat) (out : Port) (slot : Nat) (owner : Option (Fin 128)) : (s.rennetWheel stop out slot owner).mem.wf = true := by
  unfold State.rennetWheel
  grind [rindRefuse_memWf]

theorem rennetRoute_memWf (entry : Nat) (v : Bool) (g : Fin 8) (hops : Nat) : (s.rennetRoute entry v g hops).mem.wf = true := by
  unfold State.rennetRoute
  grind [rindRefuse_memWf]

theorem rennetPool_memWf (c : Nat) (i : Fin 64) : (s.rennetPool c i).mem.wf = true := by
  unfold State.rennetPool
  grind [rindRefuse_memWf, giveChans_mem, setInstance_mem]

/-! ### Machine/Boot.lean -/

theorem startHost_memWf (accepted : Bool) : (s.startHost accepted).mem.wf = true := by
  have hw : ∀ u : State, u.mem = s.mem → Mems.wf { u.mem with sram := memPut u.mem.sram 0 u.bootRecord } = true := fun u hu => by
    rw [hu]
    exact Mems.wf_sram hs (memWf_memPut _ _ _ ((Mems.wf_iff _).1 hs).2.2.1)
  unfold State.startHost
  refine maybeStart_memWf (hw _ ?_)
  split <;> simp

/-! ### Machine/Vector.lean -/

theorem execVectorConfig_memWf {h : HartId} {i : VCfg} (hr : execVectorConfig h i s = .next s') : s'.mem.wf = true := by
  unfold execVectorConfig at hr
  grind [retire_mem, updHart_mem, legally_memWf, onHart_memWf]

theorem vecArith_memWf (h : HartId) (op : VArith) (vd vs2 : Nat) (src : VSrc) (masked : Bool) :
    (s.vecArith h op vd vs2 src masked).mem.wf = true := by
  unfold State.vecArith
  grind [retire_mem, updHart_mem, legally_memWf, illegal_mem, event_mem]

theorem vloadElems_memWf (h : HartId) (c0 : Hart) (ad : VAddr) (v : VShape) (vd : Nat) (base : Word) (l : List Nat) :
    (s.vloadElems h c0 ad v vd base l).memWf := by
  induction l generalizing s with
  | nil => exact hs
  | cons k l ih =>
    rw [State.vloadElems]
    grind [VStep.memWf, ReadRes.memWf, readParts_memWf, vloadFault_mem, vBack_mem, tlbMiss_mem, startRead_mem, poisonUsed_mem, updHart_mem]

theorem vloadGroup_memWf (h : HartId) (c0 : Hart) (ad : VAddr) (v : VShape) (vd : Nat) (base : Word) (ks : List Nat) :
    (s.vloadGroup h c0 ad v vd base ks).memWf := by
  unfold State.vloadGroup
  grind [vloadElems_memWf, readParts_memWf, updHart_mem, vBack_mem, ReadRes.memWf, VStep.memWf]

theorem vloadLoop_memWf (h : HartId) (c0 : Hart) (ad : VAddr) (v : VShape) (vd : Nat) (base : Word) (l : List (List Nat)) :
    (s.vloadLoop h c0 ad v vd base l).mem.wf = true := by
  induction l generalizing s with
  | nil => exact memWf_of_eq hs (vmemDone_mem ..)
  | cons g l ih => rw [State.vloadLoop]; grind [VStep.memWf, vloadGroup_memWf]

theorem vecMem_memWf (h : HartId) (store : Bool) (ad : VAddr) (eew : AccSize) (nf vd : Nat) (rs1 : Fin 32) (masked : Bool) :
    (s.vecMem h store ad eew nf vd rs1 masked).mem.wf = true := by
  unfold State.vecMem
  grind [vstore_mem, vloadLoop_memWf, legally_memWf, illegal_mem]

theorem execVectorInstruction_memWf {h : HartId} {i : VInstr} (hr : execVectorInstruction h i s = .next s') : s'.mem.wf = true := by
  unfold execVectorInstruction at hr
  grind [vecMem_memWf, vecArith_memWf, onHart_memWf]
end

end Sys2Proof.Machine
end

section
/-!
CLAIM. No step breaks the canonical form of a memory (R92, R107, R114, R230, R237, R429).
-/
namespace Sys2Proof.Machine

-- One proof at a time: the many proofs of this section elaborated side by side take more memory than a compile of the whole text is given.
set_option Elab.async false

section
variable {s t : State} (hs : s.mem.wf = true)
include hs

/-! ### Registers written through their pages -/

omit hs in
theorem pmaCtl_mem (s : State) (v m : Word) : (s.pmaCtl v m).mem = s.mem := driveBrine_mem _

/-- Of the registers, only the page of a mailbox and a reset that drains a store buffer reach a memory (R424, R516). -/
theorem regWrite_memWf (who : Master) (r : DevReg) (v m : Word) : (s.regWrite who r v m).mem.wf = true := by
  unfold State.regWrite
  split
  case h_3 => exact hrstWrite_memWf hs ..
  case h_4 => rwa [pmaCtl_mem]
  case h_26 =>
    split
    · exact mbWrite_memWf hs ..
    · exact hs
  all_goals simpa [ite_mem] using hs

theorem devPut_memWf (who : Master) (la : Nat) (v m : Word) : (s.devPut who la v m).mem.wf = true := by
  unfold State.devPut
  split
  · exact hs
  · dsimp only
    split
    · exact regWrite_memWf hs ..
    · split
      · exact hs
      · rwa [writeIgnored_mem]

theorem devWrite4_memWf (who : Master) (la v : Nat) : (s.devWrite4 who la v).mem.wf = true := devPut_memWf hs ..

theorem devWrite_memWf (who : Master) (la n v : Nat) : (s.devWrite who la n v).mem.wf = true := by
  unfold State.devWrite
  split
  · exact devWrite4_memWf hs ..
  · split
    · exact devPut_memWf hs ..
    · exact devWrite4_memWf (devWrite4_memWf hs ..) ..

theorem devWrites_memWf (who : Master) (b : Nat) (d : Line) (l : List (Nat × Nat)) : (s.devWrites who b d l).mem.wf = true := by
  induction l generalizing s with
  | nil => exact hs
  | cons x l ih => exact ih (devWrite_memWf hs ..)

theorem writeAtDevice_memWf (f : Flit) : (s.writeAtDevice f).mem.wf = true := by
  unfold State.writeAtDevice
  split
  · exact hs
  · split
    · rwa [failWrite_mem]
    · exact devWrites_memWf hs ..

theorem execRegisterWrite_memWf {who : Master} {a : La} {size : AccSize} {v : Word} (h : execRegisterWrite who a size v s = .next t) : t.mem.wf = true := by
  unfold execRegisterWrite at h
  grind [refuseStore_memWf, devWrite_memWf]

theorem execPmaCommit_memWf {who : Master} {v : BitVec 32} (h : execPmaCommit who v s = .next t) : t.mem.wf = true := by
  cases h
  exact r31Write_memWf hs _ _ _ _ _ fun _ hu => memWf_of_eq hu (pmaCtl_mem ..)

theorem execPmaLock_memWf {who : Master} {v : BitVec 32} (h : execPmaLock who v s = .next t) : t.mem.wf = true := by
  cases h
  exact r31Write_memWf hs _ _ _ _ _ fun _ hu => memWf_of_eq hu (pmaCtl_mem ..)

theorem execPmaCommitDone_memWf (h : execPmaCommitDone s = .next t) : t.mem.wf = true := by
  cases h
  split <;> exact hs

/-! ### Writes that arrive at their target -/

theorem onFlit_memWf (f : Flit) {g : State → State} (hg : ∀ u, u.mem.wf = true → (g u).mem.wf = true) : (s.onFlit f g).mem.wf = true := by
  unfold State.onFlit
  split
  · exact hg _ hs
  · exact hs

theorem execWriteNc_memWf {f : Flit} (h : execWriteNc f s = .next t) : t.mem.wf = true := by
  cases h
  refine onFlit_memWf hs _ fun u hu => ?_
  generalize ({ f with op := .writeNc } : Flit) = g
  have ha : (u.accept g).mem.wf = true := memWf_of_eq hu (accept_mem ..)
  split
  · rwa [atLink_mem]
  · split
    · rwa [serve_mem]
    · exact writeAtMgmt_memWf ha g
    · exact writeAtMgmt_memWf ha g
    · exact writeAtDevice_memWf ha g
    · rwa [outbound_mem]
    · rwa [failWrite_mem, accept_mem]

theorem landWrite_memWf (f : Flit) : (s.landWrite f).mem.wf = true := by
  unfold State.landWrite
  split
  · exact hs
  · split
    · rwa [atLink_mem]
    · split
      · exact pokeLine_memWf hs ..
      · exact pokeLine_memWf hs ..
      · split
        · exact devWrites_memWf hs ..
        · exact hs
      · exact hs

theorem rennetReg_memWf (la n v : Nat) : (s.rennetReg la n v).mem.wf = true := by
  have hr := rindRefuse_memWf hs 2
  unfold State.rennetReg
  grind [regWrite_memWf, setPma_mem]

theorem execRennetAccess_memWf {r : RennetTarget} (h : execRennetAccess r s = .next t) : t.mem.wf = true := by
  unfold execRennetAccess at h
  grind [rennetMem_memWf, rennetReg_memWf, devRead_mem, rindRefuse_memWf, rennetWheel_memWf, rennetRoute_memWf, rennetPool_memWf, updHart_mem, setBudget_mem]

/-! ### Resets (R511 to R513, R520) -/

theorem coldBase_memWf (keep : Bool) : (s.coldBase keep).mem.wf = true := by
  refine (Mems.wf_iff _).2 ⟨?_, rfl, rfl, rfl, rfl⟩
  cases keep
  · rfl
  · exact ((Mems.wf_iff _).1 hs).1

omit hs in
theorem startRennet_mem (s : State) (k : Nat) : (s.startRennet k).mem = s.mem := rfl

omit hs in
theorem startMemory_mem (s : State) (n : Nat) : (s.startMemory n).mem = s.mem := by
  unfold State.startMemory
  dsimp only
  split
  · rfl
  · simp only [trainChans_mem]

theorem execColdReset_memWf {ok : Bool} (h : execColdReset ok s = .next t) : t.mem.wf = true := by
  have hb : (((s.coldBase (s.flushOutcome == 1)).applyCommit 0).applyCommit 1).mem.wf = true := by
    simpa only [applyCommit_mem] using coldBase_memWf hs _
  cases h
  split
  · exact hs
  · dsimp only
    split
    · exact hb
    · refine startHost_memWf (memWf_of_eq hb ?_) _
      rw [startMemory_mem, startRennet_mem]

theorem quiesce_memWf : s.quiesce.mem.wf = true := by
  unfold State.quiesce
  dsimp only
  rw [freeAllTokens_mem]
  refine settle_memWf (foldl_memWf (foldl_memWf (memWf_of_eq hs (stopHarts_mem s)) (fun _ h hu => drainNow_memWf (memWf_of_eq hu (updHart_mem ..)) h) _)
    (fun _ f hu => landWrite_memWf hu f) _) _

/-- A warm reset keeps DRAM and the TCMs as they are once its writes are done, and empties the SRAM and the mailbox pages (R512). -/
theorem warmBase_memWf (ns : Nat) : (s.warmBase ns).mem.wf = true := Mems.wf_mbox (Mems.wf_sram hs memWf_nil) memWf_nil

theorem execWarmReset_memWf {ns : Nat} (h : execWarmReset ns s = .next t) : t.mem.wf = true := by
  have hw : ((s.quiesce.warmBase ns).wakeChannels).mem.wf = true := memWf_of_eq (warmBase_memWf (quiesce_memWf hs) ns) (wakeChannels_mem _)
  cases h
  split
  · exact hs
  · generalize (s.quiesce.warmBase ns).wakeChannels = w at hw
    refine startHost_memWf (memWf_of_eq ?_ (driveBrine_mem _)) _
    split
    · exact hw
    · exact foldl_memWf hw (fun _ n hu => mbDown_memWf hu n) _

/-! ### Every command -/

/-- No command leaves a memory that is not canonical: those that write one keep its form, and every other leaves the memories alone. -/
theorem exec_memWf {c : Instr} (h : exec c s = .next t) : t.mem.wf = true := by
  have keep : t.mem = s.mem → t.mem.wf = true := memWf_of_eq hs
  cases c with
  | registerWrite => exact execRegisterWrite_memWf hs h
  | pmaCommit => exact execPmaCommit_memWf hs h
  | pmaCommitDone => exact execPmaCommitDone_memWf hs h
  | pmaLock => exact execPmaLock_memWf hs h
  | integerInstruction => exact execIntegerInstruction_memWf hs h
  | fpInstruction => exact execFpInstruction_memWf hs h
  | vectorInstruction => exact execVectorInstruction_memWf hs h
  | vectorConfig => exact execVectorConfig_memWf hs h
  | load => exact execLoad_memWf hs h
  | store => exact execStore_memWf hs h
  | storeDrain => exact execStoreDrain_memWf hs h
  | streamEndTimeout => exact keep (execStreamEndTimeout_mem h)
  | amo => exact execAmo_memWf hs h
  | lr => exact execLr_memWf hs h
  | sc => exact execSc_memWf hs h
  | amocas => exact execAmocas_memWf hs h
  | lrDeferralExpiry => exact keep (execLrDeferralExpiry_mem h)
  | xpld => exact execXpld_memWf hs h
  | xpst => exact execXpst_memWf hs h
  | fence => exact execFence_memWf hs h
  | fenceTso => exact execFenceTso_memWf hs h
  | fenceWaitEnd => exact keep (execFenceWaitEnd_mem h)
  | xfenceP => exact execXfenceP_memWf hs h
  | fenceI => exact execFenceI_memWf hs h
  | cboClean => exact execCboClean_memWf hs h
  | cboFlush => exact execCboFlush_memWf hs h
  | cboInval => exact execCboInval_memWf hs h
  | cboZero => exact execCboZero_memWf hs h
  | prefetchHint => exact execPrefetchHint_memWf hs h
  | csrWrite => exact execCsrWrite_memWf hs h
  | wfi => exact execWfi_memWf hs h
  | xret => exact execXret_memWf hs h
  | ecall => exact execEcall_memWf hs h
  | ebreak => exact execEbreak_memWf hs h
  | pause => exact execPause_memWf hs h
  | controlTransferResolve => exact execControlTransferResolve_memWf hs h
  | exceptionTake => exact execExceptionTake_memWf hs h
  | interruptTake => exact keep (execInterruptTake_mem h)
  | mdpClear => exact keep (execMdpClear_mem h)
  | xpredBar1 => exact execXpredBar1_memWf hs h
  | xpredBar0 => exact execXpredBar0_memWf hs h
  | xpredFlush => exact execXpredFlush_memWf hs h
  | xwayClean => exact execXwayClean_memWf hs h
  | xwayCinv => exact execXwayCinv_memWf hs h
  | xbrDrain => exact execXbrDrain_memWf hs h
  | xmouldModeSet => exact execXmouldModeSet_memWf hs h
  | mouldEntry => exact keep (execMouldEntry_mem h)
  | xmouldModeClear => exact execXmouldModeClear_memWf hs h
  | scoreTrapEntry => exact keep (execScoreTrapEntry_mem h)
  | lateArrivalTakeover => exact keep (execLateArrivalTakeover_mem h)
  | uncachedTimeout => exact keep (execUncachedTimeout_mem h)
  | ewaEndpointFailure => exact keep (execEwaEndpointFailure_mem h)
  | lineRead => exact keep (execLineRead_mem h)
  | lineOwn => exact keep (execLineOwn_mem h)
  | linePromote => exact keep (execLinePromote_mem h)
  | lineClaim => exact keep (execLineClaim_mem h)
  | maskFill => exact keep (execMaskFill_mem h)
  | cleanKeep => exact keep (execCleanKeep_mem h)
  | cleanDrop => exact keep (execCleanDrop_mem h)
  | discardLine => exact keep (execDiscardLine_mem h)
  | prefetchRead => exact keep (execPrefetchRead_mem h)
  | prefetchOwn => exact keep (execPrefetchOwn_mem h)
  | readNc => exact keep (execReadNc_mem h)
  | writeNc => exact execWriteNc_memWf hs h
  | atomicNc => exact keep (execAtomicNc_mem h)
  | returnDirty => exact keep (execReturnDirty_mem h)
  | returnClean => exact keep (execReturnClean_mem h)
  | probeShare => exact keep (execProbeShare_mem h)
  | probeTake => exact keep (execProbeTake_mem h)
  | probeKill => exact keep (execProbeKill_mem h)
  | probeClean => exact keep (execProbeClean_mem h)
  | dataGrant => exact keep (execDataGrant_mem h)
  | grant => exact keep (execGrant_mem h)
  | probeAck => exact keep (execProbeAck_mem h)
  | probeData => exact keep (execProbeData_mem h)
  | grantAck => exact keep (execGrantAck_mem h)
  | writeDone => exact keep (execWriteDone_mem h)
  | readReturn => exact keep (execReadReturn_mem h)
  | dropped => exact keep (execDropped_mem h)
  | errorReply => exact keep (execErrorReply_mem h)
  | returnAck => exact keep (execReturnAck_mem h)
  | homeTransactionOpen => exact keep (execHomeTransactionOpen_mem h)
  | victimEntryFreed => exact keep (execVictimEntryFreed_mem h)
  | victimWriteIssue => exact keep (execVictimWriteIssue_mem h)
  | flitRoute => exact keep (execFlitRoute_mem h)
  | creditReturn => exact keep (execCreditReturn_mem h)
  | meshWheelReserve => exact execMeshWheelReserve_memWf hs h
  | meshWheelRelease => exact execMeshWheelRelease_memWf hs h
  | wheelReleaseSlotsFree => exact execWheelReleaseSlotsFree_memWf hs h
  | meshWheelQuery => exact execMeshWheelQuery_memWf hs h
  | memRead => exact keep (execMemRead_mem h)
  | memWrite => exact keep (execMemWrite_mem h)
  | memWriteMasked => exact keep (execMemWriteMasked_mem h)
  | channelLineAccess => exact execChannelLineAccess_memWf hs h
  | writePhaseTimeout => exact keep (execWritePhaseTimeout_mem h)
  | readBurstReturn => exact execReadBurstReturn_memWf hs h
  | writeCrcResult => exact keep (execWriteCrcResult_mem h)
  | shortRetrainDone => exact keep (execShortRetrainDone_mem h)
  | rowIdleClose => exact keep (execRowIdleClose_mem h)
  | refreshDue => exact keep (execRefreshDue_mem h)
  | deviceTempRead => exact keep (execDeviceTempRead_mem h)
  | writeTimingCheck ch => exact keep (execWriteTimingCheck_mem (ch := ch) h)
  | scrubRead => exact keep (execScrubRead_mem h)
  | pageThreshold => exact keep (execPageThreshold_mem h)
  | mcInjArm => exact execMcInjArm_memWf hs h
  | memTrain => exact execMemTrain_memWf hs h
  | memChannelStatus => exact execMemChannelStatus_memWf hs h
  | memScrubSet => exact execMemScrubSet_memWf hs h
  | memPageRetire => exact execMemPageRetire_memWf hs h
  | memRetireList => exact execMemRetireList_memWf hs h
  | walkPteReadDone => exact keep (execWalkPteReadDone_mem h)
  | adUpdate => exact keep (execAdUpdate_mem h)
  | sfenceVma => exact execSfenceVma_memWf hs h
  | hfenceVvma => exact execHfenceVvma_memWf hs h
  | hfenceGvma => exact execHfenceGvma_memWf hs h
  | iommuTranslate => exact keep (execIommuTranslate_mem h)
  | iotinvalVma => exact keep (execIotinvalVma_mem h)
  | iotinvalGvma => exact keep (execIotinvalGvma_mem h)
  | iodirInvalDdt => exact keep (execIodirInvalDdt_mem h)
  | iodirInvalPdt => exact keep (execIodirInvalPdt_mem h)
  | iofenceC => exact keep (execIofenceC_mem h)
  | iofenceCComplete => exact keep (execIofenceCComplete_mem h)
  | linkFrameSend => exact keep (execLinkFrameSend_mem h)
  | dataFrame => exact keep (execDataFrame_mem h)
  | idleFrame => exact keep (execIdleFrame_mem h)
  | syncFrame => exact keep (execSyncFrame_mem h)
  | trainFrame l => exact keep (execTrainFrame_mem (l := l) h)
  | helloFrame => exact execHelloFrame_memWf hs h
  | syncSend l => exact keep (execSyncSend_mem (l := l) h)
  | frameLockLost => exact keep (execFrameLockLost_mem h)
  | linkRecoveryDone => exact keep (execLinkRecoveryDone_mem h)
  | linkDown => exact keep (execLinkDown_mem h)
  | linkRemoveFromGroup => exact keep (execLinkRemoveFromGroup_mem h)
  | linkRetry => exact execLinkRetry_memWf hs h
  | fabricBringupTimeout => exact execFabricBringupTimeout_memWf hs h
  | rdNc => exact keep (execRdNc_mem h)
  | wrNc => exact keep (execWrNc_mem h)
  | atomNc => exact keep (execAtomNc_mem h)
  | blkRd => exact keep (execBlkRd_mem h)
  | blkWr => exact keep (execBlkWr_mem h)
  | rdData => exact keep (execRdData_mem h)
  | wrAck => exact keep (execWrAck_mem h)
  | atomData => exact keep (execAtomData_mem h)
  | errResp => exact keep (execErrResp_mem h)
  | routeAdv => exact execRouteAdv_memWf hs h
  | routeWithdraw => exact keep (execRouteWithdraw_mem h)
  | linkNotice => exact keep (execLinkNotice_mem h)
  | tagEntryTimeout => exact keep (execTagEntryTimeout_mem h)
  | glInjArm => exact execGlInjArm_memWf hs h
  | fabricRouteQuery => exact execFabricRouteQuery_memWf hs h
  | fabricLinkStatus => exact execFabricLinkStatus_memWf hs h
  | fabricLinkDisable => exact execFabricLinkDisable_memWf hs h
  | fabricLinkDisableDrained => exact execFabricLinkDisableDrained_memWf hs h
  | fabricLinkEnable => exact execFabricLinkEnable_memWf hs h
  | fabricInboundSet => exact execFabricInboundSet_memWf hs h
  | fabricTimeStatus => exact execFabricTimeStatus_memWf hs h
  | deCmdStart => exact keep (execDeCmdStart_mem h)
  | deCmdAbort => exact keep (execDeCmdAbort_mem h)
  | deCmdClear => exact keep (execDeCmdClear_mem h)
  | deCmdDropsh => exact keep (execDeCmdDropsh_mem h)
  | shCtlValidSet => exact keep (execShCtlValidSet_mem h)
  | engineIssue => exact keep (execEngineIssue_mem h)
  | channelSetLoad => exact keep (execChannelSetLoad_mem h)
  | descriptorFetchReturn => exact keep (execDescriptorFetchReturn_mem h)
  | inCtlReset => exact keep (execInCtlReset_mem h)
  | instanceResetDrainDone => exact execInstanceResetDrainDone_memWf hs h
  | inDeniedRead => exact keep (execInDeniedRead_mem h)
  | instanceCreate => exact execInstanceCreate_memWf hs h
  | instanceDestroy => exact execInstanceDestroy_memWf hs h
  | instanceReset => exact execInstanceReset_memWf hs h
  | instanceQuery => exact execInstanceQuery_memWf hs h
  | wiredInputChange => exact keep (execWiredInputChange_mem h)
  | aplicSourcecfgWrite who => exact keep (execAplicSourcecfgWrite_mem (who := who) h)
  | aplicMsiSend => exact keep (execAplicMsiSend_mem h)
  | imsicSeteipnum => exact keep (execImsicSeteipnum_mem h)
  | imsicTopeiClaim => exact keep (execImsicTopeiClaim_mem h)
  | machineTimerMatch => exact keep (execMachineTimerMatch_mem h)
  | gpioEdge => exact keep (execGpioEdge_mem h)
  | evswPulse => exact execEvswPulse_memWf hs h
  | tickGeneratorPulse => exact keep (execTickGeneratorPulse_mem h)
  | eventFlit => exact keep (execEventFlit_mem h)
  | coreCounterWrap => exact keep (execCoreCounterWrap_mem h)
  | bankCounterWrap => exact keep (execBankCounterWrap_mem h)
  | pmBankClr => exact execPmBankClr_memWf hs h
  | bandwidthWindowEnd => exact keep (execBandwidthWindowEnd_mem h)
  | pmBwmaxRead who => exact keep (execPmBwmaxRead_mem (who := who) h)
  | ladleEnable => exact execLadleEnable_memWf hs h
  | ladleSnap => exact execLadleSnap_memWf hs h
  | ladlePeriodTrigger => exact keep (execLadlePeriodTrigger_mem h)
  | ladleLatch => exact keep (execLadleLatch_mem h)
  | ladleSnapshotDone => exact execLadleSnapshotDone_memWf hs h
  | mbDoorbell => exact keep (execMbDoorbell_mem h)
  | mbStatusAck => exact keep (execMbStatusAck_mem h)
  | mbCommandComplete => exact execMbCommandComplete_memWf hs h
  | i3cPrivateTransfer => exact execI3cPrivateTransfer_memWf hs h
  | rennetInfo => exact execRennetInfo_memWf hs h
  | mailboxAssign => exact execMailboxAssign_memWf hs h
  | noticeRead => exact execNoticeRead_memWf hs h
  | cacheWaygroupSet => exact execCacheWaygroupSet_memWf hs h
  | waygroupScanDone => exact execWaygroupScanDone_memWf hs h
  | powerLimitSet => exact execPowerLimitSet_memWf hs h
  | powerFreqSet => exact execPowerFreqSet_memWf hs h
  | powerMeshFreqSet => exact execPowerMeshFreqSet_memWf hs h
  | powerStatus => exact execPowerStatus_memWf hs h
  | powerDomainSet => exact execPowerDomainSet_memWf hs h
  | brineStatus => exact execBrineStatus_memWf hs h
  | brineJournalStore => exact execBrineJournalStore_memWf hs h
  | brineJournalLoad => exact execBrineJournalLoad_memWf hs h
  | attestQuote => exact execAttestQuote_memWf hs h
  | certChainRead => exact execCertChainRead_memWf hs h
  | debugLevelSet => exact execDebugLevelSet_memWf hs h
  | fwStage => exact execFwStage_memWf hs h
  | fwCommit => exact execFwCommit_memWf hs h
  | errorLogRead => exact execErrorLogRead_memWf hs h
  | rennetAccess => exact execRennetAccess_memWf hs h
  | rindHeartbeat => exact keep (execRindHeartbeat_mem h)
  | heartbeatTimeout => exact execHeartbeatTimeout_memWf hs h
  | lockstepMismatch => exact execLockstepMismatch_memWf hs h
  | rennetRestartDone => exact execRennetRestartDone_memWf hs h
  | errorRecordCopy => exact keep (execErrorRecordCopy_mem h)
  | esRecordFree => exact execEsRecordFree_memWf hs h
  | coreFatalError => exact keep (execCoreFatalError_mem h)
  | pkgFatalError => exact execPkgFatalError_memWf hs h
  | idleC2Entry => exact keep (execIdleC2Entry_mem h)
  | idleC3Entry => exact keep (execIdleC3Entry_mem h)
  | powerDomainOff => exact execPowerDomainOff_memWf hs h
  | hartWake => exact keep (execHartWake_mem h)
  | packageRetentionEntry => exact execPackageRetentionEntry_memWf hs h
  | packageRetentionExit => exact keep (execPackageRetentionExit_mem h)
  | powerSample => exact keep (execPowerSample_mem h)
  | thermalSample => exact keep (execThermalSample_mem h)
  | holdupEnergyRead => exact keep (execHoldupEnergyRead_mem h)
  | holdupReadingStale => exact keep (execHoldupReadingStale_mem h)
  | tokenRefill => exact keep (execTokenRefill_mem h)
  | pfailNFall => exact keep (execPfailNFall_mem h)
  | powerFailFlush => exact execPowerFailFlush_memWf hs h
  | lifeLedgerSample => exact keep (execLifeLedgerSample_mem h)
  | lifeLedgerSave => exact keep (execLifeLedgerSave_mem h)
  | agingMonitorRead => exact keep (execAgingMonitorRead_mem h)
  | dbgAuthSubmit => exact keep (execDbgAuthSubmit_mem h)
  | tokenCheckDone => exact execTokenCheckDone_memWf hs h
  | dbgWake => exact keep (execDbgWake_mem h)
  | dmHaltRequest => exact keep (execDmHaltRequest_mem h)
  | dmResumeRequest => exact keep (execDmResumeRequest_mem h)
  | dmAbstractCommand => exact execDmAbstractCommand_memWf hs h
  | systemBusAccess => exact keep (execSystemBusAccess_mem h)
  | coldReset => exact execColdReset_memWf hs h
  | warmReset => exact execWarmReset_memWf hs h
  | hartReset => exact execHartReset_memWf hs h
  | hartSelfTestDone => exact keep (execHartSelfTestDone_mem h)
  | firstHostInstruction => exact keep (execFirstHostInstruction_mem h)
  | pcieMemoryRead => exact keep (execPcieMemoryRead_mem h)
  | pcieMemoryWrite => exact keep (execPcieMemoryWrite_mem h)
  | pcieAtomicOp => exact keep (execPcieAtomicOp_mem h)
  | pcieMsiWrite => exact keep (execPcieMsiWrite_mem h)
  | pcieCompletion => exact keep (execPcieCompletion_mem h)
  | pcieLinkEvent => exact keep (execPcieLinkEvent_mem h)
  | supervisorTimerMatch => exact keep (execSupervisorTimerMatch_mem h)

end

/-- Settles O59: the command at the front of the queue keeps the memories canonical, and a nanosecond without a command leaves them alone. -/
theorem memoriesStayCanonical : Obligations.MemoriesStayCanonical := by
  intro s t hs h
  unfold step at h
  split at h
  · cases h
    exact memWf_of_eq hs (tick_mem s)
  · next rest _ => exact exec_memWf (s := { s with pending := rest }) hs h

end Sys2Proof.Machine
end

section
/-!
PROOFS. Control transfers, PAUSE and WFI (R72, R73, R81, R119, R125).
-/
namespace Sys2Proof.Machine

section
variable {s : State} {h : HartId}

/-! ### What a transfer does to its hart -/

/-- A hart whose jump has written its link register. -/
def Hart.linked (c : Hart) (k : CtKind) (rd : Nat) (next : Word) : Hart := if isBranch k then c else c.setX rd next

/-- A hart that fetches from `dest` on; after a misprediction what it read ahead and its younger walks are dropped (R98). -/
def Hart.redirected (c : Hart) (miss : Bool) (dest : Word) : Hart :=
  { (if miss then { c.dropEarly with walks := c.orphanWalks } else c) with pc := dest }

theorem sameHart_ite {p : Prop} [Decidable p] {a b c d : Hart} (ht : sameHart a c) (hf : sameHart b d) : sameHart (if p then a else b) (if p then c else d) := by
  split
  · exact ht
  · exact hf

theorem sameHart_linked {c d : Hart} (hs : sameHart c d) (k : CtKind) (rd : Nat) (next : Word) : sameHart (c.linked k rd next) (d.linked k rd next) := by
  unfold Hart.linked
  split
  · exact hs
  · exact sameHart_setX hs rd next

theorem sameHart_trainCt {c d : Hart} (hs : sameHart c d) (k : CtKind) (rd rs1 : Fin 32) (pc next target : Word) (taken miss : Bool) (wrong : List RasOp) :
    sameHart (c.trainCt k rd rs1 pc next target taken miss wrong) (d.trainCt k rd rs1 pc next target taken miss wrong) := by
  unfold Hart.trainCt
  rw [sameHart_pred hs]
  exact sameHart_setPred hs _

theorem sameHart_redirected {c d : Hart} (hs : sameHart c d) (miss : Bool) (dest : Word) : sameHart (c.redirected miss dest) (d.redirected miss dest) := by
  obtain ⟨he, hr⟩ := hs
  cases miss
  · exact ⟨by rw [he]; rfl, hr⟩
  · exact ⟨by rw [he]; rfl, hr⟩

/-- The cycles of the link register's result are no state that counting leaves. -/
theorem sameHart_linkedBusy (c : Hart) (k : CtKind) (rd : Nat) (next : Word) :
    sameHart (if isBranch k then c else (c.setX rd next).busy rd 1) (c.linked k rd next) := by
  unfold Hart.linked
  split
  · exact sameHart_refl c
  · exact sameHart_busy _ _ _

/-! ### Whether fetch followed another address (R71, R72, R116) -/

/-- The added cycles of a transfer and whether it was mispredicted. -/
def Hart.ctCost (t : Bool) (c : Hart) (k : CtKind) (followed dest : Word) (bubbles : Nat) (taken back : Bool) : Nat × Bool :=
  if t then (if c.barred then (13, false) else if followed = dest then (bubbles, false) else (13, true)) else sCost c k taken back

theorem ctCost_miss (t : Bool) (c : Hart) (k : CtKind) (followed dest : Word) (bubbles : Nat) (taken back : Bool) :
    (c.ctCost t k followed dest bubbles taken back).2 = if t then !c.barred && decide (followed ≠ dest) else (sCost c k taken back).2 := by
  unfold Hart.ctCost
  cases t
  · rfl
  · by_cases hb : c.barred = true
    · simp [hb]
    · by_cases hf : followed = dest <;> simp [hb, hf]

/-! ### The instructions -/

theorem controlTransfer_becomes {k : CtKind} {rd rs1 rs2 : Fin 32} {imm : BitVec 21} {wrong : List RasOp} {c : Bool} (hi : s.issues h (ilen c) = true) :
    let ch := s.hart h
    let next := ch.pc + BitVec.ofNat 64 (ilen c)
    let target := if k = .jalr then (ch.getX rs1.val + imm.signExtend 64) &&& ~~~1 else ch.pc + imm.signExtend 64
    let taken := ctTaken k (ch.getX rs1.val) (ch.getX rs2.val)
    let dest := if taken then target else next
    let fetched := ch.pred.follow k rd rs1 ch.pc next target
    let miss := (ch.ctCost (isT h) k fetched.1 dest fetched.2 taken ((imm.signExtend 64).slt 0)).2
    let linked := (ch.past 0).linked k rd.val next
    ∃ t, exec (.controlTransferResolve h k rd rs1 rs2 imm wrong c) s = .next t ∧
      hartBecomes s t h ((if isT h then linked.trainCt k rd rs1 ch.pc next target taken miss wrong else linked).redirected miss dest) := by
  intro ch next target taken dest fetched miss linked
  refine ⟨_, congrArg Host.Outcome.next (onHart_of_issues s h (ilen c) _ hi), ?_⟩
  have hev := hartBecomes_eventT (hartBecomes_refl s h) 0x03
  have hmiss := hartBecomes_ite (c := miss = true) (hartBecomes_event hev 0x04 1) hev
  refine hartBecomes_updHart (hartBecomes_retire hmiss 0 _) _ (sameHart_redirected ?_ miss dest)
  have hr : ∀ n, sameHart _ linked := fun n => sameHart_trans (sameHart_linkedBusy _ k rd.val next) (sameHart_linked (hartBecomes_retire hmiss 0 n).2 k rd.val next)
  exact sameHart_ite (sameHart_trainCt (hr _) ..) (hr _)

theorem pause_becomes (hi : s.issues h = true) : ∃ t, exec (.pause h) s = .next t ∧ hartBecomes s t h ((s.hart h).past 4) :=
  ⟨_, congrArg Host.Outcome.next (onHart_of_issues s h 4 _ hi), retire_spec s h 4 _⟩

theorem onlyHart_time {t : State} (ho : onlyHart s t h) : t.time = s.time := by
  rw [ho.1]

theorem sameHart_asleep {c d : Hart} (hs : sameHart c d) (now : Nat) : sameHart { c with idle := .c1, since := now } { d with idle := .c1, since := now } := by
  obtain ⟨he, hr⟩ := hs
  exact ⟨by rw [he], hr⟩

theorem wfi_becomes (hi : s.issues h = true) (hl : wfiLegal h (s.hart h) = .ok) : ∃ t, exec (.wfi h) s = .next t ∧
    hartBecomes s t h (if s.wakes h = true then (s.hart h).past 4 else { (s.hart h).past 4 with idle := .c1, since := s.time }) := by
  have hr := retire_spec s h 4 1
  refine ⟨_, congrArg Host.Outcome.next ((onHart_of_issues s h 4 _ hi).trans (legally_ok _ hl)), ?_⟩
  by_cases hw : s.wakes h = true
  · rw [if_pos hw, if_pos hw]
    exact hr
  · rw [if_neg hw, if_neg hw]
    refine hartBecomes_updHart hr _ ?_
    rw [onlyHart_time hr.1]
    exact sameHart_asleep hr.2 s.time

end

/-- Settles O4. -/
theorem controlTransfersComplete : Obligations.ControlTransfersComplete := by
  unfold Obligations.ControlTransfersComplete
  refine ⟨fun s h k rd rs1 rs2 imm wrong c hi => ?_, fun s h => pause_becomes, fun s h => wfi_becomes⟩
  have hb := controlTransfer_becomes (k := k) (rd := rd) (rs1 := rs1) (rs2 := rs2) (imm := imm) (wrong := wrong) hi
  simp only [ctCost_miss] at hb
  exact hb

end Sys2Proof.Machine
end

section
/-!
PROOFS. A TCM whose words hold no error, as loads and the store buffer see it (R92, R93, R107, R114, R139).
-/
namespace Sys2Proof.Machine

section
variable {s : State} {h : HartId}

/-! ### Words without an error (R107) -/

theorem tabGet_of_tcmBad {k size w : Nat} (hb : s.tcmBad k size 1 = []) (hlo : k ≤ w * 8) (hhi : w * 8 + 8 ≤ k + size) : tabGet 0 s.mem.tcmErr w = 0 := by
  by_contra hne
  have hin : w ∈ s.tcmBad k size 1 := by
    simp only [State.tcmBad, List.mem_filter, List.mem_dedup, List.mem_map, List.mem_range, Bool.and_eq_true, decide_eq_true_eq]
    exact ⟨⟨w * 8 - k, by omega, by omega⟩, by omega, by omega⟩
  rw [hb] at hin
  exact absurd hin List.not_mem_nil

theorem tcmScrub_clean {k size : Nat} (hb : s.tcmBad k size 1 = []) : s.tcmScrub h k size = s := by
  unfold State.tcmScrub
  rw [hb]

theorem readTcm_clean {pa size : Nat} (hb : s.tcmBad (tcmKey h pa) size 1 = []) (hu : s.tcmBad (tcmKey h pa) size 2 = []) :
    s.readTcm h pa size = .value (memRead s.mem.tcm (tcmKey h pa) size) s := by
  unfold State.readTcm
  dsimp only
  rw [if_neg (fun hne => hne hu), tcmScrub_clean hb]

/-! ### Writing a TCM -/

/-- A byte memory with the low `n` bytes of `v` at `a`, the lowest written first. -/
def tcmPut (m : List Host.Cell) (a v n : Nat) : List Host.Cell := (List.range n).foldl (fun m i => memSetByte m (a + i) (BitVec.ofNat 8 (v >>> (8 * i)))) m

theorem memByte_tcmPut (m : List Host.Cell) (a v n x : Nat) :
    memByte (tcmPut m a v n) x = if a ≤ x ∧ x < a + n then BitVec.ofNat 8 (v >>> (8 * (x - a))) else memByte m x := by
  induction n with
  | zero => exact (if_neg (by omega)).symm
  | succ n ih =>
    unfold tcmPut at ih ⊢
    rw [List.range_succ, List.foldl_append, List.foldl_cons, List.foldl_nil, memByte_memSetByte, ih]
    by_cases hx : x = a + n
    · subst hx
      rw [if_pos rfl, if_pos (by omega), Nat.add_sub_cancel_left]
    · by_cases hin : a ≤ x ∧ x < a + n
      · rw [if_neg hx, if_pos hin, if_pos (by omega)]
      · rw [if_neg hx, if_neg hin, if_neg (by omega)]

theorem zip_leBytes (n v : Nat) : (List.range n).zip (leBytes n v) = (List.range n).map fun i => (i, BitVec.ofNat 8 (v >>> (8 * i))) :=
  List.map_prod_left_eq_zip.symm

/-- The words that a write replaces whole. -/
def tcmWhole (k size : Nat) : List Nat := ((List.range (size + 7)).map fun i => (k + i) / 8).dedup.filter fun w => decide (k ≤ w * 8) && decide (w * 8 + 8 ≤ k + size)

/-- The errors of a TCM after a write of words that hold none. -/
def State.tcmErrPut (s : State) (k size : Nat) : List (Nat × Nat) := (tcmWhole k size).foldl (fun t w => tabSet 0 t w 0) s.mem.tcmErr

theorem writeTcm_clean {pa size : Nat} (v : Nat) (hb : s.tcmBad (tcmKey h pa) size 1 = []) (hu : s.tcmBad (tcmKey h pa) size 2 = []) :
    s.writeTcm h pa size v =
      { s with mem := { s.mem with tcm := tcmPut s.mem.tcm (tcmKey h pa) v size, tcmErr := s.tcmErrPut (tcmKey h pa) size } } := by
  unfold State.writeTcm
  dsimp only
  rw [hb, hu, zip_leBytes, List.foldl_map]
  rfl

theorem tabGet_foldl_zero (ws : List Nat) (x : Nat) : ∀ t : List (Nat × Nat), (∀ w ∈ ws, tabGet 0 t w = 0) →
    tabGet 0 (ws.foldl (fun t w => tabSet 0 t w 0) t) x = tabGet 0 t x := by
  induction ws with
  | nil => exact fun t _ => rfl
  | cons w ws ih =>
    intro t ht
    have hset : ∀ y, tabGet 0 (tabSet 0 t w 0) y = tabGet 0 t y := fun y => by
      rw [tabGet_tabSet]
      split
      · next he => rw [he, ht w (List.mem_cons_self ..)]
      · rfl
    rw [List.foldl_cons, ih _ fun y hy => (hset y).trans (ht y (List.mem_cons_of_mem _ hy)), hset]

theorem tabGet_tcmErrPut {k size : Nat} (hb : s.tcmBad k size 1 = []) (w : Nat) : tabGet 0 (s.tcmErrPut k size) w = tabGet 0 s.mem.tcmErr w := by
  refine tabGet_foldl_zero _ _ _ fun x hx => ?_
  simp only [tcmWhole, List.mem_filter, Bool.and_eq_true, decide_eq_true_eq] at hx
  obtain ⟨-, hlo, hhi⟩ := hx
  exact tabGet_of_tcmBad hb hlo hhi

theorem writeTcm_clean_hart {pa size : Nat} (v : Nat) (hb : s.tcmBad (tcmKey h pa) size 1 = []) (hu : s.tcmBad (tcmKey h pa) size 2 = []) (g : HartId) :
    (s.writeTcm h pa size v).hart g = s.hart g := by
  rw [writeTcm_clean v hb hu]
  cases g <;> rfl

/-! ### What a load reads (R93, R114, R139) -/

theorem readParts_hit {pair : Bool} {ps : List Part} {e : SbEntry} (hn : ((ps.flatMap Part.pieces).all fun p => ((s.hart h).aheadPiece p).isSome) = false)
    (he : sbHit (s.hart h).sb ps = some e) :
    s.readParts h pair ps = if e.forwards ps then .value (e.valueOf ps) (s.eventT h 0x11) else .wait s := by
  unfold State.readParts
  simp only [hn, Bool.false_eq_true, if_false, he]

theorem pieces_aligned {p : Part} (hs : p.size ∈ [1, 2, 4, 8, 16]) (ha : p.pa % p.size = 0) : p.pieces = [p] := by
  unfold Part.pieces
  refine if_pos ?_
  rw [ha, Bool.and_eq_true]
  exact ⟨List.contains_iff_mem.mpr (List.mem_append_left [64] hs), rfl⟩

theorem aheadPiece_none {c : Hart} (he : c.early = []) (p : Part) : c.aheadPiece p = none := by
  unfold Hart.aheadPiece
  rw [he]
  rfl

theorem readPiece_tcm {pair : Bool} {seq : Nat} {p : Part} (he : (s.hart h).early = []) (ht : p.tgt.region = .tcm) :
    s.readPiece h pair seq p = s.readTcm h p.pa p.size := by
  unfold State.readPiece
  simp only [he, ht, if_true]

theorem readParts_tcm {pair : Bool} {p : Part} (he : (s.hart h).early = []) (hn : sbHit (s.hart h).sb [p] = none) (ht : p.tgt.region = .tcm) (ho : p.off = 0)
    (hs : p.size ∈ [1, 2, 4, 8, 16]) (ha : p.pa % p.size = 0) (hb : s.tcmBad (tcmKey h p.pa) p.size 1 = []) (hu : s.tcmBad (tcmKey h p.pa) p.size 2 = []) :
    s.readParts h pair [p] = .value (memRead s.mem.tcm (tcmKey h p.pa) p.size) s := by
  have hp : [p].flatMap Part.pieces = [p] := by rw [List.flatMap_singleton, pieces_aligned hs ha]
  unfold State.readParts
  rw [hp]
  simp [aheadPiece_none he, hn, State.readPieces, readPiece_tcm he ht, readTcm_clean hb hu, ho]

/-! ### What a store drains to (R92, R107) -/

theorem drainHead_tcm {e : SbEntry} {rest : List SbEntry} {k : Nat} {p : SbPart} (hsb : (s.hart h).sb = e :: rest) (hr : e.retired = true) (hp : s.phase = .run)
    (hw : (s.hart h).writeWaits e.seq = false) (hk : e.parts[k % e.parts.length]? = some p) (ht : p.region = .tcm) :
    s.drainHead h k = (s.writeTcm h p.pa p.size (e.bytesOf p)).updHart h fun c => c.popPart p := by
  have hg : (!e.retired || s.phase != .run || (s.hart h).writeWaits e.seq) = false := by rw [hr, hp, hw]; rfl
  unfold State.drainHead
  rw [hsb]
  simp only [hg, Bool.false_eq_true, if_false, hk, ht]

theorem execStoreDrain_two (k : Fin 64) : exec (.storeDrain ⟨h, true, k⟩) s =
    .next (if isT h && decide (((s.drainHead h k.val).hart h).sb.length < (s.hart h).sb.length) then (s.drainHead h k.val).drainHead h k.val else s.drainHead h k.val) := rfl

end

/-- Settles O14. -/
theorem loadForwarding : Obligations.LoadForwarding := by
  unfold Obligations.LoadForwarding
  refine ⟨fun s h pair ps e hn he => ⟨fun hf => ⟨s.eventT h 0x11, ?_, hartBecomes_eventT (hartBecomes_refl s h) _⟩, fun hf => ?_⟩,
    fun s h pair p he hn ht ho hs ha hb hu => readParts_tcm he hn ht ho hs ha hb hu⟩
  · rw [readParts_hit hn he, if_pos hf]
  · rw [readParts_hit hn he, if_neg (ne_true_of_eq_false hf)]

/-- Settles O16. -/
theorem tcmStoreDrain : Obligations.TcmStoreDrain := by
  unfold Obligations.TcmStoreDrain
  refine ⟨fun s h e rest k p hsb hr hp hw hk ht hb hu => ?_, fun s u h k hx => ?_⟩
  · refine ⟨_, (execStoreDrain_one s h k).trans (congrArg _ (drainHead_tcm hsb hr hp hw hk ht)), fun a => ?_, fun w => ?_, ?_, fun g hg => ?_, ?_⟩
    · rw [updHart_mem, writeTcm_clean _ hb hu]
      exact memByte_tcmPut ..
    · rw [updHart_mem, writeTcm_clean _ hb hu]
      exact tabGet_tcmErrPut hb w
    · rw [hart_updHart_same, writeTcm_clean_hart _ hb hu]
    · rw [hart_updHart_ne _ hg, writeTcm_clean_hart _ hb hu]
    · rw [writeTcm_clean _ hb hu]
      cases h <;> rfl
  · obtain rfl : s.drainHead h k.val = u := Host.Outcome.next.inj ((execStoreDrain_one s h k).symm.trans hx)
    rw [execStoreDrain_two, execStoreDrain_one]
    by_cases hc : isT h = true ∧ ((s.drainHead h k.val).hart h).sb.length < (s.hart h).sb.length
    · rw [if_pos hc, if_pos (by simp [hc])]
    · rw [if_neg hc, if_neg (by simpa using hc)]

end Sys2Proof.Machine
end

section
/-!
PROOFS. Atomics at hand in a TCM or in a line held writable, and those that go to their target (R94, R140 to R144, R530).
-/
namespace Sys2Proof.Machine

section
variable {s u : State} {h : HartId} {p : Part} {va : Word} {n cost : Nat}

/-! ### What an atomic needs first (R91, R94, R119, R140) -/

/-- A state in which the loads that went ahead of an atomic, and whose line has left the L1 since, are squashed. -/
def State.squashLost (s : State) (h : HartId) : State := s.setHart h ((s.hart h).squashEarly (·.lost))

theorem withAtomic_part {acc : Acc} (f5 rd rs2 : Nat) (f : State → Part → State) (hal : va.toNat % n = 0) (hsb : (s.hart h).sb = [])
    (hw : (s.hart h).writeWaits (s.hart h).seq = false) (ht : s.addrTrig h (if acc == .store then 1 else 0) va = none)
    (hp : s.prep h .no acc va n n = .parts [p]) : s.withAtomic h acc va n f5 rd rs2 f = f (s.squashLost h) p := by
  unfold State.withAtomic
  rw [if_neg (fun hne => hne hal), if_neg (by simp [hsb, hw]), withParts_parts _ _ ht hp]
  rfl

theorem squashLost_hart : (s.squashLost h).hart h = (s.hart h).squashEarly (·.lost) := hart_setHart_same ..

theorem squashLost_mem : (s.squashLost h).mem = s.mem := setHart_mem ..

theorem squashLost_l2 (a ln : Nat) : (s.squashLost h).l2 a ln = s.l2 a ln := by cases h <;> rfl

theorem squashLost_missFailed (a ln : Nat) : (s.squashLost h).missFailed a ln = s.missFailed a ln := by cases h <;> rfl

theorem squashLost_tcmBad (k size lo : Nat) : (s.squashLost h).tcmBad k size lo = s.tcmBad k size lo := by cases h <;> rfl

theorem squashLost_resv : ((s.squashLost h).hart h).resv = (s.hart h).resv := by
  rw [squashLost_hart]
  unfold Hart.squashEarly
  split <;> rfl

/-- What an atomic does to its hart after the squash is done to the hart of the first state. -/
theorem hartBecomes_of_squashLost {t : State} {d : Hart} (hb : hartBecomes (s.squashLost h) t h d) : hartBecomes s t h d :=
  ⟨onlyHart_trans (onlyHart_setHart ..) hb.1, hb.2⟩

/-- An atomic writes its result and retires. -/
theorem finish_becomes (u : State) (h : HartId) (g : Hart → Hart) (len cost : Nat) :
    hartBecomes u ((u.updHart h g).retire h len cost) h ((g (u.hart h)).past len) :=
  hartBecomes_retire (hartBecomes_updHart (hartBecomes_refl u h) g (sameHart_refl _)) len cost

/-! ### Where the bytes are at hand (R94, R107, R135) -/

theorem uncached_tcm {r : Region} (hr : r = .tcm) : r.uncached = false := by rw [hr]; rfl

theorem uncached_cached {r : Region} (hr : r = .cached) : r.uncached = false := by rw [hr]; rfl

theorem ne_tcm_of_cached {r : Region} (hr : r = .cached) : r ≠ .tcm := by rw [hr]; decide

/-- The package after an atomic in a TCM that stores `x`, or nothing. -/
def State.tcmStored (s : State) (h : HartId) (pa n : Nat) : Option Nat → State
  | some x => s.writeTcm h pa n x
  | none => s

theorem atomicAt_tcm {f : Nat → Option Nat × (Hart → Hart)} (hr : p.tgt.region = .tcm) (hb : s.tcmBad (tcmKey h p.pa) n 1 = [])
    (hu : s.tcmBad (tcmKey h p.pa) n 2 = []) :
    s.atomicAt h p va n cost f = ((s.tcmStored h p.pa n (f (memRead s.mem.tcm (tcmKey h p.pa) n)).1).updHart h
      (f (memRead s.mem.tcm (tcmKey h p.pa) n)).2).retire h 4 cost := by
  unfold State.atomicAt
  rw [if_pos hr, readTcm_clean hb hu]
  rfl

section
variable {f : Nat → Option Nat × (Hart → Hart)} (hr : p.tgt.region = .tcm) (hb : s.tcmBad (tcmKey h p.pa) n 1 = [])
  (hu : s.tcmBad (tcmKey h p.pa) n 2 = [])
include hr hb hu

/-- An atomic in a TCM that stores `x`. -/
theorem atomicAt_tcm_stores {x : Nat} (hf : (f (memRead s.mem.tcm (tcmKey h p.pa) n)).1 = some x) :
    hartBecomes ((s.squashLost h).writeTcm h p.pa n x) ((s.squashLost h).atomicAt h p va n cost f) h (((f (memRead s.mem.tcm (tcmKey h p.pa) n)).2 ((s.hart h).squashEarly (·.lost))).past 4) := by
  have hb' := (squashLost_tcmBad (s := s) (h := h) ..).trans hb
  have hu' := (squashLost_tcmBad (s := s) (h := h) ..).trans hu
  rw [atomicAt_tcm hr hb' hu', squashLost_mem, hf, ← squashLost_hart, ← writeTcm_clean_hart x hb' hu']
  exact finish_becomes ..

/-- An atomic in a TCM that stores nothing. -/
theorem atomicAt_tcm_keeps (hf : (f (memRead s.mem.tcm (tcmKey h p.pa) n)).1 = none) :
    hartBecomes (s.squashLost h) ((s.squashLost h).atomicAt h p va n cost f) h (((f (memRead s.mem.tcm (tcmKey h p.pa) n)).2 ((s.hart h).squashEarly (·.lost))).past 4) := by
  rw [atomicAt_tcm hr ((squashLost_tcmBad ..).trans hb) ((squashLost_tcmBad ..).trans hu), squashLost_mem, hf, ← squashLost_hart]
  exact finish_becomes ..

end

section
variable {f : Nat → Option Nat × (Hart → Hart)} (hr : p.tgt.region = .cached) (hm : s.missFailed (agentOf h) (lineOf (paLa p.pa)) = false)
  (ho : (s.squashLost h).own h (lineOf (paLa p.pa)) (maskOf (paLa p.pa % 64) n) false = none) (hpo : (s.l2 (agentOf h) (lineOf (paLa p.pa))).poison = false)
include hr hm ho hpo

/-- An atomic in a held line that stores `x`. -/
theorem atomicAt_line_stores {x : Nat} (hf : (f (lineBytes (s.l2 (agentOf h) (lineOf (paLa p.pa))).data (paLa p.pa % 64) n)).1 = some x)
    (hd : (s.squashLost h).dirty h (paLa p.pa) (atOffset (paLa p.pa % 64) x) (maskOf (paLa p.pa % 64) n) p.tgt.held = some u) :
    hartBecomes u ((s.squashLost h).atomicAt h p va n cost f) h (((f (lineBytes (s.l2 (agentOf h) (lineOf (paLa p.pa))).data (paLa p.pa % 64) n)).2 (u.hart h)).past 4) := by
  unfold State.atomicAt
  simp only [if_neg (ne_tcm_of_cached hr), squashLost_missFailed, squashLost_l2, hm, ho, hpo, hf, hd, Bool.false_eq_true, if_false]
  exact finish_becomes ..

/-- An atomic in a held line that stores nothing. -/
theorem atomicAt_line_keeps (hf : (f (lineBytes (s.l2 (agentOf h) (lineOf (paLa p.pa))).data (paLa p.pa % 64) n)).1 = none) :
    hartBecomes s ((s.squashLost h).atomicAt h p va n cost f) h (((f (lineBytes (s.l2 (agentOf h) (lineOf (paLa p.pa))).data (paLa p.pa % 64) n)).2 ((s.hart h).squashEarly (·.lost))).past 4) := by
  unfold State.atomicAt
  simp only [if_neg (ne_tcm_of_cached hr), squashLost_missFailed, squashLost_l2, hm, ho, hpo, hf, Bool.false_eq_true, if_false, ← squashLost_hart]
  exact hartBecomes_of_squashLost (finish_becomes ..)

end

end

/-! ### AMOs (R140) -/

section
variable {s u : State} {h : HartId} {p : Part} {size : AccSize} {rd rs2 rs1 : Fin 32}

/-- The hypotheses under which every atomic of `n` bytes at the address of `rs1` reaches its bytes. -/
structure AtomicReady (s : State) (h : HartId) (acc : Acc) (n : Nat) (rs1 : Fin 32) (p : Part) : Prop where
  issues : s.issues h = true
  aligned : ((s.hart h).getX rs1.val).toNat % n = 0
  drained : (s.hart h).sb = []
  unfenced : (s.hart h).writeWaits (s.hart h).seq = false
  untriggered : s.addrTrig h (if acc == .store then 1 else 0) ((s.hart h).getX rs1.val) = none
  checked : s.prep h .no acc ((s.hart h).getX rs1.val) n n = .parts [p]
  memory : p.tgt.io = false

theorem AtomicReady.withAtomic {acc : Acc} {n : Nat} (ha : AtomicReady s h acc n rs1 p) (f5 rd rs2 : Nat) (f : State → Part → State) :
    s.withAtomic h acc ((s.hart h).getX rs1.val) n f5 rd rs2 f = f (s.squashLost h) p :=
  withAtomic_part f5 rd rs2 f ha.aligned ha.drained ha.unfenced ha.untriggered ha.checked

theorem amo_exec {fn : AmoFn} (ha : AtomicReady s h .store (accBytes size) rs1 p) :
    exec (.amo h fn size rd rs2 rs1) s = .next (if p.tgt.region.uncached = true
      then (s.squashLost h).atomicFar h p (.amo rd.val (accBytes size)) (amoEdit fn (accBytes size) (paLa p.pa) ((s.hart h).getX rs2.val).toNat)
      else (s.squashLost h).atomicAt h p ((s.hart h).getX rs1.val) (accBytes size) (atomicCost h p 18 4 6) fun old =>
        (some (amoValue fn (accBytes size) old (((s.hart h).getX rs2.val).toNat % 2 ^ (8 * accBytes size)) 0),
          fun c => c.setX rd.val (sext (8 * accBytes size) old))) := by
  refine congrArg Host.Outcome.next ((onHart_of_issues s h 4 _ ha.issues).trans ((ha.withAtomic ..).trans (if_neg ?_)))
  rw [ha.memory]
  exact Bool.false_ne_true

/-! ### LR and SC (R140 to R142, R144) -/

/-- A hart whose LR has read `v`: the register and the reservation. -/
def Hart.reserved (c : Hart) (p : Part) (n rd v : Nat) : Hart :=
  { c.setX rd (sext (8 * n) v) with resv := some { block := paLa p.pa / 128, pa := p.pa, size := n, deferring := p.tgt.region == .cached } }

/-- A hart whose SC has ended with `v`. -/
def Hart.released (c : Hart) (rd : Nat) (v : Word) : Hart := { c.setX rd v with resv := none }

theorem reserved_becomes (s : State) (h : HartId) (p : Part) (n rd v cost : Nat) :
    hartBecomes s (((s.squashLost h).updHart h fun c => c.reserved p n rd v).retire h 4 cost) h ((((s.hart h).squashEarly (·.lost)).reserved p n rd v).past 4) := by
  rw [← squashLost_hart]
  exact hartBecomes_of_squashLost (finish_becomes ..)

theorem lr_tcm (ha : AtomicReady s h .load (accBytes size) rs1 p) (hr : p.tgt.region = .tcm) (hb : s.tcmBad (tcmKey h p.pa) (accBytes size) 1 = [])
    (hu : s.tcmBad (tcmKey h p.pa) (accBytes size) 2 = []) : ∃ t, exec (.lr h size rd rs1) s = .next t ∧ hartBecomes s t h
      ((((s.hart h).squashEarly (·.lost)).reserved p (accBytes size) rd.val (memRead s.mem.tcm (tcmKey h p.pa) (accBytes size))).past 4) := by
  refine ⟨_, congrArg Host.Outcome.next ((onHart_of_issues s h 4 _ ha.issues).trans ((ha.withAtomic ..).trans ?_)), reserved_becomes s h p _ _ _ (atomicCost h p 6 2 3)⟩
  dsimp only
  rw [if_neg (by simp [ha.memory, uncached_tcm hr]), if_pos hr,
    readTcm_clean ((squashLost_tcmBad ..).trans hb) ((squashLost_tcmBad ..).trans hu), squashLost_mem]
  rfl

theorem lr_line (ha : AtomicReady s h .load (accBytes size) rs1 p) (hr : p.tgt.region = .cached)
    (hm : s.missFailed (agentOf h) (lineOf (paLa p.pa)) = false)
    (ho : (s.squashLost h).own h (lineOf (paLa p.pa)) (maskOf (paLa p.pa % 64) (accBytes size)) false = none)
    (hpo : (s.l2 (agentOf h) (lineOf (paLa p.pa))).poison = false) : ∃ t, exec (.lr h size rd rs1) s = .next t ∧ hartBecomes s t h
      ((((s.hart h).squashEarly (·.lost)).reserved p (accBytes size) rd.val
        (lineBytes (s.l2 (agentOf h) (lineOf (paLa p.pa))).data (paLa p.pa % 64) (accBytes size))).past 4) := by
  refine ⟨_, congrArg Host.Outcome.next ((onHart_of_issues s h 4 _ ha.issues).trans ((ha.withAtomic ..).trans ?_)), reserved_becomes s h p _ _ _ (atomicCost h p 6 2 3)⟩
  dsimp only
  rw [if_neg (by simp [ha.memory, uncached_cached hr]), if_neg (ne_tcm_of_cached hr), squashLost_missFailed, hm, if_neg Bool.false_ne_true, ho]
  dsimp only
  rw [squashLost_l2, hpo, if_neg Bool.false_ne_true]
  rfl

theorem reserved_eq (c : Hart) {p : Part} {r : Region} (hr : p.tgt.region = r) (n rd v : Nat) :
    c.reserved p n rd v = { c.setX rd (sext (8 * n) v) with resv := some { block := paLa p.pa / 128, pa := p.pa, size := n, deferring := r == .cached } } := by
  rw [← hr]
  rfl

theorem sc_exec (ha : AtomicReady s h .store (accBytes size) rs1 p) (hu : p.tgt.region.uncached = false) :
    exec (.sc h size rd rs2 rs1) s = .next (if ((s.hart h).resv.any fun r => r.pa == p.pa && r.size == accBytes size) = true
      then (s.squashLost h).atomicAt h p ((s.hart h).getX rs1.val) (accBytes size) (atomicCost h p 14 3 4) fun _ =>
        (some (((s.hart h).getX rs2.val).toNat % 2 ^ (8 * accBytes size)), fun c => c.released rd.val 0)
      else ((if isT h = true then (s.squashLost h).event h 0x18 1 else s.squashLost h).updHart h fun c => c.released rd.val 1).retire h 4
        (atomicCost h p 14 3 4)) := by
  refine congrArg Host.Outcome.next ((onHart_of_issues s h 4 _ ha.issues).trans ((ha.withAtomic ..).trans ?_))
  dsimp only
  rw [if_neg (by simp [ha.memory, hu]), squashLost_resv]
  rfl

theorem sameHart_released {c d : Hart} (hs : sameHart c d) (rd : Nat) (v : Word) : sameHart (c.released rd v) (d.released rd v) := by
  obtain ⟨he, hr⟩ := sameHart_setX hs rd v
  unfold Hart.released
  exact ⟨by rw [he], hr⟩

/-- An SC without its reservation stores nothing and returns 1. -/
theorem sc_fails (ha : AtomicReady s h .store (accBytes size) rs1 p) (hu : p.tgt.region.uncached = false)
    (hn : ((s.hart h).resv.any fun r => r.pa == p.pa && r.size == accBytes size) = false) :
    ∃ t, exec (.sc h size rd rs2 rs1) s = .next t ∧ hartBecomes s t h ((((s.hart h).squashEarly (·.lost)).released rd.val 1).past 4) := by
  refine ⟨_, (sc_exec ha hu).trans (congrArg _ (if_neg (by rw [hn]; exact Bool.false_ne_true))), hartBecomes_of_squashLost ?_⟩
  rw [← squashLost_hart]
  have he := hartBecomes_ite (c := isT h = true) (hartBecomes_event (hartBecomes_refl (s.squashLost h) h) 0x18 1) (hartBecomes_refl (s.squashLost h) h)
  exact hartBecomes_retire (hartBecomes_updHart he _ (sameHart_released he.2 _ _)) _ _

/-! ### AMOCAS (R140, R530) -/

/-- What a compare-and-swap of `bytes` bytes does with the old bytes. -/
def casStep (rd : Fin 32) (bytes cmp v : Nat) (old : Nat) : Option Nat × (Hart → Hart) := (if old = cmp then some v else none, fun c => c.setPair rd.val bytes old)

theorem amocas_exec {bytes : Nat} (ha : AtomicReady s h .store bytes rs1 p) (ht : isT h = true) (hwf : (Instr.amocas h bytes rd rs2 rs1).wf = true)
    (hfar : bytes = 16 → p.tgt.region.uncached = false) :
    exec (.amocas h bytes rd rs2 rs1) s = .next (if p.tgt.region.uncached = true
      then (s.squashLost h).atomicFar h p (.amo rd.val bytes) fun f =>
        { f with fn := .cas, size := bytes, data := some (atOffset (paLa p.pa % 64) ((s.hart h).pairX rs2.val bytes) |||
          atOffset (casOffset (paLa p.pa % 64)) ((s.hart h).pairX rd.val bytes)) }
      else (s.squashLost h).atomicAt h p ((s.hart h).getX rs1.val) bytes (if bytes = 16 then 20 else 18)
        (casStep rd bytes ((s.hart h).pairX rd.val bytes) ((s.hart h).pairX rs2.val bytes))) := by
  have hodd : ¬((!(isT h) || (decide (bytes = 16) && (decide (rd.val % 2 = 1) || decide (rs2.val % 2 = 1)))) = true) := by
    change casWf bytes rd rs2 = true at hwf
    unfold casWf at hwf
    simp only [ht]
    grind
  refine congrArg Host.Outcome.next ((onHart_of_issues s h 4 _ ha.issues).trans ((if_neg hodd).trans ((ha.withAtomic ..).trans (if_neg ?_))))
  rw [ha.memory]
  simp only [Bool.false_or, Bool.and_eq_true, decide_eq_true_eq, not_and, Bool.not_eq_true]
  exact hfar

theorem casStep_eq {rd : Fin 32} {bytes cmp v old : Nat} (he : old = cmp) : (casStep rd bytes cmp v old).1 = some v := if_pos he

theorem casStep_ne {rd : Fin 32} {bytes cmp v old : Nat} (hn : old ≠ cmp) : (casStep rd bytes cmp v old).1 = none := if_neg hn

end

/-- Settles O18. -/
theorem atomicsComplete : Obligations.AtomicsComplete := by
  unfold Obligations.AtomicsComplete
  refine ⟨?amo, ?lr, ?sc, ?amocas, fun s h => rfl⟩
  case amo =>
    intro s h fn size rd rs2 rs1 p hi n va c q v k hal hsb hw ht hp hio
    have hx := amo_exec (rd := rd) (rs2 := rs2) (fn := fn) ⟨hi, hal, hsb, hw, ht, hp, hio⟩
    refine ⟨fun hr hb hu => ⟨_, hx.trans (congrArg _ (if_neg ?_)), atomicAt_tcm_stores hr hb hu rfl⟩,
      fun u hr hm ho hpo hd => ⟨_, hx.trans (congrArg _ (if_neg ?_)), atomicAt_line_stores hr hm ho hpo rfl hd⟩, fun hu => hx.trans (congrArg _ (if_pos hu))⟩
    · simp [uncached_tcm hr]
    · simp [uncached_cached hr]
  case lr =>
    intro s h size rd rs1 p hi n va c q k resv hal hsb hw ht hp hio
    have ha : AtomicReady s h .load (accBytes size) rs1 p := ⟨hi, hal, hsb, hw, ht, hp, hio⟩
    refine ⟨fun hr hb hu => ?_, fun hr hm ho hpo => ?_⟩
    · have hl := lr_tcm (rd := rd) ha hr hb hu
      rw [reserved_eq _ hr] at hl
      exact hl
    · have hl := lr_line (rd := rd) ha hr hm ho hpo
      rw [reserved_eq _ hr] at hl
      exact hl
  case sc =>
    intro s h size rd rs2 rs1 p hi n va c q v ok hal hsb hw ht hp hio hu
    have ha : AtomicReady s h .store (accBytes size) rs1 p := ⟨hi, hal, hsb, hw, ht, hp, hio⟩
    exact ⟨fun hn => sc_fails ha hu hn,
      fun hok hr hb hu' => ⟨_, (sc_exec ha hu).trans (congrArg _ (if_pos hok)), atomicAt_tcm_stores hr hb hu' rfl⟩,
      fun u hok hr hm ho hpo hd => ⟨_, (sc_exec ha hu).trans (congrArg _ (if_pos hok)), atomicAt_line_stores hr hm ho hpo rfl hd⟩⟩
  case amocas =>
    intro s h bytes rd rs2 rs1 p hi ht hwf va c q k cmp v hal hsb hw htr hp hio
    have hx := amocas_exec ⟨hi, hal, hsb, hw, htr, hp, hio⟩ ht hwf
    have near : p.tgt.region.uncached = false → exec (.amocas h bytes rd rs2 rs1) s =
        .next (q.atomicAt h p va bytes (if bytes = 16 then 20 else 18) (casStep rd bytes cmp v)) :=
      fun hu => (hx fun _ => hu).trans (congrArg _ (if_neg (by simp [hu])))
    refine ⟨fun hr hb hu => ⟨_, near (uncached_tcm hr), ?_⟩, fun hr hm ho hpo =>
      ⟨fun hne => ⟨_, near (uncached_cached hr), atomicAt_line_keeps hr hm ho hpo (casStep_ne hne)⟩,
        fun u he hd => ⟨_, near (uncached_cached hr), atomicAt_line_stores hr hm ho hpo (casStep_eq he) hd⟩⟩,
      fun hu hb => (hx fun he => absurd he hb).trans (congrArg _ (if_pos hu))⟩
    by_cases he : memRead s.mem.tcm k bytes = cmp
    · rw [if_pos he]
      exact atomicAt_tcm_stores hr hb hu (casStep_eq he)
    · rw [if_neg he]
      exact atomicAt_tcm_keeps hr hb hu (casStep_ne he)

end Sys2Proof.Machine
end

section
/-!
PROOFS. A hart reset waits for the requests of the hart's walks (R515, R516).
-/
namespace Sys2Proof.Machine

/-- T-core hart 0 with a register written, a walk's read of a PTE in C = 0 memory outstanding, and no store or load of its own outstanding. -/
def walkingHart : Hart :=
  { Hart.resetT with held := false, x := [(1, 1)], wreqs := [{ tag := 0, pa := 0x8000_0000, walk := 0, deadline := 100 }] }

/-- The reset values with that hart. -/
def walkingState : State := State.reset.setHart (.t 0) walkingHart

theorem walkingState_hart : walkingState.hart (.t 0) = walkingHart := hart_setHart_same ..

/-- A reset of that hart by the debugger waits, and the hart's registers stay. -/
theorem hartReset_walkingState {t : State} (ht : exec (.hartReset .sba (.t 0) 0) walkingState = .next t) : (t.hart (.t 0)).x = [(1, 1)] := by
  obtain rfl := Host.Outcome.next.inj ht
  decide +kernel

/-- Refutes O52: its clause about a hart with nothing outstanding names stores, loads and tracked writes, and leaves out the requests of the hart's walks; with one of
those outstanding the reset waits, and the registers are not cleared. -/
theorem not_resetsAndTheFirstInstruction : ¬ Obligations.ResetsAndTheFirstInstruction := by
  unfold Obligations.ResetsAndTheFirstInstruction
  rintro ⟨-, -, hreset, -⟩
  have hw := hreset walkingState (.t 0) .sba 0
  rw [walkingState_hart] at hw
  obtain ⟨-, hnow, -⟩ := hw rfl rfl
  obtain ⟨t, ht, hx, -⟩ := hnow rfl rfl rfl rfl rfl rfl
  rw [hartReset_walkingState ht] at hx
  exact List.cons_ne_nil _ _ hx

end Sys2Proof.Machine
end

section
/-!
PROOFS. Entering a trap of an S-core, the entry of the highest-ranked interrupt and the takeover by a late one (R120, R121, R123, R124, R126, R127).
-/
namespace Sys2Proof.Machine

/-! ### The registers of an entry (R121) -/

/-- Writing one field of a word leaves a field that shares no bit with it. -/
theorem fld_putFld_disjoint {w : Nat} (v : BitVec w) {hi lo hi' lo' : Nat} (x : Nat) (hl : lo ≤ hi) (hl' : lo' ≤ hi') (hw : hi' < w) (hd : hi' < lo ∨ hi < lo') :
    fld (putFld v hi lo x) hi' lo' = fld v hi' lo' := by
  apply Nat.eq_of_testBit_eq
  intro i
  rw [testBit_fld, testBit_fld]
  by_cases h : i < hi' - lo' + 1
  · rw [getLsbD_putFld v hi lo x (by omega), if_neg (by omega)]
  · simp [h]

theorem modePrv_lt (md : Mode) : modePrv md < 4 := by
  cases md <;> decide

/-- mstatus at an entry into M-mode from a mode of privilege `prv`: MPIE takes MIE, MIE is 0, MPP takes the privilege. -/
def entryStatus (st : Word) (prv : Nat) : Word := putFld (putFld (putFld st 7 7 (fld st 3 3)) 3 3 0) 12 11 prv

theorem entryStatus_fields (st : Word) {prv : Nat} (hp : prv < 4) :
    fld (entryStatus st prv) 7 7 = fld st 3 3 ∧ fld (entryStatus st prv) 3 3 = 0 ∧ fld (entryStatus st prv) 12 11 = prv := by
  have hmie : fld st 3 3 < 2 := Nat.mod_lt _ (by decide)
  refine ⟨?_, ?_, fld_putFld_same _ (by decide) (by decide) hp⟩
  · rw [entryStatus, fld_putFld_disjoint _ _ (by decide) (by decide) (by decide) (by decide),
      fld_putFld_disjoint _ _ (by decide) (by decide) (by decide) (by decide), fld_putFld_same _ (by decide) (by decide) hmie]
  · rw [entryStatus, fld_putFld_disjoint _ _ (by decide) (by decide) (by decide) (by decide), fld_putFld_same _ (by decide) (by decide) (by decide)]

/-- The hart of an S-core after an entry: four CSRs, the mode and the pc are new. -/
theorem enterTrap_score (c : Hart) (i : Trap) : c.enterTrap false i =
    { ((((c.csrPut 0x341 c.pc).csrPut 0x342 (causeWord i false)).csrPut 0x343 i.tval).csrPut 0x300 (entryStatus (c.csrRaw 0x300) (modePrv c.mode))) with
      mode := .m, pc := vectorOf (c.csrRaw 0x305) i false } := by
  have htvec : ∀ (v w x y : Word), ((((c.csrPut 0x341 v).csrPut 0x342 w).csrPut 0x343 x).csrPut 0x300 y).csrRaw 0x305 = c.csrRaw 0x305 := fun v w x y => by
    rw [csrRaw_csrPut_ne _ _ _ _ (by decide), csrRaw_csrPut_ne _ _ _ _ (by decide), csrRaw_csrPut_ne _ _ _ _ (by decide), csrRaw_csrPut_ne _ _ _ _ (by decide)]
  rw [← htvec c.pc (causeWord i false) i.tval (entryStatus (c.csrRaw 0x300) (modePrv c.mode))]
  rfl

/-- What the CSRs read after an entry. -/
theorem enterTrap_score_csrRaw (c : Hart) (i : Trap) (n : Nat) : (c.enterTrap false i).csrRaw n =
    if n = 0x300 then entryStatus (c.csrRaw 0x300) (modePrv c.mode) else if n = 0x343 then i.tval else if n = 0x342 then causeWord i false
    else if n = 0x341 then c.pc else c.csrRaw n := by
  rw [enterTrap_score]
  simp only [Hart.csrRaw, Hart.csrPut, tabGet_tabSet]

/-- Settles O7. -/
theorem machineTrapEntry : Obligations.MachineTrapEntry := by
  unfold Obligations.MachineTrapEntry
  intro c i d
  have hcsr : ∀ n, d.csrRaw n = _ := enterTrap_score_csrRaw c i
  obtain ⟨hmpie, hmie, hmpp⟩ := entryStatus_fields (c.csrRaw 0x300) (modePrv_lt c.mode)
  have hd : d = _ := enterTrap_score c i
  refine ⟨hcsr 0x341, hcsr 0x342, hcsr 0x343, ?_, ?_, ?_, by rw [hd], by rw [hd], fun n hn => ?_, by rw [hd]; rfl⟩
  · rw [hcsr 0x300]
    exact hmpie
  · rw [hcsr 0x300]
    exact hmie
  · rw [hcsr 0x300]
    exact hmpp
  · simp only [List.mem_cons, List.not_mem_nil, or_false, not_or] at hn
    obtain ⟨h300, h341, h342, h343⟩ := hn
    rw [hcsr n, if_neg h300, if_neg h343, if_neg h342, if_neg h341]

end Sys2Proof.Machine
end

section
/-!
PROOFS. SCORE_TRAP_ENTRY and LATE_ARRIVAL_TAKEOVER (R120, R121, R123, R124, R126, R127). On an S-core in M- or U-mode, and it has no other mode, they do what O8
says; O8 speaks of every state, and in one with the hart in VS-mode the interrupt can have number 64, the mark of a trigger with action 1 (`debugCause`).
-/
namespace Sys2Proof.Machine

section
variable {s : State} {n : Fin 48} {h : HartId} {cause : Option (Fin 64)} {tval : Word} {vf : Bool} {i : Trap}

/-! ### The fetch of the vector (R126) -/

/-- The fetch of the vector faults, or C = 0 memory answers it with an error. -/
def State.vectorFails (u : State) (h : HartId) (vf : Bool) : Prop :=
  (∃ x, u.fetchTo h (u.hart h).pc = .trap x) ∨ (vf = true ∧ ∃ pa g, u.fetchTo h (u.hart h).pc = .to pa g ∧ g.region = .c0)

theorem hart_logErr (s : State) (e : ErrInfo) (g : HartId) : (s.logErr e).hart g = s.hart g := by
  cases g <;> rfl

theorem vectorFetch_fails {u : State} (hf : u.vectorFails h vf) : u.vectorFetch h vf = u.coreFatal h 3 := by
  unfold State.vectorFetch
  obtain ⟨x, hx⟩ | ⟨hvf, pa, g, hg, hr⟩ := hf
  · rw [hx]
  · rw [hg]
    exact if_pos (by rw [hvf, hr]; rfl)

theorem vectorFetch_comes {u : State} (hf : ¬ u.vectorFails h vf) : u.vectorFetch h vf = u := by
  unfold State.vectorFails at hf
  unfold State.vectorFetch
  split
  · next x hx => exact absurd (.inl ⟨x, hx⟩) hf
  · next pa g hg =>
    refine if_neg fun hc => hf ?_
    rw [Bool.and_eq_true, beq_iff_eq] at hc
    exact .inr ⟨hc.1, pa, g, hg, hc.2⟩
  · rfl

theorem not_vectorFails_iff {u : State} : ¬ u.vectorFails h vf ↔
    (∀ x, u.fetchTo h (u.hart h).pc ≠ .trap x) ∧ (vf = true → ∀ pa g, u.fetchTo h (u.hart h).pc = .to pa g → g.region ≠ .c0) := by
  unfold State.vectorFails
  simp only [not_or, not_exists, not_and, ne_eq]

/-- The fetch of the vector halts no hart and resumes none. -/
theorem vectorFetch_halted (u : State) : ((u.vectorFetch h vf).hart h).halted = (u.hart h).halted := by
  by_cases hf : u.vectorFails h vf
  · rw [vectorFetch_fails hf]
    unfold State.coreFatal
    rw [hart_logErr, hart_updHart_same]
  · rw [vectorFetch_comes hf]

/-! ### SCORE_TRAP_ENTRY (R120, R121, R127) -/

/-- An interrupt that is due is entered, whatever the instruction in IS would raise. -/
theorem scoreTrapEntry_interrupt (hm : s.mayEnter (.s n) = true) (hd : s.irqDue (.s n) = some i) :
    exec (.scoreTrapEntry (.s n) cause tval vf) s = .next (((s.leaveWait (.s n)).trap (.s n) i).vectorFetch (.s n) vf) := by
  refine congrArg Host.Outcome.next ((if_neg (by simp [isT, hm])).trans ?_)
  dsimp only
  rw [hd]

/-- With no interrupt due, a core that waits for nothing enters the trap of the instruction in IS. -/
theorem scoreTrapEntry_exception {e : Fin 64} (hm : s.mayEnter (.s n) = true) (hr : (s.hart (.s n)).idle = .run) (hf : (s.hart (.s n)).fence = none)
    (hd : s.irqDue (.s n) = none) :
    exec (.scoreTrapEntry (.s n) (some e) tval vf) s = .next (((s.leaveWait (.s n)).trap (.s n) (excep e.val tval)).vectorFetch (.s n) vf) := by
  refine congrArg Host.Outcome.next ((if_neg (by simp [isT, hm])).trans ?_)
  dsimp only
  rw [hd, hr, hf]
  rfl

/-- Any trap but the mark of a trigger is entered as R121 says; then the fetch of its vector comes, or stops the core (R126). -/
theorem trap_vectorFetch_spec {c : Instr} (hx : exec c s = .next (((s.leaveWait h).trap h i).vectorFetch h vf)) (hi : i.cause ≠ debugCause) :
    ∃ u t, exec c s = .next t ∧ hartBecomes s u h (((s.leaveWait h).hart h).trapped (isT h) i) ∧
      (u.vectorFails h vf → t = u.coreFatal h 3) ∧ (¬ u.vectorFails h vf → t = u) :=
  ⟨_, _, hx, trap_becomes (onlyHart_setHart ..) rfl hi, vectorFetch_fails, vectorFetch_comes⟩

/-- The exception of the instruction in IS. -/
theorem scoreTrapEntry_exception_spec {e : Fin 64} (hm : s.mayEnter (.s n) = true) (hr : (s.hart (.s n)).idle = .run) (hf : (s.hart (.s n)).fence = none)
    (hd : s.irqDue (.s n) = none) :
    ∃ u t, exec (.scoreTrapEntry (.s n) (some e) tval vf) s = .next t ∧
      hartBecomes s u (.s n) (((s.leaveWait (.s n)).hart (.s n)).trapped false (excep e.val tval)) ∧
      (u.vectorFails (.s n) vf → t = u.coreFatal (.s n) 3) ∧ (¬ u.vectorFails (.s n) vf → t = u) :=
  trap_vectorFetch_spec (scoreTrapEntry_exception hm hr hf hd) (Nat.ne_of_lt e.isLt)

/-- Outside VS- and VU-mode an interrupt to take is one of the major interrupts, and not the mark of a trigger. -/
theorem topIrq_ne_debugCause {md : Mode} {k : Nat} (hv : modeVirt (s.hart h).mode = false) (ht : s.topIrq h = some (md, k)) : k ≠ debugCause := by
  have hmajor : ∀ (p : Bool) (w : Word) (j : Nat), (if p = true then topOf w else none) = some j → j ≠ debugCause := fun p w j hj => by
    have hmem := List.mem_of_find?_eq_some (Option.ite_none_right_eq_some.mp hj).2
    rintro rfl
    exact absurd hmem (by decide)
  unfold State.topIrq at ht
  dsimp only at ht
  split at ht
  · next hj =>
    obtain ⟨-, rfl⟩ := Prod.mk.inj (Option.some.inj ht)
    exact hmajor _ _ _ hj
  · split at ht
    · next hj =>
      obtain ⟨-, rfl⟩ := Prod.mk.inj (Option.some.inj ht)
      exact hmajor _ _ _ hj
    · cases hm : (s.hart h).mode <;> simp [hm, modeVirt] at hv ht

/-- The interrupt that ranks highest, on an S-core in M- or U-mode. -/
theorem scoreTrapEntry_interrupt_spec {md : Mode} {k : Nat} (hv : modeVirt (s.hart (.s n)).mode = false) (hm : s.mayEnter (.s n) = true)
    (hs : (s.hart (.s n)).stepMasks = false) (ht : s.topIrq (.s n) = some (md, k)) :
    ∃ u t, exec (.scoreTrapEntry (.s n) cause tval vf) s = .next t ∧
      hartBecomes s u (.s n) (((s.leaveWait (.s n)).hart (.s n)).trapped false (intrTrap md k)) ∧
      (u.vectorFails (.s n) vf → t = u.coreFatal (.s n) 3) ∧ (¬ u.vectorFails (.s n) vf → t = u) :=
  have hd : s.irqDue (.s n) = some (intrTrap md k) := by rw [State.irqDue, hs, ht]; rfl
  trap_vectorFetch_spec (scoreTrapEntry_interrupt hm hd) (topIrq_ne_debugCause hv ht)

/-! ### LATE_ARRIVAL_TAKEOVER (R123) -/

/-- The takeover by a higher-ranked interrupt `k` writes mcause, mtval and the pc. -/
theorem lateArrivalTakeover_becomes {old k : Nat} (hp : s.phase = .run) (hr : (s.hart (.s n)).runs = true) (hb : (s.hart (.s n)).begun = false)
    (he : (s.hart (.s n)).entry = some old) (hk : topOf (s.mip (.s n) &&& (s.hart (.s n)).csrRaw 0x304) = some k)
    (hc : ((s.hart (.s n)).csrRaw 0x342).getLsbD 63 = true) (hrank : irqOrder.idxOf k < irqOrder.idxOf old) :
    let tr := intrTrap .m k
    let c := ((s.hart (.s n)).csrPut 0x342 (causeWord tr false)).csrPut 0x343 0
    ∃ t, exec (.lateArrivalTakeover (.s n)) s = .next t ∧ hartBecomes s t (.s n) { c with pc := vectorOf (c.csrRaw 0x305) tr false } := by
  intro tr c
  refine ⟨(s.setHart (.s n) { c with pc := vectorOf (c.csrRaw 0x305) tr false, entry := some k }).event (.s n) 0x0C 1,
    congrArg Host.Outcome.next ((if_neg (by simp [isT, hp, hr, hb])).trans ?_), hartBecomes_event ⟨onlyHart_setHart .., ?_⟩ 0x0C 1⟩
  · rw [he, hk]
    exact if_pos (by simp [hc, hrank])
  · rw [hartIs_iff, hart_setHart_same]
    exact ⟨rfl, fun _ _ => rfl⟩

end

/-! ### An S-core in VS-mode whose hvictl names interrupt 63 (hvictl.VTI = 1, hvictl.IID = 63) -/

/-- The hart of `guestHart` on an S-core: the statement quantifies over every state, one with a hart in VS-mode among them. -/
def guestOnSCore : State := { State.reset with phase := .run, scores := [(0, guestHart)] }

theorem guestOnSCore_enters : guestOnSCore.mayEnter (.s 0) = true ∧ (guestOnSCore.hart (.s 0)).stepMasks = false ∧
    guestOnSCore.topIrq (.s 0) = some (.vs, 64) ∧ guestOnSCore.irqDue (.s 0) = some (intrTrap .vs 64) := by decide

/-- Refutes O8: SCORE_TRAP_ENTRY halts that hart, where the statement has it enter the trap of interrupt 64. -/
theorem not_sCoreEntry : ¬ Obligations.SCoreEntry := by
  unfold Obligations.SCoreEntry
  rintro ⟨hentry, -, -⟩
  obtain ⟨hmay, hstep, htop, hdue⟩ := guestOnSCore_enters
  obtain ⟨u, t, ht, hb, hfails, hcomes⟩ := hentry guestOnSCore 0 none 0 false .vs 64 hmay hstep htop
  have hend : t = u.vectorFetch (.s 0) false := by
    by_cases hf : u.vectorFails (.s 0) false
    · rw [hfails hf, vectorFetch_fails hf]
    · obtain ⟨htrap, hc0⟩ := not_vectorFails_iff.mp hf
      rw [hcomes htrap hc0, vectorFetch_comes hf]
  have hruns : (t.hart (.s 0)).halted = false := by
    rw [hend, vectorFetch_halted, hartBecomes_halted hb]
    decide
  rw [scoreTrapEntry_interrupt hmay hdue] at ht
  obtain rfl := Host.Outcome.next.inj ht
  rw [vectorFetch_halted, trap_debug rfl] at hruns
  exact absurd hruns (by decide)

end Sys2Proof.Machine
end

section
/-!
PROOFS. The entry into C3 of a T-core whose counters count write-backs of its L2 (R192, R401, R402, R451).
-/
namespace Sys2Proof.Machine

/-- T-core hart 0 in C2. Counter 3 counts dirty lines that leave the L2 (event 0x0B), is about to wrap, and names identity 1 (mhpmevent3.EIID). -/
def countingHart : Hart := { Hart.resetT with held := false, idle := .c2, csr := [(0x323, 0x1_0000_000B), (0xB03, ~~~0)] }

/-- That hart, with one dirty line of DRAM in its L2. -/
def countingState : State :=
  { State.reset with phase := .run, tcores := [(0, countingHart)], coh := { Coh.reset with l2 := [(l2Key 0 0x200_0000, { CLine.invalid with st := .m })] } }

/-- The hart may enter C3 (R451, R452). -/
theorem countingState_mayDeepen : (countingState.hart (.t 0)).idle = .c2 ∧
    (countingState.passTo ((countingState.hart (.t 0)).since + 200000)).mayDeepen (.t 0) = true ∧ (countingState.hart (.t 0)).admits 2 40000 = true := by decide +kernel

/-- The line leaves the L2 on entry into C3, the counter wraps, and identity 1 becomes pending in the hart's machine file. -/
theorem idleC3Entry_countingState {t : State} (ht : exec (.idleC3Entry (.t 0)) countingState = .next t) : (t.file (.t 0) .mach).eip.getLsbD 1 = true := by
  obtain rfl := Host.Outcome.next.inj ht
  decide +kernel

/-- Refutes O49: its frame for IDLE_C3_ENTRY leaves out the interrupt files, but the write-back of a dirty line is an event that the hart may count (R401), and a counter that
wraps sets its identity pending in the machine file (R402). -/
theorem not_idleStatesAndRetention : ¬ Obligations.IdleStatesAndRetention := by
  unfold Obligations.IdleStatesAndRetention
  rintro ⟨-, hdeep, -⟩
  obtain ⟨hidle, hmay, hadm⟩ := countingState_mayDeepen
  obtain ⟨t, ht, -, -, -, -, -, -, -, hframe⟩ := (hdeep countingState (.t 0)).2 hidle hmay hadm
  have hpending := idleC3Entry_countingState ht
  have hirq : t.irq = countingState.irq := by rw [hframe]
  have hfile : t.file (.t 0) .mach = ImFile.reset := congrArg (fun i : Irq => tabGet ImFile.reset i.imsic (fileKey (.t 0) .mach)) hirq
  rw [hfile] at hpending
  exact absurd hpending (by decide +kernel)

end Sys2Proof.Machine
end

section
/-!
PROOFS. A request that reaches its home's gate is free to go there, whatever its address: a device register and the boot ROM take it too, and open no transaction (R24, R155).
-/
namespace Sys2Proof.Machine

/-- A read of the boot ROM, at address 0 behind the management stop, by T-core hart 0 (R24). -/
def romRead : Flit := mkFlit .readNc (hartNode (.t 0)) mgmtNode 0

/-- The read is in turn, nothing is in its way, and its address has C = 0. -/
theorem romRead_free : State.reset.homeFree romRead = true ∧ State.reset.homeC romRead.addr.toNat = false := by decide +kernel

/-- The management stop answers the read itself: no slice opens a transaction that would ask memory for the line. -/
theorem readNc_romRead {t : State} (ht : exec (.readNc romRead) State.reset = .next t) : t.txn (lineOf romRead.addr.toNat) = none := by
  obtain rfl := Host.Outcome.next.inj ht
  decide +kernel

/-- Refutes O24: its clause for a C = 0 line speaks of every address, not only of DRAM's, and a ReadNC of the boot ROM is answered by the management stop (R24), where the
clause has the home slice open a transaction and ask memory. -/
theorem not_uncoherentRequestsServed : ¬ Obligations.UncoherentRequestsServed := by
  unfold Obligations.UncoherentRequestsServed
  rintro ⟨-, hread, -⟩
  obtain ⟨hfree, hc⟩ := romRead_free
  obtain ⟨t, g, ht, -, htxn, -⟩ := hread State.reset romRead rfl hfree hc
  rw [readNc_romRead ht] at htxn
  exact absurd htxn (by decide)

end Sys2Proof.Machine
end

section
/-!
PROOFS. What a probe does to the copy of its agent, in the agent or in its write-back buffer, and how the agent answers (R144, R162, R166, R181, R194).
-/
namespace Sys2Proof.Machine

/-! ### A line that leaves or is clean in the L1 caches (R162) -/

section
variable (s : State) (a ln : Nat)

theorem agentHarts_nodup : (agentHarts a).Nodup := allHarts_nodup.filter _

theorem mem_agentHarts {a : Nat} {h : HartId} : h ∈ agentHarts a ↔ agentOf h = a := by
  simp [agentHarts, mem_allHarts]

/-- What a line that leaves its agent, or that a snoop cleans, may change of a hart. -/
def Hart.sameButL1 (c d : Hart) : Prop := d = { c with dl1 := d.dl1, il1 := d.il1, resv := d.resv, early := d.early }

theorem loseResv_sameButL1 (c : Hart) (la : Nat) : c.sameButL1 (c.loseResv la) := by
  unfold Hart.loseResv
  split
  · split <;> rfl
  · rfl

theorem loseL1_sameButL1 {c d : Hart} (h : c.sameButL1 d) (ln : Nat) : c.sameButL1 (d.loseL1 ln) := by
  unfold Hart.sameButL1 at h ⊢
  rw [h]
  rfl

theorem loseL1_absent (c : Hart) (ln : Nat) : (c.loseL1 ln).inD ln = false ∧ (c.loseL1 ln).inI ln = false := by
  simp [Hart.loseL1, Hart.loseD, Hart.noteLost, Hart.inD, Hart.inI]

theorem lineLost_hart (h : HartId) : (s.hart h).sameButL1 ((s.lineLost a ln).hart h) ∧
    (agentOf h = a → ((s.lineLost a ln).hart h).inD ln = false ∧ ((s.lineLost a ln).hart h).inI ln = false) := by
  unfold State.lineLost
  rw [hart_mapHarts _ ((agentHarts_nodup a).filter _)]
  split
  · exact ⟨loseL1_sameButL1 (loseResv_sameButL1 ..) ln, fun _ => loseL1_absent ..⟩
  · next hout =>
    refine ⟨rfl, fun ha => ?_⟩
    simp only [List.mem_filter, mem_agentHarts, ha, true_and, Bool.or_eq_true, not_or, Bool.not_eq_true] at hout
    exact ⟨hout.1.2, hout.2⟩

theorem cleanL1_hart (h : HartId) : (s.hart h).sameButL1 ((s.cleanL1 a ln).hart h) := by
  unfold State.cleanL1
  rw [hart_mapHarts _ ((agentHarts_nodup a).filter _)]
  split <;> rfl

/-! ### The copy that a probe meets (R166, R194) -/

/-- From `s` to `t` the copy that agent `a` holds of a line, or the one in its write-back buffer, becomes `d`; beside it the harts' L1 copies, reservations and early
loads, the mesh, tokens and the interrupts may differ. -/
def State.copyBecomes (s t : State) (a ln : Nat) (d : CLine) : Prop :=
  t = { s with tcores := t.tcores, scores := t.scores, coh := { s.coh with l2 := t.coh.l2, wb := t.coh.wb }, mesh := t.mesh, brine := t.brine, irq := t.irq } ∧
  (∀ h, (s.hart h).sameButL1 (t.hart h)) ∧
  if (s.l2 a ln).st = .i then t.coh.l2 = s.coh.l2 ∧ (t.holderLine a ln).st = d.st
  else t.coh.wb = s.coh.wb ∧ t.l2 a ln = (if d.st = .i then .invalid else d) ∧ (∀ b j, l2Key b j ≠ l2Key a ln → t.l2 b j = s.l2 b j) ∧
    (d.st = .i → ∀ h, agentOf h = a → (t.hart h).inD ln = false ∧ (t.hart h).inI ln = false)

variable {s a ln}
variable {t u : State} {d : CLine}

/-- The holder's copy is the line in the agent where that is not I. -/
theorem holderLine_held (hl : (s.l2 a ln).st ≠ .i) : s.holderLine a ln = s.l2 a ln := by
  unfold State.holderLine
  exact if_pos (bne_iff_ne.mpr hl)

/-- A copy in the write-back buffer as a probe sees it. -/
def WbEntry.line (e : WbEntry) : CLine := { CLine.invalid with st := e.st, data := e.data, mask := e.mask, poison := e.poison, token := e.token }

/-- The holder's copy is that of the write-back buffer, if any, where the agent's line is I. -/
theorem holderLine_wb (hl : (s.l2 a ln).st = .i) :
    s.holderLine a ln = ((s.coh.wb.find? fun e => e.agent == a && e.la == 64 * ln).map WbEntry.line).getD .invalid := by
  unfold State.holderLine
  refine (if_neg (by rw [hl]; decide)).trans ?_
  split
  · next hf => rw [hf]; rfl
  · next hf => rw [hf]; rfl

theorem copyBecomes_refl (s : State) (a ln : Nat) : s.copyBecomes s a ln (s.holderLine a ln) := by
  refine ⟨rfl, fun h => rfl, ?_⟩
  split
  · exact ⟨rfl, rfl⟩
  · next hl =>
    rw [holderLine_held hl, if_neg hl]
    exact ⟨rfl, rfl, fun _ _ _ => rfl, fun hi => absurd hi hl⟩

/-- What is sent, and tokens that are freed, leave the copy. -/
theorem copyBecomes_of_rest (hc : s.copyBecomes t a ln d) (hu : u = { t with mesh := u.mesh, brine := u.brine, irq := u.irq }) : s.copyBecomes u a ln d := by
  obtain ⟨m, b, q, rfl⟩ : ∃ m b q, u = { t with mesh := m, brine := b, irq := q } := ⟨_, _, _, hu⟩
  obtain ⟨hframe, hharts, hcopy⟩ := hc
  exact ⟨congrArg (fun x : State => { x with mesh := m, brine := b, irq := q }) hframe, fun h => by cases h <;> exact hharts _, hcopy⟩

theorem copyBecomes_send (hc : s.copyBecomes t a ln d) (f : Flit) : s.copyBecomes (t.send f) a ln d := copyBecomes_of_rest hc rfl

/-- A copy in the write-back buffer takes another state there. -/
theorem setHolder_wb (hl : (s.l2 a ln).st = .i) (hd : (s.holderLine a ln).st = .i → d.st = .i) : s.copyBecomes (s.setHolder a ln d) a ln d := by
  have hset : s.setHolder a ln d = { s with coh := { s.coh with wb := s.coh.wb.map fun e =>
      if e.agent = a ∧ e.la = 64 * ln then { e with st := d.st, data := d.data, mask := d.mask, token := d.token } else e } } :=
    if_neg (by rw [hl]; decide)
  rw [hset]
  refine ⟨rfl, fun h => by cases h <;> rfl, ?_⟩
  rw [if_pos hl]
  refine ⟨rfl, ?_⟩
  rw [holderLine_wb (by exact hl)]
  rw [holderLine_wb hl] at hd
  have hkey : ((fun e : WbEntry => e.agent == a && e.la == 64 * ln) ∘ fun e => if e.agent = a ∧ e.la = 64 * ln then
      { e with st := d.st, data := d.data, mask := d.mask, token := d.token } else e) = fun e => e.agent == a && e.la == 64 * ln := by
    funext e
    dsimp only [Function.comp]
    split <;> rfl
  rw [List.find?_map, hkey]
  cases hf : s.coh.wb.find? fun e => e.agent == a && e.la == 64 * ln with
  | none =>
    rw [hf] at hd
    exact (hd rfl).symm
  | some e =>
    have he := List.find?_some hf
    rw [Bool.and_eq_true, beq_iff_eq, beq_iff_eq] at he
    rw [Option.map_some]
    simp only [if_pos he]
    rfl

/-- A line in the agent is written, its L1 copies with it or not. -/
theorem copyBecomes_setL2 (hl : (s.l2 a ln).st ≠ .i) (hu : u = { s with tcores := u.tcores, scores := u.scores }) (hh : ∀ h, (s.hart h).sameButL1 (u.hart h))
    (hgone : d.st = .i → ∀ h, agentOf h = a → (u.hart h).inD ln = false ∧ (u.hart h).inI ln = false) :
    s.copyBecomes (u.setL2 a ln (if d.st = .i then .invalid else d)) a ln d := by
  obtain ⟨x, y, rfl⟩ : ∃ x y, u = { s with tcores := x, scores := y } := ⟨_, _, hu⟩
  have hset : ∀ h v, (State.setL2 { s with tcores := x, scores := y } a ln v).hart h = State.hart { s with tcores := x, scores := y } h :=
    fun h _ => by cases h <;> rfl
  rw [State.copyBecomes, if_neg hl]
  simp only [hset]
  refine ⟨rfl, hh, rfl, l2_setL2_same .., fun b j hb => ?_, hgone⟩
  rw [setL2_l2, if_neg hb]
  rfl

/-- A line in the agent takes another state, or leaves with its L1 copies. -/
theorem setHolder_held (hl : (s.l2 a ln).st ≠ .i) (hw : d.way = (s.l2 a ln).way) : s.copyBecomes (s.setHolder a ln d) a ln d := by
  have hset : s.setHolder a ln d = if d.st = .i then (s.lineLost a ln).setL2 a ln .invalid else (s.cleanL1 a ln).setL2 a ln d := by
    refine (if_pos (bne_iff_ne.mpr hl)).trans ?_
    rw [← hw]
  by_cases hi : d.st = .i
  · have h := copyBecomes_setL2 (d := d) hl (mapHarts_frame ..) (fun h => (lineLost_hart s a ln h).1) fun _ h => (lineLost_hart s a ln h).2
    rw [hset, if_pos hi]
    rwa [if_pos hi] at h
  · have h := copyBecomes_setL2 (d := d) hl (mapHarts_frame ..) (cleanL1_hart s a ln) fun h => absurd h hi
    rw [hset, if_neg hi]
    rwa [if_neg hi] at h

/-- A copy keeps its way, and one that is not there does not come. -/
theorem setHolder_becomes (s : State) (a ln : Nat) {x : Moesi} {k : Bool} (hx : (s.holderLine a ln).st = .i → x = .i) :
    s.copyBecomes (s.setHolder a ln { s.holderLine a ln with st := x, token := k }) a ln { s.holderLine a ln with st := x, token := k } := by
  by_cases hl : (s.l2 a ln).st = .i
  · exact setHolder_wb hl hx
  · exact setHolder_held hl (by rw [← holderLine_held hl])

/-- Of a copy that is gone only its state counts. -/
theorem copyBecomes_gone {c : CLine} (hc : s.copyBecomes t a ln c) (h : c.st = .i) (hd : d.st = .i) : s.copyBecomes t a ln d := by
  unfold State.copyBecomes at hc ⊢
  simpa only [h, hd, if_true] using hc

/-- Nothing but harts and caches changes with a copy. -/
theorem setHolder_frame (s : State) (a ln : Nat) (d : CLine) : ∃ x y c, s.setHolder a ln d = { s with tcores := x, scores := y, coh := c } := by
  unfold State.setHolder
  split
  · split
    · rw [State.lineLost, mapHarts_frame]; exact ⟨_, _, _, rfl⟩
    · rw [State.cleanL1, mapHarts_frame]; exact ⟨_, _, _, rfl⟩
  · exact ⟨_, _, _, rfl⟩

theorem setHolder_brine (s : State) (a ln : Nat) (d : CLine) : (s.setHolder a ln d).brine = s.brine := by
  obtain ⟨x, y, c, h⟩ := setHolder_frame s a ln d
  rw [h]

theorem setHolder_irq (s : State) (a ln : Nat) (d : CLine) : (s.setHolder a ln d).irq = s.irq := by
  obtain ⟨x, y, c, h⟩ := setHolder_frame s a ln d
  rw [h]

end

/-! ### What an agent sends for a probe (R166) -/

theorem thirdClass_src (r f : Flit) : (thirdClass r f).src = f.src := by
  unfold thirdClass
  split <;> rfl

theorem answerFlit_src (f : Flit) (op : MsgOp) (a : Nat) (c : CLine) : (answerFlit f op a c).src = agentNode a := thirdClass_src ..
theorem forwardFlit_src (f : Flit) (a : Nat) (c : CLine) (g : Moesi) (k : Bool) : (forwardFlit f a c g k).src = agentNode a := thirdClass_src ..

/-- The flits that wait at the L input of a stop (R195). -/
def State.atInput (s : State) (k : Nat) : List Flit := (tabGet [] s.mesh.inject k).map Prod.snd

theorem send_atInput {k : Nat} (s : State) {f : Flit} (hf : nodeStop f.src = k) : (s.send f).atInput k = s.atInput k ++ [f] := by
  subst hf
  simp [State.atInput, State.send]

theorem lastSent_send_from {n : Node} (s : State) {f : Flit} (hf : f.src = n) : (s.send f).lastSent (nodeStop n) = some f := by
  subst hf
  exact lastSent_send s f

theorem mem_atInput_send_send {n : Node} (s : State) {f g : Flit} (hf : f.src = n) (hg : g.src = n) : f ∈ ((s.send f).send g).atInput (nodeStop n) := by
  rw [send_atInput _ (congrArg nodeStop hg), send_atInput _ (congrArg nodeStop hf)]
  simp

section
variable {s t : State} {f : Flit} {a : Nat}

/-- The probe leaves the agent's copy of its line as `d` and the agent's last answer is `g`; tokens and interrupts stay (R166). -/
def State.answersProbe (s t : State) (f : Flit) (a : Nat) (d : CLine) (g : Flit) : Prop :=
  t.brine = s.brine ∧ t.irq = s.irq ∧ s.copyBecomes t a (lineOf f.addr.toNat) d ∧ t.lastSent (nodeStop (agentNode a)) = some g

/-- The copy stays, and the agent answers. -/
theorem answersProbe_stays {g : Flit} (hg : g.src = agentNode a) :
    s.answersProbe (s.send g) f a (s.holderLine a (lineOf f.addr.toNat)) g :=
  ⟨rfl, rfl, copyBecomes_send (copyBecomes_refl ..) g, lastSent_send_from s hg⟩

/-- A flit more to another agent before the answer. -/
theorem answersProbe_forwards {d : CLine} {g x : Flit} (hp : s.answersProbe (t.send g) f a d g) (hg : g.src = agentNode a) :
    s.answersProbe ((t.send x).send g) f a d g := by
  obtain ⟨hb, hi, hc, -⟩ := hp
  exact ⟨hb, hi, copyBecomes_of_rest hc rfl, lastSent_send_from _ hg⟩

theorem answersProbe_gone {c d : CLine} {g : Flit} (hp : s.answersProbe t f a c g) (h : c.st = .i) (hd : d.st = .i) : s.answersProbe t f a d g := by
  obtain ⟨hb, hi, hc, hl⟩ := hp
  exact ⟨hb, hi, copyBecomes_gone hc h hd, hl⟩

end

/-! ### The four probes (R166) -/

section
variable {s : State} {f : Flit} {a : Nat}

/-- The agent's copy takes state `x`, and its token stays with it or not. -/
def State.probedTo (s : State) (f : Flit) (a : Nat) (x : Moesi) (k : Bool) : State :=
  s.setHolder a (lineOf f.addr.toNat) { s.holderLine a (lineOf f.addr.toNat) with st := x, token := k }

/-- M, O and E are the states whose holder has data to give (R166). -/
theorem mem_owning {x : Moesi} : x ∈ [Moesi.m, .o, .e] ↔ x ≠ .i ∧ x ≠ .s := by
  cases x <;> decide

/-- The data of a holder goes straight to the requester where the probe asks for that and every byte is there (R166). -/
def CLine.direct (c : CLine) (f : Flit) : Bool := f.fwd && fullMask c.mask

theorem ite_not_direct {c : CLine} {α : Type} (x y : α) : (if (!f.fwd || !fullMask c.mask) = true then x else y) = if c.direct f = true then y else x := by
  unfold CLine.direct
  cases f.fwd <;> cases fullMask c.mask <;> rfl

section
variable {c : CLine} (hc : s.holderLine a (lineOf f.addr.toNat) = c)
include hc

theorem probeShare_idle (ho : c.st = .i ∨ c.st = .s) : s.probeShare f a = s.send (answerFlit f .probeAck a c) := by
  unfold State.probeShare
  dsimp only
  rw [hc]
  rcases ho with h | h <;> rw [h]

theorem probeShare_wb (ho : c.st ∈ [Moesi.m, .o, .e]) (hw : s.fromWb a (lineOf f.addr.toNat) = true) :
    s.probeShare f a = (s.probedTo f a .i false).send { answerData f a c c.token with fwd := true } := by
  unfold State.probeShare State.probedTo
  dsimp only
  rw [hc, hw]
  cases h : c.st <;> simp [h] at ho ⊢

theorem probeShare_held (ho : c.st ∈ [Moesi.m, .o, .e]) (hw : s.fromWb a (lineOf f.addr.toNat) = false) :
    s.probeShare f a = if c.direct f = true
      then ((s.probedTo f a (if c.st = .e then .s else .o) c.token).send (forwardFlit f a c .s false)).send (answerFlit f .probeAck a c)
      else (s.probedTo f a (if c.st = .e then .s else .o) c.token).send (answerData f a c false) := by
  unfold State.probeShare State.probedTo CLine.downTo
  dsimp only
  simp only [hc, hw, ite_not_direct]
  cases h : c.st <;> simp [h] at ho ⊢

theorem probeTake_idle (ho : c.st = .i ∨ c.st = .s) : s.probeTake f a = (s.probedTo f a .i c.token).send (answerFlit f .probeAck a c) := by
  unfold State.probeTake State.probedTo
  dsimp only
  rw [hc]
  rcases ho with h | h <;> rw [h]

theorem probeTake_owner (ho : c.st ∈ [Moesi.m, .o, .e]) :
    s.probeTake f a = if c.direct f = true
      then ((s.probedTo f a .i c.token).send (forwardFlit f a c (if c.st = .e then .e else .m) c.token)).send (answerFlit f .probeAck a c)
      else (s.probedTo f a .i c.token).send (answerData f a c c.token) := by
  unfold State.probeTake State.probedTo
  dsimp only
  simp only [hc, ite_not_direct]
  cases h : c.st <;> simp [h] at ho ⊢

theorem probeKill_discards (hd : c.dirtyLine = true) (hf : f.size = 1) :
    s.probeKill f a = ((s.probedTo f a .i c.token).freeTokenIf c.token).send (answerFlit f .probeAck a c) := by
  unfold State.probeKill State.probedTo
  dsimp only
  rw [hc, if_pos hd, if_pos hf]

theorem probeKill_returns (hd : c.dirtyLine = true) (hf : f.size ≠ 1) : s.probeKill f a = (s.probedTo f a .i c.token).send (answerData f a c c.token) := by
  unfold State.probeKill State.probedTo
  dsimp only
  rw [hc, if_pos hd, if_neg hf]

theorem probeKill_clean (hd : c.dirtyLine = false) : s.probeKill f a = (s.probedTo f a .i c.token).send (answerFlit f .probeAck a c) := by
  unfold State.probeKill State.probedTo
  dsimp only
  rw [hc, hd]
  rfl

theorem probeClean_dirty (hd : c.dirtyLine = true) : s.probeClean f a =
    (s.probedTo f a (if s.fromWb a (lineOf f.addr.toNat) = true then .i else if c.st = .m then .e else .s) false).send
      { answerData f a c c.token with fwd := s.fromWb a (lineOf f.addr.toNat) } := by
  unfold State.probeClean State.probedTo CLine.downTo
  dsimp only
  simp only [hc, hd, if_true]

theorem probeClean_clean (hd : c.dirtyLine = false) : s.probeClean f a = s.send (answerFlit f .probeAck a c) := by
  unfold State.probeClean
  dsimp only
  simp only [hc, hd, Bool.false_eq_true, if_false]

end

/-! ### What each probe leaves and how it is answered (R166) -/

theorem freeToken_frame (s : State) : s.freeToken = { s with brine := s.freeToken.brine, irq := s.freeToken.irq } := by
  unfold State.freeToken
  split <;> rfl

theorem freeTokenIf_frame (s : State) (k : Bool) : s.freeTokenIf k = { s with brine := (s.freeTokenIf k).brine, irq := (s.freeTokenIf k).irq } := by
  cases k with
  | true => exact freeToken_frame s
  | false => rfl

/-- A token that goes sends nothing of its agent. -/
theorem freeTokenIf_rest (s : State) (k : Bool) :
    s.freeTokenIf k = { s with mesh := (s.freeTokenIf k).mesh, brine := (s.freeTokenIf k).brine, irq := (s.freeTokenIf k).irq } := by
  rw [freeTokenIf_frame]

theorem probedTo_brine (x : Moesi) (k : Bool) : (s.probedTo f a x k).brine = s.brine := setHolder_brine ..

theorem freeTokenIf_brine_congr {s t : State} (h : t.brine = s.brine) (k : Bool) : (t.freeTokenIf k).brine = (s.freeTokenIf k).brine := by
  cases k with
  | false => exact h
  | true =>
    have hfree : ∀ u : State, u.freeToken.brine = if u.brine.cutPend = 0 then { u.brine with pool := u.brine.pool + 1 }
        else { u.brine with cutPend := u.brine.cutPend - 1, budget := u.brine.budget - 1 } := fun u => by
      unfold State.freeToken
      split <;> rfl
    exact (hfree t).trans ((h ▸ rfl : _ = _).trans (hfree s).symm)

theorem copyBecomes_probedTo {c : CLine} (hc : s.holderLine a (lineOf f.addr.toNat) = c) {x : Moesi} {k : Bool} (hx : c.st = .i → x = .i) :
    s.copyBecomes (s.probedTo f a x k) a (lineOf f.addr.toNat) { c with st := x, token := k } := by
  subst hc
  exact setHolder_becomes s a _ hx

theorem answersProbe_probedTo {c : CLine} (hc : s.holderLine a (lineOf f.addr.toNat) = c) {x : Moesi} {k : Bool} (hx : c.st = .i → x = .i) {g : Flit}
    (hg : g.src = agentNode a) : s.answersProbe ((s.probedTo f a x k).send g) f a { c with st := x, token := k } g := by
  exact ⟨setHolder_brine .., setHolder_irq .., copyBecomes_send (copyBecomes_probedTo hc hx) g, lastSent_send_from _ hg⟩

section
variable {c : CLine} (hc : s.holderLine a (lineOf f.addr.toNat) = c)
include hc

/-- A holder in S, and an agent without a copy, answer without data. -/
theorem probeShare_idle_spec (ho : c.st = .i ∨ c.st = .s) : s.answersProbe (s.probeShare f a) f a c (answerFlit f .probeAck a c) := by
  rw [probeShare_idle hc ho, ← hc]
  exact answersProbe_stays (answerFlit_src ..)

/-- A copy in the write-back buffer comes home, marked as given up (R194). -/
theorem probeShare_wb_spec (ho : c.st ∈ [Moesi.m, .o, .e]) (hw : s.fromWb a (lineOf f.addr.toNat) = true) :
    s.answersProbe (s.probeShare f a) f a { c with st := .i } { answerData f a c c.token with fwd := true } := by
  rw [probeShare_wb hc ho hw]
  exact answersProbe_gone (answersProbe_probedTo hc (fun _ => rfl) (answerFlit_src ..)) rfl rfl

/-- A holder in M, O or E keeps the line, and forwards its data or sends it home (R166). -/
theorem probeShare_held_spec (ho : c.st ∈ [Moesi.m, .o, .e]) (hw : s.fromWb a (lineOf f.addr.toNat) = false) :
    s.answersProbe (s.probeShare f a) f a { c with st := if c.st = .e then .s else .o }
      (if c.direct f = true then answerFlit f .probeAck a c else answerData f a c false) ∧
    (c.direct f = true → forwardFlit f a c .s false ∈ (s.probeShare f a).atInput (nodeStop (agentNode a))) := by
  have hx : c.st = .i → (if c.st = .e then Moesi.s else .o) = .i := fun h => absurd h (mem_owning.mp ho).1
  rw [probeShare_held hc ho hw]
  cases hd : c.direct f with
  | true => exact ⟨answersProbe_forwards (answersProbe_probedTo hc hx (answerFlit_src ..)) (answerFlit_src ..),
      fun _ => mem_atInput_send_send _ (forwardFlit_src ..) (answerFlit_src ..)⟩
  | false => exact ⟨answersProbe_probedTo hc hx (answerFlit_src ..), fun h => absurd h Bool.false_ne_true⟩

theorem probeTake_idle_spec (ho : c.st = .i ∨ c.st = .s) : s.answersProbe (s.probeTake f a) f a { c with st := .i } (answerFlit f .probeAck a c) := by
  rw [probeTake_idle hc ho]
  exact answersProbe_probedTo hc (fun _ => rfl) (answerFlit_src ..)

/-- A holder in M, O or E gives the line up, and forwards its data or sends it home (R166). -/
theorem probeTake_owner_spec (ho : c.st ∈ [Moesi.m, .o, .e]) :
    s.answersProbe (s.probeTake f a) f a { c with st := .i } (if c.direct f = true then answerFlit f .probeAck a c else answerData f a c c.token) ∧
    (c.direct f = true → forwardFlit f a c (if c.st = .e then .e else .m) c.token ∈ (s.probeTake f a).atInput (nodeStop (agentNode a))) := by
  rw [probeTake_owner hc ho]
  cases hd : c.direct f with
  | true => exact ⟨answersProbe_forwards (answersProbe_probedTo hc (fun _ => rfl) (answerFlit_src ..)) (answerFlit_src ..),
      fun _ => mem_atInput_send_send _ (forwardFlit_src ..) (answerFlit_src ..)⟩
  | false => exact ⟨answersProbe_probedTo hc (fun _ => rfl) (answerFlit_src ..), fun h => absurd h Bool.false_ne_true⟩

/-- A probed copy goes; of the tokens, only one that a DiscardLine frees changes (R166). -/
theorem probeKill_spec : let t := s.probeKill f a
    s.copyBecomes t a (lineOf f.addr.toNat) { c with st := .i } ∧
    t.brine = (s.freeTokenIf (c.dirtyLine && f.size == 1 && c.token)).brine ∧
    t.lastSent (nodeStop (agentNode a)) = some (if c.dirtyLine = true ∧ f.size ≠ 1 then answerData f a c c.token else answerFlit f .probeAck a c) := by
  dsimp only
  cases hd : c.dirtyLine with
  | false =>
    rw [probeKill_clean hc hd]
    obtain ⟨hb, -, hcopy, hl⟩ := answersProbe_probedTo hc (x := .i) (k := c.token) (fun _ => rfl) (answerFlit_src f .probeAck a c)
    exact ⟨hcopy, hb, hl⟩
  | true =>
    by_cases hf : f.size = 1
    · rw [probeKill_discards hc hd hf]
      refine ⟨copyBecomes_send (copyBecomes_of_rest (copyBecomes_probedTo hc fun _ => rfl) (freeTokenIf_rest ..)) _, ?_, ?_⟩
      · simpa [hf] using freeTokenIf_brine_congr (probedTo_brine .i c.token) c.token
      · simpa [hf] using lastSent_send_from _ (answerFlit_src f .probeAck a c)
    · have hs : (f.size == 1) = false := beq_false_of_ne hf
      obtain ⟨hb, -, hcopy, hl⟩ := answersProbe_probedTo hc (x := .i) (k := c.token) (fun _ => rfl)
        (show (answerData f a c c.token).src = _ from answerFlit_src f .probeData a c)
      rw [probeKill_returns hc hd hf, hs]
      exact ⟨hcopy, hb, by simpa [hf] using hl⟩

theorem probeClean_dirty_spec (hd : c.dirtyLine = true) : s.answersProbe (s.probeClean f a) f a
    { c with st := if s.fromWb a (lineOf f.addr.toNat) = true then .i else if c.st = .m then .e else .s, token := false }
    { answerData f a c c.token with fwd := s.fromWb a (lineOf f.addr.toNat) } := by
  rw [probeClean_dirty hc hd]
  exact answersProbe_probedTo hc (fun h => absurd hd (by rw [CLine.dirtyLine, h]; decide)) (answerFlit_src ..)

theorem probeClean_clean_spec (hd : c.dirtyLine = false) : s.answersProbe (s.probeClean f a) f a c (answerFlit f .probeAck a c) := by
  rw [probeClean_clean hc hd, ← hc]
  exact answersProbe_stays (answerFlit_src ..)

end

/-! ### O25 -/

theorem atAgent_inTurn (ha : agentOfNode f.dst = some a) (ht : s.flitTurn f = true) (p : State → Nat → State) : s.atAgent f p = p (s.accept f) a := by
  unfold State.atAgent State.onFlit
  rw [ha]
  exact if_pos ht

theorem not_deferred_any (ha : agentOfNode f.dst = some a) : ((agentOfNode f.dst).any fun a => s.deferred a (lineOf f.addr.toNat)) = s.deferred a (lineOf f.addr.toNat) := by
  rw [ha]
  rfl

end

/-- Settles O25, probe by probe: the state of the copy decides what the agent keeps and what it sends. -/
theorem probesAnswered : Obligations.ProbesAnswered := by
  unfold Obligations.ProbesAnswered
  intro holds s f a ha ht ln c wb direct k ack gone
  have hc : (s.accept f).holderLine a ln = c := rfl
  refine ⟨⟨_, congrArg Host.Outcome.next (atAgent_inTurn ha ht _), ?_⟩, fun hd => ⟨_, congrArg Host.Outcome.next ((if_neg ?_).trans (atAgent_inTurn ha ht _)), ?_⟩,
    fun hd => ⟨_, congrArg Host.Outcome.next ((if_neg ?_).trans (atAgent_inTurn ha ht _)), ?_⟩, ⟨_, congrArg Host.Outcome.next (atAgent_inTurn ha ht _), ?_⟩,
    fun hd => ⟨congrArg Host.Outcome.next (if_pos ?_), congrArg Host.Outcome.next (if_pos ?_)⟩⟩
  · cases hst : c.st with
    | i | s =>
      obtain ⟨hb, hi, hcopy, hl⟩ := probeShare_idle_spec hc (by simp [hst])
      exact ⟨hb, hi, hcopy, hl, fun h => absurd h (by decide)⟩
    | m | o | e =>
      have ho : c.st ∈ [Moesi.m, .o, .e] := by simp [hst]
      cases hw : wb with
      | true =>
        obtain ⟨hb, hi, hcopy, hl⟩ := probeShare_wb_spec hc ho hw
        exact ⟨hb, hi, hcopy, hl, fun _ h => absurd h (by decide)⟩
      | false =>
        obtain ⟨⟨hb, hi, hcopy, hl⟩, hfwd⟩ := probeShare_held_spec hc ho hw
        rw [hst] at hcopy
        exact ⟨hb, hi, hcopy, hl, fun _ _ => hfwd⟩
  · rw [not_deferred_any ha, hd]; decide
  · cases hst : c.st with
    | i | s =>
      obtain ⟨hb, hi, hcopy, hl⟩ := probeTake_idle_spec hc (by simp [hst])
      exact ⟨hb, hi, hcopy, hl, fun h => absurd h (by decide)⟩
    | m | o | e =>
      obtain ⟨⟨hb, hi, hcopy, hl⟩, hfwd⟩ := probeTake_owner_spec hc (by simp [hst])
      rw [hst] at hfwd
      exact ⟨hb, hi, hcopy, hl, fun _ => hfwd⟩
  · rw [not_deferred_any ha, hd]; decide
  · obtain ⟨hcopy, hb, hl⟩ := probeKill_spec hc
    exact ⟨hcopy, hb.trans (freeTokenIf_brine_congr (s := s) (t := s.accept f) rfl _), hl⟩
  · cases hd : c.dirtyLine with
    | true => exact probeClean_dirty_spec hc hd
    | false => exact probeClean_clean_spec hc hd
  · exact (not_deferred_any ha).trans hd
  · exact (not_deferred_any ha).trans hd

end Sys2Proof.Machine
end

section
/-!
PROOFS. What a PCIe root port does with the requests of its devices, their MSIs, the completions of outbound requests and the events of its link (R147, R289, R295, R381, R384,
R523, R525).
-/
namespace Sys2Proof.Machine

/-! ### What counting changes (R408, R411) -/

/-- From `s` to `t` only counters, their event pulses and the flits that carry these have changed. -/
def State.countsTo (s t : State) : Prop :=
  ∃ p e i n, t = { s with perf := p, irq := { s.irq with events := e }, mesh := { s.mesh with inject := i, stamp := n } }

section
variable {s t u : State}

theorem countsTo_refl (s : State) : s.countsTo s := ⟨_, _, _, _, rfl⟩

theorem countsTo_trans (a : s.countsTo t) (b : t.countsTo u) : s.countsTo u := by
  obtain ⟨p, e, i, n, rfl⟩ := a
  obtain ⟨p, e, i, n, rfl⟩ := b
  exact ⟨p, e, i, n, rfl⟩

variable (s)

theorem pulseAtStop_counts (n stop : Nat) : s.countsTo (s.pulseAtStop n stop) := ⟨_, _, _, _, pulseAtStop_frame ..⟩

theorem bumpBank_counts (stop b k n : Nat) : s.countsTo (s.bumpBank stop b k n) := by
  unfold State.bumpBank
  dsimp only
  split
  · exact ⟨_, _, _, _, rfl⟩
  · split
    · exact countsTo_trans ⟨_, _, _, _, rfl⟩ (pulseAtStop_counts ..)
    · exact ⟨_, _, _, _, rfl⟩

theorem count_counts (stop b code n : Nat) (c : Option Counted) : s.countsTo (s.count stop b code n c) := by
  unfold State.count
  split
  · exact countsTo_refl s
  · exact List.foldlRecOn _ _ (countsTo_refl s) fun t ht k _ => countsTo_trans ht (bumpBank_counts ..)

theorem bwAdd_counts (stop b n : Nat) : s.countsTo (s.bwAdd stop b n) := by
  unfold State.bwAdd
  dsimp only
  split
  · exact countsTo_refl s
  · exact ⟨_, _, _, _, rfl⟩

theorem tlpReceived_counts (i n : Nat) : s.countsTo (s.tlpReceived i n) :=
  countsTo_trans (countsTo_trans (count_counts ..) (count_counts ..)) (bwAdd_counts ..)

end

/-! ### The place of an access (R24, R319, R525) -/

/-- Where an uncached access goes depends on the PMA table and the links alone. -/
theorem dest_congr {s t : State} (hp : t.pma = s.pma) (hg : t.graop = s.graop) (pa tmo : Nat) (w : Bool) : t.dest pa tmo w = s.dest pa tmo w := by
  unfold State.dest State.isLocal areaOf State.memberLink State.groupLinks
  rw [hp, hg]

/-! ### Tags of inbound requests (R147) -/

section
variable {s t : State} {i tag : Nat}

/-- Whether a tag of a controller's inbound requests is in use. -/
def State.rootUsed (s : State) (i t : Nat) : Bool := (s.iommuSt (i / 3)).inflight.any fun a => a.tag == rootIo i t

theorem rootTag_counts (h : s.countsTo t) : t.rootTag i = s.rootTag i := by
  obtain ⟨p, e, j, n, rfl⟩ := h
  rfl

/-- A controller that has a tag left has fewer than 256 in use. -/
theorem rootUsed_lt (h : s.rootTag i = some tag) : ((List.range 256).filter (s.rootUsed i)).length < 256 := by
  have hfree : (!s.rootUsed i tag) = true := List.find?_some (p := fun t => !s.rootUsed i t) h
  refine (List.length_filter_lt_length_iff_exists.mpr ⟨tag, List.mem_of_find?_eq_some h, ?_⟩).trans_eq List.length_range
  simpa using hfree

/-- A controller that has no tag left has all 256 in use. -/
theorem rootUsed_all (h : s.rootTag i = none) : ((List.range 256).filter (s.rootUsed i)).length = 256 := by
  have hall : ∀ t ∈ List.range 256, ¬(!s.rootUsed i t) = true := List.find?_eq_none.mp h
  rw [List.filter_eq_self.mpr fun t ht => by simpa using hall t ht, List.length_range]

end

/-! ### A request that leaves a controller (R147, R523) -/

theorem nodeStop_pcieNode : ∀ i : Fin 6, nodeStop (pcieNode i.val) = pcieStop i.val := by decide

section
variable {s u : State} {i : Fin 6} {rid : BitVec 16} {pasid : Option (BitVec 20)} {tag pa : Nat} {nd : Node} {pk lim : Nat} {e : PmaEntry} {op : MsgOp}
  {m : LineMask} {edit : Flit → Flit}

/-- The request goes to the node that serves its address, and the IOMMU notes it until it ends (R293). -/
theorem rootSend_node (hd : s.dest pa (e.tmo.toNat * 1000) (op == .writeNc) = .node nd pk lim) : ∃ x y,
    s.rootSend i.val tag pa e op m edit = ((s.ioBegin (i.val / 3) (rootIo i.val tag) (op == .writeNc) pa (s.time + lim)).send
      (edit { ncFlit op (pcieNode i.val) nd (paLa pa) tag pk m with ewa := x, tmo := y }), none) := by
  obtain ⟨x, y, ha⟩ := attrs_eq s pa (ncFlit op (pcieNode i.val) nd (paLa pa) tag pk m)
  refine ⟨x, y, ?_⟩
  unfold State.rootSend
  rw [hd, ← ha]

theorem lastSent_pcie (s : State) {f : Flit} (hf : f.src = pcieNode i.val) : (s.send f).lastSent (pcieStop i.val) = some f := by
  rw [← nodeStop_pcieNode]
  exact lastSent_send_from s hf

theorem ioBegin_noted (s : State) (e tag : Nat) (w : Bool) (pa d : Nat) : ∃ a ∈ ((s.ioBegin e tag w pa d).iommuSt e).inflight, a.tag = tag ∧ a.write = w := by
  refine ⟨{ tag := tag, write := w, stale := false, pa := pa, deadline := d }, ?_, rfl, rfl⟩
  unfold State.ioBegin State.updIommu State.setIommu State.iommuSt
  rw [tabGet_tabSet_same]
  simp

theorem rootTaken_inflight (s : State) (i : Nat) : ((s.rootTaken i rid pasid).iommuSt (i / 3)).inflight = (s.iommuSt (i / 3)).inflight := by
  unfold State.rootTaken State.ioTaken State.updIommu State.setIommu State.iommuSt
  rw [tabGet_tabSet_same]

/-- What the TLP's arrival changes: counters, and what the IOMMU kept for the requester. -/
theorem taken_frame (u : State) (i n : Nat) : ∃ p e j k x, (u.tlpReceived i n).rootTaken i rid pasid =
    { u with iommu := x, perf := p, irq := { u.irq with events := e }, mesh := { u.mesh with inject := j, stamp := k } } := by
  obtain ⟨p, e, j, k, h⟩ := tlpReceived_counts u i n
  rw [h]
  exact ⟨_, _, _, _, _, rfl⟩

end

/-! ### Reads (R147, R289, R295) -/

section
variable {s u : State} {i : Fin 6} {rid : BitVec 16} {pasid : Option (BitVec 20)} {iova : Word} {n tag : Nat}

/-- A read within a line has that line alone. -/
theorem readLines_within {a n : Nat} (h0 : 0 < n) (h : a % 64 + n ≤ 64) : readLines a n 65 = [(a, n)] := by
  have hl : min n (64 - a % 64) = n := by omega
  simp [readLines, hl, h0.ne']

theorem readLines_pos {a n k : Nat} (h : n ≠ 0) : 0 < (readLines a n (k + 1)).length := by
  rw [readLines, if_neg h]
  exact Nat.succ_pos _

theorem rootWalk_waits {a l : Nat} (h : s.rootPa i.val rid pasid (BitVec.ofNat 64 a) false 0 = .wait u) : s.rootWalk i.val rid pasid [(a, l)] = some u := by
  unfold State.rootWalk
  rw [h]

theorem rootWalk_done {a l : Nat} (h : ∀ u, s.rootPa i.val rid pasid (BitVec.ofNat 64 a) false 0 ≠ .wait u) : s.rootWalk i.val rid pasid [(a, l)] = none := by
  unfold State.rootWalk
  split
  · next hw => exact absurd hw (h _)
  · rfl

/-- A read within a line waits for its walk, or is done. -/
theorem pcieMemoryRead_within (hup : s.pcieUp i.val = true) (ht : s.rootTag i.val = some tag) (h0 : 0 < n) (hn : iova.toNat % 64 + n ≤ 64) :
    exec (.pcieMemoryRead i rid pasid iova n) s = .next ((s.rootWalk i.val rid pasid [(iova.toNat, n)]).getD
      (((s.tlpReceived i.val 0).rootRead i.val rid pasid iova.toNat n).rootTaken i.val rid pasid)) := by
  have hmin : min n 4096 = n := by omega
  have hlines : readLines iova.toNat (min n 4096) 65 = [(iova.toNat, n)] := by rw [hmin, readLines_within h0 hn]
  have hfree := rootUsed_lt ht
  refine congrArg Host.Outcome.next ((if_neg ?_).trans ?_)
  · rw [hlines, hup]
    simp only [Bool.not_true, Bool.false_or, decide_eq_true_eq, not_lt]
    exact Nat.le_sub_of_add_le (by rw [Nat.add_comm]; exact hfree)
  · rw [hlines]
    cases s.rootWalk i.val rid pasid [(iova.toNat, n)] <;> rfl

theorem pcieMemoryRead_noTag (h0 : 0 < n) (ht : s.rootTag i.val = none) : exec (.pcieMemoryRead i rid pasid iova n) s = .next s := by
  have hlen : 0 < (readLines iova.toNat (min n 4096) 65).length := readLines_pos (by omega)
  refine congrArg Host.Outcome.next (if_pos ?_)
  have hall : ((List.range 256).filter fun t => (s.iommuSt (i.val / 3)).inflight.any fun a => a.tag == rootIo i.val t).length = 256 := rootUsed_all ht
  rw [hall, Bool.or_eq_true, decide_eq_true_eq]
  exact .inr hlen

theorem rootRead_refused {a : Nat} (ht : s.rootTag i.val = some tag) (hp : s.rootPa i.val rid pasid (BitVec.ofNat 64 a) false tag = .refused u) :
    s.rootRead i.val rid pasid a n = u.rootUr i.val := by
  unfold State.rootRead
  simp only [ht, hp]

/-- A read that passes goes out under the tag. -/
theorem rootRead_sent {a pa pk lim : Nat} {nd : Node} {e : PmaEntry} (ht : s.rootTag i.val = some tag)
    (hp : s.rootPa i.val rid pasid (BitVec.ofNat 64 a) false tag = .ok u pa e) (hd : u.dest pa (e.tmo.toNat * 1000) false = .node nd pk lim) : ∃ x y,
    s.rootRead i.val rid pasid a n = (u.ioBegin (i.val / 3) (rootIo i.val tag) false pa (u.time + lim)).send
      { ncFlit .readNc (pcieNode i.val) nd (paLa pa) tag pk (maskOf (pa % 64) n) with ewa := x, tmo := y, size := n } := by
  obtain ⟨x, y, hs⟩ := rootSend_node (s := u) (i := i) (tag := tag) (pa := pa) (e := e) (op := .readNc) (m := maskOf (pa % 64) n)
    (edit := fun f => { f with size := n }) hd
  refine ⟨x, y, ?_⟩
  unfold State.rootRead
  simp only [ht, hp, hs]
  rfl

end

/-! ### Posted writes and MSIs (R295, R384, R523) -/

section
variable {s u : State} {i : Fin 6} {rid : BitVec 16} {pasid : Option (BitVec 20)} {a tag : Nat} {m : LineMask} {d : Line} {p : Bool}

theorem rootWrite_waits (ht : s.rootTag i.val = some tag) (hp : s.rootPa i.val rid pasid (BitVec.ofNat 64 a) true tag = .wait u) :
    s.rootWrite i.val rid pasid a m d p = u := by
  unfold State.rootWrite
  simp only [ht, hp]

theorem rootWrite_refused (ht : s.rootTag i.val = some tag) (hp : s.rootPa i.val rid pasid (BitVec.ofNat 64 a) true tag = .refused u) :
    s.rootWrite i.val rid pasid a m d p = (u.tlpReceived i.val (popN 64 m.toNat)).rootTaken i.val rid pasid := by
  unfold State.rootWrite
  simp only [ht, hp]

/-- The state from which a posted write goes out: its TLP has arrived, and poisoned data is reported (R502). -/
def State.postTaken (u : State) (i : Nat) (rid : BitVec 16) (pasid : Option (BitVec 20)) (m : LineMask) (pa : Nat) (p : Bool) : State :=
  if p then ((u.tlpReceived i (popN 64 m.toNat)).rootTaken i rid pasid).poisonedTlp i pa else (u.tlpReceived i (popN 64 m.toNat)).rootTaken i rid pasid

theorem postTaken_keeps (u : State) (i : Nat) (rid : BitVec 16) (pasid : Option (BitVec 20)) (m : LineMask) (pa : Nat) (p : Bool) :
    let v := u.postTaken i rid pasid m pa p
    v.pma = u.pma ∧ v.graop = u.graop ∧ v.pcie = u.pcie ∧ v.mem = u.mem ∧ v.err.orders = if p = true then u.err.orders + 1 else u.err.orders := by
  dsimp only
  obtain ⟨pf, ev, j, k, x, h⟩ := taken_frame (rid := rid) (pasid := pasid) u i (popN 64 m.toNat)
  unfold State.postTaken
  rw [h]
  cases p with
  | false => exact ⟨rfl, rfl, rfl, rfl, rfl⟩
  | true => exact ⟨rfl, rfl, rfl, rfl, rfl⟩

/-- A write that passes goes out under the tag. -/
theorem rootWrite_sends {pa pk lim : Nat} {nd : Node} {e : PmaEntry} (ht : s.rootTag i.val = some tag)
    (hp : s.rootPa i.val rid pasid (BitVec.ofNat 64 a) true tag = .ok u pa e)
    (hd : (u.postTaken i.val rid pasid m pa p).dest pa (e.tmo.toNat * 1000) true = .node nd pk lim) : ∃ x y,
    let v := u.postTaken i.val rid pasid m pa p
    let w := (v.ioBegin (i.val / 3) (rootIo i.val tag) true pa (v.time + lim)).send { ncFlit .writeNc (pcieNode i.val) nd (paLa pa) tag pk m with
      ewa := x, tmo := y, addr := BitVec.ofNat 47 (paLa pa), data := some d, poison := p, size := popN 64 m.toNat }
    s.rootWrite i.val rid pasid a m d p = { w with pcie := { w.pcie with posted := w.pcie.posted ++ [(i.val, rid.toNat, tag)] } } := by
  obtain ⟨x, y, hs⟩ := rootSend_node (i := i) (tag := tag) (op := .writeNc) (m := m)
    (edit := fun f => { f with addr := BitVec.ofNat 47 (paLa pa), data := some d, poison := p, size := popN 64 m.toNat }) hd
  refine ⟨x, y, ?_⟩
  unfold State.rootWrite
  simp only [ht, hp]
  unfold State.postTaken at hs
  rw [hs]
  rfl

/-- A write that passes is the last flit of the controller and is noted as posted; poisoned data leaves a record (R384, R502). -/
theorem rootWrite_sent {pa pk lim : Nat} {nd : Node} {e : PmaEntry} (ht : s.rootTag i.val = some tag)
    (hp : s.rootPa i.val rid pasid (BitVec.ofNat 64 a) true tag = .ok u pa e) (hd : u.dest pa (e.tmo.toNat * 1000) true = .node nd pk lim) :
    let t := s.rootWrite i.val rid pasid a m d p
    ∃ f, t.lastSent (pcieStop i.val) = some f ∧ f.op = .writeNc ∧ f.dst = nd ∧
      f.addr = BitVec.ofNat 47 (paLa pa) ∧ f.tag = BitVec.ofNat 10 tag ∧ f.data = some d ∧ f.mask = m ∧ f.poison = p ∧
      t.pcie.posted = u.pcie.posted ++ [(i.val, rid.toNat, tag)] ∧ t.err.orders = (if p = true then u.err.orders + 1 else u.err.orders) ∧ t.mem = u.mem := by
  dsimp only
  obtain ⟨hpma, hgraop, hpcie, hmem, horders⟩ := postTaken_keeps u i.val rid pasid m pa p
  obtain ⟨x, y, h⟩ := rootWrite_sends (d := d) ht hp ((dest_congr hpma hgraop ..).trans hd)
  rw [h]
  exact ⟨_, lastSent_pcie _ rfl, rfl, rfl, rfl, rfl, rfl, rfl, rfl, congrArg (fun c : Pcie => c.posted ++ [(i.val, rid.toNat, tag)]) hpcie, horders, hmem⟩

/-- A word laid in a line and read back. -/
theorem word_shifted_back {v o k : Nat} (hv : v < 2 ^ 32) (hk : 32 + o ≤ k) : (BitVec.ofNat k (v <<< o)).toNat >>> o % 2 ^ 32 = v := by
  have hlt : v <<< o < 2 ^ k := by
    rw [Nat.shiftLeft_eq]
    calc v * 2 ^ o < 2 ^ 32 * 2 ^ o := Nat.mul_lt_mul_of_pos_right hv (Nat.two_pow_pos _)
      _ = 2 ^ (32 + o) := (Nat.pow_add ..).symm
      _ ≤ 2 ^ k := Nat.pow_le_pow_right (by decide) hk
  rw [BitVec.toNat_ofNat, Nat.mod_eq_of_lt hlt, Nat.shiftLeft_shiftRight, Nat.mod_eq_of_lt hv]

/-- The four bytes of an MSI, laid at its word of the line. -/
theorem lineBytes_atOffset_word {o : Nat} (v : BitVec 32) (ho : o + 4 ≤ 64) : lineBytes (atOffset o v.toNat) o 4 = v.toNat := by
  unfold lineBytes atOffset
  exact word_shifted_back v.isLt (by omega)

end

/-! ### AtomicOps (R140, R523) -/

section
variable {s u : State} {i : Fin 6} {rid : BitVec 16} {pasid : Option (BitVec 20)} {iova : Word} {fn : AmoFn} {n tag pa : Nat} {a b : Word} {e : PmaEntry}

/-- The state in which the TLP of an AtomicOp has been taken: a CAS carries two operands. -/
def State.atomicTaken (u : State) (i : Nat) (rid : BitVec 16) (pasid : Option (BitVec 20)) (fn : AmoFn) (n : Nat) : State :=
  (u.tlpReceived i (if fn = .cas then 2 * n else n)).rootTaken i rid pasid

section
variable (hup : s.pcieUp i.val = true)
include hup

theorem pcieAtomicOp_unsupported (ha : pcieAtomic fn n iova = false) :
    exec (.pcieAtomicOp i rid pasid iova fn n a b) s = .next ((s.tlpReceived i.val (if fn = .cas then 2 * n else n)).rootUr i.val) :=
  congrArg Host.Outcome.next ((if_neg (by rw [hup]; decide)).trans (if_pos (by rw [ha]; decide)))

variable (ha : pcieAtomic fn n iova = true) (ht : s.rootTag i.val = some tag)
include ha ht

theorem pcieAtomicOp_waits (hp : s.rootPa i.val rid pasid iova true tag = .wait u) : exec (.pcieAtomicOp i rid pasid iova fn n a b) s = .next u := by
  refine congrArg Host.Outcome.next ((if_neg (by rw [hup]; decide)).trans ((if_neg (by rw [ha]; decide)).trans ?_))
  simp only [ht, hp]

theorem pcieAtomicOp_refused (hp : s.rootPa i.val rid pasid iova true tag = .refused u) :
    exec (.pcieAtomicOp i rid pasid iova fn n a b) s = .next ((u.atomicTaken i.val rid pasid fn n).rootUr i.val) := by
  refine congrArg Host.Outcome.next ((if_neg (by rw [hup]; decide)).trans ((if_neg (by rw [ha]; decide)).trans ?_))
  simp only [ht, hp]
  rfl

theorem pcieAtomicOp_io (hp : s.rootPa i.val rid pasid iova true tag = .ok u pa e) (hio : e.io = true) :
    exec (.pcieAtomicOp i rid pasid iova fn n a b) s = .next ((u.atomicTaken i.val rid pasid fn n).rootUr i.val) := by
  refine congrArg Host.Outcome.next ((if_neg (by rw [hup]; decide)).trans ((if_neg (by rw [ha]; decide)).trans ?_))
  simp only [ht, hp, hio, if_true]
  rfl

/-- The operands of an AtomicOp in their places of the line (R140). -/
def atomicOperands (fn : AmoFn) (n pa : Nat) (a b : Word) : Line :=
  atOffset (pa % 64) (a.toNat % 2 ^ (8 * n)) ||| (if fn = .cas then atOffset (casOffset (pa % 64)) (b.toNat % 2 ^ (8 * n)) else 0)

theorem pcieAtomicOp_sends {w : State} (hp : s.rootPa i.val rid pasid iova true tag = .ok u pa e) (hio : e.io = false)
    (hs : (u.atomicTaken i.val rid pasid fn n).rootSend i.val tag pa e .atomicNc (maskOf (pa % 64) n)
      (fun f => { f with data := some (atomicOperands fn n pa a b), fn := fn, size := n }) = (w, none)) :
    exec (.pcieAtomicOp i rid pasid iova fn n a b) s = .next w := by
  refine congrArg Host.Outcome.next ((if_neg (by rw [hup]; decide)).trans ((if_neg (by rw [ha]; decide)).trans ?_))
  simp only [ht, hp, hio, Bool.false_eq_true, if_false]
  unfold State.atomicTaken atomicOperands at hs
  rw [hs]

/-- An AtomicOp on memory goes out under the tag. -/
theorem pcieAtomicOp_sent {nd : Node} {pk lim : Nat} (hp : s.rootPa i.val rid pasid iova true tag = .ok u pa e) (hio : e.io = false)
    (hd : u.dest pa (e.tmo.toNat * 1000) false = .node nd pk lim) :
    ∃ t f, exec (.pcieAtomicOp i rid pasid iova fn n a b) s = .next t ∧ t.lastSent (pcieStop i.val) = some f ∧ f.op = .atomicNc ∧ f.dst = nd ∧ f.fn = fn ∧
      f.size = n ∧ f.addr = BitVec.ofNat 47 (paLa pa) ∧ f.tag = BitVec.ofNat 10 tag ∧ t.mem = u.mem := by
  obtain ⟨pf, ev, j, k, io, hu⟩ := taken_frame (rid := rid) (pasid := pasid) u i.val (if fn = .cas then 2 * n else n)
  have hpma : (u.atomicTaken i.val rid pasid fn n).pma = u.pma := by rw [State.atomicTaken, hu]
  have hgraop : (u.atomicTaken i.val rid pasid fn n).graop = u.graop := by rw [State.atomicTaken, hu]
  obtain ⟨x, y, hs⟩ := rootSend_node (i := i) (tag := tag) (op := .atomicNc) (m := maskOf (pa % 64) n)
    (edit := fun f => { f with data := some (atomicOperands fn n pa a b), fn := fn, size := n }) ((dest_congr hpma hgraop ..).trans hd)
  exact ⟨_, _, pcieAtomicOp_sends hup ha ht hp hio hs, lastSent_pcie _ rfl, rfl, rfl, rfl, rfl, rfl, rfl, by simp [State.atomicTaken, State.send]⟩

end

end

/-! ### Completions of outbound requests (R145, R153, R525) -/

theorem reply_eq (s : State) (f : Flit) (op : MsgOp) (sts : Nat) : ∃ vc rid,
    reply s f op sts = { mkFlit op f.dst f.src f.addr.toNat with
      tag := f.tag, sts := BitVec.ofNat 8 sts, rpkg := f.rpkg, size := f.size, vc := vc, rid := rid } := by
  unfold reply answerClass
  split
  · split
    · exact ⟨_, _, rfl⟩
    · exact ⟨_, _, rfl⟩
  · exact ⟨_, _, rfl⟩

/-- A write that has reached its endpoint is tracked no longer. -/
theorem endEwa_reached (s : State) (n : Node) (f : Flit) : ∃ l, s.endEwa n f 0 = { s with mesh := { s.mesh with ewa := l } } ∧
    ∀ w, (s.mesh.ewa.find? fun e => e.is n f) = some w → l = s.mesh.ewa.erase w := by
  unfold State.endEwa
  cases hw : s.mesh.ewa.find? fun e => e.is n f with
  | none => exact ⟨_, rfl, fun w h => absurd h (by simp)⟩
  | some w => exact ⟨_, rfl, fun v h => by rw [Option.some.inj h]⟩

section
variable {s : State} {i : Fin 6} {tag : Nat} {cpl : PcieCpl} {r : PcieReq}

/-- The state in which a completion's TLP has arrived; the link partner's absence sends none. -/
def State.cplTaken (s : State) (i : Nat) (r : PcieReq) (cpl : PcieCpl) : State :=
  match cpl with
  | .data _ => s.tlpReceived i (if r.req.op == MsgOp.readNc then popN 64 r.req.mask.toNat else 0)
  | .ur => (s.tlpReceived i 0).count (pcieStop i) 1 5 1 none
  | .ca | .crs => s.tlpReceived i 0
  | .absent => s

theorem cplTaken_counts (s : State) (i : Nat) (r : PcieReq) (cpl : PcieCpl) : s.countsTo (s.cplTaken i r cpl) := by
  cases cpl with
  | data v => exact tlpReceived_counts ..
  | ur => exact countsTo_trans (tlpReceived_counts ..) (count_counts ..)
  | ca | crs => exact tlpReceived_counts ..
  | absent => exact countsTo_refl s

/-- The outbound request no longer holds its tag. -/
def State.reqEnds (s : State) (r : PcieReq) : State := { s with pcie := { s.pcie with reqs := s.pcie.reqs.erase r } }

theorem cplTaken_keeps (s : State) (i : Nat) (r : PcieReq) (cpl : PcieCpl) : let u := (s.reqEnds r).cplTaken i r cpl
    u.pcie = { s.pcie with reqs := s.pcie.reqs.erase r } ∧ u.mem = s.mem ∧ u.tcores = s.tcores ∧ u.scores = s.scores ∧ u.mesh.ewa = s.mesh.ewa := by
  obtain ⟨p, e, j, k, h⟩ := cplTaken_counts (s.reqEnds r) i r cpl
  dsimp only
  rw [h]
  exact ⟨rfl, rfl, rfl, rfl, rfl⟩

/-- What an outbound read gets of a completion (R525). -/
theorem cplRead_spec (s : State) (r : PcieReq) (cpl : PcieCpl) : let f := s.cplRead r cpl
    f.src = r.req.dst ∧ f.dst = r.req.src ∧ f.tag = r.req.tag ∧ (∀ v, cpl = .data v → f.op = .readReturn ∧ f.data = some v) ∧
    ((∀ v, cpl ≠ .data v) → r.cfg = true → f.op = .readReturn ∧ f.data = some (BitVec.allOnes 512)) ∧
    ((∀ v, cpl ≠ .data v) → r.cfg = false → f.op = .errorReply ∧ f.sts = 3) := by
  obtain ⟨vc, rid, hread⟩ := reply_eq s r.req .readReturn 0
  obtain ⟨vc', rid', herr⟩ := reply_eq s r.req .errorReply 3
  unfold State.cplRead
  dsimp only
  rw [hread, herr]
  split
  · next v => exact ⟨rfl, rfl, rfl, fun _ h => ⟨rfl, congrArg some (PcieCpl.data.inj h)⟩, fun h => absurd rfl (h v), fun h => absurd rfl (h v)⟩
  · next hd =>
    cases r.cfg with
    | true => exact ⟨rfl, rfl, rfl, fun v h => absurd h (hd v), fun _ _ => ⟨rfl, rfl⟩, fun _ h => absurd h (by decide)⟩
    | false => exact ⟨rfl, rfl, rfl, fun v h => absurd h (hd v), fun _ h => absurd h (by decide), fun _ _ => ⟨rfl, rfl⟩⟩

theorem pcieCompletion_unknown (h : ∀ r ∈ s.pcie.reqs, ¬(r.ctl = i.val ∧ r.tag = tag)) : exec (.pcieCompletion i tag cpl) s = .next s := by
  have hnone : (s.pcie.reqs.find? fun r => r.ctl == i.val && r.tag == tag) = none :=
    List.find?_eq_none.mpr fun r hr => by simpa using h r hr
  refine congrArg Host.Outcome.next ?_
  rw [hnone]

section
variable (hf : (s.pcie.reqs.find? fun r => r.ctl == i.val && r.tag == tag) = some r)
include hf

/-- A completion ends the outbound request of its tag and answers its master. -/
theorem pcieCompletion_known : exec (.pcieCompletion i tag cpl) s = .next
    (let u := (s.reqEnds r).cplTaken i.val r cpl
     if r.req.op = .writeNc then u.cplWrite r cpl else u.send (u.cplRead r cpl)) := by
  refine congrArg Host.Outcome.next ?_
  rw [hf]
  rfl

/-- A write at a link that is down is not acknowledged (R153). -/
theorem pcieCompletion_linkDown (hw : r.req.op = .writeNc) (hc : r.cfg = false) :
    exec (.pcieCompletion i tag .absent) s = .next (s.reqEnds r) := by
  rw [pcieCompletion_known hf]
  exact congrArg Host.Outcome.next ((if_pos hw).trans (if_pos (by rw [hc]; rfl)))

/-- An acknowledged write is tracked no longer where it was acknowledged early, and is acknowledged now otherwise (R145, R155). -/
theorem pcieCompletion_write (hw : r.req.op = .writeNc) (hc : cpl ≠ .absent ∨ r.cfg = true) : ∃ t, exec (.pcieCompletion i tag cpl) s = .next t ∧
    t.pcie = { s.pcie with reqs := s.pcie.reqs.erase r } ∧ t.mem = s.mem ∧ t.tcores = s.tcores ∧ t.scores = s.scores ∧
    (r.req.ewa = true → ∀ w, (s.mesh.ewa.find? fun e => e.is (pcieNode r.ctl) r.req) = some w → t.mesh.ewa = s.mesh.ewa.erase w) ∧
    (r.req.ewa = false → ∃ f, t.lastSent (nodeStop r.req.dst) = some f ∧ f.op = .writeDone ∧ f.sts = 0 ∧ f.dst = r.req.src ∧ f.tag = r.req.tag) := by
  have hup : ¬(cpl == .absent && !r.cfg) = true := by rcases hc with h | h <;> simp [h]
  obtain ⟨hpcie, hmem, htc, hsc, hewas⟩ := cplTaken_keeps s i.val r cpl
  refine ⟨_, (pcieCompletion_known hf).trans (congrArg Host.Outcome.next ((if_pos hw).trans (if_neg hup))), ?_⟩
  cases hewa : r.req.ewa with
  | true =>
    obtain ⟨l, hl, hfound⟩ := endEwa_reached ((s.reqEnds r).cplTaken i.val r cpl) (pcieNode r.ctl) r.req
    rw [if_pos rfl, hl]
    rw [hewas] at hfound
    exact ⟨hpcie, hmem, htc, hsc, fun _ => hfound, fun h => absurd h (by decide)⟩
  | false =>
    obtain ⟨vc, rid, hr⟩ := reply_eq ((s.reqEnds r).cplTaken i.val r cpl) r.req .writeDone 0
    rw [if_neg Bool.false_ne_true, hr]
    exact ⟨hpcie, hmem, htc, hsc, fun h => absurd h (by decide), fun _ => ⟨_, lastSent_send_from _ rfl, rfl, rfl, rfl, rfl⟩⟩

theorem pcieCompletion_read (hw : r.req.op ≠ .writeNc) : ∃ t f, exec (.pcieCompletion i tag cpl) s = .next t ∧
    t.pcie = { s.pcie with reqs := s.pcie.reqs.erase r } ∧
    t.lastSent (nodeStop r.req.dst) = some f ∧ f.dst = r.req.src ∧ f.tag = r.req.tag ∧ (∀ v, cpl = .data v → f.op = .readReturn ∧ f.data = some v) ∧
    ((∀ v, cpl ≠ .data v) → r.cfg = true → f.op = .readReturn ∧ f.data = some (BitVec.allOnes 512)) ∧
    ((∀ v, cpl ≠ .data v) → r.cfg = false → f.op = .errorReply ∧ f.sts = 3) ∧ t.mem = s.mem ∧ t.tcores = s.tcores ∧ t.scores = s.scores := by
  obtain ⟨hpcie, hm, htc, hsc, -⟩ := cplTaken_keeps s i.val r cpl
  obtain ⟨hsrc, hdst, htag, hdata, hcfg, hmem⟩ := cplRead_spec ((s.reqEnds r).cplTaken i.val r cpl) r cpl
  refine ⟨_, _, (pcieCompletion_known hf).trans (congrArg Host.Outcome.next (if_neg hw)), hpcie, lastSent_send_from _ hsrc, hdst, htag, hdata, hcfg, hmem, hm, htc, hsc⟩

end

end

/-- Settles O54, clause by clause: a request under its tag goes out in a state whose PMA table and links are those that its check has left. -/
theorem rootPortsAnswer : Obligations.RootPortsAnswer := by
  unfold Obligations.RootPortsAnswer
  refine ⟨fun s i hoff rid pasid iova => ?_, fun s i rid pasid iova n tag hup ht h0 hn => ?_, fun s i rid pasid iova n h0 ht => pcieMemoryRead_noTag h0 ht,
    fun s i rid pasid iova m d p tag hup ht => ?_, fun s i rid pasid iova fn n a b tag => ?_, fun s i rid iova data tag hup => ?_, fun s i tag cpl => ?_,
    fun s i lv => ?_⟩
  · have hoff' : (!s.pcieUp i.val) = true := by rw [hoff]; rfl
    exact ⟨fun n => congrArg Host.Outcome.next (if_pos (Bool.or_eq_true_iff.mpr (.inl hoff'))), fun m d p => congrArg Host.Outcome.next (if_pos hoff'),
      fun fn n a b => congrArg Host.Outcome.next (if_pos hoff'),
      fun d => congrArg Host.Outcome.next (if_pos (Bool.or_eq_true_iff.mpr (.inl (Bool.or_eq_true_iff.mpr (.inl hoff')))))⟩
  · have hiova : BitVec.ofNat 64 iova.toNat = iova := BitVec.ofNat_toNat ..
    have hr : (s.tlpReceived i.val 0).rootTag i.val = some tag := (rootTag_counts (tlpReceived_counts ..)).trans ht
    refine ⟨fun u hu => ?_, fun hgo => ?_⟩
    · rw [pcieMemoryRead_within hup ht h0 hn, rootWalk_waits (hiova.symm ▸ hu)]
      rfl
    · rw [pcieMemoryRead_within hup ht h0 hn, rootWalk_done (hiova.symm ▸ hgo)]
      refine ⟨fun u hu => ?_, fun u pa e nd pk lim hu hd => ?_⟩
      · rw [rootRead_refused hr (hiova.symm ▸ hu)]
        rfl
      · obtain ⟨x, y, hread⟩ := rootRead_sent (n := n) hr (hiova.symm ▸ hu) hd
        rw [hread]
        refine ⟨_, _, rfl, lastSent_pcie _ rfl, rfl, rfl, rfl, rfl, rfl, rfl, ?_, by simp [State.send], rfl⟩
        rw [Option.getD_none, rootTaken_inflight]
        exact ioBegin_noted ..
  · have hwrite : exec (.pcieMemoryWrite i rid pasid iova m d p) s = .next (s.rootWrite i.val rid pasid (iova.toNat / 64 * 64) m d p) :=
      congrArg Host.Outcome.next (if_neg (by rw [hup]; decide))
    rw [hwrite]
    exact ⟨fun u hu => congrArg Host.Outcome.next (rootWrite_waits ht hu), fun u hu => congrArg Host.Outcome.next (rootWrite_refused ht hu),
      fun u pa e nd pk lim hu hd => ⟨_, (rootWrite_sent ht hu hd).imp fun f hf => ⟨rfl, hf⟩⟩⟩
  · exact fun hup => ⟨pcieAtomicOp_unsupported hup, fun ha ht => ⟨fun u => pcieAtomicOp_waits hup ha ht, fun u => pcieAtomicOp_refused hup ha ht,
      fun u pa e => pcieAtomicOp_io hup ha ht, fun u pa e nd pk lim => pcieAtomicOp_sent hup ha ht⟩⟩
  · refine ⟨fun ⟨q, hq, hi, hr⟩ => congrArg Host.Outcome.next (if_pos ?_), fun hfree h4 ht => ?_⟩
    · have hany : (s.pcie.posted.any fun p => p.1 == i.val && p.2.1 == rid.toNat) = true :=
        List.any_eq_true.mpr ⟨q, hq, by simp [hi, hr]⟩
      rw [hany, Bool.or_true]
      rfl
    · have hiova : BitVec.ofNat 64 iova.toNat = iova := BitVec.ofNat_toNat ..
      have hany : (s.pcie.posted.any fun p => p.1 == i.val && p.2.1 == rid.toNat) = false :=
        List.any_eq_false.mpr fun p hp => by simpa using hfree p hp
      have hmsi : exec (.pcieMsiWrite i rid iova data) s =
          .next (s.rootWrite i.val rid none iova.toNat (maskOf (iova.toNat % 64) 4) (atOffset (iova.toNat % 64) data.toNat) false) :=
        congrArg Host.Outcome.next (if_neg (by rw [hup, hany, h4]; decide))
      rw [hmsi]
      refine ⟨fun u hu => congrArg Host.Outcome.next (rootWrite_waits ht (hiova.symm ▸ hu)), fun u pa e nd pk lim hu hd => ?_⟩
      obtain ⟨f, hlast, hop, hdst, haddr, -, hdata, -, -, hposted, -⟩ := rootWrite_sent ht (hiova.symm ▸ hu) hd
      exact ⟨_, f, rfl, hlast, hop, hdst, haddr, ⟨_, hdata, lineBytes_atOffset_word data (by omega)⟩, hposted⟩
  · exact ⟨pcieCompletion_unknown, fun r hf => ⟨fun hw ha hc => ha ▸ pcieCompletion_linkDown hf hw hc, pcieCompletion_write hf, pcieCompletion_read hf⟩⟩
  · exact ⟨_, rfl, rfl, wire_level .., fun n hn => wire_source_ne s lv hn, wire_eq ..⟩

end Sys2Proof.Machine
end

section
/-!
PROOFS. How the masters of uncached accesses take the answers, the errors and the expiry of their timers (R145, R147, R153, R169, R202, R293, R324, R332, R490, R502, R504, R523).
-/
namespace Sys2Proof.Machine

/-! ### A hart that does not wait to reset (R516) -/

section
variable {s t u : State} {h g : HartId} {c d : Hart}

/-- No reset of the hart waits for its accesses. -/
theorem endReset_none (hr : (s.hart h).rstBusy = false) : s.endReset h = s := by
  refine if_neg ?_
  simp [hr]

theorem hartBecomes_rstBusy (hb : hartBecomes s t h d) : (t.hart h).rstBusy = d.rstBusy := by
  obtain ⟨-, he, -⟩ := hb
  rw [he]

@[simp] theorem dirtyFs_rstBusy (c : Hart) : c.dirtyFs.rstBusy = c.rstBusy := by
  unfold Hart.dirtyFs
  dsimp only
  split <;> rfl

theorem enterTrap_rstBusy (b : Bool) (c : Hart) (i : Trap) : (c.enterTrap b i).rstBusy = c.rstBusy := by
  unfold Hart.enterTrap
  extract_lets v prv gva c₁ c₂
  have h₁ : c₁.rstBusy = c.rstBusy := by
    unfold c₁
    split <;> rfl
  have h₂ : c₂.rstBusy = c.rstBusy := by
    refine Eq.trans ?_ h₁
    unfold c₂
    split <;> rfl
  clear_value c₂
  rw [← h₂]
  split
  · simp +zetaDelta only [csrPut_rstBusy]
  · simp +zetaDelta only [csrPut_rstBusy]
  · simp +zetaDelta only [apply_ite Hart.rstBusy, csrPut_rstBusy, ite_self]

theorem trapped_rstBusy (b : Bool) (c : Hart) (i : Trap) : (c.trapped b i).rstBusy = c.rstBusy := enterTrap_rstBusy ..

theorem hart_accept (s : State) (f : Flit) (h : HartId) : (s.accept f).hart h = s.hart h := by
  cases h <;> rfl

theorem hart_passTo (s : State) (n : Nat) (h : HartId) : (s.passTo n).hart h = s.hart h := by
  obtain ⟨c, a, he⟩ := passTo_atTime s n
  rw [he]
  cases h <;> rfl

theorem hart_readFail (s : State) (h g : HartId) (pa sts : Nat) (b : Bool) : (s.readFail h pa sts b).hart g = s.hart g := hart_logErr ..
theorem hart_writeFail (s : State) (h g : HartId) (pa sts n : Nat) : (s.writeFail h pa sts n).hart g = s.hart g := hart_logErr ..

/-- A record does not see the harts. -/
theorem readFail_onlyHart (s : State) (h : HartId) (c : Hart) (pa sts : Nat) (b : Bool) :
    onlyHart (s.readFail h pa sts b) ((s.setHart h c).readFail h pa sts b) h := by
  obtain ⟨x, y, hxy⟩ : ∃ x y, s.setHart h c = { s with tcores := x, scores := y } := ⟨_, _, setHart_eq ..⟩
  refine ⟨?_, fun g hg => by rw [hart_readFail, hart_readFail, hart_setHart_ne _ _ _ _ hg], ?_⟩
  · rw [hxy]
    rfl
  · rw [hxy]
    exact fun _ _ => rfl

end

/-! ### The last part of an uncached read or atomic (R147, R153, R504) -/

/-- A load's or an atomic's result goes to one register. -/
def UDest.oneReg (d : UDest) : Prop := (∃ r n b, d = .x r n b) ∨ (∃ r n, d = .f r n) ∨ ∃ r n, d = .amo r n

/-- The exception of a failed part: a load access fault, or of an atomic a store access fault (R504). -/
def UDest.cause (d : UDest) : Nat := match d with | .amo .. => 7 | _ => 5

/-- The hart's access with this tag is the read or atomic whose last part is `u`. -/
def Hart.solePart (c : Hart) (u : ULoad) (tag : Nat) : Prop := (c.track.any fun w => w.tag == tag) = false ∧ c.uload = [u] ∧ u.tag = tag ∧ u.dest.oneReg

section
variable {s t : State} {h : HartId} {c : Hart} {u : ULoad} {d : UDest} {tag sts : Nat}

theorem oneReg_ne_maint (hd : d.oneReg) : d ≠ .maint := by
  rintro rfl
  rcases hd with ⟨r, n, b, h⟩ | ⟨r, n, h⟩ | ⟨r, n, h⟩ <;> cases h

theorem deliver_rstBusy (hd : d.oneReg) (c : Hart) : (c.deliver d).rstBusy = c.rstBusy := by
  rcases hd with ⟨r, n, b, rfl⟩ | ⟨r, n, rfl⟩ | ⟨r, n, rfl⟩
  · exact setX_rstBusy ..
  · exact (dirtyFs_rstBusy _).trans (setF_rstBusy ..)
  · exact setX_rstBusy ..

theorem endUload_oneReg (hd : d.oneReg) (len : Nat) : s.endUload h d len = (s.updHart h fun c => c.deliver d).retire h len 1 := by
  rcases hd with ⟨r, n, b, rfl⟩ | ⟨r, n, rfl⟩ | ⟨r, n, rfl⟩ <;> rfl

theorem cause_ne_debug (d : UDest) (va : Word) : (excep d.cause va).cause ≠ debugCause := by
  cases d <;> exact Nat.ne_of_beq_eq_false rfl

theorem sendHeld_none (hu : (s.hart h).uload = []) : s.sendHeld h = s := by
  unfold State.sendHeld
  dsimp only
  rw [hu]
  rfl

/-- With its last part the hart has no part outstanding, and sends none. -/
theorem part_dropped (hu : (s.hart h).uload = [u]) : (s.updHart h fun c => { c with uload := c.uload.erase u }).sendHeld h = s.updHart h fun c => { c with uload := [] } := by
  have he : (s.updHart h fun c => { c with uload := c.uload.erase u }) = s.updHart h fun c => { c with uload := [] } :=
    congrArg (fun l => s.setHart h { s.hart h with uload := l }) (by rw [hu, List.erase_cons_head])
  rw [he]
  exact sendHeld_none (by rw [hart_updHart_same])

/-- The state in which the last part's bytes have joined those received, and no part is outstanding. -/
def State.partTaken (s : State) (h : HartId) (u : ULoad) (data : Line) : State :=
  (s.updHart h fun c => { c with uacc := mergeLine c.uacc (atOffset u.off (lineBytes data (u.pa % 64) u.size)) (maskOf u.off u.size) }).updHart h
    fun c => { c with uload := [] }

theorem endPart_takes (hu : (s.hart h).uload = [u]) (unk : Bool) (data : Line) :
    s.endPart h u 0 unk false data = (s.partTaken h u data).endUload h u.dest u.len := by
  have hdrop : ((s.updHart h fun c => { c with uacc := mergeLine c.uacc (atOffset u.off (lineBytes data (u.pa % 64) u.size)) (maskOf u.off u.size) }).updHart h
      fun c => { c with uload := c.uload.erase u }).sendHeld h = s.partTaken h u data := part_dropped (by rw [hart_updHart_same]; exact hu)
  unfold State.endPart
  refine (if_neg (by simp)).trans ((if_pos rfl).trans ?_)
  have hnone : ((s.partTaken h u data).hart h).uload = [] := by rw [State.partTaken, hart_updHart_same]
  exact (if_pos ((congrArg (fun w : State => (w.hart h).uload) hdrop).trans hnone)).trans (congrArg (fun w => w.endUload h u.dest u.len) hdrop)

/-- The data of the last part: the result is delivered and the instruction retires (R147). -/
theorem endPart_last (hc : s.hart h = c) (hu : c.uload = [u]) (hd : u.dest.oneReg) (unk : Bool) (data : Line) : hartBecomes s (s.endPart h u 0 unk false data) h
    (({ c with uload := [], uacc := mergeLine c.uacc (atOffset u.off (lineBytes data (u.pa % 64) u.size)) (maskOf u.off u.size) }.deliver u.dest).past u.len) := by
  subst hc
  rw [endPart_takes hu, endUload_oneReg hd]
  have htaken : onlyHart s (s.partTaken h u data) h := onlyHart_trans (onlyHart_setHart ..) (onlyHart_setHart ..)
  refine update_then_retire htaken _ _ _ _ ?_
  rw [State.partTaken, hart_updHart_same, hart_updHart_same]
  exact sameHart_refl _

/-- A hart whose last part is gone traps. -/
theorem cleared_trap_becomes (hc : s.hart h = c) {i : Trap} (hi : i.cause ≠ debugCause) :
    hartBecomes s ((s.updHart h fun c => { c with uload := [] }).trap h i) h ({ c with uload := [] }.trapped (isT h) i) := by
  subst hc
  obtain ⟨ho, hd⟩ := trap_spec (s.updHart h fun c => { c with uload := [] }) h i hi
  rw [hart_updHart_same] at hd
  exact ⟨onlyHart_trans (onlyHart_setHart ..) ho, hd⟩

theorem endPart_fails (hu : (s.hart h).uload = [u]) (hd : u.dest.oneReg) (h0 : sts ≠ 0) (h4 : sts ≠ 4) (unk : Bool) (data : Line) :
    s.endPart h u sts unk false data =
      ((s.readFail h u.pa sts (unk && u.dest.cause == 7)).updHart h fun c => { c with uload := [] }).trap h (excep u.dest.cause u.va) := by
  have hdrop : ((s.readFail h u.pa sts (unk && u.dest.cause == 7)).updHart h fun c => { c with uload := c.uload.erase u }).sendHeld h =
      (s.readFail h u.pa sts (unk && u.dest.cause == 7)).updHart h fun c => { c with uload := [] } := part_dropped (by rw [hart_readFail]; exact hu)
  have hnone := (congrArg (fun w : State => (w.hart h).uload) hdrop).trans (congrArg Hart.uload (hart_updHart_same ..))
  unfold State.endPart
  refine (if_neg (by simp [h4])).trans ((if_neg h0).trans ?_)
  obtain ⟨tag, pa, size, off, va, d⟩ := u
  rcases hd with ⟨r, n, b, hd⟩ | ⟨r, n, hd⟩ | ⟨r, n, hd⟩ <;> cases hd <;>
    exact (if_pos hnone).trans (congrArg (fun w : State => w.trap h _) hdrop)

/-- The error of the last part: a record, and the instruction traps (R153, R504). -/
theorem endPart_failed (hc : s.hart h = c) (hu : c.uload = [u]) (hd : u.dest.oneReg) (h0 : sts ≠ 0) (h4 : sts ≠ 4) (unk : Bool) (data : Line) :
    hartBecomes (s.readFail h u.pa sts (unk && u.dest.cause == 7)) (s.endPart h u sts unk false data) h
      ({ c with uload := [] }.trapped (isT h) (excep u.dest.cause u.va)) := by
  subst hc
  rw [endPart_fails hu hd h0 h4]
  exact cleared_trap_becomes (hart_readFail ..) (cause_ne_debug _ _)

end

/-! ### Answers at a hart (R145, R147, R153) -/

section
variable {s : State} {f : Flit} {h : HartId} {w : UWrite} {u : ULoad}

theorem find_none_of_any {α : Type} {p : α → Bool} {l : List α} (h : l.any p = false) : l.find? p = none := by
  simpa using h

theorem awaits_none {c : Hart} {tag : Nat} (ha : c.awaits tag = false) : c.track.any (fun w => w.tag == tag) = false ∧ c.wreqs.any (fun r => r.tag == tag) = false ∧
    c.uload.any (fun u => u.tag == tag && u.dest != .maint) = false := by
  unfold Hart.awaits at ha
  simpa only [Bool.or_eq_false_iff, and_assoc] using ha

theorem solePart_find {c : Hart} {tag : Nat} (hs : c.solePart u tag) {p : ULoad → Bool} (hp : p u = true) : c.uload.find? p = some u := by
  obtain ⟨-, hu, -, -⟩ := hs
  rw [hu, List.find?_cons_of_pos hp]

section
variable {c : Hart} (hc : s.hart h = c) (hl : (c.late.find? fun x => x.tag == f.tag.toNat && paLa x.pa == f.addr.toNat) = none)
include hc hl

/-- The answer to a tracked write ends it; its error is an imprecise bus error. -/
theorem hartAnswer_write (hw : (c.track.find? fun w => w.tag == f.tag.toNat) = some w) :
    s.hartAnswer h f = if f.sts = 0 then s.setHart h { c with track := c.track.erase w }
      else (s.setHart h { c with track := c.track.erase w }).writeFail h w.pa f.sts.toNat 1 := by
  unfold State.hartAnswer
  simp only [hc, hl, hw]

/-- The answer to a read or atomic ends its part. -/
theorem hartAnswer_part (hs : c.solePart u f.tag.toNat) : s.hartAnswer h f = s.endPart h u f.sts.toNat false f.poison (f.data.getD 0) := by
  obtain ⟨htrack, hu, htag, hd⟩ := hs
  have hfind := solePart_find ⟨htrack, hu, htag, hd⟩ (p := fun u => u.tag == f.tag.toNat && u.dest != .maint) (by simp [htag, oneReg_ne_maint hd])
  unfold State.hartAnswer
  simp only [hc, hl, find_none_of_any htrack, hfind]

/-- An answer that no access awaits is discarded and counted. -/
theorem hartAnswer_unawaited (ha : c.awaits f.tag.toNat = false) : s.hartAnswer h f = s.lateResponse f.dst f.addr.toNat := by
  obtain ⟨htrack, hwreqs, huload⟩ := awaits_none ha
  unfold State.hartAnswer
  simp only [hc, hl, find_none_of_any htrack, find_none_of_any huload, find_none_of_any hwreqs]

end

/-- An answer at a hart's node, but for an error that the node's agent awaits, is the hart's. -/
theorem answer_hart (hh : hartOfNode f.dst = some h)
    (ha : f.op = .errorReply → ∀ a, agentOfNode f.dst = some a → ((s.mshrOf a (lineOf f.addr.toNat)).any fun m => m.tag == f.tag.toNat) = false) :
    s.answer f = ((s.accept f).hartAnswer h f).endReset h := by
  unfold State.answer
  dsimp only
  rw [hh]
  by_cases hop : f.op = .errorReply
  · rw [if_pos hop]
    cases hag : agentOfNode f.dst with
    | none => rfl
    | some a =>
      have hno := ha hop a hag
      exact if_neg (Bool.eq_false_iff.mp hno)
  · rw [if_neg hop]

/-- An error that the agent of the node awaits is the agent's. -/
theorem answer_agent {a : Nat} (hop : f.op = .errorReply) (ha : agentOfNode f.dst = some a)
    (hm : ((s.mshrOf a (lineOf f.addr.toNat)).any fun m => m.tag == f.tag.toNat) = true) : s.answer f = (s.accept f).agentError a f := by
  unfold State.answer
  dsimp only
  rw [if_pos hop, ha]
  cases hartOfNode f.dst with
  | none => rfl
  | some h => exact if_pos hm

end

/-! ### Answers at the other stops (R167, R169, R324, R490, R523) -/

section
variable {s : State} {f : Flit}

theorem answer_noAgent (ha : f.op = .errorReply → agentOfNode f.dst = none) : (if f.op = .errorReply then agentOfNode f.dst else none) = none := by
  split
  · next hop => exact ha hop
  · rfl

section
variable (hh : hartOfNode f.dst = none) (ha : f.op = .errorReply → agentOfNode f.dst = none)
include hh ha

/-- An answer at a node without a hart, but for an error at a caching agent, goes by the type of its stop: at sub-index 1 of a core stop to the home slice. -/
theorem answer_slice (hk : stopType (nodeStop f.dst) = 0x02) (hs : f.dst.sub.val = 1) : s.answer f = (s.accept f).sliceAnswer f := by
  unfold State.answer
  dsimp only
  rw [hh, answer_noAgent ha, hk]
  exact if_pos hs

theorem answer_link (hk : stopType (nodeStop f.dst) = 0x11) : s.answer f = (s.accept f).homeAnswer (stopUnit (nodeStop f.dst)) f := by
  unfold State.answer
  dsimp only
  rw [hh, answer_noAgent ha, hk]
  rfl

theorem answer_root (hk : stopType (nodeStop f.dst) = 0x12) : s.answer f = (s.accept f).rootAnswer (stopUnit (nodeStop f.dst)) f := by
  unfold State.answer
  dsimp only
  rw [hh, answer_noAgent ha, hk]
  rfl

theorem answer_sba (hk : stopType (nodeStop f.dst) = 0x08) : s.answer f = (s.accept f).sbaAnswer f := by
  unfold State.answer
  dsimp only
  rw [hh, answer_noAgent ha, hk]
  rfl

end

/-- A packet with a route leaves by the member of its group (R320). -/
theorem forward_routed {p : Pkt} {l : Nat} (hv : (s.route p.dpkg.val).v = true) (hl : s.memberLink (s.route p.dpkg.val).group p.addr.toNat = some l) :
    s.forward p = some (s.enqueue l { p with vc := if (s.link l).dateline = true then setB p.vc else p.vc }) := by
  unfold State.forward
  simp only [hv, hl, Bool.not_true, Bool.false_eq_true, if_false]

theorem enqueue_queue (s : State) (l : Nat) (p : Pkt) : ((s.enqueue l p).link l).queue = (s.link l).queue ++ [p] := by
  rw [State.enqueue, link_updLink, if_pos rfl]

/-- The entry of the home table is free. -/
def State.homeFreed (s : State) (e : HomeEntry) : State := { s with graop := { s.graop with homes := s.graop.homes.erase e } }

/-- The response packet to a request of the home table that has ended without error (R324). -/
def State.homePkt (s : State) (e : HomeEntry) (f : Flit) : Pkt :=
  { op := if e.op == .rdNc || e.op == .blkRd then .rdData else if e.op = .atomNc then .atomData else .wrAck, dpkg := Fin.ofNat 512 e.spkg,
    spkg := Fin.ofNat 512 s.ownPkg, vc := 2, poison := f.poison, glink := Fin.ofNat 8 e.glink, gtag := Fin.ofNat 4096 e.gtag, sts := f.sts, size := f.size, hop := 0,
    addr := f.addr, data := f.data.getD 0, mask := f.mask, fn := .swap }

theorem homeAnswer_eq {e : HomeEntry} {k : Nat} (he : (s.graop.homes.find? fun e => e.link == k && e.tag == f.tag.toNat) = some e) (h0 : f.sts = 0) :
    s.homeAnswer k f = ((s.homeFreed e).forward (s.homePkt e f)).getD (s.homeFreed e) := by
  unfold State.homeAnswer State.homePkt
  rw [he]
  simp only [h0]
  rfl

/-- The answer frees its entry of the home table, and the response leaves by the route. -/
theorem homeAnswer_forwards {e : HomeEntry} {k l : Nat} (he : (s.graop.homes.find? fun e => e.link == k && e.tag == f.tag.toNat) = some e) (h0 : f.sts = 0)
    (hp : e.spkg < 512) (hv : (s.route e.spkg).v = true) (hl : s.memberLink (s.route e.spkg).group f.addr.toNat = some l) : ∃ vc,
    s.homeAnswer k f = (s.homeFreed e).enqueue l { s.homePkt e f with vc := vc } := by
  have hpkg : (s.homePkt e f).dpkg.val = e.spkg := Nat.mod_eq_of_lt hp
  have hv' : ((s.homeFreed e).route (s.homePkt e f).dpkg.val).v = true := by rw [hpkg]; exact hv
  have hl' : (s.homeFreed e).memberLink ((s.homeFreed e).route (s.homePkt e f).dpkg.val).group (s.homePkt e f).addr.toNat = some l := by rw [hpkg]; exact hl
  exact ⟨_, (homeAnswer_eq he h0).trans (by rw [forward_routed hv' hl']; rfl)⟩

/-- Data from memory with the bytes that the transaction holds already in place. -/
def Txn.overMem (x : Txn) (d : Line) : Line := match x.data with | some y => mergeLine d y x.mask | none => d

/-- Memory data moves the transaction that awaits it on (R163, R169). -/
theorem sliceAnswer_data {x : Txn} (hop : f.op = .readReturn) (hx : s.txn (lineOf f.addr.toNat) = some x) (hm : x.mem ≠ 0) (hd : x.done = false) :
    s.sliceAnswer f = (s.setTxn (lineOf f.addr.toNat) (some { x with
      mem := 0, data := some (x.overMem (f.data.getD 0)), mask := BitVec.allOnes 64, poison := x.poison || (f.poison || f.sts == 4) })).advance (lineOf f.addr.toNat) := by
  unfold State.sliceAnswer State.memData
  simp only [hop, hx, hd, hm, decide_false, Bool.or_self, Bool.false_eq_true, if_false]
  rfl

/-- An acknowledged C = 0 write is answered, and its transaction closes (R145, R169). -/
theorem sliceAnswer_written {x : Txn} (hop : f.op = .writeDone) (hx : s.txn (lineOf f.addr.toNat) = some x) (hm : x.mem ≠ 0) (hd : x.done = true)
    (hw : x.req.op = .writeNc) (hc : x.c1 = false) (he : x.req.ewa = false) (ht : f.tag ≠ 1) (h0 : f.sts = 0) :
    s.sliceAnswer f = ((s.send (reply s x.req .writeDone 0)).closeTxn (lineOf f.addr.toNat)).retrySlice (homeSlice (64 * lineOf f.addr.toNat)) := by
  unfold State.sliceAnswer State.memEnded
  simp only [hop, hx, hd, hw, hc, he, ht, h0, hm, decide_true, decide_false, Bool.true_or, Bool.not_true, Bool.or_self, Bool.false_eq_true, if_true, if_false]

section
variable {i : Nat} {a : InAcc} (ha : ((s.iommuSt (i / 3)).inflight.find? fun a => a.tag == rootIo i f.tag.toNat) = some a)
include ha

/-- Data frees the tag of a controller's request and goes to the device in a completion (R147). -/
theorem rootAnswer_read (hop : f.op = .readReturn) : s.rootAnswer i f = (s.rootEnd i f.tag.toNat).tlpSent i (popN 64 f.mask.toNat) := by
  unfold State.rootAnswer
  simp only [ha, hop]

theorem rootAnswer_write (hop : f.op = .writeDone) : s.rootAnswer i f = s.rootEnd i f.tag.toNat := by
  unfold State.rootAnswer
  simp only [ha, hop]

theorem rootAnswer_error (hop : f.op = .errorReply) : s.rootAnswer i f = (s.rootEnd i f.tag.toNat).rootFail i f.tag.toNat a f.sts.toNat := by
  unfold State.rootAnswer
  simp only [ha, hop]

end

section
variable (hb : s.sec.sbBusy.isSome = true)
include hb

/-- An answer ends system bus access with its data, or with its error code (R490). -/
theorem sbaAnswer_eq : s.sbaAnswer f = { s with
    sec := if f.sts = 0 then { s.sec with
        sbBusy := none, sberror := 0, sbdata := if f.op = .readReturn then BitVec.ofNat 64 (lineBytes (f.data.getD 0) (f.addr.toNat % 64) f.size) else s.sec.sbdata }
      else { s.sec with sbBusy := none, sberror := if f.sts = 2 then 2 else 7 } } := by
  refine if_neg ?_
  rw [Option.isNone_iff_eq_none]
  exact Option.isSome_iff_ne_none.mp hb

theorem sbaAnswer_read (h0 : f.sts = 0) (hop : f.op = .readReturn) : s.sbaAnswer f = { s with
    sec := { s.sec with sbBusy := none, sberror := 0, sbdata := BitVec.ofNat 64 (lineBytes (f.data.getD 0) (f.addr.toNat % 64) f.size) } } := by
  rw [sbaAnswer_eq hb, if_pos h0, if_pos hop]

theorem sbaAnswer_write (h0 : f.sts = 0) (hop : f.op = .writeDone) : s.sbaAnswer f = { s with sec := { s.sec with sbBusy := none, sberror := 0 } } := by
  rw [sbaAnswer_eq hb, if_pos h0, if_neg (by rw [hop]; decide)]

theorem sbaAnswer_error (h0 : f.sts ≠ 0) : s.sbaAnswer f = { s with sec := { s.sec with sbBusy := none, sberror := if f.sts = 2 then 2 else 7 } } := by
  rw [sbaAnswer_eq hb, if_neg h0]

end

end

/-! ### Errors at a caching agent (R202) -/

section
variable {s : State} {f : Flit} {a : Nat} {m : Mshr}

theorem agentError_prefetch (hm : s.mshrOf a (lineOf f.addr.toNat) = some m) (hop : m.op = .prefetchRead ∨ m.op = .prefetchOwn) :
    s.agentError a f = (s.endMshr a (lineOf f.addr.toNat)).goesOn a := by
  have hmshr : s.mshr a (lineOf f.addr.toNat) = some m.op := congrArg (Option.map Mshr.op) hm
  unfold State.agentError
  dsimp only
  rw [hmshr]
  rcases hop with h | h <;> rw [h]

theorem mshr_putMshr_same (s : State) (a ln : Nat) (m : Mshr) : (s.putMshr a ln (some m)).mshr a ln = some m.op := by
  have hput : (s.putMshr a ln (some m)).mshrOf a ln = some m := tabGet_tabSet_same none s.coh.mshr (l2Key a ln) (some m)
  rw [State.mshr, hput]
  rfl

/-- The error is kept for the next ask. -/
theorem agentError_access (hm : s.mshrOf a (lineOf f.addr.toNat) = some m) (h1 : m.op ≠ .prefetchRead) (h2 : m.op ≠ .prefetchOwn) :
    s.agentError a f = s.putMshr a (lineOf f.addr.toNat) (some { m with op := .errorReply }) := by
  have hmshr : s.mshr a (lineOf f.addr.toNat) = some m.op := congrArg (Option.map Mshr.op) hm
  unfold State.agentError
  dsimp only
  rw [hmshr]
  split
  · next h => exact absurd (Option.some.inj h) h1
  · next h => exact absurd (Option.some.inj h) h2
  · rw [State.mapMshr, hm]
    rfl
  · next h => exact absurd h (by simp)

end

/-! ### The commands (R145, R147, R202) -/

section
variable {s : State} {f : Flit} {h : HartId} {w : UWrite} {u : ULoad}

/-- The flit as the answer of an opcode. -/
def flitAs (f : Flit) (op : MsgOp) : Flit := { f with op := op }

section
variable {t : State}

theorem writeDone_turn (ht : s.flitTurn (flitAs f .writeDone) = true) (ha : s.answer (flitAs f .writeDone) = t) : exec (.writeDone f) s = .next t :=
  congrArg Host.Outcome.next ((if_pos ht).trans ha)

theorem readReturn_turn (ht : s.flitTurn (flitAs f .readReturn) = true) (ha : s.answer (flitAs f .readReturn) = t) : exec (.readReturn f) s = .next t :=
  congrArg Host.Outcome.next ((if_pos ht).trans ha)

theorem errorReply_turn (h2 : 2 ≤ f.sts.toNat) (h5 : f.sts.toNat ≤ 5) (ht : s.flitTurn (flitAs f .errorReply) = true) (ha : s.answer (flitAs f .errorReply) = t) :
    exec (.errorReply f) s = .next t :=
  congrArg Host.Outcome.next ((if_neg (not_or.mpr ⟨Nat.not_lt.mpr h2, Nat.not_lt.mpr h5⟩)).trans ((if_pos ht).trans ha))

end

/-- What is asked of errors alone holds of every other answer. -/
theorem writeDone_no_error {p : Prop} (f : Flit) (h : (flitAs f .writeDone).op = .errorReply) : p := absurd h (show MsgOp.writeDone ≠ .errorReply by decide)
theorem readReturn_no_error {p : Prop} (f : Flit) (h : (flitAs f .readReturn).op = .errorReply) : p := absurd h (show MsgOp.readReturn ≠ .errorReply by decide)

theorem sts_ne_zero (h2 : 2 ≤ f.sts.toNat) : f.sts ≠ 0 := by
  intro h
  rw [h] at h2
  exact absurd h2 (by decide)

/-- An answer leaves a hart that waits to reset no reset to begin. -/
theorem answer_hart_stays {t : State} (hh : hartOfNode f.dst = some h)
    (ha : f.op = .errorReply → ∀ a, agentOfNode f.dst = some a → ((s.mshrOf a (lineOf f.addr.toNat)).any fun m => m.tag == f.tag.toNat) = false)
    (ht : (s.accept f).hartAnswer h f = t) (hb : (t.hart h).rstBusy = false) : s.answer f = t := by
  rw [answer_hart hh ha, ht, endReset_none hb]

section
variable (hh : hartOfNode f.dst = some h) (hb : (s.hart h).rstBusy = false)
  (hl : ((s.hart h).late.find? fun x => x.tag == f.tag.toNat && paLa x.pa == f.addr.toNat) = none)
include hh hb hl

/-- An acknowledged write leaves the tracker. -/
theorem writeDone_tracked (ht : s.flitTurn (flitAs f .writeDone) = true) (hw : ((s.hart h).track.find? fun w => w.tag == f.tag.toNat) = some w)
    (h0 : f.sts = 0) : exec (.writeDone f) s = .next ((s.accept (flitAs f .writeDone)).setHart h { s.hart h with track := (s.hart h).track.erase w }) :=
  writeDone_turn ht (answer_hart_stays hh (writeDone_no_error f)
    ((hartAnswer_write (hart_accept ..) hl hw).trans (if_pos h0)) (by rw [hart_setHart_same]; exact hb))

theorem writeDone_unawaited (ht : s.flitTurn (flitAs f .writeDone) = true) (ha : (s.hart h).awaits f.tag.toNat = false) :
    exec (.writeDone f) s = .next ((s.accept (flitAs f .writeDone)).lateResponse f.dst f.addr.toNat) :=
  writeDone_turn ht (answer_hart_stays hh (writeDone_no_error f)
    (hartAnswer_unawaited (hart_accept ..) hl ha) (by rw [State.lateResponse, hart_logErr, hart_accept]; exact hb))

/-- The data of the last outstanding read is delivered, and the instruction retires. -/
theorem readReturn_last (ht : s.flitTurn (flitAs f .readReturn) = true) (hs : (s.hart h).solePart u f.tag.toNat) (h0 : f.sts = 0) (hp : f.poison = false) :
    ∃ t, exec (.readReturn f) s = .next t ∧ hartBecomes (s.accept (flitAs f .readReturn)) t h
      (({ s.hart h with uload := [], uacc := mergeLine (s.hart h).uacc (atOffset u.off (lineBytes (f.data.getD 0) (u.pa % 64) u.size)) (maskOf u.off u.size) }.deliver
        u.dest).past u.len) := by
  obtain ⟨-, hu, -, hd⟩ := id hs
  have hbec := endPart_last (hart_accept s (flitAs f .readReturn) h) hu hd false (f.data.getD 0)
  have hans : (s.accept (flitAs f .readReturn)).hartAnswer h (flitAs f .readReturn) = (s.accept (flitAs f .readReturn)).endPart h u 0 false false (f.data.getD 0) := by
    refine (hartAnswer_part (f := flitAs f .readReturn) (hart_accept ..) hl hs).trans ?_
    rw [show (flitAs f .readReturn).sts = 0 from h0, show (flitAs f .readReturn).poison = false from hp]
    rfl
  exact ⟨_, readReturn_turn ht (answer_hart_stays hh (readReturn_no_error f) hans ((hartBecomes_rstBusy hbec).trans ((deliver_rstBusy hd _).trans hb))), hbec⟩

section
variable (ha : ∀ a, agentOfNode f.dst = some a → ((s.mshrOf a (lineOf f.addr.toNat)).any fun m => m.tag == f.tag.toNat) = false)
  (ht : s.flitTurn (flitAs f .errorReply) = true) (h2 : 2 ≤ f.sts.toNat) (h5 : f.sts.toNat ≤ 5)
include ha ht h2 h5

/-- A failed write is an imprecise bus error. -/
theorem errorReply_tracked (hw : ((s.hart h).track.find? fun w => w.tag == f.tag.toNat) = some w) : exec (.errorReply f) s =
    .next (((s.accept (flitAs f .errorReply)).setHart h { s.hart h with track := (s.hart h).track.erase w }).writeFail h w.pa f.sts.toNat 1) :=
  errorReply_turn h2 h5 ht (answer_hart_stays hh (fun _ => ha)
    ((hartAnswer_write (hart_accept ..) hl hw).trans (if_neg (sts_ne_zero h2))) (by rw [hart_writeFail, hart_setHart_same]; exact hb))

/-- The error of the last outstanding read or atomic traps. -/
theorem errorReply_last (hs : (s.hart h).solePart u f.tag.toNat) (h4 : f.sts ≠ 4) (hp : f.poison = false) : ∃ t, exec (.errorReply f) s = .next t ∧
    hartBecomes ((s.accept (flitAs f .errorReply)).readFail h u.pa f.sts.toNat false) t h
      ({ s.hart h with uload := [] }.trapped (isT h) (excep u.dest.cause u.va)) := by
  obtain ⟨-, hu, -, hd⟩ := id hs
  have h4' : f.sts.toNat ≠ 4 := fun h => h4 (BitVec.eq_of_toNat_eq h)
  have hbec := endPart_failed (hart_accept s (flitAs f .errorReply) h) hu hd (sts := f.sts.toNat) (by omega) h4' false (f.data.getD 0)
  have hans : (s.accept (flitAs f .errorReply)).hartAnswer h (flitAs f .errorReply) =
      (s.accept (flitAs f .errorReply)).endPart h u f.sts.toNat false false (f.data.getD 0) := by
    refine (hartAnswer_part (f := flitAs f .errorReply) (hart_accept ..) hl hs).trans ?_
    rw [show (flitAs f .errorReply).poison = false from hp]
    rfl
  exact ⟨_, errorReply_turn h2 h5 ht (answer_hart_stays hh (fun _ => ha) hans ((hartBecomes_rstBusy hbec).trans ((trapped_rstBusy ..).trans hb))), hbec⟩

end

end

end

/-! ### Timers (R153) -/

section
variable {s : State} {h : HartId} {c : Hart} {w : UWrite} {u : ULoad} {tag : Nat}

/-- The hart whose writes to a stop, in the tracker and in the store buffer `sb`, have all timed out (R154). -/
def Hart.stopFailed (c : Hart) (w : UWrite) (sb : List SbEntry) : Hart :=
  { c with track := c.track.filter (fun x => x.stop != w.stop), sb := sb,
           late := c.late ++ (c.track.filter fun x => x.stop == w.stop).map fun x => ({ tag := x.tag, pa := x.pa } : LateTag) }

/-- A write that has timed out takes every write to its stop with it, under one record. -/
theorem writeTimeout_eq (s : State) (h : HartId) (w : UWrite) :
    ∃ e, s.writeTimeout h w = (s.setHart h ((s.hart h).stopFailed w (s.sbWithout w.stop (s.hart h).sb))).logErr e := by
  unfold State.writeTimeout
  dsimp only
  split
  · exact ⟨_, rfl⟩
  · exact ⟨_, rfl⟩

theorem writeTimeout_spec (hc : s.hart h = c) : let t := s.writeTimeout h w
    t.time = s.time ∧ (∀ g, g ≠ h → t.hart g = s.hart g) ∧ t.hart h = c.stopFailed w (s.sbWithout w.stop c.sb) := by
  subst hc
  obtain ⟨e, he⟩ := writeTimeout_eq s h w
  dsimp only
  rw [he]
  exact ⟨by rw [logErr_frame, setHart_eq], fun g hg => (hart_logErr ..).trans (hart_setHart_ne _ _ _ _ hg), (hart_logErr ..).trans (hart_setHart_same ..)⟩

theorem hartTimeout_write (hw : ((s.hart h).track.find? fun w => w.tag == tag) = some w) : s.hartTimeout h tag = (s.passTo w.deadline).writeTimeout h w := by
  unfold State.hartTimeout
  simp only [hw]

theorem hartTimeout_part (hs : (s.hart h).solePart u tag) (hw : u.wait = none) : s.hartTimeout h tag =
    ((s.passTo u.deadline).updHart h fun c => { c with late := c.late ++ [{ tag := u.tag, pa := u.pa }] }).endPart h u 0xFF true false 0 := by
  obtain ⟨htrack, hu, htag, hd⟩ := hs
  have hfind := solePart_find ⟨htrack, hu, htag, hd⟩ (p := fun u => u.tag == tag && u.wait.isNone && u.dest != .maint) (by simp [htag, hw, oneReg_ne_maint hd])
  unfold State.hartTimeout
  simp only [find_none_of_any htrack, hfind]

theorem hartTimeout_none (ha : (s.hart h).awaits tag = false) : s.hartTimeout h tag = s := by
  obtain ⟨htrack, hwreqs, huload⟩ := awaits_none ha
  have hfind : ((s.hart h).uload.find? fun u => u.tag == tag && u.wait.isNone && u.dest != .maint) = none := by
    refine List.find?_eq_none.mpr fun u hu => ?_
    have hno := List.any_eq_false.mp huload u hu
    simp only [Bool.and_eq_true] at hno ⊢
    exact fun h => hno ⟨h.1.1, h.2⟩
  unfold State.hartTimeout
  simp only [find_none_of_any htrack, hfind, find_none_of_any hwreqs]

/-- The timer of a hart's access leaves a hart that waits to reset no reset to begin. -/
theorem uncachedTimeout_hart {t : State} (md : Mode) (ht : s.hartTimeout h tag = t) (hb : (t.hart h).rstBusy = false) :
    exec (.uncachedTimeout (.hart h md) tag) s = .next t :=
  congrArg Host.Outcome.next ((congrArg (State.endReset · h) ht).trans (endReset_none hb))

section
variable (md : Mode) (hb : (s.hart h).rstBusy = false)
include hb

theorem uncachedTimeout_write (hw : ((s.hart h).track.find? fun w => w.tag == tag) = some w) :
    ∃ t, exec (.uncachedTimeout (.hart h md) tag) s = .next t ∧ t.time = max s.time w.deadline ∧ (∀ g, g ≠ h → t.hart g = s.hart g) ∧
      t.hart h = (s.hart h).stopFailed w ((s.passTo w.deadline).sbWithout w.stop (s.hart h).sb) := by
  obtain ⟨htime, hothers, hhart⟩ := writeTimeout_spec (w := w) (hart_passTo s w.deadline h)
  have hmax : (s.passTo w.deadline).time = max s.time w.deadline := by
    obtain ⟨c, a, he⟩ := passTo_atTime s w.deadline
    rw [he]
    rfl
  exact ⟨_, uncachedTimeout_hart md (hartTimeout_write hw) (by rw [hhart]; exact hb), htime.trans hmax, fun g hg => (hothers g hg).trans (hart_passTo ..), hhart⟩

theorem uncachedTimeout_part (hs : (s.hart h).solePart u tag) (hw : u.wait = none) : ∃ t, exec (.uncachedTimeout (.hart h md) tag) s = .next t ∧
    hartBecomes ((s.passTo u.deadline).readFail h u.pa 0xFF (u.dest.cause == 7)) t h
      ({ s.hart h with uload := [], late := (s.hart h).late ++ [({ tag := u.tag, pa := u.pa } : LateTag)] }.trapped (isT h) (excep u.dest.cause u.va)) := by
  obtain ⟨-, hu, -, hd⟩ := id hs
  have hc : ((s.passTo u.deadline).updHart h fun c => { c with late := c.late ++ [{ tag := u.tag, pa := u.pa }] }).hart h =
      { s.hart h with late := (s.hart h).late ++ [({ tag := u.tag, pa := u.pa } : LateTag)] } := by
    rw [hart_updHart_same, hart_passTo]
  obtain ⟨honly, hhart⟩ := endPart_failed (sts := 0xFF) hc hu hd (by decide) (by decide) true 0
  refine ⟨_, uncachedTimeout_hart md (hartTimeout_part hs hw) ?_, onlyHart_trans (readFail_onlyHart ..) honly, hhart⟩
  exact (hartBecomes_rstBusy ⟨honly, hhart⟩).trans ((trapped_rstBusy ..).trans hb)

theorem uncachedTimeout_none (ha : (s.hart h).awaits tag = false) : exec (.uncachedTimeout (.hart h md) tag) s = .next s :=
  uncachedTimeout_hart md (hartTimeout_none ha) hb

end

theorem rootTimeout_busy {i : Nat} {a : InAcc} (ha : ((s.iommuSt (i / 3)).inflight.find? fun a => a.tag == rootIo i tag) = some a) :
    s.rootTimeout i tag = ((s.passTo a.deadline).rootEnd i tag).rootFail i tag a 0xFF := by
  unfold State.rootTimeout
  rw [ha]

/-- The timer of system bus access ends it with the timeout's code (R490). -/
theorem uncachedTimeout_sba {d : Nat} (hd : s.sec.sbBusy = some d) : ∃ c a, exec (.uncachedTimeout .sba tag) s =
    .next { s.atTime (max s.time d) c a with sec := { s.sec with sbBusy := none, sberror := 1 } } := by
  obtain ⟨c, a, hpass⟩ := passTo_atTime s d
  refine ⟨c, a, congrArg Host.Outcome.next ?_⟩
  rw [← hpass, hd]
  dsimp only
  rw [hpass]
  rfl

end

/-! ### The masters together -/

/-- Settles O29, master by master: the stop and the node name who takes the answer, and what it does with it is that master's lemma. -/
theorem uncachedAnswersTaken : Obligations.UncachedAnswersTaken := by
  unfold Obligations.UncachedAnswersTaken
  refine ⟨fun s f h hh hb hl => ⟨fun w ht hw h0 => ?_, fun ht ha => writeDone_unawaited hh hb hl ht ha, fun u ht hs h0 hp => readReturn_last hh hb hl ht hs h0 hp,
    fun ha ht h2 h5 => ⟨fun w hw => errorReply_tracked hh hb hl ha ht h2 h5 hw, fun u hs h4 hp => errorReply_last hh hb hl ha ht h2 h5 hs h4 hp⟩⟩,
    fun s f a m ha hm htag h2 h5 ht => ?_, fun s f hh => ⟨fun e l hk ht he h0 hp hv hl => ?_, fun a hk hf => ⟨fun ht => ?_, fun ht => ?_, fun ht h2 h5 ha => ?_⟩,
      fun x hk hs hx hm => ⟨fun hd ht => ?_, fun hd hw hc he htag h0 ht => ?_⟩, fun hk hb => ⟨fun ht h0 => ?_, fun ht h0 => ?_, fun ht h2 h5 ha => ?_⟩⟩,
    fun s f hsts => congrArg Host.Outcome.next (if_pos hsts),
    fun s tag h md hb => ⟨fun w hw => uncachedTimeout_write md hb hw, fun u hs hw => uncachedTimeout_part md hb hs hw, uncachedTimeout_none md hb⟩,
    fun s tag => ⟨fun i a ha => congrArg Host.Outcome.next (rootTimeout_busy ha), fun d hd => ?_, rfl, fun p => rfl⟩⟩
  · refine ⟨_, writeDone_tracked hh hb hl ht hw h0, hart_setHart_same .., fun g hg => (hart_setHart_ne _ _ _ _ hg).trans (hart_accept ..), ?_⟩
    rw [setHart_eq]
    rfl
  · have hany : ((s.mshrOf a (lineOf f.addr.toNat)).any fun m => m.tag == f.tag.toNat) = true := by
      rw [hm]
      exact beq_iff_eq.mpr htag
    exact ⟨fun hop => errorReply_turn h2 h5 ht ((answer_agent (f := flitAs f .errorReply) rfl ha hany).trans (agentError_prefetch hm hop)),
      fun hr ho => ⟨_, errorReply_turn h2 h5 ht ((answer_agent (f := flitAs f .errorReply) rfl ha hany).trans (agentError_access hm hr ho)), mshr_putMshr_same .., rfl⟩⟩
  · obtain ⟨vc, hans⟩ := homeAnswer_forwards (s := s.accept (flitAs f .readReturn)) (f := flitAs f .readReturn) he h0 hp hv hl
    refine ⟨_, _, readReturn_turn ht ((answer_link (f := flitAs f .readReturn) hh (readReturn_no_error f) hk).trans hans), rfl, enqueue_queue .., ?_, Nat.mod_eq_of_lt hp, rfl, rfl, rfl, rfl⟩
    simp [State.homePkt]
  · exact readReturn_turn ht ((answer_root (f := flitAs f .readReturn) hh (readReturn_no_error f) hk).trans (rootAnswer_read hf rfl))
  · exact writeDone_turn ht ((answer_root (f := flitAs f .writeDone) hh (writeDone_no_error f) hk).trans (rootAnswer_write hf rfl))
  · exact errorReply_turn h2 h5 ht ((answer_root (f := flitAs f .errorReply) hh (fun _ => ha) hk).trans (rootAnswer_error hf rfl))
  · exact readReturn_turn ht ((answer_slice (f := flitAs f .readReturn) hh (readReturn_no_error f) hk hs).trans (sliceAnswer_data rfl hx hm hd))
  · exact writeDone_turn ht ((answer_slice (f := flitAs f .writeDone) hh (writeDone_no_error f) hk hs).trans (sliceAnswer_written rfl hx hm hd hw hc he htag h0))
  · exact readReturn_turn ht ((answer_sba (f := flitAs f .readReturn) hh (readReturn_no_error f) hk).trans (sbaAnswer_read hb h0 rfl))
  · exact writeDone_turn ht ((answer_sba (f := flitAs f .writeDone) hh (writeDone_no_error f) hk).trans (sbaAnswer_write hb h0 rfl))
  · exact errorReply_turn h2 h5 ht ((answer_sba (f := flitAs f .errorReply) hh (fun _ => ha) hk).trans (sbaAnswer_error hb (sts_ne_zero h2)))
  · obtain ⟨c, a, ht⟩ := uncachedTimeout_sba (tag := tag) hd
    exact ⟨_, ht, rfl, rfl⟩

end Sys2Proof.Machine
end
